-- ==== Sys2Proof/Word.lean ====
section
/-!
DEFINITION. The word types: every register and bus word of the device is 64 bits wide (spec/00, R4), memory is
made of bytes.
-/

namespace Sys2Proof

/-- A 64-bit word (spec/00, R4; spec/11, R281). -/
abbrev Word := BitVec 64

/-- A byte of memory. -/
abbrev Byte := BitVec 8

end Sys2Proof
end

