-- ==== Sys2Proof/Syntax.lean ====
section
/-!
DEFINITION. The commands the block takes, as data: one constructor per row of spec/opcode_table.json, and the
operand types they carry. What a command measures or receives (a current, a voltage, a frame, a verdict) is an
operand: the environment that queues the command supplies it (log entry 6).
-/

namespace Sys2Proof

/-- The endpoints that make bus accesses (spec/00, R17), and the bootstrap sequencer, which has no endpoint number and
is free of owner rules (spec/13, R348). -/
inductive Master where
  | zc0 | zc1 | zc2 | zc3 | zs | zk | host | bsq
  deriving DecidableEq, Repr

/-- The 3-bit endpoint number (spec/00, R17). -/
def Master.num : Master → Nat
  | .zc0 => 1 | .zc1 => 2 | .zc2 => 3 | .zc3 => 4 | .zs => 5 | .zk => 6 | .host => 7 | .bsq => 0

/-- The part of a register an access reaches: all 64 bits, the low half or the high half (spec/00, R4 and R5). -/
inductive Access where
  | w64 | lo32 | hi32
  deriving DecidableEq, Repr

/-- Which of a handle's owner-written registers a staging write names (spec/01, R24). -/
inductive StagingReg where
  | slot (i : Fin 64)
  | ctl
  | time
  deriving DecidableEq, Repr

/-- The two feed groups (spec/02, R55). -/
inductive Feed where
  | a | b
  deriving DecidableEq, Repr

/-- What the sense of a high-side channel, or of both members of a pair, shows (spec/02, R71): the current in mA that the
load draws or, limited, would draw, and the time in ns for which it has been limited. -/
structure HswLoad where
  n : Fin 64
  load : BitVec 32
  time : BitVec 32 := 0
  deriving DecidableEq, Repr

/-- What the P-die measures of one high-side channel over a model step (spec/02, R65, R73, R80): the mean of the
squared current in (1/256 A)², the root-mean-square current in 1/256 A, the conduction loss in mW and the junction
temperature in 1/64 °C. -/
structure HswSense where
  ms : Nat
  irms : BitVec 16
  ploss : BitVec 16
  tj : BitVec 16
  deriving DecidableEq, Repr

/-- What the P-die measures of one valve channel over a coil-model step (spec/04, R131): the mean of the squared
coil current in (5 mA)² and the coil current in 5 mA. -/
structure VlvSense where
  ms : Nat
  imeas : BitVec 12
  deriving DecidableEq, Repr

/-- A commit notice as it reaches the TXN block (spec/01, R42). -/
structure Notice where
  group : BitVec 16
  time : BitVec 32
  origin : BitVec 14
  nodes : List (BitVec 16)
  deriving DecidableEq, Repr

/-- The output blocks that have channels tests and trips act on, with the block codes of R20 (spec/01). -/
inductive OutBlock where
  | hsw | vlv | led | dout
  deriving DecidableEq, Repr

/-- The evidence an off-state check or a self-test gathers, coded as the block's DSTATE; `none` is no piece. -/
abbrev Evidence := Option (Fin 16)

/-- The kinds of evidence a lit sink gathers (spec/05, R149). -/
inductive SinkKind where
  | good | stringOpen | stringShort | dropout
  deriving DecidableEq, Repr

/-- The registers of a counter whose writes take effect at once or at the next period event (spec/07, R195). -/
inductive GtReg where
  | period | cmpA | cmpB
  deriving DecidableEq, Repr

/-- The DLC of a data length (ISO 11898-1; spec/08, R211, R219); XL frames have none of four bits. -/
def dlcOf (fmt len : Nat) : Nat :=
  if fmt == 3 then 0
  else if len ≤ 8 then len
  else [12, 16, 20, 24, 32, 48, 64].findIdx (len ≤ ·) + 9

/-- A CAN frame (spec/08, R211, R216, R217): 1 classical, 2 FD, 3 XL; IDE, RTR, BRS; the identifier; the XL fields, 0
for the other types; the data bytes; the DLC, which a remote frame carries without data and a classical frame of 8 bytes
may give as 9 to 15; the ESI of an FD frame. -/
structure CanFrame where
  fmt : BitVec 2
  ide : Bool
  rtr : Bool
  brs : Bool
  id : BitVec 29
  sdt : Byte
  sec : Bool
  vcid : Byte
  af : BitVec 32
  data : List Byte
  dlc : BitVec 4 := BitVec.ofNat 4 (dlcOf fmt.toNat data.length)
  esi : Bool := false
  deriving DecidableEq, Repr

/-- An Ethernet frame (spec/09, R242, R243): addresses, C-tag as PCP and VID, the EtherType, and the bytes that follow it without
the FCS. An S-tag is the EtherType 0x88A8, and what it tags is payload. -/
structure EthFrame where
  da : BitVec 48
  sa : BitVec 48
  tag : Option (BitVec 3 × BitVec 12)
  etype : BitVec 16
  payload : List Byte
  deriving DecidableEq, Repr

/-- What the radios do in one run of a ranging script that serves `radio` (spec/10, R269): for each WAITIRQ in turn the µs
until the interrupt it waits for, none where it never comes, and for each READ in turn the bytes it returns. -/
structure RadioRun where
  radio : Fin 4
  irqs : List (Option Nat)
  reads : List (List Byte)
  deriving DecidableEq, Repr

/-- A frame that carries a command segment (spec/16, R408, R412). -/
inductive Carrier where
  | can (f : CanFrame)
  | eth (f : EthFrame)
  deriving DecidableEq, Repr

/-- Where the message comes from that the monitor takes (spec/16, R408, R409): a network port, or a mailbox to ZS. -/
inductive CmdSrc where
  | net
  | mbox (m : Fin 16)
  deriving DecidableEq, Repr

/-- What a selective-wake receiver sees (spec/08, R228): a wake-up pattern, a frame received without error and whether it
came at the rate of SWRATE, or a frame received with an error. -/
inductive SwEvent where
  | pattern
  | frame (f : CanFrame) (atRate : Bool)
  | errored
  deriving DecidableEq, Repr

/-- How a LIN response ends (spec/08, R226): with every byte received, or with a bit or a framing error. The channel
itself checks the checksum. -/
inductive LinErr where
  | good | bit | framing
  deriving DecidableEq, Repr

/-- What the ECC of a memory word an access reads finds: no error, a corrected single-bit error, or an error that cannot
be corrected (spec/13, R330, R331). -/
inductive MemErr where
  | good | single | double
  deriving DecidableEq, Repr

/-- A frame of the host port: its command byte, its address, and how many bits have arrived when HOST_CS_N rises (spec/18,
R458). -/
structure HostFrame where
  cmd : Byte
  addr : BitVec 40
  bits : Nat
  deriving DecidableEq, Repr

/-- A transmit request: its buffer, and what the ECC of the word with the frame's LEN finds (spec/08, R219; spec/13, R330). -/
structure CanReq where
  buf : Fin 128
  ecc : MemErr
  deriving DecidableEq, Repr

/-- The start of a frame on a CAN channel: the transceiver delay that R214 measures in it, and what the ECC of the buffer's
words finds (spec/08, R214, R219; spec/13, R330). -/
structure CanStart where
  chan : Fin 8
  tdc : BitVec 8
  ecc : MemErr
  deriving DecidableEq, Repr

/-- Where an error on a CAN bus stands: before the end of the arbitration field, and at the res bit of a frame (spec/08,
R211, R220). -/
structure CanErrorAt where
  inArb : Bool
  resBit : Bool
  deriving DecidableEq, Repr

/-- What a lookup of the gateway reads: the route entries with a double-bit error (spec/09, R256), and what the ECC of a
receive descriptor finds (spec/13, R330). -/
structure LookupRead where
  bad : List (Fin 4096)
  ecc : MemErr
  deriving DecidableEq, Repr

/-- An access to a domain that may be off (spec/14, R368), with what the ECC of its bytes finds (spec/13, R330). -/
inductive DemandOp where
  | read (ecc : MemErr)
  | write (v : BitVec 64) (ecc : MemErr)
  deriving DecidableEq, Repr

/-- One execution of an instruction: the core, by its endpoint less one, and what the ECC finds of the fetched word, of a
second word in another SRAM word, and of the entries of a table walk (spec/11, R279, R288, R303; spec/13, R330). -/
structure CoreRun where
  core : Fin 6
  fetch : MemErr
  second : MemErr
  walk : MemErr
  deriving DecidableEq, Repr

/-- A data or address register (spec/11, R281). -/
inductive GenReg where
  | d (i : Fin 32)
  | a (i : Fin 16)
  deriving DecidableEq, Repr

/-- The kinds of shift (spec/11, R289). -/
inductive ShiftKind where
  | left | right | arith
  deriving DecidableEq, Repr

/-- The second operand of an address instruction (spec/11, R282, R289). -/
inductive AddrSrc where
  | d (i : Fin 32)
  | a (i : Fin 16)
  | imm (v : BitVec 16)
  deriving DecidableEq, Repr

/-- The address of a load or store, in M format (spec/11, R288): a base with a displacement, or with a scaled index and a
displacement. -/
inductive MemAddr where
  | disp (base : Fin 16) (v : BitVec 14)
  | indexed (base : Fin 16) (idx : Fin 32) (sc : Fin 4) (v : BitVec 9)
  deriving DecidableEq, Repr

/-- The width of a load or store of a register (spec/11, R289). -/
inductive MemWidth where
  | b1 | b2 | b4 | b8
  deriving DecidableEq, Repr

/-- The registers of a decimal instruction with two sources, in the D or the AC form (spec/11, R291). -/
inductive Dec3 where
  | d (d n m : Fin 32)
  | ac (d n m : Fin 4)
  deriving DecidableEq, Repr

/-- Two registers of one class (spec/11, R291). -/
inductive Dec2 where
  | d (x y : Fin 32)
  | ac (x y : Fin 4)
  deriving DecidableEq, Repr

/-- DCVT takes its source from a D register in both forms (spec/11, R291). -/
inductive DecCvt where
  | d (d n : Fin 32)
  | ac (d : Fin 4) (n : Fin 32)
  deriving DecidableEq, Repr

/-- BCVT writes a D register in both forms (spec/11, R291). -/
inductive BinCvt where
  | d (d n : Fin 32)
  | ac (d : Fin 32) (n : Fin 4)
  deriving DecidableEq, Repr

/-- What TLBINV invalidates (spec/11, R304). -/
inductive TlbScope where
  | all
  | asid (n : Fin 32)
  | va (n : Fin 32)
  deriving DecidableEq, Repr

/-- The commands of the block: one constructor per row of spec/opcode_table.json, in the table's order, each with
the operands the command's rule reads. -/
inductive Instr where
  /-- TXN_ALLOC_READ (R21). A read of TXN_ALLOC allocates the lowest-numbered FREE handle to the reading endpoint, or
  returns 0xFF if none is FREE. -/
  | txnAllocRead (m : Master) (a : Access)
  /-- TXN_FREE_WRITE (R25). Writing a handle number to TXN_FREE returns that handle to FREE unless it is validating,
  waiting, armed or applied. -/
  | txnFreeWrite (m : Master) (h : Fin 32)
  /-- TXN_STAGING_WRITE (R24). The owner writes a staging slot, TXN_CTLh or TXN_TIMEh; on a DONE or REFUSED handle this
  returns it to STAGING. -/
  | txnStagingWrite (m : Master) (h : Fin 32) (r : StagingReg) (v : BitVec 64)
  /-- COMMIT (R28). Writing COMMIT on a STAGING handle sets its items PENDING and starts validation of slots 0 to COUNT
  − 1. -/
  | commit (m : Master) (h : Fin 32)
  /-- TXN_ARMED (R34). Every item of a validated transaction has reached its P-die shadow, and the handle enters ARMED. -/
  | txnArmed (h : Fin 32)
  /-- SHADOW_DISCARD (R35). The die interface reports an error during a shadow transfer; the P-die discards the shadows
  and the transaction is refused ABORTED_FAULT. -/
  | shadowDiscard (h : Fin 32) (crc : Bool)
  /-- STITCH_SHIFT_END (R159). A stitch chain finishes shifting its frame, with readback compare and frame ECC handled
  during the shift. -/
  | stitchShiftEnd (k : Fin 2) (returned : Nat) (ecc : Bool)
  /-- POINT_OF_NO_RETURN (R38). A timed transaction reaches its point of no return, where the time-error test runs again. -/
  | pointOfNoReturn (h : Fin 32)
  /-- COMMIT_EDGE (R39). All items of an armed transaction take effect on one CK_PWR edge, latching stitch chains and
  resolving same-edge conflicts. -/
  | commitEdge (hs : List (Fin 32))
  /-- ITEM_WINDOW_END (R47). An item's 100 µs window after its action ends, and the item ends OK or LATE, with the
  handle entering DONE when all items are final. -/
  | itemWindowEnd (h : Fin 32) (j : Fin 64)
  /-- TXN_CANCEL (R50). Writing CANCEL refuses the handle with items SUPERSEDED before the point of no return, or marks
  items LATE after it. -/
  | txnCancel (m : Master) (h : Fin 32)
  /-- TXN_NTX_SEND (R45). Writing SEND in TXN_NTX sends a commit notice on the configured ports and by internal loopback. -/
  | txnNtxSend (m : Master) (v : BitVec 64)
  /-- COMMIT_NOTICE_RX (R43). A commit notice reaches the TXN block, and every waiting handle of its group takes its
  time and proceeds to validation. -/
  | commitNoticeRx (port : Fin 32) (n : Notice)
  /-- FEED_UNDERVOLTAGE (R57). A feed group falls below 6.0 V; its channels stop conducting, keep their committed state,
  and FS064 or FS065 is raised. -/
  | feedUndervoltage (f : Feed)
  /-- FEED_RESTORE (R57). A feed has stayed at 6.0 V or above for 1 ms, and its committed-on channels switch back on
  under the inrush rules. -/
  | feedRestore (f : Feed)
  /-- WIRE_MODEL_STEP (R65). Each channel's wire thermal model steps, updating bundle heat, T_eff and wire temperature. -/
  | wireModelStep (tdie : BitVec 16) (sense : List HswSense)
  /-- SC_TRIP (R71). Current limiting lasts past its shutdown time, so the channel trips with cause SC. -/
  | scTrip (x : HswLoad)
  /-- OC_TRIP (R71). The current exceeds the OC threshold, so the channel trips with cause OC. -/
  | ocTrip (x : HswLoad)
  /-- OC_BLANK_END (R72). The OC blanking time after a turn-on ends, and the OC comparator acts again. -/
  | ocBlankEnd (n : Fin 64)
  /-- OT_TRIP (R73). A conducting channel's junction reaches 170 °C, so it trips with cause OT. -/
  | otTrip (n : Fin 64)
  /-- RETRY_ATTEMPT (R75). A retry delay ends and the channel is switched back on with RETRY_CNT increased, if still
  committed ON. -/
  | retryAttempt (n : Fin 64)
  /-- RETRY_COUNT_CLEAR (R78). A channel has been in service for 1.0 s without a break, trip or excess temperature, so
  RETRY_CNT returns to 0. -/
  | retryCountClear (n : Fin 64)
  /-- RCLR (R78). Writing HSW_CMDn.RCLR clears RETRY_CNT and EXHAUST of the channel. -/
  | rclr (m : Master) (n : Fin 64)
  /-- TCLR (R79). Writing HSW_CMDn.TCLR clears the channel's TRIPS count. -/
  | tclr (n : Fin 64)
  /-- AMB_STALE (R68). An HSW_AMBk not written for 10 s becomes stale, reads as 125 °C and sets HSW_IRQ.AMB_STALE. -/
  | ambStale (k : Fin 4)
  /-- GOVERNOR_MEASURE (R80). The dissipation governor completes P_MEAS for the last 1 ms and compares it with BUDGET. -/
  | governorMeasure (pmeas : BitVec 16) (ia ib : BitVec 8)
  /-- INRUSH_STEP (R84). Each 100 µs the inrush schedule starts the head channel of a feed queue if the inrush limit
  allows. -/
  | inrushStep
  /-- REVERSE_CURRENT_OFF (R402). A conducting channel carries reverse current past its limit for 5 µs and turns off
  without a trip, raising FS271. -/
  | reverseCurrentOff (n : Fin 64)
  /-- REVERSE_CURRENT_RECOVER (R402). The output has been below its feed for 1 ms, and the channel conducts again. -/
  | reverseCurrentRecover (n : Fin 64)
  /-- OVERVOLTAGE_START (R386). VBAT stays above 60 V for 10 µs, so turn-ons are held, OV is set and FS270 is raised. -/
  | overvoltageStart
  /-- OVERVOLTAGE_END (R386). VBAT has stayed at or below 58 V for 1 ms, and held turn-ons start. -/
  | overvoltageEnd
  /-- SA_GO (R89). Writing GO starts a software-triggered sense ADC sequence. -/
  | saGo (a : Fin 4)
  /-- SA_COUNTER_TRIGGER (R89). A counter event starts a sense ADC sequence under TRIG 0x2. -/
  | saCounterTrigger (a : Fin 4)
  /-- SA_TIME_TRIGGER (R89). NTU_NS reaches PDI_SATIMEa and starts a sense ADC sequence under TRIG 0x3. -/
  | saTimeTrigger (a : Fin 4)
  /-- SA_TIME_WRITE (R89). A write of PDI_SATIMEa checks the time and sets TERR when it lies outside the accepted range. -/
  | saTimeWrite (a : Fin 4) (v : BitVec 32)
  /-- SA_CONVERSION_DONE (R90). A sense ADC conversion ends and writes its result with VALID and STAMP. -/
  | saConversionDone (a : Fin 4) (value : BitVec 12)
  /-- SA_CAL_FAIL (R91). A converter fails calibration and leaves the rotation; with four left, DEGRADED is set and
  FS073 is raised. -/
  | saCalFail (p : Fin 5)
  /-- ONDIAG_WINDOW_END (R92). The 40 µs on-state window ends and gives one piece of evidence from the mean current. -/
  | ondiagWindowEnd (n : Fin 64) (iwin vout feed : BitVec 16)
  /-- OFFDIAG_START (R94). Off-state diagnosis starts in an off gap once every DPER × 10 ms. -/
  | offdiagStart (n : Fin 64)
  /-- OFFDIAG_RESULT (R93). Off-state diagnosis ends after 150 µs and gives one piece of evidence. -/
  | offdiagResult (n : Fin 64) (vOff vOn : BitVec 16) (own : Bool)
  /-- DIAG_STRETCH (R97). A counter-sourced channel with STRETCH = 1 stretches one short on-pulse in 256 periods to 40 µs. -/
  | diagStretch (n : Fin 64)
  /-- HSW_DCLR (R95). Writing HSW_DSTATn.DCLR sets DSTATE, EVKIND and EVID to 0. -/
  | hswDclr (m : Master) (n : Fin 64)
  /-- HSW_TEST_GO (R99). Writing GO in an HSW self-test slot submits a test request. -/
  | hswTestGo (m : Master) (k : Fin 8) (v : BitVec 64)
  /-- VLV_TEST_GO (R135). Writing GO in a VLV self-test slot submits a valve test request. -/
  | vlvTestGo (m : Master) (k : Fin 4) (v : BitVec 64)
  /-- LED_TEST_GO (R151). Writing GO in a LED self-test slot submits a sink test request. -/
  | ledTestGo (m : Master) (k : Fin 4) (v : BitVec 64)
  /-- DOUT_TEST_GO (R187). Writing GO in a DOUT self-test slot submits a field-output test request. -/
  | doutTestGo (m : Master) (k : Fin 2) (v : BitVec 64)
  /-- TEST_GAP_START (R100). A gap of the needed kind arrives and a deferred self-test runs. -/
  | testGapStart (b : OutBlock) (k : Fin 8)
  /-- TEST_DONE (R100). A self-test ends and its request ends OK with its RESULT. -/
  | testDone (b : OutBlock) (k : Fin 8) (result : BitVec 4)
  /-- TEST_DEADLINE_EXPIRE (R100). DEADLINE ms pass with no gap, and the test request ends EXPIRED. -/
  | testDeadlineExpire (b : OutBlock) (k : Fin 8)
  /-- LINK_CRC_ERROR (R102). A PDI frame fails its CRC, LINK_ERR counts it, and a non-item frame is sent again. -/
  | linkCrcError
  /-- LDIE_LOST (R103). The P-die sees 2 µs with no valid frame or announcement, declares the L-die lost, clears LINK_UP
  and records FS070. -/
  | ldieLost
  /-- LINK_RESTORE (R103). The link carries valid frames again, LINK_UP sets and held events are flagged. -/
  | linkRestore
  /-- LINK_DOWN_SEEN (R436). The L-die sees 2 µs with no valid frame and raises FS075. -/
  | linkDownSeen
  /-- BASTING_HOLD_EXPIRE (R107). HOLD_WIN ms pass with no matching claim, so the hold ends, the limp map is applied and
  FS071 is raised. -/
  | bastingHoldExpire
  /-- LIMP_N_ASSERT (R109). LIMP_N stays low for 100 µs and triggers the limp map. -/
  | limpNAssert
  /-- LIMP_RELEASE (R111). Writing PDI_CMD.RELEASE releases the limp map when LIMP_N is high, the link is up and neither
  S3 nor S4 holds. -/
  | limpRelease
  /-- BOOST_START (R125). With no channel of the domain boosting and VBST ready, the head of the boost queue starts its
  BOOST. -/
  | boostStart (b : Fin 4) (vbst : BitVec 16)
  /-- BOOST_END (R121). A boost ends when the coil current reaches BOOST_I or BOOST_TMAX passes, and the channel enters
  PEAK. -/
  | boostEnd (c : Fin 24) (reached : Bool) (imeas : BitVec 12) (tboost : BitVec 16)
  /-- PEAK_END (R121). PEAK_T passes and the valve channel enters HOLD. -/
  | peakEnd (c : Fin 24)
  /-- HOLD_TIME_END (R122). HOLD_T passes and the valve channel enters RELEASE with its committed state released. -/
  | holdTimeEnd (c : Fin 24)
  /-- VALVE_RELEASE_DONE (R121). The release current falls below 20 mA and the valve channel goes OFF. -/
  | valveReleaseDone (c : Fin 24)
  /-- DEFER_EXPIRE (R126). A queued valve item passes its defer limit, leaves the queue and ends EXPIRED. -/
  | deferExpire (c : Fin 24)
  /-- CLAMP_ENERGY_LIMIT (R123). The clamp energy of a release reaches its limit, and the channel changes to freewheel. -/
  | clampEnergyLimit (c : Fin 24)
  /-- VBST_OVERVOLTAGE (R120). VBST exceeds 62 V, stopping the regulator, setting OV and raising FS108. -/
  | vbstOvervoltage (vbst : BitVec 16)
  /-- VBST_UNDERVOLTAGE (R120). With BEN = 1, VBST stays below VMIN for 10 ms, setting UV and raising FS108. -/
  | vbstUndervoltage (vbst : BitVec 16)
  /-- COIL_MODEL_STEP (R131). Each channel's coil thermal model steps, applying the reduction and refusal limits. -/
  | coilModelStep (tdie : BitVec 16) (sense : List VlvSense)
  /-- COIL_RMEAS (R131). After each 10 ms in HOLD, the coil resistance is measured and T_c is reset from it. -/
  | coilRmeas (c : Fin 24) (rmeas : BitVec 16)
  /-- VLV_OC_TRIP (R133). A valve channel's current exceeds its OC limit and it trips off through the clamp. -/
  | vlvOcTrip (c : Fin 24)
  /-- VLV_FEED_TRIP (R133). A bank feed current exceeds 30 A for 10 µs, tripping every channel of the bank or pair and
  starting the feed-trip wait. -/
  | vlvFeedTrip (b : Fin 4)
  /-- FEED_TRIP_WAIT_END (R133). The 100 ms feed-trip wait ends and queued boosts may start. -/
  | feedTripWaitEnd (b : Fin 4)
  /-- CLAMP_OT_TRIP (R133). A conducting clamp reaches 170 °C and the channel turns off through freewheel. -/
  | clampOtTrip (c : Fin 24)
  /-- VLV_OT_TRIP (R133). A conducting valve switch reaches 170 °C and the channel turns off through freewheel. -/
  | vlvOtTrip (c : Fin 24)
  /-- VLV_OFFDIAG (R134). The valve off-state check runs in an off gap once every 100 ms and gives evidence. -/
  | vlvOffdiag (c : Fin 24) (lowOff lowOn : Bool)
  /-- HOLD_LOW_DETECT (R134). A hold or peak current stays below 90 % of target at full duty for 10 ms, giving HOLD_LOW
  evidence. -/
  | holdLowDetect (c : Fin 24)
  /-- VLV_DCLR (R134). Writing VLV_DIAGc.DCLR sets the valve DSTATE to NONE. -/
  | vlvDclr (m : Master) (c : Fin 24)
  /-- FADE_STEP (R146). A fade step takes effect, and step 256 ends the fade and sets LED_FDONE. -/
  | fadeStep (n : Fin 48)
  /-- VLED_TRACK_STEP (R142). Every 100 µs the VLED rail is stepped from the lowest qualifying sink voltage. -/
  | vledTrackStep (vbat vled itot : BitVec 16) (vsink imeas : List (BitVec 16))
  /-- VLED_OVERVOLTAGE (R143). VLED stays above VMAX + 2.0 V for 100 µs, turning the buck off and raising FS160. -/
  | vledOvervoltage (vled : BitVec 16)
  /-- VLED_OV_RECOVER (R143). VLED falls to VMAX after an over-voltage and the buck runs again. -/
  | vledOvRecover (vled : BitVec 16)
  /-- VLED_UNDERVOLTAGE (R143). VLED stays below 2.0 V for 1 ms while a sink conducts, raising FS160. -/
  | vledUndervoltage (vled : BitVec 16)
  /-- VLED_OVERCURRENT (R143). The buck current stays at its limit for 1 ms, raising FS160. -/
  | vledOvercurrent
  /-- SINK_FOLDBACK (R148). A sink junction rises above 150 °C and its current folds back. -/
  | sinkFoldback (n : Fin 48) (tj : BitVec 16)
  /-- SINK_EVIDENCE (R149). A sink condition holds for its time and gives a piece of evidence, changing DSTATE after two
  in a row. -/
  | sinkEvidence (n : Fin 48) (k : SinkKind)
  /-- LED_DCLR (R149). Writing LED_DIAGn.DCLR sets DSTATE, EVKIND and EVID to 0. -/
  | ledDclr (m : Master) (n : Fin 48)
  /-- MATRIX_SLOT (R153). A matrix line slot starts with dead time and pre-charge, then drives the line. -/
  | matrixSlot (low : List (Fin 24))
  /-- MATRIX_LINE_OC (R156). A line current above 4.5 A for 2 µs stops the scan, sets MSTOP and LOC and raises FS161. -/
  | matrixLineOc
  /-- MRST (R156). Writing LED_MCMD.MRST restarts the scan at line 0 and clears LOC and LED_MOPENk. -/
  | mrst (m : Master)
  /-- FRAME_WRITE (R161). A write to a stitch frame buffer is stored, or ignored with FRAME_VIOL when the buffer is
  armed or the writer is not allowed. -/
  | frameWrite (m : Master) (k : Fin 2) (f : Fin 16) (w : Fin 64) (a : Access) (v : BitVec 64)
  /-- DIN_SAMPLE (R172). A switch input is sampled, classed and applied to its filter counter and state. -/
  | dinSample (n : Fin 96) (pin vbat : BitVec 16) (wetOk : Bool)
  /-- DIN_CONFIG_WRITE (R174). A write that changes PUL, WET or WBEN returns the input to INIT, and one that changes
  thresholds clips COUNT. -/
  | dinConfigWrite (m : Master) (n : Fin 96) (r : Fin 3) (a : Access) (v : BitVec 64)
  /-- DOUT_REFRESH (R182). A write of DOUT_RFRn is judged on the P-die, advancing SEQ and restarting the window when
  accepted. -/
  | doutRefresh (m : Master) (n : Fin 16) (seq : BitVec 4)
  /-- REFRESH_WINDOW_EXPIRE (R183). A field output's refresh window expires, switching it OFF with cause SILENT and
  raising FS168 + n. -/
  | refreshWindowExpire (n : Fin 16)
  /-- DOUT_OC_TRIP (R185). A field output current above 1.2 A for 10 µs trips it off and raises FS184. -/
  | doutOcTrip (n : Fin 16)
  /-- DOUT_OT_TRIP (R185). A field output junction reaches 170 °C, tripping it off and raising FS184. -/
  | doutOtTrip (n : Fin 16)
  /-- DOUT_OFFDIAG_START (R186). A field output off-state check starts once every 100 ms in an off gap. -/
  | doutOffdiagStart (n : Fin 16)
  /-- DOUT_OFFDIAG_RESULT (R186). The two-phase field output check ends and gives one piece of evidence. -/
  | doutOffdiagResult (n : Fin 16) (v1 v2 vbat : BitVec 16)
  /-- DOUT_DCLR (R186). Writing DOUT_STATn.DCLR sets the field output DSTATE to NONE. -/
  | doutDclr (m : Master) (n : Fin 16)
  /-- GT_START (R190). GTn_CMD.START starts the counter with its prescaler at 0. -/
  | gtStart (m : Master) (g : Fin 32)
  /-- GT_STOP (R190). GTn_CMD.STOP stops the counter, keeping prescaler and count. -/
  | gtStop (m : Master) (g : Fin 32)
  /-- GT_RESET (R193). GTn_CMD.RESET sets the count and prescaler to 0 and keeps the run state. -/
  | gtReset (m : Master) (g : Fin 32)
  /-- CAPNOW (R196). GTn_CMD.CAPNOW captures the count. -/
  | capnow (m : Master) (g : Fin 32)
  /-- GT_GSTART (R193). Writing GT_GSTART starts the named counters on one CK_PER edge. -/
  | gtGstart (m : Master) (mask : BitVec 32)
  /-- GT_GSTOP (R193). Writing GT_GSTOP stops the named counters on one CK_PER edge. -/
  | gtGstop (m : Master) (mask : BitVec 32)
  /-- GT_PERIOD_EVENT (R191). A tick takes the count from PER_eff − 1 to 0 and raises the period event with its actions. -/
  | gtPeriodEvent (g : Fin 32)
  /-- GT_COMPARE_EVENT (R191). A tick brings the count equal to CMPA or CMPB and raises the compare event with its
  actions. -/
  | gtCompareEvent (g : Fin 32) (b : Bool)
  /-- GT_LINK_ACTION (R194). A LNK action takes effect on the linked counter on the next CK_PER edge. -/
  | gtLinkAction (g : Fin 32)
  /-- GT_TRIGGER_ACTION (R194). A TACT action takes effect on the first CK_PER edge at or after an NTU trigger's leading
  edge. -/
  | gtTriggerAction (g : Fin 32)
  /-- GT_CAPTURE (R196). A selected capture event stores the count in the pending slot, setting CAPF or OVERRUN. -/
  | gtCapture (g : Fin 32) (rising : Bool)
  /-- GT_CAP_READ (R197). A read of GTn_CAP moves a full slot into the read value and clears CAPF. -/
  | gtCapRead (m : Master) (g : Fin 32) (a : Access)
  /-- GT_PER_CMP_WRITE (R195). A write to the period or a compare takes effect at once or at the next period event, as
  PUPD sets. -/
  | gtPerCmpWrite (m : Master) (g : Fin 32) (r : GtReg) (a : Access) (v : BitVec 64)
  /-- SPLIT_READ_LOW (R6). A 32-bit low-half read of a split register returns the low half and copies the high half into
  the master's shadow. -/
  | splitReadLow (m : Master) (a : BitVec 40)
  /-- SPLIT_READ_HIGH (R6). A 32-bit high-half read returns the master's shadow, or the live high half when it holds none. -/
  | splitReadHigh (m : Master) (a : BitVec 40)
  /-- SPLIT_WRITE_LOW (R7). A 32-bit low-half write to a split register is held in the master's write shadow. -/
  | splitWriteLow (m : Master) (a : BitVec 40) (v : BitVec 32)
  /-- SPLIT_WRITE_HIGH (R7). A 32-bit high-half write updates both halves in one cycle, combined with the held or
  current low half. -/
  | splitWriteHigh (m : Master) (a : BitVec 40) (v : BitVec 32)
  /-- NTU_WRAP (R200). NTU_NS wraps, WRAPS increases and NTU_STAT.WRAP is set. -/
  | ntuWrap
  /-- NTU_INC_WRITE (R201). A write of NTU_INC takes effect on the next CK_NET edge, bounded and keeping the fraction. -/
  | ntuIncWrite (m : Master) (a : Access) (v : BitVec 64)
  /-- NTU_SLEW (R202). NTU_ADJ GO with STEP = 0 starts slewing the time by OFFSET. -/
  | ntuSlew (m : Master) (off : BitVec 32)
  /-- NTU_SLEW_DONE (R202). The slew offset is used up and ADJ_LEFT reads 0. -/
  | ntuSlewDone
  /-- NTU_STEP (R202). NTU_ADJ GO with STEP = 1 adds OFFSET to the extended time on the next edge, or is refused when a
  timed wait is armed. -/
  | ntuStep (m : Master) (off : BitVec 32)
  /-- NTU_SYNC_WRITE (R203). The time keeper writes TERR and SYNC into NTU_SYNC. -/
  | ntuSyncWrite (m : Master) (a : Access) (v : BitVec 64)
  /-- NTU_HOLDOVER_EXPIRE (R203). NTU_SYNC is not written for HOLDMS ms, so SYNC clears and SYNCLOST is set. -/
  | ntuHoldoverExpire
  /-- NTU_CAPTURE (R205). A selected TS_INk edge captures the extended time into NTU_CAPk. -/
  | ntuCapture (k : Fin 8) (rising : Bool)
  /-- NTU_SWCAP (R205). Writing SWCAP bit k captures the extended time into NTU_CAPk. -/
  | ntuSwcap (m : Master) (mask : BitVec 8)
  /-- NTU_CAP_READ (R205). A read of NTU_CAPk moves its pending slot into the read value under the capture rules. -/
  | ntuCapRead (m : Master) (k : Fin 8) (a : Access)
  /-- NTU_TRIGGER_ARM (R206). Writing ARM = 1 checks TIME and arms the trigger, or sets TTIME_ERR. -/
  | ntuTriggerArm (m : Master) (k : Fin 4) (v : BitVec 64)
  /-- NTU_TRIGGER_DISARM (R206). Writing ARM = 0 stops the trigger and ends a pulse in progress. -/
  | ntuTriggerDisarm (m : Master) (k : Fin 4) (v : BitVec 64)
  /-- NTU_TRIGGER_LEAD (R206). NTU_NS reaches TIME and the trigger's leading edge falls, advancing TIME in periodic mode. -/
  | ntuTriggerLead (k : Fin 4)
  /-- NTU_TRIGGER_TRAIL (R206). NTU_NS reaches TIME + WIDTH and the trailing edge falls, clearing ARM in single mode. -/
  | ntuTriggerTrail (k : Fin 4)
  /-- CAN_MODE_WRITE (R212). A write of CANn_CTL.MODE requests a mode change for the end of the frame in progress. -/
  | canModeWrite (m : Master) (n : Fin 8) (mode : BitVec 3)
  /-- CAN_MODE_CHANGE (R212). A requested CAN mode takes effect at the frame end or bus idle, aborting PENDING requests
  when leaving ACTIVE. -/
  | canModeChange (n : Fin 8)
  /-- ABD_CANDIDATE_TIMEOUT (R215). ABDT ms pass under a candidate timing and detection moves to the next candidate. -/
  | abdCandidateTimeout (n : Fin 8)
  /-- CAN_FRAME_RX (R217). A CAN frame is received without error and is filtered, stored and passed to the gateway. -/
  | canFrameRx (n : Fin 8) (f : CanFrame) (stamp : BitVec 32) (vbat : BitVec 16)
  /-- CAN_RELEASE (R218). Writing RELEASE clears FULL, OVR and TRUNC of a receive buffer. -/
  | canRelease (m : Master) (n : Fin 8) (k : Fin 129)
  /-- CAN_TXREQ (R219). Writing TXREQ sets a transmit buffer PENDING, or refuses it. -/
  | canTxreq (m : Master) (n : Fin 8) (x : CanReq)
  /-- CAN_TX_START (R219). Before a start of frame the channel picks the PENDING request that would win arbitration and
  begins sending it. -/
  | canTxStart (x : CanStart)
  /-- CAN_TX_END (R220). A frame is sent with no error through end of frame and its request ends OK or LATE. -/
  | canTxEnd (n : Fin 8)
  /-- CAN_ARB_LOST (R220). A transmit attempt loses arbitration, using an attempt or ending a waiting cancel. -/
  | canArbLost (n : Fin 8)
  /-- CAN_BUS_ERROR (R222). A protocol error updates TEC and REC and ends or retries the attempt. -/
  | canBusError (n : Fin 8) (tec : Fin 9) (rec_ : Fin 9) (err : CanErrorAt)
  /-- CAN_CANCEL (R221). Writing CANCEL on a PENDING request takes effect, waits for arbitration or lapses. -/
  | canCancel (m : Master) (n : Fin 8) (k : Fin 128)
  /-- BOREC (R222). Writing BOREC starts bus-off recovery counting. -/
  | borec (m : Master) (n : Fin 8)
  /-- BUSOFF_RECOVERED (R222). 128 runs of 11 recessive bits pass and the channel rejoins the bus with TEC and REC at 0. -/
  | busoffRecovered (n : Fin 8)
  /-- TACK_WINDOW_CLOSE (R236). TACKB recessive bit times pass and a CAN channel's tack window closes. -/
  | tackWindowClose (n : Fin 8)
  /-- CAN_BUS_FAULT (R236). The bus stays dominant for 5 ms or the transceiver times out, raising FS208 + n. -/
  | canBusFault (n : Fin 6)
  /-- CAN_BUS_FAULT_CLEAR (R236). A bus fault clears and the channel runs a tack window. -/
  | canBusFaultClear (n : Fin 6)
  /-- CAN_SELECTIVE_WAKE (R228). A wake-up pattern, wake-up frame or FEC overflow wakes a channel in PN_SLEEP, HOLD or
  PARK. -/
  | canSelectiveWake (n : Fin 6) (e : SwEvent)
  /-- LIN_ENABLE (R237). LINn_CFG.EN changing from 0 to 1 starts the LIN tack window. -/
  | linEnable (m : Master) (n : Fin 8)
  /-- LIN_TACK_CLOSE (R237). TACKB recessive bit times pass and the LIN tack window closes. -/
  | linTackClose (n : Fin 8)
  /-- LIN_BUS_DOMINANT (R237). A LIN bus stays dominant for 100 ms, raising FS200 + n and starting a tack window. -/
  | linBusDominant (n : Fin 8)
  /-- SCHGO (R225). Writing SCHGO starts the commander schedule at slot START. -/
  | schgo (m : Master) (n : Fin 8) (start : Fin 64)
  /-- SCHSTOP (R225). Writing SCHSTOP stops the schedule at the end of the present slot. -/
  | schstop (m : Master) (n : Fin 8)
  /-- LIN_SLOT_NEXT (R225). A schedule slot time ends and the commander sends the next slot's header. -/
  | linSlotNext (n : Fin 8)
  /-- LIN_HEADER (R225). A LIN header with ID i is received or sent and the channel acts on frame entry i. -/
  | linHeader (n : Fin 8) (id : Fin 64) (stamp : BitVec 32) (sync : Bool) (err : Bool)
  /-- LIN_RESPONSE_DONE (R226). A LIN response completes, ending a publish request or updating a subscribe entry. -/
  | linResponseDone (n : Fin 8) (data : List Byte) (err : LinErr)
  /-- LIN_NORESP (R226). A response is not complete within its time limit and ERR records NORESP. -/
  | linNoresp (n : Fin 8)
  /-- LIN_TXREQ (R226). Writing TXREQ on a publish entry sets it PENDING with new data. -/
  | linTxreq (m : Master) (n : Fin 8) (k : Fin 64)
  /-- LIN_FD_READ (R226). A read of LINn_FDi clears the entry's FULL flag. -/
  | linFdRead (m : Master) (n : Fin 8) (k : Fin 64) (a : Access)
  /-- GOSLEEP (R227). Writing GOSLEEP makes a commander send the go-to-sleep frame, stop the schedule and enter SLEEP. -/
  | gosleep (m : Master) (n : Fin 8)
  /-- LIN_WAKE (R227). Writing WAKE sends a 1.0 ms dominant wake pulse. -/
  | linWake (m : Master) (n : Fin 8)
  /-- LIN_WAKE_RX (R227). A dominant level of 150 µs or more in SLEEP is a wake and sets WAKE_RX. -/
  | linWakeRx (n : Fin 8)
  /-- LIN_WAKE_RETRY (R227). A responder that receives no header within 150 ms of its pulse pulses again, or waits 1.5 s
  after three. -/
  | linWakeRetry (n : Fin 8)
  /-- LIN_IDLE_SLEEP (R227). A responder sees 4 s of bus idle and enters SLEEP. -/
  | linIdleSleep (n : Fin 8)
  /-- STAY_AWAKE_EXPIRE (R234). A network's stay-awake timer expires, clearing its ledger and possibly completing the
  sleep agreement. -/
  | stayAwakeExpire (net : Fin 16)
  /-- NSL_LOCAL_WRITE (R232). A write of NSL_CFG.LOCAL clears ledgers when set to 1 and counts as a wake during the
  agreement. -/
  | nslLocalWrite (m : Master) (v : Bool)
  /-- WAYBILL_WRITE (R233). Every WBDELAY s with LOCAL 0 and a GROUP network awake, waybill records are written to the
  NV store. -/
  | waybillWrite (nvFail : Bool)
  /-- ETH_FRAME_RX (R242). An Ethernet frame is received, checked, learned and forwarded or dropped. -/
  | ethFrameRx (p : Fin 4) (f : EthFrame) (fcsOk : Bool) (stamp : BitVec 64) (vbat : BitVec 16)
  /-- MAC_AGE_EXPIRE (R242). A MAC table entry not refreshed for AGE × 10 s is removed. -/
  | macAgeExpire (mac : BitVec 48) (vid : BitVec 12)
  /-- ETH_LINK_CHANGE (R241). A port's LINK changes, setting LINKCHG and raising FS216 + p on loss. -/
  | ethLinkChange (p : Fin 4) (up : Bool)
  /-- INTERNAL_TX (R247). The ESW takes a transmit descriptor with OWN = 1, sends the frame and returns the descriptor. -/
  | internalTx (e : MemErr)
  /-- GWE_LOOKUP (R249). The gateway looks up one queued frame and performs the FRAME, SIGNAL or DECAP action of the
  winning route. -/
  | gweLookup (x : LookupRead)
  /-- GWE_TOKEN_REFILL (R255). A route bucket is refilled at RATE tokens per 10 ms. -/
  | gweTokenRefill (bank : Fin 2) (k : Fin 4096)
  /-- GWE_READ_ENTRY (R256). RTCMD OP 0x1 reads a route entry from the bank named by BANK. -/
  | gweReadEntry (m : Master) (bank : Fin 2) (k : Fin 4096)
  /-- GWE_WRITE_SHADOW (R256). RTCMD OP 0x2 writes a route entry into the shadow bank and refills its bucket. -/
  | gweWriteShadow (m : Master) (bank : Fin 2) (k : Fin 4096)
  /-- GWE_COPY (R256). RTCMD OP 0x3 starts copying the bank in force into the shadow bank. -/
  | gweCopy (m : Master) (bank : Fin 2) (k : Fin 4096)
  /-- GWE_COPY_DONE (R256). The 33 µs copy completes and BUSY clears. -/
  | gweCopyDone
  /-- GWE_SWAP (R256). RTCMD OP 0x4 swaps the banks between two lookups. -/
  | gweSwap (m : Master) (bank : Fin 2) (k : Fin 4096)
  /-- HANDLE_SCAN (R261). A handle sensor measures its electrode, updating the baseline and touch state. -/
  | handleScan (n : Fin 8) (cnt : BitVec 16) (broken : Bool)
  /-- ACC_POLL (R264). Writing ACC_CMD.POLL requests a poll for the handle in HSEL. -/
  | accPoll (m : Master) (h : Fin 8)
  /-- ACC_ABORT (R267). Writing ABORT ends a running poll ABORTED and clears the pending slot. -/
  | accAbort (m : Master) (h : Fin 8)
  /-- LF_TELEGRAM_END (R268). The 16.384 ms LF telegram ends and the poll enters WAKEWAIT. -/
  | lfTelegramEnd (peaks : List (BitVec 16)) (limited : BitVec 6)
  /-- KEY_WAKE_END (R265). KWAKE passes after LF and the poll enters RANGE, sending the Poll frame. -/
  | keyWakeEnd (runs : List RadioRun)
  /-- KEY_RESPONSE_RX (R272). A key Response is received and its T4 is captured. -/
  | keyResponseRx (k : Fin 8) (runs : List RadioRun)
  /-- RANGING_FINAL (R265). At T1 + FINALT the Final frame is sent and the poll enters ANSWER. -/
  | rangingFinal (runs : List RadioRun)
  /-- KEY_ANSWER_RX (R270). A key Answer payload is received into capture 0xB. -/
  | keyAnswerRx (k : Fin 8) (payload : List Byte) (runs : List RadioRun)
  /-- ANSWER_WINDOW_END (R265). 4.3 ms after the Final the answer window closes and the poll enters EVAL. -/
  | answerWindowEnd
  /-- POLL_EVAL_DONE (R273). All answers are checked and the poll ends with its CODE, result record and failure counting. -/
  | pollEvalDone
  /-- LOCKOUT_END (R275). The lock-out time passes and LOCKED clears. -/
  | lockoutEnd
  /-- ADD (R289). Adds two D registers, setting flags and NC. -/
  | add (r : CoreRun) (d n m : Fin 32)
  /-- ADDC (R289). Adds two D registers and C. -/
  | addc (r : CoreRun) (d n m : Fin 32)
  /-- SUB (R289). Subtracts two D registers, setting C on a borrow. -/
  | sub (r : CoreRun) (d n m : Fin 32)
  /-- SUBC (R289). Subtracts two D registers and C. -/
  | subc (r : CoreRun) (d n m : Fin 32)
  /-- AND (R289). Bitwise AND of two D registers. -/
  | and (r : CoreRun) (d n m : Fin 32)
  /-- OR (R289). Bitwise OR of two D registers. -/
  | or (r : CoreRun) (d n m : Fin 32)
  /-- XOR (R289). Bitwise XOR of two D registers. -/
  | xor (r : CoreRun) (d n m : Fin 32)
  /-- ANDN (R289). Bitwise AND with complement of two D registers. -/
  | andn (r : CoreRun) (d n m : Fin 32)
  /-- SHIFT (R289). Shifts a D register by a register amount. -/
  | shift (r : CoreRun) (k : ShiftKind) (d n m : Fin 32)
  /-- ROTATE (R289). Rotates a D register. -/
  | rotate (r : CoreRun) (left : Bool) (d n m : Fin 32)
  /-- BIT_FIELD_EXTRACT (R289). Extracts a bit field of a D register. -/
  | bitFieldExtract (r : CoreRun) (d n : Fin 32) (pos : Fin 64) (width : Fin 65) (sx : Bool)
  /-- BIT_FIELD_INSERT (R289). Inserts a bit field into a D register. -/
  | bitFieldInsert (r : CoreRun) (d n : Fin 32) (pos : Fin 64) (width : Fin 65)
  /-- CLZ (R289). Counts leading zeros of a D register. -/
  | clz (r : CoreRun) (d n : Fin 32)
  /-- POPC (R289). Counts set bits of a D register. -/
  | popc (r : CoreRun) (d n : Fin 32)
  /-- MIN (R289). Writes the smaller of two D registers. -/
  | min (r : CoreRun) (d n m : Fin 32)
  /-- MAX (R289). Writes the larger of two D registers. -/
  | max (r : CoreRun) (d n m : Fin 32)
  /-- CMP (R289). Compares two D registers and sets the flags. -/
  | cmp (r : CoreRun) (n m : Fin 32)
  /-- MOV (R289). Copies a D register. -/
  | mov (r : CoreRun) (d n : Fin 32)
  /-- ADDI (R289). Adds an immediate to a D register, setting NC. -/
  | addi (r : CoreRun) (d n : Fin 32) (v : BitVec 16)
  /-- SUBI (R289). Subtracts an immediate from a D register. -/
  | subi (r : CoreRun) (d n : Fin 32) (v : BitVec 16)
  /-- ANDI (R289). Bitwise AND with an immediate. -/
  | andi (r : CoreRun) (d n : Fin 32) (v : BitVec 16)
  /-- ORI (R289). Bitwise OR with an immediate. -/
  | ori (r : CoreRun) (d n : Fin 32) (v : BitVec 16)
  /-- XORI (R289). Bitwise XOR with an immediate. -/
  | xori (r : CoreRun) (d n : Fin 32) (v : BitVec 16)
  /-- SHIFT_IMMEDIATE (R289). Shifts a D register by an immediate amount. -/
  | shiftImmediate (r : CoreRun) (k : ShiftKind) (d n : Fin 32) (amount : Fin 64)
  /-- CMPI (R289). Compares a D register with an immediate. -/
  | cmpi (r : CoreRun) (n : Fin 32) (v : BitVec 16)
  /-- MOVI (R289). Moves an immediate into a D register. -/
  | movi (r : CoreRun) (d : Fin 32) (v : BitVec 16)
  /-- MUL (R289). Multiplies two D registers, low result. -/
  | mul (r : CoreRun) (d n m : Fin 32)
  /-- MULH (R289). Signed multiply, high result. -/
  | mulh (r : CoreRun) (d n m : Fin 32)
  /-- MULHU (R289). Unsigned multiply, high result. -/
  | mulhu (r : CoreRun) (d n m : Fin 32)
  /-- DIV (R289). Signed division, with a zero divisor setting V. -/
  | div (r : CoreRun) (d n m : Fin 32)
  /-- DIVU (R289). Unsigned division, with a zero divisor setting V. -/
  | divu (r : CoreRun) (d n m : Fin 32)
  /-- REM (R289). Signed remainder. -/
  | rem (r : CoreRun) (d n m : Fin 32)
  /-- REMU (R289). Unsigned remainder. -/
  | remu (r : CoreRun) (d n m : Fin 32)
  /-- ADDA (R282). Adds to an address register modulo 2^64 without flags. -/
  | adda (r : CoreRun) (d n : Fin 16) (x : AddrSrc)
  /-- SUBA (R282). Subtracts from an address register modulo 2^64 without flags. -/
  | suba (r : CoreRun) (d n : Fin 16) (x : AddrSrc)
  /-- LEA (R282). Computes An + (Dm << SC) + displacement into an A register. -/
  | lea (r : CoreRun) (d n : Fin 16) (m : Fin 32) (sc : Fin 4) (v : BitVec 16)
  /-- CMPA (R282). Compares address registers and sets N, Z, C and V. -/
  | cmpa (r : CoreRun) (n m : Fin 16)
  /-- MOVA (R282). Copies a D register to an A register. -/
  | mova (r : CoreRun) (d : Fin 16) (n : Fin 32)
  /-- MOVD (R282). Copies an A register to a D register. -/
  | movd (r : CoreRun) (d : Fin 32) (n : Fin 16)
  /-- MAC (R283). Adds the signed 128-bit product of two D registers to an accumulator. -/
  | mac (r : CoreRun) (d : Fin 4) (n m : Fin 32)
  /-- MSU (R283). Subtracts the signed 128-bit product of two D registers from an accumulator. -/
  | msu (r : CoreRun) (d : Fin 4) (n m : Fin 32)
  /-- MULAC (R283). Writes the 128-bit product into an accumulator. -/
  | mulac (r : CoreRun) (d : Fin 4) (n m : Fin 32)
  /-- SAT (R283). Clamps an accumulator to the signed 64-bit range and sets Q when it clamps. -/
  | sat (r : CoreRun) (d : Fin 4)
  /-- RND (R283). Rounds an accumulator at a given bit. -/
  | rnd (r : CoreRun) (d : Fin 4) (b : Fin 128)
  /-- ASHR (R283). Shifts an accumulator arithmetically. -/
  | ashr (r : CoreRun) (d : Fin 4) (amount : Fin 128)
  /-- MVACL (R283). Copies accumulator bits [63:0] to a D register. -/
  | mvacl (r : CoreRun) (d : Fin 32) (n : Fin 4)
  /-- MVACH (R283). Copies accumulator bits [127:64] to a D register. -/
  | mvach (r : CoreRun) (d : Fin 32) (n : Fin 4)
  /-- MVDAC (R283). Loads an accumulator from a pair of D registers. -/
  | mvdac (r : CoreRun) (d : Fin 4) (hi lo : Fin 32)
  /-- CLRAC (R289). Clears an accumulator. -/
  | clrac (r : CoreRun) (d : Fin 4)
  /-- LOAD (R286). Loads 8 to 64 bits into a D or A register, writing it after one delay slot. -/
  | load (r : CoreRun) (t : GenReg) (w : MemWidth) (sx : Bool) (a : MemAddr) (err : MemErr)
  /-- LDAC (R286). Loads 128 bits into an accumulator, with two delay slots. -/
  | ldac (r : CoreRun) (t : Fin 4) (a : MemAddr) (err : MemErr)
  /-- STORE (R305). Stores 8 to 64 bits of a register, posted in program order. -/
  | store (r : CoreRun) (t : GenReg) (w : MemWidth) (a : MemAddr) (err : MemErr)
  /-- STAC (R289). Stores a 128-bit accumulator. -/
  | stac (r : CoreRun) (t : Fin 4) (a : MemAddr) (err : MemErr)
  /-- BRANCH (R288). Branches on COND, writing A14 when COND is 0xF. -/
  | branch (r : CoreRun) (cond : Fin 16) (off : BitVec 22)
  /-- JR (R289). Jumps to the address in An. -/
  | jr (r : CoreRun) (n : Fin 16)
  /-- JLR (R282). Jumps to the address in An and writes the return address to A14. -/
  | jlr (r : CoreRun) (n : Fin 16)
  /-- DADD (R291). Adds two packed decimal operands modulo 10^k. -/
  | dadd (r : CoreRun) (x : Dec3)
  /-- DSUB (R291). Subtracts two packed decimal operands, setting C on a borrow. -/
  | dsub (r : CoreRun) (x : Dec3)
  /-- DCMP (R291). Compares two packed decimal operands and sets the flags. -/
  | dcmp (r : CoreRun) (x : Dec2)
  /-- DADJ (R292). Decimally adjusts a binary sum using NC. -/
  | dadj (r : CoreRun) (ac : Bool) (d n : Fin 32)
  /-- DSHL (R291). Shifts a packed operand left by s digits. -/
  | dshl (r : CoreRun) (x : Dec2) (n : Fin 64)
  /-- DSHR (R291). Shifts a packed operand right by s digits. -/
  | dshr (r : CoreRun) (x : Dec2) (n : Fin 64)
  /-- DCVT (R291). Converts unsigned binary to packed decimal. -/
  | dcvt (r : CoreRun) (x : DecCvt)
  /-- BCVT (R291). Converts packed decimal to unsigned binary. -/
  | bcvt (r : CoreRun) (x : BinCvt)
  /-- WPOST (R293). Posts a word toward the other endpoint of a mailbox and returns its ISTAT and queue count. -/
  | wpost (r : CoreRun) (d : Fin 32) (mb : Fin 16) (n : Fin 32)
  /-- WACK (R294). Waits for the oldest unfinished word the core posted on a mailbox, with clock gated. -/
  | wack (r : CoreRun) (d : Fin 32) (mb : Fin 16) (n : Fin 32)
  /-- WACK_TIMEOUT (R294). A WACK's time-out passes and it ends PENDING with TIMEOUT. -/
  | wackTimeout (n : Fin 6)
  /-- MFSR (R285). Moves a special register into a D register. -/
  | mfsr (r : CoreRun) (d : Fin 32) (sr : BitVec 16)
  /-- MTSR (R285). Moves a D register into a special register. -/
  | mtsr (r : CoreRun) (sr : BitVec 16) (n : Fin 32)
  /-- IC_ACK (R301). A read of IC_ACK returns the source being served, pushes IC_CUR and raises it to that priority. -/
  | icAck (r : CoreRun) (d : Fin 32)
  /-- IC_EOI (R301). A write to IC_EOI pops the priority stack. -/
  | icEoi (r : CoreRun) (n : Fin 32)
  /-- TRAP (R297). Raises the TRAP exception at supervisor level. -/
  | trap (r : CoreRun)
  /-- MCALL (R297). Raises the MCALL exception at monitor level. -/
  | mcall (r : CoreRun)
  /-- ERET (R298). Restores PSR and open load windows and returns to EPC of the present level. -/
  | eret (r : CoreRun)
  /-- WFI (R301). Gates the core's clock until a pending enabled source above IC_CUR. -/
  | wfi (r : CoreRun)
  /-- WFI_WAKE (R301). A pending enabled source above IC_CUR ungates a waiting core. -/
  | wfiWake (n : Fin 6)
  /-- FENCE (R305). Completes once every earlier store of the core is accepted by its target. -/
  | fence (r : CoreRun)
  /-- IFLUSH (R305). Invalidates the core's whole instruction cache. -/
  | iflush (r : CoreRun)
  /-- TLBINV (R304). Invalidates all TLB entries, those of an ASID, or those of a virtual address, as FN selects. -/
  | tlbinv (r : CoreRun) (k : TlbScope)
  /-- LI (R288). Loads a sign-extended 40-bit immediate into a D register. -/
  | li (r : CoreRun) (d : Fin 32) (v : BitVec 40)
  /-- LIA (R288). Loads a zero-extended 40-bit immediate into an A register. -/
  | lia (r : CoreRun) (d : Fin 16) (v : BitVec 40)
  /-- LIH (R288). Writes Dd[63:40] from the immediate and keeps Dd[39:0]. -/
  | lih (r : CoreRun) (d : Fin 32) (v : BitVec 40)
  /-- INTERRUPT_DELIVER (R301). An enabled pending source above IC_CUR is delivered at an allowed instruction boundary. -/
  | interruptDeliver (n : Fin 6)
  /-- LOCKSTEP_MISMATCH (R280). The outputs of a lockstep pair differ, both cores stop and FS240 or FS241 is raised. -/
  | lockstepMismatch (pair : Fin 2)
  /-- MBX_TXQ_POST (R311). A write of MBXm_TXQ posts a word toward the peer, or is refused when the queue is full. -/
  | mbxTxqPost (m : Master) (mb : Fin 16) (a : Access) (v : BitVec 64)
  /-- MBX_RXQ_READ (R312). A read of MBXm_RXQ returns the oldest unread word to the reader and marks it read. -/
  | mbxRxqRead (m : Master) (mb : Fin 16) (a : Access)
  /-- MBX_ACK (R313). Writing ACK gives the oldest read word OK, frees its slot and rings the sender's DONE. -/
  | mbxAck (m : Master) (mb : Fin 16)
  /-- MBX_RING (R316). Writing RING sets the peer's BELL. -/
  | mbxRing (m : Master) (mb : Fin 16)
  /-- LOCK_READ (R321). A read of LKk takes a free lock or returns its owner. -/
  | lockRead (m : Master) (k : Fin 32) (a : Access)
  /-- LOCK_RELEASE (R322). A write to LKk by its owner releases the lock and sets LKREL for readers. -/
  | lockRelease (m : Master) (k : Fin 32)
  /-- NV_PROGRAM_DONE (R331). Programming of an NV line completes and stalled accesses of that master continue. -/
  | nvProgramDone (m : Master)
  /-- BOOTSTRAP_START (R354). A bootstrap of kind COLD, WAKE, WARM or RECOVERY starts by resetting the flash. -/
  | bootstrapStart (kind : Fin 4)
  /-- BSQ_HEADER_READ_DONE (R335). The slot headers have been read and the candidates are ordered. -/
  | bsqHeaderReadDone
  /-- BSQ_IMAGE_READ_DONE (R350). A candidate image has been copied into the image region, hashed and its record CRCs
  checked. -/
  | bsqImageReadDone (us : BitVec 32) (errors : List (Nat × Byte)) (again : List (List (Nat × Byte)))
  /-- ZS_SIGNATURE_VERDICT (R350). ZS returns its signature verdict on the candidate image. -/
  | zsSignatureVerdict (verified : Bool)
  /-- ZS_TIMEOUT (R358). ZS is not ready or gives no verdict within 10 ms, so the bootstrap exits ZS_FAIL. -/
  | zsTimeout
  /-- BSQ_BUILD_DONE (R351). Checks, layout, page tables, fills, DATA copies and REGS programming of the bootstrap are
  done. -/
  | bsqBuildDone
  /-- REGS_WAIT_END (R348). A REGS wait entry's time passes and programming continues. -/
  | regsWaitEnd
  /-- CORE_RELEASE (R357). Every released core leaves reset on one edge, STATE reads DONE and the boot records are
  written. -/
  | coreRelease
  /-- BOOT_RETRY (R361). With no candidate left, the BSQ waits 100 ms and runs the bootstrap again, ending in BOOT_FAIL
  if it fails. -/
  | bootRetry
  /-- PMU_REQUEST (R371). Writing PMU_REQ with GO submits a power-state request that is refused, completed, started or
  queued. -/
  | pmuRequest (m : Master) (tgt : Fin 4)
  /-- PREPARE_DONE (R373). The conditions of PREPARE all hold, and the sleep entry passes its point of no return. -/
  | prepareDone
  /-- PREPARE_TIMEOUT (R373). PREPMAX ms pass in PREPARE and the request ends EXPIRED. -/
  | prepareTimeout
  /-- SLEEP_ENTRY_DONE (R374). The sleep entry sequence completes, the state changes and the request ends OK. -/
  | sleepEntryDone
  /-- WAKE_SOURCE (R375). An enabled wake source acts in HOLD or PARK, recording the wake and starting the wake sequence. -/
  | wakeSource (src : Fin 7) (detail : BitVec 9)
  /-- WAKE_DOMAINS_READY (R377). The woken domains are READY and the clock is locked, so the cells open and a WAKE
  bootstrap starts. -/
  | wakeDomainsReady
  /-- XTAL_START_TIMEOUT (R378). The XTAL is not ready within 5 ms of a wake, so the PLL locks to CK_RC and CLK_DEGRADED
  is set. -/
  | xtalStartTimeout
  /-- WAKE_SUPPLY_FAIL (R379). A domain supply is not in regulation within 2 ms, so the wake's supplies are switched
  off, and after four attempts WAKE_FAIL is set. -/
  | wakeSupplyFail
  /-- WAKE_ATTEMPT_RETRY (R379). 10 ms after the previous attempt started, a new supply attempt starts. -/
  | wakeAttemptRetry
  /-- PARK_LIMP_TRIGGER (R380). A limp trigger in PARK powers PCORE and applies the limp map within 200 µs. -/
  | parkLimpTrigger
  /-- DOMAIN_DEMAND_ACCESS (R368). The first access to an off on-demand domain stalls and powers the domain up. -/
  | domainDemandAccess (m : Master) (a : BitVec 40) (w : MemWidth) (op : DemandOp)
  /-- DOMAIN_READY (R368). An on-demand domain becomes READY and stalled accesses complete. -/
  | domainReady (d : Fin 8)
  /-- DOMAIN_READY_TIMEOUT (R368). A domain is not READY within 2 ms, so stalled accesses end with a bus error and FS265
  is raised. -/
  | domainReadyTimeout (d : Fin 8)
  /-- NV_IDLE_OFF (R368). The NV domain has been idle for NVIDLE µs with NVAUTO = 1 and powers off. -/
  | nvIdleOff
  /-- NETOFF_WRITE (R368). A write of NETOFF = 1 powers the NET domain off when every channel is OFF and ESW and GWE are
  disabled. -/
  | netoffWrite (m : Master)
  /-- WTMR_WRITE (R375). A write of PMU_WTMR arms the alarm, or sets ALARM_ERR when ALARM is not ahead of COUNT. -/
  | wtmrWrite (m : Master) (a : Access) (v : BitVec 64)
  /-- WAKE_TIMER_ALARM (R375). COUNT reaches ALARM, EN clears and the wake timer source acts. -/
  | wakeTimerAlarm
  /-- POWER_ON_RESET (R395). VBAT below 3.0 V for 10 µs, or a VAON failure, resets everything but the NV store, OTP and
  keys. -/
  | powerOnReset
  /-- POR_RELEASE (R401). VBAT has stayed at or above 4.5 V for 1 ms and the power-on reset is released, starting a COLD
  bootstrap. -/
  | porRelease
  /-- RAIL_BROWNOUT (R388). VCORE or VIO stays below 90 % for 200 ns, starting an announced L-die reset and raising FS276. -/
  | railBrownout (fast : Bool)
  /-- XTAL_LOSS (R390). No XTAL edge arrives for 2 µs, the PLL moves to CK_RC, CLK_DEGRADED is set and FS266 is raised. -/
  | xtalLoss
  /-- PLL_UNLOCK (R390). The PLL loses lock for 1 µs, raising FS267 and starting an announced L-die reset once relocked. -/
  | pllUnlock (relock : Bool)
  /-- CKPWR_LOSS (R393). No CK_PWR edge reaches the P-die for 64 ns, so it runs from CK_RC and FS269 is raised. -/
  | ckpwrLoss
  /-- CKPWR_RETURN (R393). CK_PWR has run for 10 µs and the P-die changes back to it. -/
  | ckpwrReturn
  /-- SLOW_XTAL_READY (R394). The CK_SLOW crystal has run 1,024 cycles with no gap and CK_SLOW moves to it. -/
  | slowXtalReady
  /-- SLOW_XTAL_FAIL (R394). The CK_SLOW crystal fails to start in 2.0 s or shows a 250 µs gap, so CK_SLOW stays on the
  RC and FS268 is raised. -/
  | slowXtalFail
  /-- RC_TRIM (R391). Every 1 ms the PMU measures CK_RC against CK_SLOW and trims it. -/
  | rcTrim
  /-- LDIE_RESET (R395). An announced L-die reset resets the L-die except retained state and starts a WARM bootstrap. -/
  | ldieReset
  /-- RESET_PIN (R399). RESET_N held low for 1 µs starts an announced L-die reset, with its release starting the WARM
  bootstrap. -/
  | resetPin (low : Bool)
  /-- SYS_LDIE_RESET (R395). A keyed write of SYS_RSTCMD.LDIE starts an announced L-die reset. -/
  | sysLdieReset (m : Master) (key : BitVec 8)
  /-- CORE_RESET (R397). A keyed write of SYS_RSTCMD.CORE resets one core, pair or the host port to its release state. -/
  | coreReset (m : Master) (key : BitVec 8) (e : Fin 7)
  /-- WD_KICK (R400). A write to SYS_WDk_KICK is an accepted kick, or expires the watchdog when early, wrong or foreign. -/
  | wdKick (m : Master) (k : Fin 4) (v : BitVec 8)
  /-- WD_EXPIRE (R400). A watchdog sees TMO ms of silence, raises FS272 + k and takes its ACT action. -/
  | wdExpire (k : Fin 4)
  /-- CMD_SEGMENT_RX (R412). A command segment arrives on a network carrier and is reassembled, or the message is dropped. -/
  | cmdSegmentRx (port : Fin 32) (via : Carrier) (vbat : BitVec 16)
  /-- SEGMENT_TIMEOUT (R412). More than 500 ms pass between segments and the message is dropped into SEGERR. -/
  | segmentTimeout (port : Fin 32)
  /-- STATUS_READ (R416). STATUS READ returns identity, lifecycle, key states and the active image. -/
  | statusRead (src : CmdSrc)
  /-- STATUS_CERT (R422). STATUS CERT returns the device certificate. -/
  | statusCert (src : CmdSrc)
  /-- QUOTE (R423). ATTEST QUOTE returns a statement signed with the device key over a nonce. -/
  | quote (src : CmdSrc)
  /-- UPDATE_BEGIN (R425). BEGIN opens an update session targeting the inactive flash slot. -/
  | updateBegin (src : CmdSrc)
  /-- UPDATE_BLOCK (R426). BLOCK stages one 4 KiB image block into flash and SRAM staging. -/
  | updateBlock (src : CmdSrc) (fail : Bool)
  /-- UPDATE_VERIFY (R427). VERIFY programs block 0, hashes and checks the staged image and sets the session VERIFIED. -/
  | updateVerify (src : CmdSrc) (errors : List (Nat × Byte))
  /-- ACTIVATE_HANDOVER (R429). ACTIVATE with MODE HANDOVER starts a hand-over to a compatible verified image. -/
  | activateHandover (src : CmdSrc)
  /-- ACTIVATE_RESTART (R428). ACTIVATE with MODE RESTART writes ACTSLOT and schedules an announced L-die reset. -/
  | activateRestart (src : CmdSrc)
  /-- RESTART_RESET (R428). 10 ms after an ACTIVATE RESTART response, an announced L-die reset starts. -/
  | restartReset
  /-- UPDATE_ABORT (R425). ABORT closes the update session. -/
  | updateAbort (src : CmdSrc)
  /-- UPDATE_SESSION_TIMEOUT (R425). 60 s pass with no UPDATE command from the session's port and the session closes. -/
  | updateSessionTimeout
  /-- ENROLL (R418). ENROLL unwraps an AES key with ECDH and HKDF and puts it into an EMPTY access slot. -/
  | enroll (src : CmdSrc) (slot : Byte) (keyId : BitVec 32)
  /-- ACCESS_BLOCK (R419). BLOCK makes an ENROLLED access slot BLOCKED. -/
  | accessBlock (src : CmdSrc) (j : Fin 8)
  /-- REMOVE (R419). REMOVE erases an access slot's key and makes it EMPTY. -/
  | remove (src : CmdSrc) (j : Fin 8)
  /-- CLEAR_LOCKOUT (R419). CLEAR_LOCKOUT ends a lock-out, empties the failure record and sets L to 0. -/
  | clearLockout (src : CmdSrc)
  /-- OWNER_SET (R421). OWNER SET sets the owner lock. -/
  | ownerSet (src : CmdSrc)
  /-- OWNER_CLEAR (R421). OWNER CLEAR clears the owner lock. -/
  | ownerClear (src : CmdSrc)
  /-- INSTALL (R420). INSTALL writes a public key into an EMPTY image-key slot. -/
  | install (src : CmdSrc) (j : Fin 4) (pub : List Byte)
  /-- REVOKE (R420). REVOKE makes an image-key slot REVOKED for good. -/
  | revoke (src : CmdSrc) (j : Fin 4)
  /-- RAISE_ROLLBACK (R420). RAISE_ROLLBACK raises the rollback counter within the active image's value. -/
  | raiseRollback (src : CmdSrc) (v : BitVec 32)
  /-- FAULT_READ (R446). FAULT READ returns fault records from the ring. -/
  | faultRead (src : CmdSrc)
  /-- FAULT_ERASE (R446). FAULT ERASE clears every record and sets NEXT to 0. -/
  | faultErase (src : CmdSrc)
  /-- SEVERITY (R446). FAULT SEVERITY sets a source's class, lower or higher. -/
  | severity (src : CmdSrc)
  /-- INJECT (R446). FAULT INJECT forces a source or its pair fault on or off. -/
  | inject (src : CmdSrc)
  /-- KEYGEN (R417). FACTORY KEYGEN makes the device key inside the key store, once only. -/
  | keygen (src : CmdSrc)
  /-- FACTORY_CERT (R416). FACTORY CERT installs the device certificate. -/
  | factoryCert (src : CmdSrc) (cert : List Byte)
  /-- END_OF_LINE (R410). END_OF_LINE changes the lifecycle from FACTORY to FIELD for good. -/
  | endOfLine (src : CmdSrc)
  /-- HO_READY (R431). A participant writes BSQ_HOCMD.READY in QUIET. -/
  | hoReady (m : Master)
  /-- HANDOVER_SWITCH (R430). Every participant is READY at a quiet boundary, so the hand-over enters SWITCH and
  rewrites page tables. -/
  | handoverSwitch
  /-- HANDOVER_TABLES_DONE (R430). The new page tables are written and the hand-over enters NEW. -/
  | handoverTablesDone
  /-- HO_DONE (R430). A participant writes DONE, and the last DONE completes the hand-over. -/
  | hoDone (m : Master)
  /-- HO_ABANDON (R432). A participant writes ABANDON in NEW, abandoning the hand-over. -/
  | hoAbandon (m : Master)
  /-- HOQUIET_EXPIRE (R432). HOQUIET passes in QUIET and the hand-over is abandoned EXPIRED. -/
  | hoquietExpire
  /-- HOTIME_EXPIRE (R432). HOTIME passes in NEW and the hand-over is abandoned EXPIRED. -/
  | hotimeExpire
  /-- HANDOVER_RESTORE_DONE (R430). The old page tables are restored after an abandon and commits are accepted again. -/
  | handoverRestoreDone
  /-- FAULT_ACTIVATION (R441). A fault source reads active after inactive, setting its sticky bit and acting by its class. -/
  | faultActivation (src : Fin 384) (active : Bool) (bad : Bool)
  /-- PAIR_FAULT (R435). A source pair reads equal for three samples, counting as an activation at S2 or above. -/
  | pairFault (src : Fin 384)
  /-- FCU_ACK (R442). A write of FCU_ACK clears a source's PEND bit and stops its timer. -/
  | fcuAck (m : Master) (src : BitVec 9)
  /-- S1_LATE (R441). T1 passes with an S1 source unacknowledged, setting S1LATE toward ZK. -/
  | s1Late (src : Fin 384)
  /-- S2_ESCALATE (R441). T2 passes with an S2 source unacknowledged, escalating it to S3. -/
  | s2Escalate (src : Fin 384)
  /-- S3_RECOVERY_START (R443). T3 passes after an S3 reaction, setting RECOV and starting a RECOVERY bootstrap. -/
  | s3RecoveryStart
  /-- S3_COUNT_AGE (R444). An S3 reaction's age reaches S3WIN and it leaves S3CNT. -/
  | s3CountAge
  /-- FAULT_RECORD_WRITE (R445). A queued fault record is written to the NV ring. -/
  | faultRecordWrite
  /-- FCU_FORCE_WRITE (R437). A write of FCU_FRCk forces sources active or returns them to their wires. -/
  | fcuForceWrite (m : Master) (k : Fin 6) (a : Access) (v : BitVec 64)
  /-- FCU_PFRC_WRITE (R437). A write of FCU_PFRC forces a source's pair to read equal or stops it. -/
  | fcuPfrcWrite (m : Master) (a : Access) (v : BitVec 64)
  /-- FCU_SEV_WRITE (R440). A write of FCU_SEVk sets classes, refusing lowered classes after the release. -/
  | fcuSevWrite (m : Master) (k : Fin 24) (a : Access) (v : BitVec 64)
  /-- FCU_TMR_WRITE (R440). A write of FCU_TMR sets the reaction timers, refusing longer values after the release. -/
  | fcuTmrWrite (m : Master) (a : Access) (v : BitVec 64)
  /-- HOST_READ64 (R458). A host port frame with command 0x0B performs a 64-bit read. -/
  | hostRead64 (f : HostFrame) (e : MemErr)
  /-- HOST_READ32 (R458). A host port frame with command 0x0C performs a 32-bit read. -/
  | hostRead32 (f : HostFrame) (e : MemErr)
  /-- HOST_WRITE64 (R458). A host port frame with command 0x02 performs a 64-bit write. -/
  | hostWrite64 (f : HostFrame) (v : BitVec 64)
  /-- HOST_WRITE32 (R458). A host port frame with command 0x03 performs a 32-bit write. -/
  | hostWrite32 (f : HostFrame) (v : BitVec 32) (e : MemErr)
  /-- REGISTER_WRITE (R11). A write to a register with no row of its own acts by each field's access code and the
  block's owner rules. -/
  | registerWrite (m : Master) (a : BitVec 40) (acc : Access) (v : BitVec 64)
  /-- VBST_OV_RECOVER (R120). After an over-voltage stop, VBST falls to 60 V and the boost regulator resumes switching. -/
  | vbstOvRecover (vbst : BitVec 16)
  /-- LIMP_N_HIGH (R111). The LIMP_N input returns high, which allows the limp map to be released by RELEASE or by the
  RECOVERY limp release phase. -/
  | limpNHigh
  deriving DecidableEq, Repr

end Sys2Proof
end

