-- ==== Sys2Proof/Decode.lean ====
section
/-!
DEFINITION. The decoder the host asks for. The opcode table gives no row any bits: the block's commands are register
accesses, frames and events, not encoded words, so no word spells a command.
-/

namespace Sys2Proof

/-- The command a word spells by the table's bits: none, as the table gives no row bits. -/
def decodeTableWord (_nbits _w : Nat) : Option Instr := none

end Sys2Proof
end

