-- ==== Sys2Proof/Machine/Tab.lean ====
section
/-!
DEFINITION. Sparse tables: a list of (key, value) pairs with keys strictly rising and no pair whose value is the
one an unlisted key reads as. Registers, memory and per-channel records are held this way, so that equal contents
are equal data. Generic over the value type; nothing here is the manual's.
-/

namespace Sys2Proof.Machine

/-- A sparse table from natural numbers to `β`. -/
abbrev Tab (β : Type) := List (Nat × β)

/-- The value at key `a`; `d` is what an unlisted key reads as. -/
def tget {β : Type} (d : β) : Tab β → Nat → β
  | [], _ => d
  | (k, v) :: t, a => if k = a then v else tget d t a

/-- The table without key `a`. -/
def terase {β : Type} : Tab β → Nat → Tab β
  | [], _ => []
  | (k, v) :: t, a => if k = a then terase t a else (k, v) :: terase t a

/-- The table with `(a, v)` put before the first larger key. -/
def tinsert {β : Type} : Tab β → Nat → β → Tab β
  | [], a, v => [(a, v)]
  | (k, w) :: t, a, v => if a < k then (a, v) :: (k, w) :: t else (k, w) :: tinsert t a v

/-- Key `a` set to `v`; writing the unlisted value `d` removes the entry. -/
def tset {β : Type} [DecidableEq β] (d : β) (t : Tab β) (a : Nat) (v : β) : Tab β :=
  if v = d then terase t a else tinsert (terase t a) a v

/-- Keys strictly rise, starting above `lo`. -/
def trising {β : Type} : Option Nat → Tab β → Bool
  | _, [] => true
  | none, (k, _) :: t => trising (some k) t
  | some l, (k, _) :: t => l < k && trising (some k) t

/-- The canonical form: keys strictly rise and no entry equals what its unlisted key reads as. -/
def twf {β : Type} [DecidableEq β] (d : Nat → β) (t : Tab β) : Bool :=
  trising none t && t.all (fun e => e.2 != d e.1)

end Sys2Proof.Machine
end

