-- ==== Sys2Proof/Machine/State.lean ====
section
/-!
DEFINITION. The state of the device as plain data: the architectural registers, memory, and for each block the state
the manual names outside its registers. Records kept per channel are sparse tables whose unlisted entry is the
record's reset value.
-/

namespace Sys2Proof.Machine

/-- State of one transaction handle beside its registers (spec/01): the order of its COMMIT write (R40), whether the
point of no return has passed (R38), a cancel after it (R50), free without interrupt at the end (R25), the shadows in
the P-die (R34, R35), the closing handle of the closed claim set it belongs to (R53), the selected counter event seen
after ARMED (R36), the items inside their 100 µs window (R47) and the stitch chains still shifting (R159). -/
structure Handle where
  seq : Nat := 0
  noRet : Bool := false
  lateCancel : Bool := false
  freeAtEnd : Bool := false
  shadow : Bool := false
  evSeen : Bool := false
  window : List Nat := []
  shifting : List Nat := []
  claim : Option Nat := none
  deriving DecidableEq, Repr

/-- The TXN block: handle records, the open claim set in the order its handles joined it (R53), and the number the
next COMMIT write takes (R40). -/
structure TxnState where
  handle : Tab Handle := []
  claimSet : List Nat := []
  nextSeq : Nat := 0
  deriving DecidableEq, Repr

/-- State of one high-side channel beside its registers: wire model T_i, T_eff and H_i in °C and W/m (spec/02, R65),
whether it has conducted since the P-die power-on reset (R70), held off since a trip until an attempt or an ON item
(R75, R77), OC blanking running (R72), turned off by reverse current (spec/15, R402), turn-on held by over-voltage
(R386), steps of 100 µs left of its inrush time (R84), off-state diagnosis running (spec/03, R93), an on-pulse stretched
for diagnosis (R97), the bundle the model stepped in last (R65), the model time until which a pulse of a counter
source lasts at least (R62), and the model time from which the clean second of R78 counts. -/
structure HswChan where
  tWire : Rat := 25
  tEff : Rat := 25
  heat : Rat := 0
  everOn : Bool := false
  tripped : Bool := false
  blank : Bool := false
  revOff : Bool := false
  ovHeld : Bool := false
  inrLeft : Nat := 0
  offDiag : Bool := false
  stretch : Bool := false
  bundle : Option Nat := none
  minUntil : Nat := 0
  cleanFrom : Option Nat := none
  deriving DecidableEq, Repr

/-- A counter's output level on its way to the P-die: the counter, the level and the model time of the CK_PWR edge that takes it
(spec/02, R59). -/
structure CtrLevel where
  ctr : Nat
  level : Bool
  due : Nat
  deriving DecidableEq, Repr

/-- The HSW block: channel records, the start queues of the two feed groups (R84), and the demands of the items that
took effect in the present 1 ms and in the one of the latest P_MEAS (R80), in units of 1/320 mW. -/
structure HswState where
  chan : Tab HswChan := []
  queueA : List Nat := []
  queueB : List Nat := []
  recent : List Nat := []
  recentPrev : List Nat := []
  /-- Channels of the bootstrap's inrush schedule not yet started (spec/13, R356). -/
  bootInrush : List Nat := []
  /-- Configuration registers written since the last model step, with the values in force until the next one (spec/02,
  R64). -/
  oldCfg : Tab (Option (BitVec 64)) := []
  /-- The counter outputs as the P-die sampled them last, and the levels on their way to it (spec/02, R59). -/
  ctrSeen : Tab Bool := []
  ctrIn : List CtrLevel := []
  deriving DecidableEq, Repr

/-- A self-test that is running, by block and slot (spec/03, R100). -/
structure TestRun where
  block : OutBlock
  slot : Nat
  deriving DecidableEq, Repr

/-- A running sense-ADC sequence's entry and NTU_NS at the start of its conversion (spec/03, R90), an armed time
trigger, and a counter event seen (R89). -/
structure SenseAdc where
  running : Option Nat := none
  stamp : Nat := 0
  armed : Bool := false
  event : Bool := false
  deriving DecidableEq, Repr

/-- The PDI block: sense ADCs, running tests, hold and limp events to be flagged when the link returns (R104), the
P-die's own record of faults while the link is down (R103, spec/17 R436), the LIMP_N level (R109) and whether the
PCORE supply is on (spec/14, R380). -/
structure PdiState where
  adc : Tab SenseAdc := []
  tests : List TestRun := []
  holdEvent : Bool := false
  limpEvent : Bool := false
  pRecord : List Nat := []
  limpNHigh : Bool := true
  /-- The P-die temperature sensor in °C as last read (spec/02, R68). -/
  tdie : Rat := 25
  /-- Model time at which an output last went off, by block and channel (spec/03, R100). -/
  offAt : Tab (Option Nat) := []
  /-- Model time at which the basting hold started (spec/03, R105). -/
  holdStart : Nat := 0
  deriving DecidableEq, Repr

/-- State of one valve channel beside its registers (spec/04): the copied profile words (R122), the committed
actuation (R127), coil temperature in °C (R131), evidence kind and run (R134), release by freewheel (R123),
whether a limp input holds it actuated (R110), and the model time at which its BOOST started (R134). -/
structure Valve where
  profA : BitVec 64 := 0
  profB : BitVec 64 := 0
  actuated : Bool := false
  tCoil : Rat := 25
  evKind : Nat := 0
  evCnt : Nat := 0
  freewheel : Bool := false
  limpOn : Bool := false
  boostAt : Nat := 0
  deriving DecidableEq, Repr

/-- One waiting entry of a boost queue: the channel, the profile it asks for, and the item it comes from, or none for
a limp-map actuation (spec/04, R125, R137). -/
structure BoostReq where
  chan : Nat
  profile : Nat
  item : Option (Nat × Nat)
  deriving DecidableEq, Repr

/-- The VLV block: channel records, the boost queues by the lower bank of each domain (R124), and the regulator
stopped by over-voltage (R120). -/
structure VlvState where
  chan : Tab Valve := []
  queue : Tab (List BoostReq) := []
  regStopped : Bool := false
  deriving DecidableEq, Repr

/-- A running fade: start level, target, curve and time in ms (spec/05, R145, R146). -/
structure Fade where
  start : Nat
  target : Nat
  curve : Nat
  time : Nat
  deriving DecidableEq, Repr

/-- A stitch chain: the frame it last latched (its bits and bit count, R163), whether it has shifted since the P-die
power-on reset, its armed item: the handle, buffer, bit count and bits being shifted (R158-R161), and the levels at which
SCk_CK and SCk_DO stand between shifts (R165). -/
structure Chain where
  last : Option (Nat × Nat) := none
  shifted : Bool := false
  armed : Option (Nat × Nat × Nat × Nat) := none
  ck : Bool := false
  dout : Bool := false
  deriving DecidableEq, Repr

/-- The LED block: running fades by sink, chains, points with one low slot (R157), column levels of the running slot
(R155), the model time at which the slot started and the voltage in 10 mV its columns are pre-charged to in the dead
time (R153, R154), the buck turned off by over-voltage (R143), and sink junctions in 1/64 °C as last sensed (R148). -/
structure LedState where
  fade : Tab (Option Fade) := []
  chain : Tab Chain := []
  lowPoints : List Nat := []
  columns : List Nat := []
  slotAt : Nat := 0
  preVolt : Nat := 0
  buckOff : Bool := false
  tj : Tab Int := []
  deriving DecidableEq, Repr

/-- A switch input's runs of OPEN and SHORT samples (spec/06, R173), whether a previous sample exists and its
class (R169), and a return to the start that waits for the next sample (R174). -/
structure DinChan where
  runOpen : Nat := 0
  runShort : Nat := 0
  prev : Option Nat := none
  restart : Bool := false
  deriving DecidableEq, Repr

/-- A field output's refresh window (spec/06, R181, R183): running, suspended, expired with no ON item since; its
evidence kind and run (R186); an off-state check running; tripped under the limp map until its input's next
activation (R110). -/
structure DoutChan where
  running : Bool := false
  suspended : Bool := false
  expired : Bool := false
  evKind : Nat := 0
  evCnt : Nat := 0
  offDiag : Bool := false
  limpOn : Bool := false
  ovHeld : Bool := false
  /-- Model time at which the refresh window started. -/
  start : Nat := 0
  deriving DecidableEq, Repr

/-- A queued fault record (spec/17, R445): the source, byte 6, and the words taken at its instants. -/
structure FaultRec where
  source : Nat
  flags : Nat
  boot : Nat
  ntuExt : BitVec 64
  slow : Nat
  boots : Nat
  pmu : Nat
  limp : Nat
  va : Nat
  vb : Nat
  pmeas : Nat
  others : List Nat
  deriving DecidableEq, Repr

/-- What a pending source keeps of its activation (spec/17, R440, R445): the class it acts with, whether it was a pair fault
or forced, and the times. -/
structure Acting where
  cls : Nat := 0
  pair : Bool := false
  forced : Bool := false
  ntuExt : BitVec 64 := 0
  slow : Nat := 0
  deriving DecidableEq, Repr

/-- The FCU beside its registers (spec/17): sources raised by the blocks and not yet sampled (R434), the CK_SLOW counts
at which the counted S3 reactions started (R444), the class a pending source acts with (R440), queued records (R445),
severity nibbles whose storage cannot be corrected (R439). -/
structure FcuState where
  raised : List Nat := []
  s3Ages : List Nat := []
  acting : Tab Acting := []
  records : List FaultRec := []
  /-- S3 reactions held until the release of a bootstrap, oldest first (R448; spec/13, R358). -/
  held : List FaultRec := []
  badSev : List Nat := []
  /-- Sources whose wires read active, as 1 (R434). -/
  wire : Tab Nat := []
  /-- Samples in a row, up to 3, of the pair that FCU_PFRC forces equal (R435, R437). -/
  equal : Nat := 0
  /-- Sources whose pair has read equal since its last valid reading (R435). -/
  pairEqual : List Nat := []
  /-- The last valid reading of the wires of a forced source, as 1 for active (R435, R437). -/
  under : Tab Nat := []
  deriving DecidableEq, Repr

/-- A counter beside its registers (spec/07): prescaler (R190), period and compares in force (R195), pending capture
slot (R197), LNK and TACT actions that wait for the next CK_PER edge, coded as TACT (R194), a capture of another
counter's period event due on that edge (R196), running when HOLD or PARK stopped it (R199), and a new period at or below the
present count, which the next tick wraps (R195), and the commands of software that wait for that edge, coded as TACT (R193). -/
structure Counter where
  psc : Nat := 0
  per : BitVec 64 := 0
  cmpA : BitVec 64 := 0
  cmpB : BitVec 64 := 0
  slot : BitVec 64 := 0
  lnk : List Nat := []
  tact : List Nat := []
  capDue : Bool := false
  resume : Bool := false
  wrapNext : Bool := false
  sw : List Nat := []
  deriving DecidableEq, Repr

/-- The NTU beside its registers (spec/07): accumulator fraction in 2⁻³² ns (R201), slew left in 1/16 ns and a step
that waits for the next CK_NET edge (R202), pending capture slots (R205), and the trailing edge of each trigger pulse
in progress (R206). -/
structure NtuState where
  frac : Nat := 0
  slew : Int := 0
  step : Option Int := none
  slot : Tab (BitVec 64) := []
  pulse : Tab (Option Nat) := []
  deriving DecidableEq, Repr

/-- A word in a mailbox queue: its tag and whether the receiver has read it (spec/12, R310). -/
structure MboxWord where
  word : BitVec 64
  tag : Nat
  read : Bool := false
  deriving DecidableEq, Repr

/-- One endpoint's side of a mailbox (spec/12, R311, R316, R317, R319): the words it posted, oldest first; next tag, code
of its last post, ISTAT by tag; DONE and BELL, the enables of DB[2:0]; the mailbox and tag of the word that
holds its reads (R319); the tag its WACK waits for. -/
structure MboxSide where
  queue : List MboxWord := []
  nextTag : Nat := 0
  lastPost : Nat := 0
  txst : Tab Nat := []
  done : Bool := false
  bell : Bool := false
  en : Nat := 0
  holdRx : Option (Nat × Nat) := none
  wait : Option Nat := none
  deriving DecidableEq, Repr

/-- A lock (spec/12, R321, R325): its owner, and the endpoints that read it while it was held since they last took
it. -/
structure Lock where
  owner : Nat := 0
  seen : List Nat := []
  deriving DecidableEq, Repr

/-- The MBX block (spec/12): mailbox sides by 2 × m + side (0 for A, 1 for B), locks, and by endpoint the release flags
and their enables (R325). -/
structure MbxState where
  side : Tab MboxSide := []
  lock : Tab Lock := []
  rel : Tab Nat := []
  ien : Tab Nat := []
  deriving DecidableEq, Repr

/-- A transmit attempt in progress: the buffer, or none for the head of the gateway queue, the time of its start of
frame, its frame, a cancel that waits, whether the frame is a notice (spec/08, R219–R221; spec/09, R254, R258), and the
delay in CK_FAB cycles from its transmit edge to its receive edge (spec/08, R214). -/
structure CanTx where
  buf : Option Nat
  stamp : Nat
  frame : CanFrame
  cancel : Bool := false
  notice : Bool := false
  tdc : Nat := 0
  deriving DecidableEq, Repr

/-- A CAN channel beside its registers (spec/08): the mode in force (R212), the tack window and a standing bus fault
(R236), bus-off and its recovery (R222), the attempt in progress, failed attempts by buffer (R220), buffers with a
lapsed cancel (R221), the gateway queue and the notices that go ahead of it, each with the failed attempts of its head
(R254, R258), and the mode kept by a sleep agreement (R234). -/
structure CanChan where
  mode : Nat := 0
  tack : Bool := false
  fault : Bool := false
  busOff : Bool := false
  recovering : Bool := false
  cand : Nat := 0
  tx : Option CanTx := none
  fails : Tab Nat := []
  late : List Nat := []
  gwQueue : List CanFrame := []
  gwFails : Nat := 0
  gwNotes : List CanFrame := []
  noteFails : Nat := 0
  kept : Option Nat := none
  deriving DecidableEq, Repr

/-- A header a LIN channel has sent or received and acts on: its frame ID, NTU_NS at its break, the data published when
the break ended, and whether a request waits on it (spec/08, R225, R226). -/
structure LinHeader where
  id : Nat
  stamp : Nat
  acting : Bool := false
  data : List Byte := []
  request : Bool := false
  deriving DecidableEq, Repr

/-- A LIN channel beside its registers (spec/08, R225–R227): the schedule runs; a start, a stop and a go-to-sleep that
wait for the end of the present slot; the header in progress; entries whose TXREQ came while an older one was being
sent; wake pulses sent of the present series; announcements still to be sent (R235). -/
structure LinChan where
  running : Bool := false
  goWait : Option Nat := none
  stopWait : Bool := false
  sleepWait : Bool := false
  header : Option LinHeader := none
  again : List Nat := []
  pulses : Nat := 0
  announce : List Nat := []
  deriving DecidableEq, Repr

/-- A ledger entry (spec/08, R232): node, renewals, held time in CK_PER cycles. -/
structure LedgerEntry where
  node : Nat
  renew : Nat
  held : Nat
  deriving DecidableEq, Repr

/-- A network of the sleep unit (spec/08, R231, R232): the previous renewal's time and node (none for the device's own
frame), its ledger, and its replacements. -/
structure NslNet where
  last : Option (Nat × Option Nat) := none
  ledger : List LedgerEntry := []
  ovfl : Nat := 0
  deriving DecidableEq, Repr

/-- The NSL beside its registers (spec/08, R232, R233, R230): when LOCAL became 0, and the CK_SLOW count of the
recorded wake. -/
structure NslState where
  net : Tab NslNet := []
  localSince : Nat := 0
  deriving DecidableEq, Repr

/-- A frame in the gateway's ingress queue: its source port code and what it is (spec/09, R248, R252). -/
inductive GweFrame where
  | can (src : Nat) (f : CanFrame) (stamp : Nat)
  | lin (src : Nat) (id : Nat) (data : List Byte) (stamp : Nat)
  | eth (src : Nat) (f : EthFrame) (stamp : Nat)
  deriving DecidableEq, Repr

/-- A route entry (spec/09, R250). -/
structure Route where
  key : BitVec 64 := 0
  mask : BitVec 64 := 0
  action : BitVec 64 := 0
  out : BitVec 64 := 0
  deriving DecidableEq, Repr

/-- An entry of the MAC table (spec/09, R242). -/
structure MacEntry where
  mac : BitVec 48
  vid : Nat
  port : Nat
  deriving DecidableEq, Repr

/-- A frame in an egress queue, with the transmit descriptor that waits for its time-stamp, if one does (spec/09, R246,
R247). -/
structure EthSend where
  frame : EthFrame
  desc : Option Nat := none
  deriving DecidableEq, Repr

/-- The egress of an external port (spec/09, R241, R244): the queues Q0–Q3; the frame being sent, as the CK_PER cycles
left and its queue; the descriptor to stamp at the end of its SFD and the CK_PER cycles to it (R246); the credits of Q1 and
Q2 in 10⁻⁶ bits; and on ETH2 and ETH3 the present PLCA transmit opportunity, 255 before the first cycle, the cycles left of it
and the frames sent in it. -/
structure EthPort where
  queue : Tab (List EthSend) := []
  sfd : Option (Nat × Nat) := none
  busy : Nat := 0
  serving : Option Nat := none
  credit : Tab Int := []
  opp : Nat := 255
  oppLeft : Nat := 0
  oppSent : Nat := 0
  deriving DecidableEq, Repr

/-- The switch and the gateway beside their registers (spec/09): the MAC table, the ingress queue, both route banks and
the tokens taken from their buckets, by 4096 × bank + index (R255, R256), the egress of the external ports (R244), and
the sequence numbers of the IEEE 1722 streams by profile (R251). -/
structure GweState where
  mac : List MacEntry := []
  ingress : List GweFrame := []
  route : Tab Route := []
  used : Tab Nat := []
  port : Tab EthPort := []
  seq : Tab Nat := []
  deriving DecidableEq, Repr

/-- A handle sensor beside its registers (spec/10, R262): scans in a row at or above the threshold, scans in a row with
CNT at 0 or 0xFFFF. -/
structure Handle8 where
  above : Nat := 0
  stuck : Nat := 0
  deriving DecidableEq, Repr

/-- A time-stamp of a running poll (spec/10, R269): T1, T4 or T5 of a radio, T4 and T5 with the key slot. -/
structure PollStamp where
  radio : Nat
  slot : Nat
  value : Nat
  deriving DecidableEq, Repr

/-- The running poll (spec/10, R264–R272): its handle's number, antennas with their peak currents in 0.1 A, radios and
distance limit; the slot states, key IDs and (inside ZS) keys at its start (R266); its time-stamps, the newest first; the
radios whose measurement is missing; ZS's nonce; the payloads of its answers; the next slot of its present window whose script
is still to run (R269). -/
structure Poll where
  handle : Nat
  ant : List (Nat × Nat)
  radios : Nat
  dmax : Nat
  keys : List (Nat × Nat × BitVec 128)
  t1 : List PollStamp := []
  t4 : List PollStamp := []
  t5 : List PollStamp := []
  missing : List Nat := []
  nonce : BitVec 64 := 0
  answers : List (List Byte) := []
  slot : Nat := 0
  deriving DecidableEq, Repr

/-- The lock-out state that lasts over resets and in the NV store (spec/10, R275, R276): the CK_SLOW counts of the last
failures and of the latest lock-out start, L, and the count at which a running lock-out ends. A time restored from the
NV store may lie before count 0. -/
structure LockOut where
  fails : List Int := []
  level : Nat := 0
  lastStart : Option Int := none
  locked : Bool := false
  ends : Int := 0
  deriving DecidableEq, Repr

/-- The ACC block beside its registers (spec/10): sensors, the running poll, the pending slot, a poll that waits for ZS
after a wake (R263), the poll number, and the lock-out state with its copy in the NV store (R276). -/
structure AccState where
  sensor : Tab Handle8 := []
  poll : Option Poll := none
  pend : Option Nat := none
  wakePoll : Option Nat := none
  pollNo : Nat := 0
  lockOut : LockOut := {}
  nvLockOut : LockOut := {}
  deriving DecidableEq, Repr

/-- A destination of a load (spec/11, R286). -/
inductive LoadDest where
  | d (i : Fin 32)
  | a (i : Fin 16)
  | ac (i : Fin 4)
  deriving DecidableEq, Repr

/-- An open load window: the destination, the slots left and the value the slots read (spec/11, R286, R287). -/
structure Window where
  dest : LoadDest
  left : Nat
  old : BitVec 128
  deriving DecidableEq, Repr

/-- The exception registers of a level (spec/11, R285, R287, R298). -/
structure ExcRegs where
  epc : BitVec 64 := 0
  esr : BitVec 64 := 0
  ecause : BitVec 64 := 0
  eva : BitVec 64 := 0
  vbar : BitVec 64 := 0
  edly : List Window := []
  /-- The seven words of EDLY_x once software has written one of them, else none. -/
  edlyRaw : List (BitVec 64) := []
  deriving DecidableEq, Repr

/-- A cached translation (spec/11, R304). -/
structure TlbEntry where
  vpn : Nat
  asid : Nat
  pte : BitVec 64
  deriving DecidableEq, Repr

/-- What a core waits for with its clock gated: WFI, or a WACK with its destination, mailbox and whether it has a time-out
(spec/11, R294, R301). -/
inductive CoreWait where
  | wfi
  | wack (d : Fin 32) (mb : Fin 16) (timed : Bool)
  deriving DecidableEq, Repr

/-- One core (spec/11, R279–R304): released from reset (R357), halted (R299), stopped by a lockstep mismatch (R280) or
waiting; its program counter, register classes by number (R281; A15 by level, R282), PSR, exception registers, PTBR,
ASID, interrupt controller (R285, R301), open windows, and cached translations. -/
structure Core where
  released : Bool := false
  halted : Bool := false
  stopped : Bool := false
  wait : Option CoreWait := none
  pc : BitVec 64 := 0
  d : Tab (BitVec 64) := []
  a : Tab (BitVec 64) := []
  sp : Tab (BitVec 64) := []
  ac : Tab (BitVec 128) := []
  psr : BitVec 64 := 0x8000
  excS : ExcRegs := {}
  excM : ExcRegs := {}
  ptbr : BitVec 64 := 0
  asid : BitVec 64 := 0
  icCur : Nat := 0
  icStack : List Nat := []
  icEn : Tab (BitVec 64) := []
  icPri : Tab (BitVec 64) := []
  windows : List Window := []
  tlb : List TlbEntry := []
  deriving DecidableEq, Repr

/-- The ENTRY record of the image in force for one core: PC, SP and VBAR_M (spec/13, R347, R357), and the base of its
first-level table. -/
structure CoreEntry where
  pc : BitVec 64 := 0
  sp : BitVec 64 := 0
  vbar : BitVec 64 := 0
  ptbr : BitVec 64 := 0
  used : Bool := false
  deriving DecidableEq, Repr

/-- The cores by endpoint, their ENTRY references, and the lockstep settings of FEAT1 (spec/11, R280, R295). -/
structure CpuState where
  core : Tab Core := []
  entry : Tab CoreEntry := []
  lock01 : Bool := false
  lock23 : Bool := false
  deriving DecidableEq, Repr

/-- A master's line buffer (spec/13, R331): the line's address and its words by index. -/
structure NvLine where
  line : Nat
  word : Tab (Option (BitVec 64)) := []
  deriving DecidableEq, Repr

/-- An access that stalls on a domain that is off or on an NV line being programmed (spec/13, R331; spec/14, R368):
its master, address, width in bytes, the value it stores, and for a core's load its destination and whether it
extends the sign. -/
structure Stall where
  m : Master
  addr : Nat
  size : Nat
  store : Option (BitVec 128)
  load : Option (LoadDest × Bool) := none
  /-- The access is an instruction of the core, which completes with it, at a virtual address. -/
  instr : Bool := false
  va : Nat := 0
  /-- What the ECC of the bytes a read waits for finds (spec/13, R330, R331). -/
  ecc : MemErr := .good
  deriving DecidableEq, Repr

/-- A write by hardware that waits for the NV domain (spec/14, R368): a record (spec/13, R332), or the lock-out state (spec/10,
R276). -/
inductive NvHeld where
  | bytes (a : Nat) (l : List Byte)
  | lockOut (x : LockOut)
  deriving DecidableEq, Repr

/-- The NV store (spec/13, R331): line buffers and lines being programmed, by endpoint number, stalled accesses, and writes by
hardware that wait for the domain. -/
structure NvState where
  buf : Tab (Option NvLine) := []
  busy : Tab (Option NvLine) := []
  stalled : List Stall := []
  held : List NvHeld := []
  /-- Next waybill record: sequence number and ring index (spec/08, R233; spec/13, R332). -/
  waybill : Nat := 0
  /-- Index of the next boot log record (spec/13, R332, R362). -/
  bootLog : Nat := 0
  deriving DecidableEq, Repr

/-- An event that arrived after the point of no return (spec/14, R374). -/
inductive Latched where
  | wake (src detail : Nat)
  | ldieReset
  | s3
  deriving DecidableEq, Repr

/-- The power manager beside its registers (spec/14): model time of the P-die power-on reset (PMU_SLOW), the latched
event of R374, the state a wake left (R377, R379), supplies of the wake on, and PCORE powered in PARK (R380). -/
structure PmuState where
  slowBase : Nat := 0
  latched : List Latched := []
  wakeFrom : Nat := 0
  supplies : Bool := false
  s3Wake : Bool := false
  pcoreLimp : Bool := false
  /-- CK_SLOW count at the point of no return (spec/07, R199, R209). -/
  stopAt : Nat := 0
  /-- The XTAL was not ready in this wake (R378). -/
  xtalLate : Bool := false
  deriving DecidableEq, Repr

/-- A watchdog (spec/15, R400): running, model time of its last accepted kick or start, and whether the next kick value
is 0xA5. -/
structure Watchdog where
  running : Bool := false
  since : Nat := 0
  nextA5 : Bool := false
  /-- Restarts at its owner's release (ACT 0x1). -/
  waitRelease : Bool := false
  deriving DecidableEq, Repr

/-- SYS beside its registers (spec/15): the power-on reset is in force (R401), RESET_N is low (R399), an announced
reset waits for the PLL (R390), an L-die reset is in progress until its bootstrap starts, and the CK_SLOW crystal has
failed (R394). -/
structure SysState where
  por : Bool := true
  pinLow : Bool := false
  pllWait : Bool := false
  inReset : Bool := false
  slowFailed : Bool := false
  /-- The OTP words that could not be corrected at the last power-on reset (R405), by register. -/
  otpBad : List Nat := []
  wd : Tab Watchdog := []
  deriving DecidableEq, Repr

/-- Where a command came from, and so where its response goes (spec/16, R409, R412): a network port with its MSGID and the
frame that carried its first segment, without the segment, or a mailbox to ZS with the buffer's address. -/
inductive CmdFrom where
  | net (port msgId : Nat) (via : Carrier)
  | mbox (m addr : Nat)
  deriving DecidableEq, Repr

/-- A command message in reassembly or in the queue: its port, MSGID, next segment number and bytes (spec/16, R412,
R413). -/
structure SecMsg where
  port : Nat
  msgId : Nat
  nextSeg : Nat := 0
  bytes : List Byte
  src : CmdFrom
  /-- ISTAT and REASON of a mailbox word that the gate has refused and whose answer waits for its turn (R414). -/
  verdict : Option (Nat × Nat) := none
  deriving DecidableEq, Repr

/-- An update session (spec/16, R425–R428): its port, LENGTH and SEQ, target slot, SRAM staging, the offsets staged, the
kept first block, sectors erased, and VERIFIED. -/
structure Session where
  port : Nat
  length : Nat
  seq : Nat
  slot : Nat
  staging : Bool
  have_ : List Nat := []
  first : List Byte := []
  erased : List Nat := []
  verified : Bool := false
  deriving DecidableEq, Repr

/-- SEC beside its registers (spec/16): the key store (R417), which every reset keeps: device key, image keys with their
states (0 EMPTY, 1 VALID, 2 REVOKED), access keys with state, key ID and key, the rollback counter, owner lock,
lifecycle and failed entries; messages in reassembly and in the queue (R412, R414); the update session; RESTART
scheduled (R428); when the speed signal last arrived (R424). -/
structure KeyStore where
  device : Option (BitVec 256) := none
  image : Tab (Nat × List Byte) := []
  access : Tab (Nat × Nat × BitVec 128) := []
  rollback : Nat := 0
  ownerLock : Bool := false
  field : Bool := false
  bad : Bool := false
  deriving DecidableEq, Repr

structure SecState where
  keys : KeyStore := {}
  parts : List SecMsg := []
  queue : List SecMsg := []
  session : Option Session := none
  restart : Bool := false
  speedAt : Option Nat := none
  deriving DecidableEq, Repr

/-- The bootstrap sequencer beside its registers (spec/13): a bootstrap is running, from its start until the core
release (R356); held requests of R358; candidate slots still to be tried, the candidate's place, and the second run
of R361; the REGS entries not yet done and the values a WAIT holds; the TXN handle of the inrush schedule (R356); the
image in force by bytes is read from the image region. -/
structure BsqState where
  running : Bool := false
  handle : Option Nat := none
  slots : List Nat := []
  place : Nat := 0
  second : Bool := false
  waitRetry : Bool := false
  zsReady : Bool := false
  /-- Accesses of the sequencer that wait for a domain (spec/14, R368): a REGS entry, or the records that configure blocks, for
  NET; the boot record for NV. -/
  netWait : Bool := false
  recWait : Bool := false
  nvWait : Bool := false
  hashNew : List Byte := []
  regs : List (Nat × Nat × Nat) := []
  regsWait : Bool := false
  owners : List (Nat × BitVec 64) := []
  built : Bool := false
  start : Nat := 0
  s3Held : Bool := false
  fromPark : Bool := false
  deriving DecidableEq, Repr

/-- The hand-over beside its registers (spec/16, R430, R431): the flags, enables and routine by endpoint, and what
COMPLETE puts in force. -/
structure HandState where
  flag : Tab Nat := []
  en : Tab Nat := []
  entry : Tab Nat := []
  quiet : Nat := 0
  time : Nat := 0
  restoring : Bool := false
  /-- The ACTIVATE that waits for its response: where it came from, its first 8 bytes and its port. -/
  src : CmdFrom := .mbox 0 0
  head : List Byte := []
  /-- Words of ACTIVATE's mailbox that have been answered since, and are acknowledged after its word. -/
  acks : Nat := 0
  /-- ACTIVATE's mailbox word is gone with a reset of ZS. -/
  gone : Bool := false
  deriving DecidableEq, Repr

/-- What leaves the device. -/
inductive Sent where
  /-- A commit notice toward the gateway (spec/01, R45). -/
  | notice (n : Notice)
  /-- The latch pulse of a stitch chain: the frame bits and their count (spec/05, R159). -/
  | latchPulse (chain bits count : Nat)
  /-- The start of frame of an attempt on a CAN channel (spec/08, R219). -/
  | canFrame (chan : Nat) (f : CanFrame)
  /-- A LIN header sent by a commander, and a response: data and checksum (spec/08, R223, R225, R226). -/
  | linHeader (chan id : Nat)
  | linData (chan id : Nat) (data : List Byte) (sum : Byte)
  /-- A wake pulse of 1.0 ms (spec/08, R227). -/
  | linWake (chan : Nat)
  /-- An Ethernet frame that an external port sends from one of its queues, with or without its tag (spec/09, R242–R244). -/
  | eth (port queue : Nat) (f : EthFrame)
  /-- The BEACON of PLCA node 0 (spec/09, R241). -/
  | beacon (port : Nat)
  /-- An LF telegram of 64 bits on antennas with their peak currents in 0.1 A (spec/10, R268). -/
  | lf (antennas : List (Nat × Nat)) (bits : BitVec 64)
  /-- A transfer of the ranging port (spec/10, R269): the radio, the µs of delay before it, the bytes written and the
  number of bytes read. -/
  | rgp (radio delay : Nat) (out : List Byte) (reads : Nat)
  /-- A ranging frame: 0 Poll, 1 Final with its nonce, and the radios that send it (spec/10, R269). -/
  | ranging (kind radios vehid pollNo : Nat) (nonce : BitVec 64)
  /-- What the host port shifts out in a frame: the status of the previous frame, and read data (spec/18, R458). -/
  | hostFrame (status : Nat) (data : BitVec 64)
  /-- A frame of a command's response, handed to its CAN channel (spec/16, R411, R412). -/
  | cmdFrame (chan : Nat) (f : CanFrame)
  deriving DecidableEq, Repr

/-- The host port (spec/18, R458): the status bits of the previous frame, data not ready and bus error. -/
structure HostPort where
  notReady : Bool := false
  busErr : Bool := false
  deriving DecidableEq, Repr

/-- The state of the device and the queue of commands that wait. -/
structure State where
  pending : List Instr := []
  /-- Model time in CK_PER cycles of 8 ns: the idle ticks taken (log entry 2). -/
  now : Nat := 0
  /-- How many free values have been drawn (log entry 3). -/
  freeCtr : Nat := 0
  /-- The architectural registers that differ from their reset values, by address (spec/00, R4). -/
  regs : Tab (BitVec 64) := []
  /-- Memory bytes that differ from 0, by address (spec/13, R327; log entry 4). -/
  mem : List Host.Cell := []
  /-- What the last read, or the last write that is answered, returned to its master: the data and whether the access
  ended in a bus error (spec/00, R10). -/
  reply : Option (BitVec 64 × Bool) := none
  /-- What has left the device, oldest first. -/
  sent : List Sent := []
  txn : TxnState := {}
  hsw : HswState := {}
  pdi : PdiState := {}
  vlv : VlvState := {}
  led : LedState := {}
  din : Tab DinChan := []
  dout : Tab DoutChan := []
  fcu : FcuState := {}
  gt : Tab Counter := []
  ntu : NtuState := {}
  /-- Read and write shadows of split registers, by 8 × address + endpoint (spec/00, R6, R7). -/
  readShadow : Tab (Option (BitVec 32)) := []
  writeShadow : Tab (Option (BitVec 32)) := []
  /-- Counter outputs available to the P-die (spec/07, R192). -/
  gtAvail : Bool := false
  mbx : MbxState := {}
  can : Tab CanChan := []
  lin : Tab LinChan := []
  nsl : NslState := {}
  gwe : GweState := {}
  acc : AccState := {}
  cpu : CpuState := {}
  nv : NvState := {}
  pmu : PmuState := {}
  sys : SysState := {}
  sec : SecState := {}
  bsq : BsqState := {}
  hand : HandState := {}
  host : HostPort := {}
  /-- External flash bytes that differ from 0xFF, by offset (spec/13, R333). -/
  flash : List Host.Cell := []
  /-- VBAT above 60 V until it has stayed at or below 58 V for 1 ms (spec/15, R386). -/
  overVolt : Bool := false
  deriving DecidableEq, Repr

inductive Fault where
  deriving DecidableEq, Repr

/-- Why a command has no meaning. -/
inductive Refusal where
  /-- Raised by the dispatch for a command that is not modelled yet; safe: nothing is claimed of it. -/
  | notModelled (mnemonic : String)
  deriving DecidableEq, Repr

/-- The machine right after the P-die power-on reset. -/
def State.reset : State := {}

end Sys2Proof.Machine
end

