-- ==== Sys2Proof/Machine/CoreRegs.lean ====
section
/-!
DEFINITION. The registers of one core (spec/11, R281–R287): PSR fields, the register classes as an instruction reads and
writes them with load windows open, and the end of an instruction.
-/

namespace Sys2Proof.Machine

/-! PSR (spec/11, R284). -/

/-- Field `lo`, `width` of a word. -/
def bvField (v : BitVec 64) (lo width : Nat) : Nat := v.toNat / 2 ^ lo % 2 ^ width

/-- A word with a field replaced. -/
def bvInto (v : BitVec 64) (lo width x : Nat) : BitVec 64 :=
  (v &&& ~~~ BitVec.ofNat 64 ((2 ^ width - 1) * 2 ^ lo)) ||| BitVec.ofNat 64 (x % 2 ^ width * 2 ^ lo)

def Core.level (c : Core) : Nat := bvField c.psr 14 2
def Core.exl (c : Core) : Bool := c.psr.getLsbD 13
def Core.ie (c : Core) : Bool := c.psr.getLsbD 12
def Core.dtrap (c : Core) : Bool := c.psr.getLsbD 11
def Core.satm (c : Core) : Bool := c.psr.getLsbD 10
def Core.nc (c : Core) : BitVec 16 := BitVec.ofNat 16 (bvField c.psr 32 16)
def Core.flagN (c : Core) : Bool := c.psr.getLsbD 3
def Core.flagZ (c : Core) : Bool := c.psr.getLsbD 2
def Core.flagC (c : Core) : Bool := c.psr.getLsbD 1
def Core.flagV (c : Core) : Bool := c.psr.getLsbD 0

def Core.setPsr (c : Core) (lo width x : Nat) : Core := { c with psr := bvInto c.psr lo width x }
def Core.setNc (c : Core) (x : BitVec 16) : Core := c.setPsr 32 16 x.toNat
def Core.setDi (c : Core) : Core := c.setPsr 5 1 1
def Core.setQ (c : Core) (b : Bool) : Core := if b then c.setPsr 4 1 1 else c
def Core.setN (c : Core) (b : Bool) : Core := c.setPsr 3 1 b.toNat
def Core.setZ (c : Core) (b : Bool) : Core := c.setPsr 2 1 b.toNat
def Core.setC (c : Core) (b : Bool) : Core := c.setPsr 1 1 b.toNat
def Core.setV (c : Core) (b : Bool) : Core := c.setPsr 0 1 b.toNat

/-- The four arithmetic flags. -/
def Core.setNzcv (c : Core) (n z carry v : Bool) : Core := (((c.setN n).setZ z).setC carry).setV v

/-! Registers (spec/11, R281, R282, R286). -/

/-- The value a slot instruction reads for a register whose load is not visible yet: that of the oldest open window. -/
def Core.old (c : Core) (x : LoadDest) : Option (BitVec 128) := (c.windows.find? fun w => w.dest == x).map (·.old)

/-- The oldest window of a register takes a value that a slot instruction writes: the load lands after it (R286). -/
def setOld (x : LoadDest) (v : BitVec 128) : List Window → List Window
  | [] => []
  | w :: r => if w.dest == x then { w with old := v } :: r else w :: setOld x v r

/-- The registers themselves, whatever windows are open. -/
def Core.rawD (c : Core) (i : Fin 32) : BitVec 64 := tget 0 c.d i.val
def Core.rawA (c : Core) (i : Fin 16) : BitVec 64 := if i == 15 then tget 0 c.sp c.level else tget 0 c.a i.val
def Core.rawAc (c : Core) (i : Fin 4) : BitVec 128 := tget 0 c.ac i.val
def Core.setRawD (c : Core) (i : Fin 32) (v : BitVec 64) : Core := { c with d := tset 0 c.d i.val v }
def Core.setRawA (c : Core) (i : Fin 16) (v : BitVec 64) : Core :=
  if i == 15 then { c with sp := tset 0 c.sp c.level v } else { c with a := tset 0 c.a i.val v }
def Core.setRawAc (c : Core) (i : Fin 4) (v : BitVec 128) : Core := { c with ac := tset 0 c.ac i.val v }

/-- Operands as an instruction reads them. -/
def Core.readD (c : Core) (i : Fin 32) : BitVec 64 := match c.old (.d i) with
  | some v => v.setWidth 64
  | none => c.rawD i
def Core.readA (c : Core) (i : Fin 16) : BitVec 64 := match c.old (.a i) with
  | some v => v.setWidth 64
  | none => c.rawA i
def Core.readAc (c : Core) (i : Fin 4) : BitVec 128 := match c.old (.ac i) with
  | some v => v
  | none => c.rawAc i

/-- Results as an instruction writes them. -/
def Core.writeD (c : Core) (i : Fin 32) (v : BitVec 64) : Core :=
  if (c.old (.d i)).isSome then { c with windows := setOld (.d i) (v.setWidth 128) c.windows } else c.setRawD i v
def Core.writeA (c : Core) (i : Fin 16) (v : BitVec 64) : Core :=
  if (c.old (.a i)).isSome then { c with windows := setOld (.a i) (v.setWidth 128) c.windows } else c.setRawA i v
def Core.writeAc (c : Core) (i : Fin 4) (v : BitVec 128) : Core :=
  if (c.old (.ac i)).isSome then { c with windows := setOld (.ac i) v c.windows } else c.setRawAc i v

/-! The end of an instruction. -/

/-- Every open window has one slot fewer. -/
def Core.closeSlots (c : Core) : Core :=
  { c with windows := (c.windows.map fun w => { w with left := w.left - 1 }).filter fun w => w.left != 0 }

/-- The instruction ends, and the next one is at an address. -/
def Core.goto (c : Core) (a : BitVec 64) : Core := { c.closeSlots with pc := a }

/-- The instruction of `n` bytes ends, and the next one follows it. -/
def Core.advance (c : Core) (n : Nat) : Core := c.goto (c.pc + BitVec.ofNat 64 n)

/-- A loaded value: the register takes it, and its window keeps the value the slots read (R286, R287). -/
def Core.landLoad (c : Core) (x : LoadDest) (v : BitVec 128) : Core :=
  match x with
  | .d i => { c.setRawD i (v.setWidth 64) with windows := c.windows ++ [⟨x, 1, (c.rawD i).setWidth 128⟩] }
  | .a i => { c.setRawA i (v.setWidth 64) with windows := c.windows ++ [⟨x, 1, (c.rawA i).setWidth 128⟩] }
  | .ac i => { c.setRawAc i v with windows := c.windows ++ [⟨x, 2, c.rawAc i⟩] }

end Sys2Proof.Machine
end

