-- ==== Sys2Proof/Config.lean ====
section
/-!
DEFINITION. The free values: constants with no body, one for each value the manual leaves open. Nothing can prove a
value of one, so a statement that holds of the model holds for every choice (log entry 3).
-/

namespace Sys2Proof

/-- The n-th value the manual leaves undefined in a run (log entry 3). -/
opaque Config.freeWord : Nat → BitVec 64

/-- Whether a model temperature is rounded up into its 1/64 °C register field: the manual gives the unit and no
rounding (log entry 11). -/
opaque Config.roundUp : Rat → Bool

/-- The coil temperature after a step of a model whose THETA is 0, for which the manual states no result (spec/04,
R131; log entry 12). -/
opaque Config.coilThetaZero : Rat → Rat

/-- The VLAN and the priority of an untagged frame that enters the switch at its internal port (spec/09, R243; log entry
36). -/
opaque Config.internalVid : BitVec 12
opaque Config.internalPcp : BitVec 3

/-- The CAN type that a frame built from LIN or Ethernet data keeps under OUTFMT 0x0, as a function of the payload
(spec/09, R253; log entry 38). -/
opaque Config.keptType : List (BitVec 8) → Nat

/-- The bytes that carry a CAN XL frame in an IEEE 1722 frame, as a function of the frame's own bytes (spec/09, R251;
log entry 90). -/
opaque Config.acfXl : List (BitVec 8) → List (BitVec 8)

/-- The time of flight where all four measured times are 0, for which the manual states no result (spec/10, R272; log
entry 27). -/
opaque Config.tofZero : Rat

/-- DIST and LASTDIST for a distance below 0 or of 65,535 cm and more, which the fields of 16 bits with 0xFFFF for none do
not hold (spec/10, R274; log entry 27). -/
opaque Config.distOver : Int → BitVec 16

/-- The body of STATUS READ as a function of what it reports: the manual gives no layout (spec/16, R416; log entry
15). -/
opaque Config.statusBody : List Nat → List (BitVec 8)

/-- The quotient of the most negative number by −1, which no register can hold (spec/11, R289; log entry 16). -/
opaque Config.divOverflow : BitVec 64

/-- A shift by 64 or more as a function of the kind of shift, the operand and the amount (spec/11, R289; log entry 17). -/
opaque Config.shiftWide : Nat → BitVec 64 → BitVec 64 → BitVec 64

/-- Whether MIN and MAX compare as signed numbers, whether DIV and REM truncate toward zero (else toward −∞), and whether a
branch offset counts from the next instruction (else from the branch): the manual does not say (spec/11, R288, R289; log
entry 46). -/
opaque Config.minMaxSigned : Bool
opaque Config.divTruncates : Bool
opaque Config.branchFromNext : Bool

/-- RND where the manual states no result: whether a value half-way between two multiples goes up, and the result above the
largest number (spec/11, R283; log entry 47). -/
opaque Config.rndTieUp : BitVec 128 → Nat → Bool
opaque Config.rndOver : BitVec 128 → Nat → BitVec 128

/-- A bit field that reaches past bit 63 or has no width, as a function of the operands (spec/11, R289; log entry 48). -/
opaque Config.fieldOver : BitVec 64 → BitVec 64 → Nat → Nat → BitVec 64

/-- A word of EDLY_x as a function of the recorded windows, and the windows that words written by software stand for: the
manual gives no layout (spec/11, R285, R287; log entry 18). A window is destination, slots left and old value. -/
opaque Config.edlyWord : List (Nat × Nat × Nat) → Nat → BitVec 64
opaque Config.edlyWindows : List (BitVec 64) → List (Nat × Nat × Nat)

end Sys2Proof
end

