-- ==== Sys2Proof/Machine/Regs.lean ====
section
/-!
DEFINITION. The register map: one address per register, one bit range per field, and one row per register
with its reset value and the access classes of its bits, in the order of the memory map (spec/13, R328). Each
name, address, bit range, access class and reset value is that of the register tables of the chapter named
before the register. A register or field name keeps the manual's spelling without its index letters, which
become the arguments. A reset value the manual gives as a dash is the one its rules give (DIN_STATn.COUNT is M, spec/06,
R174; HSW_TEMPn.TEFF and TWIRE and VLV_STATc.TCOIL are the 25 °C of AMBFIX, spec/02, R70, and spec/04, R131), and 0
where no rule does (log entry 1).
-/

namespace Sys2Proof.Machine

/-- A bit field of a register: the register's address, its lowest bit and its width (spec/00, R482). -/
structure Fld where
  addr : Nat
  lo : Nat
  width : Nat
  deriving DecidableEq, Repr

/-- One register or array of registers: where it lies, what it holds after reset, and which bits a bus write or
read treats how (spec/00, R8 and R9): `rw` is stored, `w1c` is cleared by writing 1, `rc` is cleared by a read,
`wo` and `sc` read as 0 and are handled by the register's own operation. -/
structure RegInfo where
  base : Nat
  /-- stride, first index, one past the last index -/
  dims : List (Nat × Nat × Nat)
  reset : Nat
  rw : Nat
  w1c : Nat
  rc : Nat
  wo : Nat
  sc : Nat
  /-- Read-only bits that the image sets through the bootstrap sequencer's writes (spec/13, R348; log entry 41). -/
  img : Nat
  deriving DecidableEq, Repr

/-- TXN_ALLOC — allocate handle (spec/01). -/
def TXN_ALLOC : Nat := 0x40000000
def TXN_ALLOC_HANDLE : Fld := ⟨TXN_ALLOC, 0, 8⟩

/-- TXN_FREE — free handle (spec/01). -/
def TXN_FREE : Nat := 0x40000008
def TXN_FREE_HANDLE : Fld := ⟨TXN_FREE, 0, 5⟩

/-- TXN_BUSY — handle occupancy (spec/01). -/
def TXN_BUSY : Nat := 0x40000010
def TXN_BUSY_ARMED : Fld := ⟨TXN_BUSY, 32, 32⟩
def TXN_BUSY_ALLOCATED : Fld := ⟨TXN_BUSY, 0, 32⟩

/-- TXN_CFG — node and alignment (spec/01). -/
def TXN_CFG : Nat := 0x40000018
def TXN_CFG_NOTICE_EN : Fld := ⟨TXN_CFG, 32, 1⟩
def TXN_CFG_TERR_BOUND : Fld := ⟨TXN_CFG, 16, 16⟩
def TXN_CFG_NODE : Fld := ⟨TXN_CFG, 0, 14⟩

/-- TXN_IRQ — completion and error flags (spec/01). -/
def TXN_IRQ : Nat := 0x40000020
def TXN_IRQ_NOTICE_REJ : Fld := ⟨TXN_IRQ, 34, 1⟩
def TXN_IRQ_NOTICE_MISS : Fld := ⟨TXN_IRQ, 33, 1⟩
def TXN_IRQ_ACCESS_VIOL : Fld := ⟨TXN_IRQ, 32, 1⟩
def TXN_IRQ_DONE : Fld := ⟨TXN_IRQ, 0, 32⟩

/-- TXN_IEN — interrupt enables (spec/01). -/
def TXN_IEN : Nat := 0x40000028
def TXN_IEN_ERR_EN : Fld := ⟨TXN_IEN, 32, 3⟩
def TXN_IEN_DONE_EN : Fld := ⟨TXN_IEN, 0, 32⟩

/-- TXN_NTX — send commit notice (spec/01). -/
def TXN_NTX : Nat := 0x40000030
def TXN_NTX_SEND : Fld := ⟨TXN_NTX, 63, 1⟩
def TXN_NTX_COUNT : Fld := ⟨TXN_NTX, 16, 6⟩
def TXN_NTX_GROUP : Fld := ⟨TXN_NTX, 0, 16⟩

/-- TXN_NTXTIME — notice commit time (spec/01). -/
def TXN_NTXTIME : Nat := 0x40000038
def TXN_NTXTIME_TIME : Fld := ⟨TXN_NTXTIME, 0, 32⟩

/-- TXN_NLISTk — notice node list (spec/01). -/
def TXN_NLIST (k : Nat) : Nat := 0x40000040 + 8 * k
def TXN_NLIST_ENTRY3 (k : Nat) : Fld := ⟨TXN_NLIST k, 48, 16⟩
def TXN_NLIST_ENTRY2 (k : Nat) : Fld := ⟨TXN_NLIST k, 32, 16⟩
def TXN_NLIST_ENTRY1 (k : Nat) : Fld := ⟨TXN_NLIST k, 16, 16⟩
def TXN_NLIST_ENTRY0 (k : Nat) : Fld := ⟨TXN_NLIST k, 0, 16⟩

/-- TXN_CTLh — transaction control (spec/01). -/
def TXN_CTL (h : Nat) : Nat := 0x40001000 + 0x80 * h
def TXN_CTL_OWNER (h : Nat) : Fld := ⟨TXN_CTL h, 56, 3⟩
def TXN_CTL_GROUP (h : Nat) : Fld := ⟨TXN_CTL h, 32, 16⟩
def TXN_CTL_CLAST (h : Nat) : Fld := ⟨TXN_CTL h, 22, 1⟩
def TXN_CTL_CLAIM (h : Nat) : Fld := ⟨TXN_CTL h, 21, 1⟩
def TXN_CTL_ALIGN (h : Nat) : Fld := ⟨TXN_CTL h, 20, 1⟩
def TXN_CTL_EVSEL (h : Nat) : Fld := ⟨TXN_CTL h, 16, 2⟩
def TXN_CTL_EVGT (h : Nat) : Fld := ⟨TXN_CTL h, 10, 5⟩
def TXN_CTL_MODE (h : Nat) : Fld := ⟨TXN_CTL h, 8, 2⟩
def TXN_CTL_COUNT (h : Nat) : Fld := ⟨TXN_CTL h, 0, 7⟩

/-- TXN_TIMEh — commit time (spec/01). -/
def TXN_TIME (h : Nat) : Nat := 0x40001008 + 0x80 * h
def TXN_TIME_TIME (h : Nat) : Fld := ⟨TXN_TIME h, 0, 32⟩

/-- TXN_COMMITh — commit and cancel (spec/01). -/
def TXN_COMMIT (h : Nat) : Nat := 0x40001010 + 0x80 * h
def TXN_COMMIT_CANCEL (h : Nat) : Fld := ⟨TXN_COMMIT h, 1, 1⟩
def TXN_COMMIT_COMMIT (h : Nat) : Fld := ⟨TXN_COMMIT h, 0, 1⟩

/-- TXN_STATh — transaction status (spec/01). -/
def TXN_STAT (h : Nat) : Nat := 0x40001018 + 0x80 * h
def TXN_STAT_EDGE_TIME (h : Nat) : Fld := ⟨TXN_STAT h, 32, 32⟩
def TXN_STAT_CLAIM_MISS (h : Nat) : Fld := ⟨TXN_STAT h, 24, 8⟩
def TXN_STAT_FIRST (h : Nat) : Fld := ⟨TXN_STAT h, 16, 6⟩
def TXN_STAT_NFAIL (h : Nat) : Fld := ⟨TXN_STAT h, 8, 7⟩
def TXN_STAT_RESULT (h : Nat) : Fld := ⟨TXN_STAT h, 4, 4⟩
def TXN_STAT_STATE (h : Nat) : Fld := ⟨TXN_STAT h, 0, 4⟩

/-- TXN_CAUSEh — refusal cause mask (spec/01). -/
def TXN_CAUSE (h : Nat) : Nat := 0x40001020 + 0x80 * h
def TXN_CAUSE_CAUSE (h : Nat) : Fld := ⟨TXN_CAUSE h, 0, 64⟩

/-- TXN_ISTATh_k — item status (spec/01). -/
def TXN_ISTAT (h k : Nat) : Nat := 0x40001040 + 0x80 * h + 8 * k
def TXN_ISTAT_ITEM (h k ix : Nat) : Fld := ⟨TXN_ISTAT h k, 4 * ix, 4⟩

/-- TXN_ITEMh_i — staging slot (spec/01). -/
def TXN_ITEM (h i : Nat) : Nat := 0x40008000 + 0x200 * h + 8 * i
def TXN_ITEM_ITEM (h i : Nat) : Fld := ⟨TXN_ITEM h i, 0, 64⟩

/-- HSW_CFGn — channel configuration (spec/02). -/
def HSW_CFG (n : Nat) : Nat := 0x40010000 + 0x100 * n
def HSW_CFG_PARK (n : Nat) : Fld := ⟨HSW_CFG n, 15, 1⟩
def HSW_CFG_HOLDON (n : Nat) : Fld := ⟨HSW_CFG n, 14, 1⟩
def HSW_CFG_SHED (n : Nat) : Fld := ⟨HSW_CFG n, 12, 2⟩
def HSW_CFG_INV (n : Nat) : Fld := ⟨HSW_CFG n, 11, 1⟩
def HSW_CFG_PAR (n : Nat) : Fld := ⟨HSW_CFG n, 3, 1⟩
def HSW_CFG_OWNER (n : Nat) : Fld := ⟨HSW_CFG n, 0, 3⟩

/-- HSW_STATn — channel status (spec/02). -/
def HSW_STAT (n : Nat) : Nat := 0x40010008 + 0x100 * n
def HSW_STAT_OUT (n : Nat) : Fld := ⟨HSW_STAT n, 31, 1⟩
def HSW_STAT_STATIC (n : Nat) : Fld := ⟨HSW_STAT n, 30, 1⟩
def HSW_STAT_SRC (n : Nat) : Fld := ⟨HSW_STAT n, 22, 8⟩
def HSW_STAT_LATCH (n : Nat) : Fld := ⟨HSW_STAT n, 21, 1⟩
def HSW_STAT_EXHAUST (n : Nat) : Fld := ⟨HSW_STAT n, 20, 1⟩
def HSW_STAT_RWAIT (n : Nat) : Fld := ⟨HSW_STAT n, 19, 1⟩
def HSW_STAT_LIMP (n : Nat) : Fld := ⟨HSW_STAT n, 18, 1⟩
def HSW_STAT_HELD (n : Nat) : Fld := ⟨HSW_STAT n, 17, 1⟩
def HSW_STAT_SHED (n : Nat) : Fld := ⟨HSW_STAT n, 16, 1⟩
def HSW_STAT_RETRY_CNT (n : Nat) : Fld := ⟨HSW_STAT n, 12, 4⟩
def HSW_STAT_TRIP_CAUSE (n : Nat) : Fld := ⟨HSW_STAT n, 8, 4⟩
def HSW_STAT_TRIPS (n : Nat) : Fld := ⟨HSW_STAT n, 0, 8⟩

/-- HSW_WIREn — wire model parameters (spec/02). -/
def HSW_WIRE (n : Nat) : Nat := 0x40010010 + 0x100 * n
def HSW_WIRE_AMBFIX (n : Nat) : Fld := ⟨HSW_WIRE n, 16, 8⟩
def HSW_WIRE_AMBSRC (n : Nat) : Fld := ⟨HSW_WIRE n, 12, 3⟩
def HSW_WIRE_WMEN (n : Nat) : Fld := ⟨HSW_WIRE n, 11, 1⟩
def HSW_WIRE_BEN (n : Nat) : Fld := ⟨HSW_WIRE n, 10, 1⟩
def HSW_WIRE_BUNDLE (n : Nat) : Fld := ⟨HSW_WIRE n, 6, 4⟩
def HSW_WIRE_INSUL (n : Nat) : Fld := ⟨HSW_WIRE n, 3, 2⟩
def HSW_WIRE_XSEC (n : Nat) : Fld := ⟨HSW_WIRE n, 0, 3⟩

/-- HSW_PROTn — fast protection and retry (spec/02). -/
def HSW_PROT (n : Nat) : Nat := 0x40010018 + 0x100 * n
def HSW_PROT_INOM (n : Nat) : Fld := ⟨HSW_PROT n, 24, 8⟩
def HSW_PROT_RETRY_DLY (n : Nat) : Fld := ⟨HSW_PROT n, 16, 4⟩
def HSW_PROT_RETRY_MAX (n : Nat) : Fld := ⟨HSW_PROT n, 12, 4⟩
def HSW_PROT_OC_BLANK (n : Nat) : Fld := ⟨HSW_PROT n, 8, 2⟩
def HSW_PROT_OC_SEL (n : Nat) : Fld := ⟨HSW_PROT n, 0, 2⟩

/-- HSW_TEMPn — model temperatures (spec/02). -/
def HSW_TEMP (n : Nat) : Nat := 0x40010020 + 0x100 * n
def HSW_TEMP_TJ (n : Nat) : Fld := ⟨HSW_TEMP n, 32, 16⟩
def HSW_TEMP_TEFF (n : Nat) : Fld := ⟨HSW_TEMP n, 16, 16⟩
def HSW_TEMP_TWIRE (n : Nat) : Fld := ⟨HSW_TEMP n, 0, 16⟩

/-- HSW_CURn — current and loss (spec/02). -/
def HSW_CUR (n : Nat) : Nat := 0x40010028 + 0x100 * n
def HSW_CUR_PLOSS (n : Nat) : Fld := ⟨HSW_CUR n, 16, 16⟩
def HSW_CUR_IRMS (n : Nat) : Fld := ⟨HSW_CUR n, 0, 16⟩

/-- HSW_CMDn — channel commands (spec/02). -/
def HSW_CMD (n : Nat) : Nat := 0x40010030 + 0x100 * n
def HSW_CMD_TCLR (n : Nat) : Fld := ⟨HSW_CMD n, 1, 1⟩
def HSW_CMD_RCLR (n : Nat) : Fld := ⟨HSW_CMD n, 0, 1⟩

/-- HSW_INRn — inrush parameters (spec/02). -/
def HSW_INR (n : Nat) : Nat := 0x40010038 + 0x100 * n
def HSW_INR_START (n : Nat) : Fld := ⟨HSW_INR n, 24, 1⟩
def HSW_INR_ORDER (n : Nat) : Fld := ⟨HSW_INR n, 16, 6⟩
def HSW_INR_INR_TIME (n : Nat) : Fld := ⟨HSW_INR n, 8, 8⟩
def HSW_INR_INR_PEAK (n : Nat) : Fld := ⟨HSW_INR n, 0, 8⟩

/-- HSW_DCFGn — diagnosis configuration (spec/03). -/
def HSW_DCFG (n : Nat) : Nat := 0x40010040 + 0x100 * n
def HSW_DCFG_SPARE_EN (n : Nat) : Fld := ⟨HSW_DCFG n, 47, 1⟩
def HSW_DCFG_SPARE (n : Nat) : Fld := ⟨HSW_DCFG n, 40, 6⟩
def HSW_DCFG_IOLON (n : Nat) : Fld := ⟨HSW_DCFG n, 24, 8⟩
def HSW_DCFG_DPER (n : Nat) : Fld := ⟨HSW_DCFG n, 16, 8⟩
def HSW_DCFG_CONFIRM (n : Nat) : Fld := ⟨HSW_DCFG n, 8, 4⟩
def HSW_DCFG_STRETCH (n : Nat) : Fld := ⟨HSW_DCFG n, 3, 1⟩
def HSW_DCFG_ONDIAG (n : Nat) : Fld := ⟨HSW_DCFG n, 2, 1⟩
def HSW_DCFG_STBEN (n : Nat) : Fld := ⟨HSW_DCFG n, 1, 1⟩
def HSW_DCFG_OFFDIAG (n : Nat) : Fld := ⟨HSW_DCFG n, 0, 1⟩

/-- HSW_DSTATn — diagnosis status (spec/03). -/
def HSW_DSTAT (n : Nat) : Nat := 0x40010048 + 0x100 * n
def HSW_DSTAT_VOUT (n : Nat) : Fld := ⟨HSW_DSTAT n, 48, 16⟩
def HSW_DSTAT_IWIN (n : Nat) : Fld := ⟨HSW_DSTAT n, 32, 16⟩
def HSW_DSTAT_DCLR (n : Nat) : Fld := ⟨HSW_DSTAT n, 31, 1⟩
def HSW_DSTAT_EVID (n : Nat) : Fld := ⟨HSW_DSTAT n, 16, 4⟩
def HSW_DSTAT_EVKIND (n : Nat) : Fld := ⟨HSW_DSTAT n, 12, 4⟩
def HSW_DSTAT_SUBST (n : Nat) : Fld := ⟨HSW_DSTAT n, 8, 1⟩
def HSW_DSTAT_DSTATE (n : Nat) : Fld := ⟨HSW_DSTAT n, 0, 4⟩

/-- HSW_GOV — governor budget (spec/02). -/
def HSW_GOV : Nat := 0x40018000
def HSW_GOV_BUDGET : Fld := ⟨HSW_GOV, 0, 16⟩

/-- HSW_GOVSTAT — governor status (spec/02). -/
def HSW_GOVSTAT : Nat := 0x40018008
def HSW_GOVSTAT_FEEDB_OK : Fld := ⟨HSW_GOVSTAT, 50, 1⟩
def HSW_GOVSTAT_FEEDA_OK : Fld := ⟨HSW_GOVSTAT, 49, 1⟩
def HSW_GOVSTAT_SHEDDING : Fld := ⟨HSW_GOVSTAT, 48, 1⟩
def HSW_GOVSTAT_IFEEDB : Fld := ⟨HSW_GOVSTAT, 40, 8⟩
def HSW_GOVSTAT_IFEEDA : Fld := ⟨HSW_GOVSTAT, 32, 8⟩
def HSW_GOVSTAT_PARMED : Fld := ⟨HSW_GOVSTAT, 16, 16⟩
def HSW_GOVSTAT_PMEAS : Fld := ⟨HSW_GOVSTAT, 0, 16⟩

/-- HSW_BUNDLEb — bundle coupling (spec/02). -/
def HSW_BUNDLE (b : Nat) : Nat := 0x40018100 + 8 * b
def HSW_BUNDLE_SUMP (b : Nat) : Fld := ⟨HSW_BUNDLE b, 32, 16⟩
def HSW_BUNDLE_TAUB (b : Nat) : Fld := ⟨HSW_BUNDLE b, 16, 8⟩
def HSW_BUNDLE_KB (b : Nat) : Fld := ⟨HSW_BUNDLE b, 0, 16⟩

/-- HSW_AMBk — software ambient (spec/02). -/
def HSW_AMB (k : Nat) : Nat := 0x40018180 + 8 * k
def HSW_AMB_STALE (k : Nat) : Fld := ⟨HSW_AMB k, 32, 1⟩
def HSW_AMB_TAMB (k : Nat) : Fld := ⟨HSW_AMB k, 0, 16⟩

/-- HSW_INRLIM — inrush limits (spec/02). -/
def HSW_INRLIM : Nat := 0x40018200
def HSW_INRLIM_LIMB : Fld := ⟨HSW_INRLIM, 8, 8⟩
def HSW_INRLIM_LIMA : Fld := ⟨HSW_INRLIM, 0, 8⟩

/-- HSW_TRIP — trip flags (spec/02). -/
def HSW_TRIP : Nat := 0x40018208
def HSW_TRIP_TRIP : Fld := ⟨HSW_TRIP, 0, 64⟩

/-- HSW_TIEN — trip interrupt enables (spec/02). -/
def HSW_TIEN : Nat := 0x40018210
def HSW_TIEN_TEN : Fld := ⟨HSW_TIEN, 0, 64⟩

/-- HSW_IRQ — block flags (spec/02). -/
def HSW_IRQ : Nat := 0x40018218
def HSW_IRQ_SHED : Fld := ⟨HSW_IRQ, 3, 1⟩
def HSW_IRQ_GOV_REFUSE : Fld := ⟨HSW_IRQ, 2, 1⟩
def HSW_IRQ_AMB_STALE : Fld := ⟨HSW_IRQ, 1, 1⟩
def HSW_IRQ_CFG_VIOL : Fld := ⟨HSW_IRQ, 0, 1⟩

/-- HSW_IEN — block interrupt enables (spec/02). -/
def HSW_IEN : Nat := 0x40018220
def HSW_IEN_EN : Fld := ⟨HSW_IEN, 0, 4⟩

/-- HSW_LATCH — latch summary (spec/02). -/
def HSW_LATCH : Nat := 0x40018228
def HSW_LATCH_LATCH : Fld := ⟨HSW_LATCH, 0, 64⟩

/-- HSW_DIRQ — diagnosis flags (spec/03). -/
def HSW_DIRQ : Nat := 0x40019000
def HSW_DIRQ_DIAG : Fld := ⟨HSW_DIRQ, 0, 64⟩

/-- HSW_DIEN — diagnosis interrupt enables (spec/03). -/
def HSW_DIEN : Nat := 0x40019008
def HSW_DIEN_DEN : Fld := ⟨HSW_DIEN, 0, 64⟩

/-- HSW_TSLOTk — self-test slot (spec/03). -/
def HSW_TSLOT (k : Nat) : Nat := 0x40019040 + 8 * k
def HSW_TSLOT_GO (k : Nat) : Fld := ⟨HSW_TSLOT k, 63, 1⟩
def HSW_TSLOT_OWNER (k : Nat) : Fld := ⟨HSW_TSLOT k, 60, 3⟩
def HSW_TSLOT_DEADLINE (k : Nat) : Fld := ⟨HSW_TSLOT k, 32, 16⟩
def HSW_TSLOT_RESULT (k : Nat) : Fld := ⟨HSW_TSLOT k, 20, 4⟩
def HSW_TSLOT_ISTAT (k : Nat) : Fld := ⟨HSW_TSLOT k, 16, 4⟩
def HSW_TSLOT_TEST (k : Nat) : Fld := ⟨HSW_TSLOT k, 8, 3⟩
def HSW_TSLOT_CHAN (k : Nat) : Fld := ⟨HSW_TSLOT k, 0, 6⟩

/-- VLV_CFGc — channel configuration (spec/04). -/
def VLV_CFG (c : Nat) : Nat := 0x40020000 + 0x80 * c
def VLV_CFG_AMBFIX (c : Nat) : Fld := ⟨VLV_CFG c, 32, 8⟩
def VLV_CFG_AMBSRC (c : Nat) : Fld := ⟨VLV_CFG c, 28, 3⟩
def VLV_CFG_OFFDIAG (c : Nat) : Fld := ⟨VLV_CFG c, 9, 1⟩
def VLV_CFG_OWNER (c : Nat) : Fld := ⟨VLV_CFG c, 0, 3⟩

/-- VLV_COILc — coil model (spec/04). -/
def VLV_COIL (c : Nat) : Nat := 0x40020008 + 0x80 * c
def VLV_COIL_TREF (c : Nat) : Fld := ⟨VLV_COIL c, 56, 8⟩
def VLV_COIL_TRED (c : Nat) : Fld := ⟨VLV_COIL c, 48, 8⟩
def VLV_COIL_CTH (c : Nat) : Fld := ⟨VLV_COIL c, 40, 8⟩
def VLV_COIL_THETA (c : Nat) : Fld := ⟨VLV_COIL c, 32, 8⟩
def VLV_COIL_RC20 (c : Nat) : Fld := ⟨VLV_COIL c, 0, 16⟩

/-- VLV_STATc — channel status (spec/04). -/
def VLV_STAT (c : Nat) : Nat := 0x40020010 + 0x80 * c
def VLV_STAT_RMEAS (c : Nat) : Fld := ⟨VLV_STAT c, 48, 16⟩
def VLV_STAT_TCOIL (c : Nat) : Fld := ⟨VLV_STAT c, 32, 16⟩
def VLV_STAT_IMEAS (c : Nat) : Fld := ⟨VLV_STAT c, 20, 12⟩
def VLV_STAT_PROFILE (c : Nat) : Fld := ⟨VLV_STAT c, 16, 4⟩
def VLV_STAT_TRIP_CAUSE (c : Nat) : Fld := ⟨VLV_STAT c, 12, 4⟩
def VLV_STAT_COILRED (c : Nat) : Fld := ⟨VLV_STAT c, 11, 1⟩
def VLV_STAT_COILREF (c : Nat) : Fld := ⟨VLV_STAT c, 10, 1⟩
def VLV_STAT_HELD (c : Nat) : Fld := ⟨VLV_STAT c, 9, 1⟩
def VLV_STAT_LIMP (c : Nat) : Fld := ⟨VLV_STAT c, 8, 1⟩
def VLV_STAT_QUEUED (c : Nat) : Fld := ⟨VLV_STAT c, 7, 1⟩
def VLV_STAT_PHASE (c : Nat) : Fld := ⟨VLV_STAT c, 0, 4⟩

/-- VLV_DIAGc — channel diagnosis (spec/04). -/
def VLV_DIAG (c : Nat) : Nat := 0x40020018 + 0x80 * c
def VLV_DIAG_DCLR (c : Nat) : Fld := ⟨VLV_DIAG c, 63, 1⟩
def VLV_DIAG_TBOOST (c : Nat) : Fld := ⟨VLV_DIAG c, 16, 16⟩
def VLV_DIAG_DSTATE (c : Nat) : Fld := ⟨VLV_DIAG c, 0, 4⟩

/-- VLV_BANKb — bank status (spec/04). -/
def VLV_BANK (b : Nat) : Nat := 0x40021000 + 8 * b
def VLV_BANK_IHOLD (b : Nat) : Fld := ⟨VLV_BANK b, 32, 10⟩
def VLV_BANK_QLEN (b : Nat) : Fld := ⟨VLV_BANK b, 24, 5⟩
def VLV_BANK_BUSY (b : Nat) : Fld := ⟨VLV_BANK b, 21, 1⟩
def VLV_BANK_BOOSTCH (b : Nat) : Fld := ⟨VLV_BANK b, 16, 5⟩
def VLV_BANK_FWAIT (b : Nat) : Fld := ⟨VLV_BANK b, 2, 1⟩
def VLV_BANK_GANGED (b : Nat) : Fld := ⟨VLV_BANK b, 1, 1⟩
def VLV_BANK_FEED_OK (b : Nat) : Fld := ⟨VLV_BANK b, 0, 1⟩

/-- VLV_PROFp_A — profile timing (spec/04). -/
def VLV_PROF_A (p : Nat) : Nat := 0x40022000 + 0x10 * p
def VLV_PROF_A_HOLD_T (p : Nat) : Fld := ⟨VLV_PROF_A p, 48, 16⟩
def VLV_PROF_A_DEFER (p : Nat) : Fld := ⟨VLV_PROF_A p, 40, 8⟩
def VLV_PROF_A_BOOST_TMAX (p : Nat) : Fld := ⟨VLV_PROF_A p, 32, 8⟩
def VLV_PROF_A_PEAK_T (p : Nat) : Fld := ⟨VLV_PROF_A p, 12, 10⟩
def VLV_PROF_A_BOOST_I (p : Nat) : Fld := ⟨VLV_PROF_A p, 0, 9⟩

/-- VLV_PROFp_B — profile currents (spec/04). -/
def VLV_PROF_B (p : Nat) : Nat := 0x40022008 + 0x10 * p
def VLV_PROF_B_CHOPF (p : Nat) : Fld := ⟨VLV_PROF_B p, 24, 2⟩
def VLV_PROF_B_CLAMP (p : Nat) : Fld := ⟨VLV_PROF_B p, 20, 1⟩
def VLV_PROF_B_HOLD_FLOOR (p : Nat) : Fld := ⟨VLV_PROF_B p, 10, 10⟩
def VLV_PROF_B_HOLD_I (p : Nat) : Fld := ⟨VLV_PROF_B p, 0, 10⟩

/-- VLV_CTL — ganging and lock (spec/04). -/
def VLV_CTL : Nat := 0x40023000
def VLV_CTL_GIDX23 : Fld := ⟨VLV_CTL, 12, 3⟩
def VLV_CTL_GIDX01 : Fld := ⟨VLV_CTL, 8, 3⟩
def VLV_CTL_PLOCK : Fld := ⟨VLV_CTL, 2, 1⟩
def VLV_CTL_GANG23 : Fld := ⟨VLV_CTL, 1, 1⟩
def VLV_CTL_GANG01 : Fld := ⟨VLV_CTL, 0, 1⟩

/-- VLV_BOOST — boost regulator (spec/04). -/
def VLV_BOOST : Nat := 0x40023008
def VLV_BOOST_BEN : Fld := ⟨VLV_BOOST, 24, 1⟩
def VLV_BOOST_ILIM : Fld := ⟨VLV_BOOST, 16, 4⟩
def VLV_BOOST_VMIN : Fld := ⟨VLV_BOOST, 8, 8⟩
def VLV_BOOST_VSET : Fld := ⟨VLV_BOOST, 0, 8⟩

/-- VLV_BSTAT — boost status (spec/04). -/
def VLV_BSTAT : Nat := 0x40023010
def VLV_BSTAT_READY : Fld := ⟨VLV_BSTAT, 18, 1⟩
def VLV_BSTAT_UV : Fld := ⟨VLV_BSTAT, 17, 1⟩
def VLV_BSTAT_OV : Fld := ⟨VLV_BSTAT, 16, 1⟩
def VLV_BSTAT_VBST : Fld := ⟨VLV_BSTAT, 0, 16⟩

/-- VLV_IRQ — block flags (spec/04). -/
def VLV_IRQ : Nat := 0x40023018
def VLV_IRQ_CFG_VIOL : Fld := ⟨VLV_IRQ, 31, 1⟩
def VLV_IRQ_COILREF : Fld := ⟨VLV_IRQ, 30, 1⟩
def VLV_IRQ_BST_FAULT : Fld := ⟨VLV_IRQ, 29, 1⟩
def VLV_IRQ_FEED : Fld := ⟨VLV_IRQ, 24, 4⟩
def VLV_IRQ_TRIP : Fld := ⟨VLV_IRQ, 0, 24⟩

/-- VLV_IEN — interrupt enables (spec/04). -/
def VLV_IEN : Nat := 0x40023020
def VLV_IEN_EN : Fld := ⟨VLV_IEN, 24, 8⟩
def VLV_IEN_TEN : Fld := ⟨VLV_IEN, 0, 24⟩

/-- VLV_TSLOTk — self-test slot (spec/04). -/
def VLV_TSLOT (k : Nat) : Nat := 0x40023040 + 8 * k
def VLV_TSLOT_GO (k : Nat) : Fld := ⟨VLV_TSLOT k, 63, 1⟩
def VLV_TSLOT_OWNER (k : Nat) : Fld := ⟨VLV_TSLOT k, 60, 3⟩
def VLV_TSLOT_DEADLINE (k : Nat) : Fld := ⟨VLV_TSLOT k, 32, 16⟩
def VLV_TSLOT_RESULT (k : Nat) : Fld := ⟨VLV_TSLOT k, 20, 4⟩
def VLV_TSLOT_ISTAT (k : Nat) : Fld := ⟨VLV_TSLOT k, 16, 4⟩
def VLV_TSLOT_TEST (k : Nat) : Fld := ⟨VLV_TSLOT k, 8, 3⟩
def VLV_TSLOT_CHAN (k : Nat) : Fld := ⟨VLV_TSLOT k, 0, 6⟩

/-- LED_CFGn — sink configuration (spec/05). -/
def LED_CFG (n : Nat) : Nat := 0x40030000 + 0x40 * n
def LED_CFG_VSHORT (n : Nat) : Fld := ⟨LED_CFG n, 8, 8⟩
def LED_CFG_SHORTOFF (n : Nat) : Fld := ⟨LED_CFG n, 7, 1⟩
def LED_CFG_TRACK (n : Nat) : Fld := ⟨LED_CFG n, 6, 1⟩
def LED_CFG_CURVE (n : Nat) : Fld := ⟨LED_CFG n, 4, 2⟩
def LED_CFG_DIAGEN (n : Nat) : Fld := ⟨LED_CFG n, 3, 1⟩
def LED_CFG_OWNER (n : Nat) : Fld := ⟨LED_CFG n, 0, 3⟩

/-- LED_STATn — sink status (spec/05). -/
def LED_STAT (n : Nat) : Nat := 0x40030008 + 0x40 * n
def LED_STAT_IMEAS (n : Nat) : Fld := ⟨LED_STAT n, 48, 16⟩
def LED_STAT_TARGET (n : Nat) : Fld := ⟨LED_STAT n, 32, 12⟩
def LED_STAT_LEVEL (n : Nat) : Fld := ⟨LED_STAT n, 16, 12⟩
def LED_STAT_FSTEP (n : Nat) : Fld := ⟨LED_STAT n, 7, 9⟩
def LED_STAT_FOLD (n : Nat) : Fld := ⟨LED_STAT n, 6, 1⟩
def LED_STAT_FADING (n : Nat) : Fld := ⟨LED_STAT n, 5, 1⟩
def LED_STAT_HELD (n : Nat) : Fld := ⟨LED_STAT n, 4, 1⟩
def LED_STAT_MCOL (n : Nat) : Fld := ⟨LED_STAT n, 3, 1⟩

/-- LED_DIAGn — sink diagnosis (spec/05). -/
def LED_DIAG (n : Nat) : Nat := 0x40030010 + 0x40 * n
def LED_DIAG_DCLR (n : Nat) : Fld := ⟨LED_DIAG n, 63, 1⟩
def LED_DIAG_VSINK (n : Nat) : Fld := ⟨LED_DIAG n, 32, 16⟩
def LED_DIAG_EVID (n : Nat) : Fld := ⟨LED_DIAG n, 16, 4⟩
def LED_DIAG_EVKIND (n : Nat) : Fld := ⟨LED_DIAG n, 12, 4⟩
def LED_DIAG_DSTATE (n : Nat) : Fld := ⟨LED_DIAG n, 0, 4⟩

/-- LED_GCFG — global level (spec/05). -/
def LED_GCFG : Nat := 0x40031000
def LED_GCFG_OWNER : Fld := ⟨LED_GCFG, 8, 3⟩
def LED_GCFG_GLEVEL : Fld := ⟨LED_GCFG, 0, 8⟩

/-- LED_VCFG — VLED rail (spec/05). -/
def LED_VCFG : Nat := 0x40031008
def LED_VCFG_MODE : Fld := ⟨LED_VCFG, 48, 2⟩
def LED_VCFG_VINIT : Fld := ⟨LED_VCFG, 32, 16⟩
def LED_VCFG_VMAX : Fld := ⟨LED_VCFG, 16, 16⟩
def LED_VCFG_VHEAD : Fld := ⟨LED_VCFG, 8, 8⟩

/-- LED_VSTAT — VLED status (spec/05). -/
def LED_VSTAT : Nat := 0x40031010
def LED_VSTAT_VLED : Fld := ⟨LED_VSTAT, 48, 16⟩
def LED_VSTAT_IDEM : Fld := ⟨LED_VSTAT, 32, 16⟩
def LED_VSTAT_ITOT : Fld := ⟨LED_VSTAT, 16, 16⟩
def LED_VSTAT_CEIL : Fld := ⟨LED_VSTAT, 3, 1⟩
def LED_VSTAT_OC : Fld := ⟨LED_VSTAT, 2, 1⟩
def LED_VSTAT_UV : Fld := ⟨LED_VSTAT, 1, 1⟩
def LED_VSTAT_OV : Fld := ⟨LED_VSTAT, 0, 1⟩

/-- LED_MCFG — matrix configuration (spec/05). -/
def LED_MCFG : Nat := 0x40031018
def LED_MCFG_MEN : Fld := ⟨LED_MCFG, 63, 1⟩
def LED_MCFG_OWNER : Fld := ⟨LED_MCFG, 56, 3⟩
def LED_MCFG_VFWD : Fld := ⟨LED_MCFG, 32, 8⟩
def LED_MCFG_PRE_T : Fld := ⟨LED_MCFG, 16, 5⟩
def LED_MCFG_FRATE : Fld := ⟨LED_MCFG, 0, 12⟩

/-- LED_MSTAT — matrix status (spec/05). -/
def LED_MSTAT : Nat := 0x40031020
def LED_MSTAT_FRAMES : Fld := ⟨LED_MSTAT, 32, 32⟩
def LED_MSTAT_MSTOP : Fld := ⟨LED_MSTAT, 18, 1⟩
def LED_MSTAT_LINE : Fld := ⟨LED_MSTAT, 8, 3⟩
def LED_MSTAT_LOC : Fld := ⟨LED_MSTAT, 0, 8⟩

/-- LED_MCMD — matrix restart (spec/05). -/
def LED_MCMD : Nat := 0x40031028
def LED_MCMD_MRST : Fld := ⟨LED_MCMD, 0, 1⟩

/-- LED_FDONE — fade completion (spec/05). -/
def LED_FDONE : Nat := 0x40031030
def LED_FDONE_FDONE : Fld := ⟨LED_FDONE, 0, 48⟩

/-- LED_IRQ — block flags (spec/05). -/
def LED_IRQ : Nat := 0x40031038
def LED_IRQ_FRAME_ECC : Fld := ⟨LED_IRQ, 7, 1⟩
def LED_IRQ_FRAME_VIOL : Fld := ⟨LED_IRQ, 6, 1⟩
def LED_IRQ_CHAIN_ERR : Fld := ⟨LED_IRQ, 5, 1⟩
def LED_IRQ_MSTOP : Fld := ⟨LED_IRQ, 4, 1⟩
def LED_IRQ_VLED_FAULT : Fld := ⟨LED_IRQ, 3, 1⟩
def LED_IRQ_DIAG : Fld := ⟨LED_IRQ, 2, 1⟩
def LED_IRQ_FADE_CUT : Fld := ⟨LED_IRQ, 1, 1⟩
def LED_IRQ_CFG_VIOL : Fld := ⟨LED_IRQ, 0, 1⟩

/-- LED_IEN — interrupt enables (spec/05). -/
def LED_IEN : Nat := 0x40031040
def LED_IEN_EN : Fld := ⟨LED_IEN, 56, 8⟩
def LED_IEN_FDEN : Fld := ⟨LED_IEN, 0, 48⟩

/-- LED_MOPENk — open matrix points (spec/05). -/
def LED_MOPEN (k : Nat) : Nat := 0x40031080 + 8 * k
def LED_MOPEN_OPEN (k : Nat) : Fld := ⟨LED_MOPEN k, 0, 64⟩

/-- LED_TSLOTk — self-test slot (spec/05). -/
def LED_TSLOT (k : Nat) : Nat := 0x400310C0 + 8 * k
def LED_TSLOT_GO (k : Nat) : Fld := ⟨LED_TSLOT k, 63, 1⟩
def LED_TSLOT_OWNER (k : Nat) : Fld := ⟨LED_TSLOT k, 60, 3⟩
def LED_TSLOT_DEADLINE (k : Nat) : Fld := ⟨LED_TSLOT k, 32, 16⟩
def LED_TSLOT_RESULT (k : Nat) : Fld := ⟨LED_TSLOT k, 20, 4⟩
def LED_TSLOT_ISTAT (k : Nat) : Fld := ⟨LED_TSLOT k, 16, 4⟩
def LED_TSLOT_TEST (k : Nat) : Fld := ⟨LED_TSLOT k, 8, 3⟩
def LED_TSLOT_CHAN (k : Nat) : Fld := ⟨LED_TSLOT k, 0, 6⟩

/-- LED_SCk_CFG — chain configuration (spec/05). -/
def LED_SC_CFG (k : Nat) : Nat := 0x40032000 + 0x100 * k
def LED_SC_CFG_EN (k : Nat) : Fld := ⟨LED_SC_CFG k, 63, 1⟩
def LED_SC_CFG_OWNER (k : Nat) : Fld := ⟨LED_SC_CFG k, 56, 3⟩
def LED_SC_CFG_VERIFY (k : Nat) : Fld := ⟨LED_SC_CFG k, 16, 1⟩
def LED_SC_CFG_LEW (k : Nat) : Fld := ⟨LED_SC_CFG k, 8, 4⟩
def LED_SC_CFG_SCDIV (k : Nat) : Fld := ⟨LED_SC_CFG k, 0, 4⟩

/-- LED_SCk_STAT — chain status (spec/05). -/
def LED_SC_STAT (k : Nat) : Nat := 0x40032008 + 0x100 * k
def LED_SC_STAT_LATCH_TIME (k : Nat) : Fld := ⟨LED_SC_STAT k, 32, 32⟩
def LED_SC_STAT_MISMATCH (k : Nat) : Fld := ⟨LED_SC_STAT k, 16, 16⟩
def LED_SC_STAT_FRAME (k : Nat) : Fld := ⟨LED_SC_STAT k, 12, 4⟩
def LED_SC_STAT_STATE (k : Nat) : Fld := ⟨LED_SC_STAT k, 10, 2⟩

/-- LED_MPTp — matrix point level (spec/05). -/
def LED_MPT (p : Nat) : Nat := 0x40033000 + 8 * p
def LED_MPT_LEVEL (p : Nat) : Fld := ⟨LED_MPT p, 0, 12⟩

/-- LED_SCk_FRMf_w — frame word (spec/05). -/
def LED_SC_FRM (k f w : Nat) : Nat := 0x40034000 + 0x2000 * k + 0x200 * f + 8 * w
def LED_SC_FRM_BITS (k f w : Nat) : Fld := ⟨LED_SC_FRM k f w, 0, 64⟩

/-- DIN_CFGn — input configuration (spec/06). -/
def DIN_CFG (n : Nat) : Nat := 0x40040000 + 0x20 * n
def DIN_CFG_SCAN (n : Nat) : Fld := ⟨DIN_CFG n, 16, 6⟩
def DIN_CFG_WEDGE (n : Nat) : Fld := ⟨DIN_CFG n, 8, 2⟩
def DIN_CFG_WAKE (n : Nat) : Fld := ⟨DIN_CFG n, 6, 1⟩
def DIN_CFG_WBEN (n : Nat) : Fld := ⟨DIN_CFG n, 5, 1⟩
def DIN_CFG_WET (n : Nat) : Fld := ⟨DIN_CFG n, 4, 1⟩
def DIN_CFG_PUL (n : Nat) : Fld := ⟨DIN_CFG n, 3, 1⟩
def DIN_CFG_OWNER (n : Nat) : Fld := ⟨DIN_CFG n, 0, 3⟩

/-- DIN_FLTn — filter and thresholds (spec/06). -/
def DIN_FLT (n : Nat) : Nat := 0x40040008 + 0x20 * n
def DIN_FLT_THR_H (n : Nat) : Fld := ⟨DIN_FLT n, 40, 8⟩
def DIN_FLT_THR_L (n : Nat) : Fld := ⟨DIN_FLT n, 32, 8⟩
def DIN_FLT_WBCONF (n : Nat) : Fld := ⟨DIN_FLT n, 24, 4⟩
def DIN_FLT_DNTH (n : Nat) : Fld := ⟨DIN_FLT n, 16, 8⟩
def DIN_FLT_UPTH (n : Nat) : Fld := ⟨DIN_FLT n, 8, 8⟩
def DIN_FLT_CMAX (n : Nat) : Fld := ⟨DIN_FLT n, 0, 8⟩

/-- DIN_WBn — wire-break windows (spec/06). -/
def DIN_WB (n : Nat) : Nat := 0x40040010 + 0x20 * n
def DIN_WB_WB3 (n : Nat) : Fld := ⟨DIN_WB n, 16, 8⟩
def DIN_WB_WB2 (n : Nat) : Fld := ⟨DIN_WB n, 8, 8⟩
def DIN_WB_WB1 (n : Nat) : Fld := ⟨DIN_WB n, 0, 8⟩

/-- DIN_STATn — input status (spec/06). -/
def DIN_STAT (n : Nat) : Nat := 0x40040018 + 0x20 * n
def DIN_STAT_STAMP (n : Nat) : Fld := ⟨DIN_STAT n, 32, 32⟩
def DIN_STAT_VPIN (n : Nat) : Fld := ⟨DIN_STAT n, 16, 16⟩
def DIN_STAT_COUNT (n : Nat) : Fld := ⟨DIN_STAT n, 8, 8⟩
def DIN_STAT_RAW (n : Nat) : Fld := ⟨DIN_STAT n, 4, 4⟩
def DIN_STAT_STATE (n : Nat) : Fld := ⟨DIN_STAT n, 0, 4⟩

/-- DIN_SUMk — state summary (spec/06). -/
def DIN_SUM (k : Nat) : Nat := 0x40041000 + 8 * k
def DIN_SUM_ST (k ix : Nat) : Fld := ⟨DIN_SUM k, 4 * ix, 4⟩

/-- DIN_CHGk — change flags (spec/06). -/
def DIN_CHG (k : Nat) : Nat := 0x40041030 + 8 * k
def DIN_CHG_CHG (k : Nat) : Fld := ⟨DIN_CHG k, 0, 64⟩

/-- DIN_CIENk — change interrupt enables (spec/06). -/
def DIN_CIEN (k : Nat) : Nat := 0x40041040 + 8 * k
def DIN_CIEN_CEN (k : Nat) : Fld := ⟨DIN_CIEN k, 0, 64⟩

/-- DIN_IRQ — block flags (spec/06). -/
def DIN_IRQ : Nat := 0x40041050
def DIN_IRQ_WET_FAULT : Fld := ⟨DIN_IRQ, 2, 1⟩
def DIN_IRQ_WBLOWV : Fld := ⟨DIN_IRQ, 1, 1⟩
def DIN_IRQ_CFG_VIOL : Fld := ⟨DIN_IRQ, 0, 1⟩

/-- DIN_IEN — block interrupt enables (spec/06). -/
def DIN_IEN : Nat := 0x40041058
def DIN_IEN_EN : Fld := ⟨DIN_IEN, 0, 3⟩

/-- DIN_WAKE — last wake input (spec/06). -/
def DIN_WAKE : Nat := 0x40041060
def DIN_WAKE_VALID : Fld := ⟨DIN_WAKE, 12, 1⟩
def DIN_WAKE_STATE : Fld := ⟨DIN_WAKE, 8, 4⟩
def DIN_WAKE_INPUT : Fld := ⟨DIN_WAKE, 0, 7⟩

/-- DIN_GSTAT — block status (spec/06). -/
def DIN_GSTAT : Nat := 0x40041068
def DIN_GSTAT_NCONT : Fld := ⟨DIN_GSTAT, 0, 5⟩

/-- DOUT_CFGn — output configuration (spec/06). -/
def DOUT_CFG (n : Nat) : Nat := 0x40050000 + 0x40 * n
def DOUT_CFG_REFW (n : Nat) : Fld := ⟨DOUT_CFG n, 16, 16⟩
def DOUT_CFG_OFFDIAG (n : Nat) : Fld := ⟨DOUT_CFG n, 3, 1⟩
def DOUT_CFG_OWNER (n : Nat) : Fld := ⟨DOUT_CFG n, 0, 3⟩

/-- DOUT_STATn — output status (spec/06). -/
def DOUT_STAT (n : Nat) : Nat := 0x40050008 + 0x40 * n
def DOUT_STAT_DCLR (n : Nat) : Fld := ⟨DOUT_STAT n, 63, 1⟩
def DOUT_STAT_REFLEFT (n : Nat) : Fld := ⟨DOUT_STAT n, 32, 16⟩
def DOUT_STAT_DSTATE (n : Nat) : Fld := ⟨DOUT_STAT n, 12, 4⟩
def DOUT_STAT_TRIP_CAUSE (n : Nat) : Fld := ⟨DOUT_STAT n, 8, 4⟩
def DOUT_STAT_SEQ (n : Nat) : Fld := ⟨DOUT_STAT n, 4, 4⟩
def DOUT_STAT_LIMP (n : Nat) : Fld := ⟨DOUT_STAT n, 3, 1⟩
def DOUT_STAT_HELD (n : Nat) : Fld := ⟨DOUT_STAT n, 2, 1⟩
def DOUT_STAT_STATIC (n : Nat) : Fld := ⟨DOUT_STAT n, 1, 1⟩
def DOUT_STAT_OUT (n : Nat) : Fld := ⟨DOUT_STAT n, 0, 1⟩

/-- DOUT_RFRn — refresh (spec/06). -/
def DOUT_RFR (n : Nat) : Nat := 0x40050010 + 0x40 * n
def DOUT_RFR_SEQ (n : Nat) : Fld := ⟨DOUT_RFR n, 0, 4⟩

/-- DOUT_IRQ — block flags (spec/06). -/
def DOUT_IRQ : Nat := 0x40051000
def DOUT_IRQ_CFG_VIOL : Fld := ⟨DOUT_IRQ, 50, 1⟩
def DOUT_IRQ_RFR_LATE : Fld := ⟨DOUT_IRQ, 49, 1⟩
def DOUT_IRQ_RFR_BAD : Fld := ⟨DOUT_IRQ, 48, 1⟩
def DOUT_IRQ_DIAG : Fld := ⟨DOUT_IRQ, 32, 16⟩
def DOUT_IRQ_TRIP : Fld := ⟨DOUT_IRQ, 16, 16⟩
def DOUT_IRQ_SILENT : Fld := ⟨DOUT_IRQ, 0, 16⟩

/-- DOUT_IEN — interrupt enables (spec/06). -/
def DOUT_IEN : Nat := 0x40051008
def DOUT_IEN_EN : Fld := ⟨DOUT_IEN, 48, 3⟩
def DOUT_IEN_OEN : Fld := ⟨DOUT_IEN, 0, 48⟩

/-- DOUT_TSLOTk — self-test slot (spec/06). -/
def DOUT_TSLOT (k : Nat) : Nat := 0x40051040 + 8 * k
def DOUT_TSLOT_GO (k : Nat) : Fld := ⟨DOUT_TSLOT k, 63, 1⟩
def DOUT_TSLOT_OWNER (k : Nat) : Fld := ⟨DOUT_TSLOT k, 60, 3⟩
def DOUT_TSLOT_DEADLINE (k : Nat) : Fld := ⟨DOUT_TSLOT k, 32, 16⟩
def DOUT_TSLOT_RESULT (k : Nat) : Fld := ⟨DOUT_TSLOT k, 20, 4⟩
def DOUT_TSLOT_ISTAT (k : Nat) : Fld := ⟨DOUT_TSLOT k, 16, 4⟩
def DOUT_TSLOT_TEST (k : Nat) : Fld := ⟨DOUT_TSLOT k, 8, 3⟩
def DOUT_TSLOT_CHAN (k : Nat) : Fld := ⟨DOUT_TSLOT k, 0, 6⟩

/-- GTn_CFG — counter configuration (spec/07). -/
def GT_CFG (n : Nat) : Nat := 0x40060000 + 0x80 * n
def GT_CFG_OWNER (n : Nat) : Fld := ⟨GT_CFG n, 48, 3⟩
def GT_CFG_CAPSRC (n : Nat) : Fld := ⟨GT_CFG n, 32, 8⟩
def GT_CFG_CAPEDGE (n : Nat) : Fld := ⟨GT_CFG n, 25, 2⟩
def GT_CFG_MAKEUP (n : Nat) : Fld := ⟨GT_CFG n, 24, 1⟩
def GT_CFG_PUPD (n : Nat) : Fld := ⟨GT_CFG n, 23, 1⟩
def GT_CFG_OUTMODE (n : Nat) : Fld := ⟨GT_CFG n, 21, 2⟩
def GT_CFG_LINK (n : Nat) : Fld := ⟨GT_CFG n, 16, 5⟩
def GT_CFG_PSC (n : Nat) : Fld := ⟨GT_CFG n, 0, 16⟩

/-- GTn_ACT — event actions (spec/07). -/
def GT_ACT (n : Nat) : Nat := 0x40060008 + 0x80 * n
def GT_ACT_TSEL (n : Nat) : Fld := ⟨GT_ACT n, 26, 2⟩
def GT_ACT_TACT (n : Nat) : Fld := ⟨GT_ACT n, 24, 2⟩
def GT_ACT_BACT (n : Nat) : Fld := ⟨GT_ACT n, 16, 8⟩
def GT_ACT_AACT (n : Nat) : Fld := ⟨GT_ACT n, 8, 8⟩
def GT_ACT_PACT (n : Nat) : Fld := ⟨GT_ACT n, 0, 8⟩

/-- GTn_CMD — counter commands (spec/07). -/
def GT_CMD (n : Nat) : Nat := 0x40060010 + 0x80 * n
def GT_CMD_CAPNOW (n : Nat) : Fld := ⟨GT_CMD n, 3, 1⟩
def GT_CMD_RESET (n : Nat) : Fld := ⟨GT_CMD n, 2, 1⟩
def GT_CMD_STOP (n : Nat) : Fld := ⟨GT_CMD n, 1, 1⟩
def GT_CMD_START (n : Nat) : Fld := ⟨GT_CMD n, 0, 1⟩

/-- GTn_CNT — count (spec/07). -/
def GT_CNT (n : Nat) : Nat := 0x40060018 + 0x80 * n
def GT_CNT_COUNT (n : Nat) : Fld := ⟨GT_CNT n, 0, 64⟩

/-- GTn_PER — period (spec/07). -/
def GT_PER (n : Nat) : Nat := 0x40060020 + 0x80 * n
def GT_PER_PERIOD (n : Nat) : Fld := ⟨GT_PER n, 0, 64⟩

/-- GTn_CMPA — compare A (spec/07). -/
def GT_CMPA (n : Nat) : Nat := 0x40060028 + 0x80 * n
def GT_CMPA_CMPA (n : Nat) : Fld := ⟨GT_CMPA n, 0, 64⟩

/-- GTn_CMPB — compare B (spec/07). -/
def GT_CMPB (n : Nat) : Nat := 0x40060030 + 0x80 * n
def GT_CMPB_CMPB (n : Nat) : Fld := ⟨GT_CMPB n, 0, 64⟩

/-- GTn_CAP — capture (spec/07). -/
def GT_CAP (n : Nat) : Nat := 0x40060038 + 0x80 * n
def GT_CAP_CAP (n : Nat) : Fld := ⟨GT_CAP n, 0, 64⟩

/-- GTn_STAT — counter status (spec/07). -/
def GT_STAT (n : Nat) : Nat := 0x40060040 + 0x80 * n
def GT_STAT_MKWRAPS (n : Nat) : Fld := ⟨GT_STAT n, 48, 16⟩
def GT_STAT_RUN (n : Nat) : Fld := ⟨GT_STAT n, 8, 1⟩
def GT_STAT_OUT (n : Nat) : Fld := ⟨GT_STAT n, 7, 1⟩
def GT_STAT_OVERRUN (n : Nat) : Fld := ⟨GT_STAT n, 5, 1⟩
def GT_STAT_CAPF (n : Nat) : Fld := ⟨GT_STAT n, 4, 1⟩
def GT_STAT_BF (n : Nat) : Fld := ⟨GT_STAT n, 2, 1⟩
def GT_STAT_AF (n : Nat) : Fld := ⟨GT_STAT n, 1, 1⟩
def GT_STAT_PF (n : Nat) : Fld := ⟨GT_STAT n, 0, 1⟩

/-- GT_GSTART — group start (spec/07). -/
def GT_GSTART : Nat := 0x40061000
def GT_GSTART_START : Fld := ⟨GT_GSTART, 0, 32⟩

/-- GT_GSTOP — group stop (spec/07). -/
def GT_GSTOP : Nat := 0x40061008
def GT_GSTOP_STOP : Fld := ⟨GT_GSTOP, 0, 32⟩

/-- GT_RUN — run summary (spec/07). -/
def GT_RUN : Nat := 0x40061010
def GT_RUN_RUN : Fld := ⟨GT_RUN, 0, 32⟩

/-- GT_IRQ — block flags (spec/07). -/
def GT_IRQ : Nat := 0x40061018
def GT_IRQ_CFG_VIOL : Fld := ⟨GT_IRQ, 0, 1⟩

/-- GT_IEN — block interrupt enable (spec/07). -/
def GT_IEN : Nat := 0x40061020
def GT_IEN_EN : Fld := ⟨GT_IEN, 0, 1⟩

/-- NTU_NS — network time (spec/07). -/
def NTU_NS : Nat := 0x40070000
def NTU_NS_NS : Fld := ⟨NTU_NS, 0, 32⟩

/-- NTU_EXT — extended time (spec/07). -/
def NTU_EXT : Nat := 0x40070008
def NTU_EXT_WRAPS : Fld := ⟨NTU_EXT, 32, 32⟩
def NTU_EXT_NS : Fld := ⟨NTU_EXT, 0, 32⟩

/-- NTU_INC — increment (spec/07). -/
def NTU_INC : Nat := 0x40070010
def NTU_INC_INT : Fld := ⟨NTU_INC, 32, 8⟩
def NTU_INC_FRAC : Fld := ⟨NTU_INC, 0, 32⟩

/-- NTU_ADJ — offset correction (spec/07). -/
def NTU_ADJ : Nat := 0x40070018
def NTU_ADJ_GO : Fld := ⟨NTU_ADJ, 63, 1⟩
def NTU_ADJ_STEP : Fld := ⟨NTU_ADJ, 32, 1⟩
def NTU_ADJ_OFFSET : Fld := ⟨NTU_ADJ, 0, 32⟩

/-- NTU_SYNC — synchronisation state (spec/07). -/
def NTU_SYNC : Nat := 0x40070020
def NTU_SYNC_KEEPER : Fld := ⟨NTU_SYNC, 48, 3⟩
def NTU_SYNC_SYNC : Fld := ⟨NTU_SYNC, 32, 1⟩
def NTU_SYNC_HOLDMS : Fld := ⟨NTU_SYNC, 16, 16⟩
def NTU_SYNC_TERR : Fld := ⟨NTU_SYNC, 0, 16⟩

/-- NTU_STAT — NTU status (spec/07). -/
def NTU_STAT : Nat := 0x40070028
def NTU_STAT_ADJ_LEFT : Fld := ⟨NTU_STAT, 32, 32⟩
def NTU_STAT_DEGRADED : Fld := ⟨NTU_STAT, 6, 1⟩
def NTU_STAT_WVIOL : Fld := ⟨NTU_STAT, 5, 1⟩
def NTU_STAT_SYNCLOST : Fld := ⟨NTU_STAT, 4, 1⟩
def NTU_STAT_ADJ_REFUSED : Fld := ⟨NTU_STAT, 3, 1⟩
def NTU_STAT_STEPPED : Fld := ⟨NTU_STAT, 2, 1⟩
def NTU_STAT_TTIME_ERR : Fld := ⟨NTU_STAT, 1, 1⟩
def NTU_STAT_WRAP : Fld := ⟨NTU_STAT, 0, 1⟩

/-- NTU_IEN — NTU interrupt enables (spec/07). -/
def NTU_IEN : Nat := 0x40070030
def NTU_IEN_CAPEN : Fld := ⟨NTU_IEN, 8, 8⟩
def NTU_IEN_EN : Fld := ⟨NTU_IEN, 0, 6⟩

/-- NTU_CAPCFG — capture control (spec/07). -/
def NTU_CAPCFG : Nat := 0x40070038
def NTU_CAPCFG_SWCAP : Fld := ⟨NTU_CAPCFG, 16, 8⟩
def NTU_CAPCFG_EDGE : Fld := ⟨NTU_CAPCFG, 0, 16⟩

/-- NTU_CAPk — time capture (spec/07). -/
def NTU_CAP (k : Nat) : Nat := 0x40070040 + 8 * k
def NTU_CAP_WRAPS (k : Nat) : Fld := ⟨NTU_CAP k, 32, 32⟩
def NTU_CAP_NS (k : Nat) : Fld := ⟨NTU_CAP k, 0, 32⟩

/-- NTU_CAPSTAT — capture status (spec/07). -/
def NTU_CAPSTAT : Nat := 0x40070080
def NTU_CAPSTAT_OVERRUN : Fld := ⟨NTU_CAPSTAT, 8, 8⟩
def NTU_CAPSTAT_CAPF : Fld := ⟨NTU_CAPSTAT, 0, 8⟩

/-- NTU_TRGk_CFG — trigger control (spec/07). -/
def NTU_TRG_CFG (k : Nat) : Nat := 0x40070100 + 0x20 * k
def NTU_TRG_CFG_ARM (k : Nat) : Fld := ⟨NTU_TRG_CFG k, 63, 1⟩
def NTU_TRG_CFG_OWNER (k : Nat) : Fld := ⟨NTU_TRG_CFG k, 8, 3⟩
def NTU_TRG_CFG_OE (k : Nat) : Fld := ⟨NTU_TRG_CFG k, 4, 1⟩
def NTU_TRG_CFG_POL (k : Nat) : Fld := ⟨NTU_TRG_CFG k, 3, 1⟩
def NTU_TRG_CFG_MODE (k : Nat) : Fld := ⟨NTU_TRG_CFG k, 0, 2⟩

/-- NTU_TRGk_TIME — trigger time (spec/07). -/
def NTU_TRG_TIME (k : Nat) : Nat := 0x40070108 + 0x20 * k
def NTU_TRG_TIME_TIME (k : Nat) : Fld := ⟨NTU_TRG_TIME k, 0, 32⟩

/-- NTU_TRGk_PW — trigger period and width (spec/07). -/
def NTU_TRG_PW (k : Nat) : Nat := 0x40070110 + 0x20 * k
def NTU_TRG_PW_WIDTH (k : Nat) : Fld := ⟨NTU_TRG_PW k, 32, 32⟩
def NTU_TRG_PW_PERIOD (k : Nat) : Fld := ⟨NTU_TRG_PW k, 0, 32⟩

/-- CANn_CTL — channel control (spec/08). -/
def CAN_CTL (n : Nat) : Nat := 0x40080000 + 0x2000 * n
def CAN_CTL_OWNER (n : Nat) : Fld := ⟨CAN_CTL n, 56, 3⟩
def CAN_CTL_TACKB (n : Nat) : Fld := ⟨CAN_CTL n, 48, 8⟩
def CAN_CTL_ABDT (n : Nat) : Fld := ⟨CAN_CTL n, 40, 8⟩
def CAN_CTL_ABDN (n : Nat) : Fld := ⟨CAN_CTL n, 32, 2⟩
def CAN_CTL_BOREC (n : Nat) : Fld := ⟨CAN_CTL n, 11, 1⟩
def CAN_CTL_BORA (n : Nat) : Fld := ⟨CAN_CTL n, 10, 1⟩
def CAN_CTL_PEX (n : Nat) : Fld := ⟨CAN_CTL n, 9, 1⟩
def CAN_CTL_PNWAKE (n : Nat) : Fld := ⟨CAN_CTL n, 8, 1⟩
def CAN_CTL_MODE (n : Nat) : Fld := ⟨CAN_CTL n, 0, 3⟩

/-- CANn_NBT — nominal bit timing (spec/08). -/
def CAN_NBT (n : Nat) : Nat := 0x40080008 + 0x2000 * n
def CAN_NBT_SJW (n : Nat) : Fld := ⟨CAN_NBT n, 25, 7⟩
def CAN_NBT_TSEG2 (n : Nat) : Fld := ⟨CAN_NBT n, 18, 7⟩
def CAN_NBT_TSEG1 (n : Nat) : Fld := ⟨CAN_NBT n, 10, 8⟩
def CAN_NBT_BRP (n : Nat) : Fld := ⟨CAN_NBT n, 0, 8⟩

/-- CANn_DBT — data bit timing (spec/08). -/
def CAN_DBT (n : Nat) : Nat := 0x40080010 + 0x2000 * n
def CAN_DBT_TDCO (n : Nat) : Fld := ⟨CAN_DBT n, 40, 8⟩
def CAN_DBT_TDCEN (n : Nat) : Fld := ⟨CAN_DBT n, 39, 1⟩
def CAN_DBT_SJW (n : Nat) : Fld := ⟨CAN_DBT n, 24, 5⟩
def CAN_DBT_TSEG2 (n : Nat) : Fld := ⟨CAN_DBT n, 16, 5⟩
def CAN_DBT_TSEG1 (n : Nat) : Fld := ⟨CAN_DBT n, 8, 6⟩
def CAN_DBT_BRP (n : Nat) : Fld := ⟨CAN_DBT n, 0, 5⟩

/-- CANn_XBT — XL data bit timing (spec/08). -/
def CAN_XBT (n : Nat) : Nat := 0x40080018 + 0x2000 * n
def CAN_XBT_TDCO (n : Nat) : Fld := ⟨CAN_XBT n, 40, 8⟩
def CAN_XBT_TDCEN (n : Nat) : Fld := ⟨CAN_XBT n, 39, 1⟩
def CAN_XBT_SJW (n : Nat) : Fld := ⟨CAN_XBT n, 24, 5⟩
def CAN_XBT_TSEG2 (n : Nat) : Fld := ⟨CAN_XBT n, 16, 5⟩
def CAN_XBT_TSEG1 (n : Nat) : Fld := ⟨CAN_XBT n, 8, 6⟩
def CAN_XBT_BRP (n : Nat) : Fld := ⟨CAN_XBT n, 0, 5⟩

/-- CANn_STAT — channel status (spec/08). -/
def CAN_STAT (n : Nat) : Nat := 0x40080020 + 0x2000 * n
def CAN_STAT_TDCV (n : Nat) : Fld := ⟨CAN_STAT n, 56, 8⟩
def CAN_STAT_LOST (n : Nat) : Fld := ⟨CAN_STAT n, 32, 16⟩
def CAN_STAT_ABDIDX (n : Nat) : Fld := ⟨CAN_STAT n, 28, 2⟩
def CAN_STAT_FROZEN (n : Nat) : Fld := ⟨CAN_STAT n, 27, 1⟩
def CAN_STAT_EPASS (n : Nat) : Fld := ⟨CAN_STAT n, 26, 1⟩
def CAN_STAT_REC (n : Nat) : Fld := ⟨CAN_STAT n, 16, 8⟩
def CAN_STAT_TEC (n : Nat) : Fld := ⟨CAN_STAT n, 8, 8⟩
def CAN_STAT_STATE (n : Nat) : Fld := ⟨CAN_STAT n, 0, 4⟩

/-- CANn_ABDk — rate candidate (spec/08). -/
def CAN_ABD (n k : Nat) : Nat := 0x40080028 + 0x2000 * n + 8 * k
def CAN_ABD_SJW (n k : Nat) : Fld := ⟨CAN_ABD n k, 25, 7⟩
def CAN_ABD_TSEG2 (n k : Nat) : Fld := ⟨CAN_ABD n k, 18, 7⟩
def CAN_ABD_TSEG1 (n k : Nat) : Fld := ⟨CAN_ABD n k, 10, 8⟩
def CAN_ABD_BRP (n k : Nat) : Fld := ⟨CAN_ABD n k, 0, 8⟩

/-- CANn_TRX — selective wake (spec/08). -/
def CAN_TRX (n : Nat) : Nat := 0x40080048 + 0x2000 * n
def CAN_TRX_FEC (n : Nat) : Fld := ⟨CAN_TRX n, 32, 8⟩
def CAN_TRX_FECLIM (n : Nat) : Fld := ⟨CAN_TRX n, 24, 5⟩
def CAN_TRX_SWDLC (n : Nat) : Fld := ⟨CAN_TRX n, 16, 4⟩
def CAN_TRX_SWRATE (n : Nat) : Fld := ⟨CAN_TRX n, 8, 2⟩
def CAN_TRX_SWMODE (n : Nat) : Fld := ⟨CAN_TRX n, 0, 2⟩

/-- CANn_SWID — wake-up frame identifier (spec/08). -/
def CAN_SWID (n : Nat) : Nat := 0x40080050 + 0x2000 * n
def CAN_SWID_IDE (n : Nat) : Fld := ⟨CAN_SWID n, 61, 1⟩
def CAN_SWID_MASK (n : Nat) : Fld := ⟨CAN_SWID n, 32, 29⟩
def CAN_SWID_ID (n : Nat) : Fld := ⟨CAN_SWID n, 0, 29⟩

/-- CANn_SWDATA — wake-up data mask (spec/08). -/
def CAN_SWDATA (n : Nat) : Nat := 0x40080058 + 0x2000 * n
def CAN_SWDATA_DMASK (n : Nat) : Fld := ⟨CAN_SWDATA n, 0, 64⟩

/-- CANn_IRQ — channel flags (spec/08). -/
def CAN_IRQ (n : Nat) : Nat := 0x40080060 + 0x2000 * n
def CAN_IRQ_CFG_VIOL (n : Nat) : Fld := ⟨CAN_IRQ n, 7, 1⟩
def CAN_IRQ_WAKE (n : Nat) : Fld := ⟨CAN_IRQ n, 6, 1⟩
def CAN_IRQ_ABD_ROUND (n : Nat) : Fld := ⟨CAN_IRQ n, 5, 1⟩
def CAN_IRQ_ABD_DONE (n : Nat) : Fld := ⟨CAN_IRQ n, 4, 1⟩
def CAN_IRQ_BOFF (n : Nat) : Fld := ⟨CAN_IRQ n, 3, 1⟩
def CAN_IRQ_EXRX (n : Nat) : Fld := ⟨CAN_IRQ n, 2, 1⟩
def CAN_IRQ_TXDONE (n : Nat) : Fld := ⟨CAN_IRQ n, 1, 1⟩
def CAN_IRQ_RXF (n : Nat) : Fld := ⟨CAN_IRQ n, 0, 1⟩

/-- CANn_IEN — channel interrupt enables (spec/08). -/
def CAN_IEN (n : Nat) : Nat := 0x40080068 + 0x2000 * n
def CAN_IEN_EN (n : Nat) : Fld := ⟨CAN_IEN n, 0, 8⟩

/-- CANn_MRAM — message RAM (spec/08). -/
def CAN_MRAM (n : Nat) : Nat := 0x40080070 + 0x2000 * n
def CAN_MRAM_SIZE (n : Nat) : Fld := ⟨CAN_MRAM n, 48, 16⟩
def CAN_MRAM_BASE (n : Nat) : Fld := ⟨CAN_MRAM n, 0, 40⟩

/-- CANn_MBk_ID — buffer identifier (spec/08). -/
def CAN_MB_ID (n k : Nat) : Nat := 0x40081000 + 0x2000 * n + 0x10 * k
def CAN_MB_ID_FMT (n k : Nat) : Fld := ⟨CAN_MB_ID n k, 62, 2⟩
def CAN_MB_ID_IDE (n k : Nat) : Fld := ⟨CAN_MB_ID n k, 61, 1⟩
def CAN_MB_ID_MASK (n k : Nat) : Fld := ⟨CAN_MB_ID n k, 32, 29⟩
def CAN_MB_ID_RTR (n k : Nat) : Fld := ⟨CAN_MB_ID n k, 31, 1⟩
def CAN_MB_ID_BRS (n k : Nat) : Fld := ⟨CAN_MB_ID n k, 30, 1⟩
def CAN_MB_ID_ID (n k : Nat) : Fld := ⟨CAN_MB_ID n k, 0, 29⟩

/-- CANn_MBk_CTL — buffer control (spec/08). -/
def CAN_MB_CTL (n k : Nat) : Nat := 0x40081008 + 0x2000 * n + 0x10 * k
def CAN_MB_CTL_TXREQ (n k : Nat) : Fld := ⟨CAN_MB_CTL n k, 63, 1⟩
def CAN_MB_CTL_CANCEL (n k : Nat) : Fld := ⟨CAN_MB_CTL n k, 62, 1⟩
def CAN_MB_CTL_RELEASE (n k : Nat) : Fld := ⟨CAN_MB_CTL n k, 61, 1⟩
def CAN_MB_CTL_RLIM (n k : Nat) : Fld := ⟨CAN_MB_CTL n k, 56, 5⟩
def CAN_MB_CTL_ISTAT (n k : Nat) : Fld := ⟨CAN_MB_CTL n k, 52, 4⟩
def CAN_MB_CTL_SEQ (n k : Nat) : Fld := ⟨CAN_MB_CTL n k, 48, 4⟩
def CAN_MB_CTL_DIR (n k : Nat) : Fld := ⟨CAN_MB_CTL n k, 46, 2⟩
def CAN_MB_CTL_PSIZE (n k : Nat) : Fld := ⟨CAN_MB_CTL n k, 44, 2⟩
def CAN_MB_CTL_FULL (n k : Nat) : Fld := ⟨CAN_MB_CTL n k, 43, 1⟩
def CAN_MB_CTL_OVW (n k : Nat) : Fld := ⟨CAN_MB_CTL n k, 42, 1⟩
def CAN_MB_CTL_OVR (n k : Nat) : Fld := ⟨CAN_MB_CTL n k, 41, 1⟩
def CAN_MB_CTL_TRUNC (n k : Nat) : Fld := ⟨CAN_MB_CTL n k, 40, 1⟩
def CAN_MB_CTL_IE (n k : Nat) : Fld := ⟨CAN_MB_CTL n k, 39, 1⟩
def CAN_MB_CTL_STAMP (n k : Nat) : Fld := ⟨CAN_MB_CTL n k, 0, 32⟩

/-- CANn_EXID — express buffer identifier (spec/08). -/
def CAN_EXID (n : Nat) : Nat := 0x40081800 + 0x2000 * n
def CAN_EXID_FMT (n : Nat) : Fld := ⟨CAN_EXID n, 62, 2⟩
def CAN_EXID_IDE (n : Nat) : Fld := ⟨CAN_EXID n, 61, 1⟩
def CAN_EXID_MASK (n : Nat) : Fld := ⟨CAN_EXID n, 32, 29⟩
def CAN_EXID_RTR (n : Nat) : Fld := ⟨CAN_EXID n, 31, 1⟩
def CAN_EXID_BRS (n : Nat) : Fld := ⟨CAN_EXID n, 30, 1⟩
def CAN_EXID_ID (n : Nat) : Fld := ⟨CAN_EXID n, 0, 29⟩

/-- CANn_EXCTL — express buffer control (spec/08). -/
def CAN_EXCTL (n : Nat) : Nat := 0x40081808 + 0x2000 * n
def CAN_EXCTL_RELEASE (n : Nat) : Fld := ⟨CAN_EXCTL n, 61, 1⟩
def CAN_EXCTL_SEQ (n : Nat) : Fld := ⟨CAN_EXCTL n, 48, 4⟩
def CAN_EXCTL_EXEN (n : Nat) : Fld := ⟨CAN_EXCTL n, 47, 1⟩
def CAN_EXCTL_PSIZE (n : Nat) : Fld := ⟨CAN_EXCTL n, 44, 2⟩
def CAN_EXCTL_FULL (n : Nat) : Fld := ⟨CAN_EXCTL n, 43, 1⟩
def CAN_EXCTL_OVR (n : Nat) : Fld := ⟨CAN_EXCTL n, 41, 1⟩
def CAN_EXCTL_TRUNC (n : Nat) : Fld := ⟨CAN_EXCTL n, 40, 1⟩
def CAN_EXCTL_IE (n : Nat) : Fld := ⟨CAN_EXCTL n, 39, 1⟩
def CAN_EXCTL_STAMP (n : Nat) : Fld := ⟨CAN_EXCTL n, 0, 32⟩

/-- NSL_CFG — sleep agreement (spec/08). -/
def NSL_CFG : Nat := 0x40090000
def NSL_CFG_GROUP : Fld := ⟨NSL_CFG, 48, 16⟩
def NSL_CFG_WBDELAY : Fld := ⟨NSL_CFG, 40, 8⟩
def NSL_CFG_AUTOPARK : Fld := ⟨NSL_CFG, 33, 1⟩
def NSL_CFG_LOCAL : Fld := ⟨NSL_CFG, 32, 1⟩
def NSL_CFG_ANNEN : Fld := ⟨NSL_CFG, 16, 16⟩
def NSL_CFG_OWNER : Fld := ⟨NSL_CFG, 0, 3⟩

/-- NSL_STAT — sleep status (spec/08). -/
def NSL_STAT : Nat := 0x40090008
def NSL_STAT_AWAKE : Fld := ⟨NSL_STAT, 48, 16⟩
def NSL_STAT_READY : Fld := ⟨NSL_STAT, 32, 16⟩
def NSL_STAT_WB_NVERR : Fld := ⟨NSL_STAT, 3, 1⟩
def NSL_STAT_ABANDONED : Fld := ⟨NSL_STAT, 2, 1⟩
def NSL_STAT_AGREED : Fld := ⟨NSL_STAT, 1, 1⟩
def NSL_STAT_AGREE_IRQ : Fld := ⟨NSL_STAT, 0, 1⟩

/-- NSL_WAKE — bus wake record (spec/08). -/
def NSL_WAKE : Nat := 0x40090010
def NSL_WAKE_SLOW : Fld := ⟨NSL_WAKE, 32, 32⟩
def NSL_WAKE_VALID : Fld := ⟨NSL_WAKE, 15, 1⟩
def NSL_WAKE_MULTI : Fld := ⟨NSL_WAKE, 14, 1⟩
def NSL_WAKE_KIND : Fld := ⟨NSL_WAKE, 8, 4⟩
def NSL_WAKE_NET : Fld := ⟨NSL_WAKE, 0, 4⟩

/-- NSL_WBSEL — ledger selection (spec/08). -/
def NSL_WBSEL : Nat := 0x40090018
def NSL_WBSEL_OVFL : Fld := ⟨NSL_WBSEL, 32, 16⟩
def NSL_WBSEL_NET : Fld := ⟨NSL_WBSEL, 0, 4⟩

/-- NSL_IEN — sleep interrupt enables (spec/08). -/
def NSL_IEN : Nat := 0x40090020
def NSL_IEN_EN : Fld := ⟨NSL_IEN, 0, 4⟩

/-- NSL_NMm_ID — keep-awake identifier (spec/08). -/
def NSL_NM_ID (m : Nat) : Nat := 0x40090100 + 0x10 * m
def NSL_NM_ID_IDE (m : Nat) : Fld := ⟨NSL_NM_ID m, 61, 1⟩
def NSL_NM_ID_MASK (m : Nat) : Fld := ⟨NSL_NM_ID m, 32, 29⟩
def NSL_NM_ID_ID (m : Nat) : Fld := ⟨NSL_NM_ID m, 0, 29⟩

/-- NSL_NMm_CFG — keep-awake frame (spec/08). -/
def NSL_NM_CFG (m : Nat) : Nat := 0x40090108 + 0x10 * m
def NSL_NM_CFG_NMTO (m : Nat) : Fld := ⟨NSL_NM_CFG m, 48, 16⟩
def NSL_NM_CFG_ANNBUF (m : Nat) : Fld := ⟨NSL_NM_CFG m, 32, 7⟩
def NSL_NM_CFG_NODESRC (m : Nat) : Fld := ⟨NSL_NM_CFG m, 14, 2⟩
def NSL_NM_CFG_NODEBYTE (m : Nat) : Fld := ⟨NSL_NM_CFG m, 11, 3⟩
def NSL_NM_CFG_KABYTE (m : Nat) : Fld := ⟨NSL_NM_CFG m, 3, 3⟩
def NSL_NM_CFG_KABIT (m : Nat) : Fld := ⟨NSL_NM_CFG m, 0, 3⟩

/-- NSL_WBk — ledger entry (spec/08). -/
def NSL_WB (k : Nat) : Nat := 0x40090200 + 8 * k
def NSL_WB_HELD (k : Nat) : Fld := ⟨NSL_WB k, 32, 32⟩
def NSL_WB_RENEW (k : Nat) : Fld := ⟨NSL_WB k, 16, 16⟩
def NSL_WB_NODE (k : Nat) : Fld := ⟨NSL_WB k, 0, 8⟩

/-- LINn_CFG — channel configuration (spec/08). -/
def LIN_CFG (n : Nat) : Nat := 0x400A0000 + 0x1000 * n
def LIN_CFG_EN (n : Nat) : Fld := ⟨LIN_CFG n, 63, 1⟩
def LIN_CFG_OWNER (n : Nat) : Fld := ⟨LIN_CFG n, 56, 3⟩
def LIN_CFG_TACKB (n : Nat) : Fld := ⟨LIN_CFG n, 48, 8⟩
def LIN_CFG_ROLE (n : Nat) : Fld := ⟨LIN_CFG n, 39, 1⟩
def LIN_CFG_DIV (n : Nat) : Fld := ⟨LIN_CFG n, 8, 13⟩
def LIN_CFG_FRAC (n : Nat) : Fld := ⟨LIN_CFG n, 4, 4⟩

/-- LINn_CMD — channel commands (spec/08). -/
def LIN_CMD (n : Nat) : Nat := 0x400A0008 + 0x1000 * n
def LIN_CMD_GOSLEEP (n : Nat) : Fld := ⟨LIN_CMD n, 63, 1⟩
def LIN_CMD_WAKE (n : Nat) : Fld := ⟨LIN_CMD n, 62, 1⟩
def LIN_CMD_SCHGO (n : Nat) : Fld := ⟨LIN_CMD n, 61, 1⟩
def LIN_CMD_SCHSTOP (n : Nat) : Fld := ⟨LIN_CMD n, 60, 1⟩
def LIN_CMD_START (n : Nat) : Fld := ⟨LIN_CMD n, 0, 6⟩

/-- LINn_STAT — channel status and flags (spec/08). -/
def LIN_STAT (n : Nat) : Nat := 0x400A0010 + 0x1000 * n
def LIN_STAT_PID (n : Nat) : Fld := ⟨LIN_STAT n, 24, 8⟩
def LIN_STAT_SLOT (n : Nat) : Fld := ⟨LIN_STAT n, 16, 6⟩
def LIN_STAT_CFG_VIOL (n : Nat) : Fld := ⟨LIN_STAT n, 15, 1⟩
def LIN_STAT_SYNC_ERR (n : Nat) : Fld := ⟨LIN_STAT n, 14, 1⟩
def LIN_STAT_WAKE_RX (n : Nat) : Fld := ⟨LIN_STAT n, 13, 1⟩
def LIN_STAT_SLEEP_ENT (n : Nat) : Fld := ⟨LIN_STAT n, 12, 1⟩
def LIN_STAT_TXDONE (n : Nat) : Fld := ⟨LIN_STAT n, 11, 1⟩
def LIN_STAT_RXF (n : Nat) : Fld := ⟨LIN_STAT n, 10, 1⟩
def LIN_STAT_ERR (n : Nat) : Fld := ⟨LIN_STAT n, 9, 1⟩
def LIN_STAT_STATE (n : Nat) : Fld := ⟨LIN_STAT n, 0, 3⟩

/-- LINn_IEN — LIN interrupt enables (spec/08). -/
def LIN_IEN (n : Nat) : Nat := 0x400A0018 + 0x1000 * n
def LIN_IEN_EN (n : Nat) : Fld := ⟨LIN_IEN n, 9, 7⟩

/-- LINn_FRi — frame entry (spec/08). -/
def LIN_FR (n i : Nat) : Nat := 0x400A0100 + 0x1000 * n + 0x10 * i
def LIN_FR_TXREQ (n i : Nat) : Fld := ⟨LIN_FR n i, 63, 1⟩
def LIN_FR_ISTAT (n i : Nat) : Fld := ⟨LIN_FR n i, 52, 4⟩
def LIN_FR_FULL (n i : Nat) : Fld := ⟨LIN_FR n i, 51, 1⟩
def LIN_FR_IE (n i : Nat) : Fld := ⟨LIN_FR n i, 50, 1⟩
def LIN_FR_ERR (n i : Nat) : Fld := ⟨LIN_FR n i, 44, 4⟩
def LIN_FR_DIR (n i : Nat) : Fld := ⟨LIN_FR n i, 38, 2⟩
def LIN_FR_LEN (n i : Nat) : Fld := ⟨LIN_FR n i, 34, 4⟩
def LIN_FR_CHK (n i : Nat) : Fld := ⟨LIN_FR n i, 33, 1⟩
def LIN_FR_STAMP (n i : Nat) : Fld := ⟨LIN_FR n i, 0, 32⟩

/-- LINn_FDi — frame data (spec/08). -/
def LIN_FD (n i : Nat) : Nat := 0x400A0108 + 0x1000 * n + 0x10 * i
def LIN_FD_DATA (n i : Nat) : Fld := ⟨LIN_FD n i, 0, 64⟩

/-- LINn_SCHk — schedule slot (spec/08). -/
def LIN_SCH (n k : Nat) : Nat := 0x400A0800 + 0x1000 * n + 8 * k
def LIN_SCH_END (n k : Nat) : Fld := ⟨LIN_SCH n k, 16, 1⟩
def LIN_SCH_SLOT (n k : Nat) : Fld := ⟨LIN_SCH n k, 8, 8⟩
def LIN_SCH_ID (n k : Nat) : Fld := ⟨LIN_SCH n k, 0, 6⟩

/-- ESW_CTL — switch control (spec/09). -/
def ESW_CTL : Nat := 0x400B0000
def ESW_CTL_EN : Fld := ⟨ESW_CTL, 63, 1⟩
def ESW_CTL_OWNER : Fld := ⟨ESW_CTL, 56, 3⟩
def ESW_CTL_AGE : Fld := ⟨ESW_CTL, 48, 8⟩
def ESW_CTL_IEN : Fld := ⟨ESW_CTL, 8, 4⟩

/-- ESW_IRQ — switch flags (spec/09). -/
def ESW_IRQ : Nat := 0x400B0008
def ESW_IRQ_CMD_VIOL : Fld := ⟨ESW_IRQ, 3, 1⟩
def ESW_IRQ_LINKCHG : Fld := ⟨ESW_IRQ, 2, 1⟩
def ESW_IRQ_TXD : Fld := ⟨ESW_IRQ, 1, 1⟩
def ESW_IRQ_RXD : Fld := ⟨ESW_IRQ, 0, 1⟩

/-- ESW_PCPMAP — priority map (spec/09). -/
def ESW_PCPMAP : Nat := 0x400B0010
def ESW_PCPMAP_Q (ix : Nat) : Fld := ⟨ESW_PCPMAP, 2 * ix, 2⟩

/-- ESW_MAC — device address (spec/09). -/
def ESW_MAC : Nat := 0x400B0018
def ESW_MAC_MAC : Fld := ⟨ESW_MAC, 0, 48⟩

/-- ESW_IRX — receive ring (spec/09). -/
def ESW_IRX : Nat := 0x400B0020
def ESW_IRX_IDX : Fld := ⟨ESW_IRX, 56, 8⟩
def ESW_IRX_SIZE : Fld := ⟨ESW_IRX, 48, 8⟩
def ESW_IRX_BASE : Fld := ⟨ESW_IRX, 0, 40⟩

/-- ESW_ITX — transmit ring (spec/09). -/
def ESW_ITX : Nat := 0x400B0028
def ESW_ITX_IDX : Fld := ⟨ESW_ITX, 56, 8⟩
def ESW_ITX_SIZE : Fld := ⟨ESW_ITX, 48, 8⟩
def ESW_ITX_BASE : Fld := ⟨ESW_ITX, 0, 40⟩

/-- ESW_PORTp_CFG — port configuration (spec/09). -/
def ESW_PORT_CFG (p : Nat) : Nat := 0x400B0100 + 0x40 * p
def ESW_PORT_CFG_PEN (p : Nat) : Fld := ⟨ESW_PORT_CFG p, 63, 1⟩
def ESW_PORT_CFG_MS (p : Nat) : Fld := ⟨ESW_PORT_CFG p, 62, 1⟩
def ESW_PORT_CFG_TAGONLY (p : Nat) : Fld := ⟨ESW_PORT_CFG p, 61, 1⟩
def ESW_PORT_CFG_IDLEQ2 (p : Nat) : Fld := ⟨ESW_PORT_CFG p, 40, 8⟩
def ESW_PORT_CFG_IDLEQ1 (p : Nat) : Fld := ⟨ESW_PORT_CFG p, 32, 8⟩
def ESW_PORT_CFG_DPCP (p : Nat) : Fld := ⟨ESW_PORT_CFG p, 12, 3⟩
def ESW_PORT_CFG_PVID (p : Nat) : Fld := ⟨ESW_PORT_CFG p, 0, 12⟩

/-- ESW_PORTp_STAT — port status (spec/09). -/
def ESW_PORT_STAT (p : Nat) : Nat := 0x400B0108 + 0x40 * p
def ESW_PORT_STAT_RXERR (p : Nat) : Fld := ⟨ESW_PORT_STAT p, 48, 16⟩
def ESW_PORT_STAT_IDROP (p : Nat) : Fld := ⟨ESW_PORT_STAT p, 32, 16⟩
def ESW_PORT_STAT_LINK (p : Nat) : Fld := ⟨ESW_PORT_STAT p, 0, 1⟩

/-- ESW_PLCAp — PLCA (spec/09). -/
def ESW_PLCA (p : Nat) : Nat := 0x400B0110 + 0x40 * p
def ESW_PLCA_PLCA_EN (p : Nat) : Fld := ⟨ESW_PLCA p, 63, 1⟩
def ESW_PLCA_BURST (p : Nat) : Fld := ⟨ESW_PLCA p, 24, 8⟩
def ESW_PLCA_TO_TIMER (p : Nat) : Fld := ⟨ESW_PLCA p, 16, 8⟩
def ESW_PLCA_COUNT (p : Nat) : Fld := ⟨ESW_PLCA p, 8, 8⟩
def ESW_PLCA_NODE (p : Nat) : Fld := ⟨ESW_PLCA p, 0, 8⟩

/-- ESW_VLANv — VLAN entry (spec/09). -/
def ESW_VLAN (v : Nat) : Nat := 0x400B1000 + 8 * v
def ESW_VLAN_V (v : Nat) : Fld := ⟨ESW_VLAN v, 63, 1⟩
def ESW_VLAN_UNTAG (v : Nat) : Fld := ⟨ESW_VLAN v, 24, 5⟩
def ESW_VLAN_MEMBER (v : Nat) : Fld := ⟨ESW_VLAN v, 16, 5⟩
def ESW_VLAN_VID (v : Nat) : Fld := ⟨ESW_VLAN v, 0, 12⟩

/-- GWE_CTL — gateway control (spec/09). -/
def GWE_CTL : Nat := 0x400C0000
def GWE_CTL_EN : Fld := ⟨GWE_CTL, 63, 1⟩
def GWE_CTL_OWNER : Fld := ⟨GWE_CTL, 56, 3⟩
def GWE_CTL_GRLIM : Fld := ⟨GWE_CTL, 8, 5⟩
def GWE_CTL_CMD_VIOL : Fld := ⟨GWE_CTL, 0, 1⟩

/-- GWE_RTCMD — table access (spec/09). -/
def GWE_RTCMD : Nat := 0x400C0008
def GWE_RTCMD_BUSY : Fld := ⟨GWE_RTCMD, 63, 1⟩
def GWE_RTCMD_ACTIVE : Fld := ⟨GWE_RTCMD, 62, 1⟩
def GWE_RTCMD_OP : Fld := ⟨GWE_RTCMD, 16, 4⟩
def GWE_RTCMD_BANK : Fld := ⟨GWE_RTCMD, 12, 1⟩
def GWE_RTCMD_INDEX : Fld := ⟨GWE_RTCMD, 0, 12⟩

/-- GWE_RTDATAw — entry word (spec/09). -/
def GWE_RTDATA (w : Nat) : Nat := 0x400C0010 + 8 * w
def GWE_RTDATA_DATA (w : Nat) : Fld := ⟨GWE_RTDATA w, 0, 64⟩

/-- GWE_STAT — counters (spec/09). -/
def GWE_STAT : Nat := 0x400C0030
def GWE_STAT_FWD : Fld := ⟨GWE_STAT, 32, 32⟩
def GWE_STAT_INDROP : Fld := ⟨GWE_STAT, 16, 16⟩
def GWE_STAT_QDROP : Fld := ⟨GWE_STAT, 0, 16⟩

/-- GWE_DROP — drop causes (spec/09). -/
def GWE_DROP : Nat := 0x400C0038
def GWE_DROP_RLDROP : Fld := ⟨GWE_DROP, 48, 16⟩
def GWE_DROP_CVDROP : Fld := ⟨GWE_DROP, 32, 16⟩
def GWE_DROP_NBAD : Fld := ⟨GWE_DROP, 16, 16⟩
def GWE_DROP_RLLAST : Fld := ⟨GWE_DROP, 0, 12⟩

/-- GWE_NCFG — notice carriers (spec/09). -/
def GWE_NCFG : Nat := 0x400C0040
def GWE_NCFG_NETYPE : Fld := ⟨GWE_NCFG, 48, 16⟩
def GWE_NCFG_NPCP : Fld := ⟨GWE_NCFG, 45, 3⟩
def GWE_NCFG_NENC : Fld := ⟨GWE_NCFG, 42, 3⟩
def GWE_NCFG_NFMT : Fld := ⟨GWE_NCFG, 41, 1⟩
def GWE_NCFG_NTOOBIG : Fld := ⟨GWE_NCFG, 32, 8⟩
def GWE_NCFG_NIDE : Fld := ⟨GWE_NCFG, 29, 1⟩
def GWE_NCFG_NID : Fld := ⟨GWE_NCFG, 0, 29⟩

/-- GWE_NPORTS — notice ports (spec/09). -/
def GWE_NPORTS : Nat := 0x400C0048
def GWE_NPORTS_NTXPORTS_E : Fld := ⟨GWE_NPORTS, 16, 4⟩
def GWE_NPORTS_NTOOBIG_E : Fld := ⟨GWE_NPORTS, 12, 4⟩
def GWE_NPORTS_NTXPORTS_C : Fld := ⟨GWE_NPORTS, 0, 8⟩

/-- GWE_ENCk_A — encapsulation profile A (spec/09). -/
def GWE_ENC_A (k : Nat) : Nat := 0x400C0100 + 0x10 * k
def GWE_ENC_A_TAG (k : Nat) : Fld := ⟨GWE_ENC_A k, 63, 1⟩
def GWE_ENC_A_PCP (k : Nat) : Fld := ⟨GWE_ENC_A k, 60, 3⟩
def GWE_ENC_A_VID (k : Nat) : Fld := ⟨GWE_ENC_A k, 48, 12⟩
def GWE_ENC_A_DA (k : Nat) : Fld := ⟨GWE_ENC_A k, 0, 48⟩

/-- GWE_ENCk_B — encapsulation profile B (spec/09). -/
def GWE_ENC_B (k : Nat) : Nat := 0x400C0108 + 0x10 * k
def GWE_ENC_B_SID (k : Nat) : Fld := ⟨GWE_ENC_B k, 0, 64⟩

/-- GWE_SIGs — signal set (spec/09). -/
def GWE_SIG (s : Nat) : Nat := 0x400C2000 + 8 * s
def GWE_SIG_OLEN (s : Nat) : Fld := ⟨GWE_SIG s, 56, 6⟩
def GWE_SIG_M1 (s : Nat) : Fld := ⟨GWE_SIG s, 28, 28⟩
def GWE_SIG_M0_NBITS (s : Nat) : Fld := ⟨GWE_SIG s, 22, 6⟩
def GWE_SIG_M0_DSTBIT (s : Nat) : Fld := ⟨GWE_SIG s, 11, 11⟩
def GWE_SIG_M0_SRCBIT (s : Nat) : Fld := ⟨GWE_SIG s, 0, 11⟩

/-- GWE_IMGs_w — signal image (spec/09). -/
def GWE_IMG (s w : Nat) : Nat := 0x400C4000 + 0x40 * s + 8 * w
def GWE_IMG_BITS (s w : Nat) : Fld := ⟨GWE_IMG s w, 0, 64⟩

/-- ACC_CFG — access control (spec/10). -/
def ACC_CFG : Nat := 0x400D0000
def ACC_CFG_OWNER : Fld := ⟨ACC_CFG, 56, 3⟩
def ACC_CFG_KWAKE : Fld := ⟨ACC_CFG, 40, 8⟩
def ACC_CFG_FINALT : Fld := ⟨ACC_CFG, 32, 8⟩
def ACC_CFG_LOCKMIN : Fld := ⟨ACC_CFG, 24, 4⟩
def ACC_CFG_EN : Fld := ⟨ACC_CFG, 0, 1⟩

/-- ACC_VEHID — vehicle identity (spec/10). -/
def ACC_VEHID : Nat := 0x400D0008
def ACC_VEHID_VEHID : Fld := ⟨ACC_VEHID, 0, 32⟩

/-- ACC_CMD — poll commands (spec/10). -/
def ACC_CMD : Nat := 0x400D0010
def ACC_CMD_POLL : Fld := ⟨ACC_CMD, 63, 1⟩
def ACC_CMD_ABORT : Fld := ⟨ACC_CMD, 62, 1⟩
def ACC_CMD_HSEL : Fld := ⟨ACC_CMD, 0, 3⟩

/-- ACC_STAT — access status (spec/10). -/
def ACC_STAT : Nat := 0x400D0018
def ACC_STAT_LOCKLEFT : Fld := ⟨ACC_STAT, 48, 16⟩
def ACC_STAT_COLL : Fld := ⟨ACC_STAT, 40, 8⟩
def ACC_STAT_LOCKS : Fld := ⟨ACC_STAT, 32, 4⟩
def ACC_STAT_FAILS : Fld := ⟨ACC_STAT, 24, 4⟩
def ACC_STAT_PEND : Fld := ⟨ACC_STAT, 8, 1⟩
def ACC_STAT_LOCKED : Fld := ⟨ACC_STAT, 7, 1⟩
def ACC_STAT_STATE : Fld := ⟨ACC_STAT, 0, 3⟩

/-- ACC_RESULT — last poll (spec/10). -/
def ACC_RESULT : Nat := 0x400D0020
def ACC_RESULT_VALID : Fld := ⟨ACC_RESULT, 63, 1⟩
def ACC_RESULT_CODE : Fld := ⟨ACC_RESULT, 56, 4⟩
def ACC_RESULT_HANDLE : Fld := ⟨ACC_RESULT, 52, 3⟩
def ACC_RESULT_SLOT : Fld := ⟨ACC_RESULT, 48, 3⟩
def ACC_RESULT_NINV : Fld := ⟨ACC_RESULT, 44, 4⟩
def ACC_RESULT_NVER : Fld := ⟨ACC_RESULT, 40, 4⟩
def ACC_RESULT_POLLNO : Fld := ⟨ACC_RESULT, 16, 16⟩
def ACC_RESULT_DIST : Fld := ⟨ACC_RESULT, 0, 16⟩

/-- ACC_IRQ — block flags (spec/10). -/
def ACC_IRQ : Nat := 0x400D0028
def ACC_IRQ_CFG_VIOL : Fld := ⟨ACC_IRQ, 5, 1⟩
def ACC_IRQ_RADIO : Fld := ⟨ACC_IRQ, 4, 1⟩
def ACC_IRQ_LOCK : Fld := ⟨ACC_IRQ, 3, 1⟩
def ACC_IRQ_COLL : Fld := ⟨ACC_IRQ, 2, 1⟩
def ACC_IRQ_TOUCH : Fld := ⟨ACC_IRQ, 1, 1⟩
def ACC_IRQ_DONE : Fld := ⟨ACC_IRQ, 0, 1⟩

/-- ACC_IEN — interrupt enables (spec/10). -/
def ACC_IEN : Nat := 0x400D0030
def ACC_IEN_EN : Fld := ⟨ACC_IEN, 0, 6⟩

/-- ACC_CHn — handle configuration (spec/10). -/
def ACC_CH (n : Nat) : Nat := 0x400D0100 + 8 * n
def ACC_CH_EN (n : Nat) : Fld := ⟨ACC_CH n, 63, 1⟩
def ACC_CH_PARKEN (n : Nat) : Fld := ⟨ACC_CH n, 62, 1⟩
def ACC_CH_DMAX (n : Nat) : Fld := ⟨ACC_CH n, 32, 16⟩
def ACC_CH_RADIOS (n : Nat) : Fld := ⟨ACC_CH n, 28, 4⟩
def ACC_CH_ANT (n : Nat) : Fld := ⟨ACC_CH n, 20, 6⟩
def ACC_CH_DEB (n : Nat) : Fld := ⟨ACC_CH n, 16, 4⟩
def ACC_CH_THR (n : Nat) : Fld := ⟨ACC_CH n, 8, 8⟩
def ACC_CH_SCAN (n : Nat) : Fld := ⟨ACC_CH n, 0, 8⟩

/-- ACC_CHSTn — handle status (spec/10). -/
def ACC_CHST (n : Nat) : Nat := 0x400D0140 + 8 * n
def ACC_CHST_TOUCH (n : Nat) : Fld := ⟨ACC_CHST n, 32, 1⟩
def ACC_CHST_BASE (n : Nat) : Fld := ⟨ACC_CHST n, 16, 16⟩
def ACC_CHST_CNT (n : Nat) : Fld := ⟨ACC_CHST n, 0, 16⟩

/-- ACC_LFAk — LF antenna (spec/10). -/
def ACC_LFA (k : Nat) : Nat := 0x400D0200 + 8 * k
def ACC_LFA_DSTATE (k : Nat) : Fld := ⟨ACC_LFA k, 24, 4⟩
def ACC_LFA_LFI (k : Nat) : Fld := ⟨ACC_LFA k, 0, 4⟩

/-- ACC_KEYk — key slot (spec/10). -/
def ACC_KEY (k : Nat) : Nat := 0x400D0300 + 8 * k
def ACC_KEY_STATE (k : Nat) : Fld := ⟨ACC_KEY k, 62, 2⟩
def ACC_KEY_LASTDIST (k : Nat) : Fld := ⟨ACC_KEY k, 32, 16⟩
def ACC_KEY_KEYID (k : Nat) : Fld := ⟨ACC_KEY k, 0, 32⟩

/-- ACC_RGPCFG — ranging port (spec/10). -/
def ACC_RGPCFG : Nat := 0x400D0400
def ACC_RGPCFG_SANS : Fld := ⟨ACC_RGPCFG, 56, 8⟩
def ACC_RGPCFG_SFINAL : Fld := ⟨ACC_RGPCFG, 48, 8⟩
def ACC_RGPCFG_SRESP : Fld := ⟨ACC_RGPCFG, 40, 8⟩
def ACC_RGPCFG_SPOLL : Fld := ⟨ACC_RGPCFG, 32, 8⟩
def ACC_RGPCFG_PRESENT : Fld := ⟨ACC_RGPCFG, 8, 4⟩
def ACC_RGPCFG_SCKDIV : Fld := ⟨ACC_RGPCFG, 0, 4⟩

/-- ACC_RGPSCRi — script word (spec/10). -/
def ACC_RGPSCR (i : Nat) : Nat := 0x400D1000 + 8 * i
def ACC_RGPSCR_WORD (i : Nat) : Fld := ⟨ACC_RGPSCR i, 0, 64⟩

/-- MBXm_CFG — endpoints (spec/12). -/
def MBX_CFG (m : Nat) : Nat := 0x400E0000 + 0x40 * m
def MBX_CFG_EPB (m : Nat) : Fld := ⟨MBX_CFG m, 4, 3⟩
def MBX_CFG_EPA (m : Nat) : Fld := ⟨MBX_CFG m, 0, 3⟩

/-- MBXm_TXQ — post (spec/12). -/
def MBX_TXQ (m : Nat) : Nat := 0x400E0008 + 0x40 * m
def MBX_TXQ_WORD (m : Nat) : Fld := ⟨MBX_TXQ m, 0, 64⟩

/-- MBXm_RXQ — receive, self-relative (spec/12). -/
def MBX_RXQ (m : Nat) : Nat := 0x400E0010 + 0x40 * m
def MBX_RXQ_WORD (m : Nat) : Fld := ⟨MBX_RXQ m, 0, 64⟩

/-- MBXm_CMD — acknowledge and ring (spec/12). -/
def MBX_CMD (m : Nat) : Nat := 0x400E0018 + 0x40 * m
def MBX_CMD_RING (m : Nat) : Fld := ⟨MBX_CMD m, 1, 1⟩
def MBX_CMD_ACK (m : Nat) : Fld := ⟨MBX_CMD m, 0, 1⟩

/-- MBXm_DB — doorbell, self-relative (spec/12). -/
def MBX_DB (m : Nat) : Nat := 0x400E0020 + 0x40 * m
def MBX_DB_EN (m : Nat) : Fld := ⟨MBX_DB m, 8, 3⟩
def MBX_DB_BELL (m : Nat) : Fld := ⟨MBX_DB m, 2, 1⟩
def MBX_DB_DONE (m : Nat) : Fld := ⟨MBX_DB m, 1, 1⟩
def MBX_DB_RX (m : Nat) : Fld := ⟨MBX_DB m, 0, 1⟩

/-- MBXm_TXST — tag status, self-relative (spec/12). -/
def MBX_TXST (m : Nat) : Nat := 0x400E0028 + 0x40 * m
def MBX_TXST_TAG (m ix : Nat) : Fld := ⟨MBX_TXST m, 4 * ix, 4⟩

/-- MBXm_STAT — mailbox status (spec/12). -/
def MBX_STAT (m : Nat) : Nat := 0x400E0030 + 0x40 * m
def MBX_STAT_NEXTTAG_B (m : Nat) : Fld := ⟨MBX_STAT m, 60, 4⟩
def MBX_STAT_LASTPOST_B (m : Nat) : Fld := ⟨MBX_STAT m, 56, 4⟩
def MBX_STAT_NEXTTAG_A (m : Nat) : Fld := ⟨MBX_STAT m, 52, 4⟩
def MBX_STAT_LASTPOST_A (m : Nat) : Fld := ⟨MBX_STAT m, 48, 4⟩
def MBX_STAT_HOLDRX_B (m : Nat) : Fld := ⟨MBX_STAT m, 33, 1⟩
def MBX_STAT_HOLDRX_A (m : Nat) : Fld := ⟨MBX_STAT m, 32, 1⟩
def MBX_STAT_OCC_AB (m : Nat) : Fld := ⟨MBX_STAT m, 28, 4⟩
def MBX_STAT_UNREAD_AB (m : Nat) : Fld := ⟨MBX_STAT m, 24, 4⟩
def MBX_STAT_OCC_BA (m : Nat) : Fld := ⟨MBX_STAT m, 20, 4⟩
def MBX_STAT_UNREAD_BA (m : Nat) : Fld := ⟨MBX_STAT m, 16, 4⟩
def MBX_STAT_WAIT_B (m : Nat) : Fld := ⟨MBX_STAT m, 1, 1⟩
def MBX_STAT_WAIT_A (m : Nat) : Fld := ⟨MBX_STAT m, 0, 1⟩

/-- LKk — lock (spec/12). -/
def LK (k : Nat) : Nat := 0x400E1000 + 8 * k
def LK_OWNER (k : Nat) : Fld := ⟨LK k, 0, 3⟩

/-- MBX_LKOWNi — lock owners (spec/12). -/
def MBX_LKOWN (i : Nat) : Nat := 0x400E1100 + 8 * i
def MBX_LKOWN_OWN (i ix : Nat) : Fld := ⟨MBX_LKOWN i, 4 * ix, 3⟩

/-- MBX_LKREL — lock release flags, self-relative (spec/12). -/
def MBX_LKREL : Nat := 0x400E1110
def MBX_LKREL_REL : Fld := ⟨MBX_LKREL, 0, 32⟩

/-- MBX_LKIEN — lock release enables, self-relative (spec/12). -/
def MBX_LKIEN : Nat := 0x400E1118
def MBX_LKIEN_IEN : Fld := ⟨MBX_LKIEN, 0, 32⟩

/-- MBX_IRQ — block flags (spec/12). -/
def MBX_IRQ : Nat := 0x400E2000
def MBX_IRQ_VIOL_EP : Fld := ⟨MBX_IRQ, 8, 3⟩
def MBX_IRQ_ACCESS_VIOL : Fld := ⟨MBX_IRQ, 0, 1⟩

/-- PMU_STAT — power status (spec/14). -/
def PMU_STAT : Nat := 0x400F0000
def PMU_STAT_ATTEMPTS : Fld := ⟨PMU_STAT, 40, 3⟩
def PMU_STAT_LATCHED : Fld := ⟨PMU_STAT, 9, 1⟩
def PMU_STAT_CLK_DEGRADED : Fld := ⟨PMU_STAT, 8, 1⟩
def PMU_STAT_PHASE : Fld := ⟨PMU_STAT, 4, 3⟩
def PMU_STAT_STATE : Fld := ⟨PMU_STAT, 0, 3⟩

/-- PMU_CFG — power configuration (spec/14). -/
def PMU_CFG : Nat := 0x400F0008
def PMU_CFG_OWNER : Fld := ⟨PMU_CFG, 56, 3⟩
def PMU_CFG_PREPMAX : Fld := ⟨PMU_CFG, 48, 8⟩
def PMU_CFG_NVIDLE : Fld := ⟨PMU_CFG, 32, 16⟩
def PMU_CFG_ZKSEL : Fld := ⟨PMU_CFG, 14, 2⟩
def PMU_CFG_REQEP : Fld := ⟨PMU_CFG, 1, 7⟩

/-- PMU_REQ — power-state request (spec/14). -/
def PMU_REQ : Nat := 0x400F0010
def PMU_REQ_GO : Fld := ⟨PMU_REQ, 63, 1⟩
def PMU_REQ_TARGET : Fld := ⟨PMU_REQ, 0, 2⟩

/-- PMU_RSTAT — request status (spec/14). -/
def PMU_RSTAT : Nat := 0x400F0018
def PMU_RSTAT_LAST_ISTAT : Fld := ⟨PMU_RSTAT, 60, 4⟩
def PMU_RSTAT_LAST_TGT : Fld := ⟨PMU_RSTAT, 58, 2⟩
def PMU_RSTAT_LAST_EP : Fld := ⟨PMU_RSTAT, 55, 3⟩
def PMU_RSTAT_PEND_ISTAT : Fld := ⟨PMU_RSTAT, 44, 4⟩
def PMU_RSTAT_PEND_TGT : Fld := ⟨PMU_RSTAT, 42, 2⟩
def PMU_RSTAT_PEND_EP : Fld := ⟨PMU_RSTAT, 39, 3⟩
def PMU_RSTAT_PEND_V : Fld := ⟨PMU_RSTAT, 38, 1⟩
def PMU_RSTAT_ACT_ISTAT : Fld := ⟨PMU_RSTAT, 28, 4⟩
def PMU_RSTAT_ACT_TGT : Fld := ⟨PMU_RSTAT, 26, 2⟩
def PMU_RSTAT_ACT_EP : Fld := ⟨PMU_RSTAT, 23, 3⟩
def PMU_RSTAT_ACT_V : Fld := ⟨PMU_RSTAT, 22, 1⟩

/-- PMU_WEN — wake enables (spec/14). -/
def PMU_WEN : Nat := 0x400F0020
def PMU_WEN_EN : Fld := ⟨PMU_WEN, 0, 7⟩

/-- PMU_WAKE — wake record (spec/14). -/
def PMU_WAKE : Nat := 0x400F0028
def PMU_WAKE_SLOW : Fld := ⟨PMU_WAKE, 32, 32⟩
def PMU_WAKE_VALID : Fld := ⟨PMU_WAKE, 15, 1⟩
def PMU_WAKE_MULTI : Fld := ⟨PMU_WAKE, 14, 1⟩
def PMU_WAKE_AFTERPNR : Fld := ⟨PMU_WAKE, 13, 1⟩
def PMU_WAKE_SRC : Fld := ⟨PMU_WAKE, 9, 3⟩
def PMU_WAKE_DETAIL : Fld := ⟨PMU_WAKE, 0, 9⟩

/-- PMU_SLOW — CK_SLOW count (spec/14). -/
def PMU_SLOW : Nat := 0x400F0030
def PMU_SLOW_COUNT : Fld := ⟨PMU_SLOW, 0, 48⟩

/-- PMU_WTMR — wake timer (spec/14). -/
def PMU_WTMR : Nat := 0x400F0038
def PMU_WTMR_EN : Fld := ⟨PMU_WTMR, 63, 1⟩
def PMU_WTMR_ALARM : Fld := ⟨PMU_WTMR, 0, 48⟩

/-- PMU_DOMCTL — domain control (spec/14). -/
def PMU_DOMCTL : Nat := 0x400F0040
def PMU_DOMCTL_NETOFF : Fld := ⟨PMU_DOMCTL, 1, 1⟩
def PMU_DOMCTL_NVAUTO : Fld := ⟨PMU_DOMCTL, 0, 1⟩

/-- PMU_DOMSTAT — domain status (spec/14). -/
def PMU_DOMSTAT : Nat := 0x400F0048
def PMU_DOMSTAT_TMO : Fld := ⟨PMU_DOMSTAT, 8, 8⟩
def PMU_DOMSTAT_READY : Fld := ⟨PMU_DOMSTAT, 0, 8⟩

/-- PMU_IRQ — power flags (spec/14). -/
def PMU_IRQ : Nat := 0x400F0050
def PMU_IRQ_WAKE_FAIL : Fld := ⟨PMU_IRQ, 5, 1⟩
def PMU_IRQ_ALARM_ERR : Fld := ⟨PMU_IRQ, 4, 1⟩
def PMU_IRQ_DOMTMO : Fld := ⟨PMU_IRQ, 3, 1⟩
def PMU_IRQ_ABANDONED : Fld := ⟨PMU_IRQ, 2, 1⟩
def PMU_IRQ_REQDONE : Fld := ⟨PMU_IRQ, 1, 1⟩
def PMU_IRQ_CFG_VIOL : Fld := ⟨PMU_IRQ, 0, 1⟩

/-- PMU_IEN — interrupt enables (spec/14). -/
def PMU_IEN : Nat := 0x400F0058
def PMU_IEN_EN : Fld := ⟨PMU_IEN, 0, 6⟩

/-- SYS_CLKSTAT — clock status (spec/15). -/
def SYS_CLKSTAT : Nat := 0x40100000
def SYS_CLKSTAT_XLOSS : Fld := ⟨SYS_CLKSTAT, 8, 8⟩
def SYS_CLKSTAT_PLOC : Fld := ⟨SYS_CLKSTAT, 6, 1⟩
def SYS_CLKSTAT_SLOW_DEGRADED : Fld := ⟨SYS_CLKSTAT, 5, 1⟩
def SYS_CLKSTAT_SLOWSRC : Fld := ⟨SYS_CLKSTAT, 4, 1⟩
def SYS_CLKSTAT_DISC : Fld := ⟨SYS_CLKSTAT, 3, 1⟩
def SYS_CLKSTAT_CLK_DEGRADED : Fld := ⟨SYS_CLKSTAT, 2, 1⟩
def SYS_CLKSTAT_PLL_LOCK : Fld := ⟨SYS_CLKSTAT, 1, 1⟩
def SYS_CLKSTAT_XTAL_OK : Fld := ⟨SYS_CLKSTAT, 0, 1⟩

/-- SYS_CLKCFG — clock configuration (spec/15). -/
def SYS_CLKCFG : Nat := 0x40100008
def SYS_CLKCFG_OWNER : Fld := ⟨SYS_CLKCFG, 56, 3⟩
def SYS_CLKCFG_RCDISC : Fld := ⟨SYS_CLKCFG, 16, 1⟩
def SYS_CLKCFG_XTALBYP : Fld := ⟨SYS_CLKCFG, 8, 1⟩
def SYS_CLKCFG_SLOWSEL : Fld := ⟨SYS_CLKCFG, 0, 1⟩

/-- SYS_SUPPLY — supply status (spec/15). -/
def SYS_SUPPLY : Nat := 0x40100010
def SYS_SUPPLY_VBATB : Fld := ⟨SYS_SUPPLY, 48, 16⟩
def SYS_SUPPLY_VBATA : Fld := ⟨SYS_SUPPLY, 32, 16⟩
def SYS_SUPPLY_VCLASS : Fld := ⟨SYS_SUPPLY, 8, 2⟩
def SYS_SUPPLY_BO : Fld := ⟨SYS_SUPPLY, 1, 1⟩
def SYS_SUPPLY_OV : Fld := ⟨SYS_SUPPLY, 0, 1⟩

/-- SYS_RSTCAUSE — reset causes (spec/15). -/
def SYS_RSTCAUSE : Nat := 0x40100018
def SYS_RSTCAUSE_HOST : Fld := ⟨SYS_RSTCAUSE, 24, 1⟩
def SYS_RSTCAUSE_CORE : Fld := ⟨SYS_RSTCAUSE, 17, 7⟩
def SYS_RSTCAUSE_WD : Fld := ⟨SYS_RSTCAUSE, 8, 4⟩
def SYS_RSTCAUSE_PLL : Fld := ⟨SYS_RSTCAUSE, 5, 1⟩
def SYS_RSTCAUSE_LOST : Fld := ⟨SYS_RSTCAUSE, 4, 1⟩
def SYS_RSTCAUSE_BOD : Fld := ⟨SYS_RSTCAUSE, 3, 1⟩
def SYS_RSTCAUSE_SWRST : Fld := ⟨SYS_RSTCAUSE, 2, 1⟩
def SYS_RSTCAUSE_PIN : Fld := ⟨SYS_RSTCAUSE, 1, 1⟩
def SYS_RSTCAUSE_POR : Fld := ⟨SYS_RSTCAUSE, 0, 1⟩

/-- SYS_RSTCMD — reset command (spec/15). -/
def SYS_RSTCMD : Nat := 0x40100020
def SYS_RSTCMD_KEY : Fld := ⟨SYS_RSTCMD, 56, 8⟩
def SYS_RSTCMD_CORE : Fld := ⟨SYS_RSTCMD, 1, 7⟩
def SYS_RSTCMD_LDIE : Fld := ⟨SYS_RSTCMD, 0, 1⟩

/-- SYS_WDk_CFG — watchdog configuration (spec/15). -/
def SYS_WD_CFG (k : Nat) : Nat := 0x40100040 + 0x10 * k
def SYS_WD_CFG_EN (k : Nat) : Fld := ⟨SYS_WD_CFG k, 63, 1⟩
def SYS_WD_CFG_OWNER (k : Nat) : Fld := ⟨SYS_WD_CFG k, 56, 3⟩
def SYS_WD_CFG_ACT (k : Nat) : Fld := ⟨SYS_WD_CFG k, 48, 2⟩
def SYS_WD_CFG_WIN (k : Nat) : Fld := ⟨SYS_WD_CFG k, 32, 16⟩
def SYS_WD_CFG_TMO (k : Nat) : Fld := ⟨SYS_WD_CFG k, 0, 16⟩

/-- SYS_WDk_KICK — watchdog kick (spec/15). -/
def SYS_WD_KICK (k : Nat) : Nat := 0x40100048 + 0x10 * k
def SYS_WD_KICK_LEFT (k : Nat) : Fld := ⟨SYS_WD_KICK k, 48, 16⟩
def SYS_WD_KICK_KICK (k : Nat) : Fld := ⟨SYS_WD_KICK k, 0, 8⟩

/-- SYS_IRQ — system flags (spec/15). -/
def SYS_IRQ : Nat := 0x40100080
def SYS_IRQ_OV : Fld := ⟨SYS_IRQ, 3, 1⟩
def SYS_IRQ_SLOWFAIL : Fld := ⟨SYS_IRQ, 2, 1⟩
def SYS_IRQ_XLOSS : Fld := ⟨SYS_IRQ, 1, 1⟩
def SYS_IRQ_CFG_VIOL : Fld := ⟨SYS_IRQ, 0, 1⟩

/-- SYS_IEN — interrupt enables (spec/15). -/
def SYS_IEN : Nat := 0x40100088
def SYS_IEN_EN : Fld := ⟨SYS_IEN, 0, 4⟩

/-- FCU_CFG — collector configuration (spec/17). -/
def FCU_CFG : Nat := 0x40110000
def FCU_CFG_OWNER : Fld := ⟨FCU_CFG, 56, 3⟩
def FCU_CFG_S3LIM : Fld := ⟨FCU_CFG, 52, 4⟩
def FCU_CFG_S3WIN : Fld := ⟨FCU_CFG, 32, 16⟩

/-- FCU_TMR — reaction timers (spec/17). -/
def FCU_TMR : Nat := 0x40110008
def FCU_TMR_T3 : Fld := ⟨FCU_TMR, 32, 16⟩
def FCU_TMR_T2 : Fld := ⟨FCU_TMR, 16, 16⟩
def FCU_TMR_T1 : Fld := ⟨FCU_TMR, 0, 16⟩

/-- FCU_STAT — reaction status (spec/17). -/
def FCU_STAT : Nat := 0x40110010
def FCU_STAT_S4 : Fld := ⟨FCU_STAT, 63, 1⟩
def FCU_STAT_S3 : Fld := ⟨FCU_STAT, 62, 1⟩
def FCU_STAT_RECOV : Fld := ⟨FCU_STAT, 61, 1⟩
def FCU_STAT_CAUSE : Fld := ⟨FCU_STAT, 48, 9⟩
def FCU_STAT_S3CNT : Fld := ⟨FCU_STAT, 44, 4⟩

/-- FCU_ACK — acknowledge (spec/17). -/
def FCU_ACK : Nat := 0x40110018
def FCU_ACK_SRC : Fld := ⟨FCU_ACK, 0, 9⟩

/-- FCU_IRQ — collector flags (spec/17). -/
def FCU_IRQ : Nat := 0x40110020
def FCU_IRQ_CFG_VIOL : Fld := ⟨FCU_IRQ, 5, 1⟩
def FCU_IRQ_S3END : Fld := ⟨FCU_IRQ, 4, 1⟩
def FCU_IRQ_S1LATE : Fld := ⟨FCU_IRQ, 3, 1⟩
def FCU_IRQ_PAIR : Fld := ⟨FCU_IRQ, 2, 1⟩
def FCU_IRQ_S2 : Fld := ⟨FCU_IRQ, 1, 1⟩
def FCU_IRQ_S1 : Fld := ⟨FCU_IRQ, 0, 1⟩

/-- FCU_IEN — interrupt enables (spec/17). -/
def FCU_IEN : Nat := 0x40110028
def FCU_IEN_EN : Fld := ⟨FCU_IEN, 0, 6⟩

/-- FCU_RECSTAT — record ring (spec/17). -/
def FCU_RECSTAT : Nat := 0x40110030
def FCU_RECSTAT_SEQ : Fld := ⟨FCU_RECSTAT, 32, 32⟩
def FCU_RECSTAT_LOST : Fld := ⟨FCU_RECSTAT, 16, 16⟩
def FCU_RECSTAT_QLEN : Fld := ⟨FCU_RECSTAT, 12, 4⟩
def FCU_RECSTAT_NEXT : Fld := ⟨FCU_RECSTAT, 0, 10⟩

/-- FCU_PFRC — pair-fault injection (spec/17). -/
def FCU_PFRC : Nat := 0x40110038
def FCU_PFRC_EN : Fld := ⟨FCU_PFRC, 9, 1⟩
def FCU_PFRC_SRC : Fld := ⟨FCU_PFRC, 0, 9⟩

/-- FCU_STKk — sticky bits (spec/17). -/
def FCU_STK (k : Nat) : Nat := 0x40110100 + 8 * k
def FCU_STK_STK (k : Nat) : Fld := ⟨FCU_STK k, 0, 64⟩

/-- FCU_PFk — pair faults (spec/17). -/
def FCU_PF (k : Nat) : Nat := 0x40110140 + 8 * k
def FCU_PF_PF (k : Nat) : Fld := ⟨FCU_PF k, 0, 64⟩

/-- FCU_ACTk — source states (spec/17). -/
def FCU_ACT (k : Nat) : Nat := 0x40110180 + 8 * k
def FCU_ACT_ACT (k : Nat) : Fld := ⟨FCU_ACT k, 0, 64⟩

/-- FCU_FRCk — force bits (spec/17). -/
def FCU_FRC (k : Nat) : Nat := 0x401101C0 + 8 * k
def FCU_FRC_FRC (k : Nat) : Fld := ⟨FCU_FRC k, 0, 64⟩

/-- FCU_PENDk — unacknowledged sources (spec/17). -/
def FCU_PEND (k : Nat) : Nat := 0x40110200 + 8 * k
def FCU_PEND_PEND (k : Nat) : Fld := ⟨FCU_PEND k, 0, 64⟩

/-- FCU_SEVk — severity (spec/17). -/
def FCU_SEV (k : Nat) : Nat := 0x40110400 + 8 * k
def FCU_SEV_SEV (k ix : Nat) : Fld := ⟨FCU_SEV k, 4 * ix, 4⟩

/-- SEC_STAT — security status (spec/16). -/
def SEC_STAT : Nat := 0x40120000
def SEC_STAT_ROLLCNT : Fld := ⟨SEC_STAT, 32, 32⟩
def SEC_STAT_AKEYS : Fld := ⟨SEC_STAT, 16, 16⟩
def SEC_STAT_IKEYS : Fld := ⟨SEC_STAT, 8, 8⟩
def SEC_STAT_KSERR : Fld := ⟨SEC_STAT, 2, 1⟩
def SEC_STAT_OWNERLOCK : Fld := ⟨SEC_STAT, 1, 1⟩
def SEC_STAT_LIFE : Fld := ⟨SEC_STAT, 0, 1⟩

/-- SEC_PORTCLS0 — port classes (spec/16). -/
def SEC_PORTCLS0 : Nat := 0x40120008
def SEC_PORTCLS0_CLS (ix : Nat) : Fld := ⟨SEC_PORTCLS0, 3 * ix, 3⟩

/-- SEC_PORTCLS1 — host class (spec/16). -/
def SEC_PORTCLS1 : Nat := 0x40120010
def SEC_PORTCLS1_HOST : Fld := ⟨SEC_PORTCLS1, 0, 3⟩

/-- SEC_CARRIER — command carriers (spec/16). -/
def SEC_CARRIER : Nat := 0x40120018
def SEC_CARRIER_ETYPE : Fld := ⟨SEC_CARRIER, 48, 16⟩
def SEC_CARRIER_ETHEN : Fld := ⟨SEC_CARRIER, 31, 1⟩
def SEC_CARRIER_CANEN : Fld := ⟨SEC_CARRIER, 30, 1⟩
def SEC_CARRIER_IDE : Fld := ⟨SEC_CARRIER, 29, 1⟩
def SEC_CARRIER_ID : Fld := ⟨SEC_CARRIER, 0, 29⟩

/-- SEC_SPEED — speed signal (spec/16). -/
def SEC_SPEED : Nat := 0x40120020
def SEC_SPEED_EN : Fld := ⟨SEC_SPEED, 63, 1⟩
def SEC_SPEED_CHAN : Fld := ⟨SEC_SPEED, 53, 3⟩
def SEC_SPEED_LENM1 : Fld := ⟨SEC_SPEED, 49, 4⟩
def SEC_SPEED_START : Fld := ⟨SEC_SPEED, 38, 11⟩
def SEC_SPEED_IDE : Fld := ⟨SEC_SPEED, 29, 1⟩
def SEC_SPEED_ID : Fld := ⟨SEC_SPEED, 0, 29⟩

/-- SEC_GATE — gate state (spec/16). -/
def SEC_GATE : Nat := 0x40120028
def SEC_GATE_SPEED : Fld := ⟨SEC_GATE, 48, 16⟩
def SEC_GATE_AGE : Fld := ⟨SEC_GATE, 32, 16⟩
def SEC_GATE_SPD_OK : Fld := ⟨SEC_GATE, 31, 1⟩
def SEC_GATE_VBAT_OK : Fld := ⟨SEC_GATE, 30, 1⟩
def SEC_GATE_LOCK_OK : Fld := ⟨SEC_GATE, 29, 1⟩
def SEC_GATE_QLEN : Fld := ⟨SEC_GATE, 0, 4⟩

/-- SEC_INTAKE — intake counters (spec/16). -/
def SEC_INTAKE : Nat := 0x40120030
def SEC_INTAKE_SEGERR : Fld := ⟨SEC_INTAKE, 48, 16⟩
def SEC_INTAKE_INBUSY : Fld := ⟨SEC_INTAKE, 32, 16⟩
def SEC_INTAKE_REFUSED : Fld := ⟨SEC_INTAKE, 16, 16⟩
def SEC_INTAKE_ACCEPTED : Fld := ⟨SEC_INTAKE, 0, 16⟩

/-- SEC_IRQ — security flags (spec/16). -/
def SEC_IRQ : Nat := 0x40120038
def SEC_IRQ_FLASHERR : Fld := ⟨SEC_IRQ, 2, 1⟩
def SEC_IRQ_HOEND : Fld := ⟨SEC_IRQ, 1, 1⟩
def SEC_IRQ_CMD : Fld := ⟨SEC_IRQ, 0, 1⟩

/-- SEC_FAMk — family masks (spec/16). -/
def SEC_FAM (k : Nat) : Nat := 0x40120040 + 8 * k
def SEC_FAM_MASK (k ix : Nat) : Fld := ⟨SEC_FAM k, 5 * ix, 5⟩

/-- SEC_IEN — interrupt enables (spec/16). -/
def SEC_IEN : Nat := 0x40120070
def SEC_IEN_EN : Fld := ⟨SEC_IEN, 0, 3⟩

/-- BSQ_STAT — bootstrap status (spec/13). -/
def BSQ_STAT : Nat := 0x40130000
def BSQ_STAT_BOOTS : Fld := ⟨BSQ_STAT, 48, 16⟩
def BSQ_STAT_INRFAIL : Fld := ⟨BSQ_STAT, 40, 8⟩
def BSQ_STAT_EXIT2 : Fld := ⟨BSQ_STAT, 24, 4⟩
def BSQ_STAT_EXIT1 : Fld := ⟨BSQ_STAT, 20, 4⟩
def BSQ_STAT_INRSKIP : Fld := ⟨BSQ_STAT, 12, 1⟩
def BSQ_STAT_IHALF : Fld := ⟨BSQ_STAT, 9, 1⟩
def BSQ_STAT_SLOT : Fld := ⟨BSQ_STAT, 8, 1⟩
def BSQ_STAT_KIND : Fld := ⟨BSQ_STAT, 4, 2⟩
def BSQ_STAT_STATE : Fld := ⟨BSQ_STAT, 0, 3⟩

/-- BSQ_IMG — image in force (spec/13). -/
def BSQ_IMG : Nat := 0x40130008
def BSQ_IMG_SEQ : Fld := ⟨BSQ_IMG, 32, 32⟩
def BSQ_IMG_ROLLBACK : Fld := ⟨BSQ_IMG, 0, 32⟩

/-- BSQ_TIME — durations (spec/13). -/
def BSQ_TIME : Nat := 0x40130010
def BSQ_TIME_TTOTAL : Fld := ⟨BSQ_TIME, 32, 32⟩
def BSQ_TIME_TREAD : Fld := ⟨BSQ_TIME, 0, 32⟩

/-- BSQ_XSPI — flash interface in force (spec/13). -/
def BSQ_XSPI : Nat := 0x40130018
def BSQ_XSPI_RETRIES : Fld := ⟨BSQ_XSPI, 48, 16⟩
def BSQ_XSPI_DUMMY : Fld := ⟨BSQ_XSPI, 16, 8⟩
def BSQ_XSPI_CLKDIV : Fld := ⟨BSQ_XSPI, 8, 4⟩
def BSQ_XSPI_MODE : Fld := ⟨BSQ_XSPI, 0, 3⟩

/-- BSQ_HASHk — image hash (spec/13). -/
def BSQ_HASH (k : Nat) : Nat := 0x40130020 + 8 * k
def BSQ_HASH_HASH (k : Nat) : Fld := ⟨BSQ_HASH k, 0, 64⟩

/-- BSQ_IMGBASE — image region (spec/13). -/
def BSQ_IMGBASE : Nat := 0x40130040
def BSQ_IMGBASE_HALFSZ : Fld := ⟨BSQ_IMGBASE, 48, 16⟩
def BSQ_IMGBASE_BASE : Fld := ⟨BSQ_IMGBASE, 0, 40⟩

/-- BSQ_MRAMBASE — message RAM (spec/13). -/
def BSQ_MRAMBASE : Nat := 0x40130048
def BSQ_MRAMBASE_SIZE : Fld := ⟨BSQ_MRAMBASE, 48, 16⟩
def BSQ_MRAMBASE_BASE : Fld := ⟨BSQ_MRAMBASE, 0, 40⟩

/-- BSQ_IRQ — bootstrap flags (spec/13). -/
def BSQ_IRQ : Nat := 0x40130050
def BSQ_IRQ_RELOAD : Fld := ⟨BSQ_IRQ, 3, 1⟩
def BSQ_IRQ_INRCUT : Fld := ⟨BSQ_IRQ, 2, 1⟩
def BSQ_IRQ_FALLBACK : Fld := ⟨BSQ_IRQ, 1, 1⟩
def BSQ_IRQ_DONE : Fld := ⟨BSQ_IRQ, 0, 1⟩

/-- BSQ_IEN — interrupt enables (spec/13). -/
def BSQ_IEN : Nat := 0x40130058
def BSQ_IEN_EN : Fld := ⟨BSQ_IEN, 0, 4⟩

/-- BSQ_PARTk — SRAM partition (spec/13). -/
def BSQ_PART (k : Nat) : Nat := 0x40130100 + 8 * k
def BSQ_PART_V (k : Nat) : Fld := ⟨BSQ_PART k, 63, 1⟩
def BSQ_PART_OWNER (k : Nat) : Fld := ⟨BSQ_PART k, 60, 3⟩
def BSQ_PART_ZERO (k : Nat) : Fld := ⟨BSQ_PART k, 59, 1⟩
def BSQ_PART_SIZE (k : Nat) : Fld := ⟨BSQ_PART k, 40, 16⟩
def BSQ_PART_BASE (k : Nat) : Fld := ⟨BSQ_PART k, 0, 40⟩

/-- BSQ_NVPARTk — NV partition (spec/13). -/
def BSQ_NVPART (k : Nat) : Nat := 0x40130200 + 8 * k
def BSQ_NVPART_V (k : Nat) : Fld := ⟨BSQ_NVPART k, 63, 1⟩
def BSQ_NVPART_OWNER (k : Nat) : Fld := ⟨BSQ_NVPART k, 60, 3⟩
def BSQ_NVPART_SIZE (k : Nat) : Fld := ⟨BSQ_NVPART k, 40, 16⟩
def BSQ_NVPART_BASE (k : Nat) : Fld := ⟨BSQ_NVPART k, 0, 40⟩

/-- BSQ_HOSTAT — hand-over status (spec/16). -/
def BSQ_HOSTAT : Nat := 0x40130400
def BSQ_HOSTAT_RESULT : Fld := ⟨BSQ_HOSTAT, 60, 4⟩
def BSQ_HOSTAT_PART : Fld := ⟨BSQ_HOSTAT, 48, 8⟩
def BSQ_HOSTAT_READY : Fld := ⟨BSQ_HOSTAT, 40, 8⟩
def BSQ_HOSTAT_DONE : Fld := ⟨BSQ_HOSTAT, 32, 8⟩
def BSQ_HOSTAT_CAUSE : Fld := ⟨BSQ_HOSTAT, 4, 4⟩
def BSQ_HOSTAT_PHASE : Fld := ⟨BSQ_HOSTAT, 0, 3⟩

/-- BSQ_HOCMD — hand-over command, self-relative (spec/16). -/
def BSQ_HOCMD : Nat := 0x40130408
def BSQ_HOCMD_ABANDON : Fld := ⟨BSQ_HOCMD, 2, 1⟩
def BSQ_HOCMD_DONE : Fld := ⟨BSQ_HOCMD, 1, 1⟩
def BSQ_HOCMD_READY : Fld := ⟨BSQ_HOCMD, 0, 1⟩

/-- BSQ_HOENTRY — routine address, self-relative (spec/16). -/
def BSQ_HOENTRY : Nat := 0x40130410
def BSQ_HOENTRY_ADDR : Fld := ⟨BSQ_HOENTRY, 0, 40⟩

/-- BSQ_HOBLK — state blocks (spec/16). -/
def BSQ_HOBLK : Nat := 0x40130418
def BSQ_HOBLK_NBLK : Fld := ⟨BSQ_HOBLK, 48, 6⟩
def BSQ_HOBLK_ADDR : Fld := ⟨BSQ_HOBLK, 0, 40⟩

/-- BSQ_HOFLAG — hand-over flags, self-relative (spec/16). -/
def BSQ_HOFLAG : Nat := 0x40130420
def BSQ_HOFLAG_EN : Fld := ⟨BSQ_HOFLAG, 8, 2⟩
def BSQ_HOFLAG_OUTCOME : Fld := ⟨BSQ_HOFLAG, 1, 1⟩
def BSQ_HOFLAG_HOREQ : Fld := ⟨BSQ_HOFLAG, 0, 1⟩

/-- ID_LDIE — die position (spec/15). -/
def ID_LDIE : Nat := 0x40140000
def ID_LDIE_STEP : Fld := ⟨ID_LDIE, 56, 8⟩
def ID_LDIE_Y : Fld := ⟨ID_LDIE, 48, 8⟩
def ID_LDIE_X : Fld := ⟨ID_LDIE, 40, 8⟩
def ID_LDIE_WAFER : Fld := ⟨ID_LDIE, 32, 5⟩

/-- ID_LLOT — lot code (spec/15). -/
def ID_LLOT : Nat := 0x40140008
def ID_LLOT_LOT : Fld := ⟨ID_LLOT, 0, 48⟩

/-- ID_PDIE — die position (spec/15). -/
def ID_PDIE : Nat := 0x40140010
def ID_PDIE_STEP : Fld := ⟨ID_PDIE, 56, 8⟩
def ID_PDIE_Y : Fld := ⟨ID_PDIE, 48, 8⟩
def ID_PDIE_X : Fld := ⟨ID_PDIE, 40, 8⟩
def ID_PDIE_WAFER : Fld := ⟨ID_PDIE, 32, 5⟩

/-- ID_PLOT — lot code (spec/15). -/
def ID_PLOT : Nat := 0x40140018
def ID_PLOT_LOT : Fld := ⟨ID_PLOT, 0, 48⟩

/-- ID_SERIAL — module serial (spec/15). -/
def ID_SERIAL : Nat := 0x40140020
def ID_SERIAL_SERIAL : Fld := ⟨ID_SERIAL, 0, 64⟩

/-- ID_STAT — identity status (spec/15). -/
def ID_STAT : Nat := 0x40140028
def ID_STAT_CERTLEN : Fld := ⟨ID_STAT, 16, 16⟩
def ID_STAT_PVALID : Fld := ⟨ID_STAT, 1, 1⟩
def ID_STAT_OTPERR : Fld := ⟨ID_STAT, 0, 1⟩

/-- ID_CERTw — device certificate (spec/15). -/
def ID_CERT (w : Nat) : Nat := 0x40141000 + 8 * w
def ID_CERT_BYTES (w : Nat) : Fld := ⟨ID_CERT w, 0, 64⟩

/-- PDI_STAT — link, hold and limp status (spec/03). -/
def PDI_STAT : Nat := 0x40150000
def PDI_STAT_HOLD_LEFT : Fld := ⟨PDI_STAT, 48, 16⟩
def PDI_STAT_LINK_ERR : Fld := ⟨PDI_STAT, 32, 16⟩
def PDI_STAT_LIMP_CAUSE : Fld := ⟨PDI_STAT, 8, 4⟩
def PDI_STAT_LIMP : Fld := ⟨PDI_STAT, 2, 1⟩
def PDI_STAT_HOLD : Fld := ⟨PDI_STAT, 1, 1⟩
def PDI_STAT_LINK_UP : Fld := ⟨PDI_STAT, 0, 1⟩

/-- PDI_CFG — hold and limp settings (spec/03). -/
def PDI_CFG : Nat := 0x40150008
def PDI_CFG_LIMP_WF : Fld := ⟨PDI_CFG, 16, 1⟩
def PDI_CFG_HOLD_WIN : Fld := ⟨PDI_CFG, 0, 9⟩

/-- PDI_CMD — limp release (spec/03). -/
def PDI_CMD : Nat := 0x40150010
def PDI_CMD_RELEASE : Fld := ⟨PDI_CMD, 0, 1⟩

/-- PDI_HELD0 — held high-side channels (spec/03). -/
def PDI_HELD0 : Nat := 0x40150018
def PDI_HELD0_HSW : Fld := ⟨PDI_HELD0, 0, 64⟩

/-- PDI_HELD1 — held sinks and field outputs (spec/03). -/
def PDI_HELD1 : Nat := 0x40150020
def PDI_HELD1_LED : Fld := ⟨PDI_HELD1, 16, 48⟩
def PDI_HELD1_DOUT : Fld := ⟨PDI_HELD1, 0, 16⟩

/-- PDI_HELD2 — held valve channels (spec/03). -/
def PDI_HELD2 : Nat := 0x40150028
def PDI_HELD2_VLV : Fld := ⟨PDI_HELD2, 0, 24⟩

/-- PDI_IRQ — die interface flags (spec/03). -/
def PDI_IRQ : Nat := 0x40150030
def PDI_IRQ_SACAL : Fld := ⟨PDI_IRQ, 4, 1⟩
def PDI_IRQ_SAERR : Fld := ⟨PDI_IRQ, 3, 1⟩
def PDI_IRQ_LIMP : Fld := ⟨PDI_IRQ, 2, 1⟩
def PDI_IRQ_HOLD : Fld := ⟨PDI_IRQ, 1, 1⟩
def PDI_IRQ_LINK : Fld := ⟨PDI_IRQ, 0, 1⟩

/-- PDI_IEN — die interface interrupt enables (spec/03). -/
def PDI_IEN : Nat := 0x40150038
def PDI_IEN_EN : Fld := ⟨PDI_IEN, 0, 5⟩

/-- PDI_LIMPk — limp map entry (spec/03). -/
def PDI_LIMP (k : Nat) : Nat := 0x40150100 + 8 * k
def PDI_LIMP_EN (k : Nat) : Fld := ⟨PDI_LIMP k, 31, 1⟩
def PDI_LIMP_BLOCK (k : Nat) : Fld := ⟨PDI_LIMP k, 24, 3⟩
def PDI_LIMP_PROFILE (k : Nat) : Fld := ⟨PDI_LIMP k, 20, 4⟩
def PDI_LIMP_INV (k : Nat) : Fld := ⟨PDI_LIMP k, 16, 1⟩
def PDI_LIMP_DI (k : Nat) : Fld := ⟨PDI_LIMP k, 8, 7⟩
def PDI_LIMP_CHAN (k : Nat) : Fld := ⟨PDI_LIMP k, 0, 6⟩

/-- PDI_SACFGa — sense ADC control (spec/03). -/
def PDI_SACFG (a : Nat) : Nat := 0x40150200 + 0x100 * a
def PDI_SACFG_GO (a : Nat) : Fld := ⟨PDI_SACFG a, 63, 1⟩
def PDI_SACFG_TRIG_OVR (a : Nat) : Fld := ⟨PDI_SACFG a, 62, 1⟩
def PDI_SACFG_TERR (a : Nat) : Fld := ⟨PDI_SACFG a, 61, 1⟩
def PDI_SACFG_EVSEL (a : Nat) : Fld := ⟨PDI_SACFG a, 21, 2⟩
def PDI_SACFG_EVGT (a : Nat) : Fld := ⟨PDI_SACFG a, 16, 5⟩
def PDI_SACFG_TRIG (a : Nat) : Fld := ⟨PDI_SACFG a, 8, 4⟩
def PDI_SACFG_LEN (a : Nat) : Fld := ⟨PDI_SACFG a, 0, 5⟩

/-- PDI_SATIMEa — sense ADC start time (spec/03). -/
def PDI_SATIME (a : Nat) : Nat := 0x40150208 + 0x100 * a
def PDI_SATIME_TIME (a : Nat) : Fld := ⟨PDI_SATIME a, 0, 32⟩

/-- PDI_SASEQa_j — sense ADC sequence (spec/03). -/
def PDI_SASEQ (a j : Nat) : Nat := 0x40150210 + 0x100 * a + 8 * j
def PDI_SASEQ_IN (a j ix : Nat) : Fld := ⟨PDI_SASEQ a j, 8 * ix, 8⟩

/-- PDI_SARESa_j — sense ADC result (spec/03). -/
def PDI_SARES (a j : Nat) : Nat := 0x40150240 + 0x100 * a + 8 * j
def PDI_SARES_STAMP (a j : Nat) : Fld := ⟨PDI_SARES a j, 32, 32⟩
def PDI_SARES_VALID (a j : Nat) : Fld := ⟨PDI_SARES a j, 31, 1⟩
def PDI_SARES_OVR (a j : Nat) : Fld := ⟨PDI_SARES a j, 30, 1⟩
def PDI_SARES_INPUT (a j : Nat) : Fld := ⟨PDI_SARES a j, 16, 8⟩
def PDI_SARES_VALUE (a j : Nat) : Fld := ⟨PDI_SARES a j, 0, 12⟩

/-- PDI_SACAL — converter rotation (spec/03). -/
def PDI_SACAL : Nat := 0x40150600
def PDI_SACAL_DEGRADED : Fld := ⟨PDI_SACAL, 8, 1⟩
def PDI_SACAL_INROT : Fld := ⟨PDI_SACAL, 0, 5⟩

/-- The registers of the 64 KiB block 0x00 of the peripheral region. -/
def regRows00 : List RegInfo :=
  [
    ⟨0x40000000, [], 0xFF, 0, 0, 0, 0, 0, 0⟩,
    ⟨0x40000008, [], 0, 0, 0, 0, 0x1F, 0, 0⟩,
    ⟨0x40000010, [], 0, 0, 0, 0, 0, 0, 0⟩,
    ⟨0x40000018, [], 0x640000, 0x1FFFF0000, 0, 0, 0, 0, 0⟩,
    ⟨0x40000020, [], 0, 0, 0x7FFFFFFFF, 0, 0, 0, 0⟩,
    ⟨0x40000028, [], 0, 0x7FFFFFFFF, 0, 0, 0, 0, 0⟩,
    ⟨0x40000030, [], 0, 0x3FFFFF, 0, 0, 0, 0x8000000000000000, 0⟩,
    ⟨0x40000038, [], 0, 0xFFFFFFFF, 0, 0, 0, 0, 0⟩,
    ⟨0x40000040, [(8, 0, 12)], 0, 0xFFFFFFFFFFFFFFFF, 0, 0, 0, 0, 0⟩,
    ⟨0x40001000, [(0x80, 0, 32)], 0, 0xFFFF00737F7F, 0, 0, 0, 0, 0⟩,
    ⟨0x40001008, [(0x80, 0, 32)], 0, 0xFFFFFFFF, 0, 0, 0, 0, 0⟩,
    ⟨0x40001010, [(0x80, 0, 32)], 0, 0, 0, 0, 0, 3, 0⟩,
    ⟨0x40001018, [(0x80, 0, 32)], 0, 0, 0, 0, 0, 0, 0⟩,
    ⟨0x40001020, [(0x80, 0, 32)], 0, 0, 0, 0, 0, 0, 0⟩,
    ⟨0x40001040, [(0x80, 0, 32), (8, 0, 4)], 0, 0, 0, 0, 0, 0, 0⟩,
    ⟨0x40008000, [(0x200, 0, 32), (8, 0, 64)], 0, 0xFFFFFFFFFFFFFFFF, 0, 0, 0, 0, 0⟩ ]

/-- The registers of the 64 KiB block 0x01 of the peripheral region. -/
def regRows01 : List RegInfo :=
  [
    ⟨0x40010000, [(0x100, 0, 64)], 0, 0xF800, 0, 0, 0, 0, 0xF⟩,
    ⟨0x40010008, [(0x100, 0, 64)], 0, 0, 0, 0, 0, 0, 0⟩,
    ⟨0x40010010, [(0x100, 0, 64)], 0x190800, 0xFF7FDF, 0, 0, 0, 0, 0⟩,
    ⟨0x40010018, [(0x100, 0, 64)], 0, 0xFF0FF303, 0, 0, 0, 0, 0⟩,
    ⟨0x40010020, [(0x100, 0, 64)], 0x6400640, 0, 0, 0, 0, 0, 0⟩,
    ⟨0x40010028, [(0x100, 0, 64)], 0, 0, 0, 0, 0, 0, 0⟩,
    ⟨0x40010030, [(0x100, 0, 64)], 0, 0, 0, 0, 0, 3, 0⟩,
    ⟨0x40010038, [(0x100, 0, 64)], 0, 0x13FFFFF, 0, 0, 0, 0, 0⟩,
    ⟨0x40010040, [(0x100, 0, 64)], 0x50A0307, 0xBF00FFFF0F0F, 0, 0, 0, 0, 0⟩,
    ⟨0x40010048, [(0x100, 0, 64)], 0, 0, 0, 0, 0, 0x80000000, 0⟩,
    ⟨0x40018000, [], 0x6CC, 0xFFFF, 0, 0, 0, 0, 0⟩,
    ⟨0x40018008, [], 0, 0, 0, 0, 0, 0, 0⟩,
    ⟨0x40018100, [(8, 0, 16)], 0x140200, 0xFFFFFF, 0, 0, 0, 0, 0⟩,
    ⟨0x40018180, [(8, 0, 4)], 0x640, 0xFFFF, 0, 0, 0, 0, 0⟩,
    ⟨0x40018200, [], 0x7878, 0xFFFF, 0, 0, 0, 0, 0⟩,
    ⟨0x40018208, [], 0, 0, 0xFFFFFFFFFFFFFFFF, 0, 0, 0, 0⟩ ] ++
  [
    ⟨0x40018210, [], 0, 0xFFFFFFFFFFFFFFFF, 0, 0, 0, 0, 0⟩,
    ⟨0x40018218, [], 0, 0, 0xF, 0, 0, 0, 0⟩,
    ⟨0x40018220, [], 0, 0xF, 0, 0, 0, 0, 0⟩,
    ⟨0x40018228, [], 0, 0, 0, 0, 0, 0, 0⟩,
    ⟨0x40019000, [], 0, 0, 0xFFFFFFFFFFFFFFFF, 0, 0, 0, 0⟩,
    ⟨0x40019008, [], 0, 0xFFFFFFFFFFFFFFFF, 0, 0, 0, 0, 0⟩,
    ⟨0x40019040, [(8, 0, 8)], 0, 0xFFFF0000073F, 0, 0, 0, 0x8000000000000000, 0⟩ ]

/-- The registers of the 64 KiB block 0x02 of the peripheral region. -/
def regRows02 : List RegInfo :=
  [
    ⟨0x40020000, [(0x80, 0, 24)], 0x1900000200, 0xFF70000200, 0, 0, 0, 0, 7⟩,
    ⟨0x40020008, [(0x80, 0, 24)], 0xB4AA285000000BB8, 0xFFFFFFFF0000FFFF, 0, 0, 0, 0, 0⟩,
    ⟨0x40020010, [(0x80, 0, 24)], 0x64000000000, 0, 0, 0, 0, 0, 0⟩,
    ⟨0x40020018, [(0x80, 0, 24)], 0, 0, 0, 0, 0, 0x8000000000000000, 0⟩,
    ⟨0x40021000, [(8, 0, 4)], 0, 0, 0, 0, 0, 0, 0⟩,
    ⟨0x40022000, [(0x10, 0, 16)], 0x100000000, 0xFFFFFFFF003FF1FF, 0, 0, 0, 0, 0⟩,
    ⟨0x40022008, [(0x10, 0, 16)], 0x1004010, 0x31FFFFF, 0, 0, 0, 0, 0⟩,
    ⟨0x40023000, [], 0x7700, 0, 0, 0, 0, 0, 0x7707⟩,
    ⟨0x40023008, [], 0x8A8C0, 0x10FFFFF, 0, 0, 0, 0, 0⟩,
    ⟨0x40023010, [], 0, 0, 0x30000, 0, 0, 0, 0⟩,
    ⟨0x40023018, [], 0, 0, 0xEFFFFFFF, 0, 0, 0, 0⟩,
    ⟨0x40023020, [], 0, 0xFFFFFFFF, 0, 0, 0, 0, 0⟩,
    ⟨0x40023040, [(8, 0, 4)], 0, 0xFFFF0000073F, 0, 0, 0, 0x8000000000000000, 0⟩ ]

/-- The registers of the 64 KiB block 0x03 of the peripheral region. -/
def regRows03 : List RegInfo :=
  [
    ⟨0x40030000, [(0x40, 0, 48)], 0x2848, 0xFFF8, 0, 0, 0, 0, 7⟩,
    ⟨0x40030008, [(0x40, 0, 48)], 0, 0, 0, 0, 0, 0, 0⟩,
    ⟨0x40030010, [(0x40, 0, 48)], 0, 0, 0, 0, 0, 0x8000000000000000, 0⟩,
    ⟨0x40031000, [], 0xFF, 0, 0, 0, 0, 0, 0x700⟩,
    ⟨0x40031008, [], 0x1F40FA03C00, 0xFFFFFFFFFF00, 0, 0, 0, 0, 0x3000000000000⟩,
    ⟨0x40031010, [], 0, 0, 7, 0, 0, 0, 0⟩,
    ⟨0x40031018, [], 0x2A00080190, 0xFF001F0FFF, 0, 0, 0, 0, 0x8700000000000000⟩,
    ⟨0x40031020, [], 0, 0, 0, 0, 0, 0, 0⟩,
    ⟨0x40031028, [], 0, 0, 0, 0, 0, 1, 0⟩,
    ⟨0x40031030, [], 0, 0, 0xFFFFFFFFFFFF, 0, 0, 0, 0⟩,
    ⟨0x40031038, [], 0, 0, 0xFF, 0, 0, 0, 0⟩,
    ⟨0x40031040, [], 0, 0xFF00FFFFFFFFFFFF, 0, 0, 0, 0, 0⟩,
    ⟨0x40031080, [(8, 0, 3)], 0, 0, 0, 0, 0, 0, 0⟩,
    ⟨0x400310C0, [(8, 0, 4)], 0, 0xFFFF0000073F, 0, 0, 0, 0x8000000000000000, 0⟩,
    ⟨0x40032000, [(0x100, 0, 2)], 0x101, 0x10F0F, 0, 0, 0, 0, 0x8700000000000000⟩,
    ⟨0x40032008, [(0x100, 0, 2)], 0, 0, 0, 0, 0, 0, 0⟩ ] ++
  [
    ⟨0x40033000, [(8, 0, 192)], 0, 0, 0, 0, 0, 0, 0⟩,
    ⟨0x40034000, [(0x2000, 0, 2), (0x200, 0, 16), (8, 0, 64)], 0, 0xFFFFFFFFFFFFFFFF, 0, 0, 0, 0, 0⟩ ]

/-- The registers of the 64 KiB block 0x04 of the peripheral region. -/
def regRows04 : List RegInfo :=
  [
    ⟨0x40040000, [(0x20, 0, 96)], 0x90208, 0x3F0338, 0, 0, 0, 0, 0x47⟩,
    ⟨0x40040008, [(0x20, 0, 96)], 0xA06003010304, 0xFFFF0FFFFFFF, 0, 0, 0, 0, 0⟩,
    ⟨0x40040010, [(0x20, 0, 96)], 0x8C3208, 0xFFFFFF, 0, 0, 0, 0, 0⟩,
    ⟨0x40040018, [(0x20, 0, 96)], 0x200, 0, 0, 0, 0, 0, 0⟩,
    ⟨0x40041000, [(8, 0, 6)], 0, 0, 0, 0, 0, 0, 0⟩,
    ⟨0x40041030, [(8, 0, 2)], 0, 0, 0xFFFFFFFFFFFFFFFF, 0, 0, 0, 0⟩,
    ⟨0x40041040, [], 0, 0xFFFFFFFFFFFFFFFF, 0, 0, 0, 0, 0⟩,
    ⟨0x40041048, [], 0, 0xFFFFFFFF, 0, 0, 0, 0, 0⟩,
    ⟨0x40041050, [], 0, 0, 7, 0, 0, 0, 0⟩,
    ⟨0x40041058, [], 0, 7, 0, 0, 0, 0, 0⟩,
    ⟨0x40041060, [], 0, 0, 0, 0x1000, 0, 0, 0⟩,
    ⟨0x40041068, [], 0, 0, 0, 0, 0, 0, 0⟩ ]

/-- The registers of the 64 KiB block 0x05 of the peripheral region. -/
def regRows05 : List RegInfo :=
  [
    ⟨0x40050000, [(0x40, 0, 16)], 8, 8, 0, 0, 0, 0, 0xFFFF0007⟩,
    ⟨0x40050008, [(0x40, 0, 16)], 0, 0, 0, 0, 0, 0x8000000000000000, 0⟩,
    ⟨0x40050010, [(0x40, 0, 16)], 0, 0, 0, 0, 0xF, 0, 0⟩,
    ⟨0x40051000, [], 0, 0, 0x7FFFFFFFFFFFF, 0, 0, 0, 0⟩,
    ⟨0x40051008, [], 0, 0x7FFFFFFFFFFFF, 0, 0, 0, 0, 0⟩,
    ⟨0x40051040, [(8, 0, 2)], 0, 0xFFFF0000073F, 0, 0, 0, 0x8000000000000000, 0⟩ ]

/-- The registers of the 64 KiB block 0x06 of the peripheral region. -/
def regRows06 : List RegInfo :=
  [
    ⟨0x40060000, [(0x80, 0, 32)], 0, 0xFF07FFFFFF, 0, 0, 0, 0, 0x7000000000000⟩,
    ⟨0x40060008, [(0x80, 0, 32)], 0, 0xF1F1F1F, 0, 0, 0, 0, 0⟩,
    ⟨0x40060010, [(0x80, 0, 32)], 0, 0, 0, 0, 0, 0xF, 0⟩,
    ⟨0x40060018, [(0x80, 0, 32)], 0, 0xFFFFFFFFFFFFFFFF, 0, 0, 0, 0, 0⟩,
    ⟨0x40060020, [(0x80, 0, 32)], 0, 0xFFFFFFFFFFFFFFFF, 0, 0, 0, 0, 0⟩,
    ⟨0x40060028, [(0x80, 0, 32)], 0, 0xFFFFFFFFFFFFFFFF, 0, 0, 0, 0, 0⟩,
    ⟨0x40060030, [(0x80, 0, 32)], 0, 0xFFFFFFFFFFFFFFFF, 0, 0, 0, 0, 0⟩,
    ⟨0x40060038, [(0x80, 0, 32)], 0, 0, 0, 0, 0, 0, 0⟩,
    ⟨0x40060040, [(0x80, 0, 32)], 0, 0, 0x27, 0, 0, 0, 0⟩,
    ⟨0x40061000, [], 0, 0, 0, 0, 0xFFFFFFFF, 0, 0⟩,
    ⟨0x40061008, [], 0, 0, 0, 0, 0xFFFFFFFF, 0, 0⟩,
    ⟨0x40061010, [], 0, 0, 0, 0, 0, 0, 0⟩,
    ⟨0x40061018, [], 0, 0, 1, 0, 0, 0, 0⟩,
    ⟨0x40061020, [], 0, 1, 0, 0, 0, 0, 0⟩ ]

/-- The registers of the 64 KiB block 0x07 of the peripheral region. -/
def regRows07 : List RegInfo :=
  [
    ⟨0x40070000, [], 0, 0, 0, 0, 0, 0, 0⟩,
    ⟨0x40070008, [], 0, 0, 0, 0, 0, 0, 0⟩,
    ⟨0x40070010, [], 0x400000000, 0xFFFFFFFFFF, 0, 0, 0, 0, 0⟩,
    ⟨0x40070018, [], 0, 0x1FFFFFFFF, 0, 0, 0, 0x8000000000000000, 0⟩,
    ⟨0x40070020, [], 0x3E8FFFF, 0x1FFFFFFFF, 0, 0, 0, 0, 0x7000000000000⟩,
    ⟨0x40070028, [], 0, 0, 0x3F, 0, 0, 0, 0⟩,
    ⟨0x40070030, [], 0, 0xFF3F, 0, 0, 0, 0, 0⟩,
    ⟨0x40070038, [], 0, 0xFFFF, 0, 0, 0, 0xFF0000, 0⟩,
    ⟨0x40070040, [(8, 0, 8)], 0, 0, 0, 0, 0, 0, 0⟩,
    ⟨0x40070080, [], 0, 0, 0xFF00, 0, 0, 0, 0⟩,
    ⟨0x40070100, [(0x20, 0, 4)], 0, 0x800000000000001B, 0, 0, 0, 0, 0x700⟩,
    ⟨0x40070108, [(0x20, 0, 4)], 0, 0xFFFFFFFF, 0, 0, 0, 0, 0⟩,
    ⟨0x40070110, [(0x20, 0, 4)], 0x800000040, 0xFFFFFFFFFFFFFFFF, 0, 0, 0, 0, 0⟩ ]

/-- The registers of the 64 KiB block 0x08 of the peripheral region. -/
def regRows08 : List RegInfo :=
  [
    ⟨0x40080000, [(0x2000, 0, 8)], 0x20640000000400, 0xFFFF0300000707, 0, 0, 0, 0x800, 0x700000000000000⟩,
    ⟨0x40080008, [(0x2000, 0, 8)], 0x264D3809, 0xFFFFFCFF, 0, 0, 0, 0, 0⟩,
    ⟨0x40080010, [(0x2000, 0, 8)], 0xC88009092604, 0xFF801F1F3F1F, 0, 0, 0, 0, 0⟩,
    ⟨0x40080018, [(0x2000, 0, 8)], 0xC88009092604, 0xFF801F1F3F1F, 0, 0, 0, 0, 0⟩,
    ⟨0x40080020, [(0x2000, 0, 8)], 0, 0, 0, 0xFFFF00000000, 0, 0, 0⟩,
    ⟨0x40080028, [(0x2000, 0, 8), (8, 0, 4)], 0, 0xFFFFFCFF, 0, 0, 0, 0, 0⟩,
    ⟨0x40080048, [(0x2000, 0, 8)], 0x1F000200, 0x1F0F0303, 0, 0, 0, 0, 0⟩,
    ⟨0x40080050, [(0x2000, 0, 8)], 0x1FFFFFFF00000000, 0x3FFFFFFF1FFFFFFF, 0, 0, 0, 0, 0⟩,
    ⟨0x40080058, [(0x2000, 0, 8)], 0, 0xFFFFFFFFFFFFFFFF, 0, 0, 0, 0, 0⟩,
    ⟨0x40080060, [(0x2000, 0, 8)], 0, 0, 0xFF, 0, 0, 0, 0⟩,
    ⟨0x40080068, [(0x2000, 0, 8)], 0, 0xFF, 0, 0, 0, 0, 0⟩,
    ⟨0x40080070, [(0x2000, 0, 8)], 0, 0, 0, 0, 0, 0, 0⟩,
    ⟨0x40081000, [(0x2000, 0, 8), (0x10, 0, 128)], 0, 0xFFFFFFFFDFFFFFFF, 0, 0, 0, 0, 0⟩,
    ⟨0x40081008, [(0x2000, 0, 8), (0x10, 0, 128)], 0, 0x1F00C48000000000, 0, 0, 0, 0xE000000000000000, 0⟩,
    ⟨0x40081800, [(0x2000, 0, 8)], 0, 0xFFFFFFFFDFFFFFFF, 0, 0, 0, 0, 0⟩,
    ⟨0x40081808, [(0x2000, 0, 8)], 0, 0x808000000000, 0, 0, 0, 0x2000000000000000, 0⟩ ]

/-- The registers of the 64 KiB block 0x09 of the peripheral region. -/
def regRows09 : List RegInfo :=
  [
    ⟨0x40090000, [], 0x3C0100000000, 0xFFFFFF03FFFF0000, 0, 0, 0, 0, 7⟩,
    ⟨0x40090008, [], 0, 0, 0xD, 0, 0, 0, 0⟩,
    ⟨0x40090010, [], 0, 0, 0, 0xC000, 0, 0, 0⟩,
    ⟨0x40090018, [], 0, 0xF, 0, 0, 0, 0, 0⟩,
    ⟨0x40090020, [], 0, 0xF, 0, 0, 0, 0, 0⟩,
    ⟨0x40090100, [(0x10, 0, 16)], 0x1FFFFFFF00000000, 0x3FFFFFFF1FFFFFFF, 0, 0, 0, 0, 0⟩,
    ⟨0x40090108, [(0x10, 0, 16)], 0x1F4000000000000, 0xFFFF007F0000F83F, 0, 0, 0, 0, 0⟩,
    ⟨0x40090200, [(8, 0, 16)], 0, 0, 0, 0, 0, 0, 0⟩ ]

/-- The registers of the 64 KiB block 0x0A of the peripheral region. -/
def regRows0A : List RegInfo :=
  [
    ⟨0x400A0000, [(0x1000, 0, 8)], 0x200000000196E0, 0x80FF0000001FFFF0, 0, 0, 0, 0, 0x700008000000000⟩,
    ⟨0x400A0008, [(0x1000, 0, 8)], 0, 0x3F, 0, 0, 0, 0xF000000000000000, 0⟩,
    ⟨0x400A0010, [(0x1000, 0, 8)], 0, 0, 0xFE00, 0, 0, 0, 0⟩,
    ⟨0x400A0018, [(0x1000, 0, 8)], 0, 0xFE00, 0, 0, 0, 0, 0⟩,
    ⟨0x400A0100, [(0x1000, 0, 8), (0x10, 0, 64)], 0x2200000000, 0x400FE00000000, 0, 0, 0, 0x8000000000000000, 0⟩,
    ⟨0x400A0108, [(0x1000, 0, 8), (0x10, 0, 64)], 0, 0xFFFFFFFFFFFFFFFF, 0, 0, 0, 0, 0⟩,
    ⟨0x400A0800, [(0x1000, 0, 8), (8, 0, 64)], 0x1400, 0x1FF3F, 0, 0, 0, 0, 0⟩ ]

/-- The registers of the 64 KiB block 0x0B of the peripheral region. -/
def regRows0B : List RegInfo :=
  [
    ⟨0x400B0000, [], 0x1E000000000000, 0x80FF000000000F00, 0, 0, 0, 0, 0x700000000000000⟩,
    ⟨0x400B0008, [], 0, 0, 0xF, 0, 0, 0, 0⟩,
    ⟨0x400B0010, [], 0x5F60, 0xFFFF, 0, 0, 0, 0, 0⟩,
    ⟨0x400B0018, [], 0, 0, 0, 0, 0, 0, 0xFFFFFFFFFFFF⟩,
    ⟨0x400B0020, [], 0x2000000000000, 0xFF00FFFFFFFFFF, 0, 0, 0, 0, 0⟩,
    ⟨0x400B0028, [], 0x2000000000000, 0xFF00FFFFFFFFFF, 0, 0, 0, 0, 0⟩,
    ⟨0x400B0100, [(0x40, 0, 4)], 1, 0xA000FFFF00007FFF, 0, 0, 0, 0, 0x4000000000000000⟩,
    ⟨0x400B0108, [(0x40, 0, 4)], 0, 0, 0, 0xFFFFFFFF00000000, 0, 0, 0⟩,
    ⟨0x400B0110, [(0x40, 2, 4)], 0x80000000002008FF, 0x80000000FFFFFFFF, 0, 0, 0, 0, 0⟩,
    ⟨0x400B1000, [(8, 0, 64)], 0, 0x800000001F1F0FFF, 0, 0, 0, 0, 0⟩ ]

/-- The registers of the 64 KiB block 0x0C of the peripheral region. -/
def regRows0C : List RegInfo :=
  [
    ⟨0x400C0000, [], 0x1000, 0x8000000000001F00, 1, 0, 0, 0, 0x700000000000000⟩,
    ⟨0x400C0008, [], 0, 0x1FFF, 0, 0, 0xF0000, 0, 0⟩,
    ⟨0x400C0010, [(8, 0, 4)], 0, 0xFFFFFFFFFFFFFFFF, 0, 0, 0, 0, 0⟩,
    ⟨0x400C0030, [], 0, 0, 0, 0xFFFFFFFF, 0, 0, 0⟩,
    ⟨0x400C0038, [], 0, 0, 0, 0xFFFFFFFFFFFF0000, 0, 0, 0⟩,
    ⟨0x400C0040, [], 0x88B5E00000000000, 0xFFFFFE003FFFFFFF, 0xFF00000000, 0, 0, 0, 0⟩,
    ⟨0x400C0048, [], 0, 0xF00FF, 0xF000, 0, 0, 0, 0⟩,
    ⟨0x400C0100, [(0x10, 0, 8)], 0, 0xFFFFFFFFFFFFFFFF, 0, 0, 0, 0, 0⟩,
    ⟨0x400C0108, [(0x10, 0, 8)], 0, 0xFFFFFFFFFFFFFFFF, 0, 0, 0, 0, 0⟩,
    ⟨0x400C2000, [(8, 0, 256)], 0x800000000000000, 0x3FFFFFFFFFFFFFFF, 0, 0, 0, 0, 0⟩,
    ⟨0x400C4000, [(0x40, 0, 256), (8, 0, 8)], 0, 0xFFFFFFFFFFFFFFFF, 0, 0, 0, 0, 0⟩ ]

/-- The registers of the 64 KiB block 0x0D of the peripheral region. -/
def regRows0D : List RegInfo :=
  [
    ⟨0x400D0000, [], 0x322C05000000, 0xFFFF0F000001, 0, 0, 0, 0, 0x700000000000000⟩,
    ⟨0x400D0008, [], 0, 0, 0, 0, 0, 0, 0xFFFFFFFF⟩,
    ⟨0x400D0010, [], 0, 7, 0, 0, 0, 0xC000000000000000, 0⟩,
    ⟨0x400D0018, [], 0, 0, 0, 0, 0, 0, 0⟩,
    ⟨0x400D0020, [], 0xFFFF, 0, 0, 0x8000000000000000, 0, 0, 0⟩,
    ⟨0x400D0028, [], 0, 0, 0x3F, 0, 0, 0, 0⟩,
    ⟨0x400D0030, [], 0, 0x3F, 0, 0, 0, 0, 0⟩,
    ⟨0x400D0100, [(8, 0, 8)], 0xC8F0032014, 0xC000FFFFF3FFFFFF, 0, 0, 0, 0, 0⟩,
    ⟨0x400D0140, [(8, 0, 8)], 0, 0, 0, 0, 0, 0, 0⟩,
    ⟨0x400D0200, [(8, 0, 6)], 0xC, 0xF, 0, 0, 0, 0, 0⟩,
    ⟨0x400D0300, [(8, 0, 8)], 0xFFFF00000000, 0, 0, 0, 0, 0, 0⟩,
    ⟨0x400D0400, [], 3, 0, 0, 0, 0, 0, 0xFFFFFFFF00000F0F⟩,
    ⟨0x400D1000, [(8, 0, 256)], 0, 0, 0, 0, 0, 0, 0xFFFFFFFFFFFFFFFF⟩ ]

/-- The registers of the 64 KiB block 0x0E of the peripheral region. -/
def regRows0E : List RegInfo :=
  [
    ⟨0x400E0000, [(0x40, 0, 16)], 0, 0, 0, 0, 0, 0, 0⟩,
    ⟨0x400E0008, [(0x40, 0, 16)], 0, 0, 0, 0, 0xFFFFFFFFFFFFFFFF, 0, 0⟩,
    ⟨0x400E0010, [(0x40, 0, 16)], 0, 0, 0, 0, 0, 0, 0⟩,
    ⟨0x400E0018, [(0x40, 0, 16)], 0, 0, 0, 0, 3, 0, 0⟩,
    ⟨0x400E0020, [(0x40, 0, 16)], 0, 0x700, 6, 0, 0, 0, 0⟩,
    ⟨0x400E0028, [(0x40, 0, 16)], 0, 0, 0, 0, 0, 0, 0⟩,
    ⟨0x400E0030, [(0x40, 0, 16)], 0, 0, 0, 0, 0, 0, 0⟩,
    ⟨0x400E1000, [(8, 0, 32)], 0, 7, 0, 0, 0, 0, 0⟩,
    ⟨0x400E1100, [(8, 0, 2)], 0, 0, 0, 0, 0, 0, 0⟩,
    ⟨0x400E1110, [], 0, 0, 0xFFFFFFFF, 0, 0, 0, 0⟩,
    ⟨0x400E1118, [], 0, 0xFFFFFFFF, 0, 0, 0, 0, 0⟩,
    ⟨0x400E2000, [], 0, 0, 1, 0, 0, 0, 0⟩ ]

/-- The registers of the 64 KiB block 0x0F of the peripheral region. -/
def regRows0F : List RegInfo :=
  [
    ⟨0x400F0000, [], 0, 0, 0, 0, 0, 0, 0⟩,
    ⟨0x400F0008, [], 0x3203E800000000, 0xFFFFFF0000C000, 0, 0, 0, 0, 0x7000000000000FE⟩,
    ⟨0x400F0010, [], 0, 0, 0, 0, 0x8000000000000003, 0, 0⟩,
    ⟨0x400F0018, [], 0, 0, 0, 0, 0, 0, 0⟩,
    ⟨0x400F0020, [], 0x7F, 0x7F, 0, 0, 0, 0, 0⟩,
    ⟨0x400F0028, [], 0, 0, 0, 0xC000, 0, 0, 0⟩,
    ⟨0x400F0030, [], 0, 0, 0, 0, 0, 0, 0⟩,
    ⟨0x400F0038, [], 0, 0x8000FFFFFFFFFFFF, 0, 0, 0, 0, 0⟩,
    ⟨0x400F0040, [], 1, 3, 0, 0, 0, 0, 0⟩,
    ⟨0x400F0048, [], 0xFF, 0, 0xFF00, 0, 0, 0, 0⟩,
    ⟨0x400F0050, [], 0, 0, 0x3F, 0, 0, 0, 0⟩,
    ⟨0x400F0058, [], 0, 0x3F, 0, 0, 0, 0, 0⟩ ]

/-- The registers of the 64 KiB block 0x10 of the peripheral region. -/
def regRows10 : List RegInfo :=
  [
    ⟨0x40100000, [], 0, 0, 0, 0, 0, 0, 0⟩,
    ⟨0x40100008, [], 0x10000, 0x10000, 0, 0, 0, 0, 0x700000000000101⟩,
    ⟨0x40100010, [], 0, 0, 3, 0, 0, 0, 0x300⟩,
    ⟨0x40100018, [], 1, 0, 0, 0x1FE0F3F, 0, 0, 0⟩,
    ⟨0x40100020, [], 0, 0, 0, 0, 0xFF000000000000FF, 0, 0⟩,
    ⟨0x40100040, [(0x10, 0, 4)], 0, 0, 0, 0, 0, 0, 0x8703FFFF0000FFFF⟩,
    ⟨0x40100048, [(0x10, 0, 4)], 0, 0, 0, 0, 0xFF, 0, 0⟩,
    ⟨0x40100080, [], 0, 0, 0xF, 0, 0, 0, 0⟩,
    ⟨0x40100088, [], 0, 0xF, 0, 0, 0, 0, 0⟩ ]

/-- The registers of the 64 KiB block 0x11 of the peripheral region. -/
def regRows11 : List RegInfo :=
  [
    ⟨0x40110000, [], 0x30003C00000000, 0xF0FFFF00000000, 0, 0, 0, 0, 0x700000000000000⟩,
    ⟨0x40110008, [], 0x3E827102710, 0xFFFFFFFFFFFF, 0, 0, 0, 0, 0⟩,
    ⟨0x40110010, [], 0, 0, 0, 0, 0, 0, 0⟩,
    ⟨0x40110018, [], 0, 0, 0, 0, 0x1FF, 0, 0⟩,
    ⟨0x40110020, [], 0, 0, 0x3F, 0, 0, 0, 0⟩,
    ⟨0x40110028, [], 0, 0x3F, 0, 0, 0, 0, 0⟩,
    ⟨0x40110030, [], 0, 0, 0, 0, 0, 0, 0⟩,
    ⟨0x40110038, [], 0, 0x3FF, 0, 0, 0, 0, 0⟩,
    ⟨0x40110100, [(8, 0, 6)], 0, 0, 0xFFFFFFFFFFFFFFFF, 0, 0, 0, 0⟩,
    ⟨0x40110140, [(8, 0, 6)], 0, 0, 0xFFFFFFFFFFFFFFFF, 0, 0, 0, 0⟩,
    ⟨0x40110180, [(8, 0, 6)], 0, 0, 0, 0, 0, 0, 0⟩,
    ⟨0x401101C0, [(8, 0, 6)], 0, 0xFFFFFFFFFFFFFFFF, 0, 0, 0, 0, 0⟩,
    ⟨0x40110200, [(8, 0, 6)], 0, 0, 0, 0, 0, 0, 0⟩,
    ⟨0x40110400, [(8, 0, 24)], 0, 0xFFFFFFFFFFFFFFFF, 0, 0, 0, 0, 0⟩ ]

/-- The registers of the 64 KiB block 0x12 of the peripheral region. -/
def regRows12 : List RegInfo :=
  [
    ⟨0x40120000, [], 0, 0, 0, 0, 0, 0, 0⟩,
    ⟨0x40120008, [], 0, 0, 0, 0, 0, 0, 0⟩,
    ⟨0x40120010, [], 0, 0, 0, 0, 0, 0, 0⟩,
    ⟨0x40120018, [], 0, 0, 0, 0, 0, 0, 0⟩,
    ⟨0x40120020, [], 0, 0, 0, 0, 0, 0, 0⟩,
    ⟨0x40120028, [], 0xFFFFFFFF00000000, 0, 0, 0, 0, 0, 0⟩,
    ⟨0x40120030, [], 0, 0, 0, 0xFFFFFFFFFFFFFFFF, 0, 0, 0⟩,
    ⟨0x40120038, [], 0, 0, 7, 0, 0, 0, 0⟩,
    ⟨0x40120040, [(8, 0, 6)], 0, 0, 0, 0, 0, 0, 0⟩,
    ⟨0x40120070, [], 0, 7, 0, 0, 0, 0, 0⟩ ]

/-- The registers of the 64 KiB block 0x13 of the peripheral region. -/
def regRows13 : List RegInfo :=
  [
    ⟨0x40130000, [], 0, 0, 0, 0, 0, 0, 0⟩,
    ⟨0x40130008, [], 0, 0, 0, 0, 0, 0, 0⟩,
    ⟨0x40130010, [], 0, 0, 0, 0, 0, 0, 0⟩,
    ⟨0x40130018, [], 0x80000, 0, 0, 0, 0, 0, 0⟩,
    ⟨0x40130020, [(8, 0, 4)], 0, 0, 0, 0, 0, 0, 0⟩,
    ⟨0x40130040, [], 0, 0, 0, 0, 0, 0, 0⟩,
    ⟨0x40130048, [], 0, 0, 0, 0, 0, 0, 0⟩,
    ⟨0x40130050, [], 0, 0, 0xF, 0, 0, 0, 0⟩,
    ⟨0x40130058, [], 0, 0xF, 0, 0, 0, 0, 0⟩,
    ⟨0x40130100, [(8, 0, 32)], 0, 0, 0, 0, 0, 0, 0⟩,
    ⟨0x40130200, [(8, 0, 16)], 0, 0, 0, 0, 0, 0, 0⟩,
    ⟨0x40130400, [], 0, 0, 0, 0, 0, 0, 0⟩,
    ⟨0x40130408, [], 0, 0, 0, 0, 7, 0, 0⟩,
    ⟨0x40130410, [], 0, 0, 0, 0, 0, 0, 0⟩,
    ⟨0x40130418, [], 0, 0, 0, 0, 0, 0, 0⟩,
    ⟨0x40130420, [], 0, 0x300, 3, 0, 0, 0, 0⟩ ]

/-- The registers of the 64 KiB block 0x14 of the peripheral region. -/
def regRows14 : List RegInfo :=
  [
    ⟨0x40140000, [], 0xB000000000000000, 0, 0, 0, 0, 0, 0⟩,
    ⟨0x40140008, [], 0, 0, 0, 0, 0, 0, 0⟩,
    ⟨0x40140010, [], 0xC100000000000000, 0, 0, 0, 0, 0, 0⟩,
    ⟨0x40140018, [], 0, 0, 0, 0, 0, 0, 0⟩,
    ⟨0x40140020, [], 0, 0, 0, 0, 0, 0, 0⟩,
    ⟨0x40140028, [], 0, 0, 0, 0, 0, 0, 0⟩,
    ⟨0x40141000, [(8, 0, 128)], 0, 0, 0, 0, 0, 0, 0⟩ ]

/-- The registers of the 64 KiB block 0x15 of the peripheral region. -/
def regRows15 : List RegInfo :=
  [
    ⟨0x40150000, [], 0, 0, 0, 0, 0, 0, 0⟩,
    ⟨0x40150008, [], 0, 0, 0, 0, 0, 0, 0x101FF⟩,
    ⟨0x40150010, [], 0, 0, 0, 0, 0, 1, 0⟩,
    ⟨0x40150018, [], 0, 0, 0, 0, 0, 0, 0⟩,
    ⟨0x40150020, [], 0, 0, 0, 0, 0, 0, 0⟩,
    ⟨0x40150028, [], 0, 0, 0, 0, 0, 0, 0⟩,
    ⟨0x40150030, [], 0, 0, 0x17, 0, 0, 0, 0⟩,
    ⟨0x40150038, [], 0, 0x1F, 0, 0, 0, 0, 0⟩,
    ⟨0x40150100, [(8, 0, 24)], 0, 0, 0, 0, 0, 0, 0x87F17F3F⟩,
    ⟨0x40150200, [(0x100, 0, 4)], 1, 0x7F0F1F, 0x6000000000000000, 0, 0, 0x8000000000000000, 0⟩,
    ⟨0x40150208, [(0x100, 0, 4)], 0, 0xFFFFFFFF, 0, 0, 0, 0, 0⟩,
    ⟨0x40150210, [(0x100, 0, 4), (8, 0, 2)], 0, 0xFFFFFFFFFFFFFFFF, 0, 0, 0, 0, 0⟩,
    ⟨0x40150240, [(0x100, 0, 4), (8, 0, 16)], 0, 0, 0, 0xC0000000, 0, 0, 0⟩,
    ⟨0x40150600, [], 0x1F, 0, 0, 0, 0, 0, 0⟩ ]

/-- The rows of one 64 KiB block of the peripheral region (spec/13, R328); none lies outside it. -/
def regRows (block : Nat) : List RegInfo :=
  match block with
  | 0x4000 => regRows00
  | 0x4001 => regRows01
  | 0x4002 => regRows02
  | 0x4003 => regRows03
  | 0x4004 => regRows04
  | 0x4005 => regRows05
  | 0x4006 => regRows06
  | 0x4007 => regRows07
  | 0x4008 => regRows08
  | 0x4009 => regRows09
  | 0x400A => regRows0A
  | 0x400B => regRows0B
  | 0x400C => regRows0C
  | 0x400D => regRows0D
  | 0x400E => regRows0E
  | 0x400F => regRows0F
  | 0x4010 => regRows10
  | 0x4011 => regRows11
  | 0x4012 => regRows12
  | 0x4013 => regRows13
  | 0x4014 => regRows14
  | 0x4015 => regRows15
  | _ => []

/-- The offset is one the dimensions reach: the last dimension is consumed last, and each index stays in its range. -/
def dimsReach : List (Nat × Nat × Nat) → Nat → Bool
  | [], off => off == 0
  | (stride, first, last) :: rest, off =>
    match rest with
    | [] => off % stride == 0 && first ≤ off / stride && off / stride < last
    | _ :: _ => first ≤ off / stride && off / stride < last && dimsReach rest (off % stride)

/-- The row of the register at an address, if a register lies there (spec/00, R4 and R5). -/
def regInfo? (a : Nat) : Option RegInfo :=
  (regRows (a / 0x10000)).find? (fun r => r.base ≤ a && dimsReach r.dims (a - r.base))

/-- The reset words of FCU_SEV0–FCU_SEV23 (spec/17, R438). -/
def fcuSevReset (k : Nat) : Nat :=
  match k with
  | 0 | 1 | 2 | 3 | 5 | 12 => 0x1111111111111111
  | 4 => 0x0000110111110111
  | 6 => 0x0011111111111111
  | 10 => 0x1111111101101111
  | 11 => 0x0000000111111111
  | 13 => 0x0010111100111111
  | 14 => 0x0000000111111111
  | 15 => 0x0000000033333333
  | 16 => 0x1111111201201111
  | 17 => 0x0001211100111111
  | 22 | 23 => 0x1111111111111111
  | _ => 0

/-- What the register at an address holds after reset: the value of its row; 0 where no register lies. -/
def regReset (a : Nat) : BitVec 64 :=
  match regInfo? a with
  | none => 0#64
  | some r =>
    if r.base = 0x40110400 then BitVec.ofNat 64 (fcuSevReset ((a - 0x40110400) / 8)) else BitVec.ofNat 64 r.reset

end Sys2Proof.Machine
end

