-- ==== Sys2Proof/Machine/Ops.lean ====
section
/-!
DEFINITION. The named operations every family uses: reading and writing registers and their fields, the records kept
per channel, ownership, free values, and raising a fault source.
-/

namespace Sys2Proof.Machine

/-- The outcome of a command. -/
abbrev Out := Host.Outcome State Fault Refusal

/-! Registers and fields. -/

/-- A register's value (spec/00, R4). -/
def State.reg (s : State) (a : Nat) : BitVec 64 := tget (regReset a) s.regs a

/-- A register set by the device. -/
def State.setReg (s : State) (a : Nat) (v : BitVec 64) : State := { s with regs := tset (regReset a) s.regs a v }

/-- The ones of a field, in place. -/
def Fld.mask (f : Fld) : BitVec 64 := BitVec.ofNat 64 ((2 ^ f.width - 1) <<< f.lo)

/-- A field taken out of a register value. -/
def Fld.of (f : Fld) (v : BitVec 64) : Nat := (v.toNat >>> f.lo) % 2 ^ f.width

/-- A register value with the field replaced; the value is taken modulo the field's width. -/
def Fld.into (f : Fld) (v : BitVec 64) (x : Nat) : BitVec 64 :=
  (v &&& ~~~ f.mask) ||| BitVec.ofNat 64 ((x % 2 ^ f.width) <<< f.lo)

/-- Bit `i` of a field, as a field. -/
def Fld.bit (f : Fld) (i : Nat) : Fld := ⟨f.addr, f.lo + i, 1⟩

/-- The value of a field. -/
def State.fld (s : State) (f : Fld) : Nat := f.of (s.reg f.addr)

/-- A field set by the device. -/
def State.put (s : State) (f : Fld) (x : Nat) : State := s.setReg f.addr (f.into (s.reg f.addr) x)

/-- The field is not zero. -/
def State.flag (s : State) (f : Fld) : Bool := s.fld f != 0

/-- A one-bit field set to a truth value. -/
def State.putB (s : State) (f : Fld) (b : Bool) : State := s.put f (if b then 1 else 0)

/-- A one-bit field set to 1. -/
def State.raiseBit (s : State) (f : Fld) : State := s.put f 1

/-- A field increased by one, staying at its largest value (a saturating count). -/
def State.incSat (s : State) (f : Fld) : State := s.put f (min (s.fld f + 1) (2 ^ f.width - 1))

/-- A field increased by one modulo its width. -/
def State.incWrap (s : State) (f : Fld) : State := s.put f (s.fld f + 1)

/-- Apply a change for each element of a list, in order. -/
def State.each {α : Type} (s : State) (l : List α) (f : α → State → State) : State :=
  l.foldl (fun t x => f x t) s

/-- Apply a change when a condition holds. -/
def State.when (s : State) (b : Bool) (f : State → State) : State := if b then f s else s

/-- The least of a list of naturals, none when it is empty. -/
def leastOf : List Nat → Option Nat
  | [] => none
  | x :: xs => some (xs.foldl min x)

/-! Records. -/

def State.hnd (s : State) (h : Nat) : Handle := tget {} s.txn.handle h
def State.setHnd (s : State) (h : Nat) (x : Handle) : State :=
  { s with txn := { s.txn with handle := tset {} s.txn.handle h x } }

def State.hsc (s : State) (n : Nat) : HswChan := tget {} s.hsw.chan n
def State.setHsc (s : State) (n : Nat) (x : HswChan) : State :=
  { s with hsw := { s.hsw with chan := tset {} s.hsw.chan n x } }

def State.adc (s : State) (a : Nat) : SenseAdc := tget {} s.pdi.adc a
def State.setAdc (s : State) (a : Nat) (x : SenseAdc) : State :=
  { s with pdi := { s.pdi with adc := tset {} s.pdi.adc a x } }

def State.val (s : State) (c : Nat) : Valve := tget {} s.vlv.chan c
def State.setVal (s : State) (c : Nat) (x : Valve) : State :=
  { s with vlv := { s.vlv with chan := tset {} s.vlv.chan c x } }

def State.bq (s : State) (d : Nat) : List BoostReq := tget [] s.vlv.queue d
def State.setBq (s : State) (d : Nat) (x : List BoostReq) : State :=
  { s with vlv := { s.vlv with queue := tset [] s.vlv.queue d x } }

def State.fade (s : State) (n : Nat) : Option Fade := tget none s.led.fade n
def State.setFade (s : State) (n : Nat) (x : Option Fade) : State :=
  { s with led := { s.led with fade := tset none s.led.fade n x } }

def State.chain (s : State) (k : Nat) : Chain := tget {} s.led.chain k
def State.setChain (s : State) (k : Nat) (x : Chain) : State :=
  { s with led := { s.led with chain := tset {} s.led.chain k x } }

def State.dinc (s : State) (n : Nat) : DinChan := tget {} s.din n
def State.setDinc (s : State) (n : Nat) (x : DinChan) : State := { s with din := tset {} s.din n x }

def State.dou (s : State) (n : Nat) : DoutChan := tget {} s.dout n
def State.setDou (s : State) (n : Nat) (x : DoutChan) : State := { s with dout := tset {} s.dout n x }

def State.ctr (s : State) (n : Nat) : Counter := tget {} s.gt n
def State.setCtr (s : State) (n : Nat) (x : Counter) : State := { s with gt := tset {} s.gt n x }

/-! Endpoints and owners. -/

/-- A master passes an owner field that names it or is 0 (spec/00, R482); the bootstrap sequencer passes every one
(spec/13, R348). -/
def ownerOk (owner : Nat) (m : Master) : Bool := owner == 0 || owner == m.num || m == .bsq

/-! Free values. -/

/-- Draw the next free value (log entry 3). -/
def State.draw (s : State) : BitVec 64 × State :=
  (Config.freeWord s.freeCtr, { s with freeCtr := s.freeCtr + 1 })

/-- The next `n` free values have been drawn. -/
def State.drawn (s : State) (n : Nat) : State := { s with freeCtr := s.freeCtr + n }

/-- Answer a read with data. -/
def State.answer (s : State) (v : Nat) : State := { s with reply := some (BitVec.ofNat 64 v, false) }

/-- A register value after a write of all of it or of one half (spec/00, R4): the low 32 bits of `v` reach the half a
32-bit write names. -/
def accMerge (a : Access) (old v : BitVec 64) : BitVec 64 :=
  match a with
  | .w64 => v
  | .lo32 => (old &&& 0xFFFFFFFF00000000#64) ||| (v &&& 0xFFFFFFFF#64)
  | .hi32 => (old &&& 0xFFFFFFFF#64) ||| (v <<< 32)

/-- What a read of a value through an access returns (spec/00, R4). -/
def accTake (a : Access) (v : BitVec 64) : BitVec 64 :=
  match a with
  | .w64 => v
  | .lo32 => v &&& 0xFFFFFFFF#64
  | .hi32 => v >>> 32

/-- Record what leaves the device. -/
def State.send (s : State) (x : Sent) : State := { s with sent := s.sent ++ [x] }

/-- Several of them, in order. -/
def State.sendAll (s : State) (l : List Sent) : State := { s with sent := s.sent ++ l }

/-! Fault sources (spec/17, R434–R438). -/

/-- A source of the L-die reads active at the fault collector's next sample. -/
def State.raiseL (s : State) (src : Nat) : State :=
  { s with fcu := { s.fcu with raised := s.fcu.raised ++ [src] } }

/-- A source of the P-die crosses the link; while the link is down it goes into the P-die's own record (spec/17,
R436). -/
def State.raiseP (s : State) (src : Nat) : State :=
  if s.flag PDI_STAT_LINK_UP then s.raiseL src
  else { s with pdi := { s.pdi with pRecord := s.pdi.pRecord ++ [src] } }

/-! Conditions shared by the blocks. -/

/-- S3 is in force (spec/17, R443). -/
def State.s3 (s : State) : Bool := s.flag FCU_STAT_S3

/-- S4 is in force (spec/17, R444). -/
def State.s4 (s : State) : Bool := s.flag FCU_STAT_S4

/-- The power state the blocks are in (spec/14, R364): that of PMU_STAT.STATE, but RUN while a bootstrap runs, since the
cells are open (R377), and the target from the point of no return of an entry on (R374). -/
def State.pstate (s : State) : Nat :=
  match s.fld PMU_STAT_PHASE with
  | 2 => s.fld PMU_RSTAT_ACT_TGT
  | 4 => 0
  | _ => s.fld PMU_STAT_STATE

/-- CK_SLOW cycles since the P-die power-on reset (spec/14, PMU_SLOW; spec/15, R389): 32,768 Hz against the 125 MHz of
model time. -/
def State.slowCount (s : State) : Nat := (s.now - s.pmu.slowBase) * 512 / 1953125 % 2 ^ 48

/-- The NV domain is READY. -/
def State.nvReady (s : State) : Bool := (s.fld PMU_DOMSTAT_READY).testBit 5

/-- NTU_NS now (spec/07, R200); NTU_NS and NTU_EXT read one time, which NTU_EXT holds. -/
def State.ntuNs (s : State) : Nat := s.fld NTU_EXT_NS

/-- A signed field read in two's complement. -/
def sgn (width : Nat) (x : Nat) : Int := if x < 2 ^ (width - 1) then (x : Int) else (x : Int) - (2 ^ width : Nat)

/-- The two's complement of an integer in a field of a width. -/
def unsgn (width : Nat) (x : Int) : Nat := (x % (2 ^ width : Nat)).toNat

/-- A temperature in °C written in 1/64 °C, rounded down or up as the free value says, in 16 bits (log entry 11). -/
def temp64 (t : Rat) : Nat :=
  let y := t * 64
  unsgn 16 (y.floor + (if Config.roundUp y && y != (y.floor : Rat) then 1 else 0))

/-! BSQ_STAT.KIND and STATE. -/
def bkCold : Nat := 0
def bkWake : Nat := 1
def bkWarm : Nat := 2
def bkRecovery : Nat := 3

def bsReset : Nat := 0
def bsFlash : Nat := 1
def bsVerify : Nat := 2
def bsBuild : Nat := 3
def bsInrush : Nat := 4
def bsDone : Nat := 5
def bsFail : Nat := 6

/-- A word of the OTP cells, in its register: 0 when it could not be corrected (spec/15, R405). -/
def State.otp (s : State) (a : Nat) : BitVec 64 := if s.sys.otpBad.contains a then 0 else s.reg a

/-- The device is in BOOT_FAIL (spec/13, R361). -/
def State.bootFailed (s : State) : Bool := s.fld BSQ_STAT_STATE == bsFail

end Sys2Proof.Machine
end

