-- ==== Sys2Proof/Machine/Shadow.lean ====
section
/-!
DEFINITION. Split registers: the read and write shadows that 32-bit accesses of a 64-bit counter, capture, compare,
period or time register use (spec/00, R6 and R7).
-/

namespace Sys2Proof.Machine

/-- The endpoint a core acts as: the lower core's for the upper core of a lockstep pair (spec/11, R280). -/
def State.coreHome (s : State) (e : Nat) : Nat :=
  if e == 2 && s.cpu.lock01 then 1 else if e == 4 && s.cpu.lock23 then 3 else e

/-- A master presents accesses on the fabric: the upper core of a lockstep pair presents none (spec/11, R280). -/
def State.presents (s : State) (m : Master) : Bool := s.coreHome m.num == m.num

/-! Reaching a block (spec/00, R10; spec/14, R366–R369). -/

/-- An access ends with a bus error. -/
def State.busError (s : State) : State := { s with reply := some (0, true) }

/-- A register lies in the always-on domain: MBX, PMU, FCU and BSQ. -/
def inAon (a : Nat) : Bool :=
  let b := a / 65536
  b == 0x400E || b == 0x400F || b == 0x4011 || b == 0x4013

/-- A register lies in the NET domain: CAN, NSL, LIN, ESW and GWE. -/
def inNet (a : Nat) : Bool :=
  let b := a / 65536
  b == 0x4008 || b == 0x4009 || b == 0x400A || b == 0x400B || b == 0x400C

/-- The NET domain is READY. -/
def State.netReadyDom (s : State) : Bool := (s.fld PMU_DOMSTAT_READY).testBit 4

/-- An access by a master to a register. In HOLD and PARK only ZK is powered, and its accesses outside the always-on domain
end with a bus error (R369); the first access to the NET domain while it is off stalls (`store` is the 64-bit value a
write carries); any other has its effect. -/
def State.access (s : State) (m : Master) (a : Nat) (store : Option (BitVec 64)) (f : State → State) : State :=
  if (2 ≤ s.pstate && m != .zk) || !s.presents m then s
  else if !inAon a && 2 ≤ s.pstate then s.busError
  else if inNet a && !s.netReadyDom then
    { s with nv := { s.nv with stalled := s.nv.stalled ++ [{ m := m, addr := a, size := 8, store := store.map fun v => v.setWidth 128 }] } }
  else f s

/-- The key of a master's shadow of a register. -/
def shadowKey (m : Master) (a : Nat) : Nat := 8 * a + m.num

/-- A shadow of a register of the always-on domain stays when the other domains are switched off or reset; in a sleep state only
ZK's does, since every other endpoint is reset (spec/00, R6, R7; spec/12, R314; spec/14, R366). -/
def shadowStays (zkOnly : Bool) (key : Nat) : Bool := inAon (key / 8) && (!zkOnly || key % 8 == Master.zk.num)

/-- The high half of a value. -/
def hiHalf (v : BitVec 64) : BitVec 32 := BitVec.ofNat 32 (v.toNat / 2 ^ 32)

/-- A read of a split register whose value is `v` now: a low-half read copies the high half into the master's shadow, a
high-half read returns the shadow, or the live half when the master holds none (spec/00, R6). -/
def State.splitRead (s : State) (m : Master) (a : Nat) (acc : Access) (v : BitVec 64) : State :=
  match acc with
  | .w64 => s.answer v.toNat
  | .lo32 =>
    { (s.answer (v.toNat % 2 ^ 32)) with readShadow := tset none s.readShadow (shadowKey m a) (some (hiHalf v)) }
  | .hi32 => s.answer ((tget none s.readShadow (shadowKey m a)).getD (hiHalf v)).toNat

/-- A write of a split register: a low half is held; the write that takes effect is answered with its 64-bit value
(spec/00, R7). `cur` is the register's present value. -/
def State.splitWrite (s : State) (m : Master) (a : Nat) (acc : Access) (cur v : BitVec 64) : State × Option (BitVec 64) :=
  let key := shadowKey m a
  let held := tget none s.writeShadow key
  let drop : State := { s with writeShadow := tset none s.writeShadow key none }
  match acc with
  | .w64 => (drop, some v)
  | .lo32 => ({ s with writeShadow := tset none s.writeShadow key (some (BitVec.ofNat 32 v.toNat)) }, none)
  | .hi32 =>
    let lo := match held with
      | some x => x.toNat
      | none => cur.toNat % 2 ^ 32
    (drop, some (BitVec.ofNat 64 (v.toNat % 2 ^ 32 * 2 ^ 32 + lo)))

/-- A write that would take effect is refused: a low half that this master holds is discarded; a write of a low half is
held, judged by no rule (spec/00, R7). -/
def State.splitRefuse (s : State) (m : Master) (a : Nat) (acc : Access) (v : BitVec 64) (refuse : State → State) : State :=
  match acc with
  | .lo32 => (s.splitWrite m a acc 0 v).1
  | _ => refuse { s with writeShadow := tset none s.writeShadow (shadowKey m a) none }

end Sys2Proof.Machine
end

