-- ==== Sys2Proof/Machine/Items.lean ====
section
/-!
DEFINITION. Items and handles: the item word (spec/01, R20), the ISTAT codes (spec/00, R13), how an item and a handle
end (R47, R49), and how a handle is refused.
-/

namespace Sys2Proof.Machine

/-! The ISTAT codes (spec/00, R13). -/
def istatOk : Nat := 0
def istatPending : Nat := 1
def istatDeferred : Nat := 2
def istatPolicy : Nat := 3
def istatConflict : Nat := 4
def istatAbortedReset : Nat := 5
def istatAbortedFault : Nat := 6
def istatExpired : Nat := 7
def istatLate : Nat := 8
def istatSuperseded : Nat := 9

/-- PENDING and DEFERRED are the only codes an item leaves (spec/00, R15). -/
def istatOpen (c : Nat) : Bool := c == istatPending || c == istatDeferred

/-! The handle states (spec/01, R26). -/
def txFree : Nat := 0
def txStaging : Nat := 1
def txValidating : Nat := 2
def txWaitNotice : Nat := 3
def txArmed : Nat := 4
def txApplied : Nat := 5
def txDone : Nat := 6
def txRefused : Nat := 7

/-- An item's four fields (spec/01, R20). -/
structure Item where
  block : Nat
  chan : Nat
  act : Nat
  value : Nat
  deriving DecidableEq, Repr

/-- The fields of an item word. -/
def itemOf (w : Nat) : Item := ⟨w / 2 ^ 56 % 256, w / 2 ^ 48 % 256, w / 2 ^ 44 % 16, w % 2 ^ 44⟩

/-- Item `i` of handle `h`. -/
def State.item (s : State) (h i : Nat) : Item := itemOf (s.fld (TXN_ITEM_ITEM h i))

/-- The number of items in use. -/
def State.itemCount (s : State) (h : Nat) : Nat := s.fld (TXN_CTL_COUNT h)

/-- The indices of the items in use. -/
def State.itemIdx (s : State) (h : Nat) : List Nat := List.range (s.itemCount h)

/-- The state code of a handle. -/
def State.txState (s : State) (h : Nat) : Nat := s.fld (TXN_STAT_STATE h)

/-- The ISTAT field of item `i` of handle `h`. -/
def istatFld (h i : Nat) : Fld := TXN_ISTAT_ITEM h (i / 16) (i % 16)

def State.istat (s : State) (h i : Nat) : Nat := s.fld (istatFld h i)

/-- All 32 handles. -/
def allHandles : List Nat := List.range 32

/-- The channel of the spare when the channel is substituted, else the channel (spec/03, R114). -/
def State.hswActual (s : State) (n : Nat) : Nat :=
  if s.flag (HSW_DSTAT_SUBST n) then s.fld (HSW_DCFG_SPARE n) else n

/-- The high-side channel that governs a channel: the lead of its pair, or itself (spec/02, R63). -/
def State.hswLead (s : State) (n : Nat) : Nat :=
  if n % 2 == 1 && s.flag (HSW_CFG_PAR (n - 1)) then n - 1 else n

/-- The channel leads a pair: only an even channel's PAR joins one (spec/02, R63). -/
def State.hswPaired (s : State) (n : Nat) : Bool := n % 2 == 0 && s.flag (HSW_CFG_PAR n)

/-- Return a handle to FREE (spec/01, R25). R21 and R25 do not say what the other registers of a freed handle hold: the
model keeps TXN_CTLh but its OWNER, TXN_TIMEh, TXN_STATh but its STATE, TXN_CAUSEh, TXN_ISTATh_k and the slots until
they are written (DESIGN CHOICE, log entry 83). -/
def State.freeHandle (s : State) (h : Nat) : State :=
  ((s.put (TXN_STAT_STATE h) txFree).put (TXN_CTL_OWNER h) 0).setHnd h {}

/-- A handle enters DONE or REFUSED: its bit in TXN_IRQ is set, unless its owner was reset, when it is freed
(spec/01, R25, R27). -/
def State.enterEnd (s : State) (h st : Nat) : State :=
  if (s.hnd h).freeAtEnd then s.freeHandle h
  else ((s.put (TXN_STAT_STATE h) st).raiseBit (TXN_IRQ_DONE.bit h)).setHnd h {}

/-- DONE once every item of an applied handle has a final code; RESULT is the code of the lowest item that is not OK
(spec/01, R49). -/
def State.settle (s : State) (h : Nat) : State :=
  if s.txState h == txApplied && (s.itemIdx h).all (fun i => !istatOpen (s.istat h i)) then
    let r := ((s.itemIdx h).find? (fun i => s.istat h i != istatOk)).map (s.istat h)
    (s.put (TXN_STAT_RESULT h) (r.getD istatOk)).enterEnd h txDone
  else s

/-- An item that is PENDING or DEFERRED ends with a code; a final code does not change (spec/00, R15). -/
def State.endItem (s : State) (h i code : Nat) : State :=
  if istatOpen (s.istat h i) then
    let s := s.put (istatFld h i) code
    (s.setHnd h { s.hnd h with window := (s.hnd h).window.filter (· != i) }).settle h
  else s

/-- The items, with their handles, that are inside their 100 µs window and meet a condition (spec/01, R47). -/
def State.windowItems (s : State) (p : Item → Bool) : List (Nat × Nat) :=
  allHandles.flatMap fun h =>
    if s.txState h == txApplied then ((s.hnd h).window.filter (fun i => p (s.item h i))).map (fun i => (h, i)) else []

/-- A protection trip or fault reaction acts on the channel of items in their window: they end ABORTED_FAULT
(spec/01, R47). -/
def State.hitItems (s : State) (p : Item → Bool) : State :=
  s.each (s.windowItems p) fun hi t => t.endItem hi.1 hi.2 istatAbortedFault

/-- Items of a high-side channel, by the channel they act on (spec/02, R63; spec/03, R114). -/
def State.hitHsw (s : State) (n : Nat) : State :=
  s.hitItems fun it => it.block == 1 && s.hswLead (s.hswActual it.chan) == n

/-- Chain shifts and armed frames of a handle stop unlatched (spec/01, R51; spec/05, R161). -/
def State.dropFrames (s : State) (h : Nat) : State :=
  s.each [0, 1] fun k t =>
    match (t.chain k).armed with
    | some (h', _) =>
      if h' == h then (t.put (LED_SC_STAT_STATE k) 0).setChain k { t.chain k with armed := none } else t
    | none => t

/-- The number of ones among bits 0–63 of a value. -/
def popcount (v : Nat) : Nat := ((List.range 64).filter (fun i => v.testBit i)).length

/-- The lowest set bit among bits 0–63, 0 when there is none. -/
def lowestBit (v : Nat) : Nat := ((List.range 64).find? (fun i => v.testBit i)).getD 0

/-- A handle enters REFUSED with the codes its items hold: FIRST and NFAIL follow TXN_CAUSEh, RESULT is the code of
the lowest item with its cause bit set, or `common` when none is (spec/01, R49). -/
def State.refuse (s : State) (h common : Nat) : State :=
  let c := s.fld (TXN_CAUSE_CAUSE h)
  let s := s.dropFrames h
  let s := s.put (TXN_STAT_NFAIL h) (popcount c)
  let s := s.put (TXN_STAT_FIRST h) (lowestBit c)
  let s := s.put (TXN_STAT_RESULT h) (if c == 0 then common else s.istat h (lowestBit c))
  s.enterEnd h txRefused

/-- Refuse a handle with one code for every item, with or without the cause bits. -/
def State.refuseAll (s : State) (h code : Nat) (cause : Bool) : State :=
  let s := s.each (s.itemIdx h) fun i t =>
    let t := t.put (istatFld h i) code
    if cause then t.raiseBit ((TXN_CAUSE_CAUSE h).bit i) else t
  s.refuse h code

/-- Every handle of a list refused with one code and no cause bits, and the claim set emptied of them (spec/01, R49,
R52, R53). -/
def State.refuseHandles (s : State) (hs : List Nat) (code : Nat) : State :=
  let s := s.each hs fun h t => t.refuseAll h code false
  { s with txn := { s.txn with claimSet := s.txn.claimSet.filter (fun h => !hs.contains h) } }

/-- The handles of the closed claim set a handle belongs to, or the handle alone (spec/01, R53). -/
def State.claimMates (s : State) (h : Nat) : List Nat :=
  match (s.hnd h).claim with
  | some c => allHandles.filter fun g => (s.hnd g).claim == some c
  | none => [h]

/-- The handles in WAIT_NOTICE, VALIDATING or ARMED. R52 names WAIT_NOTICE and ARMED only, and does not say what a reaction
does to a handle in VALIDATING: the model refuses it alike (DESIGN CHOICE, log entry 83). -/
def State.waitingHandles (s : State) : List Nat :=
  allHandles.filter fun h => s.txState h == txWaitNotice || s.txState h == txArmed || s.txState h == txValidating

end Sys2Proof.Machine
end

