-- ==== Sys2Proof/Machine/Slots.lean ====
section
/-!
DEFINITION. Self-test slots: the eight HSW, four VLV, four LED and two DOUT slots share one layout (spec/03, R99–R101;
spec/04, R135; spec/05, R151; spec/06, R187).
-/

namespace Sys2Proof.Machine

/-- The address of a slot register. -/
def tslot (b : OutBlock) (k : Nat) : Nat :=
  match b with
  | .hsw => HSW_TSLOT k
  | .vlv => VLV_TSLOT k
  | .led => LED_TSLOT k
  | .dout => DOUT_TSLOT k

def tslotOwner (b : OutBlock) (k : Nat) : Fld := ⟨tslot b k, 60, 3⟩
def tslotResult (b : OutBlock) (k : Nat) : Fld := ⟨tslot b k, 20, 4⟩
def tslotIstat (b : OutBlock) (k : Nat) : Fld := ⟨tslot b k, 16, 4⟩
def tslotTest (b : OutBlock) (k : Nat) : Fld := ⟨tslot b k, 8, 3⟩
/-- CHAN is as wide as the block has channels; the bits above are reserved (spec/04, VLV_TSLOTk; spec/06, DOUT_TSLOTk). -/
def tslotChan (b : OutBlock) (k : Nat) : Fld :=
  ⟨tslot b k, 0, match b with | .hsw => 6 | .vlv => 5 | .led => 6 | .dout => 4⟩

/-- How many slots a block has. -/
def tslotCount : OutBlock → Nat
  | .hsw => 8 | .vlv => 4 | .led => 4 | .dout => 2

/-- All slots of the four blocks. -/
def allSlots : List TestRun :=
  [OutBlock.hsw, .vlv, .led, .dout].flatMap fun b => (List.range (tslotCount b)).map fun k => ⟨b, k⟩

/-- A running test is one of a channel. -/
def State.testOn (s : State) (b : OutBlock) (c : Nat) (t : TestRun) : Bool :=
  t.block == b && s.fld (tslotChan b t.slot) == c

/-- The running tests that meet a condition leave their pulse with an ISTAT. -/
def State.stopTests (s : State) (p : TestRun → Bool) (code : Nat) : State :=
  let ts := s.pdi.tests.filter p
  let s := s.each ts fun t x => x.put (tslotIstat t.block t.slot) code
  { s with pdi := { s.pdi with tests := s.pdi.tests.filter (fun t => !ts.contains t) } }

/-- A change of the channel's output ends its test pulse and the request returns to DEFERRED (spec/03, R101). -/
def State.endPulse (s : State) (b : OutBlock) (c : Nat) : State := s.stopTests (s.testOn b c) istatDeferred

/-- A trip during a test pulse ends the request ABORTED_FAULT (spec/03, R101). -/
def State.tripPulse (s : State) (b : OutBlock) (c : Nat) : State := s.stopTests (s.testOn b c) istatAbortedFault

/-- The key of an output of a block. -/
def outKey (b : OutBlock) (c : Nat) : Nat :=
  256 * (match b with | .hsw => 1 | .vlv => 2 | .led => 3 | .dout => 4) + c

/-- An output goes off (spec/03, R100). -/
def State.markOff (s : State) (b : OutBlock) (c : Nat) : State :=
  { s with pdi := { s.pdi with offAt := tset none s.pdi.offAt (outKey b c) (some s.now) } }

/-- An output that is off has been off for 50 µs, 6,250 CK_PER cycles; one that never went off has (spec/03, R100). -/
def State.offLong (s : State) (b : OutBlock) (c : Nat) : Bool :=
  match tget none s.pdi.offAt (outKey b c) with
  | none => true
  | some t => decide (t + 6250 ≤ s.now)

/-- Every request that is PENDING or DEFERRED ends with a code (spec/03, R101, R115). -/
def State.endRequests (s : State) (code : Nat) : State :=
  let s := s.each allSlots fun t x =>
    if istatOpen (x.fld (tslotIstat t.block t.slot)) then x.put (tslotIstat t.block t.slot) code else x
  { s with pdi := { s.pdi with tests := [] } }

end Sys2Proof.Machine
end

