-- ==== Sys2Proof/Machine/MbxOps.lean ====
section
/-!
DEFINITION. The mailboxes and locks (spec/12): posts, reads, acknowledgements, doorbells, acknowledgement waits,
endpoint resets and locks. A side of a mailbox is 0 for endpoint A and 1 for endpoint B.
-/

namespace Sys2Proof.Machine

def State.side (s : State) (m k : Nat) : MboxSide := tget {} s.mbx.side (2 * m + k)
def State.setSide (s : State) (m k : Nat) (x : MboxSide) : State :=
  { s with mbx := { s.mbx with side := tset {} s.mbx.side (2 * m + k) x } }

def State.lk (s : State) (k : Nat) : Lock := tget {} s.mbx.lock k
def State.setLk (s : State) (k : Nat) (x : Lock) : State :=
  { s with mbx := { s.mbx with lock := tset {} s.mbx.lock k x } }

def State.core (s : State) (e : Nat) : Core := tget {} s.cpu.core e
def State.setCore (s : State) (e : Nat) (x : Core) : State :=
  { s with cpu := { s.cpu with core := tset {} s.cpu.core e x } }

/-- The endpoint of a side (spec/12, R307). -/
def State.mbxEp (s : State) (m k : Nat) : Nat := if k == 0 then s.fld (MBX_CFG_EPA m) else s.fld (MBX_CFG_EPB m)

/-- A mailbox with an endpoint field 0, or with both equal, is unused (spec/12, R307). -/
def State.mbxUsed (s : State) (m : Nat) : Bool :=
  s.mbxEp m 0 != 0 && s.mbxEp m 1 != 0 && s.mbxEp m 0 != s.mbxEp m 1

/-- The side of an endpoint on a mailbox (spec/12, R309). -/
def State.mbxSide? (s : State) (m e : Nat) : Option Nat :=
  if !s.mbxUsed m then none else if s.mbxEp m 0 == e then some 0 else if s.mbxEp m 1 == e then some 1 else none

/-- An access is refused (spec/12, R309, R313, R322). -/
def State.mbxViol (s : State) (e : Nat) : State := (s.raiseBit MBX_IRQ_ACCESS_VIOL).put MBX_IRQ_VIOL_EP e

/-- All mailboxes and their sides. -/
def allSides : List (Nat × Nat) := (List.range 16).flatMap fun m => [(m, 0), (m, 1)]

/-! Waits (spec/11, R294; spec/12, R317–R319). -/

/-- A waiting core's WACK ends with a result in its destination register. -/
def State.wackEnd (s : State) (e m k result : Nat) : State :=
  let s := s.setSide m k { s.side m k with wait := none }
  let c := s.core e
  match c.wait with
  | some (.wack d _ _) => s.setCore e ((({ c with wait := none } : Core).writeD d (BitVec.ofNat 64 result)).advance 4)
  | _ => s

/-- A word posted by side `k` gets its final code: the tag's status, DONE, a WACK that waits for it, and the reads it
holds under R319 (spec/12, R313, R316, R319, R320). -/
def State.mbxFinal (s : State) (m k tag code : Nat) : State :=
  let sd := s.side m k
  let s := s.setSide m k { sd with txst := tset 0 sd.txst tag code, done := true }
  let s := if sd.wait == some tag then s.wackEnd (s.mbxEp m k) m k code else s
  s.each allSides fun x t =>
    t.when ((t.side x.1 x.2).holdRx == some (m, tag) && t.mbxEp x.1 x.2 == t.mbxEp m k) fun u =>
      u.setSide x.1 x.2 { u.side x.1 x.2 with holdRx := none }

/-- The mutual wait of side `k` of mailbox `m`, if there is one: the mailbox and side where its peer waits (spec/12,
R318). -/
def State.mutual (s : State) (m k : Nat) : Option (Nat × Nat) :=
  let x := s.mbxEp m k
  let y := s.mbxEp m (1 - k)
  allSides.find? fun p =>
    (s.side p.1 p.2).wait.isSome && s.mbxUsed p.1 && s.mbxEp p.1 p.2 == y && s.mbxEp p.1 (1 - p.2) == x

/-- A mutual wait releases both with CROSSED, and the lower endpoint's reads are held on the mailbox where the higher
one waited until its awaited word is final (spec/12, R318, R319). -/
def State.crossed (s : State) (m k : Nat) : State :=
  match s.mutual m k with
  | none => s
  | some (pm, pk) =>
    let x := s.mbxEp m k
    let y := s.mbxEp m (1 - k)
    let (lm, lk, hm, hk) := if x < y then (m, k, pm, pk) else (pm, pk, m, k)
    let tag := ((s.side lm lk).wait).getD 0
    let s := s.wackEnd x m k 0x11
    let s := s.wackEnd y pm pk 0x11
    s.setSide hm (1 - hk) { s.side hm (1 - hk) with holdRx := some (lm, tag) }

/-! Words. -/

/-- A post of side `k`: its ISTAT (spec/12, R311). -/
def State.mbxPost (s : State) (m k : Nat) (w : BitVec 64) : State × Nat :=
  let sd := s.side m k
  if 8 ≤ sd.queue.length then (s.setSide m k { sd with lastPost := istatConflict }, istatConflict)
  else
    (s.setSide m k { sd with
      queue := sd.queue ++ [⟨w, sd.nextTag, false⟩], nextTag := (sd.nextTag + 1) % 16, lastPost := istatPending,
      txst := tset 0 sd.txst sd.nextTag istatPending }, istatPending)

/-- Mark the first unread word read. -/
def markRead : List MboxWord → List MboxWord
  | [] => []
  | w :: r => if w.read then w :: markRead r else { w with read := true } :: r

/-- A word toward side `k` is unread and the side is not held (spec/12, R316, R319). -/
def State.mbxRx (s : State) (m k : Nat) : Bool :=
  (s.side m k).holdRx.isNone && (s.side m (1 - k)).queue.any (fun w => !w.read)

/-- A read of RXQ by side `k`: the word, 0 when there is none (spec/12, R312, R319). -/
def State.mbxPop (s : State) (m k : Nat) : State × BitVec 64 :=
  if !s.mbxRx m k then (s, 0)
  else
    let p := s.side m (1 - k)
    match p.queue.find? (fun w => !w.read) with
    | none => (s, 0)
    | some w => (s.setSide m (1 - k) { p with queue := markRead p.queue }, w.word)

/-- ACK by side `k`: the oldest read word toward it becomes OK and leaves (spec/12, R313). Answers whether there was
one. -/
def State.mbxAckWord (s : State) (m k : Nat) : State × Bool :=
  let p := s.side m (1 - k)
  match p.queue with
  | w :: r => if w.read then ((s.setSide m (1 - k) { p with queue := r }).mbxFinal m (1 - k) w.tag istatOk, true) else (s, false)
  | [] => (s, false)

/-! Registers. -/

/-- MBXm_DB of side `k` (spec/12, R316). -/
def State.mbxDb (s : State) (m k : Nat) : Nat :=
  let sd := s.side m k
  sd.en * 256 + (if sd.bell then 4 else 0) + (if sd.done then 2 else 0) + (if s.mbxRx m k then 1 else 0)

/-- MBXm_TXST of side `k`. -/
def State.mbxTxst (s : State) (m k : Nat) : Nat :=
  (List.range 16).foldl (fun n j => n + tget 0 (s.side m k).txst j * 16 ^ j) 0

/-- MBXm_STAT. -/
def State.mbxStat (s : State) (m : Nat) : Nat :=
  let a := s.side m 0
  let b := s.side m 1
  let unread := fun x : MboxSide => (x.queue.filter fun w => !w.read).length
  let b2 := fun x : Bool => if x then 1 else 0
  b.nextTag * 2 ^ 60 + b.lastPost * 2 ^ 56 + a.nextTag * 2 ^ 52 + a.lastPost * 2 ^ 48 +
    b2 b.holdRx.isSome * 2 ^ 33 + b2 a.holdRx.isSome * 2 ^ 32 + a.queue.length * 2 ^ 28 + unread a * 2 ^ 24 +
    b.queue.length * 2 ^ 20 + unread b * 2 ^ 16 + b2 b.wait.isSome * 2 + b2 a.wait.isSome

/-! Endpoint reset. -/

/-- A lock is released: readers that met it held get their flag (spec/12, R325). -/
def State.lockRelease (s : State) (k : Nat) : State :=
  let l := s.lk k
  let s := s.each l.seen fun e t =>
    { t with mbx := { t.mbx with rel := tset 0 t.mbx.rel e (tget 0 t.mbx.rel e ||| 2 ^ k) } }
  s.setLk k { l with owner := 0 }

/-- Every word toward side `k` ends ABORTED_RESET, in post order (spec/12, R320). -/
def State.mbxAbort (s : State) (m k : Nat) : State :=
  let p := s.side m (1 - k)
  let s := s.setSide m (1 - k) { p with queue := [] }
  s.each p.queue fun w t => t.mbxFinal m (1 - k) w.tag istatAbortedReset

/-- The reset of an endpoint (spec/12, R320). -/
def State.mbxReset (s : State) (e : Nat) : State :=
  let s := s.each allSides fun x t =>
    if t.mbxUsed x.1 && t.mbxEp x.1 x.2 == e then
      let t := t.mbxAbort x.1 x.2
      t.setSide x.1 x.2 { t.side x.1 x.2 with done := false, bell := false, en := 0, holdRx := none, wait := none }
    else t
  s.each (List.range 32) fun k t => t.when ((t.lk k).owner == e) fun u => u.lockRelease k

end Sys2Proof.Machine
end

