-- ==== Sys2Proof/Machine/MemOps.lean ====
section
/-!
DEFINITION. Memory (spec/13, R327–R332): bytes and little-endian words, the physical map, which master may read, write
or fetch what, and the line buffers of the NV store.
-/

namespace Sys2Proof.Machine

/-! Bytes. -/

/-- What a byte that nothing has written reads as: 0, but a blank boot record names no slot (spec/13, R362; log entry
4). -/
def memRest (a : Nat) : Byte := if a == 0x103F9000 then 0xFF else 0

/-- Memory's canonical form: addresses strictly rise and no entry equals what an unlisted byte reads as. -/
def Memory.wf (m : List Host.Cell) : Bool := twf memRest m

def State.byte (s : State) (a : Nat) : Byte := tget (memRest a) s.mem a
def State.setByte (s : State) (a : Nat) (v : Byte) : State := { s with mem := tset (memRest a) s.mem a v }

/-- The bytes from an address on. -/
def State.bytes (s : State) (a n : Nat) : List Byte := (List.range n).map fun i => s.byte (a + i)

/-- Bytes stored one after another. -/
def State.setBytes (s : State) (a : Nat) : List Byte → State
  | [] => s
  | b :: r => (s.setByte a b).setBytes (a + 1) r

/-- The value of bytes, the first least significant (spec/13, R336). -/
def leNat : List Byte → Nat
  | [] => 0
  | b :: r => b.toNat + 256 * leNat r

/-- The low `n` bytes of a value, least significant first. -/
def natLe : Nat → Nat → List Byte
  | 0, _ => []
  | n + 1, v => BitVec.ofNat 8 v :: natLe n (v / 256)

/-- The value of bytes, the first most significant. -/
def beNat (l : List Byte) : Nat := leNat l.reverse

/-- `n` bytes of a value, most significant first. -/
def natBe (n v : Nat) : List Byte := (natLe n v).reverse

def State.word (s : State) (a : Nat) : Nat := leNat (s.bytes a 8)
def State.setWord (s : State) (a v : Nat) : State := s.setBytes a (natLe 8 v)

/-- Field `lo`, `width` of a number. -/
def bitsOf (v lo width : Nat) : Nat := v / 2 ^ lo % 2 ^ width

/-! External flash (spec/13, R333): an erased byte reads 0xFF (log entry 26). -/

def State.flashByte (s : State) (a : Nat) : Byte := tget 0xFF s.flash a
def State.flashBytes (s : State) (a n : Nat) : List Byte := (List.range n).map fun i => s.flashByte (a + i)
def State.setFlash (s : State) (a : Nat) : List Byte → State
  | [] => s
  | b :: r => { s with flash := tset 0xFF s.flash a b }.setFlash (a + 1) r

/-! Regions and access rights (spec/13, R327, R329). -/

inductive Region where
  | sram | nv | rom | aon | periph | hole
  deriving DecidableEq, Repr

/-- The region an address lies in (spec/13, R327). -/
def region (a : Nat) : Region :=
  if a < 0x1000000 then .sram
  else if 0x10000000 ≤ a && a < 0x10400000 then .nv
  else if 0x20000000 ≤ a && a < 0x20040000 then .rom
  else if 0x30000000 ≤ a && a < 0x30020000 then .aon
  else if 0x40000000 ≤ a && a < 0x40160000 then .periph
  else .hole

inductive AccKind where
  | read | write | fetch
  deriving DecidableEq, Repr

/-- `a` lies in `size` units of `2 ^ sh` bytes from `base`. -/
def within (a base size sh : Nat) : Bool := decide (base ≤ a) && decide (a < base + size * 2 ^ sh)

/-- The SRAM partition an address lies in (spec/13, R341). -/
def State.partOf (s : State) (a : Nat) : Option Nat :=
  (List.range 32).find? fun k => s.flag (BSQ_PART_V k) && within a (s.fld (BSQ_PART_BASE k)) (s.fld (BSQ_PART_SIZE k)) 16

/-- The NV partition an address lies in (spec/13, R342). -/
def State.nvPartOf (s : State) (a : Nat) : Option Nat :=
  (List.range 16).find? fun k =>
    s.flag (BSQ_NVPART_V k) && within a (s.fld (BSQ_NVPART_BASE k)) (s.fld (BSQ_NVPART_SIZE k)) 12

/-- The CAN channel whose message RAM an address lies in (spec/13, R343). -/
def State.msgRamOf (s : State) (a : Nat) : Option Nat :=
  (List.range 8).find? fun n => within a (s.fld (CAN_MRAM_BASE n)) (s.fld (CAN_MRAM_SIZE n)) 10

/-- The base of a half of the image region, and the half an address lies in (spec/13, R352). -/
def State.halfBase (s : State) (h : Nat) : Nat := s.fld BSQ_IMGBASE_BASE + h * s.fld BSQ_IMGBASE_HALFSZ * 65536
def State.halfOf (s : State) (a : Nat) : Option Nat :=
  [0, 1].find? fun h => within a (s.halfBase h) (s.fld BSQ_IMGBASE_HALFSZ) 16

/-- The owner of a CAN channel (spec/08, CANn_CTL). -/
def State.canOwner (s : State) (n : Nat) : Nat := s.fld (CAN_CTL_OWNER n)

/-- The endpoint is a participant of a hand-over in NEW or after its abandonment: its routine lies in the inactive half (spec/16,
R430, R431; DEDUCED, log entry 106). -/
def State.runsRoutine (s : State) (m : Master) : Bool :=
  (s.fld BSQ_HOSTAT_PHASE == 3 || s.fld BSQ_HOSTAT_PHASE == 5) && (s.fld BSQ_HOSTAT_PART).testBit m.num

/-- An access to SRAM (spec/13, R329). -/
def State.sramAllowed (s : State) (m : Master) (a : Nat) (k : AccKind) : Bool :=
  match s.halfOf a with
  | some h => if h == s.fld BSQ_STAT_IHALF then k != .write
    else (m == .zs && k != .fetch) || (s.runsRoutine m && k != .write)
  | none =>
    match s.msgRamOf a with
    | some n => k == .read || (k == .write && ownerOk (s.canOwner n) m)
    | none =>
      match s.partOf a with
      | some p =>
        let o := s.fld (BSQ_PART_OWNER p)
        o == 0 || (if k == .write then m.num == o || m == .bsq else o != 5 || m == .zs)
      | none => false

/-- A memory access is allowed (spec/13, R329). -/
def State.memAllowed (s : State) (m : Master) (a : Nat) (k : AccKind) : Bool :=
  match region a with
  | .sram => s.sramAllowed m a k
  | .nv =>
    k != .fetch &&
    (if 0x103E0000 ≤ a then k == .read
     else match s.nvPartOf a with
       | some p => k == .read || m.num == s.fld (BSQ_NVPART_OWNER p)
       | none => false)
  | .rom => k != .write
  | .aon => m == .zk || (m == .bsq && k != .fetch)
  | _ => false

/-! The NV store (spec/13, R331). -/

def State.nvBuf (s : State) (e : Nat) : Option NvLine := tget none s.nv.buf e
def State.setNvBuf (s : State) (e : Nat) (x : Option NvLine) : State :=
  { s with nv := { s.nv with buf := tset none s.nv.buf e x } }

def State.nvBusy (s : State) (e : Nat) : Option NvLine := tget none s.nv.busy e
def State.setNvBusy (s : State) (e : Nat) (x : Option NvLine) : State :=
  { s with nv := { s.nv with busy := tset none s.nv.busy e x } }

/-- The words of a line buffer put into its line; the others keep their contents. -/
def State.nvCommit (s : State) (l : NvLine) : State :=
  s.each (List.range 8) fun i t =>
    match tget none l.word i with
    | some w => t.setWord (l.line + 8 * i) w.toNat
    | none => t

/-- A 64-bit store to the NV store (spec/13, R331): into the master's line buffer; a store to another line programs the
buffered one first, and the word at offset 0x38 programs its own. -/
def State.nvStore (s : State) (e a : Nat) (v : BitVec 64) : State :=
  let line := a / 64 * 64
  let (s, buf) := match s.nvBuf e with
    | none => (s, ({ line := line } : NvLine))
    | some b => if b.line == line then (s, b) else (s.setNvBusy e (some b), { line := line })
  let buf := { buf with word := tset none buf.word (a % 64 / 8) (some v) }
  if a % 64 == 0x38 then
    let s := match s.nvBusy e with
      | some b => s.nvCommit b
      | none => s
    (s.setNvBuf e none).setNvBusy e (some buf)
  else s.setNvBuf e (some buf)

/-! The boot record (spec/13, R362). -/

/-- ACTSLOT, none when it names no slot. -/
def State.actSlot (s : State) : Option Nat :=
  let b := (s.byte 0x103F9000).toNat
  if b ≤ 1 then some b else none

/-- Completed bootstraps. -/
def State.completed (s : State) : Nat := s.word 0x103F9008

/-- A write by hardware reaches the NV store. -/
def State.nvPut (s : State) (x : NvHeld) : State :=
  match x with
  | .bytes a l => s.setBytes a l
  | .lockOut x => { s with acc := { s.acc with nvLockOut := x } }

/-- A write by hardware to the NV store: it waits while the domain is off, which it powers up (spec/14, R368). -/
def State.nvSend (s : State) (x : NvHeld) : State :=
  if s.nvReady then s.nvPut x else { s with nv := { s.nv with held := s.nv.held ++ [x] } }

/-- A record written by hardware to the NV store (spec/13, R332). -/
def State.nvWrite (s : State) (a : Nat) (l : List Byte) : State := s.nvSend (.bytes a l)

/-- What the ECC finds of words that no command names: a free value (spec/13, R330; log entry 105). -/
def State.drawEcc (s : State) : State × MemErr :=
  let d := s.draw
  (d.2, if d.1.toNat % 3 == 0 then .good else if d.1.toNat % 3 == 1 then .single else .double)

/-- What the ECC finds of SRAM words that a block master reads (spec/13, R330). -/
def State.dmaEcc (s : State) (e : MemErr) : State :=
  match e with
  | .good => s
  | .single => s.raiseL 260
  | .double => s.raiseL 261

/-- A reader that no command gives an ECC outcome reads SRAM: whether the words can be read (spec/13, R330; log entry 105). -/
def State.sramRead (s : State) : State × Bool :=
  let e := s.drawEcc
  (e.1.dmaEcc e.2, e.2 != .double)

end Sys2Proof.Machine
end

