-- ==== Sys2Proof/Machine/AesOps.lean ====
section
/-!
DEFINITION. AES-128, AES-CMAC over a key's answer (spec/10, R270, R271) and the key unwrap of RFC 3394 (spec/16, R418). The
manual names them by name alone; their definition is the published one (log entry 92). A block is 16 bytes in the
form of gfOf, the first byte first.
-/

namespace Sys2Proof.Machine

/-! The field of 256 elements, modulo x⁸ + x⁴ + x³ + x + 1. Bit i of a byte stands here at bit 4 × i of a number, so that the
product of two numbers is the product of the polynomials: a digit sums at most 8 ones and never carries, and its lowest bit
is the coefficient. -/

/-- A byte with its bits 4 apart, and back. -/
def gfOf (b : Nat) : Nat := (List.range 8).foldl (fun r i => r + b / 2 ^ i % 2 * 16 ^ i) 0
def gfByte (a : Nat) : Nat := (List.range 8).foldl (fun r i => r + a / 16 ^ i % 2 * 2 ^ i) 0

/-- The lowest bits of 15 digits. -/
def gfMask : Nat := 0x111111111111111

/-- The digits from x⁸ on replaced by what they are modulo the polynomial. -/
def gfFold (v : Nat) : Nat := (v % 2 ^ 32) ^^^ (v / 2 ^ 32 * 0x11011 &&& gfMask)

def gfMul (a b : Nat) : Nat := gfFold (gfFold (a * b &&& gfMask))
def gfDouble (a : Nat) : Nat := gfFold (16 * a)

/-- The inverse, which is the 254th power; 0 for 0. -/
def gfInv (a : Nat) : Nat :=
  let b := gfMul a a
  let c := gfMul b a
  let d := gfMul (gfMul c c) a
  let e := gfMul (gfMul d d) a
  let f := gfMul (gfMul e e) a
  let g := gfMul (gfMul f f) a
  let h := gfMul (gfMul g g) a
  gfMul h h

/-- The bits turned by `n` places. -/
def gfTurn (x n : Nat) : Nat := x * 16 ^ n % 2 ^ 32 + x * 16 ^ n / 2 ^ 32

/-- The byte substitution: the inverse and its affine map. -/
def aesSub (a : Nat) : Nat :=
  let x := gfInv a
  x ^^^ gfTurn x 1 ^^^ gfTurn x 2 ^^^ gfTurn x 3 ^^^ gfTurn x 4 ^^^ gfOf 0x63

/-- Bytes as the numbers of a block, and back. -/
def toBlock (l : List Byte) : List Nat := l.map fun b => gfOf b.toNat
def ofBlock (l : List Nat) : List Byte := l.map fun a => BitVec.ofNat 8 (gfByte a)

/-! The cipher. -/

def xorBytes (a b : List Nat) : List Nat := List.zipWith (· ^^^ ·) a b

/-- The round key after `k`: column 0 takes the substituted last column and the round constant `rc`, and each later
column adds the one before it. -/
def aesNextKey (rc : Nat) (k : List Nat) : List Nat :=
  (List.range 16).map fun i =>
    let t := aesSub (k.getD (12 + (i + 1) % 4) 0) ^^^ (if i % 4 == 0 then rc else 0)
    (List.range (i / 4 + 1)).foldl (fun v j => v ^^^ k.getD (i % 4 + 4 * j) 0) t

/-- Substitution, then the row shift: byte i comes from byte 5 × i modulo 16. -/
def aesShift (x : List Nat) : List Nat := (List.range 16).map fun i => aesSub (x.getD (5 * i % 16) 0)

/-- The mix of each column. -/
def aesMix (x : List Nat) : List Nat :=
  (List.range 16).map fun i =>
    let at_ := fun j => x.getD (4 * (i / 4) + (i + j) % 4) 0
    gfDouble (at_ 0 ^^^ at_ 1) ^^^ at_ 1 ^^^ at_ 2 ^^^ at_ 3

/-- `n` rounds with a mix, then the last one without. -/
def aesRounds : Nat → Nat → List Nat → List Nat → List Nat
  | 0, rc, k, x => xorBytes (aesShift x) (aesNextKey rc k)
  | n + 1, rc, k, x =>
    let k := aesNextKey rc k
    aesRounds n (gfDouble rc) k (xorBytes (aesMix (aesShift x)) k)

/-- AES-128 of one block. -/
def aes128 (key block : List Nat) : List Nat := aesRounds 9 1 key (xorBytes block key)

/-! The inverse cipher, and the key unwrap (spec/16, R418). -/

def aesUnsub (b : Nat) : Nat := gfInv (gfTurn b 1 ^^^ gfTurn b 3 ^^^ gfTurn b 6 ^^^ gfOf 0x05)

def aesUnshift (x : List Nat) : List Nat := (List.range 16).map fun i => aesUnsub (x.getD (13 * i % 16) 0)

def aesUnmix (x : List Nat) : List Nat :=
  (List.range 16).map fun i =>
    let at_ := fun j => x.getD (4 * (i / 4) + (i + j) % 4) 0
    gfMul (at_ 0) (gfOf 14) ^^^ gfMul (at_ 1) (gfOf 11) ^^^ gfMul (at_ 2) (gfOf 13) ^^^ gfMul (at_ 3) (gfOf 9)

/-- `n` rounds undone with a mix, then the last one without; `keys` are the round keys, the latest first. -/
def aesUndo : List (List Nat) → List Nat → List Nat
  | [], x => x
  | [k], x => xorBytes (aesUnshift x) k
  | k :: rest, x => aesUndo rest (aesUnmix (xorBytes (aesUnshift x) k))

/-- The round keys up to number `n`, the latest first. -/
def aesKeys : Nat → Nat → List (List Nat) → List (List Nat)
  | 0, _, l => l
  | n + 1, rc, l => aesKeys n (gfDouble rc) (aesNextKey rc (l.headD []) :: l)

/-- The block whose AES-128 is the given one. -/
def aes128Inverse (key block : List Nat) : List Nat :=
  let ks := aesKeys 10 1 [key]
  aesUndo ks.tail (xorBytes block (ks.headD []))

/-- One step of the unwrap, number `t`: the register and the two 64-bit halves, of which it changes half 1 or 2. -/
def unwrapStep (key : List Nat) (x : List Nat × List Nat × List Nat) (t : Nat) : List Nat × List Nat × List Nat :=
  let a := x.1.take 7 ++ [x.1.getD 7 0 ^^^ gfOf t]
  let b := aes128Inverse key (a ++ if t % 2 == 0 then x.2.2 else x.2.1)
  if t % 2 == 0 then (b.take 8, x.2.1, b.drop 8) else (b.take 8, b.drop 8, x.2.2)

/-- The 128-bit key in 24 wrapped bytes, or none where the integrity check fails. -/
def keyUnwrap (key wrapped : List Byte) : Option (List Byte) :=
  let c := toBlock wrapped
  let r := (List.range 12).foldl (fun x i => unwrapStep (toBlock key) x (12 - i)) (c.take 8, (c.drop 8).take 8, c.drop 16)
  if r.1 == List.replicate 8 (gfOf 0xA6) then some (ofBlock (r.2.1 ++ r.2.2)) else none

/-! AES-CMAC. -/

/-- A block times x in the field of 2¹²⁸ elements. -/
def cmacDouble (v : Nat) : Nat := if v < 2 ^ 127 then 2 * v else (2 * v) ^^^ (2 ^ 128 + 0x87)

/-- The last block under its subkey: a whole one under the first, a short or empty one padded under the second. -/
def cmacLast (key l : List Nat) : List Nat :=
  let k1 := cmacDouble (beNat (ofBlock (aes128 key (List.replicate 16 0))))
  if l.length == 16 then xorBytes l (toBlock (natBe 16 k1))
  else xorBytes (l ++ gfOf 0x80 :: List.replicate (15 - l.length) 0) (toBlock (natBe 16 (cmacDouble k1)))

/-- The blocks one after another; `n` bounds their number. -/
def cmacBlocks (key : List Nat) : Nat → List Nat → List Nat → List Nat
  | 0, x, _ => x
  | n + 1, x, l =>
    if l.length ≤ 16 then aes128 key (xorBytes x (cmacLast key l))
    else cmacBlocks key n (aes128 key (xorBytes x (l.take 16))) (l.drop 16)

/-- AES-CMAC of bytes under a key, most significant byte first: 16 bytes. -/
def aesCmac (key : BitVec 128) (m : List Byte) : List Byte :=
  ofBlock (cmacBlocks (toBlock (natBe 16 key.toNat)) (m.length + 1) (List.replicate 16 0) (toBlock m))

end Sys2Proof.Machine
end

