-- ==== Sys2Proof/Machine/KeyOps.lean ====
section
/-!
DEFINITION. What the registers show of the ZS key store (spec/16, R417; SEC_STAT; spec/10, ACC_KEYk). The store survives
every reset, and so do these fields.
-/

namespace Sys2Proof.Machine

/-- State and key ID of an access slot: 0 EMPTY, 1 ENROLLED, 2 BLOCKED. -/
def KeyStore.slot (k : KeyStore) (j : Nat) : Nat × Nat × BitVec 128 := tget (0, 0, 0) k.access j

/-- State of an image key: 0 EMPTY, 1 VALID, 2 REVOKED. -/
def KeyStore.imageState (k : KeyStore) (j : Nat) : Nat := (tget (0, []) k.image j).1

/-- The bytes of an image key. -/
def KeyStore.imageKey (k : KeyStore) (j : Nat) : List Byte := (tget (0, []) k.image j).2

/-- SEC_STAT and the ACC_KEYk fields follow the key store. -/
def State.keysShow (s : State) : State :=
  let k := s.sec.keys
  let s := s.put SEC_STAT_ROLLCNT k.rollback
  let s := s.put SEC_STAT_AKEYS ((List.range 8).foldl (fun n j => n + (k.slot j).1 * 4 ^ j) 0)
  let s := s.put SEC_STAT_IKEYS ((List.range 4).foldl (fun n j => n + k.imageState j * 4 ^ j) 0)
  let s := (s.putB SEC_STAT_KSERR k.bad).putB SEC_STAT_OWNERLOCK k.ownerLock
  let s := s.putB SEC_STAT_LIFE k.field
  s.each (List.range 8) fun j t => (t.put (ACC_KEY_STATE j) (k.slot j).1).put (ACC_KEY_KEYID j) (k.slot j).2.1

/-- The key store changed. -/
def State.setKeys (s : State) (k : KeyStore) : State := { s with sec := { s.sec with keys := k } }.keysShow

end Sys2Proof.Machine
end

