-- ==== Sys2Proof/Machine/AccOps.lean ====
section
/-!
DEFINITION. Vehicle access (spec/10): polls and the LF telegram, ranging scripts, distances, the outcome of a poll, and
the lock-out.
-/

namespace Sys2Proof.Machine

/-! Poll states and result codes (spec/10, R265, ACC_RESULT). -/
def accIdle : Nat := 0
def accLf : Nat := 1
def accWakeWait : Nat := 2
def accRange : Nat := 3
def accAnswer : Nat := 4
def accEval : Nat := 5

def codeNone : Nat := 0
def codeAuth : Nat := 1
def codeRange : Nat := 2
def codeInvalid : Nat := 3
def codeAborted : Nat := 4
def codeLocked : Nat := 5
def codeRadioFault : Nat := 6

def State.setPoll (s : State) (p : Option Poll) : State := { s with acc := { s.acc with poll := p } }
def State.setPend (s : State) (p : Option Nat) : State :=
  { s with acc := { s.acc with pend := p } }.putB ACC_STAT_PEND p.isSome

/-- CK_SLOW cycles for lock-out timing (spec/10, R276). -/
def State.slowAge (s : State) : Int := (s.now - s.pmu.slowBase : Nat) * 512 / 1953125

/-! LF telegram (spec/10, R268). -/

/-- One bit into a CRC-8 with polynomial 0x2F. -/
def crc8Bit (crc : Nat) (bit : Bool) : Nat :=
  let top := crc.testBit 7 != bit
  let sh := crc * 2 % 256
  if top then sh ^^^ 0x2F else sh

/-- CRC-8 with polynomial 0x2F and initial value 0xFF over the low `n` bits of a value, the most significant first. -/
def crc8 (n v : Nat) : Nat := (List.range n).foldl (fun c i => crc8Bit c (v.testBit (n - 1 - i))) 0xFF

/-- The LF telegram of a poll. -/
def lfTelegram (vehid pollNo : Nat) : BitVec 64 :=
  BitVec.ofNat 64 (0x96 * 2 ^ 56 + vehid * 2 ^ 24 + pollNo * 2 ^ 8 + crc8 48 (vehid * 65536 + pollNo))

/-! Results. -/

/-- ACC_RESULT written with VALID, and DONE (spec/10, R274). -/
def State.accResult (s : State) (code handle slot ninv nver pollNo dist : Nat) : State :=
  let s := (s.put ACC_RESULT_VALID 1).put ACC_RESULT_CODE code
  let s := (s.put ACC_RESULT_HANDLE handle).put ACC_RESULT_SLOT slot
  let s := (s.put ACC_RESULT_NINV (min ninv 15)).put ACC_RESULT_NVER nver
  ((s.put ACC_RESULT_POLLNO pollNo).put ACC_RESULT_DIST dist).raiseBit ACC_IRQ_DONE

/-- The antennas a poll drives, each with its peak current in 0.1 A, at most 12: those of ANT whose LFI is not 0 (spec/10,
R264, R268, ACC_LFAk), none while the link is down (spec/17, R447). -/
def State.antennas (s : State) (ant : Nat) : List (Nat × Nat) :=
  ((List.range 6).filter fun k => ant.testBit k && s.fld (ACC_LFA_LFI k) != 0 && s.flag PDI_STAT_LINK_UP).map fun k =>
    (k, min 12 (s.fld (ACC_LFA_LFI k)))

/-- A poll of a handle starts (spec/10, R264–R268). With no antenna to send on, it ends RADIO_FAULT. -/
def State.pollStart (s : State) (h : Nat) : State :=
  let no := (s.acc.pollNo + 1) % 65536
  let s : State := { s with acc := { s.acc with pollNo := no } }
  let ants := s.antennas (s.fld (ACC_CH_ANT h))
  if ants.isEmpty then s.accResult codeRadioFault h 0 0 0 no 0xFFFF
  else
    let p : Poll :=
      { handle := h, ant := ants, radios := s.fld (ACC_CH_RADIOS h) &&& s.fld ACC_RGPCFG_PRESENT,
        dmax := s.fld (ACC_CH_DMAX h), keys := (List.range 8).map s.sec.keys.slot }
    ((s.setPoll (some p)).put ACC_STAT_STATE accLf).send (.lf ants (lfTelegram (s.fld ACC_VEHID_VEHID) no))

/-- ZS has not yet reported ready in the WAKE bootstrap that runs (spec/13, R355). -/
def State.zsAsleep (s : State) : Bool :=
  s.fld PMU_STAT_PHASE == 4 && s.bsq.running && s.fld BSQ_STAT_KIND == 1 && !s.bsq.zsReady

/-- A poll is requested: by a touch, or by software (spec/10, R264, R278; ACC_CFG.EN). In a WAKE bootstrap it waits for
ZS. -/
def State.pollRequest (s : State) (h : Nat) (software : Bool) : State :=
  if !s.flag ACC_CFG_EN || s.s4 || s.s3 then s
  else if s.acc.poll.isSome then s.setPend (some h)
  else if s.acc.lockOut.locked then
    if software then s.accResult codeLocked h 0 0 0 s.acc.pollNo 0xFFFF else s
  else if s.zsAsleep then { s with acc := { s.acc with wakePoll := some h } }
  else s.pollStart h

/-- The poll leaves the block and the pending request starts or is dropped (spec/10, R264). -/
def State.pollLeave (s : State) (code : Nat) : State :=
  let next := s.acc.pend
  let s := ((s.setPoll none).put ACC_STAT_STATE accIdle).setPend none
  match next with
  | none => s
  | some h => if code == codeAuth then s else if s.acc.lockOut.locked then s else s.pollStart h

/-- A running poll ends ABORTED and the pending slot is cleared (spec/10, R267). -/
def State.accAbort (s : State) : State :=
  match s.acc.poll with
  | some p =>
    let s := (s.setPend none).accResult codeAborted p.handle 0 0 0 s.acc.pollNo 0xFFFF
    (s.setPoll none).put ACC_STAT_STATE accIdle
  | none => s.setPend none

/-! Scripts (spec/10, R269). -/

/-- The fields of a script word: operation, radio, length, field and data. -/
def scrOp (w : Nat) : Nat := w / 2 ^ 60 % 16
def scrRadio (w : Nat) : Nat := w / 2 ^ 52 % 16
def scrLen (w : Nat) : Nat := w / 2 ^ 44 % 256
def scrFld (w : Nat) : Nat := w / 2 ^ 40 % 16
def scrData (w : Nat) : Nat := w % 2 ^ 40

/-- The words a script runs from its start, and whether it reaches an END within 256. The index wraps from 255 to 0 (log
entry 28). -/
def State.scriptRun (s : State) : Nat → Nat → List Nat × Bool
  | 0, _ => ([], false)
  | n + 1, i =>
    let w := s.fld (ACC_RGPSCR_WORD (i % 256))
    if scrOp w == 0 || 5 < scrOp w then ([], true)
    else
      let r := s.scriptRun n (i + 1)
      (w :: r.1, r.2)

/-- FINALT in units of 1/(128 × 499.2 MHz): 0.1 ms is 6,389,760 of them. -/
def State.finalTicks (s : State) : Nat := max 0x2B (s.fld ACC_CFG_FINALT) * 6389760

/-- What WRITEF writes, most significant byte first; another FLD writes nothing (log entry 93). -/
def State.scriptField (s : State) (p : Poll) (fld : Nat) : List Byte :=
  match fld with
  | 0 => natBe 4 (s.fld ACC_VEHID_VEHID)
  | 1 => natBe 2 s.acc.pollNo
  | 2 => natBe 8 p.nonce.toNat
  | 3 => natBe 5 s.finalTicks
  | _ => []

/-- One run of a script: what the radios still have to answer, the delay since the last transfer, the transfers made, the
time-stamps captured with their FLD, the Answer captured, a WAITIRQ timed out, and the free values used from a base on. -/
structure RgpRun where
  irqs : List (Option Nat)
  reads : List (List Byte)
  delay : Nat := 0
  out : List Sent := []
  stamps : List (Nat × PollStamp) := []
  answer : Option (List Byte) := none
  late : Bool := false
  base : Nat
  used : Nat := 0

/-- A transfer with a radio. -/
def RgpRun.transfer (x : RgpRun) (q : Nat) (bytes : List Byte) (reads : Nat) : RgpRun :=
  { x with out := x.out ++ [.rgp q x.delay bytes reads], delay := 0 }

/-- LEN literal bytes of DATA, most significant first; DATA holds 5, and bytes past them are free (log entry 93). -/
def RgpRun.literal (x : RgpRun) (q len data : Nat) : RgpRun :=
  let free := (List.range (len - 5)).map fun i => (Config.freeWord (x.base + x.used + i)).truncate 8
  { x with used := x.used + (len - 5) }.transfer q ((natBe 5 data).take len ++ free) 0

/-- A READ of LEN bytes into a capture: a time-stamp is 5 bytes, most significant first, and of any other number a free
value (log entry 93); the Answer is what of the received payload `air` the LEN bytes hold. -/
def RgpRun.capture (x : RgpRun) (q slot len fld : Nat) (air : List Byte) : RgpRun :=
  let got := x.reads.headD []
  let y := { x with reads := x.reads.tail }.transfer q [] len
  if fld == 0xB then { y with answer := some (air.take len) }
  else if 8 ≤ fld && fld ≤ 0xA then
    let whole := len == 5 && got.length == 5
    let v := if whole then beNat got else (Config.freeWord (y.base + y.used)).toNat % 2 ^ 40
    { y with stamps := (fld, ⟨q, slot, v⟩) :: y.stamps, used := if whole then y.used else y.used + 1 }
  else y

/-- WAITIRQ with a time-out in µs. -/
def RgpRun.wait (x : RgpRun) (limit : Nat) : RgpRun :=
  let met := match x.irqs.head? with
    | some (some t) => decide (t ≤ limit)
    | _ => false
  { x with irqs := x.irqs.tail, late := x.late || !met }

/-- One script word on the radio it names, or on the one being served; a radio that is not fitted is never selected. -/
def State.scriptWord (s : State) (p : Poll) (r slot : Nat) (air : List Byte) (x : RgpRun) (w : Nat) : RgpRun :=
  let q := if scrRadio w == 0xF then r else scrRadio w
  if scrOp w == 5 then { x with delay := x.delay + scrData w }
  else if 3 < q || !(s.fld ACC_RGPCFG_PRESENT).testBit q then x
  else
    match scrOp w with
    | 1 => x.literal q (scrLen w) (scrData w)
    | 2 => x.transfer q (s.scriptField p (scrFld w)) 0
    | 3 => x.capture q slot (scrLen w) (scrFld w) air
    | _ => x.wait (scrData w)

/-- The time-stamps captured by a run, in the poll. -/
def Poll.stamped (p : Poll) (l : List (Nat × PollStamp)) : Poll :=
  { p with t1 := (l.filter fun x => x.1 == 8).map (·.2) ++ p.t1, t4 := (l.filter fun x => x.1 == 9).map (·.2) ++ p.t4,
           t5 := (l.filter fun x => x.1 == 0xA).map (·.2) ++ p.t5 }

/-- A script runs for each radio of the poll; a WAITIRQ time-out or a missing END marks the radio's measurement missing. The
answer is what the last capture of the payload `air` took. -/
def State.runScripts (s : State) (p : Poll) (start slot : Nat) (air : List Byte) (runs : List RadioRun) :
    State × Poll × Option (List Byte) :=
  let rs := (List.range 4).filter fun r => p.radios.testBit r
  rs.foldl (fun acc r =>
    let (s, p, got) := acc
    let run := (runs.find? fun x => x.radio.val == r).getD ⟨0, [], []⟩
    let ws := s.scriptRun 256 start
    let x := ws.1.foldl (s.scriptWord p r slot air) { irqs := run.irqs, reads := run.reads, base := s.freeCtr }
    let s := (s.drawn x.used).sendAll x.out
    let s := s.when (!ws.2) fun t => (t.raiseBit ACC_IRQ_RADIO).raiseL 231
    let p := p.stamped x.stamps
    let p := if ws.2 && !x.late then p else { p with missing := r :: p.missing }
    (s, p, x.answer.or got)) (s, p, none)

/-! Distances (spec/10, R270, R272). -/

/-- A difference of time-stamps modulo 2⁴⁰. -/
def tsDiff (a b : Nat) : Nat := (a + 2 ^ 40 - b) % 2 ^ 40

/-- A rational rounded to the nearest integer; a tie goes as the free value says (log entry 27). -/
def nearest (x : Rat) : Int :=
  let f := x.floor
  let r := x - (f : Rat)
  if r < 1 / 2 then f else if 1 / 2 < r then f + 1 else if Config.roundUp x then f + 1 else f

/-- The distance in cm from the four times in units of 1/(128 × 499.2 MHz). -/
def rangeCm (tround1 treply1 tround2 treply2 : Nat) : Int :=
  let den := tround1 + tround2 + treply1 + treply2
  let tof : Rat := if den = 0 then Config.tofZero
    else ((tround1 * tround2 : Nat) : Rat) / (den : Rat) - ((treply1 * treply2 : Nat) : Rat) / (den : Rat)
  nearest (tof * 29979245800 / 63897600000)

/-- The payload fields of an answer, most significant byte first (spec/10, R270; log entry 93). -/
def answerKeyId (a : List Byte) : Nat := beNat (a.take 4)
def answerSlot (a : List Byte) : Nat := ((a.drop 4).headD 0).toNat
def answerTime (a : List Byte) (at_ : Nat) : Nat := beNat ((a.drop at_).take 5)
def answerCmac (a : List Byte) : List Byte := (a.drop 15).take 16

/-- The bytes that an answer's CMAC covers: VEHID, POLLNO, NONCE, byte 4 and bytes 5–14 (spec/10, R270). -/
def answerCovered (vehid pollNo : Nat) (nonce : BitVec 64) (a : List Byte) : List Byte :=
  natBe 4 vehid ++ natBe 2 pollNo ++ natBe 8 nonce.toNat ++ (a.drop 4).take 11

/-- The smallest distance over the radios that have T1, T4 and T5 for the answer's slot (spec/10, R272). -/
def Poll.distance (p : Poll) (a : List Byte) : Option Int :=
  let k := answerSlot a
  let ds := (List.range 4).filterMap fun r =>
    if p.missing.contains r then none
    else
      match p.t1.find? (fun t => t.radio == r), p.t4.find? (fun t => t.radio == r && t.slot == k),
          p.t5.find? (fun t => t.radio == r) with
      | some t1, some t4, some t5 =>
        some (rangeCm (tsDiff t4.value t1.value) (answerTime a 5) (answerTime a 10) (tsDiff t5.value t4.value))
      | _, _, _ => none
  ds.foldl (fun m d => match m with
    | none => some d
    | some e => some (min e d)) none

/-- The outcomes of an answer (spec/10, R271). -/
inductive Verdict where
  | invalid
  | outOfRange (d : Option Int)
  | inRange (d : Int)
  deriving DecidableEq, Repr

/-- The checks of an answer, in order (spec/10, R271). -/
def Poll.check (p : Poll) (vehid pollNo : Nat) (a : List Byte) : Verdict :=
  let k := answerSlot a
  if a.length < 31 || 7 < k then .invalid
  else
    match p.keys[k]? with
    | none => .invalid
    | some (st, id, key) =>
      if st != 1 || id != answerKeyId a then .invalid
      else if aesCmac key (answerCovered vehid pollNo p.nonce a) != answerCmac a then .invalid
      else
        match p.distance a with
        | none => .outOfRange none
        | some d => if d < -30 then .invalid else if (p.dmax : Int) < d then .outOfRange (some d) else .inRange d

/-! Lock-out (spec/10, R275, R276). -/

/-- 600 s and 24 h in CK_SLOW cycles. -/
def lockWindow : Int := 600 * 32768
def lockDay : Int := 86400 * 32768

/-- Failures within the last 600 s (spec/10, ACC_STAT.FAILS). -/
def State.failsNow (s : State) : Nat := (s.acc.lockOut.fails.filter fun t => s.slowAge - t ≤ lockWindow).length

/-- Seconds left in a lock-out, rounded down or up as the free value says (log entry 29). -/
def State.lockLeft (s : State) : Nat :=
  let left := s.acc.lockOut.ends - s.slowAge
  let sec : Rat := (left : Rat) / 32768
  if s.acc.lockOut.locked then
    (left / 32768 + (if left % 32768 != 0 && Config.roundUp sec then 1 else 0)).toNat
  else 0

/-- The lock-out state written to the NV store, its times counted from now (spec/10, R276). -/
def State.lockSave (s : State) : State :=
  let l := s.acc.lockOut
  let now := s.slowAge
  let x : LockOut :=
    { l with fails := l.fails.map (fun t => t - now), lastStart := l.lastStart.map (fun t => t - now), ends := l.ends - now }
  s.nvSend (.lockOut x)

/-- The lock-out state read back at power-up (spec/10, R276). -/
def State.lockRestore (s : State) : State :=
  let l := s.acc.nvLockOut
  let now := s.slowAge
  let x : LockOut :=
    { l with fails := l.fails.map (fun t => t + now), lastStart := l.lastStart.map (fun t => t + now), ends := l.ends + now }
  { s with acc := { s.acc with lockOut := x } }

/-- A lock-out starts (spec/10, R275). -/
def State.lockStart (s : State) : State :=
  let l := s.acc.lockOut
  let fresh := match l.lastStart with
    | none => true
    | some t => decide (lockDay ≤ s.slowAge - t)
  let level := if fresh then 1 else l.level + 1
  let mins := min 60 (max 1 (s.fld ACC_CFG_LOCKMIN) * 2 ^ (level - 1))
  let s : State := { s with acc := { s.acc with lockOut :=
    { fails := [], level := level, lastStart := some s.slowAge, locked := true,
      ends := s.slowAge + (mins * 60 * 32768 : Nat) } } }
  ((s.raiseBit ACC_IRQ_LOCK).raiseL 232).lockSave

/-- A failure is counted; the eighth within 600 s starts a lock-out (spec/10, R275). -/
def State.countFailure (s : State) : State :=
  let l := s.acc.lockOut
  let fails := (l.fails ++ [s.slowAge])
  let fails := fails.drop (fails.length - 8)
  let s : State := { s with acc := { s.acc with lockOut := { l with fails := fails } } }
  if s.failsNow == 8 then s.lockStart else s

/-! The end of a poll (spec/10, R273, R274). -/

/-- A distance in DIST and LASTDIST; one that the fields cannot hold is free (log entry 27). -/
def distWord (d : Int) : Nat := if 0 ≤ d && d < 0xFFFF then d.toNat else (Config.distOver d).toNat

/-- EVAL ends. -/
def State.pollEval (s : State) (p : Poll) : State :=
  let vs := p.answers.map fun a => (answerSlot a, p.check (s.fld ACC_VEHID_VEHID) s.acc.pollNo a)
  let ninv := (vs.filter fun v => v.2 == .invalid).length
  let nver := vs.length - ninv
  let near := fun (l : List (Nat × Int)) => l.foldl (fun (m : Option (Nat × Int)) x => match m with
    | none => some x
    | some y => if x.2 < y.2 || (x.2 == y.2 && x.1 < y.1) then some x else some y) none
  let ins := vs.filterMap fun v => match v.2 with
    | .inRange d => some (v.1, d)
    | _ => none
  let outs := vs.filterMap fun v => match v.2 with
    | .outOfRange (some d) => some (v.1, d)
    | _ => none
  let code := if !ins.isEmpty then codeAuth else if 0 < nver then codeRange else if 0 < ninv then codeInvalid else codeNone
  let best := if ins.isEmpty then near outs else near ins
  let s := s.each vs fun v t => match v.2 with
    | .inRange d => t.put (ACC_KEY_LASTDIST v.1) (distWord d)
    | .outOfRange (some d) => t.put (ACC_KEY_LASTDIST v.1) (distWord d)
    | .outOfRange none => t.put (ACC_KEY_LASTDIST v.1) 0xFFFF
    | .invalid => t
  let s := s.when ((code == codeAuth || code == codeRange) && 0 < ninv) fun t =>
    (t.incSat ACC_STAT_COLL).raiseBit ACC_IRQ_COLL
  let s := s.accResult code p.handle ((best.map (·.1)).getD 0) ninv nver s.acc.pollNo
    ((best.map fun b => distWord b.2).getD 0xFFFF)
  let s := if code == codeInvalid then s.countFailure else s
  s.pollLeave code

end Sys2Proof.Machine
end

