-- ==== Sys2Proof/Machine/HswOps.lean ====
section
/-!
DEFINITION. The high-side channels: what makes a channel conduct (spec/02, R58–R60), trips, thermal latch and retry
(R69–R79), the governor's demands (R80, R81), shedding (R83), the start queues (R84) and the wire model (R65–R70).
-/

namespace Sys2Proof.Machine

/-- Channel classes (spec/02, R54): 0 is H, 1 is M, 2 is L. -/
def hswClass (n : Nat) : Nat := if n < 8 then 0 else if n < 32 then 1 else 2

/-- The feed group of a channel (spec/02, R55). -/
def hswFeed (n : Nat) : Feed :=
  if n < 4 || (8 ≤ n && n < 20) || (32 ≤ n && n < 48) then .a else .b

/-- The feed group is at or above 6.0 V (spec/02, R57). -/
def State.feedOk (s : State) : Feed → Bool
  | .a => s.flag HSW_GOVSTAT_FEEDA_OK
  | .b => s.flag HSW_GOVSTAT_FEEDB_OK

/-- The start queue of a feed group. -/
def State.startQueue (s : State) : Feed → List Nat
  | .a => s.hsw.queueA
  | .b => s.hsw.queueB

def State.setStartQueue (s : State) (f : Feed) (q : List Nat) : State :=
  match f with
  | .a => { s with hsw := { s.hsw with queueA := q } }
  | .b => { s with hsw := { s.hsw with queueB := q } }

/-- Channels other than odd members of pairs, lowest first. -/
def State.hswLeads (s : State) : List Nat := (List.range 64).filter fun n => s.hswLead n == n

/-- A field of a channel's configuration as in force: a value that software wrote acts from the next model step on (spec/02,
R64). -/
def State.cfld (s : State) (f : Fld) : Nat := f.of ((tget none s.hsw.oldCfg f.addr).getD (s.reg f.addr))

def State.cflag (s : State) (f : Fld) : Bool := s.cfld f != 0

/-! Control input. -/

/-- The minimum on-time under a counter source, in CK_PER cycles of 8 ns: 200, 100 and 10 µs (spec/02, R62). -/
def minOnCycles (n : Nat) : Nat := match hswClass n with | 0 => 25000 | 1 => 12500 | _ => 1250

/-- The current limit I_LIM of a class in mA, and the time in ns after which limiting shuts the channel down (spec/02, R71). -/
def iLim (n : Nat) : Nat := match hswClass n with | 0 => 140000 | 1 => 60000 | _ => 18000
def scTime (n : Nat) : Nat := match hswClass n with | 0 => 30000 | 1 => 20000 | _ => 15000

/-- The OC threshold of a class in mA, by OC_SEL (spec/02, R71). -/
def ocThreshold (n sel : Nat) : Nat :=
  1000 * match hswClass n with
    | 0 => [40, 60, 80, 100].getD sel 0
    | 1 => [16, 24, 32, 48].getD sel 0
    | _ => [5, 7, 10, 14].getD sel 0

/-- The source code names a counter (spec/01, R20). -/
def isCounterSrc (src : Nat) : Bool := 0x20 ≤ src && src ≤ 0x3F

/-- A filtered input as an active or inactive level: OPEN, SHORT and INIT are inactive whatever INV says (spec/02,
R60; spec/06, R175). -/
def State.dinActive (s : State) (d : Nat) (inv : Bool) : Bool :=
  match s.fld (DIN_STAT_STATE d) with
  | 2 => !inv
  | 1 => inv
  | _ => false

/-- The enabled limp entries of an output (spec/03, R108, R110). -/
def State.limpEntries (s : State) (block c : Nat) : List Nat :=
  (List.range 24).filter fun k =>
    s.flag (PDI_LIMP_EN k) && s.fld (PDI_LIMP_BLOCK k) == block && s.fld (PDI_LIMP_CHAN k) == c

/-- A limp entry's input is active. -/
def State.limpEntryOn (s : State) (k : Nat) : Bool := s.dinActive (s.fld (PDI_LIMP_DI k)) (s.flag (PDI_LIMP_INV k))

/-- The input of a limp target is active while any of its entries' inputs is (spec/03, R110). -/
def State.limpInput (s : State) (block c : Nat) : Bool := (s.limpEntries block c).any s.limpEntryOn

/-- The channel follows a counter's output now (spec/02, R59; spec/07, R192; spec/03, R105). -/
def State.counterDriven (s : State) (n : Nat) : Bool :=
  !s.flag (HSW_STAT_LIMP n) && isCounterSrc (s.fld (HSW_STAT_SRC n)) && s.gtAvail && !s.flag (HSW_STAT_HELD n)

/-- The control input of a channel is active (spec/02, R58–R60; R62 for a pulse below the minimum on-time, R97 for one
stretched for diagnosis, R105 for a held channel). A pulse that is being stretched when a basting hold puts its source to
HOLDON goes on to the end of its window; the rules are silent on it (DESIGN CHOICE, log entry 114). -/
def State.hswInput (s : State) (n : Nat) : Bool :=
  if s.flag (HSW_STAT_LIMP n) then s.limpInput 1 n
  else
    let src := s.fld (HSW_STAT_SRC n)
    let inv := s.cflag (HSW_CFG_INV n)
    if isCounterSrc src then
      if (s.hsc n).stretch then true
      else if s.counterDriven n then
        (tget false s.hsw.ctrSeen (src - 0x20) != inv) || (s.flag (HSW_STAT_OUT n) && decide (s.now < (s.hsc n).minUntil))
      else s.cflag (HSW_CFG_HOLDON n)
    else if 0x40 ≤ src && src ≤ 0x9F then s.dinActive (src - 0x40) inv
    else true

/-- A trip, thermal latch, retry wait, exhausted retry count or shed holds the channel off (spec/02, R58). -/
def State.hswHeldOff (s : State) (n : Nat) : Bool :=
  s.flag (HSW_STAT_LATCH n) || s.flag (HSW_STAT_EXHAUST n) || s.flag (HSW_STAT_RWAIT n) ||
  s.flag (HSW_STAT_SHED n) || (s.hsc n).tripped

/-- The channel waits in its feed group's start queue with its committed state ON (spec/02, R57, R84). One that the bootstrap's
schedule is still to switch on is held off by its committed state alone (R58). -/
def State.hswQueued (s : State) (n : Nat) : Bool :=
  (s.startQueue (hswFeed n)).contains n && !s.hsw.bootInrush.contains n

/-- The channel may conduct (spec/02, R57, R58, R84; spec/03, R114; spec/15, R386, R402). -/
def State.hswWants (s : State) (n : Nat) : Bool :=
  s.flag (HSW_STAT_STATIC n) && s.hswInput n && !s.hswHeldOff n && s.feedOk (hswFeed n) &&
  !(s.hsc n).revOff && !(s.hsc n).ovHeld && !s.hswQueued n &&
  !s.flag (HSW_DSTAT_SUBST n)

/-- The insulation limit T_lim in °C (spec/02, R66). -/
def State.hswTlim (s : State) (n : Nat) : Rat :=
  match s.cfld (HSW_WIRE_INSUL n) with
  | 0 => 85 | 1 => 105 | 2 => 125 | _ => 150

/-- The junction temperature in °C as last sensed. -/
def State.hswTj (s : State) (n : Nat) : Rat := (sgn 16 (s.fld (HSW_TEMP_TJ n)) : Rat) / 64

/-- Model and junction are at or below their release points (spec/02, R74, R78). -/
def State.hswCool (s : State) (n : Nat) : Bool :=
  decide ((s.hsc n).tWire ≤ s.hswTlim n - 20) && decide (s.hswTj n ≤ 155)

/-- The channel is in service: committed ON and held off by nothing but its control input (spec/02, R78). -/
def State.hswInService (s : State) (n : Nat) : Bool :=
  s.flag (HSW_STAT_STATIC n) && !s.hswHeldOff n && s.feedOk (hswFeed n) && !(s.hsc n).revOff && !(s.hsc n).ovHeld &&
  !s.hswQueued n

/-- The clean second of a channel runs on while it is in service with both temperatures at or below their release points, and
counts from its start again otherwise (spec/02, R78). -/
def State.noteClean (s : State) (n : Nat) : State :=
  let c := s.hsc n
  s.setHsc n { c with cleanFrom := if s.hswInService n && s.hswCool n then some (c.cleanFrom.getD s.now) else none }

/-- Bring a channel's switch to what its conditions ask: a turn-on starts OC blanking and, under a counter source, the
minimum on-time, and marks the channel as having conducted; a turn-off ends a stretched pulse; while VBAT is above 60 V
it is held (spec/02, R70, R72; spec/15, R386). -/
def State.hswSwitch (s : State) (n : Nat) : State :=
  let c := s.hsc n
  if s.hswWants n then
    if s.flag (HSW_STAT_OUT n) then s
    else if s.overVolt then s.setHsc n { c with ovHeld := true }
    else (s.raiseBit (HSW_STAT_OUT n)).setHsc n
      { c with
        everOn := true, blank := s.cfld (HSW_PROT_OC_BLANK n) != 0, offDiag := false
        minUntil := if s.counterDriven n then s.now + minOnCycles n else 0 }
  else
    let s := s.when (s.flag (HSW_STAT_OUT n)) fun t => t.markOff .hsw n
    (s.putB (HSW_STAT_OUT n) false).setHsc n { c with blank := false, stretch := false, minUntil := 0 }

/-- A channel, or its pair, is brought to what its conditions ask, and its clean second with it (spec/02, R58, R63, R78). -/
def State.hswEval (s : State) (n : Nat) : State :=
  let n := s.hswLead n
  (s.hswSwitch n).noteClean n

/-- The pulses that the minimum on-time has kept on end when it has passed (spec/02, R62). -/
def State.pulsesEnd (s : State) : State :=
  let due := s.hsw.chan.filter fun e => e.2.minUntil != 0 && e.2.minUntil ≤ s.now
  s.each due fun e t => (t.setHsc e.1 { t.hsc e.1 with minUntil := 0 }).hswEval e.1

/-- Put a channel into its feed group's start queue: ascending ORDER, ties by number (spec/02, R84). -/
def State.hswEnqueue (s : State) (n : Nat) : State :=
  let f := hswFeed n
  let key := fun m => s.cfld (HSW_INR_ORDER m) * 64 + m
  let q := s.startQueue f
  if q.contains n then s
  else s.setStartQueue f (q.filter (fun m => key m < key n) ++ [n] ++ q.filter (fun m => !(key m < key n)))

/-! Trips, latch and retry. -/

/-- The retry delay starts; not under S4 (spec/02, R75, R86). -/
def State.startDelay (s : State) (n : Nat) : State := if s.s4 then s else s.raiseBit (HSW_STAT_RWAIT n)

/-- A trip of a channel, with its TRIP_CAUSE code (spec/02, R63, R74–R76, R79). Under the thermal latch no delay runs. -/
def State.hswTrip (s : State) (n cause : Nat) : State :=
  let n := s.hswLead n
  let thermal := cause == 3 || cause == 4
  let s := s.setHsc n { s.hsc n with tripped := true }
  let s := (s.raiseBit (HSW_TRIP_TRIP.bit n)).put (HSW_STAT_TRIP_CAUSE n) cause
  let s := (s.incSat (HSW_STAT_TRIPS n)).raiseP n
  let s := s.when thermal fun t =>
    ((t.raiseBit (HSW_STAT_LATCH n)).raiseBit (HSW_LATCH_LATCH.bit n)).putB (HSW_STAT_RWAIT n) false
  let s :=
    if s.fld (HSW_STAT_RETRY_CNT n) == s.cfld (HSW_PROT_RETRY_MAX n) then s.raiseBit (HSW_STAT_EXHAUST n)
    else if thermal then s else s.startDelay n
  ((s.tripPulse .hsw n).hitHsw n).hswEval n

/-- The thermal latch clears once both temperatures allow it; the retry delay then starts unless EXHAUST is set
(spec/02, R74, R76). -/
def State.latchRelease (s : State) (n : Nat) : State :=
  if s.flag (HSW_STAT_LATCH n) && s.hswCool n then
    let s := (s.putB (HSW_STAT_LATCH n) false).put (HSW_LATCH_LATCH.bit n) 0
    let s := if s.flag (HSW_STAT_EXHAUST n) then s else s.startDelay n
    s.hswEval n
  else s

/-! The dissipation governor. Powers are in units of 1/320 mW, so that every demand is a whole number. -/

/-- R_ON at a junction of 150 °C, in 0.1 mΩ (spec/02, R54). -/
def ronHot (n : Nat) : Nat := match hswClass n with | 0 => 54 | 1 => 144 | _ => 540

/-- The demand of turning a channel on (spec/02, R80): INOM² × R_ON, halved for a pair; 0 when it is committed ON and
nothing under R58 holds it off but its control input. -/
def State.hswDemand (s : State) (n : Nat) : Nat :=
  if s.flag (HSW_STAT_STATIC n) && !s.hswHeldOff n then 0
  else
    let i := s.cfld (HSW_PROT_INOM n)
    i * i * ronHot n * (if s.hswPaired n then 1 else 2)

/-- The item asks for a high-side channel to be on: ON or SOURCE (spec/02, R80). -/
def Item.turnsOn (it : Item) : Bool := it.block == 1 && (it.act == 1 || it.act == 2)

/-- The channel an HSW item acts on. -/
def State.hswTarget (s : State) (it : Item) : Nat := s.hswLead (s.hswActual it.chan)

/-- The demand of an item (spec/02, R80); 0 for anything but HSW ON and SOURCE. -/
def State.itemDemand (s : State) (it : Item) : Nat := if it.turnsOn then s.hswDemand (s.hswTarget it) else 0

/-- Note the demand of an item that takes effect (spec/02, R80). -/
def State.noteDemand (s : State) (it : Item) : State :=
  { s with hsw := { s.hsw with recent := s.hsw.recent ++ [s.itemDemand it] } }

/-- BUDGET and P_MEAS in units of 1/320 mW. -/
def State.govBudget (s : State) : Nat := s.fld HSW_GOV_BUDGET * 3200
def State.govMeas (s : State) : Nat := s.fld HSW_GOVSTAT_PMEAS * 3200

/-- One item fails the governor's test, given the items of the transaction and of the armed handles (spec/02, R81). The
manual adds the channels committed on and the channels named by items, and does not say whether a channel that is both
(committed on but held off) counts twice in the 180 A sum: the model counts it once (DESIGN CHOICE, log entry 85). -/
def State.govFails (s : State) (it : Item) (own armed : List Item) : Bool :=
  let all := own ++ armed
  if s.itemDemand it == 0 then false
  else
    let p := s.govMeas + (all.map s.itemDemand).sum + s.hsw.recent.sum + s.hsw.recentPrev.sum
    let f := hswFeed (s.hswTarget it)
    let named := (all.filter (fun x => s.itemDemand x != 0)).map s.hswTarget
    let amps := ((s.hswLeads.filter (fun n => hswFeed n == f && (s.flag (HSW_STAT_STATIC n) || named.contains n))).map
      (fun n => s.cfld (HSW_PROT_INOM n))).sum
    decide (s.govBudget < p) || decide (180 * 4 < amps)

/-- The governor sheds one channel (spec/02, R83): the highest SHED class first, within it the highest number. The
manual does not say whether a channel that does not conduct is a candidate: the model takes those with OUT = 1 only
(DESIGN CHOICE, log entry 85). -/
def State.shedOne (s : State) : State :=
  let cand := fun k => (s.hswLeads.reverse).find? fun n => s.flag (HSW_STAT_OUT n) && s.cfld (HSW_CFG_SHED n) == k
  match (cand 3).orElse fun _ => (cand 2).orElse fun _ => cand 1 with
  | none => s
  | some n =>
    let s := (s.raiseBit (HSW_STAT_SHED n)).put (HSW_STAT_TRIP_CAUSE n) 5
    let s := if s.flag (HSW_STAT_LIMP n) then s else s.putB (HSW_STAT_STATIC n) false
    let s := (s.raiseBit HSW_GOVSTAT_SHEDDING).raiseBit HSW_IRQ_SHED
    (((s.raiseP 66).endPulse .hsw n).hitHsw n).hswEval n

/-! Items and limp. -/

/-- An HSW item takes effect (spec/02, R61, R75–R77, R83). A SOURCE item that takes effect in a counter pulse kept on by the
minimum on-time (R62) ends that pulse; the rules are silent on it (DESIGN CHOICE, log entry 113). -/
def State.hswApply (s : State) (it : Item) : State :=
  let n := s.hswTarget it
  let s := s.when it.turnsOn fun t => t.noteDemand it
  let s :=
    if it.act == 0 then
      let s := (s.putB (HSW_STAT_STATIC n) false).putB (HSW_STAT_RWAIT n) false
      s.setStartQueue (hswFeed n) ((s.startQueue (hswFeed n)).filter (· != n))
    else if it.act == 1 then
      let s := (s.raiseBit (HSW_STAT_STATIC n)).putB (HSW_STAT_SHED n) false
      let s := if s.flag (HSW_STAT_RWAIT n) then (s.incSat (HSW_STAT_RETRY_CNT n)).putB (HSW_STAT_RWAIT n) false else s
      if s.flag (HSW_STAT_LATCH n) || s.flag (HSW_STAT_EXHAUST n) then s
      else s.setHsc n { s.hsc n with tripped := false }
    else (s.put (HSW_STAT_SRC n) it.value).setHsc n { s.hsc n with minUntil := 0 }
  (s.endPulse .hsw n).hswEval n

/-! The wire model. Temperatures in °C, heat in W/m, as exact rationals. -/

/-- R_W at 20 °C in Ω/m (spec/02, R66). -/
def wireR (x : Nat) : Rat :=
  match x with
  | 0 => 52 / 1000 | 1 => 371 / 10000 | 2 => 247 / 10000 | 3 => 185 / 10000
  | 4 => 127 / 10000 | 5 => 76 / 10000 | 6 => 471 / 100000 | _ => 314 / 100000

/-- Θ_W in K·m/W (spec/02, R66). -/
def wireTheta (x : Nat) : Rat :=
  match x with
  | 0 => 11 | 1 => 10 | 2 => 88 / 10 | 3 => 8 | 4 => 7 | 5 => 58 / 10 | 6 => 49 / 10 | _ => 42 / 10

/-- C_W in J/(K·m) (spec/02, R66). -/
def wireC (x : Nat) : Rat :=
  match x with
  | 0 => 29 / 10 | 1 => 34 / 10 | 2 => 43 / 10 | 3 => 52 / 10 | 4 => 7 | 5 => 106 / 10 | 6 => 163 / 10 | _ => 234 / 10

/-- The temperature coefficient of copper, 0.00393 /K (spec/02, R65). -/
def alphaCu : Rat := 393 / 100000

/-- The sum `y − y·x/(k+1) + y·x²/((k+1)(k+2)) − …` of `n` terms. -/
def altSum (x : Rat) : Nat → Nat → Rat → Rat
  | 0, _, _ => 0
  | n + 1, k, y => y - altSum x n (k + 1) (y * x / ((k : Rat) + 1))

/-- `1 − e^(−x)` for `x = dt/τ`, `dt` in 100 µs and `tau` in s (spec/02, R65). The value is irrational and `x` is at
most 0.01: eight terms of its power series lie within 10⁻²³ of it (log entry 10). -/
def firstOrder (dt tau : Nat) : Rat :=
  let x : Rat := (dt : Rat) / (10000 * (tau : Rat))
  altSum x 8 1 x

/-- The ambient a source code selects (spec/02, R68; spec/04, R131); `tdie` is the P-die sensor in °C. The manual has a
stale source read 125 °C until it is written again and HOLD and PARK use the last written value: a source that was stale
at the entry reads 125 °C there too (DESIGN CHOICE, log entry 85). -/
def State.ambient (s : State) (src fix : Nat) (tdie : Rat) : Rat :=
  match src with
  | 0 => (sgn 8 fix : Rat)
  | 1 => tdie
  | 4 | 5 | 6 | 7 =>
    if s.flag (HSW_AMB_STALE (src - 4)) then 125 else (sgn 16 (s.fld (HSW_AMB_TAMB (src - 4))) : Rat) / 64
  | _ => 125

/-- Heat per metre P_i of a channel for the step (spec/02, R65). -/
def State.wireP (s : State) (n ms : Nat) : Rat :=
  (ms : Rat) / 65536 * wireR (s.fld (HSW_WIRE_XSEC n)) * (1 + alphaCu * ((s.hsc n).tWire - 20))

/-- The other members of a channel's bundle (spec/02, R67). -/
def State.bundleMates (s : State) (n : Nat) : List Nat :=
  if s.flag (HSW_WIRE_BEN n) then
    s.hswLeads.filter fun m => m != n && s.flag (HSW_WIRE_BEN m) && s.fld (HSW_WIRE_BUNDLE m) == s.fld (HSW_WIRE_BUNDLE n)
  else []

/-- The channels that step (spec/02, R70): every lead, in PARK only those that conduct or lie more than 1 °C above
their T_eff. -/
def State.wireSteppers (s : State) : List Nat :=
  if s.pstate == 3 then
    s.hswLeads.filter fun n => s.flag (HSW_STAT_OUT n) || decide ((s.hsc n).tEff + 1 < (s.hsc n).tWire)
  else s.hswLeads

/-- One channel's step, given the heat of its neighbours (spec/02, R65, R69, R70): H_i starts at 0 when the channel joins a
bundle. A channel whose thermal latch is set already does not trip again; the rule does not say (DESIGN CHOICE, log entry
99). -/
def State.wireStep (s : State) (n dt : Nat) (p heatIn : Rat) (amb : Rat) : State :=
  let x := s.fld (HSW_WIRE_XSEC n)
  let b := s.fld (HSW_WIRE_BUNDLE n)
  let c := s.hsc n
  let now := if s.flag (HSW_WIRE_BEN n) then some b else none
  let h0 := if c.bundle == now then c.heat else 0
  let h := if now.isSome then h0 + firstOrder dt (max 1 (s.fld (HSW_BUNDLE_TAUB b))) * (heatIn - h0) else 0
  let te := amb + (if s.flag (HSW_WIRE_BEN n) then (s.fld (HSW_BUNDLE_KB b) : Rat) / 256 * h else 0)
  let tw := if c.everOn then c.tWire + (dt : Rat) / 10000 / wireC x * (p - (c.tWire - te) / wireTheta x) else te
  let s := s.setHsc n { c with heat := h, tEff := te, tWire := tw, bundle := now }
  let s := (s.put (HSW_TEMP_TEFF n) (temp64 te)).put (HSW_TEMP_TWIRE n) (temp64 tw)
  if s.flag (HSW_WIRE_WMEN n) && decide (s.hswTlim n ≤ tw) && !s.flag (HSW_STAT_LATCH n) then s.hswTrip n 3 else s

end Sys2Proof.Machine
end

