-- ==== Sys2Proof/Machine/VlvOps.lean ====
section
/-!
DEFINITION. The valve channels: ganging and boost domains (spec/04, R124, R130), the boost queue (R125–R129), phases
(R121–R123), trips and evidence (R133, R134), hold demand (R127) and the coil model (R131, R132).
-/

namespace Sys2Proof.Machine

def phOff : Nat := 0
def phBoost : Nat := 2
def phPeak : Nat := 3
def phHold : Nat := 4
def phRelease : Nat := 5

/-- Positions of a bank feed switch (spec/04, R117). -/
inductive FeedPos where
  | open | vbat | vbst
  deriving DecidableEq, Repr

/-- Banks VB0 and VB1, or VB2 and VB3, are ganged (spec/04, R130): the pair that holds bank `b`. -/
def State.ganged (s : State) (b : Nat) : Bool :=
  if b < 2 then s.flag VLV_CTL_GANG01 && decide (s.fld VLV_CTL_GIDX01 < 6)
  else s.flag VLV_CTL_GANG23 && decide (s.fld VLV_CTL_GIDX23 < 6)

/-- The ganged index of the pair that holds bank `b`. -/
def State.gangIdx (s : State) (b : Nat) : Nat := if b < 2 then s.fld VLV_CTL_GIDX01 else s.fld VLV_CTL_GIDX23

/-- The channel is the lead or the partner of a ganged channel. -/
def State.isGanged (s : State) (c : Nat) : Bool := s.ganged (c / 6) && c % 6 == s.gangIdx (c / 6)

/-- The lead of a ganged channel, or the channel itself (spec/04, R130). -/
def State.vlvLead (s : State) (c : Nat) : Nat := if s.isGanged c && c / 6 % 2 == 1 then c - 6 else c

/-- The boost domain of a bank, by its lower bank (spec/04, R124). -/
def State.domain (s : State) (b : Nat) : Nat := if s.ganged b then b / 2 * 2 else b

/-- The banks of a domain. -/
def State.domainBanks (s : State) (d : Nat) : List Nat := if s.ganged d then [d / 2 * 2, d / 2 * 2 + 1] else [d]

/-- The channels of a domain. -/
def State.domainChans (s : State) (d : Nat) : List Nat :=
  (s.domainBanks d).flatMap fun b => (List.range 6).map (· + 6 * b)

def State.phase (s : State) (c : Nat) : Nat := s.fld (VLV_STAT_PHASE c)

/-- VBST is at or above VMIN (spec/04, R120): 10 mV against 0.25 V units. -/
def State.vbstReady (s : State) : Bool := decide (25 * s.fld VLV_BOOST_VMIN ≤ s.fld VLV_BSTAT_VBST)

/-- Record VBST and whether it is READY. -/
def State.setVbst (s : State) (v : Nat) : State :=
  let s := s.put VLV_BSTAT_VBST v
  s.putB VLV_BSTAT_READY s.vbstReady

/-- The channel of the domain that is in BOOST. -/
def State.boosting (s : State) (d : Nat) : Option Nat := (s.domainChans d).find? fun c => s.phase c == phBoost

/-- HOLD_I of a profile's B word for a channel, in 1/64 A: 0x010 at least, 4 A at most, or 8 A for the ganged channel
(spec/04, R130). -/
def State.holdI (s : State) (c : Nat) (profB : BitVec 64) : Nat :=
  min (if s.isGanged c then 0x200 else 0x100) (max 0x10 (Fld.of (VLV_PROF_B_HOLD_I 0) profB))

/-- Where the feed switches of a domain stand (spec/04, R117, R121, R130): VBST while a channel of the domain boosts, open in
PARK and without power, else VBAT. -/
def State.feedPos (s : State) (b : Nat) : FeedPos :=
  if s.pstate == 3 || s.sys.por then .open
  else if (s.boosting (s.domain b)).isSome then .vbst
  else .vbat

/-- The hold target of a channel in 1/64 A (spec/04, R121, R132): HOLD_I, or while the coil model lowers it HOLD_FLOOR, which
is at least 0x010 and at most HOLD_I. -/
def State.holdTarget (s : State) (c : Nat) : Nat :=
  let b := (s.val c).profB
  let i := s.holdI c b
  if s.flag (VLV_STAT_COILRED c) || s.flag (VLV_STAT_COILREF c) then min i (max 0x10 (Fld.of (VLV_PROF_B_HOLD_FLOOR 0) b)) else i

/-- A channel waits in its domain's queue. -/
def State.isQueued (s : State) (c : Nat) : Bool := (s.bq (s.domain (c / 6))).any fun r => r.chan == c

/-- Take a channel out of its domain's queue. -/
def State.unqueue (s : State) (c : Nat) : State :=
  let d := s.domain (c / 6)
  (s.setBq d ((s.bq d).filter fun r => r.chan != c)).putB (VLV_STAT_QUEUED c) false

/-- A channel of a bank starts to conduct: the pulse of a feed-switch test of that bank ends too (spec/03, R101; spec/04,
R135, R137). -/
def State.endBankPulses (s : State) (c : Nat) : State :=
  s.stopTests (fun t => t.block == .vlv && (s.fld (tslotChan .vlv t.slot) == c ||
    (s.fld (tslotTest .vlv t.slot) == 2 && s.domain (s.fld (tslotChan .vlv t.slot) / 6) == s.domain (c / 6)))) istatDeferred

/-- A channel starts its BOOST: the profile is copied, its item takes effect and its 100 µs window opens; a test pulse ends
(spec/04, R122, R125, R137; spec/01, R47). TBOOST of a boost that restarts in BOOST (R128) counts from the restart; R134
does not say (DESIGN CHOICE, log entry 101). -/
def State.startBoost (s : State) (r : BoostReq) : State :=
  let c := r.chan
  let s := s.endBankPulses c
  let s := s.setVal c { s.val c with
    profA := s.reg (VLV_PROF_A r.profile), profB := s.reg (VLV_PROF_B r.profile), actuated := true, boostAt := s.now }
  let s := (s.put (VLV_STAT_PHASE c) phBoost).put (VLV_STAT_PROFILE c) r.profile
  match r.item with
  | none => s
  | some (h, i) =>
    let s := s.put (istatFld h i) istatPending
    s.setHnd h { s.hnd h with window := i :: (s.hnd h).window }

/-- A domain's turn on a CK_PWR edge: the head of the queue starts its BOOST when no channel boosts, VBST is ready,
no feed-trip wait runs and VBAT is not above 60 V (spec/04, R125; spec/15, R386). -/
def State.boostService (s : State) (d : Nat) : State :=
  match s.bq d with
  | [] => s
  | r :: rest =>
    if (s.boosting d).isNone && s.vbstReady && !s.overVolt &&
        (s.domainBanks d).all (fun b => !s.flag (VLV_BANK_FWAIT b)) then
      ((s.setBq d rest).putB (VLV_STAT_QUEUED r.chan) false).startBoost r
    else s

/-- The ACTUATE item that started a channel's present profile, while its 100 µs window is open (spec/01, R47). -/
def State.startedItem (s : State) (c : Nat) : Option (Nat × Nat) :=
  (s.windowItems fun it => it.block == 2 && it.act == 1 && s.vlvLead it.chan == c).head?

/-- An older item of a channel, if it has not ended, ends SUPERSEDED (spec/04, R128). -/
def State.supersede (s : State) (x : Option (Nat × Nat)) : State :=
  match x with
  | none => s
  | some (h, i) => s.endItem h i istatSuperseded

/-- An actuation takes effect on a channel (spec/04, R125, R128): in BOOST it restarts the profile; otherwise it
joins the queue, taking the place of an entry that waits. -/
def State.actuate (s : State) (r : BoostReq) : State :=
  let c := r.chan
  let d := s.domain (c / 6)
  let s := s.endPulse .vlv c
  let older := ((s.bq d).filter fun q => q.chan == c).head?
  let s := s.supersede (s.startedItem c)
  let s := s.supersede (older.bind (·.item))
  if s.phase c == phBoost then s.startBoost r
  else
    let s := match r.item with
      | none => s
      | some (h, i) => s.put (istatFld h i) istatDeferred
    let q := s.bq d
    let q := if q.any (fun x => x.chan == c) then q.map (fun x => if x.chan == c then r else x) else q ++ [r]
    (s.setBq d q).raiseBit (VLV_STAT_QUEUED c)

/-- TBOOST records the length of a boost that something else ends than its current or its time (spec/04, R134): what model
time gives, at 125 CK_PER cycles to 1 µs (log entry 87). -/
def State.boostCut (s : State) (c : Nat) : State :=
  if s.phase c == phBoost then s.put (VLV_DIAG_TBOOST c) (min 65535 ((s.now - (s.val c).boostAt) / 125)) else s

/-- The channel enters RELEASE; through the 60 V clamp or by freewheel (spec/04, R121, R123). -/
def State.enterRelease (s : State) (c : Nat) (freewheel : Bool) : State :=
  let s := s.boostCut c
  let s := s.setVal c { s.val c with actuated := false, freewheel := freewheel }
  s.put (VLV_STAT_PHASE c) phRelease

/-- The running profile's CLAMP bit: 0 freewheels (spec/04, R123). -/
def State.slowRelease (s : State) (c : Nat) : Bool := Fld.of (VLV_PROF_B_CLAMP 0) (s.val c).profB == 0

/-- A RELEASE takes effect (spec/04, R129, R136); the domain it may free takes its turn after the edge's other items. In OFF and
RELEASE it has no effect, so a self-test of the channel goes on (spec/03, R101). -/
def State.releaseItem (s : State) (c : Nat) : State :=
  if s.isQueued c then
    let s := s.endPulse .vlv c
    let older := ((s.bq (s.domain (c / 6))).filter fun q => q.chan == c).head?
    (s.supersede (older.bind (·.item))).unqueue c
  else if s.phase c == phBoost || s.phase c == phPeak || s.phase c == phHold then
    (s.endPulse .vlv c).enterRelease c (s.slowRelease c)
  else s

/-- A release outside a commit edge: the domain takes its turn at once. -/
def State.release (s : State) (c : Nat) : State := (s.releaseItem c).boostService (s.domain (c / 6))

/-- A queued item that can no longer start ends EXPIRED; its channel keeps its phase and profile (spec/04, R126). -/
def State.expireBoost (s : State) (c : Nat) : State :=
  let r := ((s.bq (s.domain (c / 6))).filter fun q => q.chan == c).head?
  match r.bind (·.item) with
  | none => s
  | some (h, i) => (s.unqueue c).endItem h i istatExpired

/-- The defer limit of a profile in 10 µs (spec/04, R126): above 200 acts as 200. -/
def State.deferLimit (s : State) (p : Nat) : Nat := min 200 (s.fld (VLV_PROF_A_DEFER p))

/-- On a commit edge every domain takes its turn, and items with a defer limit of 0 that did not start end EXPIRED
(spec/04, R125, R126). -/
def State.boostEdge (s : State) (cs : List Nat) : State :=
  let s := s.each [0, 1, 2, 3] fun d t => t.boostService d
  s.each cs fun c t =>
    let late := (t.bq (t.domain (c / 6))).any fun r => r.chan == c && r.item.isSome && t.deferLimit r.profile == 0
    t.when late fun u => u.expireBoost c

/-! Evidence, trips, coil model. -/

/-- A piece of valve evidence (spec/04, R134): two of a kind in a row change DSTATE, which stays at OPEN, SHORT,
HOLD_LOW or SWITCH_SHORT until DCLR; a new value raises FS110. -/
def State.vlvEvidence (s : State) (c kind : Nat) : State :=
  let v := s.val c
  let n := if v.evKind == kind then v.evCnt + 1 else 1
  let s := s.setVal c { v with evKind := kind, evCnt := n }
  let d := s.fld (VLV_DIAG_DSTATE c)
  if 2 ≤ n && d ≤ 1 && d != kind then (s.put (VLV_DIAG_DSTATE c) kind).raiseP 110 else s

/-- One channel is put off by a trip (spec/04, R133). -/
def State.vlvOff (s : State) (c cause : Nat) (freewheel : Bool) : State :=
  let s := s.put (VLV_STAT_TRIP_CAUSE c) cause
  let s := s.setVal c { s.val c with actuated := false }
  let s := if s.phase c == phOff then s else s.enterRelease c freewheel
  (s.tripPulse .vlv c).hitItems fun it => it.block == 2 && s.vlvLead it.chan == c

/-- A trip of one channel (spec/04, R133). -/
def State.vlvTrip (s : State) (c cause : Nat) (freewheel : Bool) : State :=
  let c := s.vlvLead c
  let s := (s.raiseBit (VLV_IRQ_TRIP.bit c)).raiseP (80 + c)
  (s.vlvOff c cause freewheel).boostService (s.domain (c / 6))

/-- Demand of a channel in 1/64 A (spec/04, R127), `extra` giving the profiles of armed and proposed items. -/
def State.vlvDemand (s : State) (c : Nat) (extra : List (Nat × Nat)) : Nat :=
  let run := if (s.val c).actuated then [s.holdI c (s.val c).profB] else []
  let wait := ((s.bq (s.domain (c / 6))).filter (fun r => r.chan == c)).map fun r => s.holdI c (s.reg (VLV_PROF_B r.profile))
  let ext := (extra.filter (fun e => e.1 == c)).map fun e => s.holdI c (s.reg (VLV_PROF_B e.2))
  (run ++ wait ++ ext).foldl max 0

/-- The hold total of a bank in 1/128 A: a ganged channel counts half on each bank (spec/04, R127). -/
def State.bankHold (s : State) (b : Nat) (extra : List (Nat × Nat)) : Nat :=
  ((List.range 6).map fun i =>
    let c := 6 * b + i
    if s.isGanged c then s.vlvDemand (s.vlvLead c) extra else 2 * s.vlvDemand c extra).sum

/-- A bank's hold total would exceed 8 A (spec/04, R127). -/
def State.bankOver (s : State) (b : Nat) (extra : List (Nat × Nat)) : Bool := decide (1024 < s.bankHold b extra)

/-- The thresholds of the coil model (spec/04, R132). -/
def State.coilLimits (s : State) (c : Nat) : State :=
  let t := (s.val c).tCoil
  let red : Rat := s.fld (VLV_COIL_TRED c)
  let ref : Rat := s.fld (VLV_COIL_TREF c)
  let s := s.put (VLV_STAT_TCOIL c) (temp64 t)
  let s := if red ≤ t then s.raiseBit (VLV_STAT_COILRED c)
    else if t ≤ red - 10 then s.putB (VLV_STAT_COILRED c) false else s
  if ref ≤ t then
    if s.flag (VLV_STAT_COILREF c) then s
    else ((s.raiseBit (VLV_STAT_COILREF c)).raiseBit VLV_IRQ_COILREF).raiseP 109
  else if t ≤ ref - 10 then s.putB (VLV_STAT_COILREF c) false else s

/-- One step of a channel's coil model; `dt` in ms (spec/04, R131). -/
def State.coilStep (s : State) (c ms dt : Nat) (tdie : Rat) : State :=
  let v := s.val c
  let amb := s.ambient (s.fld (VLV_CFG_AMBSRC c)) (s.fld (VLV_CFG_AMBFIX c)) tdie
  let rc : Rat := (max 1 (s.fld (VLV_COIL_RC20 c)) : Nat) * 4 / 1000 * (1 + alphaCu * (v.tCoil - 20))
  let p : Rat := (ms : Rat) * 25 / 1000000 * rc
  let cth : Rat := (max 1 (s.fld (VLV_COIL_CTH c)) : Nat) / 4
  let th : Rat := (s.fld (VLV_COIL_THETA c) : Rat) / 4
  let t := if th = 0 then Config.coilThetaZero v.tCoil
    else v.tCoil + (dt : Rat) / 1000 / cth * (p - (v.tCoil - amb) / th)
  (s.setVal c { v with tCoil := t }).coilLimits c

end Sys2Proof.Machine
end

