-- ==== Sys2Proof/Machine/LedOps.lean ====
section
/-!
DEFINITION. The lighting block: levels, fades and total demand (spec/05, R138–R147), sink evidence and the SHORTOFF
trip (R149, R150), the matrix (R152–R157) and the stitch chains (R158–R163).
-/

namespace Sys2Proof.Machine

def State.matrixOn (s : State) : Bool := s.flag LED_MCFG_MEN

/-! Total current (R144), in µA. -/

/-- A sink's demand at a level and a global level. -/
def sinkMicroAmps (l g : Nat) : Nat := 150000 * l * g / (4095 * 255)

/-- The largest of a state value and the values that matching items carry. -/
def topLevel (base : Nat) (items : List Item) (p : Item → Bool) (v : Item → Nat) : Nat :=
  ((items.filter p).map v).foldl max base

/-- The level field of a SET or FADE item. -/
def Item.level (it : Item) : Nat := it.value % 4096

/-- The demand of the committed state with a list of items, each at its largest (spec/05, R144). -/
def State.ledDemand (s : State) (items : List Item) : Nat :=
  let led := items.filter fun it => it.block == 3
  let g := topLevel (s.fld LED_GCFG_GLEVEL) led (fun it => it.chan == 0x30) (fun it => it.value % 256)
  let sink := fun n =>
    sinkMicroAmps (topLevel (max (s.fld (LED_STAT_LEVEL n)) (s.fld (LED_STAT_TARGET n))) led (fun it => it.chan == n) Item.level) g
  let point := fun p =>
    sinkMicroAmps (topLevel (s.fld (LED_MPT_LEVEL p)) led (fun it => it.chan == 0x40 + p) Item.level) g
  if s.matrixOn then
    let line := fun j => ((List.range 24).map fun c => point (24 * j + c)).sum
    ((List.range 8).map line).foldl max 0 + ((List.range 24).map fun n => sink (24 + n)).sum
  else ((List.range 48).map sink).sum

/-- A LED item fails the total-current test: the total is above 3.6 A and is greater with the item than without it
(spec/05, R144); `others` are the transaction's other items, `armed` the armed ones. -/
def State.ledFails (s : State) (it : Item) (others armed : List Item) : Bool :=
  it.block == 3 && decide (3600000 < s.ledDemand (it :: others ++ armed)) &&
  decide (s.ledDemand (others ++ armed) < s.ledDemand (it :: others ++ armed))

/-! Fades. -/

/-- The greatest level `m` with `2m + 2·off − 1 ≤ 2·a^((256−k)/256)·b^(k/256)`, found bit by bit; `a` and `b` are the
start and target levels plus the curve's offset. It is the LOG value rounded half up (spec/05, R145). -/
def logLevel (off a b k : Nat) : Nat :=
  let bound := 2 ^ 256 * a ^ (256 - k) * b ^ k
  [2048, 1024, 512, 256, 128, 64, 32, 16, 8, 4, 2, 1].foldl
    (fun m d => if (2 * (m + d) + 2 * off - 1) ^ 256 ≤ bound then m + d else m) 0

/-- The level at step `k` of a fade (spec/05, R145). -/
def Fade.level (f : Fade) (k : Nat) : Nat :=
  if 256 ≤ k then f.target
  else match f.curve with
    | 1 => logLevel 64 (f.start + 64) (f.target + 64) k
    | 2 => ((f.start : Int) + (((f.target : Int) - f.start) * k * 2 + 256) / 512).toNat
    | _ => logLevel 16 (f.start + 16) (f.target + 16) k

/-- A running fade stops (spec/05, R147). -/
def State.stopFade (s : State) (n : Nat) : State := (s.setFade n none).putB (LED_STAT_FADING n) false

/-- Level and target set at once. -/
def State.setSink (s : State) (n l : Nat) : State :=
  let s := s.when (l == 0 && (s.fld (LED_STAT_LEVEL n) != 0 || (s.fade n).isSome)) fun t => t.markOff .led n
  (s.put (LED_STAT_LEVEL n) l).put (LED_STAT_TARGET n) l

/-- A LED item takes effect (spec/05, R139, R146, R147, R155). -/
def State.ledApply (s : State) (it : Item) : State :=
  if it.chan == 0x30 then s.put LED_GCFG_GLEVEL it.value
  else if 0x40 ≤ it.chan then s.put (LED_MPT_LEVEL (it.chan - 0x40)) it.value
  else
    let n := it.chan
    let s := s.endPulse .led n
    let s := if (s.fade n).isSome then (s.stopFade n).raiseBit LED_IRQ_FADE_CUT else s
    let time := it.value / 4096 % 16384
    if it.act == 0 || time == 0 then s.setSink n it.level
    else
      let s := s.setFade n (some ⟨s.fld (LED_STAT_LEVEL n), it.level, s.fld (LED_CFG_CURVE n), time⟩)
      ((s.put (LED_STAT_TARGET n) it.level).put (LED_STAT_FSTEP n) 0).raiseBit (LED_STAT_FADING n)

/-! Evidence. -/

/-- SHORT with SHORTOFF trips a sink that runs (spec/05, R150). -/
def State.sinkShortOff (s : State) (n : Nat) : State :=
  if s.flag (LED_CFG_SHORTOFF n) then
    (((s.stopFade n).setSink n 0).tripPulse .led n).hitItems fun it => it.block == 3 && it.chan == n
  else s

/-- A piece of sink evidence (spec/05, R149): two of a kind in a row change DSTATE; OPEN and SHORT stay until DCLR.
SHORT with SHORTOFF trips the sink, and a new SHORT trips one that a later item runs again (R150; log entry 88). -/
def State.sinkEvidence (s : State) (n kind : Nat) : State :=
  let cnt := if s.fld (LED_DIAG_EVKIND n) == kind then min 15 (s.fld (LED_DIAG_EVID n) + 1) else 1
  let s := (s.put (LED_DIAG_EVKIND n) kind).put (LED_DIAG_EVID n) cnt
  let d := s.fld (LED_DIAG_DSTATE n)
  if 2 ≤ cnt && d != kind && d != 2 && d != 3 then
    let s := s.put (LED_DIAG_DSTATE n) kind
    let s := if 2 ≤ kind then (s.raiseBit LED_IRQ_DIAG).raiseP (112 + n) else s
    s.when (kind == 3) fun t => t.sinkShortOff n
  else s.when (2 ≤ cnt && kind == 3 && d == 3) fun t => t.sinkShortOff n

/-! Stitch chains. -/

/-- The first `n` bits of a frame buffer as a number, frame bit 0 lowest (spec/05, R158). -/
def State.frameBits (s : State) (k f n : Nat) : Nat :=
  ((List.range ((n + 63) / 64)).map fun w => s.fld (LED_SC_FRM_BITS k f w) <<< (64 * w)).sum % 2 ^ n

/-- The frame buffer and bit count of a stitch item (spec/01, R20). -/
def Item.frame (it : Item) : Nat := it.value % 16
def Item.bitCount (it : Item) : Nat := it.value / 16 % 8192

/-- Shift time of an item in ns (spec/05, R159). -/
def State.shiftTime (s : State) (it : Item) : Nat := (4 + 2 * (s.fld (LED_SC_CFG_SCDIV it.chan) + 1) * it.bitCount) * 16

/-- The shifts of a handle that is armed start (spec/05, R159); under the limp map the chains are idle (R165). -/
def State.startShifts (s : State) (h : Nat) : State :=
  if s.flag PDI_STAT_LIMP then s
  else s.each (s.itemIdx h) fun i t =>
    let it := t.item h i
    if it.block == 5 then
      let bits := t.frameBits it.chan it.frame it.bitCount
      let t := (t.put (LED_SC_STAT_STATE it.chan) 2).setChain it.chan
        { t.chain it.chan with armed := some (h, it.frame, it.bitCount, bits) }
      t.setHnd h { t.hnd h with shifting := (t.hnd h).shifting ++ [it.chan] }
    else t

/-- A chain that is shifting stops: SCk_CK and SCk_DO stay at the levels of that moment, which are free values (spec/05, R165;
log entry 115). -/
def State.shiftCut (s : State) (k : Nat) : State :=
  if s.fld (LED_SC_STAT_STATE k) != 2 then s
  else
    let d := s.draw
    d.2.setChain k { d.2.chain k with ck := d.1.toNat.testBit 0, dout := d.1.toNat.testBit 1 }

/-- The stitch chains stop unlatched (spec/05, R165). -/
def State.chainsStop (s : State) : State :=
  s.each [0, 1] fun k t =>
    if (t.chain k).armed.isSome then
      let t := t.shiftCut k
      (t.put (LED_SC_STAT_STATE k) 0).setChain k { t.chain k with armed := none }
    else t

/-- The limp map leaves the chains idle (spec/05, R165): shifts stop unlatched, and no handle waits for one (log entry
88). -/
def State.chainsIdle (s : State) : State :=
  s.chainsStop.each allHandles fun h t =>
    if (t.hnd h).shifting.isEmpty then t
    else t.setHnd h { t.hnd h with shifting := [], noRet := (t.hnd h).noRet || t.fld (TXN_CTL_MODE h) == 0 }

/-- A chain latches on the commit edge (spec/05, R159; LATCH_TIME and FRAME record it). -/
def State.latchChain (s : State) (k : Nat) : State :=
  match (s.chain k).armed with
  | none => s
  | some (_, f, n, bits) =>
    let s := s.setChain k { s.chain k with last := some (bits, n), armed := none }
    let s := ((s.put (LED_SC_STAT_STATE k) 0).put (LED_SC_STAT_FRAME k) f).put (LED_SC_STAT_LATCH_TIME k) s.ntuNs
    s.send (.latchPulse k bits n)

end Sys2Proof.Machine
end

