-- ==== Sys2Proof/Machine/DoutOps.lean ====
section
/-!
DEFINITION. The field outputs: switching (spec/06, R180), the refresh window (R181–R183), trips (R185) and evidence
(R186).
-/

namespace Sys2Proof.Machine

/-- The refresh window starts at full length; REFW = 0 runs none (spec/06, R181). -/
def State.startWindow (s : State) (n : Nat) : State :=
  let w := s.fld (DOUT_CFG_REFW n)
  (s.put (DOUT_STAT_REFLEFT n) w).setDou n
    { s.dou n with running := w != 0, suspended := false, expired := false, start := s.now }

/-- The window ends without expiring. -/
def State.stopWindow (s : State) (n : Nat) : State :=
  (s.put (DOUT_STAT_REFLEFT n) 0).setDou n { s.dou n with running := false, suspended := false }

/-- Milliseconds left in a running window (spec/06, R181): 125,000 CK_PER cycles are 1 ms. -/
def State.refLeft (s : State) (n : Nat) : Nat :=
  if (s.dou n).running && !(s.dou n).suspended then s.fld (DOUT_CFG_REFW n) - (s.now - (s.dou n).start) / 125000
  else s.fld (DOUT_STAT_REFLEFT n)

/-- Windows are suspended, REFLEFT keeping the time left (spec/06, R181, R189). -/
def State.suspendWindows (s : State) : State :=
  s.each (List.range 16) fun n t =>
    if (t.dou n).running && !(t.dou n).suspended then
      (t.put (DOUT_STAT_REFLEFT n) (t.refLeft n)).setDou n { t.dou n with suspended := true }
    else t

/-- Suspended windows restart at full length (spec/06, R181, R189). -/
def State.resumeWindows (s : State) : State :=
  s.each (List.range 16) fun n t => if (t.dou n).suspended then t.startWindow n else t

/-- The switch closes, unless VBAT is above 60 V (spec/06, R180; spec/15, R386). -/
def State.doutOn (s : State) (n : Nat) : State :=
  let s := s.raiseBit (DOUT_STAT_STATIC n)
  if s.flag (DOUT_STAT_OUT n) then s
  else if s.overVolt then s.setDou n { s.dou n with ovHeld := true }
  else (s.raiseBit (DOUT_STAT_OUT n)).setDou n { s.dou n with offDiag := false }

/-- The switch opens and the committed state becomes OFF. -/
def State.doutOff (s : State) (n : Nat) : State :=
  let s := s.when (s.flag (DOUT_STAT_OUT n)) fun t => t.markOff .dout n
  let s := (s.putB (DOUT_STAT_STATIC n) false).putB (DOUT_STAT_OUT n) false
  (s.setDou n { s.dou n with ovHeld := false }).stopWindow n

/-- A DOUT item takes effect (spec/06, R180, R181). -/
def State.doutApply (s : State) (it : Item) : State :=
  let n := it.chan
  let s := s.endPulse .dout n
  if it.act == 0 then s.doutOff n else (s.doutOn n).startWindow n

/-- A piece of evidence (spec/06, R186): two of a kind in a row change DSTATE; OPEN, SHORT_GND and SHORT_BAT stay
until DCLR. -/
def State.doutEvidence (s : State) (n kind : Nat) : State :=
  let c := s.dou n
  let cnt := if c.evKind == kind then c.evCnt + 1 else 1
  let s := s.setDou n { c with evKind := kind, evCnt := cnt }
  let d := s.fld (DOUT_STAT_DSTATE n)
  if 2 ≤ cnt && d ≤ 1 && d != kind then
    ((s.put (DOUT_STAT_DSTATE n) kind).raiseBit (DOUT_IRQ_DIAG.bit n)).raiseP 185
  else s

/-- A trip (spec/06, R185). -/
def State.doutTrip (s : State) (n cause : Nat) : State :=
  let s := (s.doutOff n).put (DOUT_STAT_TRIP_CAUSE n) cause
  let s := (s.raiseBit (DOUT_IRQ_TRIP.bit n)).raiseP 184
  (s.tripPulse .dout n).hitItems fun it => it.block == 4 && it.chan == n

end Sys2Proof.Machine
end

