-- ==== Sys2Proof/Machine/LimpOps.lean ====
section
/-!
DEFINITION. The basting hold and the limp map (spec/03, R105–R112): starting and ending the hold, applying and
releasing the map, and how limp targets follow their inputs.
-/

namespace Sys2Proof.Machine

/-- An output is named by an enabled limp entry; `block` is the item block code (spec/03, R108). -/
def State.inLimpMap (s : State) (block c : Nat) : Bool := !(s.limpEntries block c).isEmpty

/-- The output is under the limp map (spec/01, R29 check 5). -/
def State.underLimp (s : State) (it : Item) : Bool :=
  s.flag PDI_STAT_LIMP &&
  match it.block with
  | 1 => s.inLimpMap 1 (s.hswTarget it)
  | 2 => s.inLimpMap 2 (s.vlvLead it.chan)
  | 4 => s.inLimpMap 4 it.chan
  | _ => false

/-- Flag a hold or limp event, or keep it until the link returns (spec/03, R104). -/
def State.flagHold (s : State) : State :=
  if s.flag PDI_STAT_LINK_UP then s.raiseBit PDI_IRQ_HOLD else { s with pdi := { s.pdi with holdEvent := true } }

def State.flagLimp (s : State) : State :=
  if s.flag PDI_STAT_LINK_UP then s.raiseBit PDI_IRQ_LIMP else { s with pdi := { s.pdi with limpEvent := true } }

/-- Every high-side channel is brought to what its conditions ask. -/
def State.hswEvalAll (s : State) : State := s.each s.hswLeads fun n t => t.hswEval n

/-! Basting hold. -/

/-- The hold window in ms (spec/03, PDI_CFG): above 500 acts as 500. -/
def State.holdWin (s : State) : Nat := min 500 (s.fld PDI_CFG_HOLD_WIN)

/-- Milliseconds left in the hold, a part of one counting whole: R105 gives HOLD_LEFT no rounding (DESIGN CHOICE, log entry
114). -/
def State.holdLeft (s : State) : Nat :=
  if s.flag PDI_STAT_HOLD then s.holdWin - (s.now - s.pdi.holdStart) / 125000 else 0

/-- The basting hold starts (spec/03, R105; spec/04, R137; spec/06, R189). -/
def State.holdBegin (s : State) : State :=
  let s := s.raiseBit PDI_STAT_HOLD
  let s := { s with pdi := { s.pdi with holdStart := s.now } }
  let s := s.each s.hswLeads fun n t =>
    t.when (t.flag (HSW_STAT_STATIC n)) fun u => (u.raiseBit (HSW_STAT_HELD n)).raiseBit (PDI_HELD0_HSW.bit n)
  let s := s.each (List.range 24) fun c t =>
    let t := t.unqueue c
    t.when (t.val c).actuated fun u => (u.raiseBit (VLV_STAT_HELD c)).raiseBit (PDI_HELD2_VLV.bit c)
  let s := s.each (List.range 48) fun n t =>
    t.when (t.fld (LED_STAT_TARGET n) != 0) fun u => (u.raiseBit (LED_STAT_HELD n)).raiseBit (PDI_HELD1_LED.bit n)
  let s := s.each (List.range 16) fun n t =>
    t.when (t.flag (DOUT_STAT_STATIC n)) fun u => (u.raiseBit (DOUT_STAT_HELD n)).raiseBit (PDI_HELD1_DOUT.bit n)
  (s.suspendWindows.flagHold).hswEvalAll

/-- At the claim commit edge a held channel that is substituted passes its held state to the spare (spec/03, R114). -/
def State.passToSpares (s : State) : State :=
  let held := (List.range 64).filter fun n =>
    s.flag (HSW_STAT_HELD n) && s.flag (HSW_DSTAT_SUBST n) && s.flag (HSW_STAT_STATIC n)
  s.each held fun n t =>
    let p := t.hswLead (t.hswActual n)
    ((t.putB (HSW_STAT_STATIC n) false).raiseBit (HSW_STAT_STATIC p)).put (HSW_STAT_SRC p) (t.fld (HSW_STAT_SRC n))

def State.wdog (s : State) (k : Nat) : Watchdog := tget {} s.sys.wd k
def State.setWdog (s : State) (k : Nat) (x : Watchdog) : State :=
  { s with sys := { s.sys with wd := tset {} s.sys.wd k x } }

/-- The watchdogs, stopped while the hold ran, begin to count (spec/15, R400, R406). -/
def State.wdResume (s : State) : State :=
  s.each (List.range 4) fun k t => t.when (t.wdog k).running fun u => u.setWdog k { u.wdog k with since := u.now }

/-- The hold ends: the held set is emptied (spec/03, R107). -/
def State.holdEnd (s : State) : State :=
  let s := ((s.putB PDI_STAT_HOLD false).put PDI_HELD0_HSW 0).put PDI_HELD2_VLV 0
  let s := (s.put PDI_HELD1_LED 0).put PDI_HELD1_DOUT 0
  let s := s.each (List.range 64) fun n t => t.putB (HSW_STAT_HELD n) false
  let s := s.each (List.range 24) fun c t => t.putB (VLV_STAT_HELD c) false
  let s := s.each (List.range 48) fun n t => t.putB (LED_STAT_HELD n) false
  let s := s.each (List.range 16) fun n t => t.putB (DOUT_STAT_HELD n) false
  s.flagHold.wdResume.hswEvalAll

/-! Limp map. -/

/-- The profile a limp valve is actuated with: that of the lowest-numbered entry whose input is active (spec/03,
R110). -/
def State.limpProfile (s : State) (c : Nat) : Nat :=
  match (s.limpEntries 2 c).find? s.limpEntryOn with
  | some k => s.fld (PDI_LIMP_PROFILE k)
  | none => 0

/-- A limp valve follows its input (spec/03, R110; spec/04, R137). -/
def State.limpValve (s : State) (c : Nat) : State :=
  let on := s.limpInput 2 c
  let v := s.val c
  if on && !v.limpOn then
    let s := (s.setVal c { v with limpOn := true }).actuate ⟨c, s.limpProfile c, none⟩
    s.boostService (s.domain (c / 6))
  else if !on && v.limpOn then
    ((s.setVal c { v with limpOn := false }).unqueue c).release c
  else s

/-- A limp field output follows its input; after a trip it stays off until the input next becomes active (spec/03,
R110). -/
def State.limpDout (s : State) (n : Nat) : State :=
  let on := s.limpInput 4 n
  let c := s.dou n
  if on && !c.limpOn then ((s.setDou n { c with limpOn := true }).endPulse .dout n).doutOn n
  else if !on && c.limpOn then ((s.setDou n { c with limpOn := false }).endPulse .dout n).doutOff n
  else s

/-- The limp targets follow their inputs. -/
def State.limpFollow (s : State) : State :=
  if s.flag PDI_STAT_LIMP then
    let s := s.each (List.range 24) fun c t => t.when (t.flag (VLV_STAT_LIMP c)) fun u => u.limpValve c
    s.each (List.range 16) fun n t => t.when (t.flag (DOUT_STAT_LIMP n)) fun u => u.limpDout n
  else s

/-- Handles that wait or are armed with items under the limp map are refused: those items ABORTED_FAULT with their
cause bits, the others REFUSED_CONFLICT (spec/01, R52). A claim set is refused whole (R53; spec/03, R112). -/
def State.limpRefuse (s : State) : State :=
  let hit := s.waitingHandles.filter fun h =>
    (s.claimMates h).any fun g => (s.itemIdx g).any fun i => s.underLimp (s.item g i)
  s.each hit fun h t =>
    let u := t.each (t.itemIdx h) fun i x =>
      if x.underLimp (x.item h i) then
        (x.put (istatFld h i) istatAbortedFault).raiseBit ((TXN_CAUSE_CAUSE h).bit i)
      else x.put (istatFld h i) istatConflict
    u.refuse h istatConflict

/-- Waiting valve items of transactions leave the boost queues and end ABORTED_FAULT (spec/03, R110). -/
def State.dropBoostItems (s : State) : State :=
  s.each (List.range 24) fun c t =>
    match ((t.bq (t.domain (c / 6))).filter fun q => q.chan == c).head?.bind (·.item) with
    | some (h, i) => (t.unqueue c).endItem h i istatAbortedFault
    | none => t

/-- The items of a valve channel. -/
def State.hitValve (s : State) (c : Nat) : State := s.hitItems fun it => it.block == 2 && s.vlvLead it.chan == c

/-- A valve comes under the map (spec/03, R110; spec/04, R137): one that runs another profile than its entry's is actuated
again when its input is active; one that runs that profile already goes on (log entry 84). -/
def State.limpTakeValve (s : State) (c : Nat) : State :=
  let v := s.val c
  let kept := !s.limpInput 2 c || s.fld (VLV_STAT_PROFILE c) == s.limpProfile c
  (((s.raiseBit (VLV_STAT_LIMP c)).setVal c { v with limpOn := v.actuated && kept })).hitValve c

/-- Outputs outside the map go off and their committed state becomes OFF; limp targets are put under the map; the
reaction acts on every output of both kinds, so that their items in the 100 µs window end ABORTED_FAULT (spec/03, R110;
spec/01, R47; log entry 84). A target that tripped before, its retry called off, stays off under the map, and an entry that
names the partner of a ganged valve channel, or the odd member of a high-side pair, is ignored: the rules are silent on these
(DESIGN CHOICE, log entries 99, 101, 114). -/
def State.limpOutputs (s : State) : State :=
  let s := s.dropBoostItems
  let s := s.each s.hswLeads fun n t =>
    if t.inLimpMap 1 n then
      (((t.raiseBit (HSW_STAT_LIMP n)).raiseBit (HSW_STAT_STATIC n)).endPulse .hsw n).hitHsw n
    else
      let t := ((t.putB (HSW_STAT_STATIC n) false).putB (HSW_STAT_RWAIT n) false).endPulse .hsw n
      t.hitHsw n
  let s := s.hswEvalAll
  let s := s.each (List.range 24) fun c t =>
    if t.vlvLead c != c then t
    else if t.inLimpMap 2 c then t.limpTakeValve c
    else (t.release c).hitValve c
  let s := s.each (List.range 16) fun n t =>
    let t :=
      if t.inLimpMap 4 n then
        let t := (t.raiseBit (DOUT_STAT_LIMP n)).stopWindow n
        t.setDou n { t.dou n with limpOn := t.flag (DOUT_STAT_STATIC n) }
      else (t.endPulse .dout n).doutOff n
    t.hitItems fun it => it.block == 4 && it.chan == n
  s.limpFollow

/-- The rest of the bootstrap's inrush schedule is dropped (spec/13, R356). -/
def State.inrushCut (s : State) : State :=
  let left := s.hsw.bootInrush
  if left.isEmpty then s
  else
    let s : State := { s with
      hsw := { s.hsw with
        bootInrush := [], queueA := s.hsw.queueA.filter (fun n => !left.contains n),
        queueB := s.hsw.queueB.filter fun n => !left.contains n } }
    (s.raiseBit BSQ_IRQ_INRCUT).raiseL 258

/-- The limp map is applied with a cause (spec/03, R109, R110, R112): the first cause is recorded, a basting hold
ends and its open claim set is refused with `claimCode`, the outputs change, LIMP is set and FS072 raised. A claim set that is
closed but not yet ARMED when the hold expires is not refused here; R107 gives it no code (DESIGN CHOICE, log entry 100). -/
def State.limpApply (s : State) (cause claimCode : Nat) : State :=
  if s.flag PDI_STAT_LIMP then s
  else
    let s := if s.flag PDI_STAT_HOLD then (s.refuseHandles s.txn.claimSet claimCode).holdEnd else s
    let s := ((s.raiseBit PDI_STAT_LIMP).put PDI_STAT_LIMP_CAUSE cause).inrushCut
    let s := s.limpRefuse.chainsIdle
    (s.limpOutputs.flagLimp).raiseP 72

/-- The limp map is released (spec/03, R111; spec/02, R83): each target takes the level its input commands. -/
def State.limpRelease (s : State) : State :=
  let s := s.each s.hswLeads fun n t =>
    let t := t.putB (HSW_STAT_SHED n) false
    if t.flag (HSW_STAT_LIMP n) then
      ((t.putB (HSW_STAT_STATIC n) (t.limpInput 1 n)).put (HSW_STAT_SRC n) 0).putB (HSW_STAT_LIMP n) false
    else t
  let s := s.each (List.range 24) fun c t =>
    (t.putB (VLV_STAT_LIMP c) false).setVal c { t.val c with limpOn := false }
  let s := s.each (List.range 16) fun n t =>
    if t.flag (DOUT_STAT_LIMP n) then
      let on := t.limpInput 4 n
      let t := (t.putB (DOUT_STAT_LIMP n) false).setDou n { t.dou n with limpOn := false }
      if on then (t.doutOn n).startWindow n else t.doutOff n
    else t
  ((s.putB PDI_STAT_LIMP false).flagLimp).hswEvalAll

/-- An announced L-die reset starts the hold, or with HOLD_WIN = 0 applies the limp map at once; a running hold and an
applied map run on (spec/03, R105). -/
def State.announcedReset (s : State) : State :=
  if s.flag PDI_STAT_LIMP || s.flag PDI_STAT_HOLD then s
  else if s.holdWin == 0 then (s.limpApply 5 istatExpired).raiseP 71
  else s.holdBegin

/-- The filtered state of an input changed: channels and limp targets that take it follow, and test pulses of
channels it drives end (spec/02, R60; spec/03, R101, R110). -/
def State.inputChanged (s : State) (d : Nat) : State :=
  let s := s.each s.hswLeads fun n t =>
    if t.fld (HSW_STAT_SRC n) == 0x40 + d || (t.flag (HSW_STAT_LIMP n) && (t.limpEntries 1 n).any (fun k => t.fld (PDI_LIMP_DI k) == d))
    then (t.endPulse .hsw n).hswEval n else t
  s.limpFollow

/-- A counter's output as the P-die samples it changed: the channels it drives follow and their test pulses end (spec/02, R59;
spec/03, R101). -/
def State.counterChanged (s : State) (g : Nat) : State :=
  s.each s.hswLeads fun n t => if t.fld (HSW_STAT_SRC n) == 0x20 + g then (t.endPulse .hsw n).hswEval n else t

/-- The P-die takes a counter's level; while the outputs are unavailable no channel follows it (spec/02, R59; spec/07, R192). -/
def State.counterTaken (s : State) (g : Nat) (level : Bool) : State :=
  if tget false s.hsw.ctrSeen g == level then s
  else
    ({ s with hsw := { s.hsw with ctrSeen := tset false s.hsw.ctrSeen g level } } : State).when s.gtAvail fun t =>
      t.counterChanged g

/-- The CK_PWR edge of this cycle takes the levels that have arrived (spec/02, R59). -/
def State.countersArrive (s : State) : State :=
  let t : State := { s with hsw := { s.hsw with ctrIn := s.hsw.ctrIn.filter fun x => s.now < x.due } }
  t.each (s.hsw.ctrIn.filter fun x => x.due ≤ s.now) fun x u => u.counterTaken x.ctr x.level

end Sys2Proof.Machine
end

