-- ==== Sys2Proof/Machine/TxnOps.lean ====
section
/-!
DEFINITION. Validation of transactions (spec/01, R28–R33, R37, R52, R53), arming, the commit edge (R39, R40), commit
notices (R42–R45), cancel (R50) and the refusals that resets and fault reactions make.
-/

namespace Sys2Proof.Machine

/-! Policy (check 5). -/

/-- A port class passes a command family's mask: T0 passes nothing, and in FIELD neither does T4 (spec/00, R18;
spec/13, R344; spec/16, R410). -/
def State.familyAllows (s : State) (family cls : Nat) : Bool :=
  1 ≤ cls && (s.fld (SEC_FAM_MASK (family / 12) (family % 12))).testBit cls && !(cls == 4 && s.flag SEC_STAT_LIFE)

/-- The trust class of a port code (spec/16, R408). -/
def State.portClass (s : State) (port : Nat) : Nat :=
  if port == 0x1F then s.fld SEC_PORTCLS1_HOST else if port ≤ 0x14 then s.fld (SEC_PORTCLS0_CLS port) else 0

/-- The TXN command family is 2, the commit-notice family 3 (spec/16, R416). -/
def famTxn : Nat := 2
def famNotice : Nat := 3

/-- A HOLD or PARK transition has started, or a hand-over is past its quiet boundary, or the state allows no items
(spec/01, R52; spec/16, R430). -/
def State.commitsBarred (s : State) : Bool :=
  s.fld PMU_STAT_PHASE == 1 || s.fld PMU_STAT_PHASE == 2 || 2 ≤ s.pstate ||
  s.fld BSQ_HOSTAT_PHASE == 2 || s.fld BSQ_HOSTAT_PHASE == 3 || s.s3 || s.s4

/-- The handle is a claim handle for the basting hold (spec/01, R53). -/
def State.isClaim (s : State) (h : Nat) : Bool := s.flag (TXN_CTL_CLAIM h)

/-- A claim handle is not judged under R53: outside a basting hold where commits are barred, and under S3 and S4, whose rows
stand below the one of the hold (spec/01, R52). -/
def State.claimBarred (s : State) : Bool := s.s3 || s.s4 || (!s.flag PDI_STAT_HOLD && s.commitsBarred)

/-- Check 5 for a whole handle (spec/01, R29, R52). -/
def State.policyBars (s : State) (h : Nat) : Bool :=
  (s.fld (TXN_CTL_OWNER h) == 7 && !s.familyAllows famTxn (s.portClass 0x1F)) || s.commitsBarred ||
  (s.flag PDI_STAT_HOLD && !(s.isClaim h && s.fld (TXN_CTL_MODE h) == 0))

/-! The static checks 1–5. -/

/-- Check 1: the item is one of R20's, in the mode the block is in (spec/01, R20; spec/05, R152, LED_SCk_CFG). -/
def State.formatOk (s : State) (h : Nat) (it : Item) : Bool :=
  s.fld (TXN_CTL_EVSEL h) != 3 &&
  match it.block with
  | 1 => it.chan < 64 &&
    ((it.act ≤ 1 && it.value == 0) ||
     (it.act == 2 && (it.value == 0 || (0x20 ≤ it.value && it.value ≤ 0x3F) || (0x40 ≤ it.value && it.value ≤ 0x9F))))
  | 2 => it.chan < 24 && ((it.act == 0 && it.value == 0) || (it.act == 1 && it.value < 16))
  | 3 =>
    if it.chan < 0x30 then
      !(s.matrixOn && it.chan < 24) &&
      ((it.act == 0 && it.value < 4096) || (it.act == 1 && it.value < 2 ^ 26 && it.value / 4096 ≤ 8000))
    else if it.chan == 0x30 then it.act == 0 && it.value < 256
    else 0x40 ≤ it.chan && s.matrixOn && it.act == 0 && it.value < 4096
  | 4 => it.chan < 16 && it.act ≤ 1 && it.value == 0
  | 5 => it.chan < 2 && it.act == 0 && it.value < 2 ^ 17 && 1 ≤ it.bitCount && it.bitCount ≤ 4096 &&
    s.flag (LED_SC_CFG_EN it.chan)
  | _ => false

/-- The target of an item (spec/01, R20). -/
def Item.target (it : Item) : Nat × Nat := (it.block, it.chan)

/-- The owner field of an item's channel (spec/01, R29 check 3). -/
def State.itemOwner (s : State) (it : Item) : Nat :=
  match it.block with
  | 1 => s.fld (HSW_CFG_OWNER it.chan)
  | 2 => s.fld (VLV_CFG_OWNER it.chan)
  | 3 => if it.chan < 0x30 then s.fld (LED_CFG_OWNER it.chan)
         else if it.chan == 0x30 then s.fld LED_GCFG_OWNER else s.fld LED_MCFG_OWNER
  | 4 => s.fld (DOUT_CFG_OWNER it.chan)
  | _ => s.fld (LED_SC_CFG_OWNER it.chan)

/-- Check 4: the odd member of a pair, or the partner of a ganged channel (spec/01, R29). -/
def State.isPartner (s : State) (it : Item) : Bool :=
  (it.block == 1 && s.hswLead it.chan != it.chan) || (it.block == 2 && s.vlvLead it.chan != it.chan)

/-- The code of the first of checks 1 and 2 an item fails, 0 when it passes (spec/01, R29). -/
def State.check12 (s : State) (h i : Nat) : Nat :=
  let it := s.item h i
  if !s.formatOk h it then istatConflict
  else if (List.range i).any (fun j => (s.item h j).target == it.target) then istatConflict
  else 0

/-- The code of the first of checks 1 to 5 an item fails, 0 when it passes; the bootstrap's own handle skips check 3
(spec/01, R29; spec/13, R356). -/
def State.check15 (s : State) (h i : Nat) (boot : Bool) : Nat :=
  let it := s.item h i
  let own := s.itemOwner it
  if s.check12 h i != 0 then s.check12 h i
  else if !boot && own != 0 && own != s.fld (TXN_CTL_OWNER h) then istatConflict
  else if s.isPartner it then istatConflict
  else if s.policyBars h || s.underLimp it then istatPolicy
  else 0

/-! The dynamic checks 6–9. -/

/-- The items of every armed handle (spec/01, R30). -/
def State.armedItems (s : State) : List Item :=
  (allHandles.filter fun h => s.txState h == txArmed).flatMap fun h => (s.itemIdx h).map (s.item h)

/-- Profiles that valve items ask for, by lead channel (spec/04, R127). -/
def State.valveAsks (s : State) (items : List Item) : List (Nat × Nat) :=
  (items.filter fun it => it.block == 2 && it.act == 1).map fun it => (s.vlvLead it.chan, it.value % 16)

/-- Check 7 for one item: the governor, the bank hold totals, the coil model and the total sink current (spec/01,
R29; spec/02, R81; spec/04, R127, R132; spec/05, R144). -/
def State.resourceFails (s : State) (items armed : List Item) (i : Nat) : Bool :=
  match items[i]? with
  | none => false
  | some it =>
    let others := items.eraseIdx i
    match it.block with
    | 1 => s.govFails it items armed
    | 2 =>
      it.act == 1 &&
      (s.flag (VLV_STAT_COILREF it.chan) ||
       (if s.isGanged it.chan then [it.chan / 6, it.chan / 6 + 1] else [it.chan / 6]).any
         (fun b => s.bankOver b (s.valveAsks (items ++ armed))))
    | 3 => s.ledFails it others armed
    | _ => false

/-- t_arm(n) in ns (spec/01, R34). -/
def tArm (n : Nat) : Nat := 280 + 28 * n

/-- Δ of R37 (spec/01). -/
def State.delta (s : State) (h : Nat) : Nat := (s.fld (TXN_TIME_TIME h) + 2 ^ 32 - s.ntuNs) % 2 ^ 32

/-- The time-error test of R37 fails (spec/01). -/
def State.timeErrorBad (s : State) : Bool :=
  decide (s.fld TXN_CFG_TERR_BOUND < s.fld NTU_SYNC_TERR) || !s.flag NTU_SYNC_SYNC

/-- The handle's commit time fails the checks of R37 (spec/01). -/
def State.timeFails (s : State) (h : Nat) : Bool :=
  let d := s.delta h
  let mode := s.fld (TXN_CTL_MODE h)
  d == 0 || decide (2 ^ 31 ≤ d) || decide (d < tArm (s.itemCount h) + 320) ||
  ((s.flag (TXN_CTL_ALIGN h) || mode == 3) && s.timeErrorBad)

/-- The longest shift time of a handle's stitch items (spec/05, R160). -/
def State.longestShift (s : State) (items : List Item) : Nat :=
  ((items.filter fun it => it.block == 5).map s.shiftTime).foldl max 0

/-- The code of the first of checks 6 to 9 an item fails, 0 when it passes (spec/01, R29; spec/05, R160). -/
def State.check69 (s : State) (h i : Nat) : Nat :=
  let it := s.item h i
  let items := (s.itemIdx h).map (s.item h)
  let n := s.hswTarget it
  let timed := 2 ≤ s.fld (TXN_CTL_MODE h)
  if it.block == 1 && (it.act == 1 || (it.act == 2 && it.value != 0)) &&
      (s.flag (HSW_STAT_LATCH n) || s.flag (HSW_STAT_EXHAUST n)) then istatAbortedFault
  else if s.resourceFails items s.armedItems i then istatConflict
  else if it.block == 5 && (s.chain it.chan).armed.isSome then istatConflict
  else if it.block == 5 && timed && decide (s.delta h < tArm items.length + 16 + s.longestShift items + 320) then istatExpired
  else 0

/-! Validation. -/

/-- Every item set PENDING and the cause mask cleared, at the COMMIT write or the notice (spec/01, R28). -/
def State.openItems (s : State) (h : Nat) : State :=
  let s := s.each (List.range 4) fun k t => t.setReg (TXN_ISTAT h k) 0
  let s := s.each (s.itemIdx h) fun i t => t.put (istatFld h i) istatPending
  (((s.put (TXN_CAUSE_CAUSE h) 0).put (TXN_STAT_NFAIL h) 0).put (TXN_STAT_FIRST h) 0).put (TXN_STAT_RESULT h) istatPending

/-- Give each item the code of its check; on a failure refuse the transaction whole (spec/01, R29, R31). A governor
refusal sets GOV_REFUSE (spec/02, R81). Answers whether every item passed. -/
def State.applyChecks (s : State) (h : Nat) (code : Nat → Nat) : State × Bool :=
  let fails := (s.itemIdx h).filter fun i => code i != 0
  if fails.isEmpty then (s, true)
  else
    let t := s.each (s.itemIdx h) fun i x =>
      if code i != 0 then (x.put (istatFld h i) (code i)).raiseBit ((TXN_CAUSE_CAUSE h).bit i)
      else x.put (istatFld h i) istatConflict
    (t.refuse h istatConflict, false)

/-- The governor refused an item of the handle (spec/02, R81). -/
def State.govRefuses (s : State) (h : Nat) : Bool :=
  let items := (s.itemIdx h).map (s.item h)
  items.any fun it => it.block == 1 && s.govFails it items s.armedItems

/-- The remaining checks: the commit time (MODE 0x2 and 0x3), then checks 6 to 9; a handle that passes stays
VALIDATING while its shadows cross to the P-die (spec/01, R33, R34, R37). The manual does not order the time checks of R37
and the checks of R29 under MODE 0x2: the model runs the time checks first, so that a handle with a bad time ends EXPIRED
whatever its items (DESIGN CHOICE, log entry 83). -/
def State.finishChecks (s : State) (h : Nat) (first : Nat → Nat) : State :=
  if 2 ≤ s.fld (TXN_CTL_MODE h) && s.timeFails h then s.refuseAll h istatExpired true
  else
    let codes := (s.itemIdx h).map fun i => if first i != 0 then first i else s.check69 h i
    let r := (s.applyChecks h fun i => codes.getD i 0)
    let s := r.1.when (!r.2 && s.govRefuses h &&
      (s.itemIdx h).any (fun i => (s.item h i).block == 1 && codes.getD i 0 == istatConflict && first i == 0))
      fun t => t.raiseBit HSW_IRQ_GOV_REFUSE
    if r.2 then (s.put (TXN_STAT_STATE h) txValidating).setHnd h { s.hnd h with shadow := true } else s

/-! Claims (spec/01, R53; spec/03, R106). -/

/-- An item states the held state of its target (spec/03, R106). -/
def State.claimMatches (s : State) (it : Item) : Bool :=
  match it.block with
  | 1 => s.flag (HSW_STAT_HELD it.chan) &&
    (let src := s.fld (HSW_STAT_SRC it.chan)
     if src == 0 then it.act == 1 else it.act == 2 && it.value == src)
  | 2 => s.flag (VLV_STAT_HELD it.chan) && it.act == 1 && it.value == s.fld (VLV_STAT_PROFILE it.chan)
  | 3 => it.chan < 0x30 && s.flag (LED_STAT_HELD it.chan) && it.act == 0 && it.value == s.fld (LED_STAT_TARGET it.chan)
  | 4 => s.flag (DOUT_STAT_HELD it.chan) && it.act == 1
  | _ => false

/-- The held channels as targets (spec/03, R105). -/
def State.heldTargets (s : State) : List (Nat × Nat) :=
  ((List.range 64).filter fun n => s.flag (HSW_STAT_HELD n)).map (fun n => (1, n)) ++
  ((List.range 24).filter fun n => s.flag (VLV_STAT_HELD n)).map (fun n => (2, n)) ++
  ((List.range 48).filter fun n => s.flag (LED_STAT_HELD n)).map (fun n => (3, n)) ++
  ((List.range 16).filter fun n => s.flag (DOUT_STAT_HELD n)).map (fun n => (4, n))

/-- The items of a set of handles, with their places. -/
def State.setItems (s : State) (hs : List Nat) : List (Nat × Nat) := hs.flatMap fun h => (s.itemIdx h).map fun i => (h, i)

/-- A claim set refused whole: the items in `bad` with REFUSED_CONFLICT and their cause bits, every other item
REFUSED_CONFLICT; the closing handle records how many held channels no handle names (spec/01, R53). -/
def State.refuseClaim (s : State) (hs : List Nat) (bad : List (Nat × Nat)) (closing : Option Nat) : State :=
  let named := (s.setItems hs).map fun hi => (s.item hi.1 hi.2).target
  let miss := (s.heldTargets.filter fun t => !named.contains t).length
  let s := match closing with
    | some h => s.put (TXN_STAT_CLAIM_MISS h) miss
    | none => s
  let s := s.each (s.setItems hs) fun hi t =>
    let t := t.put (istatFld hi.1 hi.2) istatConflict
    if bad.contains hi then t.raiseBit ((TXN_CAUSE_CAUSE hi.1).bit hi.2) else t
  let s := s.each hs fun h t => t.refuse h istatConflict
  { s with txn := { s.txn with claimSet := [] } }

/-- An item of a claim fails checks 1 and 2 or does not state the held state (spec/01, R53). -/
def State.claimBad (s : State) (hi : Nat × Nat) : Bool :=
  s.check12 hi.1 hi.2 != 0 || !s.claimMatches (s.item hi.1 hi.2)

/-- The claim set closes and is checked as one; a set that matches arms all its handles, those that wait out of WAIT_NOTICE
(spec/01, R26, R53). From then on it is no longer the open set. -/
def State.closeClaim (s : State) (closing : Nat) : State :=
  let hs := s.txn.claimSet
  let items := s.setItems hs
  let bad := items.filter (s.claimBad ·)
  let named := items.map fun hi => (s.item hi.1 hi.2).target
  if bad.isEmpty && s.heldTargets.all named.contains then
    let s := s.each hs fun h t => t.setHnd h { t.hnd h with shadow := true, claim := some closing }
    { s with txn := { s.txn with claimSet := [] } }
  else s.refuseClaim hs bad (some closing)

/-- A COMMIT on a claim handle (spec/01, R53): it joins the open set, which it closes when CLAST = 1. A fifth handle,
another owner, a target named twice, or an item that fails checks 1 and 2 or does not match refuses the whole set. -/
def State.commitClaim (s : State) (h : Nat) : State :=
  let own := s.fld (TXN_CTL_OWNER h)
  let old := s.txn.claimSet
  let hs := old ++ [h]
  let s := { s with txn := { s.txn with claimSet := hs } }
  let mine := s.setItems [h]
  let theirs := (s.setItems old).map fun hi => (s.item hi.1 hi.2).target
  let twice := mine.filter fun hi => theirs.contains (s.item hi.1 hi.2).target
  let twiceOld := (s.setItems old).filter fun hi => (mine.map fun x => (s.item x.1 x.2).target).contains (s.item hi.1 hi.2).target
  let closes := s.flag (TXN_CTL_CLAST h)
  let concerned := if 4 < hs.length || old.any (fun x => s.fld (TXN_CTL_OWNER x) != own) then mine else twice ++ twiceOld
  let bad := concerned ++ (if closes then s.setItems hs else mine).filter (s.claimBad ·)
  if !bad.isEmpty then s.refuseClaim hs bad (if closes then some h else none)
  else if closes then s.closeClaim h
  else s.put (TXN_STAT_STATE h) txWaitNotice

/-! COMMIT. -/

/-- A COMMIT write on a handle in STAGING (spec/01, R28–R33, R52, R53). The manual does not say when CLAIM_MISS is
cleared nor what a commit with CLAIM = 1 and MODE 0x0 does while no basting hold runs: the model clears the field at
every COMMIT, and takes such a commit as a claim of a set that names nothing held. A claim handle with CLAST = 1 and COUNT 0
commits to DONE by the COUNT row, where R53 has it close the set: the model ends it DONE and leaves the open claim set open
(DESIGN CHOICE, log entry 83). -/
def State.commitHandle (s : State) (h : Nat) (boot : Bool) : State :=
  let s := s.setHnd h { s.hnd h with
    seq := s.txn.nextSeq, noRet := false, lateCancel := false, evSeen := false, window := [], shifting := [] }
  let s := { s with txn := { s.txn with nextSeq := s.txn.nextSeq + 1 } }
  let s := (s.openItems h).put (TXN_STAT_STATE h) txValidating
  let s := s.put (TXN_STAT_CLAIM_MISS h) 0
  if s.itemCount h == 0 then (s.put (TXN_STAT_RESULT h) istatOk).enterEnd h txDone
  else if s.isClaim h && s.fld (TXN_CTL_MODE h) == 0 && !s.claimBarred then s.commitClaim h
  else if s.fld (TXN_CTL_MODE h) == 3 then
    let r := s.applyChecks h fun i => s.check15 h i boot
    if r.2 then r.1.put (TXN_STAT_STATE h) txWaitNotice else r.1
  else s.finishChecks h fun i => s.check15 h i boot

/-! Arming and the commit edge. -/

/-- Every item has reached its shadow (spec/01, R34, R38; spec/05, R159). -/
def State.armHandle (s : State) (h : Nat) : State :=
  let s := s.put (TXN_STAT_STATE h) txArmed
  let s := s.startShifts h
  if s.fld (TXN_CTL_MODE h) == 0 && (s.hnd h).shifting.isEmpty then s.setHnd h { s.hnd h with noRet := true } else s

/-- An armed handle's commit edge has come (spec/01, R36): its shifts have ended and, under MODE 0x1, its event has
been seen; under MODE 0x2 and 0x3, NTU_NS has reached its time and it has passed the point of no return. -/
def State.edgeDue (s : State) (h : Nat) : Bool :=
  s.txState h == txArmed && (s.hnd h).shifting.isEmpty &&
  match s.fld (TXN_CTL_MODE h) with
  | 0 => true
  | 1 => (s.hnd h).evSeen
  | _ => (s.hnd h).noRet && (s.delta h == 0 || decide (2 ^ 31 ≤ s.delta h))

/-- One item takes effect on the commit edge. Valve actuations join their queue here; every other item opens its
100 µs window (spec/01, R39, R47). -/
def State.itemEdge (s : State) (h i : Nat) : State :=
  let it := s.item h i
  let s := if it.block == 2 && it.act == 1 then s
    else s.setHnd h { s.hnd h with window := i :: (s.hnd h).window }
  match it.block with
  | 1 => s.hswApply it
  | 2 => if it.act == 1 then s.actuate ⟨s.vlvLead it.chan, it.value % 16, some (h, i)⟩ else s.releaseItem (s.vlvLead it.chan)
  | 3 => s.ledApply it
  | 4 => s.doutApply it
  | _ => s.latchChain it.chan

/-- A valve item that restarts a channel in BOOST has taken effect at once; its window opens (spec/04, R128). -/
def State.orderItems (s : State) (his : List (Nat × Nat)) : List (Nat × Nat) :=
  let valve := fun hi : Nat × Nat => (s.item hi.1 hi.2).block == 2 && (s.item hi.1 hi.2).act == 1
  let vs := his.filter valve
  his.filter (fun hi => !valve hi) ++
    (List.range 24).flatMap fun c => vs.filter fun hi => s.vlvLead (s.item hi.1 hi.2).chan == c

/-- The commit edge of a list of handles (spec/01, R39–R41): of items for one target the one committed later takes
effect and the other ends SUPERSEDED; claim sets apply whole, end OK at once, or LATE after a late cancel (R50), and the hold
ends (R53; spec/03, R107). A set still open then is refused with EXPIRED: R53 gives the code of the other ends of a hold only
(DESIGN CHOICE, log entry 84). -/
def State.commitEdge (s : State) (hs : List Nat) : State :=
  let hs := allHandles.filter fun h => (s.claimMates h).any hs.contains && s.edgeDue h
  let claims := hs.filter fun h => (s.hnd h).claim.isSome
  let plain := hs.filter fun h => !claims.contains h
  let s := s.each hs fun h t =>
    (t.put (TXN_STAT_STATE h) txApplied).put (TXN_STAT_EDGE_TIME h) t.ntuNs
  let his := plain.flatMap fun h => (s.itemIdx h).map fun i => (h, i)
  let beaten := his.filter fun hi =>
    his.any fun hj => hi.1 != hj.1 && (s.item hi.1 hi.2).target == (s.item hj.1 hj.2).target &&
      decide ((s.hnd hi.1).seq < (s.hnd hj.1).seq)
  let live := s.orderItems (his.filter fun hi => !beaten.contains hi)
  let s := s.each live fun hi t => t.itemEdge hi.1 hi.2
  let s := s.each beaten fun hi t => t.endItem hi.1 hi.2 istatSuperseded
  let s := s.boostEdge ((live.filter fun hi => (s.item hi.1 hi.2).block == 2).map fun hi => s.vlvLead (s.item hi.1 hi.2).chan)
  let s := s.each plain fun h t => t.settle h
  if claims.isEmpty then s
  else
    let s := s.each claims fun h t =>
      (t.itemIdx h).foldl (fun u i => u.endItem h i (if (t.hnd h).lateCancel then istatLate else istatOk)) t
    let s := s.each claims fun h t => t.settle h
    if s.flag PDI_STAT_HOLD then ((s.refuseHandles s.txn.claimSet istatExpired).passToSpares.holdEnd).resumeWindows else s

/-! Notices. -/

/-- The node entries name a node (spec/01, R42, R43): singly, or within a range whose last node is the next entry. -/
def nodesName (node : Nat) : List Nat → Bool
  | [] => false
  | e :: rest =>
    if e / 16384 == 1 then
      match rest with
      | [] => false
      | l :: more => (decide (e % 16384 ≤ node) && decide (node ≤ l % 16384)) || nodesName node more
    else e % 16384 == node || nodesName node rest

/-- Every entry has a defined kind, and every range start has its end (spec/01, R42). The manual drops a notice that holds a
reserved kind; it does not say what a range start does whose next entry is missing or no single entry: the model drops that
notice too (DESIGN CHOICE, log entry 83). -/
def nodesOk : List Nat → Bool
  | [] => true
  | e :: rest =>
    if e / 16384 == 0 then nodesOk rest
    else if e / 16384 == 1 then
      match rest with
      | [] => false
      | l :: more => l / 16384 == 0 && nodesOk more
    else false

/-- A commit notice reaches the TXN block on a port (spec/01, R43, R44), none during recovery (spec/09, R260). The
manual does not say whether NOTICE_REJ or NOTICE_MISS is set while NOTICE_EN is 0 or for a notice that is dropped: the
model tests these first and sets neither. For a notice on a disallowed port that does not name this node R43 gives both
NOTICE_REJ and no effect: the model tests the port first and sets NOTICE_REJ (DESIGN CHOICE, log entry 83). -/
def State.noticeRx (s : State) (port : Nat) (n : Notice) : State :=
  let nodes := n.nodes.map BitVec.toNat
  if s.flag FCU_STAT_RECOV || !s.flag TXN_CFG_NOTICE_EN || nodes.isEmpty || 48 < nodes.length || !nodesOk nodes then s
  else if !s.familyAllows famNotice (s.portClass port) then s.raiseBit TXN_IRQ_NOTICE_REJ
  else if !nodesName (s.fld TXN_CFG_NODE) nodes then s
  else
    let hs := allHandles.filter fun h =>
      s.txState h == txWaitNotice && s.fld (TXN_CTL_MODE h) == 3 && s.fld (TXN_CTL_GROUP h) == n.group.toNat
    if hs.isEmpty then s.raiseBit TXN_IRQ_NOTICE_MISS
    else s.each hs fun h t =>
      let t := (t.put (TXN_TIME_TIME h) n.time.toNat).put (TXN_STAT_STATE h) txValidating
      t.finishChecks h fun _ => 0

/-! Cancel and owner reset. -/

/-- A CANCEL write by the owner (spec/01, R50, R51). A claim handle leaves its set; of a closed set the rest, which no longer
names every held channel, is refused with REFUSED_CONFLICT (R53; DESIGN CHOICE, log entry 84). -/
def State.cancelHandle (s : State) (h : Nat) : State :=
  let st := s.txState h
  if st == txWaitNotice || st == txValidating || (st == txArmed && !(s.hnd h).noRet) then
    let mates := (s.claimMates h).filter (· != h)
    let s := (s.refuseAll h istatSuperseded false).refuseHandles mates istatConflict
    { s with txn := { s.txn with claimSet := s.txn.claimSet.filter (· != h) } }
  else if st == txArmed || st == txApplied then s.setHnd h { s.hnd h with lateCancel := true }
  else s

/-- The owner endpoint of handles is reset (spec/01, R25). -/
def State.txnOwnerReset (s : State) (ep : Nat) : State :=
  let mine := allHandles.filter fun h => s.fld (TXN_CTL_OWNER h) == ep
  let dead := mine.filter fun h => s.txState h == txWaitNotice
  let set := (if dead.any s.txn.claimSet.contains then s.txn.claimSet else []) ++ dead.flatMap s.claimMates
  let set := allHandles.filter set.contains
  let s := s.each mine fun h t => t.setHnd h { t.hnd h with freeAtEnd := true }
  let s := s.refuseHandles (dead ++ set.filter fun h => !dead.contains h) istatAbortedReset
  s.each mine fun h t =>
    if t.txState h == txStaging || t.txState h == txDone || t.txState h == txRefused then t.freeHandle h else t

/-- The refusals of S3 and S4: every waiting and armed handle, every item ABORTED_FAULT (spec/01, R52). -/
def State.faultRefuse (s : State) : State := s.refuseHandles s.waitingHandles istatAbortedFault

/-- A counter's event is seen by armed handles that wait for it (spec/01, R36): it counts only once every shift has
ended. `sel` is 0 for the period event, 1 for compare A, 2 for compare B. -/
def State.counterEventTxn (s : State) (g sel : Nat) : State :=
  s.each allHandles fun h t =>
    if t.txState h == txArmed && t.fld (TXN_CTL_MODE h) == 1 && t.fld (TXN_CTL_EVGT h) == g &&
        t.fld (TXN_CTL_EVSEL h) == sel && (t.hnd h).shifting.isEmpty
    then t.setHnd h { t.hnd h with evSeen := true, noRet := true } else t

end Sys2Proof.Machine
end

