-- ==== Sys2Proof/Machine/CoreOps.lean ====
section
/-!
DEFINITION. Cores as the rest of the device sees them: lockstep pairs, release and reset (spec/11, R280, R299; spec/13,
R357; spec/15, R397), and the reset of an endpoint (spec/01, R25; spec/12, R320).
-/

namespace Sys2Proof.Machine

/-- The endpoint number of a core. -/
def coreEp : Master → Option Nat
  | .zc0 => some 1 | .zc1 => some 2 | .zc2 => some 3 | .zc3 => some 4 | .zs => some 5 | .zk => some 6
  | .host => none | .bsq => none

/-- The master of an endpoint number. -/
def epMaster : Nat → Master
  | 1 => .zc0 | 2 => .zc1 | 3 => .zc2 | 4 => .zc3 | 5 => .zs | 6 => .zk | 7 => .host | _ => .bsq

/-- A core of the last bootstrap's ENTRY record (spec/13, R347). -/
def State.entry (s : State) (e : Nat) : CoreEntry := tget {} s.cpu.entry e
def State.setEntry (s : State) (e : Nat) (x : CoreEntry) : State :=
  { s with cpu := { s.cpu with entry := tset {} s.cpu.entry e x } }

/-- The core is in reset, and its accesses that stall are gone. -/
def State.holdCore (s : State) (e : Nat) : State :=
  { s.setCore e {} with nv := { s.nv with stalled := s.nv.stalled.filter fun x => x.m != epMaster e } }

/-- PSR at release: monitor level, IE = 0 (spec/11, R284, R296). -/
def psrReset : BitVec 64 := 0x8000#64

/-- The core leaves reset as ENTRY says, unless its image does not release it (spec/13, R347, R357). -/
def State.releaseCore (s : State) (e : Nat) : State :=
  let x := s.entry e
  if x.used && s.coreHome e == e then
    s.setCore e
      { released := true, psr := psrReset, pc := x.pc, sp := tset 0 [] 2 x.sp, excM := { vbar := x.vbar }, ptbr := x.ptbr }
  else s

/-- A watchdog with EN = 1 starts (spec/15, R400). -/
def State.wdStart (s : State) (k : Nat) : State :=
  if s.flag (SYS_WD_CFG_EN k) then s.setWdog k { running := true, since := s.now } else s

/-- A reset of ZS closes the update session, and the mailbox words that the gate has taken are gone, that of a running
hand-over's ACTIVATE among them (spec/16, R425). -/
def State.monitorReset (s : State) : State :=
  let q := s.sec.queue.filter fun x => match x.src with
    | .net .. => true
    | .mbox .. => false
  { s.put SEC_GATE_QLEN q.length with
    sec := { s.sec with session := none, queue := q }
    hand := { s.hand with acks := 0, gone := s.hand.gone || (match s.hand.src with
      | .mbox .. => true
      | .net .. => false) } }

/-- The endpoint rules of a reset: handles, mailboxes and locks (spec/01, R25; spec/12, R320), and the monitor's. -/
def State.endpointReset (s : State) (e : Nat) : State :=
  ((s.txnOwnerReset e).mbxReset e).when (e == 5) State.monitorReset

/-- The cores a kind of bootstrap releases at its end (spec/13, R355): 1 WAKE, 3 RECOVERY; COLD and WARM release all. -/
def releasedBy (kind : Nat) : List Nat :=
  if kind == 3 then [1, 2, 3, 4] else if kind == 1 then [1, 2, 3, 4, 5] else [1, 2, 3, 4, 5, 6]

/-- The watchdogs that an owner's reset stopped start again at its release (spec/15, R400). -/
def State.wdRelease (s : State) (e : Nat) : State :=
  s.each (List.range 4) fun k t =>
    t.when ((t.wdog k).waitRelease && t.coreHome (t.fld (SYS_WD_CFG_OWNER k)) == e) fun u => u.wdStart k

/-- A core reset of one core or pair (spec/15, R397): the state of R357 with the last bootstrap's ENTRY; a core that a running
bootstrap is still to release stays in reset until then, and a wider reset in progress absorbs it (R398). -/
def State.coreResetRun (s : State) (e : Nat) : State :=
  let s := (s.endpointReset e).holdCore e
  if s.sys.por || s.sys.inReset || (s.bsq.running && (releasedBy (s.fld BSQ_STAT_KIND)).contains e) then s else (s.releaseCore e).wdRelease e

/-- Some core is released (spec/17, R442). -/
def State.anyReleased (s : State) : Bool := (List.range 6).any fun i => (s.core (i + 1)).released

/-- LED_MPTp and the registers of the stitch chains, which REGS writes at every bootstrap (spec/13, R355). -/
def isMatrixReg (a : Nat) : Bool := 0x40033000 ≤ a && a < 0x40033600
def isChainReg (a : Nat) : Bool := 0x40032000 ≤ a && a < 0x40033000

/-- The registers that lie in the blocks of the P-die (spec/15, R396). -/
def isPdieReg (a : Nat) : Bool :=
  (0x40010000 ≤ a && a < 0x40032000) || (0x40040000 ≤ a && a < 0x40060000) || (0x40150000 ≤ a && a < 0x40160000)

end Sys2Proof.Machine
end

