-- ==== Sys2Proof/Machine/EthOps.lean ====
section
/-!
DEFINITION. The external Ethernet ports (spec/09, R240, R241, R244): LINK, the egress queues with their credit-based shapers,
and PLCA on ETH2 and ETH3. Time runs in CK_PER cycles of 8 ns, one for each idle tick (log entry 2).
-/

namespace Sys2Proof.Machine

/-- CK_RC feeds the PLL, and Ethernet is stopped (spec/09, R260). -/
def State.degraded (s : State) : Bool := s.flag PMU_STAT_CLK_DEGRADED

/-- The NET domain runs. -/
def State.netRuns (s : State) : Bool := s.pstate ≤ 1 && s.netReadyDom

/-- The switch runs. -/
def State.eswRuns (s : State) : Bool := s.netRuns && s.flag ESW_CTL_EN && !s.degraded

/-! LINK (R241). -/

/-- PLCA is off on ETH2 and ETH3. -/
def State.plcaOff (s : State) (p : Nat) : Bool := !s.flag (ESW_PLCA_PLCA_EN p) || s.fld (ESW_PLCA_NODE p) == 0xFF

/-- LINK of a port: what the PHY or PLCA reports, and on ETH2 and ETH3 also 1 while PLCA is off; down on CK_RC, in reset and
without power (R241, R260). -/
def State.ethLink (s : State) (p : Nat) : Bool :=
  s.netRuns && !s.degraded && !s.sys.inReset && !s.sys.por &&
  (s.flag (ESW_PORT_STAT_LINK p) || (decide (2 ≤ p) && s.plcaOff p))

/-! Egress (R244). -/

def State.eport (s : State) (p : Nat) : EthPort := tget {} s.gwe.port p
def State.setEport (s : State) (p : Nat) (x : EthPort) : State :=
  { s with gwe := { s.gwe with port := tset {} s.gwe.port p x } }

def EthPort.q (x : EthPort) (k : Nat) : List EthSend := tget [] x.queue k
def EthPort.setQ (x : EthPort) (k : Nat) (l : List EthSend) : EthPort := { x with queue := tset [] x.queue k l }

/-- The egress queue of a frame. -/
def State.ethQueue (s : State) (pcp : Nat) (f : EthFrame) : Nat :=
  if f.etype == 0x88F7 then 3 else s.fld (ESW_PCPMAP_Q pcp)

/-- An external port takes frames: none while the switch or the port is off or the port has no link (log entry 78). -/
def State.portOpen (s : State) (p : Nat) : Bool :=
  s.flag ESW_CTL_EN && s.flag (ESW_PORT_CFG_PEN p) && s.ethLink p

/-- A payload filled up with zeros to a frame of 64 bytes (spec/09, R242). -/
def ethPad (tagged : Bool) (l : List Byte) : List Byte := l ++ List.replicate ((if tagged then 42 else 46) - l.length) 0

/-- A frame enters the egress queue of an external port, with the descriptor that waits for its time-stamp. -/
def State.ethOut (s : State) (p pcp : Nat) (f : EthFrame) (desc : Option Nat) : State :=
  if s.portOpen p then
    let k := s.ethQueue pcp f
    s.setEport p ((s.eport p).setQ k ((s.eport p).q k ++ [⟨f, desc⟩]))
  else s

/-! Transmit descriptors (R246, R247). -/

/-- Writes of a block master reach SRAM unchecked (spec/13, R329). -/
def State.dmaWrite (s : State) (a : Nat) (l : List Byte) : State := if region a == .sram then s.setBytes a l else s

/-- The size of a ring: below 2 acts as 2. -/
def ringSize (x : Nat) : Nat := max 2 x

/-- A transmit descriptor is returned with an ISTAT code and, where it asks for it, the time-stamp. -/
def State.txReturn (s : State) (d istat : Nat) (stamp : Option Nat) : State :=
  let w := s.word d
  let s := s.dmaWrite d (natLe 8 (bitsOf w 61 2 * 2 ^ 61 + istat * 2 ^ 57 + bitsOf w 0 57))
  let s := match stamp with
    | some t => s.dmaWrite (d + 8) (natLe 8 t)
    | none => s
  s.raiseBit ESW_IRQ_TXD

/-- The descriptors of a port that wait for their time-stamp. -/
def EthPort.waiting (x : EthPort) : List Nat :=
  (x.sfd.map (·.1)).toList ++ (List.range 4).flatMap fun k => (x.q k).filterMap (·.desc)

/-- The transmit descriptors that wait for the SFD of their frame. -/
def State.txWaiting (s : State) : List Nat := (List.range 4).flatMap fun p => (s.eport p).waiting

/-- The descriptors that wait on a port for the SFD of their frame are returned with an ISTAT code, and their frames go no
further. -/
def State.stampFail (s : State) (istat p : Nat) : State :=
  let x := s.eport p
  let t := s.setEport p { x with sfd := none, queue := x.queue.map fun e => (e.1, e.2.filter fun f => f.desc.isNone) }
  t.each x.waiting fun d u => u.txReturn d istat none

/-- The transmit descriptor at IDX. -/
def State.txDesc (s : State) : Nat := s.fld ESW_ITX_BASE + 16 * s.fld ESW_ITX_IDX

/-- The switch goes on to the next transmit descriptor. -/
def State.txAdvance (s : State) : State :=
  let idx := s.fld ESW_ITX_IDX
  s.put ESW_ITX_IDX (if idx + 1 < ringSize (s.fld ESW_ITX_SIZE) then idx + 1 else 0)

/-- The transmit descriptors held by the switch are returned ABORTED_RESET (spec/09, R247). One that cannot be read ends the walk
with its bus error (spec/13, R330; log entry 105). -/
def State.txAbort : Nat → State → State
  | 0, s => s
  | n + 1, s =>
    let r := s.sramRead
    if r.2 && (s.word s.txDesc).testBit 63 then
      State.txAbort n (r.1.txReturn s.txDesc istatAbortedReset none).txAdvance
    else r.1

/-- EN has been cleared: the descriptors that wait for their time-stamp and those of the ring are returned (spec/09, R247). -/
def State.switchOff (s : State) : State :=
  (s.each (List.range 4) fun p t => t.stampFail istatAbortedReset p).txAbort (ringSize (s.fld ESW_ITX_SIZE))

/-- A change of the device's state; each LINK that it changes sets LINKCHG, and one that falls raises FS216 + p (R241) and ends
the descriptors that wait on the port (R247). -/
def State.linkWatch (s : State) (f : State → State) : State :=
  let t := f s
  t.each ((List.range 4).filter fun p => s.ethLink p != t.ethLink p) fun p u =>
    (u.raiseBit ESW_IRQ_LINKCHG).when (s.ethLink p) fun x => (x.raiseL (216 + p)).stampFail istatAbortedFault p

/-- Every port loses its link (R260). -/
def State.linksDown (s : State) : State := s.each (List.range 4) fun p t => t.putB (ESW_PORT_STAT_LINK p) false

/-- The bytes of a frame in a descriptor's buffer. -/
def ethBytes (f : EthFrame) : List Byte :=
  let tag := match f.tag with
    | some (pcp, vid) => [0x81, 0x00] ++ natBe 2 (pcp.toNat * 8192 + vid.toNat)
    | none => []
  natBe 6 f.da.toNat ++ natBe 6 f.sa.toNat ++ tag ++ natBe 2 f.etype.toNat ++ f.payload

/-- The bytes of a frame on the wire, with its FCS. -/
def ethLen (f : EthFrame) : Nat := (ethBytes f).length + 4

/-- CK_PER cycles that a byte takes on a port: 1,000 or 10 Mbit/s (R240). -/
def byteCycles (p : Nat) : Nat := if p < 2 then 1 else 100

/-- CK_PER cycles that a frame takes, with its preamble of 8 bytes and the gap of 12 bytes after it (IEEE 802.3). -/
def frameCycles (p : Nat) (f : EthFrame) : Nat := (ethLen f + 20) * byteCycles p

/-- What a port carries in a CK_PER cycle, in 10⁻⁶ bits. -/
def portRate (p : Nat) : Int := if p < 2 then 8000000 else 80000

/-- idleSlope of Q1 or Q2 in 10⁻⁶ bits a CK_PER cycle: 64 kbit/s are 512; 0 leaves the queue unshaped. -/
def State.idleSlope (s : State) (p k : Nat) : Int :=
  match k with
  | 1 => 512 * s.fld (ESW_PORT_CFG_IDLEQ1 p)
  | 2 => 512 * s.fld (ESW_PORT_CFG_IDLEQ2 p)
  | _ => 0

/-- hiCredit and loCredit for a largest frame of 1,522 bytes (IEEE 802.1Qav), in 10⁻⁶ bits. -/
def hiCredit (p : Nat) (idle : Int) : Int := 12176000000 * idle / portRate p
def loCredit (p : Nat) (idle : Int) : Int := 12176000000 * (idle - portRate p) / portRate p

/-- The port holds a frame. -/
def EthPort.holds (x : EthPort) : Bool := (List.range 4).any fun k => !(x.q k).isEmpty

/-- The credit of a shaped queue after a CK_PER cycle (IEEE 802.1Q, 8.6.8.2): it falls while the queue sends; it grows
while frames of the queue wait or it is below 0, on ETH2 and ETH3 only while the port holds a frame; an empty queue
keeps none above 0. -/
def State.creditNext (s : State) (p k : Nat) (x : EthPort) : Int :=
  let idle := s.idleSlope p k
  let c := tget 0 x.credit k
  if idle = 0 then 0
  else if x.serving == some k then max (loCredit p idle) (c + idle - portRate p)
  else if 2 ≤ p && !x.holds then min c 0
  else if (x.q k).isEmpty then (if c < 0 then min 0 (c + idle) else 0)
  else min (hiCredit p idle) (c + idle)

/-- The queue that sends next: strict priority, a shaped queue only with no credit owed. -/
def State.ethServe (s : State) (p : Nat) (x : EthPort) : Option Nat :=
  [3, 2, 1, 0].find? fun k => !(x.q k).isEmpty && (s.idleSlope p k == 0 || decide (0 ≤ tget 0 x.credit k))

/-- PLCA runs on the port. -/
def State.plcaRuns (s : State) (p : Nat) : Bool := decide (2 ≤ p) && !s.plcaOff p

/-- The port may begin a frame: at once, or under PLCA in its own transmit opportunity, which takes one frame and BURST more
(R241; IEEE 802.3cg clause 148). -/
def State.maySend (s : State) (p : Nat) (x : EthPort) : Bool :=
  !s.plcaRuns p || (x.opp == s.fld (ESW_PLCA_NODE p) && x.oppSent ≤ s.fld (ESW_PLCA_BURST p))

/-- A transmit opportunity passes: it lasts TO_TIMER bit times of 100 ns. After that of the last node the next cycle
begins, with the BEACON of node 0 (R241). The other nodes send nothing that the model sees: their opportunities end
unused (log entry 91). -/
def State.plcaNext (s : State) (p : Nat) : State :=
  let x := s.eport p
  if 0 < x.oppLeft then s.setEport p { x with oppLeft := x.oppLeft - 1 }
  else
    let last := s.fld (ESW_PLCA_COUNT p) ≤ x.opp + 1
    let s := s.when (last && s.fld (ESW_PLCA_NODE p) == 0) fun t => t.send (.beacon p)
    s.setEport p { x with
      opp := if last then 0 else x.opp + 1, oppLeft := s.fld (ESW_PLCA_TO_TIMER p) * 25 / 2, oppSent := 0 }

/-- The port begins the frame at the head of a queue; its SFD ends with the eighth byte (R246). -/
def State.ethBegin (s : State) (p k : Nat) : State :=
  let x := s.eport p
  match x.q k with
  | [] => s
  | f :: rest =>
    (s.setEport p { x.setQ k rest with
      busy := frameCycles p f.frame, serving := some k, oppSent := x.oppSent + 1
      sfd := f.desc.map fun d => (d, 8 * byteCycles p) }).send (.eth p k f.frame)

/-- The SFD of the frame being sent comes a cycle nearer; at its end the descriptor is returned with NTU_EXT (R246). -/
def State.sfdTick (s : State) (p : Nat) : State :=
  let x := s.eport p
  match x.sfd with
  | none => s
  | some (d, n) =>
    if 1 < n then s.setEport p { x with sfd := some (d, n - 1) }
    else (s.setEport p { x with sfd := none }).txReturn d 0 (some (s.reg NTU_EXT).toNat)

/-- Node 0 sends its BEACONs also while PLCA status is not yet OK, and so the port has no link (R241). -/
def State.plcaBeacons (s : State) (p : Nat) : Bool :=
  s.plcaRuns p && s.fld (ESW_PLCA_NODE p) == 0 && s.flag (ESW_PORT_CFG_PEN p) && !s.sys.inReset && !s.sys.por

/-- A CK_PER cycle of an external port. -/
def State.ethPortTick (s : State) (p : Nat) : State :=
  let s := s.sfdTick p
  let x := s.eport p
  let x := { x with credit := tset 0 (tset 0 x.credit 1 (s.creditNext p 1 x)) 2 (s.creditNext p 2 x) }
  let s := s.setEport p { x with busy := x.busy - 1, serving := if x.busy ≤ 1 then none else x.serving }
  if 1 < x.busy then s
  else if !s.portOpen p then s.when (s.plcaBeacons p) fun t => t.plcaNext p
  else
    match s.ethServe p (s.eport p) with
    | some k => if s.maySend p (s.eport p) then s.ethBegin p k else s.plcaNext p
    | none => s.when (s.plcaRuns p) fun t => t.plcaNext p

/-- A CK_PER cycle of the external ports. -/
def State.ethTick (s : State) : State :=
  if s.eswRuns then s.each (List.range 4) fun p t => t.ethPortTick p else s

end Sys2Proof.Machine
end

