-- ==== Sys2Proof/Machine/GtOps.lean ====
section
/-!
DEFINITION. The counters and the network time unit (spec/07): ticks, events, actions, output, captures, the CK_NET
edge, and how HOLD and PARK stop and resume them.
-/

namespace Sys2Proof.Machine

/-! Counters. -/

def State.gtCount (s : State) (g : Nat) : BitVec 64 := s.reg (GT_CNT g)
def State.gtRuns (s : State) (g : Nat) : Bool := s.flag (GT_STAT_RUN g)

/-- PER_eff of a period (spec/07, R190). -/
def perEff (p : BitVec 64) : Nat := if p.toNat == 0 then 2 ^ 64 else p.toNat

/-- The level a counter's output takes from its count (spec/07, R192); OUTMODE 0x2 keeps its level. -/
def State.gtLevel (s : State) (g : Nat) : Bool :=
  let n := (s.gtCount g).toNat
  let c := s.ctr g
  match s.fld (GT_CFG_OUTMODE g) with
  | 0 => decide (n < c.cmpA.toNat)
  | 1 => decide (c.cmpA.toNat ≤ n) && decide (n < c.cmpB.toNat)
  | 2 => s.flag (GT_STAT_OUT g)
  | _ => false

/-- The CK_PWR edge that takes a level set now: the first at or after its arrival at the P-die 64 ns later (spec/02, R59). -/
def State.ctrDue (s : State) : Nat := s.now + 8 + s.now % 2

/-- Set a counter's output level, which sets out for the P-die; one that would be taken on the same CK_PWR edge is missed
(spec/07, R192; spec/02, R59). -/
def State.gtOut (s : State) (g : Nat) (level : Bool) : State :=
  if s.flag (GT_STAT_OUT g) == level then s
  else
    let s := s.putB (GT_STAT_OUT g) level
    let wait := s.hsw.ctrIn.filter fun x => !(x.ctr == g && x.due == s.ctrDue)
    { s with hsw := { s.hsw with ctrIn := wait ++ [⟨g, level, s.ctrDue⟩] } }

/-- The output is recomputed. -/
def State.gtRecompute (s : State) (g : Nat) : State := s.gtOut g (s.gtLevel g)

/-- A stopped counter keeps the level that matches its count (spec/07, R192; log entry 77). -/
def State.gtMatch (s : State) (g : Nat) : State := if s.gtRuns g then s else s.gtRecompute g

/-- The actions of one event byte of GTn_ACT (spec/07, GTn_ACT): SELF and LNK. -/
def actSelf (b : Nat) : Nat := b / 2 % 4
def actLink (b : Nat) : Nat := b / 8 % 4

/-- The action byte of an event: 0 period, 1 compare A, 2 compare B. -/
def State.gtAct (s : State) (g e : Nat) : Nat :=
  match e with
  | 0 => s.fld (GT_ACT_PACT g)
  | 1 => s.fld (GT_ACT_AACT g)
  | _ => s.fld (GT_ACT_BACT g)

/-- The flag of an event. -/
def gtFlag (g e : Nat) : Fld :=
  match e with
  | 0 => GT_STAT_PF g
  | 1 => GT_STAT_AF g
  | _ => GT_STAT_BF g

/-- An event occurs: its flag, its LNK action for the next edge, and the consumers of R208 (spec/07, R191, R194,
R196; spec/01, R36; spec/03, R89). -/
def State.gtEvent (s : State) (g e : Nat) : State :=
  let s := s.raiseBit (gtFlag g e)
  let l := actLink (s.gtAct g e)
  let k := s.fld (GT_CFG_LINK g)
  let s := if l == 0 then s else s.setCtr k { s.ctr k with lnk := (s.ctr k).lnk ++ [l] }
  let s := s.each (List.range 4) fun a t =>
    if t.fld (PDI_SACFG_TRIG a) == 2 && t.fld (PDI_SACFG_EVGT a) == g && t.fld (PDI_SACFG_EVSEL a) == e then
      t.setAdc a { t.adc a with event := true }
    else t
  let s := if e == 0 then
      s.each ((List.range 32).filter fun c => s.fld (GT_CFG_CAPSRC c) == 0x20 + g) fun c t =>
        t.setCtr c { t.ctr c with capDue := true }
    else s
  s.counterEventTxn g e

/-- The next tick of a counter is its period event (spec/07, R190, R195): the count is PER_eff − 1, or a new period at
or below it came into force while the counter ran. -/
def State.gtWraps (s : State) (g : Nat) : Bool :=
  (s.ctr g).wrapNext || decide (perEff (s.ctr g).per = (s.gtCount g).toNat + 1)

/-- The compares and period written last come into force (spec/07, R195). -/
def State.gtLoad (s : State) (g : Nat) : State :=
  s.setCtr g { s.ctr g with per := s.reg (GT_PER g), cmpA := s.reg (GT_CMPA g), cmpB := s.reg (GT_CMPB g), wrapNext := false }

/-- The count after the next tick. -/
def State.gtNext (s : State) (g : Nat) : BitVec 64 := if s.gtWraps g then 0 else s.gtCount g + 1

/-- The compare that a tick to count `n` meets (spec/07, R191). -/
def cmpHit (cmp per : BitVec 64) (n : BitVec 64) : Bool := n == cmp && decide (cmp.toNat < perEff per)

/-- The events of the next tick, in order: 0 period, 1 compare A, 2 compare B (spec/07, R191, R195). -/
def State.gtTickEvents (s : State) (g : Nat) : List Nat :=
  let w := s.gtWraps g
  let t := if w then s.gtLoad g else s
  let c := t.ctr g
  let n := s.gtNext g
  (if w then [0] else []) ++ (if cmpHit c.cmpA c.per n then [1] else []) ++ (if cmpHit c.cmpB c.per n then [2] else [])

/-- A tick: the count, the shadow loads, the output and the events (spec/07, R190–R192, R195). -/
def State.gtTick (s : State) (g : Nat) : State :=
  let evs := s.gtTickEvents g
  let w := s.gtWraps g
  let n := s.gtNext g
  let s := if w then s.gtLoad g else s
  let s := s.setReg (GT_CNT g) n
  let s := if s.fld (GT_CFG_OUTMODE g) == 2 then (if w then s.gtOut g (!s.flag (GT_STAT_OUT g)) else s) else s.gtRecompute g
  s.each evs fun e t => t.gtEvent g e

/-- The requests that reach a counter on one edge combine (spec/07, R193): actions coded 1 start, 2 reset, 3 stop. -/
def State.gtApply (s : State) (g : Nat) (acts : List Nat) : State :=
  let s := if acts.contains 2 then
      let s := (s.setReg (GT_CNT g) 0).setCtr g { s.ctr g with psc := 0, wrapNext := false }
      if s.fld (GT_CFG_OUTMODE g) == 2 then s.gtOut g false else s.gtRecompute g
    else s
  if acts.contains 3 then s.putB (GT_STAT_RUN g) false
  else if acts.contains 1 && !s.gtRuns g then
    (s.raiseBit (GT_STAT_RUN g)).setCtr g { s.ctr g with psc := 0 }
  else s

/-- The SELF actions of a list of events. -/
def State.gtSelf (s : State) (g : Nat) (evs : List Nat) : List Nat := evs.map fun e => actSelf (s.gtAct g e)

/-- A capture into the pending slot: OVERRUN when it was full (spec/07, R197). -/
def State.gtCapture (s : State) (g : Nat) : State :=
  let s := if s.flag (GT_STAT_CAPF g) then s.raiseBit (GT_STAT_OVERRUN g) else s.raiseBit (GT_STAT_CAPF g)
  s.setCtr g { s.ctr g with slot := s.gtCount g }

/-- The counter's next CK_PER edge is a tick. -/
def State.gtTickDue (s : State) (g : Nat) : Bool := s.gtRuns g && (s.ctr g).psc == s.fld (GT_CFG_PSC g)

/-- What waits for a counter's next CK_PER edge: commands of software, LNK and TACT actions, and a capture (spec/07, R193, R194,
R196). -/
structure GtDue where
  acts : List Nat
  cap : Bool

def State.gtDue (s : State) (g : Nat) : GtDue := ⟨(s.ctr g).sw ++ (s.ctr g).lnk ++ (s.ctr g).tact, (s.ctr g).capDue⟩

/-- What waits is taken up by the edge. -/
def State.gtTake (s : State) (g : Nat) : State := s.setCtr g { s.ctr g with sw := [], lnk := [], tact := [], capDue := false }

/-- A command of software waits for the counter's first CK_PER edge, on which it combines with the other requests of that edge
(spec/07, R190, R193). -/
def State.gtRequest (s : State) (g : Nat) (acts : List Nat) : State :=
  s.setCtr g { s.ctr g with sw := (s.ctr g).sw ++ acts }

/-- CAPNOW captures on that edge too, after its tick (spec/07, R196). -/
def State.gtCapNow (s : State) (g : Nat) : State := s.setCtr g { s.ctr g with capDue := true }

/-- A counter's CK_PER edge (spec/07, R190–R196): the tick with its events first, then the requests of the edge
together, SELF actions among them, then a capture. -/
def State.gtEdgeWith (s : State) (g : Nat) (w : GtDue) : State :=
  let c := s.ctr g
  let tick := s.gtTickDue g
  let acts := (if tick then s.gtSelf g (s.gtTickEvents g) else []) ++ w.acts
  let s :=
    if tick then (s.setCtr g { c with psc := 0 }).gtTick g
    else if s.gtRuns g then s.setCtr g { c with psc := (c.psc + 1) % 65536 }
    else s
  (s.gtApply g acts).when w.cap fun t => t.gtCapture g

/-- The next CK_PER edge of one counter. -/
def State.gtEdge (s : State) (g : Nat) : State := (s.gtTake g).gtEdgeWith g (s.gtDue g)

/-- The CK_PER edge of every counter (spec/07, R190–R196): what its events leave for other counters waits for their next
one. -/
def State.gtEdgeAll (s : State) : State :=
  let due := (List.range 32).map s.gtDue
  let s := s.each (List.range 32) fun g t => t.gtTake g
  s.each (List.range 32) fun g t => t.gtEdgeWith g (due.getD g ⟨[], false⟩)

/-- Entry to HOLD or PARK: every counter stops on one edge and its outputs are unavailable (spec/07, R192, R199). -/
def State.gtStopAll (s : State) : State :=
  let s := s.each (List.range 32) fun g t =>
    (t.setCtr g { t.ctr g with resume := t.gtRuns g }).putB (GT_STAT_RUN g) false
  { s with gtAvail := false }

/-- E CK_PER cycles are added to a counter's prescaler and count (spec/07, R199). -/
def State.gtMakeUp (s : State) (g e : Nat) : State :=
  let c := s.ctr g
  let d := s.fld (GT_CFG_PSC g) + 1
  let ticks := (c.psc + e) / d
  let psc := (c.psc + e) % d
  let n := (s.gtCount g).toNat
  let old := perEff c.per
  let first := if c.wrapNext then 1 else if old ≤ n then 2 ^ 64 - n + old else old - n
  let s := s.setCtr g { c with psc := psc }
  let res :=
    if ticks < first then (s.setReg (GT_CNT g) (BitVec.ofNat 64 (n + ticks)), 0)
    else
      let t := s.gtLoad g
      let left := ticks - first
      let p := perEff (t.ctr g).per
      (t.setReg (GT_CNT g) (BitVec.ofNat 64 (left % p)), 1 + left / p)
  let s := res.1.put (GT_STAT_MKWRAPS g) (min 65535 res.2)
  s.gtRecompute g

/-- Return to RUN after `n` CK_SLOW cycles: the counters that ran resume, those with MAKEUP = 1 advanced (spec/07,
R199). -/
def State.gtResumeAll (s : State) (n : Nat) : State :=
  s.each (List.range 32) fun g t =>
    if (t.ctr g).resume then
      let t := t.when (t.flag (GT_CFG_MAKEUP g)) fun u => u.gtMakeUp g (n * 1953125 / 512)
      (t.raiseBit (GT_STAT_RUN g)).setCtr g { t.ctr g with resume := false }
    else t

/-- Counter outputs become available or unavailable to the P-die (spec/07, R192). -/
def State.setGtAvail (s : State) (b : Bool) : State := { s with gtAvail := b }.hswEvalAll

/-! Network time. -/

/-- NTU_EXT. -/
def State.ntuExt (s : State) : BitVec 64 := s.reg NTU_EXT

/-- The extended time set; WRAP when WRAPS changes (spec/07, R200). -/
def State.setNtuExt (s : State) (v : BitVec 64) : State :=
  let changed := decide (s.ntuExt.toNat / 2 ^ 32 ≠ v.toNat / 2 ^ 32)
  (s.setReg NTU_EXT v).when changed fun t => t.raiseBit NTU_STAT_WRAP

/-- INC as it acts (spec/07, R201), in 2⁻³² ns. -/
def State.ntuInc (s : State) : Nat :=
  max 0x3F0000000 (min 0x410000000 (s.fld NTU_INC_INT * 2 ^ 32 + s.fld NTU_INC_FRAC))

/-- ADJ_LEFT shows the slew left, rounded away from zero to whole nanoseconds (spec/07, R202). -/
def State.setSlew (s : State) (x : Int) : State :=
  let ns : Int := if 0 ≤ x then (x + 15) / 16 else -((-x + 15) / 16)
  { (s.put NTU_STAT_ADJ_LEFT (unsgn 32 ns)) with ntu := { s.ntu with slew := x } }

/-- One of the timed waits that bar a step (spec/07, R202). -/
def State.timedWait (s : State) : Bool :=
  allHandles.any (fun h => s.txState h == txArmed && 2 ≤ s.fld (TXN_CTL_MODE h)) ||
  (List.range 4).any (fun a => s.fld (PDI_SACFG_TRIG a) == 3 && (s.adc a).armed) ||
  (List.range 4).any (fun k => s.flag (NTU_TRG_CFG_ARM k))

/-- A CK_NET edge (spec/07, R200–R202): the time advances by INC and one slew part, and a step that waits is applied
or refused. -/
def State.ntuEdge (s : State) : State :=
  let applied := s.ntu.step.isSome && !s.timedWait
  let d : Int := if applied || s.ntu.slew = 0 then 0 else if 0 < s.ntu.slew then 1 else -1
  let total := ((s.ntu.frac : Int) + s.ntuInc + d * 2 ^ 28).toNat
  let t : State := { s with ntu := { s.ntu with frac := total % 2 ^ 32, step := none } }
  let ext := s.ntuExt + BitVec.ofNat 64 (total / 2 ^ 32)
  match s.ntu.step with
  | none => (t.setSlew (s.ntu.slew - d)).setNtuExt ext
  | some off =>
    if !applied then ((t.setSlew (s.ntu.slew - d)).setNtuExt ext).raiseBit NTU_STAT_ADJ_REFUSED
    else ((t.setSlew 0).setNtuExt (ext + BitVec.ofInt 64 off)).raiseBit NTU_STAT_STEPPED

/-- SYNC is cleared by the device (spec/07, R203). -/
def State.clearSync (s : State) : State := s.putB NTU_SYNC_SYNC false

/-- On return from HOLD or PARK the extended time is advanced by the CK_SLOW cycles that passed (spec/07, R209). -/
def State.ntuWake (s : State) (n : Nat) : State :=
  (s.setNtuExt (s.ntuExt + BitVec.ofNat 64 (n * 1953125 / 64))).clearSync

/-- Entry to HOLD or PARK disarms the triggers (spec/07, R209). -/
def State.ntuDisarm (s : State) : State :=
  let s := s.each (List.range 4) fun k t => t.putB (NTU_TRG_CFG_ARM k) false
  { s with ntu := { s.ntu with pulse := [] } }

/-- The value in NTU_NS has reached or passed a time (spec/01, R37). -/
def State.reached (s : State) (t : Nat) : Bool :=
  let d := (t + 2 ^ 32 - s.ntuNs) % 2 ^ 32
  d == 0 || decide (2 ^ 31 ≤ d)

/-- A capture of the extended time (spec/07, R205, R197). -/
def State.ntuCapture (s : State) (k : Nat) : State :=
  let full := s.flag (NTU_CAPSTAT_CAPF.bit k)
  let s := if full then s.raiseBit (NTU_CAPSTAT_OVERRUN.bit k) else s.raiseBit (NTU_CAPSTAT_CAPF.bit k)
  { s with ntu := { s.ntu with slot := tset 0 s.ntu.slot k s.ntuExt } }

/-- The level of TS_OUTk (spec/07, R206). -/
def State.tsOut (s : State) (k : Nat) : Bool :=
  (s.flag (NTU_TRG_CFG_OE k) && (tget none s.ntu.pulse k).isSome) != s.flag (NTU_TRG_CFG_POL k)

end Sys2Proof.Machine
end

