-- ==== Sys2Proof/Machine/CanOps.lean ====
section
/-!
DEFINITION. The CAN channels (spec/08, R210–R222, R236): modes, message RAM, filters and reception, transmit requests,
attempts, error states and the tack window. Buffer 128 is the express buffer.
-/

namespace Sys2Proof.Machine

def State.cn (s : State) (n : Nat) : CanChan := tget {} s.can n
def State.setCn (s : State) (n : Nat) (x : CanChan) : State := { s with can := tset {} s.can n x }

/-- The modes of R212; codes above 4 act as OFF. -/
def canOff : Nat := 0
def canActive : Nat := 1
def canListen : Nat := 2
def canAbd : Nat := 3
def canPnSleep : Nat := 4
def canModeOf (x : Nat) : Nat := if x ≤ 4 then x else 0

/-- CANn_STAT.STATE from the mode in force (spec/08, CANn_STAT). -/
def CanChan.state (c : CanChan) : Nat :=
  match c.mode with
  | 1 => if c.busOff then 6 else if c.tack || c.fault then 1 else 2
  | 2 => 3
  | 3 => 4
  | 4 => 5
  | _ => 0

/-- STATE and FROZEN follow the channel (spec/08, R229). -/
def State.canShow (s : State) (n : Nat) : State :=
  (s.put (CAN_STAT_STATE n) (s.cn n).state).putB (CAN_STAT_FROZEN n) ((s.cn n).mode == canPnSleep)

/-! Requests. -/

/-- A buffer's request is PENDING. -/
def State.canPending (s : State) (n k : Nat) : Bool := s.fld (CAN_MB_CTL_ISTAT n k) == istatPending

/-- The PENDING buffers of a channel, lowest first. -/
def State.canPendings (s : State) (n : Nat) : List Nat := (List.range 128).filter (s.canPending n)

/-- A request gets a code; a final code sets TXDONE when IE = 1 (spec/08, R220). -/
def State.canEnd (s : State) (n k code : Nat) : State :=
  let s := s.put (CAN_MB_CTL_ISTAT n k) code
  let s := s.setCn n { s.cn n with fails := tset 0 (s.cn n).fails k 0, late := (s.cn n).late.filter (· != k) }
  s.when (s.flag (CAN_MB_CTL_IE n k)) fun t => t.raiseBit (CAN_IRQ_TXDONE n)

/-- Every PENDING request ends with a code, and the attempt in progress is given up. -/
def State.canEndAll (s : State) (n code : Nat) : State :=
  let s := s.each (s.canPendings n) fun k t => t.canEnd n k code
  s.setCn n { s.cn n with tx := none }

/-! Modes. -/

/-- A mode comes into force (spec/08, R212, R229, R236): leaving ACTIVE ends the requests and empties the gateway queue
(R254); entering ACTIVE from OFF opens the tack window; ABD starts at candidate 0 (R215). -/
def State.canSetMode (s : State) (n mode : Nat) : State :=
  let old := (s.cn n).mode
  let s :=
    if old == canActive && mode != canActive then
      let s := s.canEndAll n istatAbortedReset
      s.setCn n { s.cn n with gwQueue := [], gwFails := 0, gwNotes := [], noteFails := 0, tack := false }
    else s
  let c := s.cn n
  let c := { c with mode := mode, cand := if mode == canAbd && old != canAbd then 0 else c.cand }
  let c := if mode == canActive && old == canOff then { c with tack := true } else c
  (s.setCn n c).canShow n

/-- A channel put into a mode by hardware, which MODE then shows (spec/08, R215, R229, R234, R235). -/
def State.canForce (s : State) (n mode : Nat) : State := (s.put (CAN_CTL_MODE n) mode).canSetMode n mode

/-- A write that only the channel owner may make (spec/08, R212). -/
def State.canOwned (s : State) (m : Master) (n : Nat) (f : State → State) : State :=
  if ownerOk (s.canOwner n) m then f s else s.raiseBit (CAN_IRQ_CFG_VIOL n)

/-- A write of MODE (spec/08, R212; spec/13, R343 for a channel without message RAM). -/
def State.canModeWrite (s : State) (n mode : Nat) : State :=
  if s.fld (CAN_MRAM_SIZE n) == 0 && canModeOf mode != canOff then s.raiseBit (CAN_IRQ_CFG_VIOL n)
  else s.put (CAN_CTL_MODE n) mode

/-! Message RAM (spec/08, R216). -/

/-- A coded PSIZE in bytes. -/
def psizeBytes (c : Nat) : Nat := match c with | 0 => 8 | 1 => 64 | 2 => 512 | _ => 2048

/-- The bytes of a payload area. -/
def areaBytes (c : Nat) : Nat := (psizeBytes c + 16 + 63) / 64 * 64

def State.canPsize (s : State) (n k : Nat) : Nat :=
  if k == 128 then s.fld (CAN_EXCTL_PSIZE n) else s.fld (CAN_MB_CTL_PSIZE n k)

/-- The address of a buffer's area. -/
def State.canArea (s : State) (n k : Nat) : Nat :=
  (List.range k).foldl (fun a j => a + areaBytes (s.canPsize n j)) (s.fld (CAN_MRAM_BASE n))

/-- The header words of R216; LEN of a remote frame is the length that its DLC asks for (log entry 89). -/
def canHeader (f : CanFrame) : Nat × Nat :=
  if f.rtr then (min 8 f.dlc.toNat, 0)
  else if f.fmt == 3 then
    (f.data.length + f.sdt.toNat * 2 ^ 16 + (if f.sec then 2 ^ 24 else 0) + f.vcid.toNat * 2 ^ 32, f.af.toNat)
  else (f.data.length, 0)

/-- Header and data put at an address, data beyond `size` dropped (spec/08, R216, R218). -/
def State.putFrame (s : State) (a size : Nat) (f : CanFrame) : State :=
  let h := canHeader f
  ((s.setWord a h.1).setWord (a + 8) h.2).setBytes (a + 16) (f.data.take size)

/-! Reception (spec/08, R217, R218). -/

/-- A filter's fields: ID, MASK, IDE, FMT. -/
def filterMatches (id mask ide fmt : Nat) (f : CanFrame) : Bool :=
  (f.id.toNat ^^^ id) &&& mask == 0 && (ide == 1) == f.ide && (fmt == 0 || fmt == f.fmt.toNat)

/-- A receive buffer's filter matches. -/
def State.canMatches (s : State) (n k : Nat) (f : CanFrame) : Bool :=
  s.fld (CAN_MB_CTL_DIR n k) == 1 &&
  filterMatches (s.fld (CAN_MB_ID_ID n k)) (s.fld (CAN_MB_ID_MASK n k)) (s.fld (CAN_MB_ID_IDE n k)) (s.fld (CAN_MB_ID_FMT n k)) f

/-- A frame stored in a buffer. -/
def State.canStoreAt (s : State) (n k : Nat) (f : CanFrame) (stamp : Nat) : State :=
  let size := psizeBytes (s.canPsize n k)
  let s := s.when (s.fld (CAN_MRAM_SIZE n) != 0) fun t => t.putFrame (t.canArea n k) size f
  let full := s.flag (CAN_MB_CTL_FULL n k)
  let s := (s.putB (CAN_MB_ID_RTR n k) f.rtr).raiseBit (CAN_MB_CTL_FULL n k)
  let s := (s.incWrap (CAN_MB_CTL_SEQ n k)).put (CAN_MB_CTL_STAMP n k) stamp
  let s := s.when full fun t => t.raiseBit (CAN_MB_CTL_OVR n k)
  let s := s.when (decide (size < f.data.length)) fun t => t.raiseBit (CAN_MB_CTL_TRUNC n k)
  s.when (s.flag (CAN_MB_CTL_IE n k)) fun t => t.raiseBit (CAN_IRQ_RXF n)

/-- A frame stored in the express buffer. -/
def State.canStoreExpress (s : State) (n : Nat) (f : CanFrame) (stamp : Nat) : State :=
  let size := psizeBytes (s.canPsize n 128)
  let s := s.when (s.fld (CAN_MRAM_SIZE n) != 0) fun t => t.putFrame (t.canArea n 128) size f
  let full := s.flag (CAN_EXCTL_FULL n)
  let s := (s.putB (CAN_EXID_RTR n) f.rtr).raiseBit (CAN_EXCTL_FULL n)
  let s := (s.incWrap (CAN_EXCTL_SEQ n)).put (CAN_EXCTL_STAMP n) stamp
  let s := s.when full fun t => t.raiseBit (CAN_EXCTL_OVR n)
  (s.when (decide (size < f.data.length)) fun t => t.raiseBit (CAN_EXCTL_TRUNC n)).raiseBit (CAN_IRQ_EXRX n)

/-- The express filter is on and matches. -/
def State.canExpress (s : State) (n : Nat) (f : CanFrame) : Bool :=
  s.flag (CAN_EXCTL_EXEN n) &&
  filterMatches (s.fld (CAN_EXID_ID n)) (s.fld (CAN_EXID_MASK n)) (s.fld (CAN_EXID_IDE n)) (s.fld (CAN_EXID_FMT n)) f

/-- A frame stored in the first place that applies (spec/08, R217). -/
def State.canStore (s : State) (n : Nat) (f : CanFrame) (stamp : Nat) : State :=
  if s.canExpress n f then s.canStoreExpress n f stamp
  else
    let ks := (List.range 128).filter fun k => s.canMatches n k f
    match ks.find? fun k => !s.flag (CAN_MB_CTL_FULL n k) with
    | some k => s.canStoreAt n k f stamp
    | none =>
      match ks.find? fun k => s.flag (CAN_MB_CTL_OVW n k) with
      | some k => s.canStoreAt n k f stamp
      | none => s.incSat (CAN_STAT_LOST n)

/-! Transmission (spec/08, R219–R221, R238, R254). -/

/-- The next valid payload length of a frame type, if there is one (ISO 11898-1; CiA 610-1). -/
def padLen (fmt len : Nat) : Option Nat :=
  match fmt with
  | 1 => if len ≤ 8 then some len else none
  | 2 => [0, 1, 2, 3, 4, 5, 6, 7, 8, 12, 16, 20, 24, 32, 48, 64].find? (len ≤ ·)
  | _ => if len ≤ 2048 then some (max 1 len) else none

/-- The frame type a transmit buffer names, 0x0 acting as 0x1. -/
def State.canTxFmt (s : State) (n k : Nat) : Nat := max 1 (s.fld (CAN_MB_ID_FMT n k))

/-- LEN of a buffer's header. -/
def State.canLen (s : State) (n k : Nat) : Nat := bitsOf (s.word (s.canArea n k)) 0 12

/-- The channel receives and stores frames (R212, R217, R238). -/
def CanChan.receives (c : CanChan) : Bool := (c.mode == canActive && !c.busOff) || c.mode == canListen || c.mode == canAbd

/-- Data padded with 0xCC. -/
def padData (l : List Byte) (len : Nat) : List Byte := l ++ List.replicate (len - l.length) 0xCC

/-- The frame a buffer sends, read at its start of frame (spec/08, R211, R219): a remote frame with the DLC of LEN, an
FD frame with ESI of an error-passive channel. -/
def State.canFrameOf (s : State) (n k : Nat) : CanFrame :=
  let a := s.canArea n k
  let fmt := s.canTxFmt n k
  let w0 := s.word a
  let len := bitsOf w0 0 12
  let rtr := fmt == 1 && s.flag (CAN_MB_ID_RTR n k)
  let xl := fmt == 3
  let sent := (padLen fmt len).getD len
  { fmt := BitVec.ofNat 2 fmt
    ide := !xl && s.flag (CAN_MB_ID_IDE n k)
    rtr := rtr
    brs := fmt == 2 && s.flag (CAN_MB_ID_BRS n k)
    id := BitVec.ofNat 29 (s.fld (CAN_MB_ID_ID n k))
    sdt := BitVec.ofNat 8 (if xl then bitsOf w0 16 8 else 0)
    sec := xl && w0.testBit 24
    vcid := BitVec.ofNat 8 (if xl then bitsOf w0 32 8 else 0)
    af := BitVec.ofNat 32 (if xl then s.word (a + 8) else 0)
    data := if rtr then [] else padData (s.bytes (a + 16) len) sent
    dlc := BitVec.ofNat 4 (dlcOf fmt sent)
    esi := fmt == 2 && s.flag (CAN_STAT_EPASS n) }

/-- A frame whose buffer is read with an uncorrectable error: the data sent are free values (spec/13, R330; log entry 96). -/
def State.canDamage (s : State) (f : CanFrame) (e : MemErr) : State × CanFrame :=
  if e != .double then (s, f)
  else
    (s.drawn f.data.length,
      { f with data := (List.range f.data.length).map fun i => (Config.freeWord (s.freeCtr + i)).truncate 8 })

/-- The bits of the arbitration field as a number; the lower one wins (ISO 11898-1). -/
def arbKey (f : CanFrame) : Nat :=
  let rtr := if f.rtr then 1 else 0
  if f.ide then f.id.toNat / 2 ^ 18 * 2 ^ 21 + 2 ^ 20 + 2 ^ 19 + f.id.toNat % 2 ^ 18 * 2 + rtr
  else f.id.toNat % 2 ^ 11 * 2 ^ 21 + rtr * 2 ^ 20

/-- The frame that takes part for the gateway: a notice goes ahead of every frame of the queue (spec/09, R254, R258). -/
def CanChan.gwHead (c : CanChan) : Option CanFrame := (c.gwNotes ++ c.gwQueue).head?

/-- The request whose frame wins arbitration: its buffer, or none for the gateway's head, which loses ties (spec/08, R219;
spec/09, R254). -/
def State.canPick (s : State) (n : Nat) : Option (Option Nat × CanFrame) :=
  let own := (s.canPendings n).foldl (fun (m : Option (Nat × CanFrame)) k =>
    let f := s.canFrameOf n k
    match m with
    | none => some (k, f)
    | some y => if arbKey f < arbKey y.2 then some (k, f) else m) none
  match own, (s.cn n).gwHead with
  | none, none => none
  | none, some g => some (none, g)
  | some x, none => some (some x.1, x.2)
  | some x, some g => if arbKey g < arbKey x.2 then some (none, g) else some (some x.1, x.2)

/-- The channel may begin a frame (spec/08, R222, R236). -/
def CanChan.canSend (c : CanChan) : Bool := c.mode == canActive && !c.tack && !c.fault && !c.busOff && c.tx.isNone

/-- A TXREQ (spec/08, R219, R238); `e` is what the ECC of the word with LEN finds, and a length that cannot be read is free
(spec/13, R330; log entry 105). -/
def State.canTxreq (s : State) (n k : Nat) (e : MemErr) : State :=
  let c := s.cn n
  if s.fld (CAN_MB_CTL_DIR n k) != 2 then s
  else if s.canPending n k then s.raiseBit (CAN_IRQ_CFG_VIOL n)
  else if c.mode != canActive || c.busOff then s.canEnd n k istatPolicy
  else
    let s := s.dmaEcc e
    let d := s.draw
    let len := if e == .double then d.1.toNat % 4096 else s.canLen n k
    let s := if e == .double then d.2 else s
    if psizeBytes (s.canPsize n k) < len || (padLen (s.canTxFmt n k) len).isNone then s.canEnd n k istatConflict
    else (s.put (CAN_MB_CTL_ISTAT n k) istatPending).setCn n
      { c with fails := tset 0 c.fails k 0, late := c.late.filter (· != k) }

/-- A CANCEL (spec/08, R221). -/
def State.canCancel (s : State) (n k : Nat) : State :=
  if !s.canPending n k then s
  else
    match (s.cn n).tx with
    | some x => if x.buf == some k then s.setCn n { s.cn n with tx := some { x with cancel := true } } else s.canEnd n k istatSuperseded
    | none => s.canEnd n k istatSuperseded

/-- The gateway's frame of an attempt leaves its queue. -/
def CanChan.gwDone (c : CanChan) (x : CanTx) : CanChan :=
  if x.notice then { c with gwNotes := c.gwNotes.drop 1, noteFails := 0 }
  else { c with gwQueue := c.gwQueue.drop 1, gwFails := 0 }

/-- Failed attempts of the gateway's frame of an attempt, this one among them. -/
def CanChan.gwFailed (c : CanChan) (x : CanTx) : CanChan :=
  if x.notice then { c with noteFails := c.noteFails + 1 } else { c with gwFails := c.gwFails + 1 }

/-- A failed attempt is counted: further attempts remain, or the request ends (spec/08, R220; spec/09, R254). -/
def State.canFailed (s : State) (n : Nat) (x : CanTx) : State :=
  let c := s.cn n
  let s := s.setCn n { c with tx := none }
  match x.buf with
  | some k =>
    let s := s.put (CAN_MB_CTL_STAMP n k) x.stamp
    let r := s.fld (CAN_MB_CTL_RLIM n k)
    let f := tget 0 c.fails k + 1
    if r < 16 && r < f then s.canEnd n k istatAbortedFault
    else s.setCn n { s.cn n with fails := tset 0 c.fails k f }
  | none =>
    let r := s.fld GWE_CTL_GRLIM
    let f := (if x.notice then c.noteFails else c.gwFails) + 1
    if r < 16 && r < f then s.setCn n ((s.cn n).gwDone x) else s.setCn n ((s.cn n).gwFailed x)

/-- Delay compensation is on in the data phase of a frame of a type (spec/08, R214): TDCEN of CANn_DBT for FD, of
CANn_XBT for XL. -/
def State.tdcOn (s : State) (n fmt : Nat) : Bool :=
  (fmt == 2 && s.flag (CAN_DBT_TDCEN n)) || (fmt == 3 && s.flag (CAN_XBT_TDCEN n))

/-- The point in CK_FAB cycles after the transmit edge at which each data-phase bit of the frame being sent is checked:
the measured delay and TDCO; none where delay compensation does not act (spec/08, R214). -/
def State.canCheckAt (s : State) (n : Nat) : Option Nat :=
  match (s.cn n).tx with
  | none => none
  | some x =>
    if s.tdcOn n x.frame.fmt.toNat then
      some (x.tdc + (if x.frame.fmt == 2 then s.fld (CAN_DBT_TDCO n) else s.fld (CAN_XBT_TDCO n)))
    else none

/-- TDCV reports the delay measured in an attempt that came past its arbitration (spec/08, R214). -/
def State.tdcShow (s : State) (n : Nat) : State :=
  match (s.cn n).tx with
  | none => s
  | some x => s.when (s.tdcOn n x.frame.fmt.toNat) fun t => t.put (CAN_STAT_TDCV n) x.tdc

/-- An attempt ends lost in arbitration or in error: a waiting cancel takes effect unless the attempt had won
arbitration, when it lapses (spec/08, R220, R221). -/
def State.canAttemptEnds (s : State) (n : Nat) (inArb : Bool) : State :=
  let s := if inArb then s else s.tdcShow n
  match (s.cn n).tx with
  | none => s
  | some x =>
    match x.buf with
    | none => s.canFailed n x
    | some k =>
      if x.cancel && inArb then
        let s := s.setCn n { s.cn n with tx := none }
        (s.put (CAN_MB_CTL_STAMP n k) x.stamp).canEnd n k istatAbortedFault
      else
        let s := s.when x.cancel fun t => t.setCn n { t.cn n with late := k :: (t.cn n).late }
        s.canFailed n x

/-! Error states (spec/08, R222). -/

/-- EPASS follows the counters. -/
def State.canPassive (s : State) (n : Nat) : State :=
  s.putB (CAN_STAT_EPASS n) (decide (128 ≤ s.fld (CAN_STAT_TEC n)) || decide (128 ≤ s.fld (CAN_STAT_REC n)))

/-- TEC has exceeded 255. -/
def State.canBusOff (s : State) (n : Nat) : State :=
  let s := s.canEndAll n istatAbortedFault
  let s := s.setCn n { s.cn n with busOff := true, recovering := s.flag (CAN_CTL_BORA n) }
  let s := (s.put (CAN_STAT_TEC n) 0xFF).raiseBit (CAN_STAT_EPASS n)
  ((s.raiseBit (CAN_IRQ_BOFF n)).raiseL (192 + n)).canShow n

/-- TEC and REC grow by what ISO 11898-1 adds for an error. -/
def State.canCount (s : State) (n tec rec_ : Nat) : State :=
  let s := s.put (CAN_STAT_REC n) (min 255 (s.fld (CAN_STAT_REC n) + rec_))
  let t := s.fld (CAN_STAT_TEC n) + tec
  if 255 < t then s.canBusOff n else (s.put (CAN_STAT_TEC n) t).canPassive n

/-- The channel counts errors (spec/08, R229, R236, R238). -/
def CanChan.counts (c : CanChan) : Bool := c.mode == canActive && !c.tack && !c.busOff

/-- REC after a reception without error (ISO 11898-1): one less up to 127; from above, a value between 119 and 127. -/
def State.canRxGood (s : State) (n : Nat) : State :=
  if (s.cn n).counts then
    let r := s.fld (CAN_STAT_REC n)
    if r ≤ 127 then (s.put (CAN_STAT_REC n) (r - 1)).canPassive n
    else
      let d := s.draw
      (d.2.put (CAN_STAT_REC n) (119 + d.1.toNat % 9)).canPassive n
  else s

/-! Bit-rate detection (spec/08, R215). -/

/-- The next candidate, with ABD_ROUND after the last. -/
def State.abdNext (s : State) (n : Nat) : State :=
  let c := s.cn n
  if c.cand < s.fld (CAN_CTL_ABDN n) then s.setCn n { c with cand := c.cand + 1 }
  else (s.setCn n { c with cand := 0 }).raiseBit (CAN_IRQ_ABD_ROUND n)

/-- A frame locks the candidate. -/
def State.abdLock (s : State) (n : Nat) : State :=
  let k := (s.cn n).cand
  let s := s.setReg (CAN_NBT n) (s.reg (CAN_ABD n k))
  ((s.put (CAN_STAT_ABDIDX n) k).raiseBit (CAN_IRQ_ABD_DONE n)).canForce n canListen

end Sys2Proof.Machine
end

