-- ==== Sys2Proof/Machine/HandOps.lean ====
section
/-!
DEFINITION. Responses to commands (spec/16, R409, R412, R413), and the start and end of an update hand-over that other
blocks cause (R430, R432).
-/

namespace Sys2Proof.Machine

/-- A response: the command's first bytes, ISTAT, REASON and body (spec/16, R413). -/
def responseBytes (head : List Byte) (istat reason : Nat) (body : List Byte) : List Byte :=
  let h := head ++ List.replicate 8 0
  h.take 2 ++ natLe 2 body.length ++ (h.drop 4).take 4 ++
    [BitVec.ofNat 8 istat, BitVec.ofNat 8 reason, 0, 0, 0, 0, 0, 0] ++ body

/-- The side of a mailbox that ZS has, 0 when it has none. -/
def State.zsSide (s : State) (m : Nat) : Nat := (s.mbxSide? m 5).getD 0

/-- A command buffer: 4,608 bytes that the sender may write (spec/16, R409). -/
def State.bufferOk (s : State) (m addr : Nat) : Bool :=
  let e := s.mbxEp m (1 - s.zsSide m)
  addr % 8 == 0 && (List.range 576).all fun i => s.memAllowed
    (match e with | 1 => .zc0 | 2 => .zc1 | 3 => .zc2 | 4 => .zc3 | 6 => .zk | _ => .host) (addr + 8 * i) .write

/-! Network carriers (spec/16, R411, R412). -/

/-- The bytes of a full segment, without its head. -/
def segSize : Carrier → Nat
  | .can f => if f.fmt == 3 then 2044 else 60
  | .eth _ => 1496

/-- The bytes a carrier frame brings. -/
def carrierBytes : Carrier → List Byte
  | .can f => f.data
  | .eth f => f.payload

/-- The frame without the segment. -/
def carrierHead : Carrier → Carrier
  | .can f => .can { f with data := [] }
  | .eth f => .eth { f with payload := [] }

/-- The segments of a response: MSGID, LAST and SEG, and the bytes. -/
def segmentsOf (size msgId : Nat) (l : List Byte) : List (List Byte) :=
  let n := max 1 ((l.length + size - 1) / size)
  (List.range n).map fun i =>
    natLe 2 msgId ++ natLe 2 (i + if i + 1 == n then 0x8000 else 0) ++ (l.drop (i * size)).take size

/-- The frame of a response segment on CAN: as the command's, with identifier ID + 1 (R411). -/
def respFrame (f : CanFrame) (seg : List Byte) : CanFrame :=
  let len := (padLen f.fmt.toNat seg.length).getD seg.length
  { f with
    rtr := false, id := f.id + 1, data := padData seg len, dlc := BitVec.ofNat 4 (dlcOf f.fmt.toNat len), esi := false }

/-- A response leaves on the port its command came from, in frames of the same form (R411, R412). What the manual leaves open
of these frames is log entry 109. -/
def State.respondNet (s : State) (port msgId : Nat) (via : Carrier) (bytes : List Byte) : State :=
  let segs := segmentsOf (segSize via) msgId bytes
  match via with
  | .can f =>
    if s.netRuns && (s.cn port).mode == canActive && !(s.cn port).busOff then
      s.each segs fun x t => t.send (.cmdFrame port (respFrame f x))
    else s
  | .eth f =>
    s.each segs fun x t => t.ethOut (port - 16) ((f.tag.map fun y => y.1.toNat).getD 0)
      { f with da := f.sa, sa := BitVec.ofNat 48 (t.fld ESW_MAC_MAC), payload := ethPad f.tag.isSome x } none

/-! Hand-over phases. -/

def hoQuiet : Nat := 1
def hoSwitch : Nat := 2
def hoNew : Nat := 3
def hoComplete : Nat := 4
def hoAbandoned : Nat := 5

/-- A hand-over runs (spec/16, R430). -/
def State.hoRuns (s : State) : Bool :=
  s.fld BSQ_HOSTAT_PHASE == hoQuiet || s.fld BSQ_HOSTAT_PHASE == hoSwitch || s.fld BSQ_HOSTAT_PHASE == hoNew

/-- The hand-over's ACTIVATE came by this mailbox and waits for its response. -/
def State.hoWordOn (s : State) (m : Nat) : Bool :=
  s.hoRuns && !s.hand.gone && (match s.hand.src with
    | .mbox n _ => m == n
    | .net .. => false)

/-- The monitor acknowledges the oldest read word of a mailbox; words behind that of a running hand-over's ACTIVATE wait for
its response, since a mailbox acknowledges in its order (spec/12, R310, R313; spec/16, R409). -/
def State.monitorAck (s : State) (m : Nat) : State :=
  if s.hoWordOn m then { s with hand := { s.hand with acks := s.hand.acks + 1 } } else (s.mbxAckWord m (s.zsSide m)).1

/-- The monitor answers a command: to its port, or into its buffer, and then acknowledges the word (spec/16, R409). -/
def State.respond (s : State) (src : CmdFrom) (head : List Byte) (istat reason : Nat) (body : List Byte) : State :=
  let bytes := responseBytes head istat reason body
  match src with
  | .net port id via => s.respondNet port id via bytes
  | .mbox m addr =>
    (if s.bufferOk m addr then s.setBytes addr (bytes.take 4608) else s).monitorAck m

/-! Hand-over. -/

def State.hoFlag (s : State) (e : Nat) : Nat := tget 0 s.hand.flag e
def State.setHoFlag (s : State) (e v : Nat) : State :=
  { s with hand := { s.hand with flag := tset 0 s.hand.flag e v } }

/-- The participants' endpoints. -/
def State.hoPart (s : State) : List Nat := (List.range 8).filter fun e => (s.fld BSQ_HOSTAT_PART).testBit e

/-- The ISTAT of an abandoned hand-over by its cause (spec/16, R432). -/
def hoIstat (cause : Nat) : Nat :=
  match cause with
  | 2 | 3 => istatExpired
  | 4 => istatAbortedReset
  | _ => istatAbortedFault

/-- ACTIVATE ends: its response, and then the acknowledgements of the words behind it (spec/16, R409, R432). -/
def State.activateEnd (s : State) (istat : Nat) : State :=
  if s.hand.gone then s
  else
    let t := s.respond s.hand.src s.hand.head istat 0 []
    match s.hand.src with
    | .net .. => t
    | .mbox m _ =>
      let t := t.each (List.range s.hand.acks) fun _ u => u.monitorAck m
      { t with hand := { t.hand with acks := 0 } }

/-- OUTCOME for each participant, HOEND, and the end of ACTIVATE (spec/16, R430, R432). -/
def State.hoEnd (s : State) (phase istat : Nat) : State :=
  let s := (s.put BSQ_HOSTAT_PHASE phase).put BSQ_HOSTAT_RESULT istat
  let s := s.each s.hoPart fun e t => t.setHoFlag e (t.hoFlag e ||| 2)
  let s := (s.raiseBit SEC_IRQ_HOEND).activateEnd istat
  { s with hand := { s.hand with restoring := false } }

/-- A hand-over is abandoned (spec/16, R430, R432). From QUIET it ends at once; page tables already rewritten are restored
first, and the abandonment completes with them (log entry 30). -/
def State.hoAbandon (s : State) (cause : Nat) : State :=
  if !s.hoRuns || s.hand.restoring then s
  else
    let s := (s.put BSQ_HOSTAT_CAUSE cause).raiseL 281
    if s.fld BSQ_HOSTAT_PHASE == hoQuiet then s.hoEnd hoAbandoned (hoIstat cause)
    else { s with hand := { s.hand with restoring := true } }

end Sys2Proof.Machine
end

