-- ==== Sys2Proof/Machine/LinOps.lean ====
section
/-!
DEFINITION. The LIN channels (spec/08, R223–R227, R237): headers, frame entries, the schedule, sleep and wake.
-/

namespace Sys2Proof.Machine

def State.ln (s : State) (n : Nat) : LinChan := tget {} s.lin n
def State.setLn (s : State) (n : Nat) (x : LinChan) : State := { s with lin := tset {} s.lin n x }

/-! LINn_STAT.STATE. -/
def linOff : Nat := 0
def linTack : Nat := 1
def linActive : Nat := 2
def linSleep : Nat := 3
def linWaking : Nat := 4

def State.linState (s : State) (n : Nat) : Nat := s.fld (LIN_STAT_STATE n)

/-- The image sets the channel as a commander. -/
def State.linCommander (s : State) (n : Nat) : Bool := s.flag (LIN_CFG_ROLE n)

/-- A write that only the channel owner may make (spec/08, LINn_CFG). -/
def State.linOwned (s : State) (m : Master) (n : Nat) (f : State → State) : State :=
  if ownerOk (s.fld (LIN_CFG_OWNER n)) m then f s else s.raiseBit (LIN_STAT_CFG_VIOL n)

/-- The number of data bytes of an entry (spec/08, LINn_FRi). -/
def State.linLen (s : State) (n i : Nat) : Nat := max 1 (min 8 (s.fld (LIN_FR_LEN n i)))

/-- The protected identifier: the frame ID with its two parity bits (ISO 17987-3; log entry 31). -/
def linPid (id : Nat) : Nat :=
  let b := fun i => id.testBit i
  let p0 := b 0 != (b 1 != (b 2 != b 4))
  let p1 := !(b 1 != (b 3 != (b 4 != b 5)))
  id + (if p0 then 64 else 0) + (if p1 then 128 else 0)

/-- The sum of bytes with its carries added back (ISO 17987-3). -/
def carrySum (l : List Byte) : Nat :=
  l.foldl (fun a b => let x := a + b.toNat; if 256 ≤ x then x - 255 else x) 0

/-- A frame's checksum (spec/08, R223, R225; ISO 17987-3, log entry 31): the inverted sum of the data, under the
enhanced model with the protected identifier. IDs 0x3C and 0x3D always use the classic model. -/
def State.linSum (s : State) (n id : Nat) (data : List Byte) : Byte :=
  let enhanced := s.flag (LIN_FR_CHK n id) && id != 0x3C && id != 0x3D
  BitVec.ofNat 8 (255 - carrySum ((if enhanced then [BitVec.ofNat 8 (linPid id)] else []) ++ data))

/-- A publish request of an entry gets a final code (spec/08, R226). -/
def State.linReqEnd (s : State) (n i code : Nat) : State :=
  let s := s.when (s.flag (LIN_FR_IE n i)) fun t => t.raiseBit (LIN_STAT_TXDONE n)
  if (s.ln n).again.contains i then s.setLn n { s.ln n with again := (s.ln n).again.filter (· != i) }
  else s.put (LIN_FR_ISTAT n i) code

/-- An entry records an error (spec/08, R226). -/
def State.linErr (s : State) (n i code : Nat) : State := (s.put (LIN_FR_ERR n i) code).raiseBit (LIN_STAT_ERR n)

/-- A TXREQ (spec/08, R226): a newer request supersedes one not yet sent. -/
def State.linTxreq (s : State) (n i : Nat) : State :=
  if s.fld (LIN_FR_DIR n i) != 1 then s
  else if s.fld (LIN_FR_ISTAT n i) != istatPending then s.put (LIN_FR_ISTAT n i) istatPending
  else
    let sending := match (s.ln n).header with
      | some h => h.acting && h.request && h.id == i
      | none => false
    if sending && !(s.ln n).again.contains i then s.setLn n { s.ln n with again := i :: (s.ln n).again }
    else s.when (s.flag (LIN_FR_IE n i)) fun t => t.raiseBit (LIN_STAT_TXDONE n)

/-- A commander sends a header (spec/08, R225). -/
def State.linSendHeader (s : State) (n id : Nat) : State :=
  (s.setLn n { s.ln n with header := some { id := id, stamp := s.ntuNs } }).send (.linHeader n id)

/-- The channel acts on the entry of a header (spec/08, R225, R226). -/
def State.linAct (s : State) (n id stamp : Nat) : State :=
  let s := s.put (LIN_STAT_PID n) (linPid id)
  let dir := s.fld (LIN_FR_DIR n id)
  if dir == 1 then
    let data := natLe (s.linLen n id) (s.fld (LIN_FD_DATA n id))
    let req := s.fld (LIN_FR_ISTAT n id) == istatPending
    (s.setLn n { s.ln n with header := some ⟨id, stamp, true, data, req⟩ }).send (.linData n id data (s.linSum n id data))
  else s.setLn n { s.ln n with header := some ⟨id, stamp, true, [], false⟩ }

/-- The channel enters SLEEP (spec/08, R227). -/
def State.linEnterSleep (s : State) (n : Nat) : State :=
  ((s.setLn n { s.ln n with running := false, goWait := none, stopWait := false, sleepWait := false, header := none, pulses := 0 }).put
    (LIN_STAT_STATE n) linSleep).raiseBit (LIN_STAT_SLEEP_ENT n)

/-- The tack window opens (spec/08, R237). -/
def State.linTackOpen (s : State) (n : Nat) : State :=
  (s.put (LIN_STAT_STATE n) linTack).setLn n { s.ln n with header := none }

/-- The commander sends the header of a slot (spec/08, R225). -/
def State.linSlot (s : State) (n k : Nat) : State :=
  let s := (s.setLn n { s.ln n with running := true }).put (LIN_STAT_SLOT n) k
  s.linSendHeader n (s.fld (LIN_SCH_ID n k))

/-- The go-to-sleep frame in place of a slot: ID 0x3C with a first byte of 0x00 (the others 0xFF, log entry 40). -/
def State.linSendSleep (s : State) (n : Nat) : State :=
  let data : List Byte := 0 :: List.replicate 7 0xFF
  ((s.send (.linHeader n 0x3C)).send (.linData n 0x3C data (s.linSum n 0x3C data))).linEnterSleep n

/-- A schedule that waits for nothing else starts (spec/08, R225); a go-to-sleep frame that waits takes the place of its first
slot (R227). -/
def State.linTryStart (s : State) (n : Nat) : State :=
  if s.linState n != linActive || (s.ln n).running then s
  else if (s.ln n).sleepWait then s.linSendSleep n
  else
    match (s.ln n).goWait with
    | some k => (s.setLn n { s.ln n with goWait := none }).linSlot n k
    | none => s

/-- The channel becomes ACTIVE: a waiting schedule or announcement starts (spec/08, R225, R235). -/
def State.linBecomesActive (s : State) (n : Nat) : State :=
  let s := (s.put (LIN_STAT_STATE n) linActive).setLn n { s.ln n with pulses := 0 }
  match (s.ln n).announce with
  | id :: r => if s.linCommander n then (s.setLn n { s.ln n with announce := r }).linSendHeader n id else s
  | [] => s.linTryStart n

/-- A header that no schedule sent is over: what waits for the bus goes, an announcement (spec/08, R235) or a go-to-sleep frame
(R227). -/
def State.linBusFree (s : State) (n : Nat) : State :=
  let c := s.ln n
  s.when (s.linState n == linActive && !c.running && (!c.announce.isEmpty || c.sleepWait)) fun t => t.linBecomesActive n

/-- A wake pulse (spec/08, R227): a commander then runs its bus again, a responder waits for a header. -/
def State.linPulse (s : State) (n : Nat) : State :=
  let s := s.send (.linWake n)
  if s.linCommander n then s.linBecomesActive n
  else (s.setLn n { s.ln n with pulses := (s.ln n).pulses + 1 }).put (LIN_STAT_STATE n) linWaking

/-- An announcement of a frame ID (spec/08, R235): a commander sends its header as soon as it can, out of SLEEP after a
wake pulse; a responder sends none (log entry 32). -/
def State.linAnnounce (s : State) (n id : Nat) : State :=
  if !s.linCommander n || s.linState n == linOff then s
  else
    let s := s.setLn n { s.ln n with announce := (s.ln n).announce ++ [id] }
    if s.linState n == linSleep then s.linPulse n
    else if s.linState n == linActive && !(s.ln n).running && (s.ln n).header.isNone then s.linBecomesActive n
    else s

end Sys2Proof.Machine
end

