-- ==== Sys2Proof/Machine/NslOps.lean ====
section
/-!
DEFINITION. The network-sleep unit (spec/08, R228–R235): keep-awake frames and the waybill ledger, the bus wake record,
READY, and abandoning a sleep agreement.
-/

namespace Sys2Proof.Machine

def State.net (s : State) (m : Nat) : NslNet := tget {} s.nsl.net m
def State.setNet (s : State) (m : Nat) (x : NslNet) : State := { s with nsl := { s.nsl with net := tset {} s.nsl.net m x } }

/-- CK_PER cycles in 1 ms. -/
def msTicks : Nat := 125000

/-! Ledger (spec/08, R232). -/

/-- The entry with the least held time, the first of equals. -/
def leastHeld (l : List LedgerEntry) : Option LedgerEntry :=
  l.foldl (fun m e => match m with
    | none => some e
    | some x => if e.held < x.held then some e else m) none

/-- A credit of a time to a node. -/
def NslNet.credit (x : NslNet) (node dt : Nat) : NslNet :=
  if x.ledger.any (fun e => e.node == node) then
    { x with ledger := x.ledger.map fun e =>
        if e.node == node then { e with renew := min 65535 (e.renew + 1), held := e.held + dt } else e }
  else
    let e : LedgerEntry := ⟨node, 1, dt⟩
    if x.ledger.length < 16 then { x with ledger := x.ledger ++ [e] }
    else
      match leastHeld x.ledger with
      | none => x
      | some y => { x with ledger := x.ledger.map (fun z => if z.node == y.node then e else z), ovfl := min 65535 (x.ovfl + 1) }

/-- A keep-awake frame restarts a network's timer (spec/08, R231, R232); `node` is none for the device's own frame. -/
def State.nslRenew (s : State) (m : Nat) (node : Option Nat) : State :=
  let x := s.net m
  let x :=
    match x.last with
    | some (t, some p) =>
      if s.fld NSL_CFG_LOCAL == 0 && s.flag (NSL_STAT_AWAKE.bit m) then x.credit p (s.now - max t s.nsl.localSince) else x
    | _ => x
  (s.setNet m { x with last := some (s.now, node) }).raiseBit (NSL_STAT_AWAKE.bit m)

/-- The keep-awake test of a frame on a network by identifier, IDE and payload, and the sender's node (spec/08, R231). -/
def State.keepAwake (s : State) (m id : Nat) (ide : Bool) (data : List Byte) : Option Nat :=
  let byte := fun i => (data[i]?).map BitVec.toNat
  let mask := if m < 8 then s.fld (NSL_NM_ID_MASK m) else s.fld (NSL_NM_ID_MASK m) % 64
  let ref := if m < 8 then s.fld (NSL_NM_ID_ID m) else s.fld (NSL_NM_ID_ID m) % 64
  let idOk := (id ^^^ ref) &&& mask == 0 && (8 ≤ m || (s.flag (NSL_NM_ID_IDE m) == ide))
  match byte (s.fld (NSL_NM_CFG_KABYTE m)) with
  | some v =>
    if idOk && v.testBit (s.fld (NSL_NM_CFG_KABIT m)) then
      if s.fld (NSL_NM_CFG_NODESRC m) == 1 then some ((byte (s.fld (NSL_NM_CFG_NODEBYTE m))).getD 0) else some (id % 256)
    else none
  | none => none

/-- A frame seen on a network, received or the device's own. -/
def State.nslFrame (s : State) (m id : Nat) (ide : Bool) (data : List Byte) (own : Bool) : State :=
  match s.keepAwake m id ide data with
  | some node => s.nslRenew m (if own then none else some node)
  | none => s

/-- A network's ledger clears (spec/08, R232). -/
def State.ledgerClear (s : State) (m : Nat) : State := s.setNet m { s.net m with ledger := [], ovfl := 0 }

/-- HELD in whole ms of an entry. -/
def LedgerEntry.ms (e : LedgerEntry) : Nat := min (2 ^ 32 - 1) (e.held / msTicks)

/-! READY and agreement (spec/08, R234). -/

/-- A network is READY. -/
def State.netReady (s : State) (m : Nat) : Bool :=
  !s.flag (NSL_STAT_AWAKE.bit m) && (if m < 8 then (s.canPendings m).isEmpty else s.linState (m - 8) == linSleep)

/-- The READY field. -/
def State.nslReady (s : State) : Nat := (List.range 16).foldl (fun r m => r + (if s.netReady m then 2 ^ m else 0)) 0

/-- A network is in the group. -/
def State.inGroup (s : State) (m : Nat) : Bool := (s.fld NSL_CFG_GROUP).testBit m

/-- The conditions of the agreement hold. -/
def State.nslAllReady (s : State) : Bool :=
  s.fld NSL_CFG_LOCAL == 0 && (List.range 16).all fun m => !s.inGroup m || s.netReady m

/-- The CAN channels of the group go to sleep, their modes kept. -/
def State.nslSleep (s : State) : State :=
  let s := (s.raiseBit NSL_STAT_AGREED).raiseBit NSL_STAT_AGREE_IRQ
  s.each (List.range 8) fun n t =>
    if t.inGroup n then
      let t := t.setCn n { t.cn n with kept := some (t.cn n).mode }
      t.canForce n (if t.fld (CAN_TRX_SWMODE n) != 0 && n < 6 then canPnSleep else canOff)
    else t

/-- The announcement of a network (spec/08, R235). -/
def State.nslAnnounce (s : State) (m : Nat) : State :=
  let b := s.fld (NSL_NM_CFG_ANNBUF m)
  if m < 8 then s.drawEcc.1.canTxreq m b s.drawEcc.2 else s.linAnnounce (m - 8) (b % 64)

/-- A wake during a standing agreement abandons it (spec/08, R235): each CAN channel returns to its kept mode with no tack
window, and each network with its ANNEN bit announces. -/
def State.nslAbandon (s : State) : State :=
  if !s.flag NSL_STAT_AGREED then s
  else
    let s := (s.putB NSL_STAT_AGREED false).raiseBit NSL_STAT_ABANDONED
    let s := s.each (List.range 8) fun n t =>
      match (t.cn n).kept with
      | some mode =>
        let t := (t.setCn n { t.cn n with kept := none }).canForce n mode
        (t.setCn n { t.cn n with tack := false }).canShow n
      | none => t
    s.each (List.range 16) fun m t => t.when ((t.fld NSL_CFG_ANNEN).testBit m) fun u => u.nslAnnounce m

/-! Bus wakes (spec/08, R230). -/

/-- A bus wake is recorded: network and kind (1 pattern, 2 frame, 3 FEC, 4 LIN). -/
def State.nslWakeRecord (s : State) (m kind : Nat) : State :=
  let slow := s.slowCount % 2 ^ 32
  if !s.flag NSL_WAKE_VALID then
    ((((s.raiseBit NSL_WAKE_VALID).putB NSL_WAKE_MULTI false).put NSL_WAKE_SLOW slow).put NSL_WAKE_KIND kind).put NSL_WAKE_NET m
  else if s.fld NSL_WAKE_SLOW == slow && decide (m < s.fld NSL_WAKE_NET) then
    ((s.raiseBit NSL_WAKE_MULTI).put NSL_WAKE_KIND kind).put NSL_WAKE_NET m
  else s.raiseBit NSL_WAKE_MULTI

end Sys2Proof.Machine
end

