-- ==== Sys2Proof/Machine/PmuOps.lean ====
section
/-!
DEFINITION. The power manager (spec/14, R364–R380): requests, sleep entry with its point of no return, wakes and their
record, and what a sleep or an L-die reset leaves of the state.
-/

namespace Sys2Proof.Machine

/-! Fault pairs of the domains (spec/14, R366, R370; spec/17, R435, R438, R448). -/

/-- The bit of a source in a 64-bit source register. -/
def srcBit (f : Nat → Fld) (src : Nat) : Fld := (f (src / 64)).bit (src % 64)

/-- The domain that a source's pair leaves, none for the always-on domain and the park path, whose pairs are always read
(log entry 97). -/
def sourceDomain (src : Nat) : Option Nat :=
  if (66 ≤ src && src ≤ 69) || src == 73 || src == 74 || (80 ≤ src && src ≤ 164) || (168 ≤ src && src ≤ 185) then some 7
  else if 192 ≤ src && src ≤ 221 then some 4
  else if (224 ≤ src && src ≤ 229) || src == 231 || src == 232 || src == 260 || src == 261 then some 1
  else if 240 ≤ src && src ≤ 245 then some 2
  else if src == 246 || (280 ≤ src && src ≤ 282) then some 3
  else if src == 262 then some 5
  else none

/-- The pair of a source reads inactive, because its domain is off (R435). -/
def State.fcuClamped (s : State) (src : Nat) : Bool :=
  match sourceDomain src with
  | some d => !(s.fld PMU_DOMSTAT_READY).testBit d
  | none => false

/-- Domains have gone off: their pairs read inactive, and their wires start from inactive when they return. -/
def State.fcuClamp (s : State) : State :=
  let s : State := { s with fcu := { s.fcu with
    wire := s.fcu.wire.filter fun e => !s.fcuClamped e.1
    pairEqual := s.fcu.pairEqual.filter fun j => !s.fcuClamped j
    under := s.fcu.under.filter fun e => !s.fcuClamped e.1 } }
  s.each ((List.range 384).filter fun j => s.fcuClamped j && !s.flag (srcBit FCU_FRC_FRC j)) fun j t =>
    t.putB (srcBit FCU_ACT_ACT j) false

/-! PMU_STAT.PHASE and PMU_STAT.STATE. -/
def phSteady : Nat := 0
def phPrepare : Nat := 1
def phEnter : Nat := 2
def phWaking : Nat := 3
def phBoot : Nat := 4

def psRun : Nat := 0
def psDoze : Nat := 1
def psHold : Nat := 2
def psPark : Nat := 3

def State.pmuPhase (s : State) : Nat := s.fld PMU_STAT_PHASE
def State.setPhase (s : State) (x : Nat) : State := s.put PMU_STAT_PHASE x

/-! What a reset of domains leaves. -/

/-- Registers that a condition does not keep return to their reset values. -/
def State.dropRegs (s : State) (keep : Nat → Bool) : State := { s with regs := s.regs.filter fun e => keep e.1 }

/-- An address lies in the 64 KiB blocks from `a` up to but not including `b` (spec/13, R328). -/
def inBlocks (a b x : Nat) : Bool := decide (a ≤ x) && decide (x < b)

/-- Registers that HOLD and PARK keep (spec/14, R366, R367; spec/08, R239; log entry 33): those of the P-die with the
matrix levels and the chain registers (spec/05, R165), counters and NTU, the CAN wake detectors, NSL_WAKE, and the ACC,
MBX, PMU, SYS, FCU, BSQ and ID blocks. -/
def sleepKeeps (a : Nat) : Bool :=
  isPdieReg a || isMatrixReg a || isChainReg a || inBlocks 0x40060000 0x40080000 a ||
  inBlocks 0x400D0000 0x40120000 a || inBlocks 0x40130000 0x40150000 a ||
  a == NSL_WAKE || (List.range 8).any fun n => a == CAN_TRX n || a == CAN_SWID n || a == CAN_SWDATA n

/-- The ISTAT fields of the PENDING requests of the CAN and LIN channels (spec/08, R220, R226). -/
def State.busRequests (s : State) : List Fld :=
  ((List.range 8).flatMap fun n => (s.canPendings n).map (CAN_MB_CTL_ISTAT n ·)) ++
  ((List.range 8).flatMap fun n => (List.range 64).map (LIN_FR_ISTAT n ·)).filter fun f => s.fld f == istatPending

/-- PENDING requests of the CAN and LIN channels end ABORTED_RESET (spec/08, R239). -/
def State.busesAbort (s : State) : State :=
  let s := s.each (List.range 8) fun n t => t.canEndAll n istatAbortedReset
  s.each (List.range 8) fun n t =>
    t.each (List.range 64) fun i u =>
      if u.fld (LIN_FR_ISTAT n i) == istatPending then u.put (LIN_FR_ISTAT n i) istatAbortedReset else u

/-! Clocks (spec/14, R378; spec/15, R390). -/

/-- The PLL runs from CK_RC, or from the XTAL again: CLK_DEGRADED and its mirrors (spec/07, R209; spec/14, R378; spec/15,
R390, R392). -/
def State.setDegraded (s : State) (b : Bool) : State :=
  let s := s.linkWatch fun t =>
    let t := ((t.putB PMU_STAT_CLK_DEGRADED b).putB SYS_CLKSTAT_CLK_DEGRADED b).putB NTU_STAT_DEGRADED b
    t.when b State.linksDown
  s.when b State.clearSync

/-- After a reset of the blocks that mirror CLK_DEGRADED, the mirrors show the clock in use (spec/07, R209: the CK_RC
row governs). -/
def State.degradedShow (s : State) : State :=
  let b := s.flag PMU_STAT_CLK_DEGRADED
  (s.putB SYS_CLKSTAT_CLK_DEGRADED b).putB NTU_STAT_DEGRADED b

/-! Requests (spec/14, R371, R372). -/

/-- A request ends: LAST and REQDONE. -/
def State.pmuReqDone (s : State) (ep tgt code : Nat) : State :=
  let s := (s.put PMU_RSTAT_LAST_ISTAT code).put PMU_RSTAT_LAST_TGT tgt
  (s.put PMU_RSTAT_LAST_EP ep).raiseBit PMU_IRQ_REQDONE

/-- The active request ends. -/
def State.pmuActDone (s : State) (code : Nat) : State :=
  if !s.flag PMU_RSTAT_ACT_V then s
  else
    let s := s.pmuReqDone (s.fld PMU_RSTAT_ACT_EP) (s.fld PMU_RSTAT_ACT_TGT) code
    (((s.putB PMU_RSTAT_ACT_V false).put PMU_RSTAT_ACT_ISTAT 0).put PMU_RSTAT_ACT_TGT 0).put PMU_RSTAT_ACT_EP 0

/-- The pending slot is emptied. -/
def State.pmuPendClear (s : State) : State :=
  (((s.putB PMU_RSTAT_PEND_V false).put PMU_RSTAT_PEND_ISTAT 0).put PMU_RSTAT_PEND_TGT 0).put PMU_RSTAT_PEND_EP 0

/-- The pending request ends. -/
def State.pmuPendDone (s : State) (code : Nat) : State :=
  if !s.flag PMU_RSTAT_PEND_V then s
  else s.pmuPendClear.pmuReqDone (s.fld PMU_RSTAT_PEND_EP) (s.fld PMU_RSTAT_PEND_TGT) code

/-- A pending sleep request is superseded by a wake. -/
def State.pmuPendBeaten (s : State) : State := if s.fld PMU_RSTAT_PEND_TGT != psRun then s.pmuPendDone istatSuperseded else s

/-- A request enters the active slot. -/
def State.pmuActive (s : State) (ep tgt : Nat) : State :=
  (((s.putB PMU_RSTAT_ACT_V true).put PMU_RSTAT_ACT_ISTAT istatPending).put PMU_RSTAT_ACT_TGT tgt).put PMU_RSTAT_ACT_EP ep

/-- A request enters the pending slot; one already there ends SUPERSEDED. -/
def State.pmuQueue (s : State) (ep tgt : Nat) : State :=
  let s := s.pmuPendDone istatSuperseded
  (((s.putB PMU_RSTAT_PEND_V true).put PMU_RSTAT_PEND_ISTAT istatPending).put PMU_RSTAT_PEND_TGT tgt).put PMU_RSTAT_PEND_EP ep

/-! Wakes (spec/14, R372–R379). -/

/-- PMU_WAKE (R376). -/
def State.wakeRecord (s : State) (src detail : Nat) (after : Bool) : State :=
  if s.flag PMU_WAKE_VALID then s.raiseBit PMU_WAKE_MULTI
  else
    let s := ((s.raiseBit PMU_WAKE_VALID).putB PMU_WAKE_MULTI false).put PMU_WAKE_SLOW s.slowCount
    ((s.putB PMU_WAKE_AFTERPNR after).put PMU_WAKE_SRC src).put PMU_WAKE_DETAIL detail

/-- The wake sequence starts (R377): attempt 1, the supplies enabled. -/
def State.wakeStart (s : State) : State :=
  let s := (s.pmuPendBeaten.setPhase phWaking).put PMU_STAT_ATTEMPTS 1
  { s with pmu := { s.pmu with wakeFrom := s.fld PMU_STAT_STATE, supplies := true, xtalLate := false } }

/-- A sleep entry still in PREPARE is abandoned (R372, R373). -/
def State.prepareAbandon (s : State) : State :=
  ((s.pmuPendBeaten.pmuActDone istatSuperseded).setPhase phSteady).raiseBit PMU_IRQ_ABANDONED

/-- A wake abandons a standing sleep agreement, and a PARK request of the agreement that has not passed its point of no
return (spec/08, R235; log entry 34). -/
def State.sleepAbandon (s : State) : State :=
  if s.pmuPhase == phEnter then s
  else
    let mine := s.pmuPhase == phPrepare && s.flag PMU_RSTAT_ACT_V && s.fld PMU_RSTAT_ACT_EP == 0
    let s := if s.flag PMU_RSTAT_PEND_V && s.fld PMU_RSTAT_PEND_EP == 0 then s.pmuPendDone istatSuperseded else s
    let s := if mine then s.prepareAbandon.raiseBit NSL_STAT_ABANDONED else s
    s.nslAbandon

/-- An event latched after the point of no return (R374). -/
def State.latch (s : State) (x : Latched) : State :=
  let s := s.pmuPendBeaten.raiseBit PMU_STAT_LATCHED
  { s with pmu := { s.pmu with latched := s.pmu.latched ++ [x] } }

/-- A wake source acts (R372–R376). It has no effect while S4 holds or a bootstrap runs (R358, R383). -/
def State.pmuWake (s : State) (src detail : Nat) : State :=
  let on := (s.fld PMU_WEN_EN).testBit src
  let ph := s.pmuPhase
  let s := if on && !s.s4 && ph == phPrepare then s.wakeRecord src detail false else s
  let s := if on || src == 1 || src == 2 then s.sleepAbandon else s
  if !on || s.s4 then s
  else
    match ph with
    | 1 =>
      let s := if s.pmuPhase == phPrepare then s.prepareAbandon else s
      if 2 ≤ s.fld PMU_STAT_STATE then s.wakeStart else s
    | 2 => (s.wakeRecord src detail true).latch (.wake src detail)
    | 3 => s.raiseBit PMU_WAKE_MULTI
    | 4 => s
    | _ => if 2 ≤ s.fld PMU_STAT_STATE then (s.wakeRecord src detail false).wakeStart else s

/-! Starting a request. -/

/-- A sleep transition starts with PREPARE (R373). -/
def State.prepareStart (s : State) (ep tgt : Nat) : State := (s.pmuActive ep tgt).setPhase phPrepare

/-- The RUN request of the active slot acts in HOLD and PARK as wake source 4 while its bit in PMU_WEN is 1; with the
bit at 0 it stays PENDING (R371, R375; log entry 79). -/
def State.runWake (s : State) : State :=
  if s.flag PMU_RSTAT_ACT_V && s.fld PMU_RSTAT_ACT_TGT == psRun && s.pmuPhase == phSteady && 2 ≤ s.fld PMU_STAT_STATE &&
      (s.fld PMU_WEN_EN).testBit 4 && !s.s4 then
    (s.wakeRecord 4 6 false).wakeStart
  else s

/-- A request in a steady state (R371). -/
def State.pmuStart (s : State) (ep tgt : Nat) : State :=
  let st := s.fld PMU_STAT_STATE
  if (s.s4 || s.flag FCU_STAT_RECOV) && tgt != psRun then s.pmuReqDone ep tgt istatPolicy
  else if tgt == psDoze then s.pmuReqDone ep tgt istatConflict
  else if tgt == psRun then
    if st ≤ 1 then s.pmuReqDone ep tgt istatOk else (s.pmuActive ep tgt).runWake
  else if tgt == st then s.pmuReqDone ep tgt istatOk
  else if tgt == psHold && st == psPark then s.pmuReqDone ep tgt istatConflict
  else s.prepareStart ep tgt

/-- A request for a sleep state is held while the basting hold runs (R383; spec/06, R189). -/
def State.pmuHolds (s : State) (tgt : Nat) : Bool := s.flag PDI_STAT_HOLD && tgt != psRun

/-- The pending request starts when the active transition has completed (R372). -/
def State.pmuPendStart (s : State) : State :=
  if s.flag PMU_RSTAT_PEND_V && !s.pmuHolds (s.fld PMU_RSTAT_PEND_TGT) then s.pmuPendClear.pmuStart (s.fld PMU_RSTAT_PEND_EP) (s.fld PMU_RSTAT_PEND_TGT) else s

/-- A request that was held starts once the hold has ended. -/
def State.pmuPendTick (s : State) : State :=
  if s.pmuPhase == phSteady && !s.flag PMU_RSTAT_ACT_V && !s.bsq.running && !s.sys.inReset then s.pmuPendStart else s

/-- The RUN request of ZK is wake source 4 (R375, R376): it is recorded, or sets MULTI. -/
def State.runRecord (s : State) (ep : Nat) (only : Bool) : State :=
  if ep == 6 && (s.fld PMU_WEN_EN).testBit 4 then
    (if only then s.raiseBit PMU_WAKE_MULTI else s.wakeRecord 4 6 false)
  else s

/-- A RUN request while a transition or a bootstrap is on: it is a wake, which abandons a sleep agreement too (R371, R372, R374,
R376, R379; spec/08, R235). -/
def State.pmuRunLate (s : State) (ep : Nat) : State :=
  let s := s.when (s.pmuPhase == phWaking) fun t => t.runRecord ep true
  match s.pmuPhase with
  | 1 =>
    let s := (s.when (s.fld PMU_STAT_STATE ≤ 1) fun t => t.runRecord ep false).sleepAbandon
    (s.when (s.pmuPhase == phPrepare) State.prepareAbandon).pmuStart ep psRun
  | 2 =>
    (s.when ((s.fld PMU_WEN_EN).testBit 4) fun t => (t.wakeRecord 4 6 true).latch (.wake 4 6)).pmuQueue ep psRun
  | _ =>
    let s := s.sleepAbandon
    if s.fld PMU_STAT_STATE ≤ 1 then s.pmuPendBeaten.pmuReqDone ep psRun istatOk
    else if s.flag PMU_RSTAT_ACT_V then s.pmuQueue ep psRun
    else s.pmuPendBeaten.pmuActive ep psRun

/-- A power-state request of an endpoint, 0 for a sleep agreement (R371, R372). -/
def State.pmuRequest (s : State) (ep tgt : Nat) : State :=
  if ep != 0 && !(s.fld PMU_CFG_REQEP * 2).testBit ep then s.pmuReqDone ep tgt istatPolicy
  else if (s.s4 || s.flag FCU_STAT_RECOV) && tgt != psRun then s.pmuReqDone ep tgt istatPolicy
  else if tgt == psDoze then s.pmuReqDone ep tgt istatConflict
  else if s.pmuPhase == phSteady && !s.flag PMU_RSTAT_ACT_V && !s.bsq.running && !s.pmuHolds tgt then
    (if tgt == psRun then s.sleepAbandon.pmuPendBeaten else s).pmuStart ep tgt
  else if tgt == psRun then s.pmuRunLate ep
  else s.pmuQueue ep tgt

/-! Sleep entry (spec/14, R373, R374). -/

/-- A handle keeps PREPARE from ending. -/
def txBusy (st : Nat) : Bool := st == txValidating || st == txWaitNotice || st == txArmed || st == txApplied

/-- Every condition of PREPARE holds. -/
def State.prepareReady (s : State) : Bool :=
  allHandles.all (fun h => !txBusy (s.txState h)) && s.acc.poll.isNone && !s.hoRuns &&
  (List.range 8).all fun e => (s.nvBusy e).isNone

/-- PREPARE ends with a code; the device stays in its state and a request that waits starts (R372, R373). -/
def State.prepareEnd (s : State) (code : Nat) : State := ((s.pmuActDone code).setPhase phSteady).pmuPendStart

/-- Counters and the NTU stop and are stored with the CK_SLOW count (R374; spec/07, R199, R209). An entry from HOLD
finds them stored already. -/
def State.countersStore (s : State) : State :=
  if 2 ≤ s.fld PMU_STAT_STATE then s
  else
    let s := s.gtStopAll.ntuDisarm
    { s with pmu := { s.pmu with stopAt := s.slowCount } }

/-- A channel that PARK leaves on: PARK = 1 with a static or DI source (spec/02, R86); a limp target follows its input
(spec/06, R179), and a held channel stays held, since the row of the basting hold stands below that of PARK. -/
def State.parkKeeps (s : State) (n : Nat) : Bool :=
  let src := s.fld (HSW_STAT_SRC n)
  s.flag (HSW_STAT_LIMP n) || s.flag (HSW_STAT_HELD n) || (s.cflag (HSW_CFG_PARK n) && !isCounterSrc src)

/-- The entry rules of PARK in the P-die (spec/02, R86; spec/04, R137; spec/05, R165; spec/06, R189); what the basting hold
holds stays, and under the limp map sinks and matrix keep their levels and VLED runs: these rows stand further down. -/
def State.parkOutputs (s : State) : State :=
  let s := s.each s.hswLeads fun n t =>
    if t.parkKeeps n then t
    else
      let t := (t.putB (HSW_STAT_STATIC n) false).putB (HSW_STAT_RWAIT n) false
      let q := fun f => (t.startQueue f).filter (· != n)
      (t.setStartQueue .a (q .a)).setStartQueue .b (q .b)
  let s := s.hswEvalAll
  let s := s.each (List.range 4) fun d t => t.setBq d ((t.bq d).filter fun r => t.flag (VLV_STAT_LIMP r.chan))
  let s := s.each (List.range 24) fun c t =>
    if t.flag (VLV_STAT_LIMP c) || t.flag (VLV_STAT_HELD c) then t
    else
      let t := t.putB (VLV_STAT_QUEUED c) false
      if t.phase c == phBoost || t.phase c == phPeak || t.phase c == phHold then t.enterRelease c false else t
  let s := s.when (!s.flag PDI_STAT_LIMP && !s.flag PDI_STAT_HOLD) fun t =>
    let t := t.each (List.range 48) fun n u => (u.stopFade n).setSink n 0
    let t := t.each (List.range 192) fun p u => u.put (LED_MPT_LEVEL p) 0
    let t := (t.put LED_VSTAT_VLED 0).putB LED_VSTAT_CEIL false
    let t := t.each [0, 1] fun k u => u.setChain k { u.chain k with ck := false, dout := false }
    { t with led := { t.led with columns := [], lowPoints := [] } }
  s.each (List.range 16) fun n t => t.when (!t.flag (DOUT_STAT_LIMP n) && !t.flag (DOUT_STAT_HELD n)) fun u => u.doutOff n

/-- Sense sequences and off-state runs stop at the entry to HOLD or PARK, but for the runs of limp targets (spec/03, R115). A
continuous sense ADC that stops so is not started again on the return; R115 does not say (DESIGN CHOICE, log entry 100). -/
def State.diagStop (s : State) : State :=
  let s := s.each (List.range 4) fun a t => t.setAdc a { t.adc a with running := none }
  s.each ((List.range 64).filter fun n => !s.flag (HSW_STAT_LIMP n)) fun n t => t.setHsc n { t.hsc n with offDiag := false }

/-- The point of no return (R374): counters and NTU stop, the endpoints but ZK are reset, bus requests and tests end, the
outputs take their entry rules. -/
def State.pointNoReturn (s : State) : State :=
  let s := (s.setPhase phEnter).countersStore
  let s := s.each [1, 2, 3, 4, 5, 7] fun e t => t.endpointReset e
  let s := s.each [1, 2, 3, 4, 5] fun e t => t.holdCore e
  let s := (s.busesAbort.endRequests istatAbortedReset).chainsStop.diagStop
  let s := s.suspendWindows.hswEvalAll
  s.when (s.fld PMU_RSTAT_ACT_TGT == psPark) State.parkOutputs

/-- The domains that HOLD and PARK switch off: FAB, APP, SEC and NET, with PCORE in PARK (R366) unless the limp map needs it
(R380, R383). -/
def sleepReady (ready tgt : Nat) (limp : Bool) : Nat := ready &&& (if tgt == psPark && !limp then 0x61 else 0xE1)

/-- PCORE is powered for limp in PARK, where CK_RC runs the P-die (R380; spec/15, R393). -/
def State.limpPowered (s : State) : State :=
  { (s.put PMU_DOMSTAT_READY (s.fld PMU_DOMSTAT_READY ||| 0x80)).raiseBit SYS_CLKSTAT_PLOC with
    pmu := { s.pmu with pcoreLimp := true } }

/-- The state of the domains that are switched off is lost (R367; spec/13, R363; spec/08, R239; spec/09, R260; spec/16,
R433). -/
def State.ldieOff (s : State) : State :=
  let s := s.dropRegs sleepKeeps
  let s : State :=
    { s with mem := s.mem.filter (fun c => 0x1000000 ≤ c.1), txn := {}, can := [], lin := [], nsl := {}, gwe := {},
             readShadow := s.readShadow.filter (fun e => shadowStays true e.1)
             writeShadow := s.writeShadow.filter (fun e => shadowStays true e.1)
             nv := { s.nv with buf := s.nv.buf.filter (fun e => e.1 == 6), stalled := s.nv.stalled.filter (fun x => x.m == .zk) },
             sec := { s.sec with parts := [], queue := [], session := none, restart := false, speedAt := none } }
  s.keysShow

/-- The entry has reached its state (R374): the request ends OK, and a latched event starts a wake at once. -/
def State.sleepDone (s : State) : State :=
  let tgt := s.fld PMU_RSTAT_ACT_TGT
  let s := s.ldieOff
  let s := if tgt == psPark then (s.putB SYS_CLKSTAT_PLL_LOCK false).putB SYS_CLKSTAT_XTAL_OK false else s
  let s := (s.put PMU_DOMSTAT_READY (sleepReady (s.fld PMU_DOMSTAT_READY) tgt (s.flag PDI_STAT_LIMP))).fcuClamp
  let s := s.when (tgt == psPark && s.flag PDI_STAT_LIMP) State.limpPowered
  let s := ((s.put PMU_STAT_STATE tgt).setPhase phSteady).pmuActDone istatOk
  if s.pmu.latched.isEmpty then s.pmuPendStart
  else
    let s3 := s.pmu.latched.contains .s3
    let s : State := { s.putB PMU_STAT_LATCHED false with
      pmu := { s.pmu with latched := [], s3Wake := s3 || s.pmu.s3Wake } }
    let s := s.wakeStart
    if s.flag PMU_RSTAT_PEND_V && s.fld PMU_RSTAT_PEND_TGT == psRun then
      s.pmuPendClear.pmuActive (s.fld PMU_RSTAT_PEND_EP) psRun
    else s

/-! A failed wake and limp in PARK (spec/14, R379, R380). -/

/-- A limp trigger powers PCORE in PARK, and the map is applied (R380; log entry 97). -/
def State.limpTrigger (s : State) (cause code : Nat) : State :=
  (s.when (s.pstate == psPark && !s.flag PDI_STAT_LIMP) State.limpPowered).limpApply cause code

/-- The fourth attempt failed: the device returns to PARK (R379). -/
def State.wakeFail (s : State) : State :=
  let s := (s.setPhase phSteady).put PMU_STAT_STATE psPark
  let s := if s.pmu.wakeFrom == psHold then
      (s.parkOutputs.putB SYS_CLKSTAT_PLL_LOCK false).putB SYS_CLKSTAT_XTAL_OK false
    else s
  let s := (s.put PMU_DOMSTAT_READY (sleepReady (s.fld PMU_DOMSTAT_READY) psPark (s.flag PDI_STAT_LIMP))).fcuClamp
  let s := s.when (s.flag PDI_STAT_LIMP) State.limpPowered
  let s := ((s.raiseBit PMU_IRQ_WAKE_FAIL).raiseL 264).pmuActDone istatAbortedFault
  let s := if s.flag PDI_CFG_LIMP_WF then s.limpTrigger 6 istatAbortedFault else s
  s.pmuPendStart

/-- Every released core of ZC0–ZC3 and ZS has its clock gated, and no transition is in progress (spec/14, R365). -/
def State.dozes (s : State) : Bool :=
  s.fld PMU_STAT_STATE == 0 && s.pmuPhase == phSteady &&
  [1, 2, 3, 4, 5].all fun e => !(s.core e).released || (s.core e).wait.isSome

end Sys2Proof.Machine
end

