-- ==== Sys2Proof/Machine/Acc.lean ====
section
/-!
DEFINITION. The commands of vehicle access (spec/10): handle scans, poll requests, the steps of a poll and the end of a
lock-out.
-/

namespace Sys2Proof.Machine

/-- A write that only the owner may make (spec/10, Register map). -/
def State.accOwned (s : State) (m : Master) (f : State → State) : State :=
  if ownerOk (s.fld ACC_CFG_OWNER) m then f s else s.raiseBit ACC_IRQ_CFG_VIOL

/-! Handle sensors (spec/10, R261–R263). -/

def State.sensor (s : State) (n : Nat) : Handle8 := tget {} s.acc.sensor n
def State.setSensor (s : State) (n : Nat) (x : Handle8) : State :=
  { s with acc := { s.acc with sensor := tset {} s.acc.sensor n x } }

/-- BASE after one scan: a 64th of the way to CNT, rounded toward zero. -/
def baseStep (base cnt : Nat) : Nat := ((base : Int) + ((cnt : Int) - base).tdiv 64).toNat

/-- A touch: on a sensor with PARKEN = 1 a wake source, and a request for a poll, which in a sleep state waits for ZS (R263). -/
def State.touch (s : State) (n : Nat) : State :=
  let s := (s.putB (ACC_CHST_TOUCH n) true).raiseBit ACC_IRQ_TOUCH
  let waits := 2 ≤ s.pstate
  let s := s.when (s.flag (ACC_CH_PARKEN n)) fun t => t.pmuWake 3 n
  if !waits then s.pollRequest n false
  else if (s.fld PMU_WEN_EN).testBit 3 then { s with acc := { s.acc with wakePoll := some n } }
  else s

/-- The sensor runs: in HOLD and PARK only with PARKEN. -/
def State.sensorOn (s : State) (n : Nat) : Bool :=
  !s.sys.por && s.flag (ACC_CH_EN n) && (decide (s.pstate ≤ 1) || s.flag (ACC_CH_PARKEN n))

/-- A scan of a sensor that is on. CNT is compared with BASE as it was before the scan. -/
def State.scan (s : State) (n cnt : Nat) (broken : Bool) : State :=
  let x := s.sensor n
  let base := s.fld (ACC_CHST_BASE n)
  let stuck := if cnt != 0 && cnt != 0xFFFF then 0 else if cnt == s.fld (ACC_CHST_CNT n) then x.stuck + 1 else 1
  let t := s.flag (ACC_CHST_TOUCH n)
  let diff : Int := (cnt : Int) - base
  let thr : Int := s.fld (ACC_CH_THR n)
  let above := if thr ≤ diff then x.above + 1 else 0
  let s := s.put (ACC_CHST_CNT n) cnt
  let s := if t then s else s.put (ACC_CHST_BASE n) (baseStep base cnt)
  if broken || 8 ≤ stuck then
    ((s.setSensor n { above := 0, stuck := stuck }).putB (ACC_CHST_TOUCH n) false).raiseP 230
  else
    let s := s.setSensor n { above := above, stuck := stuck }
    if t then (if 2 * diff < thr then s.putB (ACC_CHST_TOUCH n) false else s)
    else if max 1 (s.fld (ACC_CH_DEB n)) ≤ above then s.touch n
    else s

/-- One measurement of an electrode; `broken` says that it is open or shorted. -/
def execHandleScan (n : Fin 8) (cnt : BitVec 16) (broken : Bool) (s : State) : Out :=
  .next (if s.sensorOn n then s.scan n cnt.toNat broken else s)

/-! Commands (spec/10, R264, R267). -/

/-- The value of an ACC_CMD write. -/
def accCmdWord (poll abort : Bool) (h : Nat) : BitVec 64 :=
  BitVec.ofNat 64 (h % 8 + (if poll then 2 ^ 63 else 0) + if abort then 2 ^ 62 else 0)

/-- A write of ACC_CMD: HSEL, then ABORT, then POLL. -/
def State.accCommand (s : State) (poll abort : Bool) (h : Nat) : State :=
  let s := s.put ACC_CMD_HSEL h
  let s := if abort then s.accAbort else s
  if poll then s.pollRequest h true else s

def State.accCommandBy (s : State) (m : Master) (poll abort : Bool) (h : Nat) : State :=
  s.access m ACC_CMD (some (accCmdWord poll abort h)) fun t => t.accOwned m fun u => u.accCommand poll abort h

def execAccPoll (m : Master) (h : Fin 8) (s : State) : Out := .next (s.accCommandBy m true false h)
def execAccAbort (m : Master) (h : Fin 8) (s : State) : Out := .next (s.accCommandBy m false true h)

/-! The steps of a poll (spec/10, R265, R268–R272). -/

/-- A step of the running poll in one of its states. -/
def State.pollStep (s : State) (st : Nat) (f : State → Poll → State) : State :=
  match s.acc.poll with
  | some p => if s.fld ACC_STAT_STATE == st then f s p else s
  | none => s

/-- An antenna's check: `d` is its DSTATE. -/
def State.antennaState (s : State) (k d : Nat) : State :=
  let s := s.put (ACC_LFA_DSTATE k) d
  if d == 1 then s else s.raiseL (224 + k)

/-- DSTATE of an antenna driven at `tenths` × 0.1 A: SHORT where its current was limited, OPEN where its peak, in mA, stayed
below half of LFI, GOOD otherwise. -/
def lfDstate (tenths peak : Nat) (limited : Bool) : Nat := if limited then 3 else if 2 * peak < 100 * tenths then 2 else 1

def State.lfEnd (s : State) (peaks : List (BitVec 16)) (limited : BitVec 6) (p : Poll) : State :=
  let checked := p.ant.map fun x => (x.1, lfDstate x.2 (peaks.getD x.1 0).toNat (limited.toNat.testBit x.1))
  let s := s.each checked fun x t => t.antennaState x.1 x.2
  let left := checked.filter fun x => x.2 == 1
  if left.isEmpty then (s.accResult codeRadioFault p.handle 0 0 0 s.acc.pollNo 0xFFFF).pollLeave codeRadioFault
  else s.put ACC_STAT_STATE accWakeWait

/-- The telegram ends: entry k of `peaks` is LFAk's peak current in mA over its first 64 carrier cycles, and bit k of
`limited` that its current was limited. -/
def execLfTelegramEnd (peaks : List (BitVec 16)) (limited : BitVec 6) (s : State) : Out :=
  .next (s.pollStep accLf fun t p => t.lfEnd peaks limited p)

/-- The Poll frame, after its script; ZS draws the poll's nonce. -/
def State.rangeStart (s : State) (runs : List RadioRun) (p : Poll) : State :=
  let d := s.draw
  let r := d.2.runScripts { p with nonce := d.1 } (s.fld ACC_RGPCFG_SPOLL) 0 [] runs
  let s := (r.1.setPoll (some r.2.1)).put ACC_STAT_STATE accRange
  s.send (.ranging 0 p.radios (s.fld ACC_VEHID_VEHID) s.acc.pollNo 0)

def execKeyWakeEnd (runs : List RadioRun) (s : State) : Out := .next (s.pollStep accWakeWait fun t p => t.rangeStart runs p)

/-- The script that runs after each slot runs after the slots before `k` in which nothing came: no interrupt is seen there, and
what the radios return is free (R269; log entry 93). -/
def State.emptySlots (s : State) (p : Poll) (start k : Nat) : State × Poll :=
  ((List.range k).filter (p.slot ≤ ·)).foldl (fun acc j =>
    let r := acc.1.runScripts acc.2 start j [] []
    (r.1, r.2.1)) (s, p)

/-- A response came in slot `k`, which is not over yet. -/
def State.keyResponse (s : State) (k : Nat) (runs : List RadioRun) (p : Poll) : State :=
  if k < p.slot then s
  else
    let start := s.fld ACC_RGPCFG_SRESP
    let e := s.emptySlots p start k
    let r := e.1.runScripts e.2 start k [] runs
    r.1.setPoll (some { r.2.1 with slot := k + 1 })

def execKeyResponseRx (k : Fin 8) (runs : List RadioRun) (s : State) : Out :=
  .next (s.pollStep accRange fun t p => t.keyResponse k runs p)

/-- The Final frame, after the scripts of the response slots left and its own. -/
def State.finalSend (s : State) (runs : List RadioRun) (p : Poll) : State :=
  let e := s.emptySlots p (s.fld ACC_RGPCFG_SRESP) 8
  let r := e.1.runScripts e.2 (s.fld ACC_RGPCFG_SFINAL) 0 [] runs
  let s := (r.1.setPoll (some { r.2.1 with slot := 0 })).put ACC_STAT_STATE accAnswer
  s.send (.ranging 1 p.radios (s.fld ACC_VEHID_VEHID) s.acc.pollNo p.nonce)

def execRangingFinal (runs : List RadioRun) (s : State) : Out := .next (s.pollStep accRange fun t p => t.finalSend runs p)

/-- An answer that some radio's script reads into capture 0xB, in slot `k`, which is not over yet. -/
def State.keyAnswer (s : State) (k : Nat) (air : List Byte) (runs : List RadioRun) (p : Poll) : State :=
  if k < p.slot then s
  else
    let start := s.fld ACC_RGPCFG_SANS
    let e := s.emptySlots p start k
    let r := e.1.runScripts e.2 start k air runs
    r.1.setPoll (some { r.2.1 with answers := r.2.1.answers ++ r.2.2.toList, slot := k + 1 })

/-- The answer window ends, after the scripts of the answer slots left. -/
def State.answerEnd (s : State) (p : Poll) : State :=
  let e := s.emptySlots p (s.fld ACC_RGPCFG_SANS) 8
  (e.1.setPoll (some e.2)).put ACC_STAT_STATE accEval

/-- An Answer payload received in the answer slot `k`. -/
def execKeyAnswerRx (k : Fin 8) (payload : List Byte) (runs : List RadioRun) (s : State) : Out :=
  .next (s.pollStep accAnswer fun t p => t.keyAnswer k payload runs p)

def execAnswerWindowEnd (s : State) : Out := .next (s.pollStep accAnswer fun t p => t.answerEnd p)

def execPollEvalDone (s : State) : Out := .next (s.pollStep accEval fun t p => t.pollEval p)

/-! Lock-out (spec/10, R275, R276). -/

/-- A lock-out ends, and the lock-out state is written to the NV store. -/
def State.lockEnd (s : State) : State :=
  let l := s.acc.lockOut
  if l.locked then { s with acc := { s.acc with lockOut := { l with locked := false } } }.lockSave else s

/-- The lock-out time has passed. -/
def execLockoutEnd (s : State) : Out := .next (if s.acc.lockOut.ends ≤ s.slowAge then s.lockEnd else s)

end Sys2Proof.Machine
end

