-- ==== Sys2Proof/Machine/BsqOps.lean ====
section
/-!
DEFINITION. The start of a bootstrap (spec/13, R354, R358), resets of the L-die and of a core, and the P-die power-on reset
(spec/15, R395–R401).
-/

namespace Sys2Proof.Machine

/-- The watchdogs stop (spec/15, R400). -/
def State.wdStopAll (s : State) : State :=
  s.each (List.range 4) fun k t => t.setWdog k { t.wdog k with running := false, waitRelease := false }

/-- The candidate fields of BSQ_STAT are cleared for a new run. -/
def State.bootClear (s : State) : State :=
  let s := (s.put BSQ_STAT_EXIT1 0).put BSQ_STAT_EXIT2 0
  ((s.put BSQ_STAT_INRFAIL 0).put BSQ_STAT_INRSKIP 0).put BSQ_XSPI_RETRIES 0

/-- Recovery re-initialises the CAN and LIN channels, the switch and the gateway (spec/08, R239; spec/09, R260): requests end
ABORTED_RESET, links drop, registers wait for the image, and the ledgers clear. With EN cleared, so do the descriptors that the
switch holds (spec/09, R247). -/
def State.busesRestart (s : State) : State :=
  let cans := (List.range 8).flatMap fun n => (s.canPendings n).map fun k => CAN_MB_CTL_ISTAT n k
  let lins := (List.range 8).flatMap fun n =>
    ((List.range 64).map fun i => LIN_FR_ISTAT n i).filter fun f => s.fld f == istatPending
  let s := s.when (s.flag ESW_CTL_EN) State.switchOff
  let s := s.linkWatch fun t => { t.dropRegs (fun a => !inNet a || a / 65536 == 0x4009) with can := [], lin := [], gwe := {} }
  let s := s.each (cans ++ lins) fun f t => t.put f istatAbortedReset
  s.each (List.range 16) fun m t => t.ledgerClear m

/-- BSQ_XSPI shows the flash interface in force (spec/13, R334). -/
def State.xspiShow (s : State) (mode clk dummy : Nat) : State :=
  ((s.put BSQ_XSPI_MODE mode).put BSQ_XSPI_CLKDIV clk).put BSQ_XSPI_DUMMY dummy

/-- A bootstrap of a kind starts, unless S4 holds (spec/13, R354, R355, R358, R363; spec/11, R306). RECOVERY holds ZC0–ZC3
in reset, under their endpoint rules (spec/12, R326), ends the halt of ZS and ZK by their reset (spec/11, R299; log entry
94), re-initialises the buses and the gateway, and reads no flash. -/
def State.bootStart (s : State) (kind : Nat) : State :=
  if s.s4 then s
  else
    let s := if kind == bkRecovery then
      let s := s.each [1, 2, 3, 4] fun e t => (t.endpointReset e).holdCore e
      (s.each [5, 6] fun e t => t.when (t.core e).halted fun u => ((u.endpointReset e).holdCore e).releaseCore e).busesRestart
    else s
    let s := (s.put BSQ_STAT_KIND kind).put BSQ_STAT_STATE (if kind == bkRecovery then bsVerify else bsFlash)
    let s := s.when (kind != bkRecovery) fun t => t.xspiShow 0 0 8
    let s := ((s.incSat BSQ_STAT_BOOTS).bootClear.wdStopAll).setPhase phBoot
    { s with
      sys := { s.sys with inReset := false }
      bsq := { s.bsq with
        running := true, handle := none, slots := [], place := 0, second := false, waitRetry := false, zsReady := false,
        regs := [], regsWait := false, netWait := false, recWait := false, nvWait := false, owners := [], built := false, start := s.now, s3Held := s.bsq.s3Held && kind != bkRecovery,
        fromPark := kind == bkWake && s.pmu.wakeFrom == psPark } }

/-- Registers an L-die reset keeps (spec/15, R396; spec/17, R448; spec/10, R278 for the handle sensors; spec/05, R165 for the
matrix levels). -/
def ldieKeeps (a : Nat) : Bool :=
  isPdieReg a || isMatrixReg a || a == PMU_STAT || a == PMU_RSTAT || a == PMU_WAKE || a == PMU_DOMSTAT ||
  inBlocks 0x40130000 0x40150000 a || a == FCU_STAT || a == FCU_RECSTAT || inBlocks 0x40110100 0x40110400 a || inBlocks 0x400D0100 0x400D0180 a ||
  a == SYS_RSTCAUSE || a == SYS_CLKSTAT || a == SYS_SUPPLY

/-- The state of the L-die outside its registers returns to reset (spec/15, R396; spec/10, R278; spec/12, R326; spec/16,
R433). BSQ_HOENTRY and BSQ_HOFLAG are registers of the BSQ, which are kept. -/
def State.ldieClear (s : State) : State :=
  { s with
    txn := {}, gt := [], ntu := {}, mbx := {}, can := [], lin := [], nsl := {}, gwe := {}, readShadow := [], writeShadow := [],
    hsw := { s.hsw with ctrSeen := [], ctrIn := [] }
    hand := { flag := s.hand.flag, en := s.hand.en, entry := s.hand.entry }, gtAvail := false
    acc := { s.acc with poll := none, pend := none, wakePoll := none, pollNo := 0 }
    cpu := { s.cpu with core := [] }
    nv := { s.nv with buf := [], stalled := [], held := [] }
    sec := { s.sec with parts := [], queue := [], session := none, restart := false, speedAt := none }
    pmu := { s.pmu with latched := [] } }

/-- An L-die reset (spec/15, R395–R399; spec/13, R358; spec/14, R373, R374; spec/16, R432). A power-on reset absorbs it (R398).
After the point of no return of an entry it is latched; in HOLD and PARK the L-die is not powered. The next bootstrap keeps the kind of one that ran, but
RECOVERY becomes WARM. A bus request shows its code ABORTED_RESET in the registers that are reset otherwise (spec/08, R220,
R239; DEDUCED, log entry 103). -/
def State.ldieReset (s : State) (announced : Bool) : State :=
  if s.sys.por then s
  else if s.pmuPhase == phEnter then s.latch .ldieReset
  else if s.pmuPhase != phBoot && 2 ≤ s.fld PMU_STAT_STATE then s
  else
    let s := if s.pmuPhase == phPrepare then (s.pmuActDone istatAbortedReset).setPhase phSteady else s
    let kind := if (s.bsq.running || s.sys.inReset) && s.fld BSQ_STAT_KIND != bkRecovery then s.fld BSQ_STAT_KIND else bkWarm
    let s := if s.hoRuns then s.put BSQ_HOSTAT_PHASE 0 else s
    let s := if announced then s.announcedReset else s
    let poll := s.acc.poll
    let no := s.acc.pollNo
    let s := (s.chainsStop).endRequests istatAbortedReset
    let open_ := s.busRequests
    let s := ((s.dropRegs ldieKeeps).ldieClear.wdStopAll).keysShow.degradedShow
    let s := s.each open_ fun f t => t.put f istatAbortedReset
    let s := s.put PMU_DOMSTAT_READY (s.fld PMU_DOMSTAT_READY ||| 0x10)
    let s := (s.put BSQ_STAT_KIND kind).put BSQ_STAT_STATE bsReset
    let s := match poll with
      | some p => s.accResult codeAborted p.handle 0 0 0 no 0xFFFF
      | none => s
    { s.hswEvalAll with bsq := { s.bsq with running := false, netWait := false, recWait := false, nvWait := false }, sys := { s.sys with inReset := true } }

/-- The bootstrap that follows an L-die reset, once RESET_N is high and the PLL is locked (spec/15, R390, R399). -/
def State.bootAfterReset (s : State) : State :=
  if s.sys.inReset && !s.sys.pinLow && !s.sys.pllWait then s.bootStart (s.fld BSQ_STAT_KIND) else s

/-- An L-die reset with nothing to wait for. -/
def State.ldieRestart (s : State) : State := (s.ldieReset true).bootAfterReset

/-- A core reset of an endpoint, the host port being 7 (spec/15, R397; spec/16, R425, R432; spec/11, R299: a halted core
stays halted). -/
def State.coreReset (s : State) (e : Nat) : State :=
  let e := s.coreHome e
  let s := if s.hoRuns && (s.fld BSQ_HOSTAT_PART).testBit e then s.hoAbandon 4 else s
  if e == 0 then s
  else if e == 7 then ((s.endpointReset 7).raiseBit SYS_RSTCAUSE_HOST).wdRelease 7
  else
    let s := s.put SYS_RSTCAUSE_CORE (s.fld SYS_RSTCAUSE_CORE ||| 2 ^ (e - 1))
    if (s.core e).halted then s.endpointReset e else s.coreResetRun e

/-- The P-die power-on reset (spec/15, R395, R401): everything but the NV store, the OTP cells and the key storage; the
lock-out state comes back from the NV store (spec/10, R276), and RESET_N stays at its level (R399). -/
def State.powerOnReset (s : State) : State :=
  let t : State :=
    { pending := s.pending, now := s.now, freeCtr := s.freeCtr, sent := s.sent
      regs := (s.regs.filter fun e => e.1 == FCU_RECSTAT || inBlocks 0x40140000 0x40150000 e.1)
      mem := s.mem.filter (fun c => 0x10000000 ≤ c.1 && c.1 < 0x10400000), flash := s.flash
      acc := { nvLockOut := s.acc.nvLockOut }
      nv := { waybill := s.nv.waybill, bootLog := s.nv.bootLog }
      pmu := { slowBase := s.now }, sys := { pinLow := s.sys.pinLow }
      sec := { keys := s.sec.keys } }
  ((((t.put FCU_RECSTAT_LOST 0).put FCU_RECSTAT_QLEN 0).putB ID_STAT_PVALID false).putB ID_STAT_OTPERR false).keysShow.lockRestore

end Sys2Proof.Machine
end

