-- ==== Sys2Proof/Machine/HashOps.lean ====
section
/-!
DEFINITION. SHA-256 (FIPS 180-4), the hash the manual names for images (spec/13, R350), by structural recursion over the
message; and the CRC-32 of IEEE 802.3 (spec/13, R337, R339; spec/17, R445).
-/

namespace Sys2Proof.Machine

/-! CRC-32. -/

/-- The register after one more byte, reflected. -/
def crc32Byte (crc : Nat) (b : Byte) : Nat :=
  (List.range 8).foldl (fun c _ => if c % 2 == 1 then c / 2 ^^^ 0xEDB88320 else c / 2) (crc ^^^ b.toNat)

def crc32 (l : List Byte) : Nat := l.foldl crc32Byte 0xFFFFFFFF ^^^ 0xFFFFFFFF

/-! SHA-256. -/

/-- The primes below 312: the first 64. -/
def shaPrimes : List Nat :=
  (List.range 312).filter fun p => 2 ≤ p && (List.range 18).all fun d => d < 2 || p < d * d || p % d != 0

/-- The `k`-th root of `n`, rounded down: steps of Newton's rule from a number not below it, while they fall. -/
def rootFrom (k n : Nat) : Nat → Nat → Nat
  | 0, x => x
  | steps + 1, x =>
    let y := ((k - 1) * x + n / x ^ (k - 1)) / k
    if y < x then rootFrom k n steps y else x

/-- The first 32 bits of the fraction of the `k`-th root of a prime below 312. -/
def rootBits (k p : Nat) : Nat := rootFrom k (p * 2 ^ (32 * k)) 32 (2 ^ 37) % 2 ^ 32

/-- The round constants: from the cube roots of the primes. -/
def shaK : List Nat := shaPrimes.map (rootBits 3)

/-- The initial hash value: from the square roots of the first 8 primes. -/
def shaInit : List Nat := (shaPrimes.take 8).map (rootBits 2)

def add32 (a b : Nat) : Nat := (a + b) % 2 ^ 32
def ror32 (x n : Nat) : Nat := (x / 2 ^ n + x * 2 ^ (32 - n)) % 2 ^ 32
def not32 (x : Nat) : Nat := 2 ^ 32 - 1 - x

def shaSmall0 (x : Nat) : Nat := ror32 x 7 ^^^ ror32 x 18 ^^^ (x / 2 ^ 3)
def shaSmall1 (x : Nat) : Nat := ror32 x 17 ^^^ ror32 x 19 ^^^ (x / 2 ^ 10)
def shaBig0 (x : Nat) : Nat := ror32 x 2 ^^^ ror32 x 13 ^^^ ror32 x 22
def shaBig1 (x : Nat) : Nat := ror32 x 6 ^^^ ror32 x 11 ^^^ ror32 x 25

/-- One more word of the schedule; the words are held newest first. -/
def shaExtend (w : List Nat) : List Nat :=
  add32 (add32 (shaSmall1 (w.getD 1 0)) (w.getD 6 0)) (add32 (shaSmall0 (w.getD 14 0)) (w.getD 15 0)) :: w

/-- The 64 words of a block's schedule. -/
def shaSchedule (block : List Nat) : List Nat :=
  ((List.range 48).foldl (fun w _ => shaExtend w) block.reverse).reverse

/-- One round. -/
def shaRound (h : List Nat) (kw : Nat × Nat) : List Nat :=
  match h with
  | [a, b, c, d, e, f, g, x] =>
    let t1 := add32 (add32 (add32 x (shaBig1 e)) (add32 ((e &&& f) ^^^ (not32 e &&& g)) kw.1)) kw.2
    let t2 := add32 (shaBig0 a) ((a &&& b) ^^^ (a &&& c) ^^^ (b &&& c))
    [add32 t1 t2, a, b, c, add32 d t1, e, f, g]
  | _ => h

/-- One block of 16 words. -/
def shaBlock (h block : List Nat) : List Nat :=
  List.zipWith add32 h ((shaK.zip (shaSchedule block)).foldl shaRound h)

/-- Bytes in big-endian words. -/
def shaWords : List Byte → List Nat
  | a :: b :: c :: d :: r => (a.toNat * 2 ^ 24 + b.toNat * 2 ^ 16 + c.toNat * 2 ^ 8 + d.toNat) :: shaWords r
  | _ => []

/-- The message with its padding. -/
def shaPad (l : List Byte) : List Byte :=
  l ++ [0x80] ++ List.replicate ((119 - l.length % 64) % 64) 0 ++ natBe 8 (l.length * 8)

/-- Blocks of 16 words one after another; `n` bounds their number. -/
def shaBlocks : Nat → List Nat → List Nat → List Nat
  | 0, h, _ => h
  | n + 1, h, w => if w.isEmpty then h else shaBlocks n (shaBlock h (w.take 16)) (w.drop 16)

/-- SHA-256 of bytes, 32 bytes. -/
def sha256 (l : List Byte) : List Byte :=
  let w := shaWords (shaPad l)
  ((shaBlocks w.length shaInit w).map (natBe 4)).flatten

end Sys2Proof.Machine
end

