-- ==== Sys2Proof/Machine/SecOps.lean ====
section
/-!
DEFINITION. The SEC gate (spec/16, R408–R416): segments, the checks of a message, its queue, the update conditions, and how
the monitor takes a command.
-/

namespace Sys2Proof.Machine

/-! Messages (spec/16, R413). -/

def msgFamily (l : List Byte) : Nat := (l.headD 0).toNat % 64
def msgOp (l : List Byte) : Nat := (l.getD 1 0).toNat
def msgLen (l : List Byte) : Nat := leNat ((l.drop 2).take 2)
def msgBody (l : List Byte) : List Byte := (l.drop 8).take (msgLen l)
def bodyByte (b : List Byte) (i : Nat) : Nat := (b.getD i 0).toNat
def bodyLe (b : List Byte) (i n : Nat) : Nat := leNat ((b.drop i).take n)

/-- Check 1 of an operation's length and, for the FAULT family, its fields (R414, R416, R446). Operations whose body the
manual does not lay out take any length (log entry 39). -/
def opFormat (family op : Nat) (b : List Byte) (reserved : Nat → Bool) : Bool :=
  match family, op with
  | 0, 1 | 0, 2 | 4, 3 | 4, 5 | 5, 4 | 6, 1 | 6, 2 | 8, 2 | 9, 1 | 9, 3 => b.isEmpty
  | 1, 1 => b.length == 16
  | 4, 1 => b.length == 8
  | 4, 2 => 4 < b.length && b.length ≤ 4100
  | 4, 4 => b.length == 3
  | 5, 1 => b.length == 97
  | 5, 2 | 5, 3 | 7, 1 | 7, 2 | 7, 3 | 9, 2 => true
  | 8, 1 => b.length == 3 && bodyLe b 0 2 ≤ 1023 && 1 ≤ bodyByte b 2 && bodyByte b 2 ≤ 64
  | 8, 3 => b.length == 3 && !reserved (bodyLe b 0 2) && bodyByte b 2 ≤ 4
  | 8, 4 => b.length == 3 && !reserved (bodyLe b 0 2) && 1 ≤ bodyByte b 2 && bodyByte b 2 ≤ 4
  | _, _ => false

/-- Reserved fault sources (spec/17, R438). -/
def sourceReserved (src : Nat) : Bool :=
  (76 ≤ src && src ≤ 79) || src == 111 || src == 167 || (186 ≤ src && src ≤ 191) || src == 215 || src == 222 || src == 223 ||
  (233 ≤ src && src ≤ 239) || (248 ≤ src && src ≤ 255) || src == 263 || src == 278 || src == 279 ||
  (285 ≤ src && src ≤ 351) || 384 ≤ src

/-! Update conditions (spec/16, R424). -/

/-- Milliseconds since the speed signal arrived, saturating. -/
def State.speedAge (s : State) : Nat :=
  match s.sec.speedAt with
  | some t => min 0xFFFF ((s.now - t) / 125000)
  | none => 0xFFFF

/-- The speed value with every bit 1: not available (R411). -/
def State.speedNone (s : State) : Bool := s.fld SEC_GATE_SPEED == 2 ^ (s.fld SEC_SPEED_LENM1 + 1) - 1

/-- Condition 0x31 is clear: a signal of the last 500 ms, which are 62,500,000 CK_PER cycles. -/
def State.speedOk (s : State) : Bool :=
  s.flag SEC_SPEED_EN && s.sec.speedAt.any (fun t => decide (s.now - t ≤ 62500000)) && !s.speedNone &&
  decide (s.fld SEC_GATE_SPEED ≤ 768)

/-- Condition 0x32 is clear for VBAT in 20 mV. -/
def State.vbatOk (s : State) (vbat : Nat) : Bool :=
  decide ((match s.fld SYS_SUPPLY_VCLASS with | 1 => 1100 | 2 => 2200 | _ => 550) ≤ vbat)

/-- The REASON for which an UPDATE command but ABORT is refused (R424). -/
def State.updateBar (s : State) (vbat : Nat) : Option Nat :=
  if !s.bootFailed && !s.speedOk then some 0x31
  else if !s.vbatOk vbat then some 0x32
  else if s.sec.keys.ownerLock then some 0x33
  else none

/-! The gate (spec/16, R414, R415). -/

/-- Check 2. -/
def State.gateTrust (s : State) (port family : Nat) : Bool :=
  if s.bootFailed then port == 0x1F && (family == 0 || family == 1 || family == 4)
  else s.familyAllows family (s.portClass port)

/-- A family that is refused in the state of the device: all but STATUS and ATTEST under S4, FACTORY in FIELD (R416), UPDATE
during a recovery (R433), ERASE under S3 (spec/17, R446). -/
def State.familyBar (s : State) (family op : Nat) : Bool :=
  (s.s4 && 2 ≤ family) || (family == 9 && s.sec.keys.field) || (family == 4 && s.flag FCU_STAT_RECOV) ||
  (family == 8 && op == 2 && s.s3)

/-- Check 3: the REASON of a refusal. -/
def State.gateState (s : State) (family op vbat : Nat) : Option Nat :=
  if s.familyBar family op then some 3
  else if family == 4 && op != 5 then s.updateBar vbat
  else none

/-- The messages that wait for the monitor. -/
def State.secWaiting (s : State) : Nat := (s.sec.queue.filter fun x => x.verdict.isNone).length

/-- The first check of a message that fails: ISTAT and REASON. -/
def State.gate (s : State) (port vbat : Nat) (l : List Byte) : Option (Nat × Nat) :=
  let f := msgFamily l
  let op := msgOp l
  if l.length < 8 + msgLen l || !opFormat f op (msgBody l) sourceReserved then some (istatConflict, 1)
  else if !s.gateTrust port f then some (istatPolicy, 2)
  else
    match s.gateState f op vbat with
    | some r => some (istatPolicy, r)
    | none => if 8 ≤ s.secWaiting then some (istatConflict, 4) else none

/-- QLEN follows the queue. -/
def State.setSecQueue (s : State) (q : List SecMsg) : State :=
  let s : State := { s with sec := { s.sec with queue := q } }
  s.put SEC_GATE_QLEN s.secWaiting

/-- A whole message reaches the gate. -/
def State.gateMessage (s : State) (x : SecMsg) (vbat : Nat) : State :=
  match s.gate x.port vbat x.bytes with
  | some (istat, reason) => (s.incSat SEC_INTAKE_REFUSED).respond x.src x.bytes istat reason []
  | none => ((s.incSat SEC_INTAKE_ACCEPTED).raiseBit SEC_IRQ_CMD).setSecQueue (s.sec.queue ++ [x])

/-! Segments (spec/16, R412). -/

/-- The message in reassembly on a port. -/
def State.part (s : State) (port : Nat) : Option SecMsg := s.sec.parts.find? fun x => x.port == port

def State.dropPart (s : State) (port : Nat) : State :=
  { s with sec := { s.sec with parts := s.sec.parts.filter fun x => x.port != port } }

/-- The data of a segment: full but in the last one. -/
def segOk (via : Carrier) (last : Bool) (n : Nat) : Bool :=
  match via, last with
  | .can _, false => n == segSize via
  | _, _ => n ≤ segSize via

/-- The bytes of a message without what fills up the frame of its last segment. -/
def unpadded (last : Bool) (l : List Byte) : List Byte := if last then l.take (8 + msgLen l) else l

/-- A message takes one more segment; one that is not full, though it is not the last, ends the message as one out of order
does (DEDUCED, log entry 108). -/
def State.takeSegment (s : State) (x : SecMsg) (via : Carrier) (last : Bool) (data : List Byte) (vbat : Nat) : State :=
  let bytes := unpadded last (x.bytes ++ data)
  let s := s.dropPart x.port
  if !segOk via last data.length || 4608 < bytes.length then s.incSat SEC_INTAKE_SEGERR
  else
    let x := { x with nextSeg := x.nextSeg + 1, bytes := bytes }
    if last then s.gateMessage x vbat else { s with sec := { s.sec with parts := s.sec.parts ++ [x] } }

/-- The gate takes messages: they are lost in an L-die reset, a bootstrap and the basting hold, but not in the RECOVERY of an
S3, nor in BOOT_FAIL, whose rows stand below that of the hold (R433). -/
def State.gateOpen (s : State) : Bool :=
  s.pstate ≤ 1 && !s.sys.inReset && !(s.bsq.running && s.fld BSQ_STAT_KIND != bkRecovery) &&
  !(s.flag PDI_STAT_HOLD && !s.s3 && !s.s4 && !s.bootFailed)

/-- A carrier frame brings a segment to a port. -/
def State.segRx (s : State) (port : Nat) (via : Carrier) (vbat : Nat) : State :=
  let l := carrierBytes via
  let id := leNat (l.take 2)
  let ctl := leNat ((l.drop 2).take 2)
  let last := ctl.testBit 15
  let seg := ctl % 4096
  let data := l.drop 4
  if !s.gateOpen || l.length < 4 then s
  else
    let older := match s.part port with
      | some x => x.msgId != id
      | none => false
    let s := if older then (s.dropPart port).incSat SEC_INTAKE_SEGERR else s
    match s.part port with
    | some x =>
      if x.nextSeg == seg then s.takeSegment x via last data vbat else (s.dropPart port).incSat SEC_INTAKE_SEGERR
    | none =>
      if seg != 0 then s.incSat SEC_INTAKE_SEGERR
      else if 4 ≤ s.sec.parts.length then s.incSat SEC_INTAKE_INBUSY
      else s.takeSegment { port := port, msgId := id, bytes := [], src := .net port id (carrierHead via) } via last data vbat

/-- The speed signal in a CAN frame (R411). -/
def State.speedRx (s : State) (n : Nat) (f : CanFrame) : State :=
  if s.flag SEC_SPEED_EN && s.fld SEC_SPEED_CHAN == n && s.flag SEC_SPEED_IDE == f.ide && s.fld SEC_SPEED_ID == f.id.toNat then
    { s.put SEC_GATE_SPEED (leNat f.data / 2 ^ s.fld SEC_SPEED_START % 2 ^ (s.fld SEC_SPEED_LENM1 + 1)) with
      sec := { s.sec with speedAt := some s.now } }
  else s

/-- A CAN frame matches the command carrier: FD or XL with its identifier (R408, R411). -/
def State.canCmdCarrier (s : State) (f : CanFrame) : Bool :=
  s.flag SEC_CARRIER_CANEN && (f.fmt == 2 || f.fmt == 3) && f.ide == s.flag SEC_CARRIER_IDE && f.id.toNat == s.fld SEC_CARRIER_ID

/-- A frame to the command carrier (spec/16, R408). -/
def State.ethCmdCarrier (s : State) (f : EthFrame) : Bool :=
  s.flag SEC_CARRIER_ETHEN && f.etype.toNat == s.fld SEC_CARRIER_ETYPE && f.da.toNat == s.fld ESW_MAC_MAC

/-! The monitor (spec/16, R407, R409, R414). -/

/-- The words posted to ZS are the monitor's: ZS's entry is the boot ROM's (spec/16, R407), or BOOT_FAIL runs it (R415). -/
def State.zsMonitor (s : State) : Bool := s.bootFailed || (s.entry 5).pc == 0x20000000

/-- ZS runs the monitor. -/
def State.zsServes (s : State) : Bool := s.bootFailed || ((s.core 5).released && !(s.core 5).halted && s.zsMonitor)

/-- The port code of a mailbox to ZS. -/
def State.mboxPort (s : State) (m : Nat) : Nat := if s.mbxEp m (1 - s.zsSide m) == 7 then 0x1F else 0x14

/-- The oldest unread word of a mailbox to ZS, marked read. -/
def State.zsWord (s : State) (m : Nat) : Option (State × BitVec 64) :=
  match s.mbxSide? m 5 with
  | none => none
  | some k => if s.mbxRx m k then some (s.mbxPop m k) else none

/-- A word posted to ZS reaches the gate (R408, R409, R414): its buffer is read and checked, with VBAT as measured at that
moment (log entry 9). A message that passes waits with the others in arrival order; one that is refused is answered when
its turn has come, so that the words of a mailbox are acknowledged in their order (log entry 110). One that ZS cannot read
(spec/13, R330) ends ABORTED_FAULT (log entry 105). -/
def State.gateWord (s : State) (m : Nat) : State :=
  match s.zsWord m with
  | none => s
  | some (t, w) =>
    let addr := w.toNat % 2 ^ 40
    let ok := s.bufferOk m addr
    let x : SecMsg :=
      { port := s.mboxPort m, msgId := 0, bytes := if ok then s.bytes addr 4608 else [], src := .mbox m addr }
    let r := if ok && region addr == .sram then t.sramRead else (t, true)
    let d := r.1.draw
    match if !ok then some (istatPolicy, 0) else if !r.2 then some (istatAbortedFault, 0)
        else d.2.gate x.port (d.1.toNat % 65536) x.bytes with
    | some v => (d.2.incSat SEC_INTAKE_REFUSED).setSecQueue (d.2.sec.queue ++ [{ x with verdict := some v }])
    | none => ((d.2.incSat SEC_INTAKE_ACCEPTED).raiseBit SEC_IRQ_CMD).setSecQueue (d.2.sec.queue ++ [x])

/-- The refused messages whose turn has come are answered. -/
def State.answerTurned (s : State) : State :=
  let turned := s.sec.queue.takeWhile fun x => x.verdict.isSome
  let s := s.setSecQueue (s.sec.queue.dropWhile fun x => x.verdict.isSome)
  s.each turned fun x t => match x.verdict with
    | some v => t.respond x.src x.bytes v.1 v.2 []
    | none => t

/-- The words to ZS that the gate cannot take are lost: they end ABORTED_RESET, the one code R310 leaves them (spec/16, R433;
DEDUCED, log entry 110). -/
def State.loseWords (s : State) : State :=
  s.each (List.range 16) fun m t => match t.mbxSide? m 5 with
    | some k => t.mbxAbort m k
    | none => t

/-- The gate takes every word that waits for it in a mailbox to ZS. -/
def State.gateWords (s : State) : State :=
  if !s.gateOpen then s.when s.zsMonitor State.loseWords
  else if !s.zsServes then s
  else
    (s.each ((List.range 16).filter fun m => (s.mbxSide? m 5).any (s.mbxRx m)) fun m t =>
      t.each (List.range 8) fun _ u => u.gateWord m).answerTurned

/-- The message comes from the source. -/
def SecMsg.comesFrom (x : SecMsg) (src : CmdSrc) : Bool :=
  match x.src, src with
  | .net .., .net => true
  | .mbox m _, .mbox n => m == n.val
  | _, _ => false

/-- The message of an operation that the monitor takes from a source, when it is the oldest (R414): the state in which it runs,
where it came from, the port it is judged by, and its bytes. In BOOT_FAIL only the host is served (R415). -/
def State.taken (s : State) (src : CmdSrc) (family op : Nat) : Option (State × CmdFrom × Nat × List Byte) :=
  let s := s.gateWords
  match s.sec.queue with
  | [] => none
  | x :: q =>
    if s.zsServes && x.verdict.isNone && x.comesFrom src && !(s.bootFailed && src == .net) &&
        msgFamily x.bytes == family && msgOp x.bytes == op then
      some (s.setSecQueue q, x.src, x.port, x.bytes)
    else none

/-- The monitor takes the command of an operation and runs it on the body, unless the state of the device has come to refuse
its family. Anything else leaves the state unchanged (log entry 7). -/
def State.monitor (s : State) (src : CmdSrc) (family op : Nat) (run : State → CmdFrom → Nat → List Byte → State) : State :=
  match s.taken src family op with
  | none => s
  | some (t, f, p, l) =>
    (if t.familyBar family op then t.respond f l istatPolicy 3 [] else run t f p l).answerTurned

end Sys2Proof.Machine
end

