-- ==== Sys2Proof/Machine/FcuOps.lean ====
section
/-!
DEFINITION. The fault collector (spec/17): activations, the reactions of the classes, recovery, the S3 count and the
records.
-/

namespace Sys2Proof.Machine

/-! Sources and classes (spec/17, R438–R440). -/

/-- The severity nibble of a source. -/
def sevFld (src : Nat) : Fld := FCU_SEV_SEV (src / 16) (src % 16)

/-- The class a source acts with now: its nibble, S3 while its storage cannot be corrected; FS257 never acts above S1
(R439). -/
def State.fcuClass (s : State) (src : Nat) : Nat :=
  let cls := if s.fcu.badSev.contains src then 3 else s.fld (sevFld src)
  if src == 257 then min cls 1 else cls

/-- The class of a source's pair fault: S2 or the source's own, whichever is higher (R435), FS257 at S1 (R439). -/
def State.pairClass (s : State) (src : Nat) : Nat := if src == 257 then 1 else max 2 (s.fcuClass src)

/-- The write rule of the block: FCU_CFG.OWNER, ZS and ZK, or any master while OWNER is 0. -/
def State.fcuMay (s : State) (m : Master) : Bool := ownerOk (s.fld FCU_CFG_OWNER) m || m == .zs || m == .zk

def State.fcuOwned (s : State) (m : Master) (f : State → State) : State :=
  if s.fcuMay m then f s else s.raiseBit FCU_IRQ_CFG_VIOL

/-! Records (spec/17, R445). -/

/-- Up to four other sources active at S2 or above, lowest first. -/
def State.fcuOthers (s : State) (src : Nat) : List Nat :=
  ((List.range 384).filter fun j => j != src && s.flag (srcBit FCU_ACT_ACT j) && 2 ≤ s.fcuClass j).take 4

/-- Bits 3, 4 and 6 of byte 6 of a record. -/
def recFlags (pair escalated forced : Bool) : Nat :=
  let b := fun (x : Bool) (n : Nat) => if x then n else 0
  b pair 8 + b escalated 16 + b forced 64

/-- What a record takes on the edge on which its reaction starts; the class, LIMP_CAUSE and the voltages follow. -/
def State.fcuDraft (s : State) (src flags : Nat) : FaultRec :=
  { source := src, flags := flags
    boot := s.fld BSQ_STAT_KIND * 16 + s.fld BSQ_STAT_STATE, ntuExt := s.ntuExt, slow := s.slowCount
    boots := s.completed
    pmu := s.fld PMU_STAT_PHASE * 16 + if s.dozes then psDoze else s.fld PMU_STAT_STATE
    limp := 0, va := 0, vb := 0, pmeas := s.fld HSW_GOVSTAT_PMEAS, others := s.fcuOthers src }

/-- A record is queued with the class acted on, or lost when the queue is full. VBATA and VBATB are free values: nothing
measures them for the model (log entry 9). -/
def State.fcuRecord (s : State) (r : FaultRec) (cls : Nat) (converted : Bool) : State :=
  if 8 ≤ s.fcu.records.length then (s.incSat FCU_RECSTAT_LOST).raiseL 284
  else
    let va := s.draw
    let vb := va.2.draw
    let s := vb.2
    let r : FaultRec :=
      { r with
        flags := r.flags + cls + if converted then 32 else 0
        limp := s.fld PDI_STAT_LIMP_CAUSE, va := va.1.toNat % 65536, vb := vb.1.toNat % 65536 }
    let q := s.fcu.records ++ [r]
    { s.put FCU_RECSTAT_QLEN q.length with fcu := { s.fcu with records := q } }

/-- The 64 bytes of a record with its sequence number. -/
def FaultRec.bytes (r : FaultRec) (seq : Nat) : List Byte :=
  let body := natLe 4 seq ++ natLe 2 r.source ++ natLe 1 r.flags ++ natLe 1 r.boot ++ natLe 8 r.ntuExt.toNat ++
    natLe 8 r.slow ++ natLe 8 r.boots ++ natLe 1 r.pmu ++ natLe 1 r.limp ++ natLe 2 r.va ++ natLe 2 r.vb ++
    natLe 2 r.pmeas ++ ((List.range 4).map fun i => natLe 2 (r.others.getD i 0xFFFF)).flatten ++ List.replicate 12 0
  body ++ natLe 4 (crc32 body)

/-- The oldest queued record reaches the ring at index NEXT with the next sequence number (log entry 74), once the NV domain,
which it powers up, is READY (spec/14, R368). -/
def State.fcuWriteRecord (s : State) : State :=
  match s.fcu.records with
  | [] => s
  | r :: q =>
    if !s.nvReady then s
    else
    let s := s.nvWrite (0x103E0000 + 64 * s.fld FCU_RECSTAT_NEXT) (r.bytes (s.fld FCU_RECSTAT_SEQ))
    let s := ((s.incWrap FCU_RECSTAT_SEQ).incWrap FCU_RECSTAT_NEXT).put FCU_RECSTAT_QLEN q.length
    { s with fcu := { s.fcu with records := q } }

/-! S3 and S4 (spec/17, R443, R444). -/

/-- S3WIN in CK_SLOW cycles; 0 acts as 1. -/
def State.s3Window (s : State) : Nat := max 1 (s.fld FCU_CFG_S3WIN) * 32768

/-- The ages of the counted S3 reactions, those below the window. -/
def State.s3Counted (s : State) : List Nat := s.fcu.s3Ages.filter fun t => s.slowCount - t < s.s3Window

/-- S3CNT follows the reactions whose age is below the window. -/
def State.s3Age (s : State) : State :=
  let ages := s.s3Counted
  { s.put FCU_STAT_S3CNT (min 15 ages.length) with fcu := { s.fcu with s3Ages := ages } }

/-- A new S3 reaction would make the count exceed S3LIM, so it acts at S4. -/
def State.s3Converts (s : State) : Bool :=
  s.fld FCU_CFG_S3LIM != 0 && decide (s.fld FCU_CFG_S3LIM < s.s3Counted.length + 1)

/-- S3 reactions are held: an L-die reset or a bootstrap runs, or one has ended in BOOT_FAIL and the release is still to
come (R448; spec/13, R358, R361). -/
def State.s3Holds (s : State) : Bool := s.bsq.running || s.sys.inReset || s.pmuPhase == phBoot

/-- A sleep entry in PREPARE ends ABORTED_FAULT (spec/14, R373). In HOLD an S3 goes on to wake the device, so no pending
request starts there (R372, R383). -/
def State.prepareFault (s : State) : State :=
  if s.pmuPhase != phPrepare then s
  else if 2 ≤ s.fld PMU_STAT_STATE && !s.s4 then (s.pmuActDone istatAbortedFault).setPhase phSteady
  else s.prepareEnd istatAbortedFault

/-- What every S3 and S4 reaction stops: commits, tests, polls and a hand-over (spec/01, R52; spec/03, R115; spec/10, R278;
spec/16, R432). -/
def State.reactionStops (s : State) : State :=
  (((s.faultRefuse.endRequests istatAbortedFault).accAbort).hoAbandon 5)

/-- The S4 reaction (R444; spec/02, R86; spec/16, R433). Its refusals come before those of the limp map (spec/01, R52). S3
reactions that were held are recorded, since no release comes. -/
def State.s4React (s : State) (r : FaultRec) (converted : Bool) : State :=
  let s := (s.raiseBit FCU_STAT_S4).put FCU_STAT_CAUSE r.source
  let s := (s.faultRefuse.limpTrigger 4 istatAbortedFault).reactionStops
  let s := s.each s.hswLeads fun n t => t.putB (HSW_STAT_RWAIT n) false
  let s : State := { s with sec := { s.sec with session := none } }
  let s := s.prepareFault.fcuRecord r 4 converted
  let held := s.fcu.held
  let s : State := { s with fcu := { s.fcu with held := [] } }
  s.each held fun h t => t.fcuRecord h 3 false

/-- An S3 wakes the device from HOLD and PARK, and is latched after the point of no return (R443; spec/14, R374). -/
def State.s3Power (s : State) : State :=
  let mark := fun t : State => { t with pmu := { t.pmu with s3Wake := true } }
  match s.pmuPhase with
  | 2 => s.latch .s3
  | 3 => mark s
  | 4 => { s with bsq := { s.bsq with s3Held := true } }
  | _ => if 2 ≤ s.fld PMU_STAT_STATE then (mark s).wakeStart else s

/-- The S3 reaction (R443, R444): with S3 in force only its own record, and a recovery that runs starts again at its
release. In an L-die reset and a bootstrap it is held until the release (R448; spec/13, R358; DEDUCED, log entry 107). -/
def State.s3React (s : State) (r : FaultRec) : State :=
  let s := s.s3Age
  if s.s4 then s.fcuRecord r 3 false
  else if s.s3 then
    let s := if s.flag FCU_STAT_RECOV then { s with bsq := { s.bsq with s3Held := true } } else s
    s.fcuRecord r 3 false
  else if s.s3Holds then { s with fcu := { s.fcu with held := s.fcu.held ++ [r] } }
  else if s.s3Converts then s.s4React r true
  else
    let s : State := { s with fcu := { s.fcu with s3Ages := s.fcu.s3Ages ++ [s.slowCount] } }
    let s := ((s.raiseBit FCU_STAT_S3).put FCU_STAT_CAUSE r.source).s3Age
    let s := ((s.faultRefuse.limpTrigger 3 istatAbortedFault).reactionStops).prepareFault
    s.s3Power.fcuRecord r 3 false

/-- The release of a bootstrap lets the S3 reactions go that it held, and RECOVERY follows it (spec/13, R358). -/
def State.heldReact (s : State) : State :=
  let held := s.fcu.held
  let s : State := { s with fcu := { s.fcu with held := [] }, bsq := { s.bsq with s3Held := s.bsq.s3Held || !held.isEmpty } }
  s.each held fun r t => t.s3React r

/-- Recovery starts (R443): RECOV and a RECOVERY bootstrap. While a bootstrap runs it waits for the release (spec/13,
R358); a sleep entry in PREPARE ends; after the point of no return, in HOLD, in PARK and in a wake it follows the wake
(spec/14, R373, R374, R383; log entry 81). BOOT_FAIL ends only by a reset (spec/13, R361). -/
def State.recoveryStart (s : State) : State :=
  if !s.s3 || s.flag FCU_STAT_RECOV || s.s4 || (s.bootFailed && !s.sys.inReset) then s
  else if s.s3Holds then { s with bsq := { s.bsq with s3Held := true } }
  else if s.pmuPhase == phEnter || s.pmuPhase == phWaking then s.s3Power
  else if 2 ≤ s.fld PMU_STAT_STATE then s.prepareFault.s3Power
  else ((s.raiseBit FCU_STAT_RECOV).prepareFault).bootStart bkRecovery

/-- Recovery has reached DONE (R443), and shedding stops (spec/02, R83); with no reaction in force CAUSE names none (log
entry 73). -/
def State.recoveryEnd (s : State) : State :=
  if s.flag FCU_STAT_RECOV then
    let s := ((s.putB FCU_STAT_S3 false).putB FCU_STAT_RECOV false).raiseBit FCU_IRQ_S3END
    let s := s.when (!s.s4) fun t => t.putB HSW_GOVSTAT_SHEDDING false
    if s.s4 then s else s.put FCU_STAT_CAUSE 0
  else s

/-! Activations (spec/17, R434, R441, R442). -/

/-- The source waits for its acknowledgement: PEND, and what it remembers of this activation. -/
def State.fcuPend (s : State) (src cls : Nat) (pair forced : Bool) : State :=
  let x : Acting := { cls := cls, pair := pair, forced := forced, ntuExt := s.ntuExt, slow := s.slowCount }
  { s.raiseBit (srcBit FCU_PEND_PEND src) with fcu := { s.fcu with acting := tset {} s.fcu.acting src x } }

/-- An activation of a source at a class. Its record is drafted on this edge. A reaction ends a sleep entry in PREPARE before
the source could act as a wake (spec/14, R373, R383), and one at S4 is no wake (R383). -/
def State.fcuActivate (s : State) (src cls : Nat) (pair forced : Bool) : State :=
  if sourceReserved src then s
  else
    let s := s.raiseBit (srcBit FCU_STK_STK src)
    let s := if pair then (s.raiseBit (srcBit FCU_PF_PF src)).raiseBit FCU_IRQ_PAIR else s
    let fresh := !s.flag (srcBit FCU_PEND_PEND src)
    let s := s.when (1 ≤ cls && cls ≤ 3 && fresh) fun t => t.fcuPend src cls pair forced
    let s := if cls == 1 then s.raiseBit FCU_IRQ_S1 else if cls == 2 then s.raiseBit FCU_IRQ_S2 else s
    let atOnce := cls == 2 && fresh && s.fld FCU_TMR_T2 == 0
    let starts3 := (cls == 3 || atOnce) && !s.s3
    let reacts := (starts3 || cls == 4) && !s.s4
    let final := cls == 4 || starts3 && s.s3Converts
    let r := s.fcuDraft src (recFlags pair atOnce forced)
    let s := s.when (reacts && 2 ≤ s.fld PMU_STAT_STATE) State.prepareFault
    let s := s.when (1 ≤ cls && src != 264 && !final && !(reacts && s.pmuPhase == phPrepare)) fun t => t.pmuWake 6 src
    if cls == 3 || atOnce then s.s3React r
    else if cls == 4 then (if s.s4 then s.fcuRecord r 4 false else s.s4React r false)
    else s

/-- The class of an event: a source that has become active, or with `true` a pair fault of it. -/
def State.fcuEventClass (s : State) (e : Nat × Bool) : Nat := if e.2 then s.pairClass e.1 else s.fcuClass e.1

/-- The events of one sample: every source that has become active reads active, and those at S4 act first, since S4 governs
an S3 of the same edge (R444, Same-edge cases). -/
def State.fcuEvents (s : State) (es : List (Nat × Bool)) : State :=
  let s := s.each (es.filter fun e => !e.2) fun e t => t.raiseBit (srcBit FCU_ACT_ACT e.1)
  let final := es.filter fun e => s.fcuEventClass e == 4
  let other := es.filter fun e => s.fcuEventClass e != 4
  s.each (final ++ other) fun e t => t.fcuActivate e.1 (t.fcuEventClass e) e.2 (t.flag (srcBit FCU_FRC_FRC e.1))

/-- A sample of some sources at one edge: active after inactive is an activation (R434). -/
def State.fcuSample (s : State) (on off : List Nat) : State :=
  let fresh := on.filter fun j => !sourceReserved j && !s.flag (srcBit FCU_ACT_ACT j)
  (s.each off fun j t => t.putB (srcBit FCU_ACT_ACT j) false).fcuEvents (fresh.map fun j => (j, false))

/-- The sources that stand for a condition whose end a rule names (log entry 35). -/
def standing : List Nat := [64, 65, 208, 209, 210, 211, 212, 213, 269, 270]

/-- The condition of such a source holds (R438): a feed group below 6.0 V (spec/02, R57), a bus fault on CN0–CN5 (spec/08, R236),
the P-die on CK_RC for want of CK_PWR (spec/15, R393), and the over-voltage (spec/15, R386). -/
def State.fcuHolds (s : State) (src : Nat) : Bool :=
  (src == 64 && !s.flag HSW_GOVSTAT_FEEDA_OK) || (src == 65 && !s.flag HSW_GOVSTAT_FEEDB_OK) ||
  (208 ≤ src && src ≤ 213 && (s.cn (src - 208)).fault) ||
  (src == 269 && s.flag SYS_CLKSTAT_PLOC && !s.pmu.pcoreLimp) || (src == 270 && s.overVolt)

/-- A source's wires read active; they read inactive while its domain is off (R434, R435). -/
def State.fcuWires (s : State) (src : Nat) : Bool := (tget 0 s.fcu.wire src == 1 || s.fcuHolds src) && !s.fcuClamped src

/-- A source's reading follows its force bit and its wires, which read inactive while its domain is off (R435, R437). -/
def State.fcuReads (s : State) (src : Nat) : Bool :=
  s.flag (srcBit FCU_FRC_FRC src) || s.fcuWires src

/-- The source whose pair FCU_PFRC forces to read equal (R437). -/
def State.pfrcSource (s : State) : Option Nat :=
  if s.flag FCU_PFRC_EN && s.fld FCU_PFRC_SRC < 384 && !sourceReserved (s.fld FCU_PFRC_SRC) then some (s.fld FCU_PFRC_SRC)
  else none

/-- A source of the P-die, whose pair crosses the die interface (R436, R438). -/
def sourcePdie (src : Nat) : Bool := (src ≤ 185 && src != 75) || src == 230 || (269 ≤ src && src ≤ 271)

/-- No status frame brings the source's reading: a P-die source while the link is down (R436). -/
def State.fcuCut (s : State) (src : Nat) : Bool := sourcePdie src && !s.flag PDI_STAT_LINK_UP

/-- The pair of the source reads equal, by its wires or by FCU_PFRC (R435, R437). -/
def State.fcuEqual (s : State) (src : Nat) : Bool := s.pfrcSource == some src || s.fcu.pairEqual.contains src

/-- The source keeps its last valid reading: its pair reads equal, or its frames are missing (R435, R436). -/
def State.fcuKept (s : State) (src : Nat) : Bool := s.fcuEqual src || s.fcuCut src

/-- The reading of a source without its force bit: its wires, or their last valid reading (R435, R437). -/
def State.fcuUnder (s : State) (src : Nat) : Bool := if s.fcuKept src then tget 0 s.fcu.under src == 1 else s.fcuWires src

/-- A sample of the wires of the forced sources, with those that a block has raised (R437). -/
def State.underSample (s : State) (raised : List Nat) : State :=
  let now := fun j => if raised.contains j || s.fcuWires j then 1 else 0
  { s with fcu := { s.fcu with under := s.fcu.under.map fun e => (e.1, if s.fcuKept e.1 then e.2 else now e.1) } }

/-- The sources whose bits are set in a group of six source registers. -/
def State.sourcesSet (s : State) (f : Nat → Nat) : List Nat :=
  let words := (List.range 6).map fun k => s.reg (f k)
  (List.range 384).filter fun j => (words.getD (j / 64) 0).getLsbD (j % 64)

/-- The pair that FCU_PFRC forces equal, at its third sample in a row (R435, R437). -/
def State.pfrcDue (s : State) : List (Nat × Bool) :=
  match s.pfrcSource with
  | some j => if s.fcu.equal == 2 && !s.fcuClamped j && !s.fcuCut j then [(j, true)] else []
  | none => []

/-- The samples in a row of the pair that FCU_PFRC forces equal. -/
def State.pfrcCount (s : State) : State :=
  s.when (s.pfrcSource.any fun j => !s.fcuClamped j && !s.fcuCut j) fun t =>
    { t with fcu := { t.fcu with equal := min 3 (t.fcu.equal + 1) } }

/-- The P-die's own record of an outage arrives with the link: its activations in their order, and then the sources read as
they stand (R436). -/
def State.outageRead (s : State) : State :=
  let late := if s.flag PDI_STAT_LINK_UP then s.pdi.pRecord else []
  let s : State := if s.flag PDI_STAT_LINK_UP then { s with pdi := { s.pdi with pRecord := [] } } else s
  s.each late fun j t =>
    let t := t.fcuEvents [(j, false)]
    if t.fcuKept j then t else t.putB (srcBit FCU_ACT_ACT j) (t.fcuReads j)

/-- A sample of every pair (R434): the sources that blocks raised since the last one read active once, the others as their
wires and conditions stand (log entry 35); a pair forced equal for the third time is a pair fault. -/
def State.fcuSampleAll (s : State) : State :=
  let s := s.outageRead
  let raised := s.fcu.raised.filter fun j => !s.fcuEqual j
  let active := s.sourcesSet FCU_ACT
  let seen := raised ++ (s.fcu.wire.map Prod.fst ++ standing).filter fun j => s.fcuReads j && !s.fcuKept j
  let on := (List.range 384).filter fun j => seen.contains j && !sourceReserved j && !active.contains j
  let off := active.filter fun j => !seen.contains j && !s.fcuReads j && !s.fcuKept j
  let pair := s.pfrcDue
  let s := (s.underSample raised).pfrcCount
  let s : State := { s with fcu := { s.fcu with raised := [] } }
  let s := s.each off fun j t => t.putB (srcBit FCU_ACT_ACT j) false
  let ofPair := fun j => pair.filter fun e => e.1 == j
  s.fcuEvents ((List.range 384).flatMap fun j => (if on.contains j then [(j, false)] else []) ++ ofPair j)

/-- An acknowledgement (R442); an ACK of the cause of an S3 starts its recovery (R443). -/
def State.fcuAck (s : State) (src : Nat) : State :=
  if 384 ≤ src || !s.flag (srcBit FCU_PEND_PEND src) then s.raiseBit FCU_IRQ_CFG_VIOL
  else
    let s := s.putB (srcBit FCU_PEND_PEND src) false
    let s : State := { s with fcu := { s.fcu with acting := tset {} s.fcu.acting src {} } }
    if s.s3 && s.fld FCU_STAT_CAUSE == src then s.recoveryStart else s

/-! Writes (spec/17, R437, R439, R440). -/

/-- Until the first core release of a bootstrap the sequencer writes classes and timers freely (R440). -/
def State.fcuFree (s : State) (m : Master) : Bool := m == .bsq && s.bsq.running

/-- One nibble of a severity write. -/
def State.sevNibble (s : State) (m : Master) (src x : Nat) : State :=
  if sourceReserved src then s
  else if 4 < x then s.raiseBit FCU_IRQ_CFG_VIOL
  else
    let x := if src == 257 then min x 1 else x
    if x < s.fcuClass src && !s.fcuFree m then s.raiseBit FCU_IRQ_CFG_VIOL
    else
      { s.put (sevFld src) x with fcu := { s.fcu with badSev := s.fcu.badSev.filter (· != src) } }

/-- A write of FCU_SEVk; nibbles outside the accessed half keep their value. -/
def State.sevWrite (s : State) (m : Master) (k : Nat) (a : Access) (v : BitVec 64) : State :=
  s.fcuOwned m fun t =>
    let w := accMerge a (t.reg (FCU_SEV k)) v
    let js := (List.range 16).filter fun j => match a with | .w64 => true | .lo32 => j < 8 | .hi32 => 8 ≤ j
    t.each js fun j u => u.sevNibble m (16 * k + j) ((FCU_SEV_SEV k j).of w)

/-- A timer field's write: a longer value is kept out after the release. -/
def State.tmrField (s : State) (m : Master) (f : Fld) (x : Nat) (longer : Bool) : State :=
  if longer && !s.fcuFree m then s.raiseBit FCU_IRQ_CFG_VIOL else s.put f x

/-- A write of FCU_TMR: T1 = 0 counts as longer than every other T1 (R440). -/
def State.tmrWrite (s : State) (m : Master) (a : Access) (v : BitVec 64) : State :=
  s.fcuOwned m fun t =>
    let w := accMerge a (t.reg FCU_TMR) v
    let long1 := fun x => if x == 0 then 65536 else x
    let n1 := FCU_TMR_T1.of w
    let n2 := FCU_TMR_T2.of w
    let n3 := FCU_TMR_T3.of w
    let t := t.tmrField m FCU_TMR_T1 n1 (long1 (t.fld FCU_TMR_T1) < long1 n1)
    let t := t.tmrField m FCU_TMR_T2 n2 (t.fld FCU_TMR_T2 < n2)
    t.tmrField m FCU_TMR_T3 n3 (t.fld FCU_TMR_T3 < n3)

/-- The force bit of a source is set; the reading that it hides is kept. -/
def State.forceOn (s : State) (src : Nat) : State :=
  let under := if s.flag (srcBit FCU_ACT_ACT src) then 1 else 0
  { s.putB (srcBit FCU_FRC_FRC src) true with fcu := { s.fcu with under := s.fcu.under.filter (fun e => e.1 != src) ++ [(src, under)] } }

/-- The force bit of a source is cleared. -/
def State.forceOff (s : State) (src : Nat) : State :=
  { s.putB (srcBit FCU_FRC_FRC src) false with fcu := { s.fcu with under := s.fcu.under.filter fun e => e.1 != src } }

/-- Force bits of some sources are set and cleared at one edge (R437): a source set reads active, one cleared is left under
its wires, or the last valid reading of a pair that reads equal (R435). -/
def State.forceAll (s : State) (on off : List Nat) : State :=
  let down := off.filter fun j => !s.fcuUnder j
  ((s.each on fun j t => t.forceOn j).each off fun j t => t.forceOff j).fcuSample on down

/-- One force bit takes a value. -/
def State.forceOne (s : State) (src : Nat) (on : Bool) : State :=
  if s.flag (srcBit FCU_FRC_FRC src) == on then s else if on then s.forceAll [src] [] else s.forceAll [] [src]

/-- A write of FCU_FRCk: only ZS may force a source of class S4 (R437). -/
def State.frcWrite (s : State) (m : Master) (k : Nat) (a : Access) (v : BitVec 64) : State :=
  s.fcuOwned m fun t =>
    let w := accMerge a (t.reg (FCU_FRC k)) v
    let js := (List.range 64).map fun j => 64 * k + j
    let bit := fun j => w.toNat.testBit (j - 64 * k)
    let rise := js.filter fun j => bit j && !t.flag (srcBit FCU_FRC_FRC j)
    let off := js.filter fun j => !bit j && t.flag (srcBit FCU_FRC_FRC j)
    let barred := fun j => t.fcuClass j == 4 && m != .zs
    (t.when (rise.any barred) fun u => u.raiseBit FCU_IRQ_CFG_VIOL).forceAll (rise.filter fun j => !barred j) off

/-- A pair fault of a source, which keeps the state of its last valid reading while the pair stays equal (R435). -/
def State.pairFault (s : State) (src : Nat) : State :=
  let s : State := if s.fcuEqual src then s else { s with fcu := { s.fcu with pairEqual := s.fcu.pairEqual ++ [src] } }
  s.fcuEvents [(src, true)]

/-- FCU_PFRC takes a value: the samples of another pair start from none, and the pair let go is read again. -/
def State.pfrcSet (s : State) (en src : Nat) : State :=
  let old := s.pfrcSource
  let s := (s.put FCU_PFRC_EN en).put FCU_PFRC_SRC src
  if s.pfrcSource == old then s
  else
    let s : State := { s with fcu := { s.fcu with equal := 0 } }
    match old with
    | some j => if s.fcuKept j then s else if s.fcuReads j then s.fcuSample [j] [] else s.fcuSample [] [j]
    | none => s

/-- A write of FCU_PFRC (R437): only ZS may force the pair of a source of class S4. -/
def State.pfrcWrite (s : State) (m : Master) (a : Access) (v : BitVec 64) : State :=
  s.fcuOwned m fun t =>
    let w := accMerge a (t.reg FCU_PFRC) v
    let en := FCU_PFRC_EN.of w
    let src := FCU_PFRC_SRC.of w
    if en == 1 && t.pfrcSource != some src && t.fcuClass src == 4 && m != .zs then t.raiseBit FCU_IRQ_CFG_VIOL
    else t.pfrcSet en src

end Sys2Proof.Machine
end

