-- ==== Sys2Proof/Machine/GweOps.lean ====
section
/-!
DEFINITION. The Ethernet switch and the gateway engine (spec/09): egress, the internal rings, learning and forwarding, the
ingress queue, route entries and their actions, and the carriers of commit notices.
-/

namespace Sys2Proof.Machine

/-- Port code of the internal port (spec/09, R240). -/
def portInternal : Nat := 0x14

/-! Switch (spec/09, R242–R247). -/

/-- The VLAN entry of a VID. -/
def State.vlanOf (s : State) (vid : Nat) : Option Nat :=
  (List.range 64).find? fun v => s.flag (ESW_VLAN_V v) && s.fld (ESW_VLAN_VID v) == vid

/-- A port (0–3 external, 4 internal) is a member of a VLAN entry. -/
def State.vlanMember (s : State) (v p : Nat) : Bool := (s.fld (ESW_VLAN_MEMBER v)).testBit p

/-- VID and PCP of a frame that enters at a port; a tag with VID 0 gives its priority only (IEEE 802.1Q). The internal port
has no PVID and DPCP: free values (log entry 36). -/
def State.ethVid (s : State) (p : Nat) (f : EthFrame) : Nat :=
  let pvid := if p < 4 then s.fld (ESW_PORT_CFG_PVID p) else Config.internalVid.toNat
  match f.tag with
  | some (_, vid) => if vid == 0 then pvid else vid.toNat
  | none => pvid
def State.ethPcp (s : State) (p : Nat) (f : EthFrame) : Nat :=
  match f.tag with
  | some (pcp, _) => pcp.toNat
  | none => if p < 4 then s.fld (ESW_PORT_CFG_DPCP p) else Config.internalPcp.toNat

/-- A frame as it leaves on a port of its VLAN, the internal port (4) among them: tagged or untagged as the VLAN entry
says (R243). -/
def State.ethTagged (s : State) (v p vid pcp : Nat) (f : EthFrame) : EthFrame :=
  { f with tag := if (s.fld (ESW_VLAN_UNTAG v)).testBit p then none else some (BitVec.ofNat 3 pcp, BitVec.ofNat 12 vid) }

/-- A frame leaves on an external port of its VLAN. -/
def State.ethForward (s : State) (v p vid pcp : Nat) (f : EthFrame) (desc : Option Nat) : State :=
  s.ethOut p pcp (s.ethTagged v p vid pcp f) desc

/-- A frame as it reaches the internal port from a port (R243). -/
def State.ethInternal (s : State) (p : Nat) (f : EthFrame) : EthFrame :=
  match s.vlanOf (s.ethVid p f) with
  | some v => s.ethTagged v 4 (s.ethVid p f) (s.ethPcp p f) f
  | none => f

/-- The frame that bytes hold. -/
def ethOfBytes (l : List Byte) : EthFrame :=
  let da := BitVec.ofNat 48 (beNat (l.take 6))
  let sa := BitVec.ofNat 48 (beNat ((l.drop 6).take 6))
  let r := l.drop 12
  if beNat (r.take 2) == 0x8100 then
    let t := beNat ((r.drop 2).take 2)
    ⟨da, sa, some (BitVec.ofNat 3 (t / 8192), BitVec.ofNat 12 t), BitVec.ofNat 16 (beNat ((r.drop 4).take 2)), r.drop 6⟩
  else ⟨da, sa, none, BitVec.ofNat 16 (beNat (r.take 2)), r.drop 2⟩

/-- A frame enters the receive ring (R247), or is dropped with no descriptor held by a switch that runs (R260); `e` is what the ECC of the
descriptor finds, and one that cannot be read is not held (spec/13, R330; log entry 96). -/
def State.ringRx (s : State) (src : Nat) (bytes : List Byte) (stamp : Nat) (e : MemErr) : State :=
  let s := s.dmaEcc e
  let idx := s.fld ESW_IRX_IDX
  let d := s.fld ESW_IRX_BASE + 16 * idx
  let w := s.word d
  if s.eswRuns && w.testBit 63 && e != .double then
    let addr := bitsOf w 0 40
    let s := s.dmaWrite addr bytes
    let s := s.dmaWrite d (natLe 8 (src * 2 ^ 52 + bytes.length % 4096 * 2 ^ 40 + addr) ++ natLe 8 stamp)
    (s.put ESW_IRX_IDX (if idx + 1 < ringSize (s.fld ESW_IRX_SIZE) then idx + 1 else 0)).raiseBit ESW_IRQ_RXD
  else s.incSat (ESW_PORT_STAT_IDROP 0)

/-- Learn a source address (R242). In a full table a free value says which entry, if any, gives way (log entry 37). -/
def State.macLearn (s : State) (mac : BitVec 48) (vid p : Nat) : State :=
  let rest := s.gwe.mac.filter fun e => !(e.mac == mac && e.vid == vid)
  if rest.length < 2048 then { s with gwe := { s.gwe with mac := rest ++ [⟨mac, vid, p⟩] } }
  else
    let d := s.draw
    let i := d.1.toNat % 2049
    if i < 2048 then { d.2 with gwe := { d.2.gwe with mac := rest.eraseIdx i ++ [⟨mac, vid, p⟩] } } else d.2

/-- Addresses 01-80-C2-00-00-00 to 01-80-C2-00-00-0F. -/
def reservedMac (a : BitVec 48) : Bool := a.toNat / 16 == 0x0180C200000

/-- The ports a frame goes to (R242): the internal port is 4. -/
def State.ethDest (s : State) (p v vid : Nat) (da : BitVec 48) : List Nat :=
  if reservedMac da || da.toNat == s.fld ESW_MAC_MAC then [4]
  else
    let known := s.gwe.mac.find? fun e => e.mac == da && e.vid == vid
    match known with
    | some e => if da.toNat.testBit 40 then (List.range 5).filter fun q => s.vlanMember v q && q != p
                else [e.port].filter fun q => s.vlanMember v q && q != p
    | none => (List.range 5).filter fun q => s.vlanMember v q && q != p

/-! Gateway: ingress and sending (spec/09, R248, R251, R254). -/

/-- A frame enters the ingress queue. -/
def State.gweIn (s : State) (x : GweFrame) : State :=
  if 256 ≤ s.gwe.ingress.length then (s.incSat GWE_STAT_INDROP).raiseL 220
  else { s with gwe := { s.gwe with ingress := s.gwe.ingress ++ [x] } }

/-- A frame for a CAN channel's gateway queue. -/
def State.gwCan (s : State) (n : Nat) (f : CanFrame) : State :=
  let c := s.cn n
  if c.mode != canActive || 32 ≤ c.gwQueue.length then s.incSat GWE_STAT_QDROP
  else s.setCn n { c with gwQueue := c.gwQueue ++ [f] }

/-- The frame as type `fmt` with an identifier, if its payload fits (R251). Remote frames stay classical. -/
def canConvert (f : CanFrame) (fmt : Nat) (ide : Bool) (id : Nat) : Option CanFrame :=
  let xl := fmt == 3
  if f.rtr && fmt != 1 then none
  else
    match padLen fmt f.data.length with
    | none => none
    | some len =>
      some { f with
        dlc := if f.rtr || fmt == f.fmt.toNat then f.dlc else BitVec.ofNat 4 (dlcOf fmt len), esi := f.esi && fmt == 2
        fmt := BitVec.ofNat 2 fmt, ide := ide && !xl, brs := f.brs && fmt == 2
        id := BitVec.ofNat 29 (if ide && !xl then id else id % 2048)
        data := if f.rtr then f.data else padData f.data len
        sdt := if xl then f.sdt else 0, sec := f.sec && xl, vcid := if xl then f.vcid else 0, af := if xl then f.af else 0 }

/-- The first bytes of a payload into a LIN entry, and its TXREQ (R251). -/
def State.gwLin (s : State) (n i : Nat) (data : List Byte) : State :=
  if s.fld (LIN_FR_DIR n i) != 1 then s.incSat GWE_DROP_CVDROP
  else
    let len := s.linLen n i
    let d := data.take len ++ List.replicate (len - data.length) 0xFF
    (s.put (LIN_FD_DATA n i) (leNat d)).linTxreq n i

/-- What a FRAME action sends, and how it is changed (R250). -/
structure RouteOut where
  enc : Nat
  outLin : Nat
  xlate : Bool
  outFmt : Nat
  outIde : Bool
  outId : Nat

def Route.output (r : Route) : RouteOut :=
  let w := r.out.toNat
  ⟨bitsOf w 48 3, bitsOf w 40 6, w.testBit 32, bitsOf w 30 2, w.testBit 29, bitsOf w 0 29⟩

/-- The tag of a profile's frames: with TAG = 1 a C-tag with its VID (R251). -/
def State.encTag (s : State) (k pcp : Nat) : Option (BitVec 3 × BitVec 12) :=
  if s.flag (GWE_ENC_A_TAG k) then some (BitVec.ofNat 3 pcp, BitVec.ofNat 12 (s.fld (GWE_ENC_A_VID k))) else none

/-- Bytes filled up with zeros to whole quadlets. -/
def quadlets (l : List Byte) : List Byte := l ++ List.replicate ((4 - l.length % 4) % 4) 0

/-- An ACF CAN or ACF LIN message with its message timestamp (R251, R252). -/
inductive AcfMsg where
  | can (f : CanFrame) (stamp : BitVec 32)
  | lin (id : BitVec 6) (data : List Byte) (stamp : BitVec 32)
  deriving DecidableEq, Repr

/-- An ACF message of a type (IEEE 1722, clause 9; log entry 90): type and length in quadlets, then a byte of the count
of padding bytes, the valid bit of the message timestamp and `flags`, the rest of its header, and the data. -/
def acfBytes (kind flags : Nat) (head data : List Byte) : List Byte :=
  let n := (4 + head.length - 1 + data.length + 3) / 4
  natBe 2 (kind * 512 + n % 512) ++ natBe 1 ((4 - data.length % 4) % 4 * 64 + 32 + flags) ++ head ++ quadlets data

/-- The bytes of an ACF CAN or ACF LIN message, the bus named by the source's port code (IEEE 1722, clauses 9.4.2 and
9.4.5; log entry 90). The standard gives a CAN XL frame no message: its bytes are free. -/
def acfOf (src : Nat) : AcfMsg → List Byte
  | .can f t =>
    let bit := fun (b : Bool) (x : Nat) => if b then x else 0
    let head := natBe 1 src ++ natBe 8 t.toNat ++ natBe 4 f.id.toNat
    if f.fmt == 3 then Config.acfXl (head ++ natLe 8 (canHeader f).1 ++ natLe 8 (canHeader f).2 ++ f.data)
    else acfBytes 1 (bit f.rtr 16 + bit f.ide 8 + bit f.brs 4 + bit (f.fmt == 2) 2 + bit f.esi 1) head f.data
  | .lin id data t => acfBytes 3 (src % 32) (natBe 1 (linPid id.toNat) ++ natBe 8 t.toNat) data

/-- An IEEE 1722 NTSCF frame with one message under a profile: its destination, VID, PCP and stream ID, with the stream's
sequence number (R251; IEEE 1722, clause 9; log entry 90). It enters the egress queue of the profile's PCP. -/
def State.sendEncap (s : State) (p k src : Nat) (m : AcfMsg) : State :=
  let body := acfOf src m
  let seq := tget 0 s.gwe.seq k
  let head := [0x82] ++ natBe 2 (0x8000 + body.length % 2048) ++ natBe 1 seq ++ natBe 8 (s.fld (GWE_ENC_B_SID k))
  let tag := s.encTag k (s.fld (GWE_ENC_A_PCP k))
  let f : EthFrame :=
    { da := BitVec.ofNat 48 (s.fld (GWE_ENC_A_DA k)), sa := BitVec.ofNat 48 (s.fld ESW_MAC_MAC)
      tag := tag, etype := 0x22F0, payload := ethPad tag.isSome (head ++ body) }
  let s : State := { s with gwe := { s.gwe with seq := tset 0 s.gwe.seq k ((seq + 1) % 256) } }
  s.ethOut p (s.fld (GWE_ENC_A_PCP k)) f none

/-- A CAN frame to one destination (R251). -/
def State.sendCan (s : State) (o : RouteOut) (c src stamp : Nat) (f : CanFrame) (e : MemErr) : State :=
  let ide := if o.xlate then o.outIde else f.ide
  let id := if o.xlate then o.outId else f.id.toNat
  let fmt := if o.outFmt == 0 then f.fmt.toNat else o.outFmt
  if c < 8 then
    match canConvert f fmt ide id with
    | some g => s.gwCan c g
    | none => s.incSat GWE_DROP_CVDROP
  else if c < 16 then s.gwLin (c - 8) o.outLin f.data
  else if c < portInternal then
    if s.degraded then s.incSat GWE_STAT_QDROP
    else s.sendEncap (c - 16) o.enc src (.can { f with ide := ide, id := BitVec.ofNat 29 id } (BitVec.ofNat 32 stamp))
  else
    let h := canHeader f
    s.ringRx src (natLe 8 h.1 ++ natLe 8 h.2 ++ f.data) stamp e

/-- A LIN response to one destination (R251). -/
def State.sendLin (s : State) (o : RouteOut) (c src id stamp : Nat) (data : List Byte) (e : MemErr) : State :=
  if c < 8 then
    if o.xlate then
      s.gwCan c { fmt := 1, ide := o.outIde, rtr := false, brs := false, sdt := 0, sec := false, vcid := 0, af := 0,
                  id := BitVec.ofNat 29 (if o.outIde then o.outId else o.outId % 2048), data := data }
    else s.incSat GWE_DROP_CVDROP
  else if c < 16 then s.gwLin (c - 8) o.outLin data
  else if c < portInternal then
    if s.degraded then s.incSat GWE_STAT_QDROP
    else s.sendEncap (c - 16) o.enc src (.lin (BitVec.ofNat 6 (if o.xlate then o.outId else id)) data (BitVec.ofNat 32 stamp))
  else s.ringRx src (natLe 8 data.length ++ natLe 8 0 ++ data) stamp e

/-- An Ethernet frame to one destination (R251): unchanged to a port, as the VLAN has it to the internal port (R243). -/
def State.sendEth (s : State) (c src stamp : Nat) (f : EthFrame) (e : MemErr) : State :=
  if c < 16 then s.incSat GWE_DROP_CVDROP
  else if c < portInternal then
    if s.degraded then s.incSat GWE_STAT_QDROP else s.ethOut (c - 16) (s.ethPcp (src - 16) f) f none
  else s.ringRx src (ethBytes (s.ethInternal (src - 16) f)) stamp e

/-! Routes (spec/09, R249, R250, R252, R253, R255). -/

def GweFrame.src : GweFrame → Nat
  | .can p _ _ => p
  | .lin p _ _ _ => p
  | .eth p _ _ => p

def GweFrame.kind : GweFrame → Nat
  | .can .. => 0
  | .lin .. => 1
  | .eth .. => 2

def GweFrame.stamp : GweFrame → Nat
  | .can _ _ t => t
  | .lin _ _ _ t => t
  | .eth _ _ t => t

/-- The entry's key admits the frame's identifier (R250). -/
def Route.keyMatch (r : Route) (s : State) (x : GweFrame) : Bool :=
  let k := r.key.toNat
  let m := r.mask.toNat % 2 ^ 29
  match x with
  | .can _ f _ =>
    (bitsOf k 30 2 == 0 || bitsOf k 30 2 == f.fmt.toNat) && k.testBit 29 == f.ide && (f.id.toNat ^^^ bitsOf k 0 29) &&& m == 0
  | .lin _ id _ _ => (id ^^^ bitsOf k 0 6) &&& (m % 64) == 0
  | .eth p f _ =>
    let viden := k.testBit 28
    (!viden || (s.ethVid (p - 16) f ^^^ bitsOf k 16 12) &&& bitsOf m 16 12 == 0) &&
    (f.etype.toNat ^^^ bitsOf k 0 16) &&& bitsOf m 0 16 == 0

/-- An entry matches a frame; DECAP needs KIND 0x2. -/
def Route.hit (r : Route) (s : State) (x : GweFrame) : Bool :=
  let k := r.key.toNat
  let act := bitsOf r.action.toNat 24 2
  k.testBit 63 && bitsOf k 58 5 == x.src && bitsOf k 56 2 == x.kind && act != 3 && (act != 2 || x.kind == 2) && r.keyMatch s x

/-- The bank in force. -/
def State.gweBank (s : State) : Nat := s.fld GWE_RTCMD_ACTIVE

def State.route (s : State) (bank i : Nat) : Route := tget {} s.gwe.route (4096 * bank + i)
/-- An entry as the table keeps it: reserved bits are not written (R250; spec/00, R9). -/
def Route.kept (r : Route) : Route :=
  let key : BitVec 64 := match bitsOf r.key.toNat 56 2 with
    | 0 => 0xFFFFFFFF#64
    | 1 => 0x3F#64
    | 2 => 0x1FFFFFFF#64
    | _ => 0#64
  ⟨r.key &&& (0xFF00000000000000#64 ||| key), r.mask &&& 0x1FFFFFFF#64, r.action &&& 0xFFFFFFFF031FFFFF#64,
   r.out &&& 0x00073F01FFFFFFFF#64⟩

/-- A write of an entry refills its bucket (R255). -/
def State.setRoute (s : State) (bank i : Nat) (r : Route) : State :=
  { s with gwe := { s.gwe with route := tset {} s.gwe.route (4096 * bank + i) r.kept, used := tset 0 s.gwe.used (4096 * bank + i) 0 } }

/-- The lowest-numbered entry of the bank in force that matches; entries in `bad` cannot be read (R249, R256). -/
def State.lookup (s : State) (x : GweFrame) (bad : List Nat) : Option (Nat × Route) :=
  let b := s.gweBank
  ((s.gwe.route.filter fun e => e.1 / 4096 == b).map fun e => (e.1 % 4096, e.2)).find? fun e =>
    !bad.contains e.1 && e.2.hit s x

/-- The bits of a payload or image as a number: bit b is bit b mod 8 of byte b div 8. -/
def payloadBits (l : List Byte) : Nat := leNat l

/-- The image of a signal set as a number. -/
def State.image (s : State) (g : Nat) : Nat := (List.range 8).foldl (fun n w => n + s.fld (GWE_IMG_BITS g w) * 2 ^ (64 * w)) 0
def State.setImage (s : State) (g v : Nat) : State := s.each (List.range 8) fun w t => t.put (GWE_IMG_BITS g w) (bitsOf v (64 * w) 64)

/-- One move: `n` bits from a source bit to an image bit, none at or above 512 (R253). -/
def moveBits (img payload nbits dst src : Nat) : Nat :=
  (List.range nbits).foldl (fun v i =>
    if 512 ≤ dst + i then v
    else if payload.testBit (src + i) then v ||| 2 ^ (dst + i)
    else if v.testBit (dst + i) then v - 2 ^ (dst + i) else v) img

/-- The payload of a frame. -/
def GweFrame.payload : GweFrame → List Byte
  | .can _ f _ => f.data
  | .lin _ _ d _ => d
  | .eth _ f _ => f.payload

/-- The type a built frame keeps with OUTFMT 0x0: its source's; from LIN and Ethernet, which have none, it is free (log
entry 38). -/
def GweFrame.fmt : GweFrame → Nat
  | .can _ f _ => f.fmt.toNat
  | x => 1 + Config.keptType x.payload % 3

/-- The frame of a SIGNAL action, after its moves (R253). -/
def State.signal (s : State) (r : Route) (x : GweFrame) : State × CanFrame :=
  let g := bitsOf r.action.toNat 32 8
  let p := payloadBits x.payload
  let m1 := s.fld (GWE_SIG_M1 g)
  let img := moveBits (s.image g) p (s.fld (GWE_SIG_M0_NBITS g)) (s.fld (GWE_SIG_M0_DSTBIT g)) (s.fld (GWE_SIG_M0_SRCBIT g))
  let img := moveBits img p (bitsOf m1 22 6) (bitsOf m1 11 11) (bitsOf m1 0 11)
  let s := s.setImage g img
  let olen := if s.fld (GWE_SIG_OLEN g) == 0 then 64 else s.fld (GWE_SIG_OLEN g)
  let o := r.output
  (s, { fmt := BitVec.ofNat 2 (if o.outFmt == 0 then x.fmt else o.outFmt), ide := o.outIde, rtr := false, brs := false,
        id := BitVec.ofNat 29 o.outId, sdt := 0, sec := false, vcid := 0, af := 0, data := natLe olen img })

/-- The destinations of an entry: the source port is left out. -/
def Route.dests (r : Route) (src : Nat) : List Nat := (List.range 21).filter fun c => r.action.toNat.testBit c && c != src

/-- The CAN frame of an ACF CAN message whose bytes are `l`; data that no frame of its type holds make none (IEEE 1722, clause
9.4.2; log entry 90). -/
def acfCan (l : List Byte) (data : List Byte) : Option CanFrame :=
  let flags := (l.getD 2 0).toNat
  let bit := fun i => flags.testBit i
  let fd := bit 1
  let id := beNat ((l.drop 12).take 4) % (if bit 3 then 2 ^ 29 else 2 ^ 11)
  if padLen (if fd then 2 else 1) data.length != some data.length then none
  else some { fmt := if fd then 2 else 1, ide := bit 3, rtr := bit 4 && !fd, brs := bit 2 && fd, id := BitVec.ofNat 29 id, sdt := 0,
              sec := false, vcid := 0, af := 0, data := if bit 4 && !fd then [] else data, esi := bit 0 && fd }

/-- The message that the bytes of one ACF message hold; of the other types none (R252; IEEE 1722, clause 9; log entry 90). -/
def acfMsg (l : List Byte) : Option AcfMsg :=
  let pad := (l.getD 2 0).toNat / 64
  match (l.headD 0).toNat / 2 with
  | 1 =>
    if l.length < 16 + pad then none
    else (acfCan l ((l.take (l.length - pad)).drop 16)).map fun f => .can f (BitVec.ofNat 32 (beNat ((l.drop 4).take 8)))
  | 3 =>
    let data := (l.take (l.length - pad)).drop 12
    if l.length < 13 + pad || 8 < data.length then none
    else some (.lin (BitVec.ofNat 6 (l.getD 3 0).toNat) data (BitVec.ofNat 32 (beNat ((l.drop 4).take 8))))
  | _ => none

/-- The messages in a run of bytes, at most `n`: a message of length 0, or one that does not end within the bytes, ends it. -/
def acfMsgs : Nat → List Byte → List AcfMsg
  | 0, _ => []
  | n + 1, l =>
    let len := 4 * (beNat (l.take 2) % 512)
    if len == 0 || l.length < len then [] else (acfMsg (l.take len)).toList ++ acfMsgs n (l.drop len)

/-- The ACF messages of an IEEE 1722 payload: an NTSCF stream, whose header is 12 bytes, or a TSCF stream, whose header is 24
(IEEE 1722, clause 9; log entry 90). -/
def avtpMsgs (l : List Byte) : List AcfMsg :=
  let run := fun (head len : Nat) => acfMsgs l.length ((l.drop head).take len)
  match (l.headD 0).toNat with
  | 0x82 => run 12 (beNat ((l.drop 1).take 2) % 2048)
  | 0x05 => run 24 (beNat ((l.drop 20).take 2))
  | _ => []

/-- The messages of an IEEE 1722 frame as frames to look up, in message order (R252). -/
def decap (src : Nat) (f : EthFrame) : List GweFrame :=
  if f.etype != 0x22F0 then []
  else (avtpMsgs f.payload).map fun m => match m with
    | .can g t => .can src g t.toNat
    | .lin id d t => .lin src id.toNat d t.toNat

/-- A frame goes the way its route says (R251–R253). -/
def State.routeFrame (s : State) (r : Route) (x : GweFrame) (e : MemErr) : State :=
  match bitsOf r.action.toNat 24 2 with
  | 0 =>
    s.each (r.dests x.src) fun c t =>
      match x with
      | .can p f st => t.sendCan r.output c p st f e
      | .lin p id d st => t.sendLin r.output c p id st d e
      | .eth p f st => t.sendEth c p st f e
  | 1 =>
    let b := s.signal r x
    let o : RouteOut := { r.output with xlate := false, outFmt := 0 }
    b.1.each (r.dests x.src) fun c t => t.sendCan o c x.src x.stamp b.2 e
  | _ =>
    match x with
    | .eth p f _ => { s with gwe := { s.gwe with ingress := decap p f ++ s.gwe.ingress } }
    | _ => s

/-- A frame that matched entry `i` takes a token, or is dropped for every destination (R255). -/
def State.routeHit (s : State) (i : Nat) (r : Route) (x : GweFrame) (e : MemErr) : State :=
  let a := r.action.toNat
  let key := 4096 * s.gweBank + i
  let used := tget 0 s.gwe.used key
  if bitsOf a 48 16 == 0 then (s.incWrap GWE_STAT_FWD).routeFrame r x e
  else if max 1 (bitsOf a 40 8) ≤ used then (s.incSat GWE_DROP_RLDROP).put GWE_DROP_RLLAST i
  else ({ s.incWrap GWE_STAT_FWD with gwe := { s.gwe with used := tset 0 s.gwe.used key (used + 1) } }).routeFrame r x e

/-- One lookup of the frame at the head of the ingress queue (R249). -/
def State.gweLookup (s : State) (bad : List Nat) (e : MemErr) : State :=
  match s.gwe.ingress with
  | [] => s
  | x :: q =>
    let s : State := { s with gwe := { s.gwe with ingress := q } }
    let s := if bad.isEmpty then s else s.raiseL 221
    match s.lookup x bad with
    | some (i, r) => s.routeHit i r x e
    | none =>
      match x with
      | .eth p f st => s.ringRx p (ethBytes (s.ethInternal (p - 16) f)) st e
      | _ => s

/-! Commit notices (spec/09, R257–R259). -/

/-- The payload of a notice. -/
def noticeBytes (n : Notice) : List Byte :=
  [1, BitVec.ofNat 8 n.nodes.length] ++ natBe 2 n.group.toNat ++ natBe 4 n.time.toNat ++ natBe 2 n.origin.toNat ++
    (n.nodes.map fun e => natBe 2 e.toNat).flatten

/-- The notice a payload holds, if it is well formed. -/
def noticeOf (l : List Byte) : Option Notice :=
  let at16 := fun i => beNat ((l.drop i).take 2)
  let count := (l.getD 1 0).toNat % 64
  if (l.headD 0) == 1 && 10 + 2 * count ≤ l.length then
    some ⟨BitVec.ofNat 16 (at16 2), BitVec.ofNat 32 (beNat ((l.drop 4).take 4)), BitVec.ofNat 14 (at16 8),
      (List.range count).map fun j => BitVec.ofNat 16 (at16 (10 + 2 * j))⟩
  else none

/-- A notice goes ahead of every frame of a channel's gateway queue (R258). -/
def State.gwNotice (s : State) (n : Nat) (f : CanFrame) : State :=
  let c := s.cn n
  if c.mode != canActive then s.incSat GWE_STAT_QDROP
  else s.setCn n { c with gwNotes := c.gwNotes ++ [f] }

/-- A notice on Ethernet: a frame to profile NENC's destination with EtherType NETYPE and PCP NPCP, padded with zeros to
64 bytes (R257, R258). -/
def State.noticeEth (s : State) (n : Notice) : EthFrame :=
  let k := s.fld GWE_NCFG_NENC
  let tag := s.encTag k (s.fld GWE_NCFG_NPCP)
  { da := BitVec.ofNat 48 (s.fld (GWE_ENC_A_DA k)), sa := BitVec.ofNat 48 (s.fld ESW_MAC_MAC), tag := tag
    etype := BitVec.ofNat 16 (s.fld GWE_NCFG_NETYPE), payload := ethPad tag.isSome (noticeBytes n) }

/-- A SEND places one notice on each port that its carrier can hold (R258). -/
def State.gweSendNotice (s : State) (n : Notice) : State :=
  let xl := s.flag GWE_NCFG_NFMT
  let fmt := if xl then 3 else 2
  let data := noticeBytes n
  let s := s.each ((List.range 8).filter fun c => (s.fld GWE_NPORTS_NTXPORTS_C).testBit c) fun c t =>
    match padLen fmt data.length with
    | none => t.raiseBit (GWE_NCFG_NTOOBIG.bit c)
    | some len =>
      let ide := t.flag GWE_NCFG_NIDE && !xl
      t.gwNotice c
        { fmt := BitVec.ofNat 2 fmt, ide := ide, rtr := false, brs := false, sdt := 0, sec := false, vcid := 0, af := 0,
          id := BitVec.ofNat 29 (if ide then t.fld GWE_NCFG_NID else t.fld GWE_NCFG_NID % 2048), data := padData data len }
  s.each ((List.range 4).filter fun p => (s.fld GWE_NPORTS_NTXPORTS_E).testBit p) fun p t =>
    if t.degraded then t.incSat GWE_STAT_QDROP else t.ethOut p (t.fld GWE_NCFG_NPCP) (t.noticeEth n) none

/-- A payload on a port's carrier is taken as a notice, or counted in NBAD (R259). -/
def State.gweNotice (s : State) (port : Nat) (l : List Byte) : State :=
  match noticeOf l with
  | some n => s.noticeRx port n
  | none => s.incSat GWE_DROP_NBAD

/-- A CAN frame matches the notice carrier. -/
def State.canNoticeCarrier (s : State) (f : CanFrame) : Bool :=
  f.fmt.toNat == (if s.flag GWE_NCFG_NFMT then 3 else 2) && f.ide == (s.flag GWE_NCFG_NIDE && f.fmt != 3) &&
  f.id.toNat == (if f.ide then s.fld GWE_NCFG_NID else s.fld GWE_NCFG_NID % 2048)

end Sys2Proof.Machine
end

