-- ==== Sys2Proof/Machine/NslAgree.lean ====
section
/-!
DEFINITION. The sleep agreement (spec/08, R234) and what the buses hand on when a frame or a wake arrives (R217, R226, R230;
spec/09, R248, R259; spec/16, R408).
-/

namespace Sys2Proof.Machine

/-- The group agrees to sleep as soon as it can; with AUTOPARK it requests PARK (R234). -/
def State.nslCheck (s : State) : State :=
  if s.nslAllReady && !s.flag NSL_STAT_AGREED && s.pstate ≤ 1 then
    let s := s.nslSleep
    if s.flag NSL_CFG_AUTOPARK then s.pmuRequest 0 psPark else s
  else s

/-- A bus wake: recorded, and a wake source of the power manager (R230). -/
def State.busWake (s : State) (m kind : Nat) : State :=
  (s.nslWakeRecord m kind).pmuWake (if m < 8 then 1 else 2) m

/-- An accepted CAN frame reaches the gateway, the notice carrier, the command gate and the network-sleep unit. -/
def State.canHandOn (s : State) (n : Nat) (f : CanFrame) (stamp vbat : Nat) : State :=
  let s := s.gweIn (.can n f stamp)
  let s := if s.canNoticeCarrier f then s.gweNotice n f.data else s
  let s := if s.canCmdCarrier f then s.segRx n (.can f) vbat else s
  (s.speedRx n f).nslFrame n f.id.toNat f.ide f.data false

end Sys2Proof.Machine
end

