-- ==== Sys2Proof/Machine/Eth.lean ====
section
/-!
DEFINITION. The commands of the Ethernet switch and the gateway engine (spec/09, R240–R256).
-/

namespace Sys2Proof.Machine

/-! Owners (spec/09, Register map). -/

def State.eswOwned (s : State) (m : Master) (f : State → State) : State :=
  if ownerOk (s.fld ESW_CTL_OWNER) m then f s else s.raiseBit ESW_IRQ_CMD_VIOL

def State.gweOwned (s : State) (m : Master) (f : State → State) : State :=
  if ownerOk (s.fld GWE_CTL_OWNER) m then f s else s.raiseBit GWE_CTL_CMD_VIOL

/-! Reception (spec/09, R242, R243, R246, R248, R259; spec/16, R408). -/

/-- The VLAN entry a frame from a port is admitted under: acceptable-frame setting and ingress filter. -/
def State.ethAdmit (s : State) (p : Nat) (f : EthFrame) : Option Nat :=
  if p < 4 && s.flag (ESW_PORT_CFG_TAGONLY p) && f.tag.isNone then none
  else
    match s.vlanOf (s.ethVid p f) with
    | some v => if s.vlanMember v p then some v else none
    | none => none

/-- A valid frame of an admitted VLAN teaches its source address and goes to its ports; a transmit descriptor that waits for
its time-stamp follows the copy on the lowest-numbered open port. R246 does not say which of several copies gives the stamp
(DESIGN CHOICE, log entry 104). -/
def State.ethSwitch (s : State) (p v : Nat) (f : EthFrame) (stamp : Nat) (desc : Option Nat) : State :=
  let vid := s.ethVid p f
  let pcp := s.ethPcp p f
  let s := s.macLearn f.sa vid p
  let dest := s.ethDest p v vid f.da
  let lead := dest.find? fun q => decide (q < 4) && s.portOpen q
  s.each dest fun q t =>
    if q == 4 then t.gweIn (.eth (16 + p) f stamp) else t.ethForward v q vid pcp f (if some q == lead then desc else none)

def State.ethReceive (s : State) (p : Nat) (f : EthFrame) (fcsOk : Bool) (stamp vbat : Nat) : State :=
  if !(s.eswRuns && s.flag (ESW_PORT_CFG_PEN p)) then s
  else if !fcsOk || ethLen f < 64 || 1522 < ethLen f then s.incSat (ESW_PORT_STAT_RXERR p)
  else
    match s.ethAdmit p f with
    | none => s
    | some v =>
      let s := s.ethSwitch p v f stamp none
      let s := if f.etype.toNat == s.fld GWE_NCFG_NETYPE then s.gweNotice (16 + p) f.payload else s
      if s.ethCmdCarrier f then s.segRx (16 + p) (.eth f) vbat else s

/-- An Ethernet frame arrives: `stamp` is NTU_EXT at its SFD (R246), `vbat` the average of spec/16 R424 in 20 mV. -/
def execEthFrameRx (p : Fin 4) (f : EthFrame) (fcsOk : Bool) (stamp : BitVec 64) (vbat : BitVec 16) (s : State) : Out :=
  .next (s.ethReceive p f fcsOk stamp.toNat vbat.toNat)

/-- A MAC entry has not been refreshed for AGE × 10 s (R242); AGE 0 ages nothing. -/
def State.macExpire (s : State) (mac : BitVec 48) (vid : Nat) : State :=
  if s.fld ESW_CTL_AGE == 0 then s
  else { s with gwe := { s.gwe with mac := s.gwe.mac.filter fun e => !(e.mac == mac && e.vid == vid) } }

def execMacAgeExpire (mac : BitVec 48) (vid : BitVec 12) (s : State) : Out :=
  .next (if s.netRuns then s.macExpire mac vid.toNat else s)

/-- The PHY or PLCA reports `up` (R241); on CK_RC every port is stopped (R260). -/
def execEthLinkChange (p : Fin 4) (up : Bool) (s : State) : Out :=
  .next (if s.netRuns && !s.degraded then s.linkWatch fun t => t.putB (ESW_PORT_STAT_LINK p) up else s)

/-! Internal port (spec/09, R247). -/

/-- The external ports a transmit descriptor's frame goes to. -/
def State.txPorts (s : State) (w : Nat) (f : EthFrame) : List Nat :=
  if w.testBit 62 then (List.range 4).filter fun p => p + 16 == bitsOf w 52 5
  else
    match s.ethAdmit 4 f with
    | some v => (s.ethDest 4 v (s.ethVid 4 f) f.da).filter fun q => q < 4
    | none => []

/-- The frame of a descriptor enters its egress queues. -/
def State.txFrame (s : State) (w : Nat) (f : EthFrame) (desc : Option Nat) : State :=
  if w.testBit 62 then s.each (s.txPorts w f) fun p t => t.ethOut p (t.ethPcp 4 f) f desc
  else
    match s.ethAdmit 4 f with
    | some v => s.ethSwitch 4 v f 0 desc
    | none => s

/-- No port of a frame that has some, or that names one, has its link (R247). -/
def State.txLinkDown (s : State) (w : Nat) (ports : List Nat) : Bool :=
  (w.testBit 62 || !ports.isEmpty) && ports.all fun p => !s.ethLink p

/-- The transmit descriptor at IDX is taken. With TS = 1 it is returned at the SFD of its frame, so that OWN clears once the
time-stamp stands in word 1 (R246, R247); one that the ring meets again before that is not taken twice. -/
def State.internalTx (s : State) (e : MemErr) : State :=
  let d := s.txDesc
  let w := s.word d
  if !s.eswRuns || s.txWaiting.contains d then s
  else if e == .double || !w.testBit 63 then s.dmaEcc e
  else
    let s := s.dmaEcc e
    let len := bitsOf w 40 12
    let f := ethOfBytes (s.bytes (bitsOf w 0 40) len)
    if len < 60 || 1518 < len || s.txLinkDown w (s.txPorts w f) then (s.txReturn d istatAbortedFault none).txAdvance
    else
      let t := s.txFrame w f (if w.testBit 61 then some d else none)
      (if t.txWaiting.contains d then t else t.txReturn d istatOk none).txAdvance

/-- The transmit descriptor at IDX is taken (R247); a read that ends with a bus error leaves the descriptor as it is (spec/13,
R330; log entry 96). -/
def execInternalTx (e : MemErr) (s : State) : Out := .next (s.internalTx e)

/-! Lookups and buckets (spec/09, R249, R255). -/

/-- One lookup. -/
def execGweLookup (x : LookupRead) (s : State) : Out :=
  .next (if s.netRuns && s.flag GWE_CTL_EN then s.gweLookup (x.bad.map fun i => i.val) x.ecc else s)

/-- A token returns to the bucket of an entry of a bank. -/
def State.tokenRefill (s : State) (bank i : Nat) : State :=
  let key := 4096 * bank + i
  { s with gwe := { s.gwe with used := tset 0 s.gwe.used key (tget 0 s.gwe.used key - 1) } }

def execGweTokenRefill (bank : Fin 2) (i : Fin 4096) (s : State) : Out :=
  .next (if s.netRuns then s.tokenRefill bank i else s)

/-! Table access (spec/09, R256). -/

/-- RTDATA takes the words of an entry. -/
def State.gweRead (s : State) (bank i : Nat) : State :=
  let r := s.route bank i
  (((s.setReg (GWE_RTDATA 0) r.key).setReg (GWE_RTDATA 1) r.mask).setReg (GWE_RTDATA 2) r.action).setReg (GWE_RTDATA 3) r.out

/-- The entry RTDATA holds. -/
def State.gweData (s : State) : Route := ⟨s.reg (GWE_RTDATA 0), s.reg (GWE_RTDATA 1), s.reg (GWE_RTDATA 2), s.reg (GWE_RTDATA 3)⟩

/-- A write of RTCMD: its operation, and the fields BANK and INDEX. -/
def State.gweCommand (s : State) (op bank i : Nat) : State :=
  if s.flag GWE_RTCMD_BUSY then s.raiseBit GWE_CTL_CMD_VIOL
  else
    let s := (s.put GWE_RTCMD_BANK bank).put GWE_RTCMD_INDEX i
    match op with
    | 1 => s.gweRead bank i
    | 2 => s.setRoute (1 - s.gweBank) i s.gweData
    | 3 => s.putB GWE_RTCMD_BUSY true
    | 4 => s.put GWE_RTCMD_ACTIVE (1 - s.gweBank)
    | _ => s

/-- The value of an RTCMD write. -/
def rtcmdWord (op bank i : Nat) : BitVec 64 := BitVec.ofNat 64 (op * 65536 + bank * 4096 + i)

def State.gweCommandBy (s : State) (m : Master) (op bank i : Nat) : State :=
  s.access m GWE_RTCMD (some (rtcmdWord op bank i)) fun t => t.gweOwned m fun u => u.gweCommand op bank i

def execGweReadEntry (m : Master) (bank : Fin 2) (i : Fin 4096) (s : State) : Out := .next (s.gweCommandBy m 1 bank i)
def execGweWriteShadow (m : Master) (bank : Fin 2) (i : Fin 4096) (s : State) : Out := .next (s.gweCommandBy m 2 bank i)
def execGweCopy (m : Master) (bank : Fin 2) (i : Fin 4096) (s : State) : Out := .next (s.gweCommandBy m 3 bank i)
def execGweSwap (m : Master) (bank : Fin 2) (i : Fin 4096) (s : State) : Out := .next (s.gweCommandBy m 4 bank i)

/-- The copy is done: the shadow bank equals the bank in force, its buckets full. -/
def State.gweCopied (s : State) : State :=
  if !s.flag GWE_RTCMD_BUSY then s
  else
    let a := s.gweBank
    let live := s.gwe.route.filter fun e => e.1 / 4096 == a
    let copy := live.map fun e => ((1 - a) * 4096 + e.1 % 4096, e.2)
    let route := if a == 0 then live ++ copy else copy ++ live
    let used := s.gwe.used.filter fun e => e.1 / 4096 == a
    { s.putB GWE_RTCMD_BUSY false with gwe := { s.gwe with route := route, used := used } }

def execGweCopyDone (s : State) : Out := .next (if s.netRuns then s.gweCopied else s)

end Sys2Proof.Machine
end

