-- ==== Sys2Proof/Machine/Diag.lean ====
section
/-!
DEFINITION. The commands of channel diagnosis, the sense ADCs, the self-test slots, the die interface, the basting
hold and the limp map (spec/03).
-/

namespace Sys2Proof.Machine

/-! Sense ADCs. -/

/-- Sequences do not start in HOLD or PARK, nor during the basting hold (spec/03, R115). -/
def State.saBarred (s : State) : Bool := 2 ≤ s.pstate || s.flag PDI_STAT_HOLD

/-- A trigger of a sense ADC: the sequence starts, or the trigger is dropped while one runs (spec/03, R89). -/
def State.saStart (s : State) (a : Nat) : State :=
  let c := s.adc a
  if s.saBarred then s
  else if c.running.isSome then s.raiseBit (PDI_SACFG_TRIG_OVR a)
  else s.setAdc a { c with running := some 0, stamp := s.ntuNs }

/-- Number of entries of a sequence (spec/03, PDI_SACFGa): 0 acts as 1, above 16 as 16. -/
def State.saLen (s : State) (a : Nat) : Nat := max 1 (min 16 (s.fld (PDI_SACFG_LEN a)))

/-- The input code of entry `j` (spec/03, PDI_SASEQa_j). -/
def State.saInput (s : State) (a j : Nat) : Nat := ((s.reg (PDI_SASEQ a (j / 8))).toNat >>> (8 * (j % 8))) % 256

/-- The input codes that convert something (spec/03, R88). -/
def saCodeOk (x : Nat) : Bool := x ≤ 0x24 || (0x30 ≤ x && x ≤ 0x36)

/-- GO written with TRIG 0x1 (spec/03, R89). -/
def State.saGo (s : State) (a : Nat) : State := if s.fld (PDI_SACFG_TRIG a) == 1 then s.saStart a else s

def execSaGo (a : Fin 4) (s : State) : Out := .next (s.saGo a)

def execSaCounterTrigger (a : Fin 4) (s : State) : Out :=
  if s.fld (PDI_SACFG_TRIG a) == 2 && (s.adc a).event then
    .next ((s.setAdc a { s.adc a with event := false }).saStart a)
  else .next s

/-- The NTU distance of a time written for a wait (spec/01, R37). -/
def State.timeDelta (s : State) (t : Nat) : Nat := (t + 2 ^ 32 - s.ntuNs) % 2 ^ 32

def execSaTimeTrigger (a : Fin 4) (s : State) : Out :=
  let d := s.timeDelta (s.fld (PDI_SATIME_TIME a))
  if s.fld (PDI_SACFG_TRIG a) == 3 && (s.adc a).armed && (d == 0 || decide (2 ^ 31 ≤ d)) then
    .next ((s.setAdc a { s.adc a with armed := false }).saStart a)
  else .next s

/-- A write of PDI_SATIMEa (spec/03, R89). -/
def State.saTimeWrite (s : State) (a v : Nat) : State :=
  let s := s.put (PDI_SATIME_TIME a) v
  let d := s.timeDelta (s.fld (PDI_SATIME_TIME a))
  let bad := d == 0 || decide (2 ^ 31 ≤ d)
  let s := s.setAdc a { s.adc a with armed := !bad }
  s.when bad fun t => t.raiseBit (PDI_SACFG_TERR a)

def execSaTimeWrite (a : Fin 4) (v : BitVec 32) (s : State) : Out := .next (s.saTimeWrite a v.toNat)

/-- A conversion ends (spec/03, R88, R90); the next entry, or under TRIG 0x4 the next sequence, starts. R115 does not say
whether that sequence is a new trigger under the basting hold: the model takes it as one, so that a continuous ADC stops at
the end of its sequence and stays stopped (DESIGN CHOICE, log entry 100). -/
def execSaConversionDone (a : Fin 4) (value : BitVec 12) (s : State) : Out :=
  let c := s.adc a
  match c.running with
  | none => .next s
  | some j =>
    let x := s.saInput a j
    let ovr := s.flag (PDI_SARES_VALID a j) || !saCodeOk x
    let s := s.when ovr fun t => t.raiseBit (PDI_SARES_OVR a j)
    let s := (s.raiseBit (PDI_SARES_VALID a j)).put (PDI_SARES_STAMP a j) c.stamp
    let s := (s.put (PDI_SARES_INPUT a j) x).put (PDI_SARES_VALUE a j) (if saCodeOk x then value.toNat else 0)
    let again := s.fld (PDI_SACFG_TRIG a) == 4 && !s.saBarred
    let next := if j + 1 < s.saLen a then some (j + 1) else if again then some 0 else none
    .next (s.setAdc a { c with running := next, stamp := s.ntuNs })

/-- A converter fails calibration (spec/03, R91). -/
def execSaCalFail (p : Fin 5) (s : State) : Out :=
  if s.flag ((PDI_SACAL_INROT).bit p) && !s.flag PDI_SACAL_DEGRADED then
    let s := (s.put ((PDI_SACAL_INROT).bit p) 0).raiseBit PDI_IRQ_SACAL
    if popcount (s.fld PDI_SACAL_INROT) ≤ 4 then .next ((s.raiseBit PDI_SACAL_DEGRADED).raiseP 73) else .next s
  else .next s

/-! Channel diagnosis. -/

/-- The sticky values of DSTATE (spec/03, R95, R98). -/
def dstateSticky (d : Nat) : Bool := d == 2 || (4 ≤ d && d ≤ 7)

/-- A piece of evidence for a high-side channel (spec/03, R95, R98). -/
def State.hswEvidence (s : State) (n kind : Nat) : State :=
  let cnt := if s.fld (HSW_DSTAT_EVKIND n) == kind then min 15 (s.fld (HSW_DSTAT_EVID n) + 1) else 1
  let s := (s.put (HSW_DSTAT_EVKIND n) kind).put (HSW_DSTAT_EVID n) cnt
  let d := s.fld (HSW_DSTAT_DSTATE n)
  if cnt < max 1 (s.fld (HSW_DCFG_CONFIRM n)) || d == kind || (dstateSticky d && !dstateSticky kind) then s
  else
    let s := s.put (HSW_DSTAT_DSTATE n) kind
    if dstateSticky kind then
      (s.raiseBit (HSW_DIRQ_DIAG.bit n)).raiseP (if kind == 2 then 67 else if kind == 4 then 68 else 69)
    else s

/-- Length of a counter's high or low phase in CK_PER cycles, as a source sees it (spec/07, R192). -/
def State.counterPhase (s : State) (g : Nat) (inv : Bool) : Nat :=
  let c := s.ctr g
  let per := if c.per.toNat == 0 then 2 ^ 64 else c.per.toNat
  let a := min per c.cmpA.toNat
  let b := min per c.cmpB.toNat
  let high := match s.fld (GT_CFG_OUTMODE g) with
    | 0 => a
    | 1 => b - a
    | 2 => per
    | _ => 0
  let span := if s.fld (GT_CFG_OUTMODE g) == 2 then 2 * per else per
  (if inv then span - high else high) * (s.fld (GT_CFG_PSC g) + 1)

/-- Length in CK_PER cycles of the turn-ons of a channel that a counter drives: at least the minimum on-time (spec/02,
R62). -/
def State.pulseCycles (s : State) (n : Nat) : Nat :=
  max (minOnCycles n) (s.counterPhase (s.fld (HSW_STAT_SRC n) - 0x20) (s.cflag (HSW_CFG_INV n)))

/-- Ticks after which a counter at `n` with PER_eff `per` first stands at `v`; `wrap` says that the next tick wraps. A
count at or above the period otherwise runs on to 2⁶⁴ (spec/07, R190, R195). -/
def ticksTo (wrap : Bool) (per n v : Nat) : Option Nat :=
  if wrap then (if v < per then some (1 + v) else none)
  else if n < v && (per ≤ n || v < per) then some (v - n)
  else if v < per then some ((if per ≤ n then 2 ^ 64 else per) - n + v)
  else none

/-- Ticks until a counter's output changes, none when it never does (spec/07, R192). -/
def State.ticksToEdge (s : State) (g : Nat) : Option Nat :=
  let c := s.ctr g
  let per := perEff c.per
  let n := (s.gtCount g).toNat
  let a := c.cmpA.toNat
  let b := c.cmpB.toNat
  let high := fun v =>
    match s.fld (GT_CFG_OUTMODE g) with
    | 0 => decide (v < a)
    | 1 => decide (a ≤ v) && decide (v < b)
    | _ => false
  match s.fld (GT_CFG_OUTMODE g) with
  | 2 => ticksTo c.wrapNext per n 0
  | 3 => none
  | _ => leastOf (([0, a, b].filter fun v => high v != high n).filterMap (ticksTo c.wrapNext per n))

/-- The output of a counter stands still: it is stopped, or no edge is to come (spec/07, R192). -/
def State.gtSteady (s : State) (g : Nat) : Bool := !s.gtRuns g || (s.ticksToEdge g).isNone

/-- A channel is measurable (spec/03, R96): 40 µs are 5,000 CK_PER cycles. The turn-ons of a channel that no counter
drives now, or one whose output stands still, last as long as its input or its committed state. -/
def State.hswMeasurable (s : State) (n : Nat) : Bool :=
  s.flag (HSW_DCFG_STRETCH n) || s.flag (HSW_DCFG_OFFDIAG n) || !s.counterDriven n ||
  s.gtSteady (s.fld (HSW_STAT_SRC n) - 0x20) || decide (5000 ≤ s.pulseCycles n)

/-- DSTATE as it reads (spec/03, R96). -/
def State.dstateRead (s : State) (n : Nat) : Nat :=
  let d := s.fld (HSW_DSTAT_DSTATE n)
  if s.hswMeasurable n || dstateSticky d then d else 3

/-- The on-state window of a channel ends (spec/03, R92). Voltages are in 20 mV, the mean current in 1/256 A. -/
def execOndiagWindowEnd (n : Fin 64) (iwin vout feed : BitVec 16) (s : State) : Out :=
  let l := s.hswLead n
  if s.flag (HSW_STAT_OUT l) then
    let good := decide (s.fld (HSW_DCFG_IOLON l) * 128 ≤ iwin.toNat * 125)
    let kind :=
      if good then 1
      else if feed.toNat ≤ vout.toNat + 100 then 2
      else if vout.toNat < 100 then 5
      else 0
    let t :=
      if s.flag (HSW_DCFG_ONDIAG l) then
        let t := (s.put (HSW_DSTAT_IWIN l) iwin.toNat).put (HSW_DSTAT_VOUT l) vout.toNat
        if kind == 0 then t else t.hswEvidence l kind
      else s
    .next ((t.setHsc l { t.hsc l with stretch := false }).hswEval l)
  else .next s

/-- Off-state diagnosis starts by itself in an off gap (spec/03, R94); in HOLD and PARK on limp targets alone, whose row
governs (R115). -/
def execOffdiagStart (n : Fin 64) (s : State) : Out :=
  let l := s.hswLead n
  if !s.flag (HSW_STAT_OUT l) && s.fld (HSW_DCFG_DPER l) != 0 && (s.pstate ≤ 1 || s.flag (HSW_STAT_LIMP l)) then
    .next (s.setHsc l { s.hsc l with offDiag := true })
  else .next s

/-- Off-state diagnosis ends: output voltages with the source off and on in 20 mV, and current in the channel's own
sense (spec/03, R93). -/
def execOffdiagResult (n : Fin 64) (vOff vOn : BitVec 16) (own : Bool) (s : State) : Out :=
  let l := s.hswLead n
  if (s.hsc l).offDiag then
    let s := s.setHsc l { s.hsc l with offDiag := false }
    let open_ := s.flag (HSW_DCFG_OFFDIAG l)
    let s := s.put (HSW_DSTAT_VOUT l) (if open_ then vOn.toNat else vOff.toNat)
    let kind :=
      if 275 ≤ vOff.toNat && own then 6
      else if 275 ≤ vOff.toNat && s.flag (HSW_DCFG_STBEN l) then 4
      else if open_ && vOn.toNat < 100 then 1
      else if open_ && vOn.toNat ≤ 275 then 2
      else 0
    .next (if kind == 0 then s else s.hswEvidence l kind)
  else .next s

/-- One short on-pulse is stretched to 40 µs; the window's end ends it (spec/03, R97). -/
def execDiagStretch (n : Fin 64) (s : State) : Out :=
  if s.flag (HSW_DCFG_STRETCH n) && s.counterDriven n && s.flag (HSW_STAT_OUT n) && decide (s.pulseCycles n < 5000) then
    .next (s.setHsc n { s.hsc n with stretch := true })
  else .next s

/-- A write of HSW_DSTATn.DCLR (spec/03, HSW_DSTATn). -/
def State.hswDclr (s : State) (m : Master) (n : Nat) : State :=
  if ownerOk (s.fld (HSW_CFG_OWNER n)) m then
    ((s.put (HSW_DSTAT_DSTATE n) 0).put (HSW_DSTAT_EVKIND n) 0).put (HSW_DSTAT_EVID n) 0
  else s.raiseBit HSW_IRQ_CFG_VIOL

def execHswDclr (m : Master) (n : Fin 64) (s : State) : Out :=
  .next (s.access m (HSW_CFG n) none fun t => t.hswDclr m n)

/-! Self-test slots. -/

/-- The owner field of a channel a test names (spec/03, R99); a ganged channel has its lead's, since R130 has the partner's
VLV_CFGc ignored (spec/04). -/
def State.testOwner (s : State) (b : OutBlock) (c : Nat) : Nat :=
  match b with
  | .hsw => s.fld (HSW_CFG_OWNER c)
  | .vlv => s.fld (VLV_CFG_OWNER (s.vlvLead c))
  | .led => s.fld (LED_CFG_OWNER c)
  | .dout => s.fld (DOUT_CFG_OWNER c)

/-- The channel is HELD, under the limp map, or SUBST (spec/03, R99). -/
def State.testHeld (s : State) (b : OutBlock) (c : Nat) : Bool :=
  match b with
  | .hsw => s.flag (HSW_STAT_HELD c) || s.flag (HSW_STAT_LIMP c) || s.flag (HSW_DSTAT_SUBST c)
  | .vlv => s.flag (VLV_STAT_HELD c) || s.flag (VLV_STAT_LIMP c)
  | .led => s.flag (LED_STAT_HELD c)
  | .dout => s.flag (DOUT_STAT_HELD c) || s.flag (DOUT_STAT_LIMP c)

/-- The request names no channel of its own or a reserved test (spec/03, R99; spec/04, R135; spec/05, R151; spec/06,
R187). A valve request that names no channel, or the partner of a ganged one, is a conflict; R135 gives it no code (DESIGN
CHOICE, log entry 101). -/
def State.testConflict (s : State) (b : OutBlock) (c test : Nat) : Bool :=
  match b with
  | .hsw => s.hswLead c != c || test == 0 || 4 < test
  | .vlv => 24 ≤ c || s.vlvLead c != c || test == 0 || 4 < test
  | .led => 48 ≤ c || (s.matrixOn && decide (c < 24)) || !(test == 1 || test == 4)
  | .dout => 16 ≤ c || !(test == 1 || test == 2 || test == 4)

/-- The level of a counter lasts for `cycles` CK_PER cycles, by its period and compares (spec/03, R100). -/
def State.levelLasts (s : State) (g cycles : Nat) : Bool :=
  if s.gtSteady g then true
  else
    let t := (s.ticksToEdge g).getD 0
    let d := s.fld (GT_CFG_PSC g)
    decide (cycles ≤ (d + 65536 - (s.ctr g).psc) % 65536 + 1 + (t - 1) * (d + 1))

/-- The channel is predicted to stay on, or off, for `cycles` CK_PER cycles: by the counter that drives it, otherwise always
(spec/03, R100), whose present level must have arrived (spec/02, R59). An output on only by its minimum on-time, or stretched, goes off when that ends (spec/02, R62; R97). -/
def State.keepsOutput (s : State) (n : Nat) (on : Bool) (cycles : Nat) : Bool :=
  let g := s.fld (HSW_STAT_SRC n) - 0x20
  let high := s.flag (GT_STAT_OUT g) != s.cflag (HSW_CFG_INV n)
  let byMin := decide (s.now + cycles ≤ (s.hsc n).minUntil)
  if !s.counterDriven n then true
  else if on then (high && s.levelLasts g cycles) || byMin
  else s.levelLasts g cycles && s.flag (GT_STAT_OUT g) == tget false s.hsw.ctrSeen g

/-- The state of the outputs is the one a test's gap needs (spec/03, R100; spec/04, R135; spec/05, R151; spec/06,
R187). R135 does not say whether a channel in RELEASE still conducts for the gap of TEST 0x2: the model asks every channel of
the bank to be OFF (DESIGN CHOICE, log entry 101). -/
def State.gapOk (s : State) (b : OutBlock) (c test : Nat) : Bool :=
  match b with
  | .hsw =>
    if test == 3 then s.flag (HSW_STAT_OUT c) && s.keepsOutput c true 25000
    else !s.flag (HSW_STAT_OUT c) && s.keepsOutput c false 18750
  | .vlv =>
    if test == 3 then
      s.phase c == phHold && !s.isQueued c && Fld.of (VLV_PROF_A_HOLD_T 0) (s.val c).profA == 0
    else if test == 2 then
      (List.range 6).all fun i => s.phase (s.vlvLead (c / 6 * 6 + i)) == phOff
    else s.phase c == phOff
  | .led => s.fld (LED_STAT_LEVEL c) == 0 && (s.fade c).isNone
  | .dout => !s.flag (DOUT_STAT_OUT c)

/-- The gap of a new request is there: one in the off state has lasted 50 µs already (spec/03, R100; spec/05, R151). -/
def State.gapNow (s : State) (b : OutBlock) (c test : Nat) : Bool :=
  s.gapOk b c test && (test == 3 || s.offLong b c)

/-- A self-test slot is written: ignored while a request waits; else its fields are taken, and with GO the request is
submitted (spec/03, R99, R100, R115). A request with no gap is DEFERRED. RESULT keeps what the earlier test found until this
one ends; R99 does not say (DESIGN CHOICE, log entry 114). -/
def State.slotWrite (s : State) (b : OutBlock) (m : Master) (k : Nat) (v : BitVec 64) : State :=
  if istatOpen (s.fld (tslotIstat b k)) then s
  else
    let deadline : Fld := ⟨tslot b k, 32, 16⟩
    let go : Fld := ⟨tslot b k, 63, 1⟩
    let s := s.put (tslotChan b k) ((tslotChan b k).of v)
    let s := (s.put (tslotTest b k) ((tslotTest b k).of v)).put deadline (deadline.of v)
    if go.of v == 0 then s
    else
      let c := s.fld (tslotChan b k)
      let test := s.fld (tslotTest b k)
      let own := s.testOwner b c
      let s := s.put (tslotOwner b k) m.num
      let code :=
        if s.s3 || s.s4 then istatAbortedFault
        else if !ownerOk own m || s.testHeld b c then istatPolicy
        else if s.testConflict b c test then istatConflict
        else if s.gapNow b c test then istatPending
        else istatDeferred
      s.put (tslotIstat b k) code

/-- GO written in a slot (spec/03, R99). -/
def State.testGo (s : State) (b : OutBlock) (m : Master) (k : Nat) (v : BitVec 64) : State :=
  s.slotWrite b m k (v ||| 0x8000000000000000#64)

def execHswTestGo (m : Master) (k : Fin 8) (v : BitVec 64) (s : State) : Out :=
  .next (s.access m (HSW_TSLOT k) none fun t => t.testGo .hsw m k v)
def execVlvTestGo (m : Master) (k : Fin 4) (v : BitVec 64) (s : State) : Out :=
  .next (s.access m (VLV_TSLOT k) none fun t => t.testGo .vlv m k v)
def execLedTestGo (m : Master) (k : Fin 4) (v : BitVec 64) (s : State) : Out :=
  .next (s.access m (LED_TSLOT k) none fun t => t.testGo .led m k v)
def execDoutTestGo (m : Master) (k : Fin 2) (v : BitVec 64) (s : State) : Out :=
  .next (s.access m (DOUT_TSLOT k) none fun t => t.testGo .dout m k v)

/-- The request of a slot waits and its test is not running. -/
def State.testWaits (s : State) (b : OutBlock) (k : Nat) : Bool :=
  decide (k < tslotCount b) && istatOpen (s.fld (tslotIstat b k)) && !s.pdi.tests.contains ⟨b, k⟩

/-- A gap of the needed kind arrives, which says that an off gap has lasted 50 µs (spec/03, R100; stopped in HOLD and PARK,
R115; log entry 86). R99 refuses a new request for a limp target and does not say what becomes of one that waits when its
channel comes under the map: the model leaves it in its slot, and it may run (DESIGN CHOICE, log entry 114). -/
def execTestGapStart (b : OutBlock) (k : Fin 8) (s : State) : Out :=
  if s.testWaits b k && s.gapOk b (s.fld (tslotChan b k)) (s.fld (tslotTest b k)) && s.pstate ≤ 1 then
    let s := s.put (tslotIstat b k) istatPending
    .next { s with pdi := { s.pdi with tests := s.pdi.tests ++ [⟨b, k.val⟩] } }
  else .next s

/-- A piece of evidence for a channel of a block. -/
def State.evidence (s : State) (b : OutBlock) (c kind : Nat) : State :=
  match b with
  | .hsw => s.hswEvidence c kind
  | .vlv => s.vlvEvidence c kind
  | .led => s.sinkEvidence c kind
  | .dout => s.doutEvidence c kind

/-- The evidence that a test can find, coded as DSTATE: the off-state checks find what their block's rule names
(spec/03, R93; spec/04, R134; spec/05, R149; spec/06, R186), the switch tests GOOD or a switch fault, the sense check
GOOD or SENSE_FAIL (log entry 86). -/
def State.testFinds (s : State) (b : OutBlock) (c test : Nat) : List Nat :=
  match b with
  | .hsw =>
    match test with
    | 1 => (if s.flag (HSW_DCFG_OFFDIAG c) then [1, 2] else []) ++ (if s.flag (HSW_DCFG_STBEN c) then [4] else []) ++ [6]
    | 2 => [1, 6]
    | 3 => [1, 5]
    | _ => [1, 7]
  | .vlv => if test == 1 then (if s.feedPos (c / 6) == .vbat then [1, 2, 5] else [1, 2]) else []
  | .led => if test == 1 && s.flag (LED_CFG_DIAGEN c) then [1, 2] else []
  | .dout => if test == 1 then [1, 2, 3] else []

/-- A test ends with a result (spec/03, R94, R100). HSW_DSTATn.VOUT, the voltage at the last check, is left to windows and to the
runs of R94: the rules do not say whether a self-test writes it (DESIGN CHOICE, log entry 114). -/
def execTestDone (b : OutBlock) (k : Fin 8) (result : BitVec 4) (s : State) : Out :=
  if s.pdi.tests.contains ⟨b, k.val⟩ then
    let c := s.fld (tslotChan b k)
    let found := if (s.testFinds b c (s.fld (tslotTest b k))).contains result.toNat then result.toNat else 0
    let s := (s.put (tslotIstat b k) istatOk).put (tslotResult b k) found
    let s := { s with pdi := { s.pdi with tests := s.pdi.tests.filter (· != ⟨b, k.val⟩) } }
    .next (if found == 0 then s else s.evidence b c found)
  else .next s

/-- A request's deadline passes with no gap (spec/03, R100). -/
def execTestDeadlineExpire (b : OutBlock) (k : Fin 8) (s : State) : Out :=
  if s.testWaits b k then .next (s.put (tslotIstat b k) istatExpired) else .next s

/-! Die interface, hold, limp map. -/

/-- A frame fails its CRC (spec/03, R102). -/
def execLinkCrcError (s : State) : Out := .next (s.incSat PDI_STAT_LINK_ERR)

/-- The P-die declares the L-die lost: FS070 goes into its own record and the limp map is applied (spec/03, R103,
R109). -/
def State.ldieLost (s : State) : State :=
  let s := (s.putB PDI_STAT_LINK_UP false).raiseBit PDI_IRQ_LINK
  (s.raiseP 70).limpApply 2 istatAbortedFault

def execLdieLost (s : State) : Out := if s.flag PDI_STAT_LINK_UP then .next s.ldieLost else .next s

/-- LINK_UP is set and held events are flagged (spec/03, R103, R104). The P-die's record arrives with the next sample (spec/17,
R436). -/
def State.linkUp (s : State) : State :=
  if s.flag PDI_STAT_LINK_UP then s
  else
    let s := (s.raiseBit PDI_STAT_LINK_UP).raiseBit PDI_IRQ_LINK
    let s := s.when s.pdi.holdEvent fun t => t.raiseBit PDI_IRQ_HOLD
    let s := s.when s.pdi.limpEvent fun t => t.raiseBit PDI_IRQ_LIMP
    { s with pdi := { s.pdi with holdEvent := false, limpEvent := false } }

def execLinkRestore (s : State) : Out := .next s.linkUp

/-- The L-die sees no valid frame for 2 µs (spec/17, R436). -/
def execLinkDownSeen (s : State) : Out := .next (s.raiseL 75)

/-- HOLD_WIN ms pass with no claim armed (spec/03, R107). -/
def execBastingHoldExpire (s : State) : Out :=
  if s.flag PDI_STAT_HOLD && !(allHandles.any fun h => (s.hnd h).claim.isSome && s.txState h == txArmed) then
    .next ((s.limpApply 5 istatExpired).raiseP 71)
  else .next s

/-- LIMP_N stays low for 100 µs (spec/03, R109; spec/14, R380). -/
def execLimpNAssert (s : State) : Out :=
  .next (State.limpTrigger { s with pdi := { s.pdi with limpNHigh := false } } 1 istatAbortedFault)

/-- LIMP_N returns high (spec/03, R111). -/
def execLimpNHigh (s : State) : Out := .next { s with pdi := { s.pdi with limpNHigh := true } }

/-- A write of PDI_CMD.RELEASE (spec/03, R111). -/
def State.releaseWrite (s : State) : State :=
  if s.flag PDI_STAT_LIMP && s.pdi.limpNHigh && s.flag PDI_STAT_LINK_UP && !s.s3 && !s.s4 then s.limpRelease else s

def execLimpRelease (s : State) : Out := .next s.releaseWrite

end Sys2Proof.Machine
end

