-- ==== Sys2Proof/Machine/Din.lean ====
section
/-!
DEFINITION. The commands of the switch inputs and the field outputs (spec/06).
-/

namespace Sys2Proof.Machine

/-! Switch inputs. -/

/-- UPTH as it acts (spec/06, R172). -/
def State.dinUp (s : State) (n : Nat) : Nat := min (s.fld (DIN_FLT_CMAX n)) (max 1 (s.fld (DIN_FLT_UPTH n)))

/-- DNTH as it acts (spec/06, R172). -/
def State.dinDn (s : State) (n : Nat) : Nat := min (s.fld (DIN_FLT_DNTH n)) (s.dinUp n - 1)

/-- M of R173 (spec/06). -/
def State.dinMid (s : State) (n : Nat) : Nat := (s.dinUp n + s.dinDn n) / 2

/-- The raw class of a pin voltage, coded as STATE with 0 for none (spec/06, R169, R170): voltages in 20 mV; `wetOk`
is the check of the wetting source (R171). A pin above VBAT gives a negative D under PUL = 0. -/
def State.dinClass (s : State) (n pin vbat : Nat) (wetOk : Bool) : Nat :=
  if !wetOk then 0
  else if s.flag (DIN_CFG_WBEN n) then
    let d : Int := 2 * (if s.flag (DIN_CFG_PUL n) then (pin : Int) else vbat - pin)
    if vbat < 500 then 0
    else if d < 0 || d < 5 * s.fld (DIN_WB_WB1 n) then 4
    else if d < 5 * s.fld (DIN_WB_WB2 n) then (if s.flag (DIN_CFG_PUL n) then 1 else 2)
    else if d < 5 * s.fld (DIN_WB_WB3 n) then (if s.flag (DIN_CFG_PUL n) then 2 else 1)
    else 3
  else
    let hi := s.fld (DIN_FLT_THR_H n)
    let lo := if hi ≤ s.fld (DIN_FLT_THR_L n) then (hi : Int) - 1 else (s.fld (DIN_FLT_THR_L n) : Int)
    if hi * vbat ≤ 256 * pin then 2
    else if decide (256 * (pin : Int) ≤ lo * vbat) then 1
    else (s.dinc n).prev.getD 0

/-- Inputs scanned in PARK (spec/06, R179). -/
def State.dinParkScan (s : State) (n : Nat) : Bool :=
  s.flag (DIN_CFG_WAKE n) ||
  (List.range 24).any (fun k => s.flag (PDI_LIMP_EN k) && s.fld (PDI_LIMP_DI k) == n) ||
  (List.range 64).any (fun c => s.cflag (HSW_CFG_PARK c) && s.fld (HSW_STAT_SRC c) == 0x40 + n)

/-- WEDGE selects a change of STATE (spec/06, R178). -/
def wedgeSelects (wedge old new : Nat) : Bool :=
  match wedge with
  | 0 => new == 2
  | 1 => new == 1
  | 2 => (old == 1 && new == 2) || (old == 2 && new == 1)
  | _ => true

/-- STATE changes (spec/06, R176, R178; spec/07, R196; spec/02, R60; spec/03, R110; spec/14, R375). -/
def State.dinChange (s : State) (n new : Nat) : State :=
  let old := s.fld (DIN_STAT_STATE n)
  if old == new then s
  else
    let s := (s.put (DIN_STAT_STATE n) new).put (DIN_STAT_STAMP n) s.ntuNs
    let s := s.raiseBit ((DIN_CHG_CHG (n / 64)).bit (n % 64))
    let s := s.when (new == 3 || new == 4) fun t => t.raiseP 165
    let s := s.when (2 ≤ s.pstate && s.flag (DIN_CFG_WAKE n) && wedgeSelects (s.fld (DIN_CFG_WEDGE n)) old new) fun t =>
      ((t.raiseBit DIN_WAKE_VALID).put DIN_WAKE_STATE new).put DIN_WAKE_INPUT n
    let s := s.when (s.flag (DIN_CFG_WAKE n) && wedgeSelects (s.fld (DIN_CFG_WEDGE n)) old new) fun t => t.pmuWake 0 n
    let s := s.when (s.pstate ≤ 1) fun t =>
      t.each ((List.range 32).filter fun g => t.fld (GT_CFG_CAPSRC g) == 0x40 + n) fun g u => u.gtCapture g
    s.inputChanged n

/-- A sample of raw class `k` acts on the filter and decides STATE (spec/06, R172, R173); OPEN and SHORT are left only
by a HIGH or LOW sample. -/
def State.dinDecide (s : State) (n k : Nat) : State × Nat :=
  let c := s.dinc n
  let c := { c with runOpen := if k == 3 then c.runOpen + 1 else 0, runShort := if k == 4 then c.runShort + 1 else 0,
                    prev := some k }
  let s := s.setDinc n c
  let cnt := s.fld (DIN_STAT_COUNT n)
  let need := max 1 (s.fld (DIN_FLT_WBCONF n))
  if k == 1 || k == 2 then
    let cnt := if k == 2 then min (s.fld (DIN_FLT_CMAX n)) (cnt + 1) else cnt - 1
    let s := s.put (DIN_STAT_COUNT n) cnt
    (s, if s.dinUp n ≤ cnt then 2 else if cnt ≤ s.dinDn n then 1 else s.fld (DIN_STAT_STATE n))
  else if s.fld (DIN_STAT_STATE n) == 3 || s.fld (DIN_STAT_STATE n) == 4 then (s, s.fld (DIN_STAT_STATE n))
  else if (k == 3 && need ≤ c.runOpen) || (k == 4 && need ≤ c.runShort) then (s.put (DIN_STAT_COUNT n) (s.dinMid n), k)
  else (s, s.fld (DIN_STAT_STATE n))

/-- The input returns to its start (spec/06, R174): COUNT = M, STATE INIT, no previous sample. -/
def State.dinRestart (s : State) (n : Nat) : State :=
  let s := s.setDinc n {}
  (s.put (DIN_STAT_COUNT n) (s.dinMid n)).put (DIN_STAT_STATE n) 0

/-- Accepted writes take effect at the next sample (spec/06, R174): the return to the start, or COUNT clipped to CMAX. -/
def State.dinSettle (s : State) (n : Nat) : State :=
  if (s.dinc n).restart then s.dinRestart n
  else s.put (DIN_STAT_COUNT n) (min (s.fld (DIN_STAT_COUNT n)) (s.fld (DIN_FLT_CMAX n)))

/-- An input is sampled (spec/06, R169–R174); in PARK only the inputs of R179 are. Voltages in 20 mV. The sample
compares its STATE with that of the sample before, so a return to the start that ends in the same STATE is no change
(log entry 75). -/
def execDinSample (n : Fin 96) (pin vbat : BitVec 16) (wetOk : Bool) (s : State) : Out :=
  if s.pstate == 3 && !s.dinParkScan n then .next s
  else
    let old := s.fld (DIN_STAT_STATE n)
    let s := s.dinSettle n
    let k := s.dinClass n pin.toNat vbat.toNat wetOk
    let s := (s.put (DIN_STAT_VPIN n) pin.toNat).put (DIN_STAT_RAW n) k
    let s := s.when (!wetOk) fun t => (t.raiseBit DIN_IRQ_WET_FAULT).raiseP 166
    let s := s.when (s.flag (DIN_CFG_WBEN n) && decide (vbat.toNat < 500)) fun t => t.raiseBit DIN_IRQ_WBLOWV
    let r := s.dinDecide n k
    .next ((r.1.put (DIN_STAT_STATE n) old).dinChange n r.2)

/-- The number of continuous inputs (spec/06, R168). -/
def State.ncont (s : State) : Nat := ((List.range 96).filter fun n => s.flag (DIN_CFG_WET n)).length

/-- The input is named by an enabled limp-map entry (spec/06, R177). -/
def State.dinLimpNamed (s : State) (n : Nat) : Bool :=
  (List.range 24).any fun k => s.flag (PDI_LIMP_EN k) && s.fld (PDI_LIMP_DI k) == n

/-- What an accepted configuration value does (spec/06, R168, R174): the register holds it at once, its effect waits for
the next sample. Answers whether the block takes it. `mask` is the
writable part. -/
def State.dinConfig (s : State) (n r : Nat) (new : BitVec 64) : State × Bool :=
  let old := s.reg r
  if r == DIN_CFG n && (DIN_CFG_WET n).of new == 1 && (DIN_CFG_WET n).of old == 0 && 24 ≤ s.ncont then
    (s.raiseBit DIN_IRQ_CFG_VIOL, false)
  else
    let t := s.setReg r new
    let re := r == DIN_CFG n &&
      ((DIN_CFG_PUL n).of new != (DIN_CFG_PUL n).of old || (DIN_CFG_WET n).of new != (DIN_CFG_WET n).of old ||
       (DIN_CFG_WBEN n).of new != (DIN_CFG_WBEN n).of old)
    (t.when re fun u => u.setDinc n { u.dinc n with restart := true }, true)

/-- The writable bits of the three configuration registers of an input. -/
def dinMask (r : Fin 3) : BitVec 64 :=
  if r == 0 then 0x3F0338#64 else if r == 1 then 0xFFFF0FFFFFFF#64 else 0xFFFFFF#64

/-- The address of one of an input's configuration registers: DIN_CFGn, DIN_FLTn, DIN_WBn. -/
def dinReg (n : Nat) (r : Fin 3) : Nat := if r == 0 then DIN_CFG n else if r == 1 then DIN_FLT n else DIN_WB n

/-- A write of DIN_CFGn, DIN_FLTn or DIN_WBn by a master (spec/06, R174, R177): the sequencer is free of the owner rule only
(spec/13, R348; log entry 76). -/
def State.dinConfigWrite (s : State) (m : Master) (n : Nat) (r : Fin 3) (a : Access) (v : BitVec 64) : State :=
  let old := s.reg (dinReg n r)
  if !ownerOk (s.fld (DIN_CFG_OWNER n)) m || s.dinLimpNamed n then s.raiseBit DIN_IRQ_CFG_VIOL
  else (s.dinConfig n (dinReg n r) ((old &&& ~~~ dinMask r) ||| (accMerge a old v &&& dinMask r))).1

def execDinConfigWrite (m : Master) (n : Fin 96) (r : Fin 3) (a : Access) (v : BitVec 64) (s : State) : Out :=
  .next (s.access m (DIN_CFG n) none fun t => t.dinConfigWrite m n r a v)

/-! Field outputs. -/

/-- A refresh arrives at the P-die (spec/06, R182, R183). -/
def State.doutRefresh (s : State) (m : Master) (n seq : Nat) : State :=
  if (s.dou n).expired then s.raiseBit DOUT_IRQ_RFR_LATE
  else if (m == .bsq || s.fld (DOUT_CFG_OWNER n) == m.num) && seq % 16 == (s.fld (DOUT_STAT_SEQ n) + 1) % 16 then
    let s := s.put (DOUT_STAT_SEQ n) seq
    if (s.dou n).running && !(s.dou n).suspended then s.startWindow n else s
  else s.raiseBit DOUT_IRQ_RFR_BAD

def execDoutRefresh (m : Master) (n : Fin 16) (seq : BitVec 4) (s : State) : Out :=
  .next (s.access m (DOUT_CFG n) none fun t => t.doutRefresh m n seq.toNat)

/-- A refresh window expires (spec/06, R183). -/
def execRefreshWindowExpire (n : Fin 16) (s : State) : Out :=
  if (s.dou n).running && !(s.dou n).suspended then
    let s := (s.endPulse .dout n).doutOff n
    let s := (s.put (DOUT_STAT_TRIP_CAUSE n) 3).raiseBit (DOUT_IRQ_SILENT.bit n)
    let s := (s.raiseP (168 + n)).setDou n { s.dou n with expired := true }
    .next (s.hitItems fun it => it.block == 4 && it.chan == n)
  else .next s

/-- A conducting output's current is above 1.2 A for 10 µs, which is also SHORT_BAT evidence (spec/06, R185, R186). -/
def execDoutOcTrip (n : Fin 16) (s : State) : Out :=
  if s.flag (DOUT_STAT_OUT n) then .next ((s.doutTrip n 1).doutEvidence n 4) else .next s

/-- A conducting output's junction reaches 170 °C (spec/06, R185). -/
def execDoutOtTrip (n : Fin 16) (s : State) : Out :=
  if s.flag (DOUT_STAT_OUT n) then .next (s.doutTrip n 2) else .next s

/-- The automatic off-state check starts (spec/06, R186). -/
def execDoutOffdiagStart (n : Fin 16) (s : State) : Out :=
  if s.flag (DOUT_CFG_OFFDIAG n) && !s.flag (DOUT_STAT_OUT n) then
    .next (s.setDou n { s.dou n with offDiag := true })
  else .next s

/-- The check ends with the land's voltage in each phase and VBAT, in 20 mV (spec/06, R186). -/
def execDoutOffdiagResult (n : Fin 16) (v1 v2 vbat : BitVec 16) (s : State) : Out :=
  if (s.dou n).offDiag then
    let s := s.setDou n { s.dou n with offDiag := false }
    let high := fun v : BitVec 16 => decide (vbat.toNat ≤ v.toNat + 100)
    .next (
      if v1.toNat < 100 then s.doutEvidence n 3
      else if v2.toNat < 100 then s.doutEvidence n 2
      else if high v1 && high v2 then s.doutEvidence n 1
      else s)
  else .next s

/-- A write of DOUT_STATn.DCLR by the owner (spec/06, R186; spec/00, R482). -/
def State.doutDclr (s : State) (m : Master) (n : Nat) : State :=
  if ownerOk (s.fld (DOUT_CFG_OWNER n)) m then s.put (DOUT_STAT_DSTATE n) 0 else s.raiseBit DOUT_IRQ_CFG_VIOL

def execDoutDclr (m : Master) (n : Fin 16) (s : State) : Out :=
  .next (s.access m (DOUT_CFG n) none fun t => t.doutDclr m n)

end Sys2Proof.Machine
end

