-- ==== Sys2Proof/Machine/Mbx.lean ====
section
/-!
DEFINITION. The commands of the mailboxes and locks (spec/12).
-/

namespace Sys2Proof.Machine

/-- The endpoint a master accesses the block as (spec/12, R308). -/
def State.epOf (s : State) (m : Master) : Nat := s.coreHome m.num

/-! Mailboxes (spec/12, R309–R316). -/

/-- A write of a mailbox register by an endpoint of the mailbox, or the violation of R309. -/
def State.mbxBy (s : State) (m : Master) (mb : Nat) (f : State → Nat → State) : State :=
  match s.mbxSide? mb (s.epOf m) with
  | some k => f s k
  | none => s.mbxViol (s.epOf m)

/-- A write of TXQ: the low half is held, the other forms post (R311, R314). -/
def State.txqWrite (s : State) (m : Master) (mb : Nat) (a : Access) (v : BitVec 64) : State :=
  match s.mbxSide? mb (s.epOf m) with
  | none => s.splitRefuse m (MBX_TXQ mb) a v fun t => t.mbxViol (t.epOf m)
  | some k =>
    let r := s.splitWrite m (MBX_TXQ mb) a 0 v
    match r.2 with
    | some w => (r.1.mbxPost mb k w).1.gateWords
    | none => r.1

def execMbxTxqPost (m : Master) (mb : Fin 16) (a : Access) (v : BitVec 64) (s : State) : Out :=
  .next (s.access m (MBX_TXQ mb) none fun t => t.txqWrite m mb a v)

/-- A read of RXQ: all of it, or its low half, takes a word (R312, R314). -/
def State.rxqRead (s : State) (m : Master) (mb : Nat) (a : Access) : State :=
  match s.mbxSide? mb (s.epOf m) with
  | none => s.answer 0
  | some k =>
    let r := s.mbxPop mb k
    match a with
    | .hi32 => s.splitRead m (MBX_RXQ mb) a r.2
    | _ => r.1.splitRead m (MBX_RXQ mb) a r.2

def execMbxRxqRead (m : Master) (mb : Fin 16) (a : Access) (s : State) : Out :=
  .next (s.access m (MBX_RXQ mb) none fun t => t.rxqRead m mb a)

/-- ACK by side `k`: with no read word it is a violation (R313). -/
def State.mbxAckBy (s : State) (e mb k : Nat) : State :=
  let r := s.mbxAckWord mb k
  if r.2 then r.1 else s.mbxViol e

/-- RING sets the peer's BELL (R316). -/
def State.mbxRing (s : State) (mb k : Nat) : State :=
  s.setSide mb (1 - k) { s.side mb (1 - k) with bell := true }

/-- A write of MBXm_CMD: ACK comes first (R315). -/
def State.mbxCommand (s : State) (m : Master) (mb : Nat) (ring ack : Bool) : State :=
  s.mbxBy m mb fun t k =>
    let t := if ack then t.mbxAckBy (t.epOf m) mb k else t
    if ring then t.mbxRing mb k else t

def execMbxAck (m : Master) (mb : Fin 16) (s : State) : Out :=
  .next (s.access m (MBX_CMD mb) none fun t => t.mbxCommand m mb false true)
def execMbxRing (m : Master) (mb : Fin 16) (s : State) : Out :=
  .next (s.access m (MBX_CMD mb) none fun t => t.mbxCommand m mb true false)

/-- A write of MBXm_DB: EN is taken, BELL and DONE are cleared where 1 is written (R316). -/
def State.mbxDbWrite (s : State) (m : Master) (mb : Nat) (a : Access) (v : BitVec 64) : State :=
  s.mbxBy m mb fun t k =>
    match a with
    | .hi32 => t
    | _ =>
      let x := t.side mb k
      t.setSide mb k { x with bell := x.bell && !v.getLsbD 2, done := x.done && !v.getLsbD 1, en := MBX_DB_EN mb |>.of v }

/-! Locks (spec/12, R321–R325). -/

/-- A read of LKk takes a free lock, or answers its owner; a read of the high half takes nothing (R321). -/
def State.lockRead (s : State) (m : Master) (k : Nat) (a : Access) : State :=
  let e := s.epOf m
  let l := s.lk k
  if e == 0 then s.busError
  else if a == .hi32 then s.answer 0
  else if l.owner == 0 then (s.setLk k { owner := e, seen := l.seen.filter (· != e) }).answer 0
  else (s.setLk k { l with seen := if l.seen.contains e then l.seen else l.seen ++ [e] }).answer l.owner

def execLockRead (m : Master) (k : Fin 32) (a : Access) (s : State) : Out :=
  .next (s.access m (LK k) none fun t => t.lockRead m k a)

/-- A write of LKk by its owner releases it; the owner's write of the high half alone changes nothing (R322; spec/00, R8; log
entry 95). -/
def State.lockWrite (s : State) (m : Master) (k : Nat) (low : Bool) : State :=
  let e := s.epOf m
  if e != 0 && (s.lk k).owner == e then (if low then s.lockRelease k else s) else s.mbxViol e

def execLockRelease (m : Master) (k : Fin 32) (s : State) : Out :=
  .next (s.access m (LK k) none fun t => t.lockWrite m k true)

/-- LKREL and LKIEN of an endpoint (R325). -/
def State.lockRel (s : State) (e : Nat) : Nat := tget 0 s.mbx.rel e
def State.lockIen (s : State) (e : Nat) : Nat := tget 0 s.mbx.ien e

def State.lockRelWrite (s : State) (m : Master) (v : Nat) : State :=
  let e := s.epOf m
  { s with mbx := { s.mbx with rel := tset 0 s.mbx.rel e (s.lockRel e &&& (2 ^ 32 - 1 - v % 2 ^ 32)) } }

def State.lockIenWrite (s : State) (m : Master) (v : Nat) : State :=
  { s with mbx := { s.mbx with ien := tset 0 s.mbx.ien (s.epOf m) (v % 2 ^ 32) } }

end Sys2Proof.Machine
end

