-- ==== Sys2Proof/Machine/Fcu.lean ====
section
/-!
DEFINITION. The commands of the fault collector (spec/17, R434–R445).
-/

namespace Sys2Proof.Machine

/-! Sources (spec/17, R434, R435, R439). -/

/-- The wires of a source read active or inactive, so that they no longer read equal; the wires of application sources are
driven by the force logic, and while FCU_PFRC forces a pair equal its source keeps its last valid reading (R435, R437). While
the link is down a P-die source goes to the P-die's own record (R436). -/
def State.sourceWire (s : State) (src : Nat) (active : Bool) : State :=
  let rises := active && tget 0 s.fcu.wire src != 1
  let s : State := { s with fcu := { s.fcu with pairEqual := s.fcu.pairEqual.filter (· != src) } }
  let s := if 352 ≤ src then s
    else { s with fcu := { s.fcu with wire := tset 0 s.fcu.wire src (if active then 1 else 0) } }
  if s.fcuCut src then s.when (rises && !sourceReserved src) fun t => t.raiseP src
  else if s.pfrcSource == some src then s
  else if s.fcuReads src then s.fcuSample [src] [] else s.fcuSample [] [src]

/-- A severity nibble that cannot be corrected acts as S3 and raises FS283 (R439). -/
def State.sevBad (s : State) (src : Nat) : State :=
  if sourceReserved src || s.fcu.badSev.contains src then s
  else ({ s with fcu := { s.fcu with badSev := s.fcu.badSev ++ [src] } } : State).raiseL 283

/-- A source's wires change; `bad` says that the storage of its severity nibble cannot be corrected. -/
def execFaultActivation (src : Fin 384) (active bad : Bool) (s : State) : Out :=
  .next ((if bad then s.sevBad src else s).sourceWire src active)

/-- A pair reads equal for three samples; of an application source only while FCU_PFRC injects it, and never of a domain that
is off or across a link that is down (R435, R436). -/
def execPairFault (src : Fin 384) (s : State) : Out :=
  .next (if s.fcuClamped src || s.fcuCut src || 352 ≤ src.val && s.pfrcSource != some src.val then s else s.pairFault src)

/-! Acknowledgement and timers (spec/17, R441–R444). -/

def State.fcuAckBy (s : State) (m : Master) (src : Nat) : State :=
  s.access m FCU_ACK none fun t => t.fcuOwned m fun u => u.fcuAck src

def execFcuAck (m : Master) (src : BitVec 9) (s : State) : Out := .next (s.fcuAckBy m src.toNat)

/-- T1 and T2 count: a core is released, and no sleep, reset or bootstrap holds them. -/
def State.timersRun (s : State) : Bool := s.anyReleased && decide (s.pstate ≤ 1) && !s.bsq.running && !s.sys.inReset

/-- The class a pending source acts with. -/
def State.pendClass (s : State) (src : Nat) : Nat :=
  if s.flag (srcBit FCU_PEND_PEND src) then (tget {} s.fcu.acting src).cls else 0

/-- T1 passes for a pending source of class S1. -/
def execS1Late (src : Fin 384) (s : State) : Out :=
  .next (if s.timersRun && s.pendClass src == 1 && s.fld FCU_TMR_T1 != 0 then s.raiseBit FCU_IRQ_S1LATE else s)

/-- T2 passes for a pending source of class S2: it escalates once. Its record keeps the times of the activation (R445). -/
def State.escalate (s : State) (src : Nat) : State :=
  let x := tget {} s.fcu.acting src
  let s : State := { s with fcu := { s.fcu with acting := tset {} s.fcu.acting src { x with cls := 3 } } }
  s.s3React { s.fcuDraft src (recFlags x.pair true x.forced) with ntuExt := x.ntuExt, slow := x.slow }

def execS2Escalate (src : Fin 384) (s : State) : Out :=
  .next (if s.timersRun && s.pendClass src == 2 then s.escalate src else s)

/-- T3 passes after an S3 reaction. -/
def execS3RecoveryStart (s : State) : Out := .next s.recoveryStart

def execS3CountAge (s : State) : Out := .next s.s3Age

/-- The oldest queued record is written. -/
def execFaultRecordWrite (s : State) : Out := .next s.fcuWriteRecord

/-! Writes (spec/17, R437, R439, R440). -/

def execFcuForceWrite (m : Master) (k : Fin 6) (a : Access) (v : BitVec 64) (s : State) : Out :=
  .next (s.access m (FCU_FRC k) none fun t => t.frcWrite m k a v)

def execFcuPfrcWrite (m : Master) (a : Access) (v : BitVec 64) (s : State) : Out :=
  .next (s.access m FCU_PFRC none fun t => t.pfrcWrite m a v)

def execFcuSevWrite (m : Master) (k : Fin 24) (a : Access) (v : BitVec 64) (s : State) : Out :=
  .next (s.access m (FCU_SEV k) none fun t => t.sevWrite m k a v)

def execFcuTmrWrite (m : Master) (a : Access) (v : BitVec 64) (s : State) : Out :=
  .next (s.access m FCU_TMR none fun t => t.tmrWrite m a v)

end Sys2Proof.Machine
end

