-- ==== Sys2Proof/Machine/Gt.lean ====
section
/-!
DEFINITION. The commands of the counters and of the network time unit (spec/07).
-/

namespace Sys2Proof.Machine

/-! Counter commands. -/

/-- A counter write from a master that may not make it is ignored (spec/07, R198). -/
def State.gtOwned (s : State) (m : Master) (g : Nat) (f : State → State) : State :=
  if ownerOk (s.fld (GT_CFG_OWNER g)) m then f s else s.raiseBit GT_IRQ_CFG_VIOL

def execGtStart (m : Master) (g : Fin 32) (s : State) : Out :=
  .next (s.access m (GT_CFG g) none fun t => t.gtOwned m g fun t => t.gtRequest g [1])
def execGtStop (m : Master) (g : Fin 32) (s : State) : Out :=
  .next (s.access m (GT_CFG g) none fun t => t.gtOwned m g fun t => t.gtRequest g [3])
def execGtReset (m : Master) (g : Fin 32) (s : State) : Out :=
  .next (s.access m (GT_CFG g) none fun t => t.gtOwned m g fun t => t.gtRequest g [2])
def execCapnow (m : Master) (g : Fin 32) (s : State) : Out :=
  .next (s.access m (GT_CFG g) none fun t => t.gtOwned m g fun t => t.gtCapNow g)

/-- A group command: the named counters take an action on one edge (spec/07, R193, R198). -/
def State.gtGroup (s : State) (m : Master) (mask act : Nat) : State :=
  s.each ((List.range 32).filter fun g => mask.testBit g) fun g t => t.gtOwned m g fun u => u.gtRequest g [act]

def execGtGstart (m : Master) (mask : BitVec 32) (s : State) : Out :=
  .next (s.access m GT_GSTART none fun t => t.gtGroup m mask.toNat 1)
def execGtGstop (m : Master) (mask : BitVec 32) (s : State) : Out :=
  .next (s.access m GT_GSTART none fun t => t.gtGroup m mask.toNat 3)

/-- The counter's next edge, when it is the tick with its period event (spec/07, R191). -/
def execGtPeriodEvent (g : Fin 32) (s : State) : Out :=
  if s.gtTickDue g && s.gtWraps g then .next (s.gtEdge g) else .next s

/-- The counter's next edge, when it is the tick with its compare A or compare B event (spec/07, R191). -/
def execGtCompareEvent (g : Fin 32) (b : Bool) (s : State) : Out :=
  if s.gtTickDue g && (s.gtTickEvents g).contains (if b then 2 else 1) then .next (s.gtEdge g) else .next s

/-- The LNK actions that wait for a counter take effect on its next CK_PER edge (spec/07, R194); no edge comes in HOLD
and PARK (R209). -/
def execGtLinkAction (g : Fin 32) (s : State) : Out :=
  .next (if (s.ctr g).lnk.isEmpty || 2 ≤ s.pstate then s else s.gtEdge g)

/-- The TACT actions that wait for a counter take effect on its next CK_PER edge (spec/07, R194, R209). -/
def execGtTriggerAction (g : Fin 32) (s : State) : Out :=
  .next (if (s.ctr g).tact.isEmpty || 2 ≤ s.pstate then s else s.gtEdge g)

/-- An edge-select field takes an edge of a direction. -/
def edgeTaken (sel : Nat) (rising : Bool) : Bool := if rising then sel != 1 else sel == 1 || sel == 2

/-- A capture event of a counter (spec/07, R196): a TS_IN edge of a direction, or another counter's period event, taken
on the counter's next CK_PER edge. DI changes capture with the change itself. None is taken in HOLD and PARK (R209). -/
def execGtCapture (g : Fin 32) (rising : Bool) (s : State) : Out :=
  let src := s.fld (GT_CFG_CAPSRC g)
  if 2 ≤ s.pstate then .next s
  else if 0x08 ≤ src && src ≤ 0x0F && edgeTaken (s.fld (GT_CFG_CAPEDGE g)) rising then .next (s.gtCapture g)
  else if (s.ctr g).capDue then .next (s.gtEdge g)
  else .next s

/-- A read of GTn_CAP (spec/07, R197). -/
def State.gtCapRead (s : State) (m : Master) (g : Nat) (a : Access) : State :=
  let s := match a with
    | .hi32 => s
    | _ => if s.flag (GT_STAT_CAPF g) then (s.setReg (GT_CAP g) (s.ctr g).slot).putB (GT_STAT_CAPF g) false else s
  s.splitRead m (GT_CAP g) a (s.reg (GT_CAP g))

def execGtCapRead (m : Master) (g : Fin 32) (a : Access) (s : State) : Out :=
  .next (s.access m (GT_CFG g) none fun t => t.gtCapRead m g a)

def gtRegAddr (g : Nat) : GtReg → Nat
  | .period => GT_PER g
  | .cmpA => GT_CMPA g
  | .cmpB => GT_CMPB g

/-- A value written to the period or a compare (spec/07, R195): in force at once when the counter is stopped or PUPD is
0x1, else at the next period event. -/
def State.gtSetReg (s : State) (g : Nat) (r : GtReg) (v : BitVec 64) : State :=
  let s := s.setReg (gtRegAddr g r) v
  if s.gtRuns g && s.fld (GT_CFG_PUPD g) == 0 then s
  else
    let c := s.ctr g
    (s.setCtr g (match r with
      | .period => { c with per := v, wrapNext := s.gtRuns g && decide (perEff v ≤ (s.gtCount g).toNat) }
      | .cmpA => { c with cmpA := v }
      | .cmpB => { c with cmpB := v })).gtMatch g

/-- A write of the period or a compare (spec/00, R7; spec/07, R195, R198). -/
def State.gtRegWrite (s : State) (m : Master) (g : Nat) (r : GtReg) (a : Access) (v : BitVec 64) : State :=
  let res := s.splitWrite m (gtRegAddr g r) a (s.reg (gtRegAddr g r)) v
  match res.2 with
  | none => res.1
  | some x => res.1.gtOwned m g fun t => t.gtSetReg g r x

def execGtPerCmpWrite (m : Master) (g : Fin 32) (r : GtReg) (a : Access) (v : BitVec 64) (s : State) : Out :=
  .next (s.access m (GT_CFG g) none fun t => t.gtRegWrite m g r a v)

/-- A write of GTn_CNT (spec/07, R192, R198): only while stopped. -/
def State.gtCntWrite (s : State) (m : Master) (g : Nat) (a : Access) (v : BitVec 64) : State :=
  let res := s.splitWrite m (GT_CNT g) a (s.gtCount g) v
  match res.2 with
  | none => res.1
  | some x => res.1.gtOwned m g fun t =>
    if t.gtRuns g then t.raiseBit GT_IRQ_CFG_VIOL else ((t.setReg (GT_CNT g) x).setCtr g { t.ctr g with wrapNext := false }).gtRecompute g

/-! Network time. -/

/-- The next CK_NET edge carries NTU_NS past 2³² (spec/07, R200). -/
def State.ntuWraps (s : State) : Bool :=
  decide (s.ntuExt.toNat / 2 ^ 32 ≠ (s.ntuEdge).ntuExt.toNat / 2 ^ 32)

def execNtuWrap (s : State) : Out := if s.pstate ≤ 1 && s.ntuWraps then .next s.ntuEdge else .next s

/-- A write that only the time keeper may make (spec/07, R204). -/
def State.keeperOnly (s : State) (m : Master) (f : State → State) : State :=
  if ownerOk (s.fld NTU_SYNC_KEEPER) m then f s else s.raiseBit NTU_STAT_WVIOL

/-- A write of NTU_INC (spec/07, R201, R204). -/
def State.ntuIncWrite (s : State) (m : Master) (a : Access) (v : BitVec 64) : State :=
  s.keeperOnly m fun t =>
    let x := accMerge a (t.reg NTU_INC) v
    (t.put NTU_INC_INT (NTU_INC_INT.of x)).put NTU_INC_FRAC (NTU_INC_FRAC.of x)

def execNtuIncWrite (m : Master) (a : Access) (v : BitVec 64) (s : State) : Out :=
  .next (s.access m NTU_EXT none fun t => t.ntuIncWrite m a v)

/-- GO with STEP = 0: a slew by OFFSET replaces what is left of another (spec/07, R202, R204). -/
def State.ntuSlewGo (s : State) (m : Master) (off : Nat) : State :=
  s.keeperOnly m fun t => ((t.put NTU_ADJ_STEP 0).put NTU_ADJ_OFFSET off).setSlew (sgn 32 (off % 2 ^ 32) * 16)

def execNtuSlew (m : Master) (off : BitVec 32) (s : State) : Out :=
  .next (s.access m NTU_EXT none fun t => t.ntuSlewGo m off.toNat)

/-- GO with STEP = 1: a step by OFFSET waits for the next CK_NET edge, which tests and applies it (spec/07, R202,
R204). -/
def State.ntuStepGo (s : State) (m : Master) (off : Nat) : State :=
  s.keeperOnly m fun t =>
    let t := (t.put NTU_ADJ_STEP 1).put NTU_ADJ_OFFSET off
    { t with ntu := { t.ntu with step := some (sgn 32 (off % 2 ^ 32)) } }

/-- A step is written; the CK_NET edge that follows, with the next idle tick, applies or refuses it by the waits of that edge
(spec/07, R202). -/
def execNtuStep (m : Master) (off : BitVec 32) (s : State) : Out :=
  .next (s.access m NTU_ADJ none fun t => t.ntuStepGo m off.toNat)

/-- The CK_NET edge that uses up a slew (spec/07, R202). -/
def execNtuSlewDone (s : State) : Out :=
  if s.pstate ≤ 1 && (s.ntu.slew = 1 || s.ntu.slew = -1) then .next s.ntuEdge else .next s

/-- A write of NTU_SYNC (spec/07, R203, R204). -/
def State.ntuSyncWrite (s : State) (m : Master) (a : Access) (v : BitVec 64) : State :=
  s.keeperOnly m fun t =>
    let x := accMerge a (t.reg NTU_SYNC) v
    ((t.put NTU_SYNC_SYNC (NTU_SYNC_SYNC.of x)).put NTU_SYNC_HOLDMS (NTU_SYNC_HOLDMS.of x)).put NTU_SYNC_TERR
      (NTU_SYNC_TERR.of x)

def execNtuSyncWrite (m : Master) (a : Access) (v : BitVec 64) (s : State) : Out :=
  .next (s.access m NTU_EXT none fun t => t.ntuSyncWrite m a v)

/-- HOLDMS ms pass with no write of NTU_SYNC (spec/07, R203), while the NTU runs (R209). -/
def execNtuHoldoverExpire (s : State) : Out :=
  if s.fld NTU_SYNC_HOLDMS != 0 && s.pstate ≤ 1 && !s.sys.inReset && !s.sys.por then .next (s.clearSync.raiseBit NTU_STAT_SYNCLOST) else .next s

/-- An edge of TS_INk that its EDGE field selects (spec/07, R205). -/
def execNtuCapture (k : Fin 8) (rising : Bool) (s : State) : Out :=
  let e := s.fld NTU_CAPCFG_EDGE / 4 ^ k.val % 4
  if s.pstate ≤ 1 && (e == 3 || e == (if rising then 1 else 2)) then .next (s.ntuCapture k) else .next s

/-- A write of SWCAP (spec/07, R205). -/
def State.swcap (s : State) (mask : Nat) : State :=
  s.each ((List.range 8).filter fun k => mask.testBit k) fun k t => t.ntuCapture k

def execNtuSwcap (m : Master) (mask : BitVec 8) (s : State) : Out :=
  .next (s.access m NTU_CAPCFG none fun t => t.swcap mask.toNat)

/-- A read of NTU_CAPk (spec/07, R205, R197). -/
def State.ntuCapRead (s : State) (m : Master) (k : Nat) (a : Access) : State :=
  let s := match a with
    | .hi32 => s
    | _ =>
      if s.flag (NTU_CAPSTAT_CAPF.bit k) then
        (s.setReg (NTU_CAP k) (tget 0 s.ntu.slot k)).put (NTU_CAPSTAT_CAPF.bit k) 0
      else s
  s.splitRead m (NTU_CAP k) a (s.reg (NTU_CAP k))

def execNtuCapRead (m : Master) (k : Fin 8) (a : Access) (s : State) : Out :=
  .next (s.access m NTU_EXT none fun t => t.ntuCapRead m k a)

/-- A trigger stops and a pulse in progress ends (spec/07, R206). -/
def State.trgStop (s : State) (k : Nat) : State :=
  { (s.putB (NTU_TRG_CFG_ARM k) false) with ntu := { s.ntu with pulse := tset none s.ntu.pulse k none } }

/-- A write of NTU_TRGk_CFG (spec/07, R206). -/
def State.trgWrite (s : State) (m : Master) (k : Nat) (a : Access) (v : BitVec 64) : State :=
  if !ownerOk (s.fld (NTU_TRG_CFG_OWNER k)) m then s
  else
    let x := accMerge a (s.reg (NTU_TRG_CFG k)) v
    let s := ((s.put (NTU_TRG_CFG_OE k) ((NTU_TRG_CFG_OE k).of x)).put (NTU_TRG_CFG_POL k) ((NTU_TRG_CFG_POL k).of x)).put
      (NTU_TRG_CFG_MODE k) ((NTU_TRG_CFG_MODE k).of x)
    if a == .lo32 then s
    else if (NTU_TRG_CFG_ARM k).of x == 0 then s.trgStop k
    else
      let d := (s.fld (NTU_TRG_TIME_TIME k) + 2 ^ 32 - s.ntuNs) % 2 ^ 32
      if d == 0 || decide (2 ^ 31 ≤ d) then (s.putB (NTU_TRG_CFG_ARM k) false).raiseBit NTU_STAT_TTIME_ERR
      else s.raiseBit (NTU_TRG_CFG_ARM k)

/-- The ARM bit of NTU_TRGk_CFG. -/
def armBit : BitVec 64 := 0x8000000000000000#64

def execNtuTriggerArm (m : Master) (k : Fin 4) (v : BitVec 64) (s : State) : Out :=
  .next (s.access m NTU_EXT none fun t => t.trgWrite m k .w64 (v ||| armBit))
def execNtuTriggerDisarm (m : Master) (k : Fin 4) (v : BitVec 64) (s : State) : Out :=
  .next (s.access m NTU_EXT none fun t => t.trgWrite m k .w64 (v &&& ~~~ armBit))

/-- PERIOD and WIDTH as they act (spec/07, R206). -/
def State.trgPeriod (s : State) (k : Nat) : Nat := max 64 (min (2 ^ 31 - 1) (s.fld (NTU_TRG_PW_PERIOD k)))
def State.trgWidth (s : State) (k : Nat) : Nat := max 8 (min (s.trgPeriod k - 8) (s.fld (NTU_TRG_PW_WIDTH k)))

/-- The leading edge of a trigger (spec/07, R206); counters that name it take their TACT on the next CK_PER edge
(R194). -/
def execNtuTriggerLead (k : Fin 4) (s : State) : Out :=
  let t0 := s.fld (NTU_TRG_TIME_TIME k)
  let mode := s.fld (NTU_TRG_CFG_MODE k)
  if s.flag (NTU_TRG_CFG_ARM k) && mode != 0 && (tget none s.ntu.pulse k).isNone && s.reached t0 && s.pstate ≤ 1 then
    let s : State :=
      { s with ntu := { s.ntu with pulse := tset none s.ntu.pulse k (some ((t0 + s.trgWidth k) % 2 ^ 32)) } }
    let s := if mode == 2 then s.put (NTU_TRG_TIME_TIME k) ((t0 + s.trgPeriod k) % 2 ^ 32) else s
    .next (s.each (List.range 32) fun g t =>
      if t.fld (GT_ACT_TACT g) != 0 && t.fld (GT_ACT_TSEL g) == k then
        t.setCtr g { t.ctr g with tact := (t.ctr g).tact ++ [t.fld (GT_ACT_TACT g)] }
      else t)
  else .next s

/-- The trailing edge of a trigger (spec/07, R206). -/
def execNtuTriggerTrail (k : Fin 4) (s : State) : Out :=
  match tget none s.ntu.pulse k with
  | none => .next s
  | some e =>
    if s.reached e then
      let t : State := { s with ntu := { s.ntu with pulse := tset none s.ntu.pulse k none } }
      .next (if s.fld (NTU_TRG_CFG_MODE k) == 2 then t else t.putB (NTU_TRG_CFG_ARM k) false)
    else .next s

end Sys2Proof.Machine
end

