-- ==== Sys2Proof/Machine/Hsw.lean ====
section
/-!
DEFINITION. The commands of the high-side switches: feeds, the wire model, trips, retry, the governor, the start
queues, reverse current and over-voltage (spec/02; spec/15, R386, R402).
-/

namespace Sys2Proof.Machine

/-- VBAT is the higher of the two feeds: the bank feeds are good while either group is (spec/04, R117). -/
def State.bankFeedOk (s : State) : State :=
  let ok := s.flag HSW_GOVSTAT_FEEDA_OK || s.flag HSW_GOVSTAT_FEEDB_OK
  s.each [0, 1, 2, 3] fun b t => t.putB (VLV_BANK_FEED_OK b) ok

def feedFld : Feed → Fld
  | .a => HSW_GOVSTAT_FEEDA_OK
  | .b => HSW_GOVSTAT_FEEDB_OK

/-- The channels of a feed group that lead a pair or stand alone. -/
def State.feedChans (s : State) (f : Feed) : List Nat := s.hswLeads.filter fun n => hswFeed n == f

/-- A feed group falls below 6.0 V (spec/02, R57); starts of the bootstrap's schedule stay in the queue (spec/13, R356). -/
def execFeedUndervoltage (f : Feed) (s : State) : Out :=
  let s := (s.putB (feedFld f) false).bankFeedOk
  let s := s.setStartQueue f ((s.startQueue f).filter s.hsw.bootInrush.contains)
  let s := s.each (s.feedChans f) fun n t => t.hswEval n
  .next (s.raiseP (match f with | .a => 64 | .b => 65))

/-- Turn-ons that were held start under the rules of the inrush schedule (spec/02, R57, R84; spec/15, R386): a channel that is
committed on needs no item of the bootstrap's schedule any more and waits for its turn alone. -/
def State.queueStarts (s : State) (ns : List Nat) : State :=
  s.each ns fun n t =>
    if t.flag (HSW_STAT_STATIC n) && !t.flag (HSW_STAT_OUT n) && !t.hswHeldOff n then
      { t with hsw := { t.hsw with bootInrush := t.hsw.bootInrush.filter (· != n) } }.hswEnqueue n
    else t

/-- A feed has stayed at 6.0 V or above for 1 ms (spec/02, R57). -/
def execFeedRestore (f : Feed) (s : State) : Out :=
  let s := (s.putB (feedFld f) true).bankFeedOk
  .next (s.queueStarts (s.feedChans f))

/-- What the senses of a channel, or of both members of a pair, give of it (spec/02, R63): the pair's total current and loss,
and the hotter junction. The mean square of the total follows from both root-mean-square currents, taken in proportion to
each other; a total beyond its field stays at the field's largest value (DESIGN CHOICE, log entry 113). -/
def State.hswSensed (s : State) (sense : List HswSense) (n : Nat) : HswSense :=
  let x := sense.getD n ⟨0, 0, 0, 0⟩
  let y := sense.getD (n + 1) ⟨0, 0, 0, 0⟩
  let top := fun (k : Nat) => BitVec.ofNat 16 (min 65535 k)
  if s.hswPaired n then
    ⟨x.ms + y.ms + 2 * x.irms.toNat * y.irms.toNat, top (x.irms.toNat + y.irms.toNat), top (x.ploss.toNat + y.ploss.toNat),
      if x.tj.slt y.tj then y.tj else x.tj⟩
  else x

/-- The values software wrote come into force, and the switches follow them (spec/02, R64). -/
def State.hswConfigActs (s : State) : State :=
  if s.hsw.oldCfg.isEmpty then s else ({ s with hsw := { s.hsw with oldCfg := [] } } : State).hswEvalAll

/-- The wire model steps (spec/02, R63–R70, R74, R78): the values software wrote come into force; every P_i first, then every
H_i, T_eff and T_i; then the latches and the clean seconds of all channels are judged. The manual gives SUMP 16 bits in mW/m
and no rounding: the model rounds down, and drops what exceeds the field (DESIGN CHOICE, log entry 85). -/
def execWireModelStep (tdie : BitVec 16) (sense : List HswSense) (s : State) : Out :=
  let td : Rat := (sgn 16 tdie.toNat : Rat) / 64
  let dt := if s.pstate == 3 then 100 else 1
  let s := s.hswConfigActs
  let at_ := s.hswSensed sense
  let s0 := s
  let p := fun n => s0.wireP n (at_ n).ms
  let s := s.each s.hswLeads fun n t =>
    let x := at_ n
    ((t.put (HSW_CUR_IRMS n) x.irms.toNat).put (HSW_CUR_PLOSS n) x.ploss.toNat).put (HSW_TEMP_TJ n) x.tj.toNat
  let s := s.each (List.range 16) fun b t =>
    let ms := t.hswLeads.filter fun n => t.flag (HSW_WIRE_BEN n) && t.fld (HSW_WIRE_BUNDLE n) == b
    t.put (HSW_BUNDLE_SUMP b) (((ms.map p).sum * 1000).floor.toNat % 65536)
  let s := { s with pdi := { s.pdi with tdie := td } }
  let s := s.each s0.wireSteppers fun n t =>
    t.wireStep n dt (p n) ((s0.bundleMates n).map p).sum
      (t.ambient (t.fld (HSW_WIRE_AMBSRC n)) (t.fld (HSW_WIRE_AMBFIX n)) td)
  .next (s.each s.hswLeads fun n t => (t.latchRelease n).noteClean n)

/-- A conducting channel trips. -/
def State.tripIf (s : State) (n cause : Nat) (ok : Bool) : State :=
  if s.flag (HSW_STAT_OUT (s.hswLead n)) && ok then s.hswTrip n cause else s

/-- The thresholds of a pair are doubled, and see the sum of both currents (spec/02, R63, R71). -/
def State.pairTimes (s : State) (n : Nat) : Nat := if s.hswPaired (s.hswLead n) then 2 else 1

/-- The load of a channel, or of both members of a pair, would draw more than I_LIM and has been limited past its
shutdown time (spec/02, R71). -/
def execScTrip (x : HswLoad) (s : State) : Out :=
  .next (s.tripIf x.n 1 (decide (s.pairTimes x.n * iLim x.n < x.load.toNat) && decide (scTime x.n < x.time.toNat)))

/-- The current in mA of a channel, or of both members of a pair, is above the OC threshold that OC_SEL gives, and the
comparator is not blanked (spec/02, R71, R72). -/
def execOcTrip (x : HswLoad) (s : State) : Out :=
  let l := s.hswLead x.n
  let limit := s.pairTimes x.n * ocThreshold x.n (s.cfld (HSW_PROT_OC_SEL l))
  .next (s.tripIf x.n 2 (decide (limit < x.load.toNat) && !(s.hsc l).blank))

/-- The OC blanking time after a turn-on ends (spec/02, R72). -/
def execOcBlankEnd (n : Fin 64) (s : State) : Out := .next (s.setHsc n { s.hsc n with blank := false })

/-- A conducting channel's junction is at 170 °C or above (spec/02, R73). -/
def execOtTrip (n : Fin 64) (s : State) : Out := .next (s.tripIf n 4 true)

/-- A retry delay ends (spec/02, R75, R76, R85). R75 does not say whether a delay that ends while the feed is lost (R57) counts
as an attempt: the model counts it (DESIGN CHOICE, log entry 113). -/
def execRetryAttempt (n : Fin 64) (s : State) : Out :=
  if s.flag (HSW_STAT_RWAIT n) && !s.flag (HSW_STAT_LATCH n) && !s.s4 then
    let s := (s.putB (HSW_STAT_RWAIT n) false).endPulse .hsw n
    if s.flag (HSW_STAT_STATIC n) then
      .next (((s.incSat (HSW_STAT_RETRY_CNT n)).setHsc n { s.hsc n with tripped := false }).hswEval n)
    else .next s
  else .next s

/-- The clean second of a channel, 125,000,000 CK_PER cycles, has passed since it last counted from its start (spec/02, R78). -/
def State.cleanSecond (s : State) (n : Nat) : Bool :=
  match (s.hsc n).cleanFrom with
  | none => false
  | some t => decide (t + 125000000 ≤ s.now)

/-- A channel, or its pair, has been in service for a clean second (spec/02, R63, R78). -/
def execRetryCountClear (n : Fin 64) (s : State) : Out :=
  let l := s.hswLead n
  if s.hswInService l && s.hswCool l && s.cleanSecond l then .next (s.put (HSW_STAT_RETRY_CNT l) 0) else .next s

/-- A write of RCLR (spec/02, R78; spec/00, R482). -/
def State.rclr (s : State) (m : Master) (n : Nat) : State :=
  if ownerOk (s.fld (HSW_CFG_OWNER n)) m then (s.put (HSW_STAT_RETRY_CNT n) 0).putB (HSW_STAT_EXHAUST n) false
  else s.raiseBit HSW_IRQ_CFG_VIOL

def execRclr (m : Master) (n : Fin 64) (s : State) : Out :=
  .next (s.access m (HSW_CFG n) none fun t => t.rclr m n)

/-- A write of TCLR (spec/02, HSW_CMDn). -/
def execTclr (n : Fin 64) (s : State) : Out := .next (s.put (HSW_STAT_TRIPS n) 0)

/-- An HSW_AMBk has not been written for 10 s in RUN or DOZE (spec/02, R68). -/
def execAmbStale (k : Fin 4) (s : State) : Out :=
  if s.pstate ≤ 1 && !s.flag (HSW_AMB_STALE k) then
    .next ((s.raiseBit (HSW_AMB_STALE k)).raiseBit HSW_IRQ_AMB_STALE)
  else .next s

/-- P_MEAS of the last 1 ms is complete (spec/02, R80–R83). The rows of S3 and S4 govern those of HOLD and
PARK, so it sheds there too (R86; spec/19, R481). -/
def execGovernorMeasure (pmeas : BitVec 16) (ia ib : BitVec 8) (s : State) : Out :=
  let s := ((s.put HSW_GOVSTAT_PMEAS pmeas.toNat).put HSW_GOVSTAT_IFEEDA ia.toNat).put HSW_GOVSTAT_IFEEDB ib.toNat
  let s := { s with hsw := { s.hsw with recentPrev := s.hsw.recent, recent := [] } }
  if s.govMeas ≤ s.govBudget || !(s.s3 || s.s4) then .next (s.putB HSW_GOVSTAT_SHEDDING false)
  else .next s.shedOne

/-- The inrush limit of a feed group: above 180 A acts as 180 A (spec/02, R84). -/
def State.inrushLimit (s : State) : Feed → Nat
  | .a => min 180 (s.fld HSW_INRLIM_LIMA)
  | .b => min 180 (s.fld HSW_INRLIM_LIMB)

/-- The bootstrap's handle, edited to hold an ON item for each channel of a list, is committed as an immediate transaction;
its items skip check 3 and pass every other check (spec/13, R356). A transaction that passes applies at once, but stays in
VALIDATING while none can arrive at the P-die (spec/15, R393). -/
def State.bootCommit (s : State) (h : Nat) (ns : List Nat) : State :=
  let s := s.each ns.zipIdx fun ni t => t.put (TXN_ITEM_ITEM h ni.2) ((1 * 256 + ni.1) * 2 ^ 48 + 2 ^ 44)
  let s := ((s.setReg (TXN_CTL h) (BitVec.ofNat 64 ns.length)).put (TXN_STAT_STATE h) txStaging).commitHandle h true
  if s.txState h != txRefused && s.flag PDI_STAT_LINK_UP && !s.flag SYS_CLKSTAT_PLOC then (s.armHandle h).commitEdge [h]
  else s

/-- A channel of the inrush schedule is the head of its queue again. -/
def State.inrushBack (s : State) (n : Nat) : State :=
  let s := { s with hsw := { s.hsw with bootInrush := n :: s.hsw.bootInrush } }
  s.setStartQueue (hswFeed n) (n :: s.startQueue (hswFeed n))

/-- The channels of one step of the inrush schedule go through the bootstrap's one handle (spec/13, R356): the heads of both
feed groups are two items of one transaction; where it is refused each is tried alone, the second at a later step if the
first is committed. A channel refused alone is counted and stays off. The manual does not say how one handle serves two
heads of one step (DESIGN CHOICE, log entry 98). -/
def State.bootTurnOn (s : State) (ns : List Nat) : State :=
  let s := { s with hsw := { s.hsw with bootInrush := s.hsw.bootInrush.filter (!ns.contains ·) } }
  match s.bsq.handle with
  | none => s
  | some h =>
    if ns.isEmpty then s
    else
      let s := s.bootCommit h ns
      if s.txState h != txRefused then s
      else
        match ns with
        | [n, m] =>
          let s := s.bootCommit h [n]
          if s.txState h != txRefused then s.inrushBack m
          else
            let s := (s.incSat BSQ_STAT_INRFAIL).bootCommit h [m]
            s.when (s.txState h == txRefused) fun t => t.incSat BSQ_STAT_INRFAIL
        | _ => s.incSat BSQ_STAT_INRFAIL

/-- The channel is started at the head of its queue: an item of the bootstrap's schedule, or one committed on that
nothing holds off (spec/02, R57, R58, R84). -/
def State.startsNow (s : State) (n : Nat) : Bool :=
  s.hsw.bootInrush.contains n || (s.flag (HSW_STAT_STATIC n) && !s.hswHeldOff n)

/-- The bootstrap's handle still has a transaction on its way or in its 100 µs window (spec/01, R26, R47). -/
def State.bootHandleBusy (s : State) : Bool :=
  s.bsq.handle.any fun h => s.txState h == txValidating || s.txState h == txArmed || s.txState h == txApplied

/-- The head of one feed group's queue that starts at a 100 µs step (spec/02, R84), after the inrush times have run on: a head
that is no longer to start leaves the queue, and an item of the bootstrap's schedule waits for a later step while the
bootstrap's one handle is not free for it (DESIGN CHOICE, log entry 98). -/
def State.inrushHead (s : State) (f : Feed) : State × Option Nat :=
  let chans := s.feedChans f
  let s := s.each chans fun n t =>
    if (t.hsc n).inrLeft != 0 then t.setHsc n { t.hsc n with inrLeft := (t.hsc n).inrLeft - 1 } else t
  match (s.startQueue f).filter s.startsNow with
  | [] => (s.setStartQueue f [], none)
  | n :: rest =>
    let busy := chans.filter fun m => m != n && (s.hsc m).inrLeft != 0
    let sum := s.cfld (HSW_INR_INR_PEAK n) + (busy.map fun m => s.cfld (HSW_INR_INR_PEAK m)).sum
    if (sum ≤ s.inrushLimit f || busy.isEmpty) && !(s.hsw.bootInrush.contains n && s.bootHandleBusy) then
      (s.setStartQueue f rest, some n)
    else (s.setStartQueue f (n :: rest), none)

/-- One 100 µs step of both queues (spec/02, R84): the heads start, and a channel that is refused has no inrush time. R84 does
not say whether a channel that an ON item, a retry or an input turned on is within its INR_TIME: the model gives the time to
channels that the queue started alone (DESIGN CHOICE, log entry 113). -/
def State.inrushStep (s : State) : State :=
  let a := s.inrushHead .a
  let b := a.1.inrushHead .b
  let heads := a.2.toList ++ b.2.toList
  let boot := heads.filter b.1.hsw.bootInrush.contains
  let s := (b.1.bootTurnOn boot).each (heads.filter (!boot.contains ·)) fun n t => t.hswEval n
  s.each heads fun n t => t.when (!t.hsw.bootInrush.contains n && t.startsNow n && t.feedOk (hswFeed n)) fun u =>
    u.setHsc n { u.hsc n with inrLeft := 10 * u.cfld (HSW_INR_INR_TIME n) }

/-- A step of the inrush schedule (spec/02, R84). -/
def execInrushStep (s : State) : Out := .next s.inrushStep

/-- A conducting channel carries reverse current past its limit for 5 µs (spec/15, R402). -/
def execReverseCurrentOff (n : Fin 64) (s : State) : Out :=
  let l := s.hswLead n
  if s.flag (HSW_STAT_OUT l) then
    .next (((s.setHsc l { s.hsc l with revOff := true }).hswEval l).raiseP 271)
  else .next s

/-- The output has been below its feed for 1 ms; the channel conducts again under R57 (spec/15, R402). -/
def execReverseCurrentRecover (n : Fin 64) (s : State) : Out :=
  let l := s.hswLead n
  if (s.hsc l).revOff then .next ((s.setHsc l { s.hsc l with revOff := false }).queueStarts [l]) else .next s

/-- VBAT stays above 60 V for 10 µs (spec/15, R386). -/
def execOvervoltageStart (s : State) : Out :=
  .next (((({ s with overVolt := true } : State).raiseBit SYS_SUPPLY_OV).raiseBit SYS_IRQ_OV).raiseP 270)

/-- VBAT has stayed at or below 58 V for 1 ms: the held turn-ons start (spec/15, R386). -/
def execOvervoltageEnd (s : State) : Out :=
  if s.overVolt then
    let s : State := { s with overVolt := false }
    let held := s.hswLeads.filter fun n => (s.hsc n).ovHeld
    let s := s.each held fun n t => t.setHsc n { t.hsc n with ovHeld := false }
    let s := s.queueStarts held
    let s := s.each (List.range 16) fun n t =>
      if (t.dou n).ovHeld then
        let t := t.setDou n { t.dou n with ovHeld := false }
        if t.flag (DOUT_STAT_STATIC n) then t.doutOn n else t
      else t
    .next (s.each [0, 1, 2, 3] fun d t => t.boostService d)
  else .next s

end Sys2Proof.Machine
end

