-- ==== Sys2Proof/Machine/Led.lean ====
section
/-!
DEFINITION. The commands of the lighting block (spec/05).
-/

namespace Sys2Proof.Machine

/-- A fade step takes effect; step 256 ends the fade (spec/05, R146). -/
def execFadeStep (n : Fin 48) (s : State) : Out :=
  match s.fade n with
  | none => .next s
  | some f =>
    let k := s.fld (LED_STAT_FSTEP n) + 1
    let s := (s.put (LED_STAT_FSTEP n) k).put (LED_STAT_LEVEL n) (f.level k)
    if 256 ≤ k then
      let s := s.when (f.target == 0) fun t => t.markOff .led n
      .next ((s.stopFade n).raiseBit (LED_FDONE_FDONE.bit n))
    else .next s

/-! The VLED rail. -/

/-- VMAX in 10 mV, at most 40 V (spec/05, LED_VCFG). -/
def State.vledMax (s : State) : Nat := min 4000 (s.fld LED_VCFG_VMAX)

/-- The ceiling of R141 in 10 mV. -/
def State.vledLimit (s : State) (vbat : Nat) : Nat := min (min s.vledMax 4000) (vbat - 100)

/-- PRE_T in units of 0.25 µs as it acts (spec/05, LED_MCFG). -/
def State.preT (s : State) : Nat := max 2 (min 0x10 (s.fld LED_MCFG_PRE_T))

/-- The length of a line slot in CK_PWR cycles (spec/05, R153). -/
def State.slotCycles (s : State) : Nat :=
  let f := 8 * max 200 (min 2000 (s.fld LED_MCFG_FRATE))
  (2 * 62500000 + f) / (2 * f)

/-- The matrix is in the dead time of a slot (spec/05, R153): a CK_PER cycle is 8 ns. -/
def State.matrixDead (s : State) : Bool := decide (8 * (s.now - s.led.slotAt) < 250 * s.preT)

/-- V_PC in 10 mV: VLED − VFWD + 0.5 V, bounded to 0–VLED (spec/05, R154). -/
def State.preCharge (s : State) : Nat :=
  min (s.fld LED_VSTAT_VLED) (s.fld LED_VSTAT_VLED + 50 - 5 * s.fld LED_MCFG_VFWD)

/-- What drives a line, or a column, of the matrix. -/
inductive MatrixDrive where
  | off | ground | feed | sink (level : Nat) | hold (volts : Nat)
  deriving DecidableEq, Repr

/-- A line's driver (spec/05, R153, R154): in the dead time it pulls its line to ground; then that of the slot's line is
on. -/
def State.lineDrive (s : State) (j : Nat) : MatrixDrive :=
  if s.led.columns.isEmpty then .off
  else if s.matrixDead then .ground
  else if s.fld LED_MSTAT_LINE == j then .feed
  else .off

/-- A column (spec/05, R153, R154): pre-charged in the dead time, then it sinks the level of its point. -/
def State.columnDrive (s : State) (c : Nat) : MatrixDrive :=
  if s.led.columns.isEmpty then .off
  else if s.matrixDead then .hold s.led.preVolt
  else .sink (s.led.columns.getD c 0)

/-- The level that a sink carries: a matrix column's is that of the running slot, after its dead time (spec/05, R138,
R153). -/
def State.sinkLevel (s : State) (n : Nat) : Nat :=
  if s.matrixOn && n < 24 then s.led.columns.getD n 0 else s.fld (LED_STAT_LEVEL n)

/-- What is left of a sink's current under foldback, in 1/1280: all up to 150 °C, none from 170 °C on (spec/05, R148). The
junction stands at 25 °C until SINK_FOLDBACK gives its temperature (DESIGN CHOICE, log entry 1). -/
def State.foldLeft (s : State) (n : Nat) : Nat := (max 0 (min 1280 (170 * 64 - tget (25 * 64) s.led.tj n))).toNat

/-- The current of a sink in µA (spec/05, R138, R148, R153). -/
def State.sinkCurrent (s : State) (n : Nat) : Rat :=
  (150000 * s.sinkLevel n * s.fld LED_GCFG_GLEVEL * s.foldLeft n : Nat) / ((4095 * 255 * 1280 : Nat) : Rat)

/-- The mean current of a matrix point in µA (spec/05, R153): a CK_PWR cycle is 16 ns. -/
def State.pointMean (s : State) (p : Nat) : Rat :=
  (150000 * s.fld (LED_MPT_LEVEL p) * s.fld LED_GCFG_GLEVEL : Nat) / ((4095 * 255 : Nat) : Rat) *
    ((16 * s.slotCycles : Nat) - (250 * s.preT : Nat)) / (8 * 16 * s.slotCycles : Nat)

/-- The sinks whose voltage steers VLED (spec/05, R142); currents as measured, in 10 µA. A sink that draws the 100 µA of a
string check is tracked too (R151; R165: 'Test currents tracked'). -/
def State.vledSinks (s : State) : List Nat :=
  (List.range 48).filter fun n =>
    s.flag (LED_CFG_TRACK n) &&
    (decide (100 ≤ s.fld (LED_STAT_IMEAS n)) || s.pdi.tests.any fun t => s.testOn .led n t && s.fld (tslotTest .led t.slot) == 1) &&
    s.fld (LED_DIAG_DSTATE n) != 2 && s.fld (LED_DIAG_DSTATE n) != 3

/-- The step of R142 in 10 mV, from the present VLED, given h_min in 10 mV. -/
def State.vledNext (s : State) (v : Nat) (hmin : Option Nat) : Nat :=
  let head := max 0x28 (min 0x78 (s.fld LED_VCFG_VHEAD))
  match hmin with
  | none => v
  | some h =>
    if h + 20 < head then v + 20
    else if h ≤ head then v + 5
    else if head + 10 < h then v - 5
    else v

/-- The outputs are in PARK, and neither the basting hold nor the limp map governs, whose rows stand below that of PARK
(spec/05, R165; spec/14, R380). -/
def State.ledParked (s : State) : Bool := s.pstate == 3 && !s.flag PDI_STAT_LIMP && !s.flag PDI_STAT_HOLD

/-- The VLED rail steps every 100 µs (spec/05, R141, R142), in MODE 0x0 and 0x1 not below 2.0 V (spec/19, R469). Operands:
VBAT, VLED where the buck does not make it, the mean sink current in mA, and each sink's voltage in 10 mV and current in
10 µA. A rail that stands at 0 V starts at VINIT. -/
def execVledTrackStep (vbat vled itot : BitVec 16) (vsink imeas : List (BitVec 16)) (s : State) : Out :=
  let s := s.each (List.range 48) fun n t =>
    (t.put (LED_DIAG_VSINK n) (vsink.getD n 0).toNat).put (LED_STAT_IMEAS n) (imeas.getD n 0).toNat
  let s := s.put LED_VSTAT_ITOT itot.toNat
  let mode := s.fld LED_VCFG_MODE
  if s.ledParked then .next ((s.put LED_VSTAT_VLED 0).putB LED_VSTAT_CEIL false)
  else if 2 ≤ mode || s.led.buckOff then .next ((s.put LED_VSTAT_VLED vled.toNat).putB LED_VSTAT_CEIL false)
  else
    let v := s.fld LED_VSTAT_VLED
    let want := max 200 (
      if mode == 1 || v == 0 then s.fld LED_VCFG_VINIT
      else s.vledNext v (leastOf (s.vledSinks.map fun n => (vsink.getD n 0).toNat)))
    let limit := s.vledLimit vbat.toNat
    .next ((s.put LED_VSTAT_VLED (min want limit)).putB LED_VSTAT_CEIL (decide (limit < want)))

/-- A VLED fault (spec/05, R143). -/
def State.vledFault (s : State) (f : Fld) : State := ((s.raiseBit f).raiseBit LED_IRQ_VLED_FAULT).raiseP 160

/-- VLED stays above VMAX + 2.0 V for 100 µs (spec/05, R143). -/
def execVledOvervoltage (vled : BitVec 16) (s : State) : Out :=
  let s := s.put LED_VSTAT_VLED vled.toNat
  if s.vledMax + 200 < vled.toNat then
    .next (({ s with led := { s.led with buckOff := true } } : State).vledFault LED_VSTAT_OV)
  else .next s

/-- VLED falls to VMAX after an over-voltage (spec/05, R143). -/
def execVledOvRecover (vled : BitVec 16) (s : State) : Out :=
  let s := s.put LED_VSTAT_VLED vled.toNat
  if vled.toNat ≤ s.vledMax then .next { s with led := { s.led with buckOff := false } } else .next s

/-- VLED stays below 2.0 V for 1 ms while a sink conducts (spec/05, R143). -/
def execVledUndervoltage (vled : BitVec 16) (s : State) : Out :=
  let s := s.put LED_VSTAT_VLED vled.toNat
  if vled.toNat < 200 && (List.range 48).any (fun n => s.sinkCurrent n != 0) then .next (s.vledFault LED_VSTAT_UV)
  else .next s

/-- The buck current stays at its limit for 1 ms (spec/05, R143). -/
def execVledOvercurrent (s : State) : Out := .next (s.vledFault LED_VSTAT_OC)

/-! Sinks. -/

/-- A sink's junction in 1/64 °C: above 150 °C its current folds back (spec/05, R148). -/
def execSinkFoldback (n : Fin 48) (tj : BitVec 16) (s : State) : Out :=
  let t := sgn 16 tj.toNat
  let s : State := { s with led := { s.led with tj := tset (25 * 64) s.led.tj n t } }
  .next (s.putB (LED_STAT_FOLD n) (decide (150 * 64 < t)))

/-- A piece of evidence while on (spec/05, R149): none below 1 mA of target, DROPOUT only with CEIL = 1. -/
def execSinkEvidence (n : Fin 48) (k : SinkKind) (s : State) : Out :=
  let target := 150000 * s.fld (LED_STAT_TARGET n) * s.fld LED_GCFG_GLEVEL
  if s.flag (LED_CFG_DIAGEN n) && decide (1000 * 4095 * 255 ≤ target) then
    match k with
    | .good => .next (s.sinkEvidence n 1)
    | .stringOpen => .next (s.sinkEvidence n 2)
    | .stringShort => .next (s.sinkEvidence n 3)
    | .dropout => .next (if s.flag LED_VSTAT_CEIL then s.sinkEvidence n 4 else s)
  else .next s

/-- A write of LED_DIAGn.DCLR by the owner (spec/05, R149; spec/00, R482). -/
def State.ledDclr (s : State) (m : Master) (n : Nat) : State :=
  if ownerOk (s.fld (LED_CFG_OWNER n)) m then
    ((s.put (LED_DIAG_DSTATE n) 0).put (LED_DIAG_EVKIND n) 0).put (LED_DIAG_EVID n) 0
  else s.raiseBit LED_IRQ_CFG_VIOL

def execLedDclr (m : Master) (n : Fin 48) (s : State) : Out :=
  .next (s.access m (LED_STAT n) none fun t => t.ledDclr m n)

/-! Matrix. -/

/-- Evidence of the slot that ends (spec/05, R157): `low` lists the columns whose current was below 50 % with a sink
voltage below 0.15 V. A slot that gives no evidence ends the run of slots of its point. -/
def State.pointEvidence (s : State) (line : Nat) (low : List (Fin 24)) : State :=
  let pts := (List.range 24).map fun c => (c, 24 * line + c)
  s.each pts fun cp t =>
    if 28 ≤ s.led.columns.getD cp.1 0 && low.any (fun x => x.val == cp.1) then
      if t.led.lowPoints.contains cp.2 then
        (t.raiseBit ((LED_MOPEN_OPEN (cp.2 / 64)).bit (cp.2 % 64))).raiseBit LED_IRQ_DIAG
      else { t with led := { t.led with lowPoints := t.led.lowPoints ++ [cp.2] } }
    else { t with led := { t.led with lowPoints := t.led.lowPoints.filter (· != cp.2) } }

/-- The next line slot starts with its dead time and pre-charge, then sinks the stored levels of its points (spec/05,
R153–R155). -/
def execMatrixSlot (low : List (Fin 24)) (s : State) : Out :=
  if s.matrixOn && !s.flag LED_MSTAT_MSTOP && !s.ledParked then
    let old := s.fld LED_MSTAT_LINE
    let first := s.led.columns.isEmpty
    let s := if first then s else s.pointEvidence old low
    let line := if first then 0 else (old + 1) % 8
    let s := if !first && line == 0 then s.incWrap LED_MSTAT_FRAMES else s
    let s := s.put LED_MSTAT_LINE line
    .next { s with
      led := { s.led with
        slotAt := s.now, preVolt := s.preCharge
        columns := (List.range 24).map fun c => s.fld (LED_MPT_LEVEL (24 * line + c)) } }
  else .next s

/-- A line current is above 4.5 A for 2 µs (spec/05, R156). -/
def execMatrixLineOc (s : State) : Out :=
  if s.matrixOn && !s.led.columns.isEmpty then
    let s := (s.raiseBit LED_MSTAT_MSTOP).raiseBit (LED_MSTAT_LOC.bit (s.fld LED_MSTAT_LINE))
    let s := (s.raiseBit LED_IRQ_MSTOP).raiseP 161
    let s : State := { s with led := { s.led with columns := [] } }
    .next (s.hitItems fun it => it.block == 3 && 0x40 ≤ it.chan)
  else .next s

/-- A write of LED_MCMD.MRST by the matrix owner (spec/05, R156, R157). -/
def State.mrst (s : State) (m : Master) : State :=
  if ownerOk (s.fld LED_MCFG_OWNER) m then
    let s := ((s.putB LED_MSTAT_MSTOP false).put LED_MSTAT_LOC 0).put LED_MSTAT_LINE 0
    let s := s.each (List.range 3) fun k t => t.put (LED_MOPEN_OPEN k) 0
    { s with led := { s.led with columns := [], lowPoints := [] } }
  else s.raiseBit LED_IRQ_CFG_VIOL

def execMrst (m : Master) (s : State) : Out :=
  .next (s.access m LED_GCFG none fun t => t.mrst m)

/-! Stitch frames. -/

/-- A frame buffer is named by an armed item, until its latch pulse or its refusal, whether its chain shifts or not (spec/05,
R161). -/
def State.frameArmed (s : State) (k f : Nat) : Bool :=
  (match (s.chain k).armed with
    | some (_, f', _, _) => f' == f
    | none => false) ||
  s.armedItems.any fun it => it.block == 5 && it.chan == k && it.frame == f

/-- A write to a frame buffer word (spec/05, R161). -/
def State.frameWrite (s : State) (m : Master) (k f w : Nat) (a : Access) (v : BitVec 64) : State :=
  if s.frameArmed k f || !ownerOk (s.fld (LED_SC_CFG_OWNER k)) m then s.raiseBit LED_IRQ_FRAME_VIOL
  else s.setReg (LED_SC_FRM k f w) (accMerge a (s.reg (LED_SC_FRM k f w)) v)

def execFrameWrite (m : Master) (k : Fin 2) (f : Fin 16) (w : Fin 64) (a : Access) (v : BitVec 64) (s : State) : Out :=
  .next (s.access m LED_GCFG none fun t => t.frameWrite m k f w a v)

end Sys2Proof.Machine
end

