-- ==== Sys2Proof/Machine/Can.lean ====
section
/-!
DEFINITION. The commands of the CAN channels (spec/08, R212–R222, R228, R229, R236).
-/

namespace Sys2Proof.Machine

/-- An event on a channel whose controller is powered. -/
def State.netEvent (s : State) (f : State → State) : State := if s.netRuns then f s else s

/-! Modes. -/

/-- A write of MODE (R212). -/
def State.canModeWriteBy (s : State) (m : Master) (n mode : Nat) : State :=
  s.access m (CAN_CTL n) (some ((CAN_CTL_MODE n).into (s.reg (CAN_CTL n)) mode)) fun t =>
    t.canOwned m n fun u => u.canModeWrite n mode

def execCanModeWrite (m : Master) (n : Fin 8) (mode : BitVec 3) (s : State) : Out := .next (s.canModeWriteBy m n mode.toNat)

/-- The requested mode takes effect between frames (R212). -/
def State.canModeApply (s : State) (n : Nat) : State :=
  let mode := canModeOf (s.fld (CAN_CTL_MODE n))
  if (s.cn n).tx.isSome || mode == (s.cn n).mode then s else (s.canSetMode n mode).nslCheck

def execCanModeChange (n : Fin 8) (s : State) : Out := .next (s.netEvent fun t => t.canModeApply n)

/-- ABDT ms pass under a candidate (R215). -/
def execAbdCandidateTimeout (n : Fin 8) (s : State) : Out :=
  .next (s.netEvent fun t => if (t.cn n).mode == canAbd then t.abdNext n else t)

/-! Reception. -/

/-- A frame is received without error (R215, R217, R218, R222). -/
def State.canReceive (s : State) (n : Nat) (f : CanFrame) (stamp vbat : Nat) : State :=
  if !(s.cn n).receives then s
  else
    let s := if (s.cn n).mode == canAbd then s.abdLock n else s
    ((s.canStore n f stamp).canRxGood n).canHandOn n f stamp vbat

def execCanFrameRx (n : Fin 8) (f : CanFrame) (stamp : BitVec 32) (vbat : BitVec 16) (s : State) : Out :=
  .next (s.netEvent fun t => t.canReceive n f stamp.toNat vbat.toNat)

/-- RELEASE of a buffer, 128 being the express buffer (R218, R219). -/
def State.canRelease (s : State) (n k : Nat) : State :=
  if k == 128 then ((s.putB (CAN_EXCTL_FULL n) false).putB (CAN_EXCTL_OVR n) false).putB (CAN_EXCTL_TRUNC n) false
  else if s.canPending n k then s.raiseBit (CAN_IRQ_CFG_VIOL n)
  else ((s.putB (CAN_MB_CTL_FULL n k) false).putB (CAN_MB_CTL_OVR n k) false).putB (CAN_MB_CTL_TRUNC n k) false

def State.canReleaseBy (s : State) (m : Master) (n k : Nat) : State :=
  let a := if k == 128 then CAN_EXCTL n else CAN_MB_CTL n k
  s.access m a (some (s.reg a ||| 0x2000000000000000#64)) fun t => t.canOwned m n fun u => u.canRelease n k

def execCanRelease (m : Master) (n : Fin 8) (k : Fin 129) (s : State) : Out := .next (s.canReleaseBy m n k)

/-! Transmission. -/

def State.canTxreqBy (s : State) (m : Master) (n k : Nat) (e : MemErr) : State :=
  s.access m (CAN_MB_CTL n k) (some ((CAN_MB_CTL_TXREQ n k).into (s.reg (CAN_MB_CTL n k)) 1)) fun t =>
    t.canOwned m n fun u => u.canTxreq n k e

def execCanTxreq (m : Master) (n : Fin 8) (x : CanReq) (s : State) : Out := .next (s.canTxreqBy m n x.buf x.ecc)

def State.canCancelBy (s : State) (m : Master) (n k : Nat) : State :=
  s.access m (CAN_MB_CTL n k) (some ((CAN_MB_CTL_CANCEL n k).into (s.reg (CAN_MB_CTL n k)) 1)) fun t =>
    t.canOwned m n fun u => (u.canCancel n k).nslCheck

def execCanCancel (m : Master) (n : Fin 8) (k : Fin 128) (s : State) : Out := .next (s.canCancelBy m n k)

/-- The start of frame of the request that is picked (R219); `tdc` is the delay that R214 measures in the frame, and `e` what
the ECC of a buffer's words finds. -/
def State.canStart (s : State) (n tdc : Nat) (e : MemErr) : State :=
  if !(s.cn n).canSend then s
  else
    match s.canPick n with
    | none => s
    | some (buf, f) =>
      let e := if buf.isSome then e else .good
      let r := (s.dmaEcc e).canDamage f e
      let s := r.1
      let f := r.2
      let x : CanTx := { buf := buf, stamp := s.ntuNs, frame := f, notice := buf.isNone && !(s.cn n).gwNotes.isEmpty, tdc := tdc }
      (s.setCn n { s.cn n with tx := some x }).send (.canFrame n f)

def execCanTxStart (x : CanStart) (s : State) : Out :=
  .next (s.netEvent fun t => t.canStart x.chan x.tdc.toNat x.ecc)

/-- TEC after a transmission without error (ISO 11898-1): one less. -/
def State.canTxGood (s : State) (n : Nat) : State :=
  (s.put (CAN_STAT_TEC n) (s.fld (CAN_STAT_TEC n) - 1)).canPassive n

/-- A frame is sent with no error through its end (R220, R221; spec/09, R254, R258). -/
def State.canSent (s : State) (n : Nat) : State :=
  let c := s.cn n
  match c.tx with
  | none => s
  | some x =>
    let s := ((s.tdcShow n).setCn n { c with tx := none }).canTxGood n
    let s := match x.buf with
      | some k =>
        let late := x.cancel || c.late.contains k
        (s.put (CAN_MB_CTL_STAMP n k) x.stamp).canEnd n k (if late then istatLate else istatOk)
      | none => s.setCn n ((s.cn n).gwDone x)
    (s.nslFrame n x.frame.id.toNat x.frame.ide x.frame.data true).nslCheck

def execCanTxEnd (n : Fin 8) (s : State) : Out := .next (s.netEvent fun t => t.canSent n)

/-- The attempt loses arbitration (R220, R221). -/
def execCanArbLost (n : Fin 8) (s : State) : Out := .next (s.netEvent fun t => (t.canAttemptEnds n true).nslCheck)

/-- A protocol error (R215, R220–R222): `tec` and `rec` are what ISO 11898-1 adds to the counters for it, `inArb` says
that it came before the end of the arbitration field, `resBit` that a frame of another node has a recessive res bit:
with PEX = 1 that is a protocol exception, which ends reception and is no error (R211; ISO 11898-1), else a form error.
-/
def State.canError (s : State) (n tec rec_ : Nat) (inArb resBit : Bool) : State :=
  let c := s.cn n
  if resBit && s.flag (CAN_CTL_PEX n) then s
  else if c.mode == canAbd then s.abdNext n
  else if !c.counts then s
  else ((s.canAttemptEnds n inArb).canCount n tec rec_).nslCheck

def execCanBusError (n : Fin 8) (tec rec_ : Fin 9) (err : CanErrorAt) (s : State) : Out :=
  .next (s.netEvent fun t => t.canError n tec rec_ err.inArb err.resBit)

/-! Bus-off (R222). -/

/-- BOREC starts the recovery count. -/
def State.borec (s : State) (n : Nat) : State :=
  if (s.cn n).busOff then s.setCn n { s.cn n with recovering := true } else s

def State.borecBy (s : State) (m : Master) (n : Nat) : State :=
  s.access m (CAN_CTL n) (some ((CAN_CTL_BOREC n).into (s.reg (CAN_CTL n)) 1)) fun t => t.canOwned m n fun u => u.borec n

def execBorec (m : Master) (n : Fin 8) (s : State) : Out := .next (s.borecBy m n)

/-- 128 runs of 11 recessive bits have passed. -/
def State.busoffEnd (s : State) (n : Nat) : State :=
  let c := s.cn n
  if c.busOff && c.recovering then
    let s := ((s.put (CAN_STAT_TEC n) 0).put (CAN_STAT_REC n) 0).putB (CAN_STAT_EPASS n) false
    (s.setCn n { c with busOff := false, recovering := false }).canShow n
  else s

def execBusoffRecovered (n : Fin 8) (s : State) : Out := .next (s.netEvent fun t => t.busoffEnd n)

/-! Tack window and bus faults (R236). -/

def State.tackEnd (s : State) (n : Nat) : State := (s.setCn n { s.cn n with tack := false }).canShow n

def execTackWindowClose (n : Fin 8) (s : State) : Out := .next (s.netEvent fun t => t.tackEnd n)

def State.canFault (s : State) (n : Nat) : State :=
  ((s.setCn n { s.cn n with fault := true }).canShow n).raiseL (208 + n)

def execCanBusFault (n : Fin 6) (s : State) : Out := .next (s.netEvent fun t => t.canFault n)

def State.canFaultClear (s : State) (n : Nat) : State :=
  let c := s.cn n
  if c.fault then (s.setCn n { c with fault := false, tack := c.mode == canActive || c.tack }).canShow n else s

def execCanBusFaultClear (n : Fin 6) (s : State) : Out := .next (s.netEvent fun t => t.canFaultClear n)

/-! Selective wake (R228–R230). -/

/-- The receiver listens: in PN_SLEEP, HOLD and PARK. -/
def State.swListens (s : State) (n : Nat) : Bool :=
  s.fld (CAN_TRX_SWMODE n) != 0 && (2 ≤ s.pstate || (s.cn n).mode == canPnSleep)

/-- A wake-up frame (R228): with SWDLC = 0 the identifier alone decides. -/
def State.swMatches (s : State) (n : Nat) (f : CanFrame) (atRate : Bool) : Bool :=
  let dlc := s.fld (CAN_TRX_SWDLC n)
  f.fmt == 1 && atRate && (f.id.toNat ^^^ s.fld (CAN_SWID_ID n)) &&& s.fld (CAN_SWID_MASK n) == 0 &&
  f.ide == s.flag (CAN_SWID_IDE n) &&
  (dlc == 0 || (f.dlc.toNat == dlc && leNat f.data &&& s.fld (CAN_SWDATA_DMASK n) != 0))

/-- The channel wakes with a kind: out of PN_SLEEP it takes the mode of PNWAKE with no tack window (R229). -/
def State.swWake (s : State) (n kind : Nat) : State :=
  let s := if s.pstate ≤ 1 && (s.cn n).mode == canPnSleep then
      let s := s.canForce n (if s.flag (CAN_CTL_PNWAKE n) then canListen else canActive)
      ((s.setCn n { s.cn n with tack := false }).canShow n).raiseBit (CAN_IRQ_WAKE n)
    else s
  s.busWake n kind

/-- The frame error counter after a frame, and the wake it may give. -/
def State.swErrored (s : State) (n : Nat) : State :=
  let s := s.incSat (CAN_TRX_FEC n)
  if max 1 (s.fld (CAN_TRX_FECLIM n)) < s.fld (CAN_TRX_FEC n) then s.swWake n 3 else s

def State.swEvent (s : State) (n : Nat) (e : SwEvent) : State :=
  if !s.swListens n then s
  else if s.fld (CAN_TRX_SWMODE n) == 1 then
    if e == .pattern then s.swWake n 1 else s
  else
    match e with
    | .pattern => s
    | .errored => s.swErrored n
    | .frame f atRate =>
      if f.fmt == 2 || f.fmt == 3 then s
      else
        let s := s.put (CAN_TRX_FEC n) (s.fld (CAN_TRX_FEC n) - 1)
        if s.swMatches n f atRate then s.swWake n 2 else s

def execCanSelectiveWake (n : Fin 6) (e : SwEvent) (s : State) : Out := .next (s.swEvent n e)

end Sys2Proof.Machine
end

