-- ==== Sys2Proof/Machine/Lin.lean ====
section
/-!
DEFINITION. The commands of the LIN channels and of the network-sleep unit (spec/08, R224–R227, R231–R237).
-/

namespace Sys2Proof.Machine

/-! Channel state (R237). -/

/-- EN changes from 0 to 1. -/
def State.linEnable (s : State) (n : Nat) : State :=
  if s.flag (LIN_CFG_EN n) then s else (s.raiseBit (LIN_CFG_EN n)).linTackOpen n

/-- EN changes from 1 to 0: the channel is OFF. -/
def State.linDisable (s : State) (n : Nat) : State :=
  ((s.putB (LIN_CFG_EN n) false).put (LIN_STAT_STATE n) linOff).setLn n {}

def State.linEnableBy (s : State) (m : Master) (n : Nat) : State :=
  s.access m (LIN_CFG n) (some ((LIN_CFG_EN n).into (s.reg (LIN_CFG n)) 1)) fun t => t.linOwned m n fun u => u.linEnable n

def execLinEnable (m : Master) (n : Fin 8) (s : State) : Out := .next (s.linEnableBy m n)

def execLinTackClose (n : Fin 8) (s : State) : Out :=
  .next (s.netEvent fun t =>
    if t.linState n == linTack then
      let t := t.linBecomesActive n
      if t.linState n == linSleep then t.nslCheck else t
    else t)

/-- The bus has been dominant for 100 ms. -/
def State.linDominant (s : State) (n : Nat) : State :=
  if s.flag (LIN_CFG_EN n) then (s.raiseL (200 + n)).linTackOpen n else s

def execLinBusDominant (n : Fin 8) (s : State) : Out := .next (s.netEvent fun t => t.linDominant n)

/-! Schedule (R225, R227). -/

/-- SCHGO at a slot: at once, or at the end of the present slot. -/
def State.schgo (s : State) (n start : Nat) : State :=
  if s.linCommander n then
    (s.setLn n { s.ln n with goWait := some start, stopWait := false }).linTryStart n
  else s

def State.schgoBy (s : State) (m : Master) (n start : Nat) : State :=
  s.access m (LIN_CMD n) (some (BitVec.ofNat 64 (2 ^ 61 + start))) fun t =>
    t.linOwned m n fun u => (u.put (LIN_CMD_START n) start).schgo n start

def execSchgo (m : Master) (n : Fin 8) (start : Fin 64) (s : State) : Out := .next (s.schgoBy m n start)

def State.schstop (s : State) (n : Nat) : State :=
  if (s.ln n).running then s.setLn n { s.ln n with stopWait := true, goWait := none } else s.setLn n { s.ln n with goWait := none }

/-- A write of one LINn_CMD bit that keeps START. -/
def State.linCmdBy (s : State) (m : Master) (n bit : Nat) (f : State → State) : State :=
  s.access m (LIN_CMD n) (some (BitVec.ofNat 64 (2 ^ bit + s.fld (LIN_CMD_START n)))) fun t => t.linOwned m n f

def execSchstop (m : Master) (n : Fin 8) (s : State) : Out := .next (s.linCmdBy m n 60 fun t => t.schstop n)

/-- GOSLEEP: in place of the next slot, or at once when no schedule runs; in TACK it waits for ACTIVE. -/
def State.gosleep (s : State) (n : Nat) : State :=
  if !s.linCommander n then s
  else if (s.ln n).running || s.linState n == linTack then s.setLn n { s.ln n with sleepWait := true }
  else if s.linState n == linActive then (s.linSendSleep n).nslCheck
  else s

def execGosleep (m : Master) (n : Fin 8) (s : State) : Out := .next (s.linCmdBy m n 63 fun t => t.gosleep n)

/-- The slot after the present one. -/
def State.linNextSlot (s : State) (n : Nat) : Nat :=
  let k := s.fld (LIN_STAT_SLOT n)
  if s.flag (LIN_SCH_END n k) then 0 else (k + 1) % 64

/-- A slot's time ends (R225, R227, R235). -/
def State.linSlotEnd (s : State) (n : Nat) : State :=
  let c := s.ln n
  if !c.running || s.linState n == linTack then s
  else if c.sleepWait then (s.linSendSleep n).nslCheck
  else
    match c.announce with
    | id :: r => (s.setLn n { c with announce := r }).linSendHeader n id
    | [] =>
      if c.stopWait then s.setLn n { c with running := false, stopWait := false }
      else
        match c.goWait with
        | some k => (s.setLn n { c with goWait := none }).linSlot n k
        | none => s.linSlot n (s.linNextSlot n)

def execLinSlotNext (n : Fin 8) (s : State) : Out := .next (s.netEvent fun t => t.linSlotEnd n)

/-! Headers and responses (R224–R226). -/

/-- A header in error ends the entry's publish request (R226), and the bus is free. -/
def State.linHeaderError (s : State) (n id : Nat) : State :=
  let s := s.setLn n { s.ln n with header := none }
  let ends := s.fld (LIN_FR_DIR n id) == 1 && s.fld (LIN_FR_ISTAT n id) == istatPending
  (s.when ends fun t => t.linReqEnd n id istatAbortedFault).linBusFree n

/-- A header is complete, sent or received: `sync` says that its sync field lies within the limits. -/
def State.linHeaderRx (s : State) (n id stamp : Nat) (sync err : Bool) : State :=
  let st := s.linState n
  if st != linActive && st != linWaking then s
  else if err then s.linHeaderError n id
  else if !sync && !s.linCommander n then (s.raiseBit (LIN_STAT_SYNC_ERR n)).setLn n { s.ln n with header := none }
  else
    let s := if st == linWaking then s.linBecomesActive n else s
    s.linAct n id stamp

def execLinHeader (n : Fin 8) (id : Fin 64) (stamp : BitVec 32) (sync err : Bool) (s : State) : Out :=
  .next (s.netEvent fun t => t.linHeaderRx n id stamp.toNat sync err)

/-- The go-to-sleep frame puts a responder to sleep (R227). -/
def State.linSleepRx (s : State) (n id : Nat) (data : List Byte) : State :=
  if !s.linCommander n && id == 0x3C && data.head? == some 0 then s.linEnterSleep n else s

/-- A published response ends (R226; spec/09, R248). -/
def State.linPublished (s : State) (n : Nat) (h : LinHeader) (err : LinErr) : State :=
  match err with
  | .good =>
    let s := if h.request then s.linReqEnd n h.id istatOk else s
    let s := (s.put (LIN_FR_ERR n h.id) 0).gweIn (.lin (8 + n) h.id h.data h.stamp)
    s.nslFrame (8 + n) h.id false h.data true
  | .bit =>
    let s := if h.request then s.linReqEnd n h.id istatAbortedFault else s
    s.linErr n h.id 3
  | .framing => s.linErr n h.id 4

/-- The data bytes of a received response: its last byte is the checksum. -/
def linBody (data : List Byte) : List Byte := data.dropLast

/-- The checksum of a received response is valid (R223, R225). -/
def State.linSumOk (s : State) (n id : Nat) (data : List Byte) : Bool := data.getLast? == some (s.linSum n id (linBody data))

/-- A subscribed response ends (R226; spec/09, R248). -/
def State.linReceived (s : State) (n : Nat) (h : LinHeader) (data : List Byte) (err : LinErr) : State :=
  match err with
  | .good =>
    if !s.linSumOk n h.id data then s.linErr n h.id 2
    else
    let d := (linBody data).take (s.linLen n h.id)
    let s := ((s.put (LIN_FD_DATA n h.id) (leNat d)).raiseBit (LIN_FR_FULL n h.id)).put (LIN_FR_STAMP n h.id) h.stamp
    let s := (s.put (LIN_FR_ERR n h.id) 0).when (s.flag (LIN_FR_IE n h.id)) fun t => t.raiseBit (LIN_STAT_RXF n)
    (s.gweIn (.lin (8 + n) h.id d h.stamp)).nslFrame (8 + n) h.id false d false
  | .bit => s.linErr n h.id 3
  | .framing => s.linErr n h.id 4

/-- A response is complete; `data` are the bytes received, with their checksum last. -/
def State.linDone (s : State) (n : Nat) (data : List Byte) (err : LinErr) : State :=
  match (s.ln n).header with
  | none => s
  | some h =>
    if !h.acting then s
    else
      let dir := s.fld (LIN_FR_DIR n h.id)
      let s := s.setLn n { s.ln n with header := none }
      let s := if dir == 1 then s.linPublished n h err else if dir == 2 then s.linReceived n h data err else s
      let s := if err == .good && dir != 1 && s.linSumOk n h.id data then s.linSleepRx n h.id (linBody data) else s
      (s.linBusFree n).nslCheck

def execLinResponseDone (n : Fin 8) (data : List Byte) (err : LinErr) (s : State) : Out :=
  .next (s.netEvent fun t => t.linDone n data err)

/-- A response is not complete in time, and the bus is free. -/
def State.linNoresp (s : State) (n : Nat) : State :=
  match (s.ln n).header with
  | some h =>
    let s' := s.setLn n { s.ln n with header := none }
    (s'.when (h.acting && s.fld (LIN_FR_DIR n h.id) == 2) fun t => t.linErr n h.id 1).linBusFree n
  | none => s

def execLinNoresp (n : Fin 8) (s : State) : Out := .next (s.netEvent fun t => t.linNoresp n)

def State.linTxreqBy (s : State) (m : Master) (n i : Nat) : State :=
  s.access m (LIN_FR n i) (some ((LIN_FR_TXREQ n i).into (s.reg (LIN_FR n i)) 1)) fun t =>
    t.linOwned m n fun u => u.linTxreq n i

def execLinTxreq (m : Master) (n : Fin 8) (k : Fin 64) (s : State) : Out := .next (s.linTxreqBy m n k)

/-- A read of LINn_FDi clears FULL. -/
def State.linFdRead (s : State) (n i : Nat) (a : Access) : State :=
  (s.answer (accTake a (s.reg (LIN_FD n i))).toNat).putB (LIN_FR_FULL n i) false

def execLinFdRead (m : Master) (n : Fin 8) (k : Fin 64) (a : Access) (s : State) : Out :=
  .next (s.access m (LIN_FD n k) none fun t => t.linFdRead n k a)

/-! Sleep and wake (R227, R230). -/

/-- WAKE sends a pulse in SLEEP. -/
def State.linWake (s : State) (n : Nat) : State := if s.linState n == linSleep then s.linPulse n else s

def execLinWake (m : Master) (n : Fin 8) (s : State) : Out := .next (s.linCmdBy m n 62 fun t => t.linWake n)

/-- A dominant level of 150 µs or more in SLEEP wakes the channel; in HOLD and PARK the transceiver alone sees it. A
responder it wakes has sent no pulse of its own, so it starts no series of pulses (log entry 78). -/
def State.linWakeRx (s : State) (n : Nat) : State :=
  if 2 ≤ s.pstate then s.busWake (8 + n) 4
  else if s.linState n == linSleep then
    let s := s.raiseBit (LIN_STAT_WAKE_RX n)
    (s.linBecomesActive n).busWake (8 + n) 4
  else s

def execLinWakeRx (n : Fin 8) (s : State) : Out := .next (s.linWakeRx n)

/-- A responder's series of pulses. -/
def State.linRetry (s : State) (n : Nat) : State :=
  if s.linCommander n || s.linState n != linWaking then s
  else if (s.ln n).pulses < 3 then s.linPulse n
  else s.setLn n { s.ln n with pulses := 0 }

def execLinWakeRetry (n : Fin 8) (s : State) : Out := .next (s.netEvent fun t => t.linRetry n)

def execLinIdleSleep (n : Fin 8) (s : State) : Out :=
  .next (s.netEvent fun t =>
    if !t.linCommander n && t.linState n == linActive then (t.linEnterSleep n).nslCheck else t)

/-! Network sleep (R231–R235). -/

/-- A network's stay-awake timer expires. -/
def State.stayAwakeEnd (s : State) (m : Nat) : State :=
  if s.flag (NSL_STAT_AWAKE.bit m) then
    let s := (s.putB (NSL_STAT_AWAKE.bit m) false).ledgerClear m
    (s.setNet m { s.net m with last := none }).nslCheck
  else s

def execStayAwakeExpire (net : Fin 16) (s : State) : Out := .next (s.netEvent fun t => t.stayAwakeEnd net)

/-- LOCAL takes a value: 1 clears the ledgers and is a wake during the agreement, 0 may complete it. -/
def State.setLocal (s : State) (v : Bool) : State :=
  if v then ((s.raiseBit NSL_CFG_LOCAL).each (List.range 16) fun m t => t.ledgerClear m).sleepAbandon
  else if s.flag NSL_CFG_LOCAL then
    let s := s.putB NSL_CFG_LOCAL false
    State.nslCheck { s with nsl := { s.nsl with localSince := s.now } }
  else s

/-- A write to the network-sleep unit by its owner (NSL_CFG.OWNER); another's is ignored. -/
def State.nslOwned (s : State) (m : Master) (f : State → State) : State :=
  if ownerOk (s.fld NSL_CFG_OWNER) m then f s else s

def State.nslLocalBy (s : State) (m : Master) (v : Bool) : State :=
  s.access m NSL_CFG (some (NSL_CFG_LOCAL.into (s.reg NSL_CFG) (if v then 1 else 0))) fun t => t.nslOwned m fun u => u.setLocal v

def execNslLocalWrite (m : Master) (v : Bool) (s : State) : Out := .next (s.nslLocalBy m v)

/-- The entries of a record: eight, the longest held first. -/
def waybillEntries (l : List LedgerEntry) : List Byte :=
  let top := (l.mergeSort fun a b => b.held ≤ a.held).take 8
  let bytes := (top.map fun e => natLe 1 e.node ++ natLe 1 (min 255 e.renew) ++ natLe 4 e.ms).flatten
  bytes ++ List.replicate (48 - bytes.length) 0

/-- The record of a network (R233). -/
def State.waybillRecord (s : State) (m : Nat) : List Byte :=
  natLe 4 s.nv.waybill ++ natLe 1 m ++ natLe 1 (min 255 (s.net m).ovfl) ++ natLe 2 0 ++ natLe 8 s.ntuExt.toNat ++
    waybillEntries (s.net m).ledger

/-- One record into the ring, its oldest overwritten (spec/13, R332). -/
def State.waybillOne (s : State) (m : Nat) : State :=
  let t := s.nvWrite (0x103F0000 + 64 * (s.nv.waybill % 512)) (s.waybillRecord m)
  { t with nv := { t.nv with waybill := (s.nv.waybill + 1) % 2 ^ 32 } }

/-- The records of the networks in GROUP that are awake; a failed write sets WB_NVERR (R233). -/
def State.waybill (s : State) (nvFail : Bool) : State :=
  let ms := (List.range 16).filter fun m => s.inGroup m && s.flag (NSL_STAT_AWAKE.bit m)
  if s.flag NSL_CFG_LOCAL || ms.isEmpty then s
  else if nvFail then (s.raiseBit NSL_STAT_WB_NVERR).raiseL 214
  else s.each ms fun m t => t.waybillOne m

def execWaybillWrite (nvFail : Bool) (s : State) : Out := .next (s.netEvent fun t => t.waybill nvFail)

end Sys2Proof.Machine
end

