-- ==== Sys2Proof/Machine/EcOps.lean ====
section
/-!
DEFINITION. ECDSA and ECDH on P-256 and HKDF-SHA-256, which ZS computes (spec/13, R350; spec/16, R418, R423, R427). The
manual names them by name alone; their definition is the published one (log entry 92).
-/

namespace Sys2Proof.Machine

/-! P-256: y² = x³ − 3x + b modulo p, with a base point of prime order n. -/

def ecP : Nat := 2 ^ 256 - 2 ^ 224 + 2 ^ 192 + 2 ^ 96 - 1
def ecN : Nat := 0xffffffff00000000ffffffffffffffffbce6faada7179e84f3b9cac2fc632551
def ecB : Nat := 0x5ac635d8aa3a93e7b3ebbd55769886bc651d06b0cc53b0f63bce3c3e27d2604b

/-- A point, none being the neutral one. -/
abbrev EcPoint := Option (Nat × Nat)

def ecBase : EcPoint :=
  some (0x6b17d1f2e12c4247f8bce6e563a440f277037d812deb33a0f4a13945d898c296,
    0x4fe342e2fe1a7f9b8ee7eb4a7c0f9e162bce33576b315ececbb6406837bf51f5)

/-- A power modulo `m`, by the 256 bits of the exponent from the highest. -/
def powMod (m b e : Nat) : Nat :=
  (List.range 256).foldl (fun r i => r * r % m * (if e.testBit (255 - i) then b else 1) % m) 1

/-- The inverse modulo a prime, and a difference modulo p. -/
def invMod (m x : Nat) : Nat := powMod m x (m - 2)
def ecSub (a b : Nat) : Nat := (a + ecP - b % ecP) % ecP

def ecOnCurve (x y : Nat) : Bool :=
  decide (x < ecP) && decide (y < ecP) && y * y % ecP == ecSub (x * x * x + ecB) (3 * x)

def ecAdd : EcPoint → EcPoint → EcPoint
  | none, q => q
  | p, none => p
  | some (x, y), some (u, v) =>
    if x == u && (y + v) % ecP == 0 then none
    else
      let m := if x == u then ecSub (3 * x * x) 3 * invMod ecP (2 * y) else ecSub v y * invMod ecP (ecSub u x)
      let z := ecSub (m * m) (x + u)
      some (z, ecSub (m * ecSub x z) y)

/-- A multiple of a point, by the bits of the factor from the highest. -/
def ecMul (k : Nat) (p : EcPoint) : EcPoint :=
  (List.range 256).foldl (fun r i => let r := ecAdd r r; if k.testBit (255 - i) then ecAdd r p else r) none

/-- The point that 64 bytes hold, X then Y, each most significant byte first; none off the curve. -/
def ecPoint (l : List Byte) : EcPoint :=
  let x := beNat (l.take 32)
  let y := beNat ((l.drop 32).take 32)
  if ecOnCurve x y then some (x, y) else none

/-- An ECDSA signature `r`, `s` over a hash verifies with a public key. -/
def ecdsaVerifies (pub : EcPoint) (hash r s : Nat) : Bool :=
  let w := invMod ecN s
  pub.isSome && decide (1 ≤ r) && decide (r < ecN) && decide (1 ≤ s) && decide (s < ecN) &&
  match ecAdd (ecMul (hash * w % ecN) ecBase) (ecMul (r * w % ecN) pub) with
  | some (x, _) => x % ecN == r
  | none => false

/-- The signature over a hash with a private key and the secret number of this signature. -/
def ecdsaSign (d hash k : Nat) : Nat × Nat :=
  match ecMul k ecBase with
  | some (x, _) => (x % ecN, invMod ecN k * (hash + x % ecN * d) % ecN)
  | none => (0, 0)

/-! HKDF-SHA-256 (RFC 5869). -/

/-- HMAC-SHA-256 with a key of at most 64 bytes. -/
def hmac256 (key m : List Byte) : List Byte :=
  let k := key ++ List.replicate (64 - key.length) 0
  sha256 ((k.map (· ^^^ 0x5C)) ++ sha256 ((k.map (· ^^^ 0x36)) ++ m))

/-- 16 bytes derived from key material, a salt and info. -/
def hkdf16 (salt ikm info : List Byte) : List Byte := (hmac256 (hmac256 salt ikm) (info ++ [1])).take 16

end Sys2Proof.Machine
end

