-- ==== Sys2Proof/Machine/ImgOps.lean ====
section
/-!
DEFINITION. Glalipen images (spec/13, R336–R353; spec/16, R411): header and records, references, the checks made before
anything is written, the layout of SRAM, and the page tables.
-/

namespace Sys2Proof.Machine

/-! Failure exits (spec/13, R359). -/
def exNoImage : Nat := 1
def exReadErr : Nat := 2
def exSigFail : Nat := 3
def exKeyFail : Nat := 4
def exRollback : Nat := 5
def exFormat : Nat := 6
def exAlloc : Nat := 7
def exMap : Nat := 8
def exRegFault : Nat := 9
def exZsFail : Nat := 10

/-! Header (spec/13, R337, R338). -/

/-- `n` bytes of an image from offset `o`, little-endian; `rd` reads a byte of the image. -/
def rdLe (rd : Nat → Byte) (o n : Nat) : Nat := leNat ((List.range n).map fun i => rd (o + i))

def imgSeq (rd : Nat → Byte) : Nat := rdLe rd 0x08 4
def imgLength (rd : Nat → Byte) : Nat := rdLe rd 0x0C 4
def imgRegion (rd : Nat → Byte) : Nat := rdLe rd 0x10 2
def imgKeyIdx (rd : Nat → Byte) : Nat := rdLe rd 0x12 1
def imgRecInr (rd : Nat → Byte) : Bool := (rdLe rd 0x13 1).testBit 0
def imgRollback (rd : Nat → Byte) : Nat := rdLe rd 0x14 4
def imgNode (rd : Nat → Byte) : Nat := rdLe rd 0x1A 2
def imgNrec (rd : Nat → Byte) : Nat := rdLe rd 0x1C 2
def imgInrMax (rd : Nat → Byte) : Nat := rdLe rd 0x1E 2
def imgMode (rd : Nat → Byte) : Nat := rdLe rd 0x20 1
def imgClk (rd : Nat → Byte) : Nat := rdLe rd 0x21 1
def imgDummy (rd : Nat → Byte) : Nat := rdLe rd 0x22 1

/-- MODE and the clock code are allowed together (R334). -/
def clockAllowed (mode clk : Nat) : Bool := decide (mode ≤ 4) && decide (clk ≤ if mode ≤ 2 then 3 else 4)

/-- A valid header (R338): the steppings are those of FEAT3. -/
def headerValid (rd : Nat → Byte) : Bool :=
  rdLe rd 0 4 == 0x4E504C47 && rdLe rd 4 2 == 1 && rdLe rd 6 2 == 0x100 &&
  rdLe rd 0xFC 4 == crc32 ((List.range 0xFC).map rd) &&
  clockAllowed (imgMode rd) (imgClk rd) && decide (rdLe rd 0x25 1 ≤ 10) &&
  decide (336 ≤ imgLength rd) && decide (imgLength rd ≤ 0x1000000) && decide (imgLength rd ≤ imgRegion rd * 65536) &&
  decide (1 ≤ imgRegion rd) && decide (imgRegion rd ≤ 96) && decide (rdLe rd 0x18 1 ≤ 0xB0) && decide (rdLe rd 0x19 1 ≤ 0xC1)

/-! Records (spec/13, R339). -/

/-- A record: its type, flags, the offset and length of its body, its CRC and the last word of its header. -/
structure ImgRec where
  typ : Nat
  flags : Nat
  off : Nat
  len : Nat
  crc : Nat
  pad : Nat

/-- `n` records from an offset on. -/
def imgRecsFrom (rd : Nat → Byte) : Nat → Nat → List ImgRec
  | 0, _ => []
  | n + 1, o =>
    let len := rdLe rd (o + 4) 4
    ⟨rdLe rd o 2, rdLe rd (o + 2) 2, o + 16, len, rdLe rd (o + 8) 4, rdLe rd (o + 12) 4⟩ :: imgRecsFrom rd n (o + 16 + len)

def imgRecs (rd : Nat → Byte) : List ImgRec := imgRecsFrom rd (imgNrec rd) 256

/-- A body, as bytes and as 64-bit words. -/
def ImgRec.bytes (r : ImgRec) (rd : Nat → Byte) : List Byte := (List.range r.len).map fun i => rd (r.off + i)
def ImgRec.words (r : ImgRec) (rd : Nat → Byte) : List Nat := (List.range (r.len / 8)).map fun i => rdLe rd (r.off + 8 * i) 8

/-- Every record's CRC is right. -/
def imgCrcOk (rd : Nat → Byte) : Bool :=
  (imgRecs rd).all fun r => decide (r.off + r.len ≤ imgLength rd) && r.crc == crc32 (r.bytes rd)

/-- The record that starts at an offset is right: it lies in the image, and its CRC holds. -/
def imgRecordOk (rd : Nat → Byte) (o : Nat) : Bool :=
  (imgRecsFrom rd 1 o).all fun r => decide (r.off + r.len ≤ imgLength rd) && r.crc == crc32 (r.bytes rd)

/-- Bytes with those that were read wrong. -/
def readWith (img : Nat → Byte) (errors : List (Nat × Byte)) : Nat → Byte := fun i =>
  match errors.find? fun e => e.1 == i with
  | some e => e.2
  | none => img i

/-- The record at an offset is read again while its CRC fails (R360), once for each list of the bytes read wrong; answers the
bytes accepted and the number of re-reads. -/
def recordAgain (img : Nat → Byte) (o : Nat) : List (List (Nat × Byte)) → (Nat → Byte) → (Nat → Byte) × Nat
  | [], rd => (rd, 0)
  | e :: rest, rd =>
    if imgRecordOk rd o then (rd, 0)
    else
      let last := o + 16 + rdLe rd (o + 4) 4
      let r := recordAgain img o rest fun i => if o ≤ i && i < last then readWith img e i else rd i
      (r.1, r.2 + 1)

/-- `n` records from an offset on, each read again as R360 says: at most twice. -/
def recordsAgain (img : Nat → Byte) (again : List (List (Nat × Byte))) : Nat → Nat → (Nat → Byte) → (Nat → Byte) × Nat
  | 0, _, rd => (rd, 0)
  | n + 1, o, rd =>
    let r := recordAgain img o [again.getD 0 [], again.getD 1 []] rd
    let x := recordsAgain img again n (o + 16 + rdLe r.1 (o + 4) 4) r.1
    (x.1, r.2 + x.2)

/-- The hash of an image: bytes 0 to LENGTH − 65 (R350). -/
def imgHash (rd : Nat → Byte) : List Byte := sha256 ((List.range (imgLength rd - 64)).map rd)

/-- The signature over that hash verifies with a public key, held as its last 64 bytes (R336, R350). -/
def imgVerifies (rd : Nat → Byte) (pub : List Byte) : Bool :=
  let at_ := fun o n => beNat ((List.range n).map fun i => rd (imgLength rd - 64 + o + i))
  ecdsaVerifies (ecPoint (pub.drop (pub.length - 64))) (beNat (imgHash rd)) (at_ 0 32) (at_ 32 32)

/-- The words of the one record of a type; empty without it. -/
def imgOf (rd : Nat → Byte) (typ : Nat) : List Nat :=
  match (imgRecs rd).find? fun r => r.typ == typ with
  | some r => r.words rd
  | none => []

/-- All the records of a type. -/
def imgAll (rd : Nat → Byte) (typ : Nat) : List ImgRec := (imgRecs rd).filter fun r => r.typ == typ

/-! What the records say (spec/13, R341–R349). -/

/-- A partition of SRAM. -/
structure PartEnt where
  owner : Nat
  zero : Bool
  size : Nat

def imgParts (rd : Nat → Byte) : List PartEnt :=
  (imgOf rd 1).map fun w => ⟨bitsOf w 61 3, w.testBit 60, bitsOf w 0 16⟩

def imgLock01 (rd : Nat → Byte) : Bool := ((imgOf rd 9).getD 0 0).testBit 0
def imgLock23 (rd : Nat → Byte) : Bool := ((imgOf rd 9).getD 0 0).testBit 1

/-- The upper core of a lockstep pair. -/
def imgUpper (rd : Nat → Byte) (e : Nat) : Bool := (e == 2 && imgLock01 rd) || (e == 4 && imgLock23 rd)

/-- The references of a core: PC, SP and VBAR_M. -/
def imgEntryRef (rd : Nat → Byte) (e j : Nat) : Nat := (imgOf rd 9).getD (1 + 3 * (e - 1) + j) 0

/-- The image releases a core. -/
def imgReleased (rd : Nat → Byte) (e : Nat) : Bool := imgEntryRef rd e 0 != 0 && !imgUpper rd e

/-- A MAP entry. -/
structure MapEnt where
  core : Nat
  pte : Nat
  vpn : Nat
  pages : Nat
  ref : Nat
  zero : Nat

/-- Pairs of words. -/
def wordPairs : List Nat → List (Nat × Nat)
  | a :: b :: r => (a, b) :: wordPairs r
  | _ => []

def imgMaps (rd : Nat → Byte) : List MapEnt :=
  ((imgAll rd 8).map fun r => (wordPairs (r.words rd)).map fun p =>
    ⟨bitsOf p.1 61 3, bitsOf p.1 48 8, bitsOf p.1 16 24, bitsOf p.1 0 16, p.2, bitsOf p.1 56 5 + bitsOf p.1 40 8⟩).flatten

/-- The REGS entries, in image order. -/
def imgRegs (rd : Nat → Byte) : List (Nat × Nat) := ((imgAll rd 10).map fun r => wordPairs (r.words rd)).flatten

/-- A channel's area of message RAM in bytes (R343, R352). -/
def imgChanSize (rd : Nat → Byte) (n : Nat) : Nat :=
  let w := fun i => (imgOf rd 3).getD (6 * n + i) 0
  if (w 0).testBit 0 then
    let sum := (List.range 129).foldl (fun a k => a + areaBytes (bitsOf (w (1 + k / 32)) (2 * (k % 32)) 2)) 0
    (sum + 1023) / 1024 * 1024
  else 0

/-! Layout (spec/13, R352, R353). -/

def imgHalf0 (rd : Nat → Byte) : Nat := 0x1000000 - 2 * imgRegion rd * 65536
def imgMramSize (rd : Nat → Byte) : Nat :=
  ((List.range 8).foldl (fun a n => a + imgChanSize rd n) 0 + 65535) / 65536 * 65536
def imgMramBase (rd : Nat → Byte) : Nat := imgHalf0 rd - imgMramSize rd
def imgPartBase (rd : Nat → Byte) (i : Nat) : Nat := ((imgParts rd).take i).foldl (fun a p => a + p.size * 65536) 0

/-- The lowest-numbered partition of a core. -/
def imgHome (rd : Nat → Byte) (e : Nat) : Option Nat :=
  (List.range (imgParts rd).length).find? fun i => ((imgParts rd)[i]?.map (·.owner)).getD 0 == e

/-- The first-level indices among a core's MAP entries, rising. -/
def imgTops (rd : Nat → Byte) (e : Nat) : List Nat :=
  let ms := (imgMaps rd).filter fun m => m.core == e
  (List.range 4096).filter fun t => ms.any fun m => decide (m.vpn / 4096 ≤ t) && decide (t ≤ (m.vpn + m.pages - 1) / 4096)

/-! References (spec/13, R340). -/

def refKind (r : Nat) : Nat := bitsOf r 62 2
def refIdx (r : Nat) : Nat := bitsOf r 50 12
def refOff (r : Nat) : Nat := bitsOf r 0 40

/-- A reference and the length it covers lie wholly in the area it names, and not in SRAM for KIND 0x2. -/
def refOk (rd : Nat → Byte) (r len : Nat) : Bool :=
  let o := refOff r
  bitsOf r 40 10 == 0 &&
  match refKind r with
  | 0 => match (imgParts rd)[refIdx r]? with
    | some p => decide (o + len ≤ p.size * 65536)
    | none => false
  | 1 => match (imgRecs rd)[refIdx r]? with
    | some x => decide (o + len ≤ x.len)
    | none => false
  | 2 => region o != .sram && region o != .hole && region (o + (len - 1)) == region o
  | _ => decide (o + len ≤ 0x20000)

/-- The physical address of a reference; `half` is the base of the half the image lies in. -/
def refAddr (rd : Nat → Byte) (half r : Nat) : Nat :=
  match refKind r with
  | 0 => imgPartBase rd (refIdx r) + refOff r
  | 1 => half + (((imgRecs rd)[refIdx r]?.map (·.off)).getD 0) + refOff r
  | 2 => refOff r
  | _ => 0x30000000 + refOff r

/-! Checks (spec/13, R339–R349; spec/16, R411). -/

def typeCount (rd : Nat → Byte) (t : Nat) : Nat := (imgAll rd t).length

/-- Counts, types, lengths. -/
def recordsOk (rd : Nat → Byte) : Bool :=
  let rs := imgRecs rd
  decide (1 ≤ imgNrec rd) && decide (imgNrec rd ≤ 4095) &&
  imgLength rd == rs.foldl (fun a r => a + 16 + r.len) 320 &&
  rs.all (fun r => decide (r.typ ≤ 11) && r.flags == 0 && r.len % 8 == 0 && r.pad == 0) &&
  [1, 2, 3, 4, 5, 9].all (fun t => typeCount rd t == 1) && decide (typeCount rd 11 ≤ 1)

def partitionOk (rd : Nat → Byte) : Bool :=
  let ws := imgOf rd 1
  decide (1 ≤ ws.length) && decide (ws.length ≤ 32) &&
  ws.all fun w =>
    bitsOf w 16 44 == 0 && bitsOf w 61 3 != 6 && !imgUpper rd (bitsOf w 61 3) && decide (1 ≤ bitsOf w 0 16) &&
    decide (bitsOf w 0 16 ≤ 256)

def nvpartOk (rd : Nat → Byte) : Bool :=
  let ws := imgOf rd 2
  decide (ws.length ≤ 16) && ws.all fun w => bitsOf w 61 3 != 0 && bitsOf w 61 3 != 6 && bitsOf w 16 45 == 0

def msgramOk (rd : Nat → Byte) : Bool :=
  (imgOf rd 3).length == 48 && (List.range 8).all fun n => decide ((imgOf rd 3).getD (6 * n) 0 ≤ 1)

/-- A TRUST entry: a port, a family or a gate entry. -/
def trustEntOk (w : Nat) : Bool :=
  match bitsOf w 62 2 with
  | 1 => (decide (bitsOf w 8 5 ≤ 0x14) || bitsOf w 8 5 == 0x1F) && decide (bitsOf w 0 3 ≤ 4)
  | 2 => true
  | 3 => decide (1 ≤ bitsOf w 56 6) && decide (bitsOf w 56 6 ≤ 3)
  | _ => false

/-- What a TRUST entry names: two of one name are a duplicate. -/
def trustName (w : Nat) : Nat × Nat :=
  (bitsOf w 62 2, match bitsOf w 62 2 with | 1 => bitsOf w 8 5 | 2 => bitsOf w 8 6 | _ => bitsOf w 56 6)

def trustOk (rd : Nat → Byte) : Bool :=
  let ws := imgOf rd 5
  ws.all trustEntOk && decide ((ws.map trustName).Nodup)

def codeOk (rd : Nat → Byte) : Bool := (imgAll rd 6).all fun r => r.off % 65536 == 0

def dataOk (rd : Nat → Byte) : Bool :=
  (imgAll rd 7).all fun r =>
    let ref := rdLe rd r.off 8
    decide (8 ≤ r.len) && (refKind ref == 0 || refKind ref == 3) && refOk rd ref (r.len - 8)

def mapFormOk (rd : Nat → Byte) : Bool :=
  (imgAll rd 8).all (fun r => r.len % 16 == 0) &&
  (imgMaps rd).all fun m =>
    decide (1 ≤ m.core) && decide (m.core ≤ 5) && m.zero == 0 && m.pte % 2 == 1 && decide (1 ≤ m.pages) &&
    decide (m.vpn + m.pages ≤ 2 ^ 24) && refOff m.ref % 65536 == 0 && refOk rd m.ref (m.pages * 65536)

/-- A ZK reference: the AON RAM, or the boot ROM. -/
def zkRefOk (r : Nat) : Bool := refKind r == 3 || (refKind r == 2 && region (refOff r) == .rom)

def entryOk (rd : Nat → Byte) : Bool :=
  (imgOf rd 9).length == 19 &&
  (List.range 6).all fun i =>
    let e := i + 1
    !imgReleased rd e ||
    [0, 1, 2].all fun j => refOk rd (imgEntryRef rd e j) (if j == 0 then 4 else 0) && (e != 6 || zkRefOk (imgEntryRef rd e j))

def regsFormOk (rd : Nat → Byte) : Bool :=
  (imgAll rd 10).all (fun r => r.len % 16 == 0) &&
  (imgRegs rd).all fun p =>
    let op := bitsOf p.1 60 4
    bitsOf p.1 40 20 == 0 && decide (1 ≤ op) && decide (op ≤ 4) &&
    (op != 4 || (bitsOf p.1 0 40 == 0 && decide (1 ≤ p.2) && decide (p.2 ≤ 65535)))

def handoverOk (rd : Nat → Byte) : Bool :=
  typeCount rd 11 == 0 ||
  let ws := imgOf rd 11
  let n := ws.getD 0 0
  decide (n ≤ 63) && ws.length == 7 + 2 * n &&
  (List.range 6).all (fun i => ws.getD (i + 1) 0 == 0 || refOk rd (ws.getD (i + 1) 0) 4) &&
  (wordPairs (ws.drop 7)).all fun p => p.2 % 8 == 0 && refOk rd p.1 p.2

/-- Nothing gives the exit FORMAT. -/
def imgFormatOk (rd : Nat → Byte) : Bool :=
  recordsOk rd && partitionOk rd && nvpartOk rd && msgramOk rd && (imgOf rd 4).length == 2 && trustOk rd && codeOk rd &&
  dataOk rd && mapFormOk rd && entryOk rd && regsFormOk rd && handoverOk rd

/-- Nothing gives the exit ALLOC (R342, R352, R353). -/
def imgAllocOk (rd : Nat → Byte) : Bool :=
  decide ((imgOf rd 2).foldl (fun a w => a + bitsOf w 0 16) 0 ≤ 992) &&
  decide (2 * imgRegion rd * 65536 + imgMramSize rd + imgPartBase rd (imgParts rd).length ≤ 0x1000000) &&
  [1, 2, 3, 4, 5].all fun e =>
    (imgTops rd e).isEmpty ||
    match imgHome rd e with
    | some i => decide (32768 * (1 + (imgTops rd e).length) ≤ (((imgParts rd)[i]?).map (·.size)).getD 0 * 65536)
    | none => true

/-- Two ranges of pages overlap. -/
def mapOverlap (a b : MapEnt) : Bool := a.core == b.core && decide (a.vpn < b.vpn + b.pages) && decide (b.vpn < a.vpn + a.pages)

/-- Nothing gives the exit MAP (R346). -/
def imgMapOk (rd : Nat → Byte) : Bool :=
  let ms := imgMaps rd
  ms.all (fun m =>
    !(refKind m.ref == 1 && m.pte.testBit 2) &&
    (refKind m.ref != 0 || match (imgParts rd)[refIdx m.ref]? with
      | some p => p.owner == 0 || p.owner == m.core
      | none => false) &&
    imgReleased rd m.core && (imgHome rd m.core).isSome) &&
  decide (ms.Pairwise fun a b => mapOverlap a b = false)

/-- The exit of the checks before anything is written (R351), 0 when all pass. -/
def imgExit (rd : Nat → Byte) : Nat :=
  if !imgFormatOk rd then exFormat else if !imgAllocOk rd then exAlloc else if !imgMapOk rd then exMap else 0

/-! Page tables (spec/13, R353; spec/11, R302, R303). -/

/-- Memory bytes of a range put to 0. -/
def State.zeroRange (s : State) (a n : Nat) : State := { s with mem := s.mem.filter fun c => c.1 < a || a + n ≤ c.1 }

/-- The tables of a core written whole at a base: `half` is the base of the half its image lies in. -/
def State.writeTables (s : State) (rd : Nat → Byte) (half e : Nat) : State :=
  match imgHome rd e with
  | none => s
  | some i =>
    let base := imgPartBase rd i
    let tops := imgTops rd e
    if tops.isEmpty then s
    else
      let s := s.zeroRange base (32768 * (1 + tops.length))
      let level2 := fun t => base + 32768 * (1 + tops.findIdx (· == t))
      let s := s.each tops fun t u => u.setWord (base + 8 * t) (level2 t + 1)
      s.each ((imgMaps rd).filter fun m => m.core == e) fun m u =>
        let phys := refAddr rd half m.ref
        u.each (List.range m.pages) fun k v =>
          let p := m.vpn + k
          v.setWord (level2 (p / 4096) + 8 * (p % 4096)) (phys + 65536 * k + m.pte)

/-- The base of a core's first-level table, 0 when it has none. -/
def imgPtbr (rd : Nat → Byte) (e : Nat) : Nat :=
  match imgHome rd e with
  | some i => if (imgTops rd e).isEmpty then 0 else imgPartBase rd i
  | none => 0

/-! Where images lie. -/

/-- An image in a flash slot, 0 for A (spec/13, R333). -/
def State.flashImg (s : State) (slot : Nat) : Nat → Byte := fun i => s.flashByte (slot * 0x1000000 + i)

/-- An image in a half of the image region. -/
def State.halfImg (s : State) (h : Nat) : Nat → Byte := fun i => s.byte (s.halfBase h + i)

end Sys2Proof.Machine
end

