-- ==== Sys2Proof/Machine/Sec.lean ====
section
/-!
DEFINITION. The commands of the SEC gate, the monitor's operations and the update hand-over (spec/16; spec/17, R446).
-/

namespace Sys2Proof.Machine

/-! Segments (spec/16, R412). -/

/-- The port takes the frame, and it is one of the command carrier (R408, R411): on CAN a channel that receives, an FD or XL
frame with the identifier; on Ethernet a port of the running switch that is enabled, a frame with the EtherType to
ESW_MAC. -/
def State.carries (s : State) (p : Nat) (via : Carrier) : Bool :=
  match via with
  | .can f => decide (p < 8) && s.netRuns && (s.cn p).receives && s.canCmdCarrier f
  | .eth f => decide (16 ≤ p) && decide (p < 20) && s.eswRuns && s.flag (ESW_PORT_CFG_PEN (p - 16)) && s.ethCmdCarrier f

def execCmdSegmentRx (port : Fin 32) (via : Carrier) (vbat : BitVec 16) (s : State) : Out :=
  .next (if s.carries port via then s.segRx port via vbat.toNat else s)

/-- More than 500 ms pass between two segments of a message. -/
def execSegmentTimeout (port : Fin 32) (s : State) : Out :=
  .next (if (s.part port).isSome then (s.dropPart port).incSat SEC_INTAKE_SEGERR else s)

/-! Responses. -/

/-- A response whose code the manual does not state: free values, the code among the final ones (spec/00, R15; R414; log
entry 13). -/
def State.respondFree (s : State) (src : CmdFrom) (l : List Byte) : State :=
  let a := s.draw
  let b := a.2.draw
  b.2.respond src l ([0, 3, 4, 5, 6, 7, 8, 9].getD (a.1.toNat % 8) 0) (b.1.toNat % 256) []

/-- REFUSED_CONFLICT with a REASON. -/
def State.conflict (s : State) (src : CmdFrom) (l : List Byte) (reason : Nat) : State := s.respond src l istatConflict reason []

/-- OK with no body. -/
def State.respondOk (s : State) (src : CmdFrom) (l : List Byte) : State := s.respond src l istatOk 0 []

/-! STATUS and ATTEST (spec/16, R416, R422, R423). -/

/-- What STATUS READ reports: identity, lifecycle, key states and public keys, active image. -/
def State.statusData (s : State) : List Nat :=
  ([ID_LDIE, ID_LLOT, ID_PDIE, ID_PLOT, ID_SERIAL, ID_STAT, SEC_STAT, BSQ_IMG, BSQ_STAT].map fun a => (s.otp a).toNat) ++
  ((List.range 4).map fun k => (s.reg (BSQ_HASH k)).toNat) ++
  ((List.range 4).map fun j => leNat (tget (0, []) s.sec.keys.image j).2)

def execStatusRead (src : CmdSrc) (s : State) : Out :=
  .next (s.monitor src 0 1 fun t f _ l => t.respond f l istatOk 0 (Config.statusBody t.statusData))

/-- The device certificate. -/
def State.cert (s : State) : List Byte :=
  ((List.range 128).flatMap fun w => natLe 8 (s.otp (ID_CERT w)).toNat).take (s.fld ID_STAT_CERTLEN)

def execStatusCert (src : CmdSrc) (s : State) : Out :=
  .next (s.monitor src 0 2 fun t f _ l => t.respond f l istatOk 0 t.cert)

/-- The bytes a quote signs. -/
def State.quoteBytes (s : State) (nonce : List Byte) : List Byte :=
  let k := s.sec.keys
  let b := fun (x : Bool) (n : Nat) => if x then n else 0
  nonce.take 16 ++ natLe 8 (s.otp ID_SERIAL).toNat ++ natLe 4 (s.fld BSQ_IMG_SEQ) ++ natLe 4 (s.fld BSQ_IMG_ROLLBACK) ++
    natLe 4 k.rollback ++ ((List.range 4).flatMap fun j => natLe 8 (s.reg (BSQ_HASH j)).toNat) ++
    [BitVec.ofNat 8 (b k.field 1),
     BitVec.ofNat 8 (s.fld BSQ_STAT_SLOT + 2 * s.fld BSQ_STAT_IHALF + b k.ownerLock 4 + b s.hoRuns 8)] ++
    natLe 1 (s.fld SEC_STAT_IKEYS) ++ [0] ++ natLe 2 (s.fld SEC_STAT_AKEYS) ++ List.replicate 6 0 ++ natLe 8 s.completed

/-- Free bytes, eight a draw (log entry 3). -/
def State.drawBytes (s : State) : Nat → State × List Byte
  | 0 => (s, [])
  | n + 1 =>
    let d := s.draw
    let r := d.2.drawBytes n
    (r.1, natLe 8 d.1.toNat ++ r.2)

/-- The signature of bytes with the device key, its secret number being a free value; with no device key the manual states
none, and it is free (log entry 92). -/
def State.deviceSign (s : State) (m : List Byte) : State × List Byte :=
  match s.sec.keys.device with
  | some d =>
    let k := s.drawBytes 4
    let r := ecdsaSign d.toNat (beNat (sha256 m)) (1 + leNat k.2 % (ecN - 1))
    (k.1, natBe 32 r.1 ++ natBe 32 r.2)
  | none => s.drawBytes 8

/-- A quote with its signature. -/
def State.quote (s : State) (f : CmdFrom) (l : List Byte) : State :=
  let m := s.quoteBytes (msgBody l)
  let sig := s.deviceSign m
  sig.1.respond f l istatOk 0 (m ++ sig.2)

def execQuote (src : CmdSrc) (s : State) : Out := .next (s.monitor src 1 1 fun t f _ l => t.quote f l)

/-! UPDATE (spec/16, R424–R429). -/

def State.setSession (s : State) (x : Option Session) : State := { s with sec := { s.sec with session := x } }

/-- Another port holds the session, or a hand-over runs. -/
def State.sessionBusy (s : State) (port : Nat) : Bool :=
  s.hoRuns || match s.sec.session with
    | some x => x.port != port
    | none => false

/-- The half of the image region that is not active. -/
def State.otherHalf (s : State) : Nat := 1 - s.fld BSQ_STAT_IHALF

/-- Flash bytes of a 64 KiB sector of a slot erased. -/
def State.eraseSector (s : State) (slot sector : Nat) : State :=
  let a := slot * 0x1000000 + sector * 65536
  { s with flash := s.flash.filter fun c => c.1 < a || a + 65536 ≤ c.1 }

def State.updateBegin (s : State) (f : CmdFrom) (port : Nat) (l : List Byte) : State :=
  let b := msgBody l
  let len := bodyLe b 0 4
  let seq := bodyLe b 4 4
  if s.sessionBusy port then s.conflict f l 0x21
  else if len % 8 != 0 || len < 336 || 0x1000000 < len then s.conflict f l 0x22
  else if seq ≤ s.fld BSQ_IMG_SEQ then s.conflict f l 0x23
  else
    let slot := 1 - s.fld BSQ_STAT_SLOT
    let staging := decide (len ≤ s.fld BSQ_IMGBASE_HALFSZ * 65536)
    let s := s.eraseSector slot 0
    let s := s.setSession (some { port := port, length := len, seq := seq, slot := slot, staging := staging, erased := [0] })
    s.respond f l istatOk 0 [BitVec.ofNat 8 slot, if staging then 1 else 0]

def execUpdateBegin (src : CmdSrc) (s : State) : Out := .next (s.monitor src 4 1 fun t f p l => t.updateBegin f p l)

/-- The bytes a staged offset holds. -/
def State.stagedBlock (s : State) (x : Session) (off n : Nat) : List Byte :=
  if off == 0 then x.first else s.flashBytes (x.slot * 0x1000000 + off) n

/-- A block that was not staged before. -/
def State.blockStore (s : State) (x : Session) (off : Nat) (data : List Byte) : State :=
  let sector := off / 65536
  let s := if x.erased.contains sector then s else s.eraseSector x.slot sector
  let s := if off == 0 then s else s.setFlash (x.slot * 0x1000000 + off) data
  let s := if x.staging then s.setBytes (s.halfBase s.otherHalf + off) data else s
  s.setSession (some { x with
    have_ := x.have_ ++ [off], first := if off == 0 then data else x.first, verified := false,
    erased := if x.erased.contains sector then x.erased else x.erased ++ [sector] })

/-- A program or read-back failure: the session closes (R426). -/
def State.stageFail (s : State) (f : CmdFrom) (l : List Byte) : State :=
  (((s.setSession none).raiseBit SEC_IRQ_FLASHERR).raiseL 282).respond f l istatAbortedFault 0 []

/-- A block whose programming fails: its sector is erased before its first block, and what the flash then holds of it is free
(log entry 111). -/
def State.blockSpoil (s : State) (x : Session) (off n : Nat) : State :=
  let sector := off / 65536
  let s := if x.erased.contains sector then s else s.eraseSector x.slot sector
  let d := s.drawBytes ((n + 7) / 8)
  d.1.setFlash (x.slot * 0x1000000 + off) (d.2.take n)

/-- BLOCK; `fail` says that programming or reading back fails (R426). Block 0 is programmed at VERIFY. -/
def State.updateBlock (s : State) (fail : Bool) (f : CmdFrom) (port : Nat) (l : List Byte) : State :=
  let b := msgBody l
  let off := bodyLe b 0 4
  let data := b.drop 4
  if s.sessionBusy port then s.conflict f l 0x21
  else
    match s.sec.session with
    | none => s.conflict f l 0x25
    | some x =>
      if off % 4096 != 0 || x.length ≤ off || data.length != min 4096 (x.length - off) then s.conflict f l 1
      else if x.have_.contains off then
        if s.stagedBlock x off data.length == data then s.respondOk f l else s.conflict f l 0x24
      else if fail && off != 0 then (s.blockSpoil x off data.length).stageFail f l
      else (s.blockStore x off data).respondOk f l

def execUpdateBlock (src : CmdSrc) (fail : Bool) (s : State) : Out :=
  .next (s.monitor src 4 2 fun t f p l => t.updateBlock fail f p l)

/-- The first offset of a session not staged. -/
def Session.missing (x : Session) : Option Nat :=
  ((List.range ((x.length + 4095) / 4096)).map fun i => 4096 * i).find? fun o => !x.have_.contains o

/-- What VERIFY finds wrong with the bytes of a slot: the exit code, 0 for nothing (R427). -/
def State.slotExit (s : State) (rd : Nat → Byte) : Nat :=
  if !headerValid rd then exNoImage
  else if s.sec.keys.imageState (imgKeyIdx rd) != 1 then exKeyFail
  else if !imgVerifies rd (s.sec.keys.imageKey (imgKeyIdx rd)) then exSigFail
  else if imgRollback rd < s.sec.keys.rollback then exRollback
  else 0

/-- ZS reads the staging of an update session, where it has one: whether it can be read (spec/13, R330; log entry 105). -/
def State.stagedRead (s : State) (x : Session) : State × Bool := if x.staging then s.sramRead else (s, true)

/-- VERIFY of a session with every block: block 0 is programmed and the slot is read back from flash, with the bytes in
`errors` read wrong (R427). Where block 0 itself reads back wrong, its programming has failed (R426). A staging that cannot be
read (spec/13, R330) has no such hash (log entry 105). -/
def State.verifyEnd (s : State) (errors : List (Nat × Byte)) (x : Session) (f : CmdFrom) (l : List Byte) : State :=
  let x0 := x.first
  let s := s.setFlash (x.slot * 0x1000000) x0
  let rd := readWith (s.flashImg x.slot) errors
  let e := s.slotExit rd
  if errors.any (fun x => decide (x.1 < x0.length) && x0.getD x.1 0 != x.2) then s.stageFail f l
  else if e != 0 then s.conflict f l e
  else
    let r := s.stagedRead x
    let same := r.2 && imgHash (s.halfImg s.otherHalf) == imgHash rd
    (r.1.setSession (some { x with verified := true, staging := x.staging && same })).respondOk f l

def State.updateVerify (s : State) (errors : List (Nat × Byte)) (f : CmdFrom) (port : Nat) (l : List Byte) : State :=
  if s.sessionBusy port then s.conflict f l 0x21
  else
    match s.sec.session with
    | none => s.conflict f l 0x25
    | some x =>
      match x.missing with
      | some o => s.respond f l istatConflict 0x26 (natLe 4 o)
      | none => s.verifyEnd errors x f l

def execUpdateVerify (src : CmdSrc) (errors : List (Nat × Byte)) (s : State) : Out :=
  .next (s.monitor src 4 3 fun t f p l => t.updateVerify errors f p l)

/-- The cores that take part in a hand-over (R429). -/
def State.hoCores (s : State) : List Nat := [1, 2, 3, 4].filter fun e => (s.core e).released && s.coreHome e == e

/-- The bytes of a record differ between two images. -/
def recDiffers (a b : Nat → Byte) (typ : Nat) : Bool :=
  let bytes := fun rd : Nat → Byte => (imgAll rd typ).map fun r => r.bytes rd
  bytes a != bytes b

/-- The reason why the staged image cannot take over (R429). -/
def State.incompatible (s : State) (x : Session) : Option Nat :=
  let old := s.halfImg (s.fld BSQ_STAT_IHALF)
  let new := s.halfImg s.otherHalf
  if !x.staging then some 0x28
  else if imgRegion old != imgRegion new || imgNode old != imgNode new then some 0x29
  else if [1, 2, 3, 4, 5].any (recDiffers old new) then some 0x2A
  else if (imgOf old 9).getD 0 0 != (imgOf new 9).getD 0 0 || [1, 2, 3, 4, 5].any (fun e => imgTops old e != imgTops new e) then
    some 0x2B
  else if typeCount new 11 == 0 || s.hoCores.any (fun e => (imgOf new 11).getD e 0 == 0) then some 0x2C
  else none

/-- A hand-over starts in QUIET. -/
def State.hoStart (s : State) (f : CmdFrom) (l : List Byte) : State :=
  let b := msgBody l
  let new := s.halfImg s.otherHalf
  let half := s.halfBase s.otherHalf
  let cores := s.hoCores
  let ws := imgOf new 11
  let s := (s.put BSQ_HOSTAT_PART (cores.foldl (fun n e => n + 2 ^ e) 0)).put BSQ_HOSTAT_READY 0
  let s := ((s.put BSQ_HOSTAT_DONE 0).put BSQ_HOSTAT_CAUSE 0).put BSQ_HOSTAT_PHASE hoQuiet
  let s := (s.put BSQ_HOBLK_NBLK (ws.getD 0 0)).put BSQ_HOBLK_ADDR
    (half + (((imgAll new 11).head?.map (·.off)).getD 0) + 56)
  let s : State := { s with hand := { s.hand with
    entry := cores.foldl (fun t e => tset 0 t e (refAddr new half (ws.getD e 0))) []
    quiet := if bodyByte b 1 == 0 then 50 else bodyByte b 1
    time := if bodyByte b 2 == 0 then 20 else bodyByte b 2
    restoring := false, src := f, head := l.take 8, acks := 0, gone := false } }
  s.each cores fun e t => t.setHoFlag e (t.hoFlag e ||| 1)

/-- ACTIVATE's common refusals, then its mode. -/
def State.activate (s : State) (f : CmdFrom) (port : Nat) (l : List Byte) (run : State → Session → State) : State :=
  if s.sessionBusy port then s.conflict f l 0x21
  else
    match s.sec.session with
    | none => s.conflict f l 0x27
    | some x => if x.verified then run s x else s.conflict f l 0x27

/-- ACTIVATE with MODE HANDOVER; under S3 the hand-over is abandoned at once (R432, R433). Where ZS cannot read the two images
(spec/13, R330) the command ends ABORTED_FAULT (log entry 105). -/
def State.activateHandover (s : State) (f : CmdFrom) (port : Nat) (l : List Byte) : State :=
  if s.bootFailed then s.respond f l istatPolicy 3 []
  else s.activate f port l fun t x =>
    let r := t.stagedRead x
    let t := r.1
    if !r.2 then t.respond f l istatAbortedFault 0 []
    else match t.incompatible x with
      | some r => t.conflict f l r
      | none => (t.hoStart f l).when t.s3 fun u => u.hoAbandon 5

/-- The ACTIVATE at the head of the source has a MODE. -/
def modeOf (l : List Byte) : Nat := bodyByte (msgBody l) 0

/-- ACTIVATE with MODE HANDOVER; a message of another MODE is left to the other row. -/
def execActivateHandover (src : CmdSrc) (s : State) : Out :=
  let t := s.monitor src 4 4 fun t f p l => if modeOf l == 1 then t.activateHandover f p l else s
  .next t

/-- ACTSLOT of the boot record (spec/13, R362). -/
def State.setActSlot (s : State) (slot : Nat) : State :=
  s.nvWrite 0x103F9000 [BitVec.ofNat 8 slot]

def State.activateRestart (s : State) (f : CmdFrom) (port : Nat) (l : List Byte) : State :=
  if modeOf l != 2 then s.conflict f l 1
  else s.activate f port l fun t x =>
    let t := (t.setActSlot x.slot).respondOk f l
    { t with sec := { t.sec with restart := true } }

/-- ACTIVATE with MODE RESTART; a MODE that is neither fails its format (log entry 14). -/
def execActivateRestart (src : CmdSrc) (s : State) : Out :=
  .next (s.monitor src 4 4 fun t f p l => if modeOf l == 1 then s else t.activateRestart f p l)

/-- 10 ms after the response to RESTART. -/
def execRestartReset (s : State) : Out :=
  .next (if s.sec.restart then ({ s with sec := { s.sec with restart := false } } : State).ldieRestart else s)

def State.updateAbort (s : State) (f : CmdFrom) (port : Nat) (l : List Byte) : State :=
  if s.sessionBusy port then s.conflict f l 0x21 else (s.setSession none).respondOk f l

def execUpdateAbort (src : CmdSrc) (s : State) : Out := .next (s.monitor src 4 5 fun t f p l => t.updateAbort f p l)

/-- 60 s with no UPDATE command from the session's port. -/
def execUpdateSessionTimeout (s : State) : Out := .next (if s.hoRuns then s else s.setSession none)

/-! ACCESS, OWNER and KEYS (spec/16, R418–R421). -/

def KeyStore.setSlot (k : KeyStore) (j : Nat) (x : Nat × Nat × BitVec 128) : KeyStore :=
  { k with access := tset (0, 0, 0) k.access j x }

/-- The X coordinate of the ECDH product of the device key with a point, most significant byte first; with no device key
the manual states none, and it is free (log entry 92). -/
def State.ecdhX (s : State) (q : EcPoint) : List Byte :=
  match s.sec.keys.device with
  | some d => natBe 32 (((ecMul d.toNat q).map (·.1)).getD 0)
  | none => (s.drawBytes 4).2

/-- The ephemeral point of an ENROLL body, uncompressed: the byte 4, X and Y. -/
def enrollPoint (b : List Byte) : EcPoint := if b.getD 8 0 == 4 then ecPoint ((b.drop 9).take 64) else none

/-- The AES key that an ENROLL body wraps (R418), none where the unwrap fails its integrity check. -/
def State.enrollKey (s : State) (b : List Byte) : Option (BitVec 128) :=
  let kek := hkdf16 (natLe 8 (s.otp ID_SERIAL).toNat) (s.ecdhX (enrollPoint b)) (b.take 8)
  (keyUnwrap kek ((b.drop 73).take 24)).map fun k => BitVec.ofNat 128 (beNat k)

/-- ENROLL (R418). -/
def State.enroll (s : State) (f : CmdFrom) (l : List Byte) : State :=
  let b := msgBody l
  let j := bodyByte b 0
  let id := bodyLe b 4 4
  let k := s.sec.keys
  if 7 < j then s.conflict f l 1
  else if (k.slot j).1 != 0 then s.conflict f l 0x11
  else if (enrollPoint b).isNone then s.conflict f l 0x12
  else
    match s.enrollKey b with
    | none => s.conflict f l 0x13
    | some v =>
      if id == 0 || (List.range 8).any (fun i => (k.slot i).1 != 0 && (k.slot i).2.1 == id) then s.conflict f l 0x14
      else (s.setKeys (k.setSlot j (1, id, v))).respondOk f l

/-- ENROLL of a slot and a key ID; a message that names others is no such command, and stays (log entry 7). -/
def execEnroll (src : CmdSrc) (slot : Byte) (keyId : BitVec 32) (s : State) : Out :=
  .next (s.monitor src 5 1 fun t f _ l =>
    if bodyByte (msgBody l) 0 == slot.toNat && bodyLe (msgBody l) 4 4 == keyId.toNat then t.enroll f l else s)

/-- BLOCK of slot `j`; the answer for a slot that is not ENROLLED is not stated. -/
def State.accessBlock (s : State) (j : Nat) (f : CmdFrom) (l : List Byte) : State :=
  let x := s.sec.keys.slot j
  if x.1 == 1 then (s.setKeys (s.sec.keys.setSlot j (2, x.2))).respondOk f l else s.respondFree f l

def execAccessBlock (src : CmdSrc) (j : Fin 8) (s : State) : Out :=
  .next (s.monitor src 5 2 fun t f _ l => t.accessBlock j f l)

def execRemove (src : CmdSrc) (j : Fin 8) (s : State) : Out :=
  .next (s.monitor src 5 3 fun t f _ l => (t.setKeys (t.sec.keys.setSlot j (0, 0, 0))).respondOk f l)

/-- The lock-out ends and its record is emptied. -/
def State.lockClear (s : State) : State :=
  ({ s with acc := { s.acc with lockOut := { s.acc.lockOut with fails := [], level := 0, locked := false } } } : State).lockSave

def execClearLockout (src : CmdSrc) (s : State) : Out :=
  .next (s.monitor src 5 4 fun t f _ l => t.lockClear.respondOk f l)

def execOwnerSet (src : CmdSrc) (s : State) : Out :=
  .next (s.monitor src 6 1 fun t f _ l => (t.setKeys { t.sec.keys with ownerLock := true }).respondOk f l)
def execOwnerClear (src : CmdSrc) (s : State) : Out :=
  .next (s.monitor src 6 2 fun t f _ l => (t.setKeys { t.sec.keys with ownerLock := false }).respondOk f l)

/-- INSTALL of a public key into slot `j`; the answer for a slot that is not EMPTY is not stated. -/
def State.install (s : State) (j : Nat) (pub : List Byte) (f : CmdFrom) (l : List Byte) : State :=
  let k := s.sec.keys
  if k.imageState j == 0 then (s.setKeys { k with image := tset (0, []) k.image j (1, pub) }).respondOk f l
  else s.respondFree f l

def execInstall (src : CmdSrc) (j : Fin 4) (pub : List Byte) (s : State) : Out :=
  .next (s.monitor src 7 1 fun t f _ l => t.install j pub f l)

def State.revoke (s : State) (j : Nat) (f : CmdFrom) (l : List Byte) : State :=
  let k := s.sec.keys
  if imgKeyIdx (s.halfImg (s.fld BSQ_STAT_IHALF)) == j then s.conflict f l 0x15
  else (s.setKeys { k with image := tset (0, []) k.image j (2, (tget (0, []) k.image j).2) }).respondOk f l

def execRevoke (src : CmdSrc) (j : Fin 4) (s : State) : Out := .next (s.monitor src 7 2 fun t f _ l => t.revoke j f l)

def State.raiseRollback (s : State) (v : Nat) (f : CmdFrom) (l : List Byte) : State :=
  let k := s.sec.keys
  if k.rollback ≤ v && v ≤ s.fld BSQ_IMG_ROLLBACK then (s.setKeys { k with rollback := v }).respondOk f l
  else s.conflict f l 0x16

def execRaiseRollback (src : CmdSrc) (v : BitVec 32) (s : State) : Out :=
  .next (s.monitor src 7 3 fun t f _ l => t.raiseRollback v.toNat f l)

/-! FAULT (spec/17, R446). -/

def State.faultRead (s : State) (f : CmdFrom) (l : List Byte) : State :=
  let b := msgBody l
  let body := (List.range (bodyByte b 2)).flatMap fun i => s.bytes (0x103E0000 + 64 * ((bodyLe b 0 2 + i) % 1024)) 64
  s.respond f l istatOk 0 body

def execFaultRead (src : CmdSrc) (s : State) : Out := .next (s.monitor src 8 1 fun t f _ l => t.faultRead f l)

def State.faultErase (s : State) (f : CmdFrom) (l : List Byte) : State :=
  ((s.zeroRange 0x103E0000 65536).put FCU_RECSTAT_NEXT 0).respondOk f l

def execFaultErase (src : CmdSrc) (s : State) : Out := .next (s.monitor src 8 2 fun t f _ l => t.faultErase f l)

/-- SEVERITY sets a class, lower or higher; FS257 stays at S1 at most (R439). -/
def State.faultSeverity (s : State) (f : CmdFrom) (l : List Byte) : State :=
  let b := msgBody l
  let src := bodyLe b 0 2
  let x := if src == 257 then min (bodyByte b 2) 1 else bodyByte b 2
  ({ s.put (sevFld src) x with fcu := { s.fcu with badSev := s.fcu.badSev.filter (· != src) } } : State).respondOk f l

def execSeverity (src : CmdSrc) (s : State) : Out := .next (s.monitor src 8 3 fun t f _ l => t.faultSeverity f l)

def State.faultInject (s : State) (f : CmdFrom) (l : List Byte) : State :=
  let b := msgBody l
  let src := bodyLe b 0 2
  let s := match bodyByte b 2 with
    | 1 => s.forceOne src true
    | 2 => s.forceOne src false
    | 3 => s.pfrcSet 1 src
    | _ => s.pfrcSet 0 src
  s.respondOk f l

def execInject (src : CmdSrc) (s : State) : Out := .next (s.monitor src 8 4 fun t f _ l => t.faultInject f l)

/-! FACTORY (spec/16, R410, R416, R417). -/

/-- KEYGEN makes the device key, a free value within 1 to n − 1, once only; the answer to a second one is not stated. -/
def State.keygen (s : State) (f : CmdFrom) (l : List Byte) : State :=
  match s.sec.keys.device with
  | some _ => s.respondFree f l
  | none =>
    let d := s.drawBytes 4
    (d.1.setKeys { d.1.sec.keys with device := some (BitVec.ofNat 256 (1 + leNat d.2 % (ecN - 1))) }).respondOk f l

def execKeygen (src : CmdSrc) (s : State) : Out := .next (s.monitor src 9 1 fun t f _ l => t.keygen f l)

/-- CERT puts the certificate, at most 1,024 bytes, into the ID block; the words written anew read as written. -/
def State.setCert (s : State) (cert : List Byte) : State :=
  let c := cert.take 1024
  let s : State := { s with sys := { s.sys with otpBad := s.sys.otpBad.filter fun a => a < ID_CERT 0 } }
  (s.each (List.range 128) fun w t => t.setReg (ID_CERT w) (BitVec.ofNat 64 (leNat ((c.drop (8 * w)).take 8)))).put
    ID_STAT_CERTLEN c.length

def execFactoryCert (src : CmdSrc) (cert : List Byte) (s : State) : Out :=
  .next (s.monitor src 9 2 fun t f _ l => (t.setCert cert).respondOk f l)

def execEndOfLine (src : CmdSrc) (s : State) : Out :=
  .next (s.monitor src 9 3 fun t f _ l => (t.setKeys { t.sec.keys with field := true }).respondOk f l)

/-! The hand-over (spec/16, R430–R432). -/

/-- The image in force shown by BSQ_IMG and BSQ_HASHk. -/
def State.imageShow (s : State) (rd : Nat → Byte) : State :=
  let h := imgHash rd
  let s := (s.put BSQ_IMG_SEQ (imgSeq rd)).put BSQ_IMG_ROLLBACK (imgRollback rd)
  s.each (List.range 4) fun k t => t.setReg (BSQ_HASH k) (BitVec.ofNat 64 (leNat ((h.drop (8 * k)).take 8)))

/-- The last DONE: the halves change places and ACTIVATE ends OK. -/
def State.hoComplete_ (s : State) : State :=
  let other := s.otherHalf
  let slot := match s.sec.session with
    | some x => x.slot
    | none => 1 - s.fld BSQ_STAT_SLOT
  let s := (s.put BSQ_STAT_IHALF other).put BSQ_STAT_SLOT slot
  let s := (s.imageShow (s.halfImg other)).setActSlot slot
  (s.setSession none).hoEnd hoComplete istatOk

/-- A participant's write of BSQ_HOCMD. -/
def State.hoCommand (s : State) (e : Nat) (ready done abandon : Bool) : State :=
  if !(s.fld BSQ_HOSTAT_PART).testBit e || s.hand.restoring then s
  else if s.fld BSQ_HOSTAT_PHASE == hoQuiet && ready then s.put BSQ_HOSTAT_READY (s.fld BSQ_HOSTAT_READY ||| 2 ^ e)
  else if s.fld BSQ_HOSTAT_PHASE == hoNew then
    if abandon then s.hoAbandon 1
    else if done then
      let s := s.put BSQ_HOSTAT_DONE (s.fld BSQ_HOSTAT_DONE ||| 2 ^ e)
      if s.fld BSQ_HOSTAT_DONE == s.fld BSQ_HOSTAT_PART then s.hoComplete_ else s
    else s
  else s

def State.hoCommandBy (s : State) (m : Master) (ready done abandon : Bool) : State :=
  s.access m BSQ_HOCMD none fun t => t.hoCommand (t.coreHome m.num) ready done abandon

def execHoReady (m : Master) (s : State) : Out := .next (s.hoCommandBy m true false false)
def execHoDone (m : Master) (s : State) : Out := .next (s.hoCommandBy m false true false)
def execHoAbandon (m : Master) (s : State) : Out := .next (s.hoCommandBy m false false true)

/-- The quiet boundary: every participant READY, no handle busy, the PMU steady and no bootstrap. -/
def State.hoBoundary (s : State) : Bool :=
  s.fld BSQ_HOSTAT_PHASE == hoQuiet && s.fld BSQ_HOSTAT_READY == s.fld BSQ_HOSTAT_PART &&
  allHandles.all (fun h => !txBusy (s.txState h)) && s.pmuPhase == phSteady && !s.bsq.running

def execHandoverSwitch (s : State) : Out := .next (if s.hoBoundary then s.put BSQ_HOSTAT_PHASE hoSwitch else s)

/-- The participants' tables are rewritten from the new image's MAP; with no participant every one is DONE at once. A MAP that
cannot be read (spec/13, R330) abandons the hand-over with the code of a fault (log entry 105). -/
def State.hoTables (s : State) : State :=
  if s.fld BSQ_HOSTAT_PHASE == hoSwitch && !s.hand.restoring then
    let rd := s.halfImg s.otherHalf
    let half := s.halfBase s.otherHalf
    let r := s.sramRead
    if !r.2 then r.1.hoAbandon 5
    else
      let s := (r.1.each s.hoPart fun e t => t.writeTables rd half e).put BSQ_HOSTAT_PHASE hoNew
      if s.hoPart.isEmpty then s.hoComplete_ else s
  else s

def execHandoverTablesDone (s : State) : Out := .next s.hoTables

/-- HOQUIET passes in QUIET; HOTIME passes in NEW. -/
def execHoquietExpire (s : State) : Out := .next (if s.fld BSQ_HOSTAT_PHASE == hoQuiet then s.hoAbandon 2 else s)
def execHotimeExpire (s : State) : Out := .next (if s.fld BSQ_HOSTAT_PHASE == hoNew then s.hoAbandon 3 else s)

/-- The old tables are back, and the hand-over ends ABANDONED; a MAP that cannot be read (spec/13, R330) is read again (log
entry 105). -/
def State.hoRestore (s : State) : State :=
  if s.hand.restoring then
    let rd := s.halfImg (s.fld BSQ_STAT_IHALF)
    let half := s.halfBase (s.fld BSQ_STAT_IHALF)
    let r := s.sramRead
    if !r.2 then r.1
    else (r.1.each s.hoPart fun e t => t.writeTables rd half e).hoEnd hoAbandoned (hoIstat (s.fld BSQ_HOSTAT_CAUSE))
  else s

def execHandoverRestoreDone (s : State) : Out := .next s.hoRestore

end Sys2Proof.Machine
end

