-- ==== Sys2Proof/Machine/Pmu.lean ====
section
/-!
DEFINITION. The commands of the power manager (spec/14, R364–R383).
-/

namespace Sys2Proof.Machine

/-- A write of PMU_CFG, PMU_WEN, PMU_WTMR or PMU_DOMCTL: OWNER or ZK, or any master while OWNER is 0 (spec/14, Register
map). -/
def State.pmuOwned (s : State) (m : Master) (f : State → State) : State :=
  if ownerOk (s.fld PMU_CFG_OWNER) m || m == .zk then f s else s.raiseBit PMU_IRQ_CFG_VIOL

/-! Requests and sleep entry (spec/14, R371–R374). -/

/-- A write of PMU_REQ with GO. -/
def State.pmuRequestBy (s : State) (m : Master) (tgt : Nat) : State :=
  s.access m PMU_REQ none fun t => t.pmuRequest (t.epOf m) tgt

def execPmuRequest (m : Master) (tgt : Fin 4) (s : State) : Out := .next (s.pmuRequestBy m tgt)

/-- The conditions of PREPARE hold: the entry passes its point of no return. -/
def execPrepareDone (s : State) : Out :=
  .next (if s.pmuPhase == phPrepare && s.prepareReady then s.pointNoReturn else s)

/-- PREPMAX ms pass before they hold. -/
def execPrepareTimeout (s : State) : Out :=
  .next (if s.pmuPhase == phPrepare && !s.prepareReady then s.prepareEnd istatExpired else s)

def execSleepEntryDone (s : State) : Out := .next (if s.pmuPhase == phEnter then s.sleepDone else s)

/-! Wakes (spec/14, R375–R380). -/

/-- A wake source acts with its DETAIL; FS264 never does (R375). -/
def execWakeSource (src : Fin 7) (detail : BitVec 9) (s : State) : Out :=
  .next (if src == 6 && detail == 264 then s else s.pmuWake src detail.toNat)

/-- The cells open: the domains but NV, and NET unless NETOFF is 1, are READY (R366, R377; spec/07, R199, R209):
counters and NTU are advanced, PARK rules end, the clock is the one the wake found. -/
def State.cellsOpen (s : State) : State :=
  let n := (s.slowCount + 2 ^ 48 - s.pmu.stopAt) % 2 ^ 48
  let s := s.put PMU_DOMSTAT_READY (s.fld PMU_DOMSTAT_READY ||| (if s.flag PMU_DOMCTL_NETOFF then 0xCF else 0xDF))
  let s := if s.pmu.wakeFrom == psPark then
      let s := s.raiseBit SYS_CLKSTAT_PLL_LOCK
      if s.pmu.xtalLate then s else (s.raiseBit SYS_CLKSTAT_XTAL_OK).setDegraded false
    else s
  let s : State := { s.putB SYS_CLKSTAT_PLOC false with pmu := { s.pmu with pcoreLimp := false, supplies := false } }
  ((s.gtResumeAll n).ntuWake n).hswEvalAll

/-- The woken domains are READY and the clock is locked: a WAKE bootstrap starts. RESET_N still low then holds the L-die in
reset until its release, which starts the bootstrap (spec/15, R399). -/
def State.wakeReady (s : State) : State :=
  if s.pmuPhase == phWaking && s.pmu.supplies then
    let s := s.cellsOpen.setPhase phBoot
    if s.sys.pinLow then
      let s := ((s.put BSQ_STAT_KIND bkWake).put BSQ_STAT_STATE bsReset).raiseBit SYS_RSTCAUSE_PIN
      { s with sys := { s.sys with inReset := true } }
    else s.bootStart bkWake
  else s

def execWakeDomainsReady (s : State) : Out := .next s.wakeReady

/-- The XTAL is not ready 5 ms after the start of a wake from PARK (R378). -/
def State.xtalTimeout (s : State) : State :=
  if s.pmuPhase == phWaking && s.pmu.wakeFrom == psPark then
    { s.setDegraded true with pmu := { s.pmu with xtalLate := true } }
  else s

def execXtalStartTimeout (s : State) : Out := .next s.xtalTimeout

/-- A supply of the wake is not in regulation within 2 ms (R379). -/
def State.supplyFail (s : State) : State :=
  if s.pmuPhase == phWaking && s.pmu.supplies then
    let s : State := { s with pmu := { s.pmu with supplies := false } }
    if 4 ≤ s.fld PMU_STAT_ATTEMPTS then s.wakeFail else s
  else s

def execWakeSupplyFail (s : State) : Out := .next s.supplyFail

/-- The next attempt, 10 ms after the start of the previous one (R379). -/
def State.attemptRetry (s : State) : State :=
  if s.pmuPhase == phWaking && !s.pmu.supplies then
    { s.incSat PMU_STAT_ATTEMPTS with pmu := { s.pmu with supplies := true } }
  else s

def execWakeAttemptRetry (s : State) : Out := .next s.attemptRetry

/-- LIMP_N goes low in PARK (R380). -/
def execParkLimpTrigger (s : State) : Out :=
  .next (if s.pstate == psPark then
      State.limpTrigger { s with pdi := { s.pdi with limpNHigh := false } } 1 istatAbortedFault
    else s)

/-! Domains (spec/14, R368). -/

/-- The NV domain has been idle for NVIDLE µs. -/
def State.nvIdle (s : State) : State :=
  let ready := s.fld PMU_DOMSTAT_READY
  if s.flag PMU_DOMCTL_NVAUTO && ready.testBit 5 && (List.range 8).all (fun e => (s.nvBusy e).isNone) then
    (s.put PMU_DOMSTAT_READY (ready - 0x20)).fcuClamp
  else s

def execNvIdleOff (s : State) : Out := .next s.nvIdle

/-- Every CAN and LIN channel is OFF, and ESW and GWE are disabled. -/
def State.netUnused (s : State) : Bool :=
  (List.range 8).all (fun n => (s.cn n).mode == canOff && !s.flag (LIN_CFG_EN n)) &&
  !s.flag ESW_CTL_EN && !s.flag GWE_CTL_EN

/-- The NET domain goes off: its registers and routes are retained, the MAC table and the gateway's queues are lost. -/
def State.netOff (s : State) : State :=
  let ready := s.fld PMU_DOMSTAT_READY
  let s := s.each (List.range 8) fun n t => t.setCn n { t.cn n with gwQueue := [], gwFails := 0, gwNotes := [], noteFails := 0 }
  { (s.put PMU_DOMSTAT_READY (if ready.testBit 4 then ready - 0x10 else ready)).fcuClamp with
    gwe := { s.gwe with mac := [], ingress := [], port := [] } }

/-- A write of NETOFF. -/
def State.netoffWrite (s : State) (b : Bool) : State :=
  if !b then s.putB PMU_DOMCTL_NETOFF false
  else if s.netUnused then (s.putB PMU_DOMCTL_NETOFF true).netOff
  else s.raiseBit PMU_IRQ_CFG_VIOL

def State.netoffBy (s : State) (m : Master) (b : Bool) : State :=
  s.access m PMU_DOMCTL none fun t => t.pmuOwned m fun u => u.netoffWrite b

def execNetoffWrite (m : Master) (s : State) : Out := .next (s.netoffBy m true)

/-! Wake timer (spec/14, PMU_WTMR). -/

/-- A write of PMU_WTMR that takes effect. -/
def State.wtmrSet (s : State) (v : BitVec 64) : State :=
  let alarm := PMU_WTMR_ALARM.of v
  let s := s.put PMU_WTMR_ALARM alarm
  if alarm ≤ s.slowCount then (s.putB PMU_WTMR_EN false).raiseBit PMU_IRQ_ALARM_ERR
  else s.put PMU_WTMR_EN (PMU_WTMR_EN.of v)

def State.wtmrWrite (s : State) (m : Master) (a : Access) (v : BitVec 64) : State :=
  s.access m PMU_WTMR none fun t =>
    let r := t.splitWrite m PMU_WTMR a (t.reg PMU_WTMR) v
    match r.2 with
    | some x => r.1.pmuOwned m fun u => u.wtmrSet x
    | none => r.1

def execWtmrWrite (m : Master) (a : Access) (v : BitVec 64) (s : State) : Out := .next (s.wtmrWrite m a v)

/-- COUNT reaches ALARM. -/
def execWakeTimerAlarm (s : State) : Out :=
  .next (if s.flag PMU_WTMR_EN && s.fld PMU_WTMR_ALARM ≤ s.slowCount then (s.putB PMU_WTMR_EN false).pmuWake 5 0 else s)

end Sys2Proof.Machine
end

