-- ==== Sys2Proof/Machine/Sys.lean ====
section
/-!
DEFINITION. The commands of supplies, clocks, resets and watchdogs (spec/15, R384–R406).
-/

namespace Sys2Proof.Machine

/-- A write of an RW field of SYS (spec/15, Register map). -/
def State.sysOwned (s : State) (m : Master) (f : State → State) : State :=
  if ownerOk (s.fld SYS_CLKCFG_OWNER) m then f s else s.raiseBit SYS_IRQ_CFG_VIOL

/-! Power-on reset (spec/15, R395, R401). -/

def execPowerOnReset (s : State) : Out := .next s.powerOnReset

/-- The registers that hold the words of the OTP cells (R405). -/
def otpWords : List Nat := [ID_LDIE, ID_LLOT, ID_PDIE, ID_PLOT, ID_SERIAL] ++ (List.range 128).map ID_CERT

/-- The OTP cells are read (R405). Which words cannot be corrected is a free value: one that cannot reads 0 until they are read
again, sets OTPERR and raises FS277 (log entry 105). -/
def State.otpRead (s : State) : State :=
  let a := s.draw
  let b := a.2.draw
  let c := b.2.draw
  let bad := a.1.toNat + 2 ^ 64 * b.1.toNat + 2 ^ 128 * c.1.toNat
  let words := (otpWords.zipIdx.filter fun w => bad.testBit w.2).map (·.1)
  let s : State := { c.2 with sys := { c.2.sys with otpBad := words } }
  s.when (!words.isEmpty) fun t => (t.raiseBit ID_STAT_OTPERR).raiseL 277

/-- The key store's entries are checked (spec/16, R417). Which fail is a free value: a failed entry acts as EMPTY from then on,
sets KSERR and raises FS280 (log entry 112). -/
def State.keysRead (s : State) : State :=
  let a := s.draw
  let bad := fun i => a.1.toNat.testBit i
  let k := a.2.sec.keys
  let dev := bad 0 && k.device.isSome
  let image := (List.range 4).filter fun j => bad (1 + j) && k.imageState j != 0
  let access := (List.range 8).filter fun j => bad (5 + j) && (k.slot j).1 != 0
  if !dev && image.isEmpty && access.isEmpty then a.2
  else
    (a.2.setKeys { k with
      device := if dev then none else k.device
      image := image.foldl (fun t j => tset (0, []) t j (0, [])) k.image
      access := access.foldl (fun t j => tset (0, 0, 0) t j (0, 0, 0)) k.access
      bad := true }).raiseL 280

/-- The reset is released, the XTAL and PLL start, CK_SLOW runs from its RC (R394), the P-die's identity crosses the link
(R405), and a COLD bootstrap starts; while RESET_N is low the L-die stays in reset (R399). -/
def State.porRelease (s : State) : State :=
  if s.sys.por then
    let s : State := { s with sys := { s.sys with por := false, inReset := true } }
    let s := ((s.raiseBit SYS_CLKSTAT_XTAL_OK).raiseBit SYS_CLKSTAT_PLL_LOCK).raiseBit SYS_CLKSTAT_SLOWSRC
    (s.otpRead.keysRead.raiseBit ID_STAT_PVALID).bootAfterReset
  else s

def execPorRelease (s : State) : Out := .next s.porRelease

/-! Rails (spec/15, R388). -/

/-- The P-die declares the L-die lost (spec/03, R103, R109). -/
def State.limpLost (s : State) : State :=
  (((s.putB PDI_STAT_LINK_UP false).raiseBit PDI_IRQ_LINK).raiseP 70).limpApply 2 istatAbortedFault

/-- A rail's brown-out: the announced reset, or, where the rail collapses too fast for the announcement, a loss of the L-die,
whose WARM bootstrap follows the rail's return. -/
def State.brownout (s : State) (fast : Bool) : State :=
  let s := (s.raiseBit SYS_SUPPLY_BO).raiseL 276
  if fast then (((s.raiseBit SYS_RSTCAUSE_LOST).ldieReset false).limpLost).bootAfterReset
  else (s.raiseBit SYS_RSTCAUSE_BOD).ldieRestart

/-- A power-on reset absorbs it but for its cause (R398). -/
def execRailBrownout (fast : Bool) (s : State) : Out :=
  .next (if s.sys.por then s.raiseBit (if fast then SYS_RSTCAUSE_LOST else SYS_RSTCAUSE_BOD) else s.brownout fast)

/-! Clocks (spec/15, R390–R394). -/

/-- No XTAL edge for 2 µs in RUN, DOZE or HOLD. -/
def State.xtalLoss (s : State) : State :=
  if psPark ≤ s.pstate || !s.flag SYS_CLKSTAT_XTAL_OK then s
  else
    let s := s.putB SYS_CLKSTAT_XTAL_OK false
    if s.flag PMU_STAT_CLK_DEGRADED then s
    else ((s.setDegraded true).incSat SYS_CLKSTAT_XLOSS |>.raiseBit SYS_IRQ_XLOSS).raiseL 266

def execXtalLoss (s : State) : Out := .next s.xtalLoss

/-- The PLL loses lock: FS267 and an announced L-die reset, whose basting hold runs on until the PLL relocks or the hold
expires (R447 of spec/17); the bootstrap waits for the relock. -/
def State.pllUnlock (s : State) (relock : Bool) : State :=
  if relock then
    if s.sys.pllWait then
      ({ s.raiseBit SYS_CLKSTAT_PLL_LOCK with sys := { s.sys with pllWait := false } } : State).bootAfterReset
    else s
  else if s.flag SYS_CLKSTAT_PLL_LOCK then
    let s : State := { s.putB SYS_CLKSTAT_PLL_LOCK false with sys := { s.sys with pllWait := true } }
    ((s.raiseL 267).raiseBit SYS_RSTCAUSE_PLL).ldieReset true
  else s

def execPllUnlock (relock : Bool) (s : State) : Out := .next (s.pllUnlock relock)

def execCkpwrLoss (s : State) : Out :=
  .next (if s.flag SYS_CLKSTAT_PLOC then s else (s.raiseBit SYS_CLKSTAT_PLOC).raiseP 269)

def execCkpwrReturn (s : State) : Out := .next (s.putB SYS_CLKSTAT_PLOC false)

/-- The CK_SLOW crystal has run 1,024 cycles with no gap; after a failure CK_SLOW stays on the RC. -/
def execSlowXtalReady (s : State) : Out :=
  .next (if s.flag SYS_CLKCFG_SLOWSEL || s.sys.slowFailed then s else s.putB SYS_CLKSTAT_SLOWSRC false)

/-- The CK_SLOW crystal fails. -/
def State.slowFail (s : State) : State :=
  if s.flag SYS_CLKCFG_SLOWSEL || s.sys.slowFailed then s
  else
    let s := ((s.raiseBit SYS_CLKSTAT_SLOWSRC).raiseBit SYS_CLKSTAT_SLOW_DEGRADED).putB SYS_CLKSTAT_DISC false
    ({ s.raiseBit SYS_IRQ_SLOWFAIL with sys := { s.sys with slowFailed := true } } : State).raiseL 268

def execSlowXtalFail (s : State) : Out := .next s.slowFail

/-- The 1 ms measurement of CK_RC: DISC reads 1 while CK_RC is trimmed. -/
def execRcTrim (s : State) : Out :=
  .next (s.putB SYS_CLKSTAT_DISC (s.flag SYS_CLKCFG_RCDISC && !s.flag SYS_CLKSTAT_SLOWSRC && !s.flag SYS_CLKCFG_SLOWSEL))

/-! Resets (spec/15, R395–R399). -/

/-- VIO is up: in RUN and DOZE, in a bootstrap, and until an entry to HOLD or PARK has ended (R374, R387). -/
def State.vioOn (s : State) : Bool := !s.sys.por && (s.pmuPhase == phBoot || decide (s.fld PMU_STAT_STATE ≤ 1))

/-- RSTOUT_N is low: in an L-die reset, from a bootstrap's start until the core release, and from the point of no return of an
entry to HOLD or PARK while VIO remains; without VIO, and in BOOT_FAIL, it is high-impedance (R399; spec/18, R459). -/
def State.rstOutLow (s : State) : Bool :=
  s.vioOn && (s.sys.inReset || (s.pmuPhase == phBoot && !s.bootFailed) || decide (2 ≤ s.pstate))

def execLdieReset (s : State) : Out := .next s.ldieRestart

/-- The L-die is powered down. -/
def State.ldieDown (s : State) : Bool :=
  s.pmuPhase != phBoot && s.pmuPhase != phEnter && 2 ≤ s.fld PMU_STAT_STATE

/-- RESET_N is low for 1 µs, or is released (R399); in HOLD and PARK it only stands at its level, which the next wake finds, and
a power-on reset absorbs it but for its cause (R398). -/
def State.resetPin (s : State) (low : Bool) : State :=
  if low then
    let t : State := { s with sys := { s.sys with pinLow := true } }
    if s.ldieDown then t else (t.raiseBit SYS_RSTCAUSE_PIN).ldieReset true
  else ({ s with sys := { s.sys with pinLow := false } } : State).bootAfterReset

def execResetPin (low : Bool) (s : State) : Out := .next (s.resetPin low)

/-- A write of SYS_RSTCMD: from OWNER or ZS, with the key; the widest reset acts, and every cause is recorded (R398). -/
def State.rstCommand (s : State) (m : Master) (key mask : Nat) (ldie : Bool) : State :=
  if !(m == .zs || (s.fld SYS_CLKCFG_OWNER != 0 && s.fld SYS_CLKCFG_OWNER == s.epOf m)) || key != 0xD5 then
    s.raiseBit SYS_IRQ_CFG_VIOL
  else
    let es := (List.range 8).filter fun e => 1 ≤ e && mask.testBit e
    if ldie then
      let s := s.raiseBit SYS_RSTCAUSE_SWRST
      let s := s.each es fun e t =>
        if e == 7 then t.raiseBit SYS_RSTCAUSE_HOST
        else t.put SYS_RSTCAUSE_CORE (t.fld SYS_RSTCAUSE_CORE ||| 2 ^ (t.coreHome e - 1))
      s.ldieRestart
    else s.each es fun e t => t.coreReset e

def State.rstCommandBy (s : State) (m : Master) (key mask : Nat) (ldie : Bool) : State :=
  s.access m SYS_RSTCMD none fun t => t.rstCommand m key mask ldie

def execSysLdieReset (m : Master) (key : BitVec 8) (s : State) : Out := .next (s.rstCommandBy m key.toNat 0 true)

/-- The core reset of endpoint `e` + 1, or of the host port as endpoint 7. -/
def execCoreReset (m : Master) (key : BitVec 8) (e : Fin 7) (s : State) : Out :=
  .next (s.rstCommandBy m key.toNat (2 ^ (e.val + 1)) false)

/-! Watchdogs (spec/15, R400). -/

/-- The basting hold stops the watchdogs, unless a row further down, which has them run, applies with it: a hand-over, a
self-test or over-voltage (R406). -/
def State.holdStopsWd (s : State) : Bool := s.flag PDI_STAT_HOLD && !s.hoRuns && s.pdi.tests.isEmpty && !s.overVolt

/-- A watchdog counts: not in HOLD and PARK, an L-die reset, a bootstrap or the basting hold (R400, R406). -/
def State.wdRuns (s : State) (k : Nat) : Bool :=
  (s.wdog k).running && decide (s.pstate ≤ 1) && !s.bsq.running && !s.sys.inReset && !s.holdStopsWd

/-- An expiry and its action. -/
def State.wdExpire (s : State) (k : Nat) : State :=
  let s := (s.put SYS_RSTCAUSE_WD (s.fld SYS_RSTCAUSE_WD ||| 2 ^ k)).raiseL (272 + k)
  match s.fld (SYS_WD_CFG_ACT k) with
  | 0 => s.setWdog k { running := true, since := s.now }
  | 1 => (s.setWdog k { waitRelease := true }).coreReset (s.fld (SYS_WD_CFG_OWNER k))
  | _ => s.ldieRestart

/-- Milliseconds since the last accepted kick or the start. -/
def State.wdAge (s : State) (k : Nat) : Nat := (s.now - (s.wdog k).since) / 125000

/-- SYS_WDk_KICK.LEFT: milliseconds to the expiry, a started one counting whole. -/
def State.wdLeft (s : State) (k : Nat) : Nat :=
  if s.wdRuns k then (max 1 (s.fld (SYS_WD_CFG_TMO k)) * 125000 - (s.now - (s.wdog k).since) + 124999) / 125000 else 0

/-- A kick: accepted from the owner in the open window with the value whose turn it is; any other expires the watchdog. -/
def State.wdKick (s : State) (m : Master) (k v : Nat) : State :=
  let w := s.wdog k
  if !s.wdRuns k then s
  else if s.epOf m == s.fld (SYS_WD_CFG_OWNER k) && s.fld (SYS_WD_CFG_WIN k) ≤ s.wdAge k &&
      v == (if w.nextA5 then 0xA5 else 0x5A) then
    s.setWdog k { w with since := s.now, nextA5 := !w.nextA5 }
  else s.wdExpire k

def State.wdKickBy (s : State) (m : Master) (k v : Nat) : State :=
  s.access m (SYS_WD_KICK k) none fun t => t.wdKick m k v

def execWdKick (m : Master) (k : Fin 4) (v : BitVec 8) (s : State) : Out := .next (s.wdKickBy m k v.toNat)

/-- TMO ms of silence. -/
def execWdExpire (k : Fin 4) (s : State) : Out := .next (if s.wdRuns k then s.wdExpire k else s)

end Sys2Proof.Machine
end

