-- ==== Sys2Proof/Machine/Txn.lean ====
section
/-!
DEFINITION. The commands of the TXN block (spec/01).
-/

namespace Sys2Proof.Machine

/-- A read of TXN_ALLOC (spec/01, R21): the 64-bit and low-half reads allocate the lowest FREE handle; during a
bootstrap every read returns 0xFF (spec/13, R356). -/
def State.allocRead (s : State) (m : Master) (a : Access) : State :=
  match a with
  | .hi32 => s.answer 0
  | _ =>
    if s.fld BSQ_STAT_STATE != 5 then s.answer 0xFF
    else
      match allHandles.find? (fun h => s.txState h == txFree) with
      | none => s.answer 0xFF
      | some h => ((s.put (TXN_STAT_STATE h) txStaging).put (TXN_CTL_OWNER h) m.num).answer h

def execTxnAllocRead (m : Master) (a : Access) (s : State) : Out :=
  .next (s.access m TXN_ALLOC none fun t => t.allocRead m a)

/-- The master may write the handle: its owner endpoint (spec/01, R23), and the bootstrap sequencer under no owner rule
(spec/13, R348). -/
def State.ownsHandle (s : State) (m : Master) (h : Nat) : Bool := m == .bsq || s.fld (TXN_CTL_OWNER h) == m.num

/-- A write of TXN_FREE (spec/01, R23, R25). -/
def State.freeWrite (s : State) (m : Master) (h : Nat) : State :=
  if !s.ownsHandle m h then s.raiseBit TXN_IRQ_ACCESS_VIOL
  else
    let st := s.txState h
    if st == txStaging || st == txDone || st == txRefused then s.freeHandle h else s

def execTxnFreeWrite (m : Master) (h : Fin 32) (s : State) : Out :=
  .next (s.access m TXN_FREE none fun t => t.freeWrite m h)

/-- A write of a staging slot, TXN_CTLh or TXN_TIMEh (spec/01, R23, R24). A COUNT above 64 leaves the COUNT field as
it is (log entry 20). -/
def State.stagingWrite (s : State) (m : Master) (h : Nat) (r : StagingReg) (v : BitVec 64) : State :=
  let st := s.txState h
  if !s.ownsHandle m h || !(st == txStaging || st == txDone || st == txRefused) then
    s.raiseBit TXN_IRQ_ACCESS_VIOL
  else
    let s := s.put (TXN_STAT_STATE h) txStaging
    match r with
    | .slot i => s.put (TXN_ITEM_ITEM h i) v.toNat
    | .time => s.put (TXN_TIME_TIME h) v.toNat
    | .ctl =>
      let take := fun (f : Fld) (t : State) => t.put f (f.of v)
      let s := take (TXN_CTL_GROUP h) s
      let s := take (TXN_CTL_CLAST h) (take (TXN_CTL_CLAIM h) (take (TXN_CTL_ALIGN h) s))
      let s := take (TXN_CTL_EVSEL h) (take (TXN_CTL_EVGT h) (take (TXN_CTL_MODE h) s))
      if (TXN_CTL_COUNT h).of v ≤ 64 then take (TXN_CTL_COUNT h) s else s

/-- A write of TXN_TIMEh by halves (spec/00, R7; log entry 42): the write that takes effect is judged as a whole. -/
def State.timeWrite (s : State) (m : Master) (h : Nat) (a : Access) (v : BitVec 64) : State :=
  let r := s.splitWrite m (TXN_TIME h) a (s.reg (TXN_TIME h)) v
  match r.2 with
  | none => r.1
  | some x => r.1.stagingWrite m h .time x

def execTxnStagingWrite (m : Master) (h : Fin 32) (r : StagingReg) (v : BitVec 64) (s : State) : Out :=
  .next (s.access m TXN_FREE none fun t =>
    match r with
    | .time => t.timeWrite m h .w64 v
    | _ => t.stagingWrite m h r v)

/-- A COMMIT write (spec/01, R23, R28). -/
def State.commitWrite (s : State) (m : Master) (h : Nat) : State :=
  if !s.ownsHandle m h then s.raiseBit TXN_IRQ_ACCESS_VIOL
  else if s.txState h == txStaging then s.commitHandle h false else s

def execCommit (m : Master) (h : Fin 32) (s : State) : Out :=
  .next (s.access m TXN_FREE none fun t => t.commitWrite m h)

/-- Every item of a validated transaction has reached its shadow; the handles of a claim set arm together (spec/01,
R34, R53). -/
def execTxnArmed (h : Fin 32) (s : State) : Out :=
  if s.txState h == txValidating && (s.hnd h).shadow && s.flag PDI_STAT_LINK_UP && !s.flag SYS_CLKSTAT_PLOC then
    .next (s.each (s.claimMates h) fun g t => t.armHandle g)
  else .next s

/-- The die interface reports an error during a shadow transfer (spec/01, R35); `crc` says that a frame failed its
CRC, which LINK_ERR counts (spec/03, R102). -/
def execShadowDiscard (h : Fin 32) (crc : Bool) (s : State) : Out :=
  if s.txState h == txValidating && (s.hnd h).shadow then
    let s := s.when crc fun t => t.incSat PDI_STAT_LINK_ERR
    .next (s.each (s.claimMates h) fun g t => t.refuseAll g istatAbortedFault true)
  else .next s

/-- A double-bit error of the frame RAM is shifted as read: the manual does not say which bits of which word are wrong,
so that one word of the frame takes a free error pattern (spec/05, R162; log entry 88). -/
def State.shiftBad (s : State) (k : Nat) : State :=
  match (s.chain k).armed with
  | none => s
  | some (h, f, n, bits) =>
    let d := s.draw
    let e := d.2.draw
    let bad := (d.1.toNat <<< (64 * (e.1.toNat % max 1 ((n + 63) / 64)))) % 2 ^ n
    e.2.setChain k { s.chain k with armed := some (h, f, n, bits ^^^ bad) }

/-- The first `n` bits returned, the first of them highest, are the frame last latched on a chain, of `m` bits sent from bit
m − 1 down (spec/05, R158, R163). A frame longer than that one is compared in its first `m` bits: R163 does not say with what
the others are (DESIGN CHOICE, log entry 115). -/
def returnedMatches (returned n bits m : Nat) : Bool :=
  returned % 2 ^ n / 2 ^ (n - m) == bits % 2 ^ m / 2 ^ (m - n)

/-- A chain finishes its shift, with SCk_DO at frame bit 0: the returned bits are compared with the frame last latched, and a
double-bit frame error is recorded (spec/05, R159, R162, R163). The last shift of a MODE 0x0 handle is its point of no return
(spec/01, R38). -/
def execStitchShiftEnd (k : Fin 2) (returned : Nat) (ecc : Bool) (s : State) : Out :=
  match (s.chain k).armed with
  | none => .next s
  | some (h, _, n, bits) =>
    if s.fld (LED_SC_STAT_STATE k) != 2 then .next s
    else
      let bad := s.flag (LED_SC_CFG_VERIFY k) && (s.chain k).shifted &&
        match (s.chain k).last with
        | some (last, m) => !returnedMatches returned n last m
        | none => false
      let s := s.when bad fun t =>
        ((t.incSat (LED_SC_STAT_MISMATCH k)).raiseBit LED_IRQ_CHAIN_ERR).raiseL (162 + k)
      let s := s.when ecc fun t => ((t.shiftBad k).raiseBit LED_IRQ_FRAME_ECC).raiseL 164
      let sent := match (s.chain k).armed with
        | some (_, _, _, b) => b
        | none => bits
      let s := (s.put (LED_SC_STAT_STATE k) 3).setChain k { s.chain k with shifted := true, ck := false, dout := sent.testBit 0 }
      let left := (s.hnd h).shifting.filter (· != k.val)
      let done := left.isEmpty && s.fld (TXN_CTL_MODE h) == 0
      .next (s.setHnd h { s.hnd h with shifting := left, noRet := (s.hnd h).noRet || done })

/-- A timed transaction reaches its point of no return (spec/01, R38). -/
def execPointOfNoReturn (h : Fin 32) (s : State) : Out :=
  if s.txState h == txArmed && 2 ≤ s.fld (TXN_CTL_MODE h) && !(s.hnd h).noRet then
    if (s.flag (TXN_CTL_ALIGN h) || s.fld (TXN_CTL_MODE h) == 3) && s.timeErrorBad then
      .next (s.refuseAll h istatExpired true)
    else .next (s.setHnd h { s.hnd h with noRet := true })
  else .next s

/-- The commit edge of the handles that apply on one CK_PWR edge (spec/01, R39–R41). -/
def execCommitEdge (hs : List (Fin 32)) (s : State) : Out := .next (s.commitEdge (hs.map Fin.val))

/-- An item's 100 µs window ends: OK, or LATE after a late cancel (spec/01, R47, R50). -/
def execItemWindowEnd (h : Fin 32) (i : Fin 64) (s : State) : Out :=
  if (s.hnd h).window.contains i.val then
    .next (s.endItem h i (if (s.hnd h).lateCancel then istatLate else istatOk))
  else .next s

/-- A CANCEL write (spec/01, R23, R50, R51). -/
def State.cancelWrite (s : State) (m : Master) (h : Nat) : State :=
  if !s.ownsHandle m h then s.raiseBit TXN_IRQ_ACCESS_VIOL else s.cancelHandle h

def execTxnCancel (m : Master) (h : Fin 32) (s : State) : Out :=
  .next (s.access m TXN_FREE none fun t => t.cancelWrite m h)

/-- The first `n` node entries of the notice list (spec/01, R45). -/
def State.noticeNodes (s : State) (n : Nat) : List (BitVec 16) :=
  (List.range n).map fun i =>
    BitVec.ofNat 16 ((s.reg (TXN_NLIST (i / 4))).toNat >>> (16 * (i % 4)))

/-- A write of TXN_NTX with SEND (spec/01, R45; spec/09, R258): the gateway places the notice on the configured ports, and
where the list names this node, it comes back through the internal loopback, on the port code of the writer; none is sent
during recovery (spec/09, R260). -/
def State.noticeSend (s : State) (m : Master) (v : BitVec 64) : State :=
  let s := (s.put TXN_NTX_COUNT (TXN_NTX_COUNT.of v)).put TXN_NTX_GROUP (TXN_NTX_GROUP.of v)
  let n := s.fld TXN_NTX_COUNT
  if TXN_NTX_SEND.of v == 1 && 1 ≤ n && n ≤ 48 && !s.flag FCU_STAT_RECOV then
    let msg : Notice := ⟨BitVec.ofNat 16 (s.fld TXN_NTX_GROUP), BitVec.ofNat 32 (s.fld TXN_NTXTIME_TIME),
      BitVec.ofNat 14 (s.fld TXN_CFG_NODE), s.noticeNodes n⟩
    let s := s.send (.notice msg)
    let s := s.when s.netReadyDom fun t => t.gweSendNotice msg
    s.when (nodesName (s.fld TXN_CFG_NODE) (msg.nodes.map BitVec.toNat)) fun t =>
      t.noticeRx (if m == .host then 0x1F else 0x14) msg
  else s

def execTxnNtxSend (m : Master) (v : BitVec 64) (s : State) : Out :=
  .next (s.access m TXN_FREE none fun t => t.noticeSend m v)

/-- A commit notice arrives on a port (spec/01, R43); while NET is off its edge to FAB is clamped to no notice (spec/14,
R370). -/
def execCommitNoticeRx (port : Fin 32) (n : Notice) (s : State) : Out :=
  .next (if s.netReadyDom then s.noticeRx port n else s)

end Sys2Proof.Machine
end

