-- ==== Sys2Proof/Machine/Vlv.lean ====
section
/-!
DEFINITION. The commands of the valve banks (spec/04).
-/

namespace Sys2Proof.Machine

/-- A conducting low-side switch: BOOST, PEAK or HOLD (spec/04, R121). -/
def State.vlvConducts (s : State) (c : Nat) : Bool := s.phase c == phBoost || s.phase c == phPeak || s.phase c == phHold

/-- A domain's turn on a CK_PWR edge, with VBST as it stands (spec/04, R120, R125). -/
def execBoostStart (b : Fin 4) (vbst : BitVec 16) (s : State) : Out :=
  .next ((s.setVbst vbst.toNat).boostService (s.domain b))

/-- BOOST_I of the running profile in 50 mA: at most 12 A, 20 A for the ganged channel (spec/04, R130). -/
def State.boostI (s : State) (c : Nat) : Nat :=
  min (if s.isGanged c then 400 else 240) (Fld.of (VLV_PROF_A_BOOST_I 0) (s.val c).profA)

/-- A boost ends (spec/04, R121, R134): `reached` says that the current came to BOOST_I; the current is in 5 mA, the
length in µs. The domain is free for the next channel on that edge (R125). -/
def execBoostEnd (c : Fin 24) (reached : Bool) (imeas : BitVec 12) (tboost : BitVec 16) (s : State) : Out :=
  let l := s.vlvLead c
  if s.phase l == phBoost then
    let next := if Fld.of (VLV_PROF_A_PEAK_T 0) (s.val l).profA == 0 then phHold else phPeak
    let s := (s.put (VLV_DIAG_TBOOST l) tboost.toNat).put (VLV_STAT_IMEAS l) imeas.toNat
    let s := s.put (VLV_STAT_PHASE l) next
    let s :=
      if reached then s.vlvEvidence l (if tboost.toNat < 20 then 3 else 1)
      else if imeas.toNat < s.boostI l then s.vlvEvidence l 2
      else s
    .next (s.boostService (s.domain (l / 6)))
  else .next s

/-- PEAK_T passes (spec/04, R121). -/
def execPeakEnd (c : Fin 24) (s : State) : Out :=
  let l := s.vlvLead c
  if s.phase l == phPeak then .next (s.put (VLV_STAT_PHASE l) phHold) else .next s

/-- HOLD_T passes (spec/04, R122). -/
def execHoldTimeEnd (c : Fin 24) (s : State) : Out :=
  let l := s.vlvLead c
  if s.phase l == phHold && Fld.of (VLV_PROF_A_HOLD_T 0) (s.val l).profA != 0 then
    .next (s.enterRelease l (s.slowRelease l))
  else .next s

/-- The release current falls below 20 mA (spec/04, R121). -/
def execValveReleaseDone (c : Fin 24) (s : State) : Out :=
  let l := s.vlvLead c
  if s.phase l == phRelease then
    let s := s.markOff .vlv l
    .next ((s.put (VLV_STAT_PHASE l) phOff).setVal l { s.val l with freewheel := false })
  else .next s

/-- A queued item passes its defer limit (spec/04, R126). -/
def execDeferExpire (c : Fin 24) (s : State) : Out := .next (s.expireBoost (s.vlvLead c))

/-- The clamp energy of a release reaches its limit (spec/04, R123). -/
def execClampEnergyLimit (c : Fin 24) (s : State) : Out :=
  let l := s.vlvLead c
  if s.phase l == phRelease then .next (s.setVal l { s.val l with freewheel := true }) else .next s

/-- VBST is above 62 V (spec/04, R120). -/
def execVbstOvervoltage (vbst : BitVec 16) (s : State) : Out :=
  if 6200 < vbst.toNat then
    let s := s.setVbst vbst.toNat
    let s : State := { s with vlv := { s.vlv with regStopped := true } }
    .next (((s.raiseBit VLV_BSTAT_OV).raiseBit VLV_IRQ_BST_FAULT).raiseP 108)
  else .next (s.setVbst vbst.toNat)

/-- VBST falls to 60 V after an over-voltage (spec/04, R120). -/
def execVbstOvRecover (vbst : BitVec 16) (s : State) : Out :=
  let s := s.setVbst vbst.toNat
  if vbst.toNat ≤ 6000 then .next { s with vlv := { s.vlv with regStopped := false } } else .next s

/-- With BEN = 1, VBST has been below VMIN for 10 ms (spec/04, R120). -/
def execVbstUndervoltage (vbst : BitVec 16) (s : State) : Out :=
  let s := s.setVbst vbst.toNat
  if s.flag VLV_BOOST_BEN && !s.vbstReady then
    .next (((s.raiseBit VLV_BSTAT_UV).raiseBit VLV_IRQ_BST_FAULT).raiseP 108)
  else .next s

/-- The coil models step (spec/04, R131): every 1 ms, every 100 ms in PARK. A partner has no model of its own
(R130). -/
def execCoilModelStep (tdie : BitVec 16) (sense : List VlvSense) (s : State) : Out :=
  let td : Rat := (sgn 16 tdie.toNat : Rat) / 64
  let dt := if s.pstate == 3 then 100 else 1
  .next (s.each (List.range 24) fun c t =>
    if t.vlvLead c != c then t
    else
      let x := sense.getD c ⟨0, 0⟩
      (t.put (VLV_STAT_IMEAS c) x.imeas.toNat).coilStep c x.ms dt td)

/-- The coil resistance is measured in HOLD (spec/04, R131), in 4 mΩ. -/
def execCoilRmeas (c : Fin 24) (rmeas : BitVec 16) (s : State) : Out :=
  let l := s.vlvLead c
  if s.phase l == phHold then
    let r20 : Rat := (max 1 (s.fld (VLV_COIL_RC20 l)) : Nat)
    let t : Rat := 20 + ((rmeas.toNat : Rat) / r20 - 1) / alphaCu
    .next (((s.put (VLV_STAT_RMEAS l) rmeas.toNat).setVal l { s.val l with tCoil := t }).coilLimits l)
  else .next s

/-- The channel current is above the over-current limit (spec/04, R133, R134). -/
def execVlvOcTrip (c : Fin 24) (s : State) : Out :=
  let l := s.vlvLead c
  if s.phase l != phOff then .next ((s.vlvTrip l 1 false).vlvEvidence l 3) else .next s

/-- A bank's feed current is above 30 A for 10 µs (spec/04, R133): every channel of the bank, or of the ganged pair,
goes off through its clamp. Of a ganged pair only the measured bank shows FEED and FS104 + b; the rule does not say which
do (DESIGN CHOICE, log entry 101). -/
def execVlvFeedTrip (b : Fin 4) (s : State) : Out :=
  let d := s.domain b
  let s := (s.raiseBit (VLV_IRQ_FEED.bit b)).raiseP (104 + b)
  let s := s.each (s.domainBanks d) fun k t => t.raiseBit (VLV_BANK_FWAIT k)
  .next (s.each (s.domainChans d) fun c t => if t.vlvLead c == c then t.vlvOff c 2 false else t)

/-- The 100 ms feed-trip wait ends (spec/04, R133). -/
def execFeedTripWaitEnd (b : Fin 4) (s : State) : Out :=
  let d := s.domain b
  let s := s.each (s.domainBanks d) fun k t => t.putB (VLV_BANK_FWAIT k) false
  .next (s.boostService d)

/-- A conducting clamp reaches 170 °C (spec/04, R133). -/
def execClampOtTrip (c : Fin 24) (s : State) : Out :=
  let l := s.vlvLead c
  if s.phase l == phRelease && !(s.val l).freewheel then .next (s.vlvTrip l 3 true) else .next s

/-- A conducting switch reaches 170 °C (spec/04, R133). -/
def execVlvOtTrip (c : Fin 24) (s : State) : Out :=
  let l := s.vlvLead c
  if s.vlvConducts l then .next (s.vlvTrip l 4 true) else .next s

/-- The off-state check (spec/04, R134): whether the land is below 2.0 V with the pull-down off, and with it on. A low
land with the pull-down off is evidence of a switch only while the feed stands on VBAT; a low land with it on is evidence of
an open load wherever the feed stands; a check that finds neither passes. -/
def execVlvOffdiag (c : Fin 24) (lowOff lowOn : Bool) (s : State) : Out :=
  let l := s.vlvLead c
  if s.flag (VLV_CFG_OFFDIAG l) && s.phase l == phOff then
    .next (s.vlvEvidence l (if lowOff && s.feedPos (l / 6) == .vbat then 5 else if lowOn then 2 else 1))
  else .next s

/-- A hold or peak current stays below 90 % of its target at full duty (spec/04, R134). -/
def execHoldLowDetect (c : Fin 24) (s : State) : Out :=
  let l := s.vlvLead c
  if s.phase l == phPeak || s.phase l == phHold then .next (s.vlvEvidence l 4) else .next s

/-- A write of VLV_DIAGc.DCLR by the owner; at a partner's address by the lead's, since the partner's VLV_CFGc is ignored
(spec/04, R130, R134; spec/00, R482). -/
def State.vlvDclr (s : State) (m : Master) (c : Nat) : State :=
  let l := s.vlvLead c
  if ownerOk (s.fld (VLV_CFG_OWNER l)) m then s.put (VLV_DIAG_DSTATE l) 0 else s.raiseBit VLV_IRQ_CFG_VIOL

def execVlvDclr (m : Master) (c : Fin 24) (s : State) : Out :=
  .next (s.access m (VLV_STAT c) none fun t => t.vlvDclr m c)

end Sys2Proof.Machine
end

