-- ==== Sys2Proof/Machine/RegRead.lean ====
section
/-!
DEFINITION. Reads of registers (spec/00, R4–R11): what each register shows, block by block, where a field is the
state of something else, and the reads that do something.
-/

namespace Sys2Proof.Machine

/-- A number with bit `i` of `l` wherever `f i` holds. -/
def bitsWhere (l : List Nat) (f : Nat → Bool) : Nat := (l.filter f).foldl (fun n i => n + 2 ^ i) 0

/-- A quantity in a register's unit, rounded down or up as the free value says (log entry 11), staying at the field's
largest value. -/
def shownUnits (width : Nat) (q : Rat) : Nat :=
  min (2 ^ width - 1) (q.floor + (if Config.roundUp q && q != (q.floor : Rat) then 1 else 0)).toNat

/-! What registers show. -/

/-- TXN_BUSY (spec/01). -/
def State.txnShown (s : State) (a : Nat) : BitVec 64 :=
  if a == TXN_BUSY then
    BitVec.ofNat 64 (bitsWhere allHandles (fun h => s.txState h == txArmed || s.txState h == txWaitNotice) * 2 ^ 32 +
      bitsWhere allHandles fun h => s.txState h != txFree)
  else s.reg a

/-- The channel whose HSW_STATn, HSW_TEMPn and HSW_CURn a channel's read: its pair's even one (spec/02, R63), and a
replaced channel's spare (spec/03, R114). -/
def State.hswShows (s : State) (n : Nat) : Nat :=
  let l := s.hswLead n
  if s.flag (HSW_DSTAT_SUBST l) then s.fld (HSW_DCFG_SPARE l) else l

def State.hswShown (s : State) (a : Nat) : BitVec 64 :=
  let n := (a - 0x40010000) / 0x100
  if a == HSW_GOVSTAT then
    let armed := ((s.armedItems.filter fun it => it.block == 1).map s.itemDemand).sum
    HSW_GOVSTAT_PARMED.into (s.reg a) (shownUnits 16 (armed / 3200))
  else if 64 ≤ n then s.reg a
  else match a % 0x100 with
    | 0x08 => s.reg (HSW_STAT (s.hswShows n))
    | 0x20 => s.reg (HSW_TEMP (s.hswShows n))
    | 0x28 => s.reg (HSW_CUR (s.hswShows n))
    | 0x48 => (HSW_DSTAT_DSTATE n).into (s.reg a) (s.dstateRead n)
    | _ => s.reg a

/-- VLV_BANKb (spec/04). -/
def State.bankShown (s : State) (b : Nat) : BitVec 64 :=
  let d := s.domain b
  let v := (VLV_BANK_IHOLD b).into (s.reg (VLV_BANK b)) (shownUnits 10 (s.bankHold b (s.valveAsks s.armedItems) / 2))
  let v := (VLV_BANK_QLEN b).into v (s.bq d).length
  let v := (VLV_BANK_GANGED b).into v (if s.ganged b then 1 else 0)
  (VLV_BANK_BOOSTCH b).into ((VLV_BANK_BUSY b).into v (if (s.boosting d).isSome then 1 else 0)) ((s.boosting d).getD 0)

def State.vlvShown (s : State) (a : Nat) : BitVec 64 :=
  let c := (a - 0x40020000) / 0x80
  if c < 24 then
    match a % 0x80 with
    | 0x10 => s.reg (VLV_STAT (s.vlvLead c))
    | 0x18 => s.reg (VLV_DIAG (s.vlvLead c))
    | _ => s.reg a
  else if 0x40021000 ≤ a && a < 0x40021020 then s.bankShown ((a - 0x40021000) / 8)
  else s.reg a

/-- LED_VSTAT.IDEM shows the demand of the committed state alone, without armed items and without an armed global level; the
table says 'demand under R144' only (DESIGN CHOICE, log entry 102). -/
def State.ledShown (s : State) (a : Nat) : BitVec 64 :=
  let n := (a - 0x40030000) / 0x40
  if n < 48 && a % 0x40 == 8 then (LED_STAT_MCOL n).into (s.reg a) (if s.matrixOn && n < 24 then 1 else 0)
  else if a == LED_VSTAT then LED_VSTAT_IDEM.into (s.reg a) (shownUnits 16 (s.ledDemand [] / 1000))
  else s.reg a

def State.dinShown (s : State) (a : Nat) : BitVec 64 :=
  if DIN_SUM 0 ≤ a && a < DIN_SUM 6 then
    let k := (a - DIN_SUM 0) / 8
    BitVec.ofNat 64 ((List.range 16).foldl (fun v j => v + s.fld (DIN_STAT_STATE (16 * k + j)) * 16 ^ j) 0)
  else if a == DIN_GSTAT then BitVec.ofNat 64 s.ncont
  else s.reg a

def State.doutShown (s : State) (a : Nat) : BitVec 64 :=
  let n := (a - 0x40050000) / 0x40
  if n < 16 && a % 0x40 == 8 then (DOUT_STAT_REFLEFT n).into (s.reg a) (s.refLeft n) else s.reg a

/-- GT_RUN; GTn_CMD reads 1 in the commands that wait for the counter's edge (spec/00, R11; spec/07, R190). -/
def State.gtShown (s : State) (a : Nat) : BitVec 64 :=
  let g := (a - GT_CMD 0) / 0x80
  if a == GT_RUN then BitVec.ofNat 64 (bitsWhere (List.range 32) s.gtRuns)
  else if g < 32 && a == GT_CMD g then
    let w := (s.ctr g).sw
    let b := fun (f : Fld) (x : Bool) (v : BitVec 64) => f.into v (if x then 1 else 0)
    b (GT_CMD_START g) (w.contains 1) (b (GT_CMD_STOP g) (w.contains 3) (b (GT_CMD_RESET g) (w.contains 2) (s.reg a)))
  else s.reg a

/-- NTU_NS is the low half of NTU_EXT (spec/07, R200); NTU_ADJ.GO reads 1 while a step waits for its CK_NET edge (spec/00,
R11; R202). -/
def State.ntuShown (s : State) (a : Nat) : BitVec 64 :=
  if a == NTU_NS then BitVec.ofNat 64 s.ntuNs
  else if a == NTU_ADJ then NTU_ADJ_GO.into (s.reg a) (if s.ntu.step.isSome then 1 else 0)
  else s.reg a

/-- CANn_TRX reads 0 on CN6 and CN7 (spec/08); CANn_MBk_CTL.CANCEL reads 1 while a cancel waits for the end of an attempt
(spec/00, R11; spec/08, R221). -/
def State.canShown (s : State) (a : Nat) : BitVec 64 :=
  if a == CAN_TRX 6 || a == CAN_TRX 7 then 0
  else
    let n := (a - CAN_MB_CTL 0 0) / 0x2000
    match (s.cn n).tx with
    | some x =>
      match x.buf with
      | some k => if x.cancel && a == CAN_MB_CTL n k then (CAN_MB_CTL_CANCEL n k).into (s.reg a) 1 else s.reg a
      | none => s.reg a
    | none => s.reg a

/-- LINn_CMD: SCHSTOP, SCHGO and GOSLEEP read 1 while the action waits for the end of a slot (spec/00, R11; spec/08,
R225, R227). -/
def State.linShown (s : State) (a : Nat) : BitVec 64 :=
  let n := (a - 0x400A0000) / 0x1000
  if a == LIN_CMD n then
    let c := s.ln n
    let b := fun (f : Fld) (x : Bool) (v : BitVec 64) => f.into v (if x then 1 else 0)
    b (LIN_CMD_GOSLEEP n) c.sleepWait (b (LIN_CMD_SCHGO n) c.goWait.isSome (b (LIN_CMD_SCHSTOP n) c.stopWait (s.reg a)))
  else s.reg a

/-- READY and the selected ledger (spec/08, R232, R234). -/
def State.nslShown (s : State) (a : Nat) : BitVec 64 :=
  let m := s.fld NSL_WBSEL_NET
  if a == NSL_STAT then NSL_STAT_READY.into (s.reg a) s.nslReady
  else if a == NSL_WBSEL then NSL_WBSEL_OVFL.into (s.reg a) (min 0xFFFF (s.net m).ovfl)
  else if NSL_WB 0 ≤ a && a < NSL_WB 16 then
    match (s.net m).ledger[(a - NSL_WB 0) / 8]? with
    | some e => BitVec.ofNat 64 (e.ms * 2 ^ 32 + min 0xFFFF e.renew * 2 ^ 16 + e.node % 256)
    | none => 0
  else s.reg a

/-- ACC_STAT shows the lock-out and the pending slot (spec/10, R267, R275). -/
def State.accShown (s : State) (a : Nat) : BitVec 64 :=
  if a == ACC_STAT then
    let v := ACC_STAT_LOCKLEFT.into (s.reg a) (min 0xFFFF s.lockLeft)
    let v := ACC_STAT_FAILS.into (ACC_STAT_LOCKS.into v s.acc.lockOut.level) (min 7 s.failsNow)
    ACC_STAT_PEND.into (ACC_STAT_LOCKED.into v (if s.acc.lockOut.locked then 1 else 0)) (if s.acc.pend.isSome then 1 else 0)
  else s.reg a

/-- Mailbox and lock registers, self-relative (spec/12, R308, R309); a mailbox reads 0 to a master that is no endpoint of
it. -/
def State.mbxShown (s : State) (m : Master) (a : Nat) : BitVec 64 :=
  let mb := (a - 0x400E0000) / 0x40
  if a < 0x400E0400 then
    match s.mbxSide? mb (s.epOf m) with
    | none => 0
    | some k =>
      match a % 0x40 with
      | 0x00 => s.reg a
      | 0x20 => BitVec.ofNat 64 (s.mbxDb mb k)
      | 0x28 => BitVec.ofNat 64 (s.mbxTxst mb k)
      | 0x30 => BitVec.ofNat 64 (s.mbxStat mb)
      | _ => 0
  else if a == MBX_LKOWN 0 || a == MBX_LKOWN 1 then
    let i := (a - MBX_LKOWN 0) / 8
    BitVec.ofNat 64 ((List.range 16).foldl (fun v j => v + (s.lk (16 * i + j)).owner * 16 ^ j) 0)
  else if a == MBX_LKREL then BitVec.ofNat 64 (s.lockRel (s.epOf m))
  else if a == MBX_LKIEN then BitVec.ofNat 64 (s.lockIen (s.epOf m))
  else s.reg a

/-- PMU_STAT and PMU_SLOW (spec/14, R365). -/
def State.pmuShown (s : State) (a : Nat) : BitVec 64 :=
  if a == PMU_STAT then PMU_STAT_STATE.into (s.reg a) (if s.dozes then 1 else s.fld PMU_STAT_STATE)
  else if a == PMU_SLOW then BitVec.ofNat 64 s.slowCount
  else s.reg a

/-- SYS_CLKSTAT where SLOWSEL selects the RC (spec/15, R394), and SYS_WDk_KICK.LEFT (R400). -/
def State.sysShown (s : State) (a : Nat) : BitVec 64 :=
  if a == SYS_CLKSTAT && s.flag SYS_CLKCFG_SLOWSEL then
    SYS_CLKSTAT_DISC.into (SYS_CLKSTAT_SLOWSRC.into (s.reg a) 1) 0
  else
  let k := (a - SYS_WD_KICK 0) / 0x10
  if SYS_WD_KICK 0 ≤ a && k < 4 && a == SYS_WD_KICK k then BitVec.ofNat 64 (s.wdLeft k * 2 ^ 48) else s.reg a

/-- The state of the gate (spec/16, SEC_GATE) apart from VBAT_OK. -/
def State.secShown (s : State) (a : Nat) : BitVec 64 :=
  if a == SEC_GATE then
    let b2 := fun b : Bool => if b then 1 else 0
    let v := SEC_GATE_AGE.into (s.reg a) (min 0xFFFF s.speedAge)
    let v := SEC_GATE_SPD_OK.into v (b2 s.speedOk)
    SEC_GATE_QLEN.into (SEC_GATE_LOCK_OK.into v (b2 (!s.sec.keys.ownerLock))) s.secWaiting
  else s.reg a

/-- The hand-over's self-relative registers (spec/16). -/
def State.bsqShown (s : State) (m : Master) (a : Nat) : BitVec 64 :=
  let e := s.epOf m
  if a == BSQ_HOENTRY then BitVec.ofNat 64 (tget 0 s.hand.entry e)
  else if a == BSQ_HOFLAG then BitVec.ofNat 64 (tget 0 s.hand.en e * 256 + s.hoFlag e)
  else s.reg a

/-- HOLD_LEFT and SAERR (spec/03, R104, PDI_STAT). -/
def State.pdiShown (s : State) (a : Nat) : BitVec 64 :=
  if a == PDI_STAT then PDI_STAT_HOLD_LEFT.into (s.reg a) s.holdLeft
  else if a == PDI_IRQ then
    let err := (List.range 4).any fun i => s.flag (PDI_SACFG_TRIG_OVR i) || s.flag (PDI_SACFG_TERR i)
    PDI_IRQ_SAERR.into (s.reg a) (if err then 1 else 0)
  else s.reg a

/-- LINK of a port (spec/09, R241). -/
def State.eswShown (s : State) (a : Nat) : BitVec 64 :=
  match (List.range 4).find? fun p => a == ESW_PORT_STAT p with
  | some p => (ESW_PORT_STAT_LINK p).into (s.reg a) (if s.ethLink p then 1 else 0)
  | none => s.reg a

/-- An OTP word that could not be corrected reads 0 (spec/15, R405). -/
def State.idShown (s : State) (a : Nat) : BitVec 64 := s.otp a

/-- What the register at an address shows a master. -/
def State.shown (s : State) (m : Master) (a : Nat) : BitVec 64 :=
  match a / 0x10000 with
  | 0x4000 => s.txnShown a
  | 0x4001 => s.hswShown a
  | 0x4002 => s.vlvShown a
  | 0x4003 => s.ledShown a
  | 0x4004 => s.dinShown a
  | 0x4005 => s.doutShown a
  | 0x4006 => s.gtShown a
  | 0x4007 => s.ntuShown a
  | 0x4008 => s.canShown a
  | 0x4009 => s.nslShown a
  | 0x400A => s.linShown a
  | 0x400B => s.eswShown a
  | 0x400D => s.accShown a
  | 0x400E => s.mbxShown m a
  | 0x400F => s.pmuShown a
  | 0x4010 => s.sysShown a
  | 0x4012 => s.secShown a
  | 0x4013 => s.bsqShown m a
  | 0x4014 => s.idShown a
  | 0x4015 => s.pdiShown a
  | _ => s.reg a

/-! Reads. -/

/-- The bits an access reaches. -/
def accPart : Access → BitVec 64
  | .w64 => 0xFFFFFFFFFFFFFFFF#64
  | .lo32 => 0xFFFFFFFF#64
  | .hi32 => 0xFFFFFFFF00000000#64

/-- The registers read by halves under R6, apart from those whose reads take something. -/
def isSplitRead (a : Nat) : Bool :=
  let h := a / 0x10000
  let o := a % 0x10000
  (h == 0x4000 && 0x1000 ≤ o && o < 0x2000 && (o % 0x80 == 8 || o % 0x80 == 0x18)) ||
  (h == 0x4004 && o < 0xC00 && o % 0x20 == 0x18) ||
  (h == 0x4006 && o < 0x1000 && 0x18 ≤ o % 0x80 && o % 0x80 < 0x38) ||
  a == NTU_EXT || a == PMU_SLOW || a == PMU_WTMR

/-- A read of a register with no operation of its own: what it shows, and its RC fields in the part read are cleared
(spec/00, R6, R11). -/
def State.plainRead (s : State) (m : Master) (a : Nat) (acc : Access) : State :=
  let v := s.shown m a
  let rc := match regInfo? a with
    | some r => BitVec.ofNat 64 r.rc &&& accPart acc
    | none => 0
  let s := if rc == 0 then s else s.setReg a (s.reg a &&& ~~~ rc)
  if isSplitRead a then s.splitRead m a acc v else s.answer (accTake acc v).toNat

/-- A read that returns a value the manual leaves to the moment: VBAT of each feed in SYS_SUPPLY, VBAT_OK in SEC_GATE (log
entry 9). -/
def State.openRead (s : State) (m : Master) (a : Nat) (acc : Access) (fs : List Fld) : State :=
  let r := s.draw
  let v := fs.foldl (fun v f => f.into v (f.of r.1)) (s.shown m a)
  r.2.answer (accTake acc v).toNat

/-- A read of a register by a master that reaches it. -/
def State.regRead (s : State) (m : Master) (a : Nat) (acc : Access) : State :=
  let o := a % 0x10000
  match a / 0x10000 with
  | 0x4000 => if a == TXN_ALLOC then s.allocRead m acc else s.plainRead m a acc
  | 0x4006 => if o < 0x1000 && o % 0x80 == 0x38 then s.gtCapRead m (o / 0x80) acc else s.plainRead m a acc
  | 0x4007 => if 0x40 ≤ o && o < 0x80 then s.ntuCapRead m ((o - 0x40) / 8) acc else s.plainRead m a acc
  | 0x400A =>
    let r := o % 0x1000
    if o < 0x8000 && 0x100 ≤ r && r < 0x500 && r % 0x10 == 8 then s.linFdRead (o / 0x1000) ((r - 0x100) / 0x10) acc
    else s.plainRead m a acc
  | 0x400E =>
    if o < 0x400 && o % 0x40 == 0x10 then s.rxqRead m (o / 0x40) acc
    else if 0x1000 ≤ o && o < 0x1100 then s.lockRead m ((o - 0x1000) / 8) acc
    else s.plainRead m a acc
  | 0x4010 => if a == SYS_SUPPLY then s.openRead m a acc [SYS_SUPPLY_VBATA, SYS_SUPPLY_VBATB] else s.plainRead m a acc
  | 0x4012 => if a == SEC_GATE then s.openRead m a acc [SEC_GATE_VBAT_OK] else s.plainRead m a acc
  | _ => s.plainRead m a acc

end Sys2Proof.Machine
end

