-- ==== Sys2Proof/Machine/RegWrite.lean ====
section
/-!
DEFINITION. Writes of registers (spec/00, R4–R11, R482), block by block: which master may write what and when, and the
writes that start something.
-/

namespace Sys2Proof.Machine

/-! Access codes. -/

/-- A written value in its place in the register. -/
def accPlace (a : Access) (v : BitVec 64) : BitVec 64 := accMerge a 0 v

/-- A register's stored value after a write (spec/00, R8, R11); `rw` says whether its RW bits take it. -/
def RegInfo.after (r : RegInfo) (a : Access) (old v : BitVec 64) (rw : Bool) : BitVec 64 :=
  let m := if rw then BitVec.ofNat 64 r.rw &&& accPart a else 0
  ((old &&& ~~~ m) ||| (accPlace a v &&& m)) &&& ~~~ (accPlace a v &&& BitVec.ofNat 64 r.w1c)

/-- A write under a rule on the RW bits alone: `ok` says that they take it, `viol` is the flag that an ignored write
sets. The other bits follow their access codes. -/
def State.ruledWrite (s : State) (a : Nat) (acc : Access) (v : BitVec 64) (ok : Bool) (viol : Option Fld) : State :=
  match regInfo? a with
  | none => s
  | some r =>
    let t := s.setReg a (r.after acc (s.reg a) v ok)
    if ok then t
    else match viol with
      | some f => t.raiseBit f
      | none => t

/-- A write with no rule beyond the access codes. -/
def State.plainWrite (s : State) (a : Nat) (acc : Access) (v : BitVec 64) : State := s.ruledWrite a acc v true none

/-- Bit `i` of the value, where the access reaches it. -/
def accBit (a : Access) (v : BitVec 64) (i : Nat) : Bool := (accPlace a v).getLsbD i

/-- The access reaches the low half. -/
def accLow (a : Access) : Bool := a != .hi32

/-- The access reaches the high half. -/
def accHigh (a : Access) : Bool := a != .lo32

/-- The state an outcome leaves. -/
def after (o : Out) (s : State) : State :=
  match o with
  | .next t => t
  | _ => s

/-! Outputs. -/

/-- A write of a TXN register (spec/01, R23). The manual does not order COMMIT and CANCEL written 1 in one write: the model
commits, then cancels (DESIGN CHOICE, log entry 83). -/
def State.txnRegWrite (s : State) (m : Master) (a : Nat) (acc : Access) (v : BitVec 64) : State :=
  let o := a % 0x10000
  let h := (o - 0x1000) / 0x80
  let hi := (o - 0x8000) / 0x200
  if a == TXN_FREE then (if accLow acc then s.freeWrite m (TXN_FREE_HANDLE.of v) else s)
  else if a == TXN_NTX then
    if accBit acc v 63 then s.noticeSend m (accMerge acc (s.reg a) v) else s.plainWrite a acc v
  else if 0x8000 ≤ o then s.stagingWrite m hi (.slot (Fin.ofNat 64 (o % 0x200 / 8))) (accMerge acc (s.reg a) v)
  else if 0x1000 ≤ o && o < 0x2000 then
    match o % 0x80 with
    | 0x00 => s.stagingWrite m h .ctl (accMerge acc (s.reg a) v)
    | 0x08 => s.timeWrite m h acc v
    | 0x10 =>
      if !s.ownsHandle m h then s.raiseBit TXN_IRQ_ACCESS_VIOL
      else
        let s := s.when (accBit acc v 0) fun t => t.commitWrite m h
        s.when (accBit acc v 1) fun t => t.cancelWrite m h
    | _ => s
  else s.plainWrite a acc v

/-- The channel's configuration may be rewritten (spec/02, R64; spec/03, R114; for the sequencer log entry 76). -/
def State.hswMayConfig (s : State) (m : Master) (n : Nat) : Bool :=
  !s.flag (HSW_DSTAT_SUBST n) &&
    (m == .bsq || ownerOk (s.fld (HSW_CFG_OWNER n)) m && !s.flag (HSW_STAT_STATIC (s.hswLead n)))

/-- A write of a channel's configuration: an accepted one of software acts from the next model step on (spec/02, R64). -/
def State.hswConfigWrite (s : State) (m : Master) (n a : Nat) (acc : Access) (v : BitVec 64) : State :=
  let ok := s.hswMayConfig m n
  let t := s.ruledWrite a acc v ok (some HSW_IRQ_CFG_VIOL)
  if ok && m != .bsq && (tget none s.hsw.oldCfg a).isNone then
    { t with hsw := { t.hsw with oldCfg := tset none t.hsw.oldCfg a (some (s.reg a)) } }
  else t

def State.hswRegWrite (s : State) (m : Master) (a : Nat) (acc : Access) (v : BitVec 64) : State :=
  let o := a % 0x10000
  let n := o / 0x100
  if n < 64 then
    match o % 0x100 with
    | 0x00 | 0x10 | 0x18 | 0x38 => s.hswConfigWrite m n a acc v
    | 0x40 => s.ruledWrite a acc v (s.hswMayConfig m n) (some HSW_IRQ_CFG_VIOL)
    | 0x30 =>
      let s := if accBit acc v 0 then s.rclr m n else s
      if accBit acc v 1 then after (execTclr (Fin.ofNat 64 n) s) s else s
    | 0x48 => if accBit acc v 31 then s.hswDclr m n else s
    | _ => s
  else if HSW_AMB 0 ≤ a && a < HSW_AMB 4 then
    let s := s.plainWrite a acc v
    if accLow acc then s.putB (HSW_AMB_STALE ((a - HSW_AMB 0) / 8)) false else s
  else if HSW_TSLOT 0 ≤ a && a < HSW_TSLOT 8 then
    s.slotWrite .hsw m ((a - HSW_TSLOT 0) / 8) (accMerge acc (s.reg a) v)
  else if a == HSW_GOV then
    let s := s.plainWrite a acc v
    s.put HSW_GOV_BUDGET (min 0x6CC (s.fld HSW_GOV_BUDGET))
  else s.plainWrite a acc v

def State.vlvRegWrite (s : State) (m : Master) (a : Nat) (acc : Access) (v : BitVec 64) : State :=
  let o := a % 0x10000
  let c := o / 0x80
  if c < 24 then
    match o % 0x80 with
    | 0x00 | 0x08 =>
      s.ruledWrite a acc v (m == .bsq || ownerOk (s.fld (VLV_CFG_OWNER c)) m && s.phase (s.vlvLead c) == phOff) (some VLV_IRQ_CFG_VIOL)
    | 0x18 => if accBit acc v 63 then s.vlvDclr m c else s
    | _ => s
  else if VLV_PROF_A 0 ≤ a && a < VLV_PROF_A 16 then s.ruledWrite a acc v (!s.flag VLV_CTL_PLOCK) (some VLV_IRQ_CFG_VIOL)
  else if a == VLV_BOOST then
    let s := s.ruledWrite a acc v (!s.flag VLV_CTL_PLOCK) (some VLV_IRQ_CFG_VIOL)
    s.setVbst (s.fld VLV_BSTAT_VBST)
  else if VLV_TSLOT 0 ≤ a && a < VLV_TSLOT 4 then
    s.slotWrite .vlv m ((a - VLV_TSLOT 0) / 8) (accMerge acc (s.reg a) v)
  else s.plainWrite a acc v

def State.ledRegWrite (s : State) (m : Master) (a : Nat) (acc : Access) (v : BitVec 64) : State :=
  let o := a % 0x10000
  let n := o / 0x40
  let ruled := fun ok => s.ruledWrite a acc v ok (some LED_IRQ_CFG_VIOL)
  if n < 48 then
    match o % 0x40 with
    | 0x00 =>
      ruled (m == .bsq || ownerOk (s.fld (LED_CFG_OWNER n)) m && s.fld (LED_STAT_LEVEL n) == 0 && s.fld (LED_STAT_TARGET n) == 0)
    | 0x10 => if accBit acc v 63 then s.ledDclr m n else s
    | _ => s
  else if a == LED_GCFG then (if ownerOk (s.fld LED_GCFG_OWNER) m then s else s.raiseBit LED_IRQ_CFG_VIOL)
  else if a == LED_VCFG then ruled (ownerOk (s.fld LED_GCFG_OWNER) m)
  else if a == LED_MCFG then ruled (ownerOk (s.fld LED_MCFG_OWNER) m)
  else if a == LED_MCMD then (if accBit acc v 0 then s.mrst m else s)
  else if a == LED_SC_CFG 0 then ruled (ownerOk (s.fld (LED_SC_CFG_OWNER 0)) m)
  else if a == LED_SC_CFG 1 then ruled (ownerOk (s.fld (LED_SC_CFG_OWNER 1)) m)
  else if LED_TSLOT 0 ≤ a && a < LED_TSLOT 4 then s.slotWrite .led m ((a - LED_TSLOT 0) / 8) (accMerge acc (s.reg a) v)
  else if LED_SC_FRM 0 0 0 ≤ a then
    let i := (a - LED_SC_FRM 0 0 0) / 8
    s.frameWrite m (i / 1024) (i / 64 % 16) (i % 64) acc v
  else s.plainWrite a acc v

def State.dinRegWrite (s : State) (m : Master) (a : Nat) (acc : Access) (v : BitVec 64) : State :=
  let o := a % 0x10000
  let n := o / 0x20
  if n < 96 then
    match o % 0x20 with
    | 0x00 => s.dinConfigWrite m n 0 acc v
    | 0x08 => s.dinConfigWrite m n 1 acc v
    | 0x10 => s.dinConfigWrite m n 2 acc v
    | _ => s
  else s.plainWrite a acc v

/-- DOUT_CFGn follows its owner field (spec/06, DOUT_IRQ.CFG_VIOL; log entry 43). -/
def State.doutRegWrite (s : State) (m : Master) (a : Nat) (acc : Access) (v : BitVec 64) : State :=
  let o := a % 0x10000
  let n := o / 0x40
  if n < 16 then
    match o % 0x40 with
    | 0x00 => s.ruledWrite a acc v (ownerOk (s.fld (DOUT_CFG_OWNER n)) m) (some DOUT_IRQ_CFG_VIOL)
    | 0x08 => if accBit acc v 63 then s.doutDclr m n else s
    | 0x10 => if accLow acc then s.doutRefresh m n (v.toNat % 16) else s
    | _ => s
  else if DOUT_TSLOT 0 ≤ a && a < DOUT_TSLOT 2 then
    s.slotWrite .dout m ((a - DOUT_TSLOT 0) / 8) (accMerge acc (s.reg a) v)
  else s.plainWrite a acc v

/-- A write of PDI_SACFGa (spec/03, R89): GO starts a sequence under TRIG 0x1, and TRIG 0x4 starts its first one at once,
whatever GO is (log entry 21). -/
def State.saCfgWrite (s : State) (i : Nat) (acc : Access) (v : BitVec 64) : State :=
  let s := s.plainWrite (PDI_SACFG i) acc v
  let s := s.when (accBit acc v 63) fun t => t.saGo i
  if accLow acc && s.fld (PDI_SACFG_TRIG i) == 4 && (s.adc i).running.isNone then s.saStart i
  else s

def State.pdiRegWrite (s : State) (a : Nat) (acc : Access) (v : BitVec 64) : State :=
  let o := a % 0x10000
  let i := (o - 0x200) / 0x100
  if a == PDI_CMD then (if accBit acc v 0 then s.releaseWrite else s)
  else if 0x200 ≤ o && o < 0x600 && o % 0x100 == 0 then s.saCfgWrite i acc v
  else if 0x200 ≤ o && o < 0x600 && o % 0x100 == 8 then (if accLow acc then s.saTimeWrite i (v.toNat % 2 ^ 32) else s)
  else s.plainWrite a acc v

/-! Counters and network time. -/

/-- A write of GTn_CMD: the requested actions on one edge, then the capture (spec/07, R193, R196). -/
def State.gtCmdWrite (s : State) (m : Master) (g : Nat) (acc : Access) (v : BitVec 64) : State :=
  let acts := (if accBit acc v 0 then [1] else []) ++ (if accBit acc v 1 then [3] else []) ++
    (if accBit acc v 2 then [2] else [])
  s.gtOwned m g fun t =>
    let t := if acts.isEmpty then t else t.gtRequest g acts
    if accBit acc v 3 then t.gtCapNow g else t

def State.gtRegistersWrite (s : State) (m : Master) (a : Nat) (acc : Access) (v : BitVec 64) : State :=
  let o := a % 0x10000
  let g := o / 0x80
  if g < 32 then
    match o % 0x80 with
    | 0x00 => (s.ruledWrite a acc v (ownerOk (s.fld (GT_CFG_OWNER g)) m && !s.gtRuns g) (some GT_IRQ_CFG_VIOL)).gtMatch g
    | 0x08 => s.ruledWrite a acc v (ownerOk (s.fld (GT_CFG_OWNER g)) m) (some GT_IRQ_CFG_VIOL)
    | 0x10 => s.gtCmdWrite m g acc v
    | 0x18 => s.gtCntWrite m g acc v
    | 0x20 => s.gtRegWrite m g .period acc v
    | 0x28 => s.gtRegWrite m g .cmpA acc v
    | 0x30 => s.gtRegWrite m g .cmpB acc v
    | 0x40 => s.plainWrite a acc v
    | _ => s
  else if a == GT_GSTART then (if accLow acc then s.gtGroup m (v.toNat % 2 ^ 32) 1 else s)
  else if a == GT_GSTOP then (if accLow acc then s.gtGroup m (v.toNat % 2 ^ 32) 3 else s)
  else s.plainWrite a acc v

/-- A write of NTU_ADJ (spec/07, R202, R204): with GO a slew or a step by the register's OFFSET. -/
def State.ntuAdjWrite (s : State) (m : Master) (acc : Access) (v : BitVec 64) : State :=
  let x := accMerge acc (s.reg NTU_ADJ) v
  let off := BitVec.ofNat 32 (NTU_ADJ_OFFSET.of x)
  if accBit acc v 63 then
    if NTU_ADJ_STEP.of x == 1 then after (execNtuStep m off s) s else s.ntuSlewGo m off.toNat
  else s.ruledWrite NTU_ADJ acc v (ownerOk (s.fld NTU_SYNC_KEEPER) m) (some NTU_STAT_WVIOL)

def State.ntuRegWrite (s : State) (m : Master) (a : Nat) (acc : Access) (v : BitVec 64) : State :=
  let o := a % 0x10000
  let k := (o - 0x100) / 0x20
  if a == NTU_INC then s.ntuIncWrite m acc v
  else if a == NTU_ADJ then s.ntuAdjWrite m acc v
  else if a == NTU_SYNC then s.ntuSyncWrite m acc v
  else if a == NTU_CAPCFG then
    let s := s.plainWrite a acc v
    if accLow acc then s.swcap (NTU_CAPCFG_SWCAP.of v) else s
  else if NTU_TRG_CFG 0 ≤ a && a < NTU_TRG_CFG 4 then
    if a == NTU_TRG_CFG k then s.trgWrite m k acc v
    else s.ruledWrite a acc v (ownerOk (s.fld (NTU_TRG_CFG_OWNER k)) m) none
  else s.plainWrite a acc v

/-! Vehicle buses. -/

/-- A write of CANn_CTL (spec/08, R212, R222). -/
def State.canCtlWrite (s : State) (n : Nat) (acc : Access) (v : BitVec 64) : State :=
  let mode := s.fld (CAN_CTL_MODE n)
  let s := (s.plainWrite (CAN_CTL n) acc v).put (CAN_CTL_MODE n) mode
  let s := if accLow acc then s.canModeWrite n ((CAN_CTL_MODE n).of v) else s
  if accBit acc v 11 then s.borec n else s

/-- A write of CANn_MBk_CTL (spec/08, R218, R219, R221): of a PENDING buffer only CANCEL acts. -/
def State.canBufWrite (s : State) (n k : Nat) (acc : Access) (v : BitVec 64) : State :=
  if s.canPending n k then
    if accBit acc v 62 then (s.canCancel n k).nslCheck else s.raiseBit (CAN_IRQ_CFG_VIOL n)
  else
    let s := s.plainWrite (CAN_MB_CTL n k) acc v
    let s := if accBit acc v 61 then s.canRelease n k else s
    if accBit acc v 63 then s.drawEcc.1.canTxreq n k s.drawEcc.2 else s

/-- A write of a register of a CAN channel by a master that may write them (spec/08, R212, R218, R219). -/
def State.canChanWrite (s : State) (n a : Nat) (acc : Access) (v : BitVec 64) : State :=
  let r := a % 0x2000
  let k := (r - 0x1000) / 0x10
  if r == 0 then s.canCtlWrite n acc v
  else if r < 0x48 && r != 0x20 then
    if (s.cn n).mode == canOff then s.plainWrite a acc v else s.raiseBit (CAN_IRQ_CFG_VIOL n)
  else if r == 0x48 && 6 ≤ n then s
  else if 0x1000 ≤ r && r < 0x1800 then
    if r % 0x10 == 8 then s.canBufWrite n k acc v
    else if s.canPending n k then s.raiseBit (CAN_IRQ_CFG_VIOL n)
    else s.plainWrite a acc v
  else if r == 0x1808 then
    let s := s.plainWrite a acc v
    if accBit acc v 61 then s.canRelease n 128 else s
  else s.plainWrite a acc v

def State.canRegWrite (s : State) (m : Master) (a : Nat) (acc : Access) (v : BitVec 64) : State :=
  let n := a % 0x10000 / 0x2000
  s.canOwned m n fun t => t.canChanWrite n a acc v

/-- A write of NSL_CFG (spec/08, R232, R234, R235): LOCAL acts, and a new GROUP may complete the agreement. -/
def State.nslCfgWrite (s : State) (acc : Access) (v : BitVec 64) : State :=
  let loc := s.fld NSL_CFG_LOCAL
  let s := (s.plainWrite NSL_CFG acc v).put NSL_CFG_LOCAL loc
  if accHigh acc then (s.setLocal (accBit acc v 32)).nslCheck else s

def State.nslRegWrite (s : State) (m : Master) (a : Nat) (acc : Access) (v : BitVec 64) : State :=
  s.nslOwned m fun t => if a == NSL_CFG then t.nslCfgWrite acc v else t.plainWrite a acc v

/-- A write of LINn_CFG (spec/08, R225, R237): EN turns the channel on or off. -/
def State.linCfgWrite (s : State) (n : Nat) (acc : Access) (v : BitVec 64) : State :=
  let en := s.fld (LIN_CFG_EN n)
  let s := (s.plainWrite (LIN_CFG n) acc v).put (LIN_CFG_EN n) en
  if !(accHigh acc) then s
  else if accBit acc v 63 then s.linEnable n
  else if en == 1 then (s.linDisable n).nslCheck
  else s

/-- A write of LINn_CMD (spec/08, R225, R227): START, then SCHSTOP, SCHGO, WAKE and GOSLEEP. -/
def State.linCmdWrite (s : State) (n : Nat) (acc : Access) (v : BitVec 64) : State :=
  let s := s.plainWrite (LIN_CMD n) acc v
  let s := if accBit acc v 60 then s.schstop n else s
  let s := if accBit acc v 61 then s.schgo n (s.fld (LIN_CMD_START n)) else s
  let s := if accBit acc v 62 then s.linWake n else s
  if accBit acc v 63 then s.gosleep n else s

def State.linRegWrite (s : State) (m : Master) (a : Nat) (acc : Access) (v : BitVec 64) : State :=
  let n := a % 0x10000 / 0x1000
  let r := a % 0x1000
  s.linOwned m n fun t =>
    if r == 0 then t.linCfgWrite n acc v
    else if r == 8 then t.linCmdWrite n acc v
    else if 0x100 ≤ r && r < 0x500 && r % 0x10 == 0 then
      let t := t.plainWrite a acc v
      if accBit acc v 63 then t.linTxreq n ((r - 0x100) / 0x10) else t
    else t.plainWrite a acc v

/-! Ethernet and gateway. -/

/-- ESW_CTL.EN changes: the rings start at descriptor 0, or what the switch holds is returned (spec/09, R247). -/
def State.eswSwitchOn (s : State) (was : Bool) : State :=
  let now := s.flag ESW_CTL_EN
  if now && !was then (s.put ESW_IRX_IDX 0).put ESW_ITX_IDX 0
  else if was && !now then s.switchOff
  else s

def State.eswRegWrite (s : State) (m : Master) (a : Nat) (acc : Access) (v : BitVec 64) : State :=
  let ok := ownerOk (s.fld ESW_CTL_OWNER) m
  let ruled := fun b => s.ruledWrite a acc v b (some ESW_IRQ_CMD_VIOL)
  if a == ESW_CTL then (ruled ok).eswSwitchOn (s.flag ESW_CTL_EN)
  else if a == ESW_IRX || a == ESW_ITX then ruled (ok && !s.flag ESW_CTL_EN)
  else if a == ESW_PLCA 2 || a == ESW_PLCA 3 then
    s.linkWatch fun t => t.ruledWrite a acc v ok (some ESW_IRQ_CMD_VIOL)
  else ruled ok

def State.gweRegWrite (s : State) (m : Master) (a : Nat) (acc : Access) (v : BitVec 64) : State :=
  if a == GWE_RTCMD then
    if accLow acc then
      s.gweOwned m fun t => t.gweCommand (GWE_RTCMD_OP.of v) (GWE_RTCMD_BANK.of v) (GWE_RTCMD_INDEX.of v)
    else s
  else s.ruledWrite a acc v (ownerOk (s.fld GWE_CTL_OWNER) m) (some GWE_CTL_CMD_VIOL)

/-! Access, mailboxes and power. -/

def State.accRegWrite (s : State) (m : Master) (a : Nat) (acc : Access) (v : BitVec 64) : State :=
  let ok := ownerOk (s.fld ACC_CFG_OWNER) m
  if a == ACC_CMD then
    s.accOwned m fun t =>
      t.accCommand (accBit acc v 63) (accBit acc v 62) (if accLow acc then v.toNat % 8 else t.fld ACC_CMD_HSEL)
  else if ACC_CH 0 ≤ a && a < ACC_CH 8 && ok && s.acc.poll.isSome then s
  else s.ruledWrite a acc v ok (some ACC_IRQ_CFG_VIOL)

def State.mbxRegWrite (s : State) (m : Master) (a : Nat) (acc : Access) (v : BitVec 64) : State :=
  let o := a % 0x10000
  let mb := o / 0x40
  if o < 0x400 then
    match o % 0x40 with
    | 0x08 => s.txqWrite m mb acc v
    | 0x18 => s.mbxCommand m mb (accBit acc v 1) (accBit acc v 0)
    | 0x20 => s.mbxDbWrite m mb acc v
    | _ => s.mbxBy m mb fun t _ => t
  else if 0x1000 ≤ o && o < 0x1100 then s.lockWrite m ((o - 0x1000) / 8) (accLow acc)
  else if a == MBX_LKREL then (if accLow acc then s.lockRelWrite m v.toNat else s)
  else if a == MBX_LKIEN then (if accLow acc then s.lockIenWrite m v.toNat else s)
  else s.plainWrite a acc v

/-- A write of PMU_DOMCTL (spec/14, R368). -/
def State.domctlWrite (s : State) (acc : Access) (v : BitVec 64) : State :=
  if accLow acc then (s.put PMU_DOMCTL_NVAUTO (v.toNat % 2)).netoffWrite (accBit acc v 1) else s

def State.pmuRegWrite (s : State) (m : Master) (a : Nat) (acc : Access) (v : BitVec 64) : State :=
  if a == PMU_REQ then
    if accBit acc v 63 then s.pmuRequest (s.epOf m) ((accPlace acc v).toNat % 4) else s
  else if a == PMU_WTMR then s.wtmrWrite m acc v
  else if a == PMU_DOMCTL then (if accLow acc then s.pmuOwned m fun t => t.domctlWrite acc v else s)
  else if a == PMU_CFG || a == PMU_WEN then
    (s.ruledWrite a acc v (ownerOk (s.fld PMU_CFG_OWNER) m || m == .zk) (some PMU_IRQ_CFG_VIOL)).runWake
  else s.plainWrite a acc v

def State.sysRegWrite (s : State) (m : Master) (a : Nat) (acc : Access) (v : BitVec 64) : State :=
  let o := a % 0x10000
  let x := accPlace acc v
  if a == SYS_RSTCMD then
    s.rstCommand m (SYS_RSTCMD_KEY.of x) (2 * SYS_RSTCMD_CORE.of x) (SYS_RSTCMD_LDIE.of x == 1)
  else if 0x40 ≤ o && o < 0x80 && o % 0x10 == 8 then (if accLow acc then s.wdKick m ((o - 0x40) / 0x10) (v.toNat % 256) else s)
  else s.ruledWrite a acc v (ownerOk (s.fld SYS_CLKCFG_OWNER) m) (some SYS_IRQ_CFG_VIOL)

def State.fcuRegWrite (s : State) (m : Master) (a : Nat) (acc : Access) (v : BitVec 64) : State :=
  let o := a % 0x10000
  if a == FCU_TMR then s.tmrWrite m acc v
  else if a == FCU_ACK then (if accLow acc then s.fcuOwned m fun t => t.fcuAck (v.toNat % 512) else s)
  else if a == FCU_PFRC then s.pfrcWrite m acc v
  else if 0x1C0 ≤ o && o < 0x1F0 then s.frcWrite m ((o - 0x1C0) / 8) acc v
  else if 0x400 ≤ o && o < 0x4C0 then s.sevWrite m ((o - 0x400) / 8) acc v
  else s.fcuOwned m fun t => t.plainWrite a acc v

/-- A write of the self-relative BSQ_HOFLAG (spec/16). -/
def State.hoFlagWrite (s : State) (e : Nat) (acc : Access) (v : BitVec 64) : State :=
  if !(accLow acc) then s
  else
    let s := s.setHoFlag e (s.hoFlag e &&& (3 - v.toNat % 4))
    { s with hand := { s.hand with en := tset 0 s.hand.en e (BSQ_HOFLAG_EN.of v) } }

def State.bsqRegWrite (s : State) (m : Master) (a : Nat) (acc : Access) (v : BitVec 64) : State :=
  if a == BSQ_HOCMD then
    if accLow acc then s.hoCommand (s.coreHome m.num) (accBit acc v 0) (accBit acc v 1) (accBit acc v 2) else s
  else if a == BSQ_HOFLAG then s.hoFlagWrite (s.epOf m) acc v
  else s.plainWrite a acc v

/-! All blocks. -/

/-- A write of a register by a master that reaches it. -/
def State.regWrite (s : State) (m : Master) (a : Nat) (acc : Access) (v : BitVec 64) : State :=
  match a / 0x10000 with
  | 0x4000 => s.txnRegWrite m a acc v
  | 0x4001 => s.hswRegWrite m a acc v
  | 0x4002 => s.vlvRegWrite m a acc v
  | 0x4003 => s.ledRegWrite m a acc v
  | 0x4004 => s.dinRegWrite m a acc v
  | 0x4005 => s.doutRegWrite m a acc v
  | 0x4006 => s.gtRegistersWrite m a acc v
  | 0x4007 => s.ntuRegWrite m a acc v
  | 0x4008 => s.canRegWrite m a acc v
  | 0x4009 => s.nslRegWrite m a acc v
  | 0x400A => s.linRegWrite m a acc v
  | 0x400B => s.eswRegWrite m a acc v
  | 0x400C => s.gweRegWrite m a acc v
  | 0x400D => s.accRegWrite m a acc v
  | 0x400E => s.mbxRegWrite m a acc v
  | 0x400F => s.pmuRegWrite m a acc v
  | 0x4010 => s.sysRegWrite m a acc v
  | 0x4011 => s.fcuRegWrite m a acc v
  | 0x4013 => s.bsqRegWrite m a acc v
  | 0x4015 => s.pdiRegWrite a acc v
  | _ => s.plainWrite a acc v

/-- The flags that say that a block ignored or refused a write. -/
def violations : List Fld :=
  [TXN_IRQ_ACCESS_VIOL, HSW_IRQ_CFG_VIOL, VLV_IRQ_CFG_VIOL, LED_IRQ_CFG_VIOL, LED_IRQ_FRAME_VIOL, DIN_IRQ_CFG_VIOL,
   DOUT_IRQ_CFG_VIOL, DOUT_IRQ_RFR_BAD, GT_IRQ_CFG_VIOL, NTU_STAT_WVIOL, NTU_STAT_TTIME_ERR] ++
  [ESW_IRQ_CMD_VIOL, GWE_CTL_CMD_VIOL, ACC_IRQ_CFG_VIOL, MBX_IRQ_ACCESS_VIOL, PMU_IRQ_CFG_VIOL, PMU_IRQ_ALARM_ERR,
   SYS_IRQ_CFG_VIOL, FCU_IRQ_CFG_VIOL] ++
  (List.range 8).map CAN_IRQ_CFG_VIOL ++ (List.range 8).map LIN_STAT_CFG_VIOL ++ (List.range 4).map PDI_SACFG_TERR

/-- TXN ignores the write with no flag (spec/01): COMMIT outside STAGING (R28), CANCEL where it ends nothing (R50), a free in
VALIDATING to APPLIED (R25), a COUNT above 64 (TXN_CTLh), a SEND with no list (TXN_NTX). -/
def State.txnIgnores (s : State) (a : Nat) (v : BitVec 64) : Bool :=
  let o := a % 0x10000
  let h := (o - 0x1000) / 0x80
  let busy := fun h => let st := s.txState h; st == txValidating || st == txWaitNotice || st == txArmed || st == txApplied
  if a == TXN_FREE then busy (TXN_FREE_HANDLE.of v)
  else if a == TXN_NTX then v.getLsbD 63 && (TXN_NTX_COUNT.of v == 0 || 48 < TXN_NTX_COUNT.of v)
  else if 0x1000 ≤ o && o < 0x2000 && o % 0x80 == 0 then 64 < (TXN_CTL_COUNT h).of v
  else if 0x1000 ≤ o && o < 0x2000 && o % 0x80 == 0x10 then
    let starts := v.getLsbD 0 && s.txState h == txStaging
    (v.getLsbD 0 && !starts) || (v.getLsbD 1 && !starts && !busy h)
  else false

/-- A CAN channel ignores the write with no flag (spec/08): TXREQ of a buffer that does not send, CANCEL of one that is not
PENDING (R221), BOREC with no bus-off (R222), CAN_TRX of CN6 and CN7. -/
def State.canIgnores (s : State) (a : Nat) (v : BitVec 64) : Bool :=
  let n := a % 0x10000 / 0x2000
  let r := a % 0x2000
  let k := (r - 0x1000) / 0x10
  if r == 0 then v.getLsbD 11 && !(s.cn n).busOff
  else if r == 0x48 then 6 ≤ n && v != 0
  else if 0x1000 ≤ r && r < 0x1800 && r % 0x10 == 8 && !s.canPending n k then
    v.getLsbD 62 || (v.getLsbD 63 && (CAN_MB_CTL_DIR n k).of v != 2)
  else false

/-- A LIN channel ignores the write with no flag (spec/08, R225–R227): the schedule and GOSLEEP of a responder, WAKE outside
SLEEP, TXREQ of an entry that does not publish. -/
def State.linIgnores (s : State) (a : Nat) (v : BitVec 64) : Bool :=
  let n := a % 0x10000 / 0x1000
  let r := a % 0x1000
  if r == 8 then
    ((v.getLsbD 60 || v.getLsbD 61 || v.getLsbD 63) && !s.linCommander n) || (v.getLsbD 62 && s.linState n != linSleep)
  else if 0x100 ≤ r && r < 0x500 && r % 0x10 == 0 then v.getLsbD 63 && (LIN_FR_DIR n ((r - 0x100) / 0x10)).of v != 1
  else false

/-- A self-test slot that waits ignores writes (spec/03, R99). -/
def State.slotWaits (s : State) (a : Nat) : Bool :=
  (HSW_TSLOT 0 ≤ a && a < HSW_TSLOT 8 && istatOpen (s.fld (HSW_TSLOT_ISTAT ((a - HSW_TSLOT 0) / 8)))) ||
  (VLV_TSLOT 0 ≤ a && a < VLV_TSLOT 4 && istatOpen (s.fld (VLV_TSLOT_ISTAT ((a - VLV_TSLOT 0) / 8)))) ||
  (LED_TSLOT 0 ≤ a && a < LED_TSLOT 4 && istatOpen (s.fld (LED_TSLOT_ISTAT ((a - LED_TSLOT 0) / 8)))) ||
  (DOUT_TSLOT 0 ≤ a && a < DOUT_TSLOT 2 && istatOpen (s.fld (DOUT_TSLOT_ISTAT ((a - DOUT_TSLOT 0) / 8))))

/-- The block ignores the write with no flag: those above, a limp release that is barred (spec/03, R111), a GWE_RTCMD of
another OP (spec/09), ACC_CHn during a poll (spec/10, Register map), and a class of a reserved source (spec/17, R438). -/
def State.ignoresQuietly (s : State) (a : Nat) (v : BitVec 64) : Bool :=
  match a / 0x10000 with
  | 0x4000 => s.txnIgnores a v
  | 0x4008 => s.canIgnores a v
  | 0x400A => s.linIgnores a v
  | 0x400C => a == GWE_RTCMD && !(1 ≤ GWE_RTCMD_OP.of v && GWE_RTCMD_OP.of v ≤ 4)
  | 0x400D => decide (ACC_CH 0 ≤ a) && decide (a < ACC_CH 8) && s.acc.poll.isSome
  | 0x4011 =>
    let k := (a - FCU_SEV 0) / 8
    decide (FCU_SEV 0 ≤ a) && decide (a < FCU_SEV 24) &&
      (List.range 16).any fun j => sourceReserved (16 * k + j) && (FCU_SEV_SEV k j).of v != 0
  | 0x4015 =>
    a == PDI_CMD && v.getLsbD 0 && !(s.flag PDI_STAT_LIMP && s.pdi.limpNHigh && s.flag PDI_STAT_LINK_UP && !s.s3 && !s.s4)
  | _ => s.slotWaits a

/-- A 64-bit write by the bootstrap sequencer (spec/13, R348): free of owner rules, with the read-only fields the image
sets. Answers whether the block ignored or refused it; a flag that stood before stays, unless the write itself clears it. -/
def State.bsqWrite (s : State) (a : Nat) (v : BitVec 64) : State × Bool :=
  match regInfo? a with
  | none => (s, false)
  | some r =>
    let had := violations.filter s.flag
    let quiet := s.ignoresQuietly a v
    let t := (s.each had fun f t => t.putB f false).regWrite .bsq a .w64 v
    let bad := quiet || violations.any t.flag
    let keeps := had.filter fun f => !(f.addr == a && f.of v == 1)
    let t := t.each keeps fun f t => t.raiseBit f
    let img := BitVec.ofNat 64 r.img
    (if bad then t else t.setReg a ((t.reg a &&& ~~~ img) ||| (v &&& img)), bad)

end Sys2Proof.Machine
end

