-- ==== Sys2Proof/Machine/Bus.lean ====
section
/-!
DEFINITION. Accesses over the whole address map by any master (spec/00, R4–R10; spec/11, R289; spec/13, R327–R331;
spec/14, R368, R369), and the commands that are such accesses: split reads and writes, register writes, and the frames of
the host port (spec/18, R458).
-/

namespace Sys2Proof.Machine

/-! Where an access goes. -/

/-- The register and the part of it that an access of 4 or 8 bytes reaches (spec/00, R4, R5). -/
def regAccess (a size : Nat) : Option (Nat × Access) :=
  if size == 8 && a % 8 == 0 then some (a, .w64)
  else if size == 4 && a % 8 == 0 then some (a, .lo32)
  else if size == 4 && a % 8 == 4 then some (a - 4, .hi32)
  else none

/-- The access waits: for the NET or NV domain (spec/14, R368), or for the line this master programs (spec/13, R331). -/
def State.stalls (s : State) (m : Master) (a : Nat) : Bool :=
  match region a with
  | .periph => inNet a && !s.netReadyDom
  | .nv => !s.nvReady || (s.nvBusy m.num).isSome
  | _ => false

/-- Only ZK runs in HOLD and PARK, and it reaches only the always-on domain and the NV store (spec/14, R369). -/
def State.asleepBars (s : State) (a : Nat) : Bool :=
  2 ≤ s.pstate &&
  match region a with
  | .periph => !inAon a
  | .nv | .aon => false
  | _ => true

/-- The register access has a bus error: a width other than 32 or 64 bits, or the SEC block from a master other than ZS
(spec/00, R10; spec/11, R289). -/
def regBarred (m : Master) (a size : Nat) : Bool := !(size == 4 || size == 8) || (a / 0x10000 == 0x4012 && m != .zs)

/-- How a load ends. -/
inductive Loaded where
  | value (v : Nat)
  | stalled
  | busError
  | machineCheck
  deriving DecidableEq, Repr

/-- How a store ends. -/
inductive Stored where
  | done
  | stalled
  | busError
  deriving DecidableEq, Repr

/-! Loads and stores. -/

/-- An uncorrectable SRAM error reaches a core as a machine check, any other master as a bus error (spec/13, R330). -/
def sramFail (m : Master) : Loaded := if (coreEp m).isSome then .machineCheck else .busError

/-- A load of registers. -/
def State.loadReg (s : State) (m : Master) (a size : Nat) : State × Loaded :=
  if regBarred m a size then (s, .busError)
  else
    match regAccess a size with
    | none => (s, .value 0)
    | some (r, acc) =>
      if (regInfo? r).isNone then (s, .value 0)
      else
        let t := { s with reply := none }.regRead m r acc
        match t.reply with
        | some (v, false) => (t, .value v.toNat)
        | some (_, true) => (t, .busError)
        | none => (t, .value 0)

/-- The bytes of memory an access reads; the lock-out area's layout is not the manual's, so its bytes are free (log
entry 44). -/
def State.memValue (s : State) (a size : Nat) : State × Nat :=
  if 0x103F8000 ≤ a && a < 0x103F9000 then (s.draw.2, s.draw.1.toNat % 2 ^ (8 * size)) else (s, leNat (s.bytes a size))

/-- A load of memory, whose ECC finds `e`. -/
def State.loadMem (s : State) (m : Master) (a size : Nat) (e : MemErr) : State × Loaded :=
  if !s.memAllowed m a .read then (s, .busError)
  else
    let r := s.memValue a size
    match region a, e with
    | .sram, .single => (r.1.raiseL 260, .value r.2)
    | .sram, .double => (r.1.raiseL 261, sramFail m)
    | .nv, .double => (r.1.raiseL 262, .busError)
    | _, _ => (r.1, .value r.2)

/-- A load of `size` bytes by a master. -/
def State.load (s : State) (m : Master) (a size : Nat) (e : MemErr) : State × Loaded :=
  if s.asleepBars a then (s, .busError)
  else if s.stalls m a then (s, .stalled)
  else if region a == .periph then s.loadReg m a size
  else s.loadMem m a size e

/-- A store to registers. -/
def State.storeReg (s : State) (m : Master) (a size v : Nat) : State × Stored :=
  if regBarred m a size then (s, .busError)
  else
    match regAccess a size with
    | none => (s, .done)
    | some (r, acc) =>
      if (regInfo? r).isNone then (s, .done) else (s.regWrite m r acc (BitVec.ofNat 64 v), .done)

/-- A store to memory: a narrow one to SRAM reads the word first, whose ECC finds `e`; the NV store takes 64-bit words only
(spec/13, R330, R331). -/
def State.storeMem (s : State) (m : Master) (a size v : Nat) (e : MemErr) : State × Stored :=
  if !s.memAllowed m a .write then (s, .busError)
  else if region a == .nv then
    if size == 8 && a % 8 == 0 then (s.nvStore m.num a (BitVec.ofNat 64 v), .done) else (s, .busError)
  else
    let t := s.setBytes a (natLe size v)
    if region a == .sram && size < 8 then
      match e with
      | .good => (t, .done)
      | .single => (t.raiseL 260, .done)
      | .double => if (coreEp m).isSome then (t.raiseL 261, .done) else (s.raiseL 261, .busError)
    else (t, .done)

/-- A store of `size` bytes by a master. -/
def State.store (s : State) (m : Master) (a size v : Nat) (e : MemErr) : State × Stored :=
  if s.asleepBars a then (s, .busError)
  else if s.stalls m a then (s, .stalled)
  else if region a == .periph then s.storeReg m a size v
  else s.storeMem m a size v e

/-- An access that waits. -/
def State.pushStall (s : State) (x : Stall) : State := { s with nv := { s.nv with stalled := s.nv.stalled ++ [x] } }

/-- A master acts on the fabric: ZK always, the others in RUN and DOZE, and of a lockstep pair the lower core. -/
def State.masterOn (s : State) (m : Master) : Bool := (decide (s.pstate ≤ 1) || m == .zk) && s.presents m

/-- A read as a command of a master: its data or its bus error is the reply. -/
def State.busRead (s : State) (m : Master) (a size : Nat) (e : MemErr) : State :=
  if !s.masterOn m then s
  else
    match s.load m a size e with
    | (t, .value v) => t.answer v
    | (t, .stalled) => t.pushStall { m := m, addr := a, size := size, store := none, ecc := e }
    | (t, _) => t.busError

/-- A write as a command of a master. -/
def State.busWrite (s : State) (m : Master) (a size v : Nat) (e : MemErr) : State :=
  if !s.masterOn m then s
  else
    match s.store m a size v e with
    | (t, .done) => t
    | (t, .stalled) => t.pushStall { m := m, addr := a, size := size, store := some (BitVec.ofNat 128 v) }
    | (t, .busError) => t.busError

/-! Commands. -/

def execSplitReadLow (m : Master) (a : BitVec 40) (s : State) : Out := .next (s.busRead m a.toNat 4 .good)
def execSplitReadHigh (m : Master) (a : BitVec 40) (s : State) : Out := .next (s.busRead m (a.toNat + 4) 4 .good)
def execSplitWriteLow (m : Master) (a : BitVec 40) (v : BitVec 32) (s : State) : Out :=
  .next (s.busWrite m a.toNat 4 v.toNat .good)
def execSplitWriteHigh (m : Master) (a : BitVec 40) (v : BitVec 32) (s : State) : Out :=
  .next (s.busWrite m (a.toNat + 4) 4 v.toNat .good)

/-- A write of a register's two halves or of one. -/
def State.registerWrite (s : State) (m : Master) (a : Nat) (acc : Access) (v : BitVec 64) : State :=
  match acc with
  | .w64 => s.busWrite m a 8 v.toNat .good
  | .lo32 => s.busWrite m a 4 (v.toNat % 2 ^ 32) .good
  | .hi32 => s.busWrite m (a + 4) 4 (v.toNat % 2 ^ 32) .good

def execRegisterWrite (m : Master) (a : BitVec 40) (acc : Access) (v : BitVec 64) (s : State) : Out :=
  .next (s.registerWrite m a.toNat acc v)

/-! The host port (spec/18, R458, R459). -/

/-- The port takes frames: not in an L-die reset, a bootstrap, HOLD or PARK. -/
def State.hostOpen (s : State) : Bool := s.pstate ≤ 1 && !s.bsq.running && !s.sys.inReset && !s.sys.por

/-- HOST_MISO is driven: while HOST_CS_N is low and the port takes frames (R459). -/
def State.misoDriven (s : State) (csLow : Bool) : Bool := csLow && s.hostOpen

/-- The status byte a frame shifts out. -/
def State.hostStatus (s : State) : Nat := 0xA0 + (if s.host.notReady then 2 else 0) + if s.host.busErr then 1 else 0

/-- The bus error flag of a reply. -/
def State.replyErr (s : State) : Bool := match s.reply with
  | some (_, e) => e
  | none => false

/-- A read frame: data that are not ready shift out as ones; those of a bus error are free. -/
def State.hostRead (s : State) (a size : Nat) (e : MemErr) : State :=
  if !s.hostOpen then s
  else
    let status := s.hostStatus
    let t := ({ s with reply := none } : State).busRead .host a size e
    match t.reply with
    | some (v, false) => ({ t with host := {} } : State).send (.hostFrame status v)
    | some (_, true) => ({ t.draw.2 with host := { busErr := true } } : State).send (.hostFrame status t.draw.1)
    | none => ({ t with host := { notReady := true } } : State).send (.hostFrame status (BitVec.ofNat 64 (2 ^ (8 * size) - 1)))

/-- A write frame. -/
def State.hostWrite (s : State) (a size v : Nat) (e : MemErr) : State :=
  if !s.hostOpen then s
  else
    let status := s.hostStatus
    let t := ({ s with reply := none } : State).busWrite .host a size v e
    ({ t with host := { busErr := t.replyErr } } : State).send (.hostFrame status 0)

/-- A frame makes its access once the bits it needs have arrived: those of a read's address, or a write's last data bit. A frame
that ends early makes none, and one with another command byte is ignored; both shift out the status. -/
def State.hostFrame (s : State) (f : HostFrame) (cmd : Byte) (need : Nat) (g : State → State) : State :=
  if f.cmd == cmd && need ≤ f.bits then g s
  else if s.hostOpen then s.send (.hostFrame s.hostStatus 0)
  else s

def execHostRead64 (f : HostFrame) (e : MemErr) (s : State) : Out :=
  .next (s.hostFrame f 0x0B 48 fun t => t.hostRead f.addr.toNat 8 e)
def execHostRead32 (f : HostFrame) (e : MemErr) (s : State) : Out :=
  .next (s.hostFrame f 0x0C 48 fun t => t.hostRead f.addr.toNat 4 e)
def execHostWrite64 (f : HostFrame) (v : BitVec 64) (s : State) : Out :=
  .next (s.hostFrame f 0x02 112 fun t => t.hostWrite f.addr.toNat 8 v.toNat .good)
def execHostWrite32 (f : HostFrame) (v : BitVec 32) (e : MemErr) (s : State) : Out :=
  .next (s.hostFrame f 0x03 80 fun t => t.hostWrite f.addr.toNat 4 v.toNat e)

end Sys2Proof.Machine
end

