-- ==== Sys2Proof/Machine/Bsq.lean ====
section
/-!
DEFINITION. The commands of the bootstrap sequencer (spec/13, R333–R363). Each is the end of one of its phases; under S4
the bootstrap stops at the end of the running one (R358).
-/

namespace Sys2Proof.Machine

/-- A phase of the running bootstrap ends: what follows runs unless S4 has stopped the bootstrap. -/
def State.phaseEnd (s : State) (f : State → State) : State :=
  if s.s4 then { s with bsq := { s.bsq with running := false } } else f s

/-- The bootstrap runs and is in a STATE. -/
def State.bootIn (s : State) (st : Nat) : Bool := s.bsq.running && s.fld BSQ_STAT_STATE == st

/-- The image the bootstrap works on, and its base. -/
def State.bootImg (s : State) : Nat → Byte := s.halfImg (s.fld BSQ_STAT_IHALF)
def State.bootBase (s : State) : Nat := s.halfBase (s.fld BSQ_STAT_IHALF)

/-! The end of a bootstrap (R361, R362). -/

/-- TTOTAL, and the boot log record. -/
def State.bootLogWrite (s : State) : State :=
  let s := s.put BSQ_TIME_TTOTAL (min (2 ^ 32 - 1) ((s.now - s.bsq.start) / 125))
  let i := s.nv.bootLog
  let rec_ := natLe 8 (s.fld BSQ_STAT_BOOTS) ++ natLe 1 (s.fld BSQ_STAT_KIND) ++ natLe 1 (s.fld BSQ_STAT_SLOT) ++
    natLe 1 (s.fld BSQ_STAT_EXIT1) ++ natLe 1 (s.fld BSQ_STAT_EXIT2) ++ natLe 4 (s.fld BSQ_IMG_SEQ) ++
    natLe 4 (s.fld BSQ_TIME_TTOTAL) ++ List.replicate 44 0
  let s := s.nvWrite (0x103F9040 + 64 * i) rec_
  { s with nv := { s.nv with bootLog := (i + 1) % 63 } }

/-- The boot record. -/
def State.bootRecordWrite (s : State) : State :=
  let n := s.completed + 1
  s.nvWrite 0x103F9000 (natLe 1 (s.fld BSQ_STAT_SLOT) ++ [0, 0, 0] ++ natLe 4 (s.fld BSQ_IMG_SEQ) ++ natLe 8 n ++
    ((List.range 4).map fun k => natLe 8 (s.fld (BSQ_HASH_HASH k))).flatten ++ List.replicate 16 0)

/-- A mailbox's endpoints (R344); one whose endpoints change is cleared, its words ABORTED_RESET (spec/12, R326). -/
def State.mbxConfig (s : State) (m epa epb : Nat) : State :=
  if s.mbxEp m 0 == epa && s.mbxEp m 1 == epb then s
  else
    let s := (s.mbxAbort m 0).mbxAbort m 1
    ((s.setSide m 0 {}).setSide m 1 {}).setReg (MBX_CFG m) (BitVec.ofNat 64 (epb * 16 + epa))

/-- No TRUST record is in force. -/
def State.trustClear (s : State) : State :=
  (((s.setReg SEC_PORTCLS0 0).setReg SEC_PORTCLS1 0).setReg SEC_CARRIER 0).setReg SEC_SPEED 0
    |>.each (List.range 6) fun k t => t.setReg (SEC_FAM k) 0

/-- BOOT_FAIL (R361; spec/16, R415): every core but ZS is in reset, and ZS runs the boot ROM for the host port. -/
def State.bootFail (s : State) : State :=
  let s := (s.put BSQ_STAT_STATE bsFail).raiseL 257
  let s := s.each [1, 2, 3, 4, 6, 5] fun e t => (t.when (t.core e).released fun u => u.endpointReset e).holdCore e
  let s := s.setCore 5 { released := true, psr := psrReset, pc := 0x20000000 }
  let s := (s.trustClear.mbxConfig 15 7 5).bootLogWrite
  let s : State := { s with sec := { s.sec with parts := [], session := none } }
  let s := s.setSecQueue []
  { s with bsq := { s.bsq with running := false, slots := [], waitRetry := false } }

/-! Candidates (R335, R338, R359). -/

/-- An exit code is recorded for the candidate in its place. -/
def State.exitRecord (s : State) (code : Nat) : State :=
  if s.bsq.place == 2 then s.put BSQ_STAT_EXIT2 code else s.put BSQ_STAT_EXIT1 code

/-- The poll of a touch that woke the device starts once ZS has reported ready (spec/10, R263). -/
def State.wakePollStart (s : State) : State :=
  match s.acc.wakePoll with
  | some n => ({ s with acc := { s.acc with wakePoll := none } } : State).pollRequest n false
  | none => s

/-- ZS reports ready (spec/14, R370). No command of the table is that report: it comes in the reads, and the model takes it at
their end, or where no candidate is left to read (DESIGN CHOICE, log entry 115). -/
def State.zsReports (s : State) : State :=
  if s.bsq.zsReady then s else ({ s with bsq := { s.bsq with zsReady := true } } : State).wakePollStart

/-- No candidate remains: one more run after 100 ms, or BOOT_FAIL. -/
def State.noCandidate (s : State) : State :=
  let s := s.zsReports
  if s.bsq.second then s.bootFail else { s with bsq := { s.bsq with slots := [], waitRetry := true } }

/-- The candidates of a list one after another, from place `p` on: one with an invalid header ends NO_IMAGE, the first
other one is read. -/
def tryCandidates : List Nat → Nat → State → State
  | [], _, s => s.noCandidate
  | k :: rest, p, s =>
    let s : State := { s with bsq := { s.bsq with slots := k :: rest, place := p } }
    let rd := s.flashImg k
    if headerValid rd then
      ((s.put BSQ_STAT_STATE bsFlash).put BSQ_STAT_SLOT k).xspiShow (imgMode rd) (imgClk rd) (imgDummy rd)
    else tryCandidates rest (p + 1) (s.exitRecord exNoImage)

/-- The candidate exits with a code, and the next one is tried. -/
def State.candidateExit (s : State) (code : Nat) : State :=
  tryCandidates s.bsq.slots.tail (s.bsq.place + 1) (s.exitRecord code)

/-- The order of the slots without a boot record: that of the higher SEQ among valid headers first, A on equal values. -/
def State.slotsBySeq (s : State) : List Nat :=
  let a := s.flashImg 0
  let b := s.flashImg 1
  if headerValid b && (!headerValid a || decide (imgSeq a < imgSeq b)) then [1, 0] else [0, 1]

/-- The order of the slots: the one the boot record names first. -/
def State.slotOrder (s : State) : List Nat :=
  match s.actSlot with
  | some k => [k, 1 - k]
  | none => s.slotsBySeq

/-! Start and reads. -/

/-- A bootstrap of a kind starts with its cause (R354): the end of a power-on reset, a return from HOLD or PARK, an L-die
reset, or an S3 reaction. -/
def State.bootBegin (s : State) (kind : Nat) : State :=
  if kind == bkCold then s.porRelease
  else if kind == bkWake then s.wakeReady
  else if kind == bkWarm then s.bootAfterReset
  else s.recoveryStart

def execBootstrapStart (kind : Fin 4) (s : State) : Out := .next (s.bootBegin kind)

/-- Both headers have been read, at 25 MHz in 1S-1S-1S (R334). The read of the boot record stalls while the NV domain is off
(spec/14, R368). -/
def State.headersRead (s : State) : State :=
  if s.bootIn bsFlash && s.bsq.place == 0 && !s.bsq.waitRetry && !s.bsq.nvWait then
    s.phaseEnd fun t =>
      if t.nvReady then tryCandidates t.slotOrder 1 t else { t with bsq := { t.bsq with nvWait := true } }
  else s

/-- The boot record is read, or cannot be read because the NV domain did not become READY: the model then takes it as blank, where
the rules are silent (spec/14, R368; DESIGN CHOICE, log entry 115). -/
def State.bootRecordRead (s : State) (ok : Bool) : State :=
  if s.bsq.nvWait then
    ({ s with bsq := { s.bsq with nvWait := false } } : State).phaseEnd fun t =>
      tryCandidates (if ok then t.slotOrder else t.slotsBySeq) 1 t
  else s

def execBsqHeaderReadDone (s : State) : Out := .next s.headersRead

/-- The candidate has been copied into half 0 of its image region (R350, R352) in `us`; `errors` are the bytes that were read
wrong, and `again` those of the first and of the second re-reads of records (R360). -/
def State.imageRead (s : State) (us : Nat) (errors : List (Nat × Byte)) (again : List (List (Nat × Byte))) : State :=
  let img := s.flashImg (s.fld BSQ_STAT_SLOT)
  let first := readWith img errors
  let r := recordsAgain img again (imgNrec first) 256 first
  let rd := r.1
  let s := (s.put BSQ_XSPI_RETRIES (min 65535 (s.fld BSQ_XSPI_RETRIES + r.2))).put BSQ_TIME_TREAD us
  let s := (s.put BSQ_IMGBASE_BASE (imgHalf0 rd)).put BSQ_IMGBASE_HALFSZ (imgRegion rd)
  let s := ((s.putB BSQ_STAT_IHALF false).setBytes (imgHalf0 rd) ((List.range (imgLength rd)).map rd)).zsReports
  if imgCrcOk rd then s.phaseEnd fun t => (t.imageShow rd).put BSQ_STAT_STATE bsVerify
  else s.phaseEnd fun t => t.candidateExit exReadErr

/-- The hash of the active half is not the one of the image in force (R355). -/
def State.hashDiffers (s : State) : Bool :=
  imgHash s.bootImg != ((List.range 4).map fun k => natLe 8 (s.fld (BSQ_HASH_HASH k))).flatten

/-- The re-hash of RECOVERY: on a difference the bootstrap goes on as WARM, which releases every core anew (log entry 45). What
the ECC finds of the half it reads is free, and a word that cannot be read counts as a difference (R330; log entry 105). -/
def State.rehash (s : State) : State :=
  let e := s.drawEcc
  let s := e.1.dmaEcc e.2
  if e.2 == .double || s.hashDiffers then
    let s := (s.raiseBit BSQ_IRQ_RELOAD).raiseL 259
    let s := s.each [5, 6] fun e t => (t.endpointReset e).holdCore e
    let s : State := { s with bsq := { s.bsq with place := 0, slots := [] } }
    ((s.put BSQ_STAT_KIND bkWarm).put BSQ_STAT_STATE bsFlash).xspiShow 0 0 8
  else s.put BSQ_STAT_STATE bsBuild

/-- A candidate has been read, or in RECOVERY the active half re-hashed. -/
def execBsqImageReadDone (us : BitVec 32) (errors : List (Nat × Byte)) (again : List (List (Nat × Byte))) (s : State) : Out :=
  .next
    (if s.fld BSQ_STAT_KIND == bkRecovery then
      (if s.bootIn bsVerify && !s.bsq.waitRetry then s.phaseEnd fun t => t.rehash else s)
    else if s.bootIn bsFlash && s.bsq.place != 0 && !s.bsq.waitRetry then s.imageRead us.toNat errors again
    else s)

/-! ZS (R350, R358). -/

/-- The key slot that the candidate names holds a key, and its signature verifies with it (R350). -/
def State.signatureGood (s : State) : Bool :=
  let rd := s.bootImg
  s.sec.keys.imageState (imgKeyIdx rd) == 1 && imgVerifies rd (s.sec.keys.imageKey (imgKeyIdx rd))

/-- The verdict on the candidate: 0 when it is accepted. -/
def State.verdictExit (s : State) : Nat :=
  let rd := s.bootImg
  if s.sec.keys.imageState (imgKeyIdx rd) != 1 then exKeyFail
  else if !imgVerifies rd (s.sec.keys.imageKey (imgKeyIdx rd)) then exSigFail
  else if imgRollback rd < s.sec.keys.rollback then exRollback
  else 0

def State.zsVerdict (s : State) : State :=
  let e := s.verdictExit
  s.phaseEnd fun t => if e == 0 then t.put BSQ_STAT_STATE bsBuild else t.candidateExit e

/-- The bootstrap waits for ZS. -/
def State.zsAwaited (s : State) : Bool := s.bootIn bsVerify && s.fld BSQ_STAT_KIND != bkRecovery

/-- ZS answers with its verdict on the signature. An answer that differs from what ZS finds is none (log entry 7). -/
def execZsSignatureVerdict (verified : Bool) (s : State) : Out :=
  .next (if s.zsAwaited && verified == s.signatureGood then s.zsVerdict else s)

/-- ZS may still be late (R358): ready in the reads, or with its verdict. -/
def State.zsLate (s : State) : Bool :=
  (s.bootIn bsFlash || s.bootIn bsVerify) && s.fld BSQ_STAT_KIND != bkRecovery && !s.bsq.waitRetry

/-- ZS is not ready 10 ms after its release to the boot ROM, or gives no verdict: BOOT_FAIL at once. -/
def execZsTimeout (s : State) : Out :=
  .next (if s.zsLate then s.phaseEnd fun t => (t.exitRecord exZsFail).bootFail else s)

/-! Layout (R341–R347, R352, R353). -/

/-- The layout registers, ENTRY references and lockstep pairs. -/
def State.layoutRegs (s : State) (rd : Nat → Byte) (half : Nat) : State :=
  let ps := imgParts rd
  let s := s.each (List.range 32) fun k t =>
    match ps[k]? with
    | some p =>
      let t := ((t.setReg (BSQ_PART k) 0).put (BSQ_PART_V k) 1).put (BSQ_PART_OWNER k) p.owner
      ((t.putB (BSQ_PART_ZERO k) p.zero).put (BSQ_PART_SIZE k) p.size).put (BSQ_PART_BASE k) (imgPartBase rd k)
    | none => t.setReg (BSQ_PART k) 0
  let s := (s.put BSQ_MRAMBASE_SIZE (imgMramSize rd / 65536)).put BSQ_MRAMBASE_BASE (imgMramBase rd)
  let s := s.each [1, 2, 3, 4, 5, 6] fun e t =>
    let r := fun j => BitVec.ofNat 64 (refAddr rd half (imgEntryRef rd e j))
    t.setEntry e (if imgReleased rd e then
      { pc := r 0, sp := r 1, vbar := r 2, ptbr := BitVec.ofNat 64 (imgPtbr rd e), used := true } else {})
  { s with cpu := { s.cpu with lock01 := imgLock01 rd, lock23 := imgLock23 rd } }

/-- NVPART. -/
def State.nvRegs (s : State) (rd : Nat → Byte) : State :=
  let ws := imgOf rd 2
  s.each (List.range 16) fun k t =>
    let t := t.setReg (BSQ_NVPART k) 0
    match ws[k]? with
    | some w =>
      let base := 0x10000000 + (ws.take k).foldl (fun a x => a + bitsOf x 0 16) 0 * 4096
      (((t.put (BSQ_NVPART_V k) 1).put (BSQ_NVPART_OWNER k) (bitsOf w 61 3)).put (BSQ_NVPART_SIZE k) (bitsOf w 0 16)).put
        (BSQ_NVPART_BASE k) base
    | none => t

/-- An owner whose partitions the bootstrap fills: in RECOVERY only ZC0–ZC3 and HOST (R355). -/
def State.fillsOwner (s : State) (o : Nat) : Bool :=
  s.fld BSQ_STAT_KIND != bkRecovery || (1 ≤ o && o ≤ 4) || o == 7

/-- ZERO fills, page tables and DATA. -/
def State.fillMemory (s : State) (rd : Nat → Byte) (half : Nat) : State :=
  let ps := imgParts rd
  let s := s.each (List.range ps.length) fun k t =>
    match ps[k]? with
    | some p => t.when (p.zero && t.fillsOwner p.owner) fun u => u.zeroRange (imgPartBase rd k) (p.size * 65536)
    | none => t
  let s := s.each [1, 2, 3, 4, 5] fun e t => t.when (t.fillsOwner e) fun u => u.writeTables rd half e
  s.each (imgAll rd 7) fun r t =>
    let ref := rdLe rd r.off 8
    let ok := if refKind ref == 0 then t.fillsOwner (((ps[refIdx ref]?).map (·.owner)).getD 0)
      else t.fld BSQ_STAT_KIND == bkCold || t.fld BSQ_STAT_KIND == bkWarm
    t.when ok fun u => u.setBytes (refAddr rd half ref) ((r.bytes rd).drop 8)

/-- MSGRAM (R343). -/
def State.msgRamRegs (s : State) (rd : Nat → Byte) : State :=
  let ws := imgOf rd 3
  s.each (List.range 8) fun n t =>
    let size := imgChanSize rd n
    let base := imgMramBase rd + (List.range n).foldl (fun a i => a + imgChanSize rd i) 0
    let t := (t.put (CAN_MRAM_SIZE n) (size / 1024)).put (CAN_MRAM_BASE n) (if size == 0 then 0 else base)
    let psize := fun k => bitsOf (ws.getD (6 * n + 1 + k / 32) 0) (2 * (k % 32)) 2
    let t := t.each (List.range 128) fun k u => u.put (CAN_MB_CTL_PSIZE n k) (psize k)
    t.put (CAN_EXCTL_PSIZE n) (psize 128)

/-- MAILBOX (R344). -/
def State.mailboxRegs (s : State) (rd : Nat → Byte) : State :=
  s.each (List.range 16) fun m t =>
    let b := bitsOf ((imgOf rd 4).getD (m / 8) 0) (8 * (m % 8)) 8
    t.mbxConfig m (bitsOf b 0 3) (bitsOf b 4 3)

/-- TRUST (R344; spec/16, R411). -/
def State.trustRegs (s : State) (rd : Nat → Byte) : State :=
  s.trustClear.each (imgOf rd 5) fun w t =>
    match bitsOf w 62 2 with
    | 1 =>
      if bitsOf w 8 5 == 0x1F then t.put SEC_PORTCLS1_HOST (bitsOf w 0 3)
      else t.put (SEC_PORTCLS0_CLS (bitsOf w 8 5)) (bitsOf w 0 3)
    | 2 => t.put (SEC_FAM_MASK (bitsOf w 8 6 / 12) (bitsOf w 8 6 % 12)) (bitsOf w 0 5)
    | _ =>
      match bitsOf w 56 6 with
      | 1 => ((t.put SEC_CARRIER_CANEN 1).put SEC_CARRIER_IDE (bitsOf w 29 1)).put SEC_CARRIER_ID (bitsOf w 0 29)
      | 2 => (t.put SEC_CARRIER_ETHEN 1).put SEC_CARRIER_ETYPE (bitsOf w 0 16)
      | _ =>
        let t := ((t.put SEC_SPEED_EN 1).put SEC_SPEED_CHAN (bitsOf w 53 3)).put SEC_SPEED_LENM1 (bitsOf w 49 4)
        ((t.put SEC_SPEED_START (bitsOf w 38 11)).put SEC_SPEED_IDE (bitsOf w 29 1)).put SEC_SPEED_ID (bitsOf w 0 29)

/-- The records that configure blocks, by the kind of bootstrap (R355). -/
def State.recordRegs (s : State) (rd : Nat → Byte) : State :=
  let s := (s.msgRamRegs rd).mailboxRegs rd
  if s.fld BSQ_STAT_KIND == bkRecovery then s
  else ((s.nvRegs rd).trustRegs rd).put TXN_CFG_NODE (imgNode rd)

/-! REGS (R348). -/

/-- ADDR names a peripheral register the record may write. -/
def regsAddrOk (a : Nat) : Bool :=
  a % 8 == 0 && region a == .periph && a / 65536 != 0x4012 && a / 65536 != 0x4013 && a / 65536 != 0x4014

/-- The channel whose HSW_CFGn an address is. -/
def hswCfgChan (a : Nat) : Option Nat :=
  if HSW_CFG 0 ≤ a && a < HSW_CFG 64 && a % 256 == 0 then some ((a - HSW_CFG 0) / 256) else none

/-- The OWNER field a COLD bootstrap holds back for a channel (R356). -/
def State.heldOwner (s : State) (n : Nat) : Option Nat := (s.bsq.owners.find? fun e => e.1 == n).map (·.2.toNat)

/-- A read by the sequencer, with its side effects; an owner held back reads as written. -/
def State.bsqRead (s : State) (a : Nat) : State × BitVec 64 :=
  let t := { s with reply := none }.regRead .bsq a .w64
  let v := match t.reply with
    | some (v, _) => v
    | none => 0
  let v := match hswCfgChan a with
    | some n => (match s.heldOwner n with
      | some o => (HSW_CFG_OWNER n).into v o
      | none => v)
    | none => v
  ({ t with reply := s.reply }, v)

/-- A write by the sequencer; COLD holds back the owners of the high-side channels. -/
def State.bsqStore (s : State) (a : Nat) (v : BitVec 64) : State × Bool :=
  match hswCfgChan a with
  | some n =>
    let o := (HSW_CFG_OWNER n).of v
    let s : State := { s with bsq := { s.bsq with owners := (n, BitVec.ofNat 64 o) :: s.bsq.owners.filter fun e => e.1 != n } }
    s.bsqWrite a ((HSW_CFG_OWNER n).into v 0)
  | none => s.bsqWrite a v

/-- The entry reaches its register, which a kind other than COLD keeps it from in the P-die. -/
def State.entryActs (s : State) (a : Nat) : Bool := !(isPdieReg a && s.fld BSQ_STAT_KIND != bkCold)

/-- One entry that writes; the second component says that it gives REG_FAULT. P-die entries act in COLD only. -/
def State.regEntry (s : State) (op a v : Nat) : State × Bool :=
  if !regsAddrOk a then (s, true)
  else if !s.entryActs a then (s, false)
  else
    let x := BitVec.ofNat 64 v
    if op == 1 then s.bsqStore a x
    else
      let r := s.bsqRead a
      r.1.bsqStore a (if op == 2 then r.2 ||| x else r.2 &&& ~~~ x)

/-- How the entries end: all done, a fault, a wait before the rest, or an access that stalls until the NET domain is READY
(spec/14, R368). -/
inductive RegsEnd where
  | done
  | fault
  | wait (rest : List (Nat × Nat × Nat))
  | stall (rest : List (Nat × Nat × Nat))

/-- The entries in image order. -/
def regsRun : List (Nat × Nat × Nat) → State → State × RegsEnd
  | [], s => (s, .done)
  | (op, a, v) :: rest, s =>
    if op == 4 then (s, .wait rest)
    else if regsAddrOk a && s.entryActs a && inNet a && !s.netReadyDom then (s, .stall ((op, a, v) :: rest))
    else
      let r := s.regEntry op a v
      if r.2 then (r.1, .fault) else regsRun rest r.1

/-- Registers that the reset after REG_FAULT keeps (R351): the P-die's and its matrix levels, the always-on domain's, the
identity, and SYS_CLKSTAT, which shows the clocks themselves (DESIGN CHOICE, log entry 115). -/
def faultKeeps (a : Nat) : Bool :=
  isPdieReg a || isMatrixReg a || inAon a || a / 65536 == 0x4014 || a == SYS_CLKSTAT

/-- The L-die blocks outside the always-on domain return to reset after REG_FAULT (R351), SYS_RSTCAUSE and SYS_SUPPLY too. -/
def State.blocksReset (s : State) : State :=
  let s := s.chainsStop.dropRegs faultKeeps
  let acc : AccState := { pollNo := 0, lockOut := s.acc.lockOut, nvLockOut := s.acc.nvLockOut, wakePoll := s.acc.wakePoll }
  ({ s with
    txn := {}, hsw := { s.hsw with ctrSeen := [], ctrIn := [] }, gt := [], ntu := {}, can := [], lin := [], nsl := {}, gwe := {}
    readShadow := s.readShadow.filter (fun e => shadowStays false e.1)
    writeShadow := s.writeShadow.filter (fun e => shadowStays false e.1)
    gtAvail := false, acc := acc
    sec := { s.sec with parts := [], queue := [], session := none, restart := false, speedAt := none } } : State).keysShow.degradedShow

/-! Spares (spec/03, R113, R114). -/

/-- A channel's spare meets the rules. -/
def State.spareOk (s : State) (n : Nat) : Bool :=
  let p := s.fld (HSW_DCFG_SPARE n)
  let o := s.fld (HSW_CFG_OWNER p)
  hswClass p == hswClass n && p != n && s.hswLead p == p && !s.hswPaired p && !s.inLimpMap 1 p &&
  !s.flag (HSW_STAT_STATIC p) && (o == 0 || o == s.fld (HSW_CFG_OWNER n))

/-- The spare takes the channel's place. -/
def State.substitute (s : State) (n : Nat) : State :=
  let p := s.fld (HSW_DCFG_SPARE n)
  let s := (s.setReg (HSW_CFG p) (s.reg (HSW_CFG n))).setReg (HSW_WIRE p) (s.reg (HSW_WIRE n))
  let s := (s.setReg (HSW_PROT p) (s.reg (HSW_PROT n))).setReg (HSW_INR p) (s.reg (HSW_INR n))
  let s := (s.put (HSW_TEMP_TEFF p) (s.fld (HSW_TEMP_TEFF n))).put (HSW_TEMP_TWIRE p) (s.fld (HSW_TEMP_TWIRE n))
  let c := s.hsc n
  let s := s.setHsc p { s.hsc p with tWire := c.tWire, tEff := c.tEff, heat := c.heat, bundle := c.bundle, everOn := c.everOn }
  ((s.raiseBit (HSW_DSTAT_SUBST n)).hswEval n).raiseP 74

/-- Every SWITCH_OPEN channel with a spare. -/
def State.spares (s : State) : State :=
  s.each (List.range 64) fun n t =>
    t.when (t.flag (HSW_DCFG_SPARE_EN n) && t.fld (HSW_DSTAT_DSTATE n) == 5 && !t.flag (HSW_DSTAT_SUBST n) && t.spareOk n)
      fun u => u.substitute n

/-! Inrush and release (R356, R357; spec/03, R111). -/

/-- The kind runs the inrush schedule (R355). -/
def State.inrushDue (s : State) : Bool :=
  match s.fld BSQ_STAT_KIND with
  | 0 => true
  | 1 => s.bsq.fromPark
  | 2 => false
  | _ => imgRecInr s.bootImg

/-- The schedule starts, unless a hold or the limp map bars it or no handle is FREE. -/
def State.inrushStart (s : State) : State :=
  let s := s.put BSQ_STAT_STATE bsInrush
  match (List.range 32).reverse.find? fun h => s.txState h == txFree with
  | none => s.raiseBit BSQ_STAT_INRSKIP
  | some h =>
    if s.flag PDI_STAT_HOLD || s.flag PDI_STAT_LIMP then s.raiseBit BSQ_STAT_INRSKIP
    else
      let on := s.hswLeads.filter fun n => s.flag (HSW_INR_START n)
      let s := s.put (TXN_STAT_STATE h) txStaging
      let s : State := { s with bsq := { s.bsq with handle := some h }, hsw := { s.hsw with bootInrush := on } }
      s.each on fun n t => t.hswEnqueue n

/-- The limp release of RECOVERY. -/
def State.recoveryRelease (s : State) : State :=
  if s.flag PDI_STAT_LIMP && s.pdi.limpNHigh && s.flag PDI_STAT_LINK_UP && !s.s4 then s.limpRelease else s

/-- Programming is done: spares, limp release and the start of the schedule. -/
def State.buildTail (s : State) : State :=
  let kind := s.fld BSQ_STAT_KIND
  let s : State := { s with bsq := { s.bsq with built := true, regs := [], regsWait := false } }
  let s := s.when (kind == bkWarm || kind == bkRecovery) State.spares
  let s := s.when (kind == bkRecovery) State.recoveryRelease
  s.when s.inrushDue State.inrushStart

/-- REGS entries from a list on. -/
def State.regsFrom (s : State) (l : List (Nat × Nat × Nat)) : State :=
  match regsRun l s with
  | (t, .done) => t.buildTail
  | (t, .fault) => t.blocksReset.candidateExit exRegFault
  | (t, .wait rest) => { t with bsq := { t.bsq with regs := rest, regsWait := true } }
  | (t, .stall rest) => { t with bsq := { t.bsq with regs := rest, netWait := true } }

/-- The records that configure blocks, then REGS; the access to the NET domain stalls while it is off (spec/14, R368). -/
def State.recordsFrom (s : State) : State :=
  if !s.netReadyDom then { s with bsq := { s.bsq with recWait := true } }
  else
    let rd := s.bootImg
    (s.recordRegs rd).regsFrom ((imgRegs rd).map fun p => (bitsOf p.1 60 4, bitsOf p.1 0 40, p.2))

/-- The accesses of the sequencer that wait for a domain, 4 NET or 5 NV (spec/14, R368). -/
def State.bsqAwaits (s : State) (d : Nat) : Bool := (d == 4 && (s.bsq.netWait || s.bsq.recWait)) || (d == 5 && s.bsq.nvWait)

/-- The domain is READY, and the sequencer goes on. -/
def State.bsqResume (s : State) (d : Nat) : State :=
  if d == 5 then s.bootRecordRead true
  else if s.bsq.recWait then ({ s with bsq := { s.bsq with recWait := false } } : State).phaseEnd State.recordsFrom
  else if s.bsq.netWait then
    ({ s with bsq := { s.bsq with netWait := false } } : State).phaseEnd fun t => t.regsFrom t.bsq.regs
  else s

/-- The domain did not become READY: the access ends with a bus error, which in programming is REG_FAULT (R348). -/
def State.bsqStallFails (s : State) (d : Nat) : State :=
  if d == 5 then s.bootRecordRead false
  else if s.bsq.recWait || s.bsq.netWait then
    ({ s with bsq := { s.bsq with recWait := false, netWait := false, regs := [] } } : State).phaseEnd fun t =>
      t.blocksReset.candidateExit exRegFault
  else s

/-- Checks, layout, tables, fills, DATA and the records; an exit of the checks changes nothing else (R351). What the ECC finds
of the half it reads is free, and an image with a word that cannot be read is a candidate that cannot be read (R330; log entry
105). -/
def State.build (s : State) : State :=
  let e := s.drawEcc
  let s := e.1.dmaEcc e.2
  let rd := s.bootImg
  let half := s.bootBase
  if e.2 == .double then s.candidateExit exReadErr
  else if imgExit rd != 0 then s.candidateExit (imgExit rd)
  else
    ((s.layoutRegs rd half).fillMemory rd half).recordsFrom

def execBsqBuildDone (s : State) : Out :=
  .next (if s.bootIn bsBuild && !s.bsq.regsWait && !s.bsqAwaits 4 && !s.bsq.built then s.phaseEnd fun t => t.build else s)

/-- A REGS wait ends. -/
def execRegsWaitEnd (s : State) : Out :=
  .next (if s.bootIn bsBuild && s.bsq.regsWait then
      s.phaseEnd fun t => ({ t with bsq := { t.bsq with regsWait := false } } : State).regsFrom s.bsq.regs
    else s)

/-- The owners held back are written, and the sequencer's handle is freed (R356); a transaction still on its way to the P-die
is cancelled first, since only a handle in STAGING, DONE or REFUSED becomes FREE (spec/01, R26; DESIGN CHOICE, log entry
98). -/
def State.inrushEnd (s : State) : State :=
  let s := s.inrushCut
  let s := s.each (s.bsq.handle.toList.filter fun _ => s.bootHandleBusy) fun h t => t.cancelHandle h
  let s := s.each s.bsq.owners fun e t => t.put (HSW_CFG_OWNER e.1) e.2.toNat
  let s := match s.bsq.handle with
    | some h => s.freeHandle h
    | none => s
  { s with bsq := { s.bsq with handle := none, owners := [] } }

/-- What the release starts outside the cores: the power manager is in RUN (spec/14, R377), watchdogs (spec/15, R400),
counter outputs (spec/07, R192) and field windows (spec/06, R181); a recovery ends or follows (spec/17, R443; R358). -/
def State.afterRelease (s : State) : State :=
  let s := ((s.put PMU_STAT_STATE psRun).setPhase phSteady).pmuActDone istatOk
  let s := s.each (List.range 4) fun k t => t.wdStart k
  let s := (s.setGtAvail true).when (!s.flag PDI_STAT_HOLD) State.resumeWindows
  let s := s.heldReact
  let again := s.bsq.s3Held || s.pmu.s3Wake
  let s : State := { s with bsq := { s.bsq with s3Held := false }, pmu := { s.pmu with s3Wake := false } }
  if again && s.s3 then (s.raiseBit FCU_STAT_RECOV).bootStart bkRecovery else s.recoveryEnd.pmuPendStart

/-- The core release. -/
def State.release_ (s : State) : State :=
  let kind := s.fld BSQ_STAT_KIND
  let s := s.inrushEnd
  let s : State := { s with bsq := { s.bsq with running := false, built := false } }
  let s := (s.put BSQ_STAT_STATE bsDone).raiseBit BSQ_IRQ_DONE
  let s := s.when (kind != bkRecovery && s.bsq.place == 2) fun t => (t.raiseBit BSQ_IRQ_FALLBACK).raiseL 256
  let s := s.each (releasedBy kind) fun e t => t.releaseCore e
  (s.bootLogWrite.bootRecordWrite).afterRelease

/-- The schedule has ended, or INRMAX has passed; a release waits for the end of the last item's window (spec/01, R26, R47;
DESIGN CHOICE, log entry 98). -/
def State.releaseDue (s : State) : Bool :=
  s.bsq.running && s.bsq.built && (s.hsw.bootInrush.isEmpty || imgInrMax s.bootImg != 0) &&
  !s.bsq.handle.any fun h => s.txState h == txApplied || (s.txState h == txArmed && (s.hnd h).noRet)

def execCoreRelease (s : State) : Out := .next (if s.releaseDue then s.phaseEnd fun t => t.release_ else s)

/-- 100 ms after the last candidate failed: the same kind runs once more. -/
def State.bootRetry (s : State) : State :=
  if s.bsq.running && s.bsq.waitRetry then
    s.phaseEnd fun t =>
      let t := t.bootClear.put BSQ_STAT_STATE (if t.fld BSQ_STAT_KIND == bkRecovery then bsVerify else bsFlash)
      let t := t.when (t.fld BSQ_STAT_KIND != bkRecovery) fun u => u.xspiShow 0 0 8
      { t with bsq := { t.bsq with second := true, waitRetry := false, place := 0, slots := [] } }
  else s

def execBootRetry (s : State) : Out := .next s.bootRetry

end Sys2Proof.Machine
end

