-- ==== Sys2Proof/Machine/IntOps.lean ====
section
/-!
DEFINITION. Interrupt sources (spec/11, R300) and what an interrupt controller makes of them (R301).
-/

namespace Sys2Proof.Machine

/-- The endpoint an owner field routes to: ZC0 when it is 0. -/
def State.routesTo (s : State) (f : Fld) (e : Nat) : Bool := (if s.fld f == 0 then 1 else s.fld f) == e

/-- Some flag of a field is set with its enable, bit by bit. -/
def State.flagged (s : State) (flags enables : Fld) : Bool := s.fld flags &&& s.fld enables != 0

/-- The same for a channel's bit alone. -/
def State.flaggedAt (s : State) (flags enables : Fld) (i : Nat) : Bool := (s.fld flags).testBit i && (s.fld enables).testBit i

/-! The blocks' sources, by the endpoint they go to. -/

/-- TXN, HSW, VLV and LED: sources 0–39. -/
def State.irqOut (s : State) (e src : Nat) : Bool :=
  if src < 32 then s.flaggedAt TXN_IRQ_DONE TXN_IEN_DONE_EN src && s.fld (TXN_CTL_OWNER src) == e
  else
    match src with
    | 32 => e == 1 && s.flagged ⟨TXN_IRQ, 32, 3⟩ TXN_IEN_ERR_EN
    | 33 => (List.range 64).any fun n => s.flaggedAt HSW_TRIP_TRIP HSW_TIEN_TEN n && s.routesTo (HSW_CFG_OWNER n) e
    | 34 => e == 1 && s.flagged ⟨HSW_IRQ, 0, 4⟩ HSW_IEN_EN
    | 35 => (List.range 64).any fun n => s.flaggedAt HSW_DIRQ_DIAG HSW_DIEN_DEN n && s.routesTo (HSW_CFG_OWNER n) e
    | 36 => (List.range 24).any fun c => s.flaggedAt ⟨VLV_IRQ, 0, 24⟩ VLV_IEN_TEN c && s.routesTo (VLV_CFG_OWNER c) e
    | 37 => e == 1 && s.flagged ⟨VLV_IRQ, 24, 8⟩ VLV_IEN_EN
    | 38 => e == 1 && s.flagged ⟨LED_IRQ, 0, 8⟩ LED_IEN_EN
    | 39 => (List.range 48).any fun n => s.flaggedAt LED_FDONE_FDONE LED_IEN_FDEN n && s.routesTo (LED_CFG_OWNER n) e
    | _ => false

/-- A counter's events raise its interrupt where the event's action word enables it (spec/07, R191). -/
def State.gtIrq (s : State) (g e : Nat) : Bool :=
  s.routesTo (GT_CFG_OWNER g) e &&
  ((s.flag (GT_STAT_PF g) && (s.fld (GT_ACT_PACT g)).testBit 0) || (s.flag (GT_STAT_AF g) && (s.fld (GT_ACT_AACT g)).testBit 0) ||
    (s.flag (GT_STAT_BF g) && (s.fld (GT_ACT_BACT g)).testBit 0))

/-- DIN, DOUT, counters and NTU: sources 40–78. -/
def State.irqTime (s : State) (e src : Nat) : Bool :=
  if 44 ≤ src && src ≤ 75 then s.gtIrq (src - 44) e
  else
    match src with
    | 40 => (List.range 96).any fun n =>
        s.flaggedAt (DIN_CHG_CHG (n / 64)) (DIN_CIEN_CEN (n / 64)) (n % 64) && s.routesTo (DIN_CFG_OWNER n) e
    | 41 => e == 1 && s.flagged ⟨DIN_IRQ, 0, 3⟩ DIN_IEN_EN
    | 42 =>
      (e == 1 && s.flagged ⟨DOUT_IRQ, 48, 3⟩ DOUT_IEN_EN) ||
      (List.range 48).any fun b => s.flaggedAt ⟨DOUT_IRQ, 0, 48⟩ DOUT_IEN_OEN b && s.routesTo (DOUT_CFG_OWNER (b % 16)) e
    | 76 => e == 1 && s.flagged ⟨GT_IRQ, 0, 1⟩ GT_IEN_EN
    | 77 => s.fld NTU_SYNC_KEEPER == e && s.flagged ⟨NTU_STAT, 0, 6⟩ NTU_IEN_EN
    | 78 => s.fld NTU_SYNC_KEEPER == e && s.flagged NTU_CAPSTAT_CAPF NTU_IEN_CAPEN
    | _ => false

/-- CAN, LIN, NSL, ESW and ACC: sources 80–106. -/
def State.irqNet (s : State) (e src : Nat) : Bool :=
  if 80 ≤ src && src ≤ 87 then
    s.routesTo (CAN_CTL_OWNER (src - 80)) e && s.fld ⟨CAN_IRQ (src - 80), 0, 8⟩ &&& s.fld (CAN_IEN_EN (src - 80)) &&& 0xFB != 0
  else if 88 ≤ src && src ≤ 95 then
    s.routesTo (CAN_CTL_OWNER (src - 88)) e && s.flaggedAt ⟨CAN_IRQ (src - 88), 0, 8⟩ (CAN_IEN_EN (src - 88)) 2
  else if 96 ≤ src && src ≤ 103 then
    s.routesTo (LIN_CFG_OWNER (src - 96)) e && s.flagged ⟨LIN_STAT (src - 96), 9, 7⟩ (LIN_IEN_EN (src - 96))
  else
    match src with
    | 104 => s.routesTo NSL_CFG_OWNER e && s.fld ⟨NSL_STAT, 0, 4⟩ &&& s.fld NSL_IEN_EN &&& 0xD != 0
    | 105 => s.fld ESW_CTL_OWNER == e && s.flagged ⟨ESW_IRQ, 0, 4⟩ ESW_CTL_IEN
    | 106 => s.routesTo ACC_CFG_OWNER e && s.flagged ⟨ACC_IRQ, 0, 6⟩ ACC_IEN_EN
    | _ => false

/-- Mailboxes, locks and the system blocks: sources 112–134. -/
def State.irqSys (s : State) (e src : Nat) : Bool :=
  if 112 ≤ src && src ≤ 127 then
    match s.mbxSide? (src - 112) e with
    | some k => s.mbxDb (src - 112) k % 8 &&& (s.side (src - 112) k).en != 0
    | none => false
  else
    match src with
    | 128 => tget 0 s.mbx.rel e &&& tget 0 s.mbx.ien e != 0
    | 129 => s.routesTo PMU_CFG_OWNER e && s.flagged ⟨PMU_IRQ, 0, 6⟩ PMU_IEN_EN
    | 130 => s.routesTo SYS_CLKCFG_OWNER e && s.flagged ⟨SYS_IRQ, 0, 4⟩ SYS_IEN_EN
    | 131 => (s.routesTo FCU_CFG_OWNER e && s.flagged ⟨FCU_IRQ, 0, 6⟩ FCU_IEN_EN) || (e == 6 && s.flag FCU_IRQ_S1LATE)
    | 132 =>
      let sa := (List.range 4).any fun i => s.flag (PDI_SACFG_TRIG_OVR i) || s.flag (PDI_SACFG_TERR i)
      e == 1 && (PDI_IRQ_SAERR.into (s.reg PDI_IRQ) sa.toNat).toNat % 32 &&& s.fld PDI_IEN_EN != 0
    | 133 =>
      (e == 1 && s.flagged ⟨BSQ_IRQ, 0, 4⟩ BSQ_IEN_EN) || tget 0 s.hand.flag e &&& tget 0 s.hand.en e != 0
    | 134 => e == 5 && s.flagged ⟨SEC_IRQ, 0, 3⟩ SEC_IEN_EN
    | _ => false

/-- A source is routed to an endpoint and asserted there (R300). -/
def State.irqAsserted (s : State) (e src : Nat) : Bool :=
  if src < 40 then s.irqOut e src
  else if src < 80 then s.irqTime e src
  else if src < 112 then s.irqNet e src
  else s.irqSys e src

/-! The controller (R301). -/

/-- The priority of a source, and whether it is enabled. -/
def Core.priority (c : Core) (src : Nat) : Nat := bvField (tget 0 c.icPri (src / 16)) (4 * (src % 16)) 4
def Core.enabled (c : Core) (src : Nat) : Bool := (tget 0 c.icEn (src / 64)).getLsbD (src % 64)

/-- The better of the best source so far and the next one: the higher priority, on equal ones the earlier. -/
def Core.better (c : Core) (best : Option Nat) (src : Nat) : Option Nat :=
  match best with
  | none => some src
  | some b => if c.priority b < c.priority src then some src else some b

/-- The source that is served: pending, enabled and of the highest priority above IC_CUR, ties to the lower number. -/
def State.icNext (s : State) (e : Nat) : Option Nat :=
  let c := s.core e
  let ok := (List.range 135).filter fun j => c.enabled j && decide (c.icCur < c.priority j) && s.irqAsserted e j
  ok.foldl c.better none

/-- HOST_IRQ_N is low: an interrupt routed to the host port is asserted while the device runs (spec/18, R458, R459). -/
def State.hostIrqLow (s : State) : Bool :=
  decide (s.pstate ≤ 1) && !s.bsq.running && !s.sys.inReset && !s.sys.por && (List.range 135).any (s.irqAsserted 7)

/-- IC_PENDk. -/
def State.icPending (s : State) (e k : Nat) : BitVec 64 :=
  BitVec.ofNat 64 ((List.range 64).foldl (fun n b => if s.irqAsserted e (64 * k + b) then n + 2 ^ b else n) 0)

/-- A read of IC_ACK: the source, 0x1FF when none qualifies. With the 15-deep stack full, which entry is lost is not
stated (log entry 49). -/
def State.icAck (s : State) (e : Nat) : State × Nat :=
  match s.icNext e with
  | none => (s, 0x1FF)
  | some src =>
    let c := s.core e
    let (s, stack) := if c.icStack.length < 15 then (s, c.icCur :: c.icStack)
      else (s.draw.2, if s.draw.1.getLsbD 0 then (c.icCur :: c.icStack).take 15 else c.icStack)
    (s.setCore e { c with icStack := stack, icCur := c.priority src }, src)

/-- A write of IC_EOI pops the stack; what an empty stack gives is not stated (log entry 49). -/
def State.icEoi (s : State) (e : Nat) : State :=
  let c := s.core e
  match c.icStack with
  | p :: rest => s.setCore e { c with icCur := p, icStack := rest }
  | [] => s.draw.2.setCore e { c with icCur := s.draw.1.toNat % 16 }

end Sys2Proof.Machine
end

