-- ==== Sys2Proof/Machine/CpuOps.lean ====
section
/-!
DEFINITION. How a core executes (spec/11): exceptions and their entry (R297–R299), translation (R302–R304), fetch, and the
frame every instruction runs in. A command of this family is one execution of one instruction by one core: what
stands in memory at its program counter is the environment's, since caches and encodings leave it open (log entry 50).
-/

namespace Sys2Proof.Machine

/-! Exceptions (R297–R299). -/

def vIllegal : Nat := 1
def vPrivilege : Nat := 2
def vFetchFault : Nat := 3
def vLoadFault : Nat := 4
def vStoreFault : Nat := 5
def vAlign : Nat := 6
def vBusError : Nat := 7
def vDigit : Nat := 8
def vTrap : Nat := 9
def vMcall : Nat := 10
def vMachineCheck : Nat := 11
def vInterrupt : Nat := 12

/-- The exception registers of a level. -/
def Core.exc (c : Core) (lvl : Nat) : ExcRegs := if lvl == 2 then c.excM else c.excS
def Core.setExc (c : Core) (lvl : Nat) (x : ExcRegs) : Core := if lvl == 2 then { c with excM := x } else { c with excS := x }

/-- Entry to a level (R298), with the core's program counter as EPC and its open windows into EDLY. -/
def Core.enter (c : Core) (lvl vec detail : Nat) (eva : BitVec 64) : Core :=
  let x := c.exc lvl
  let c' := c.setExc lvl
    { x with epc := c.pc, esr := c.psr, ecause := BitVec.ofNat 64 (detail * 256 + vec), eva := eva, edly := c.windows, edlyRaw := [] }
  { c' with psr := bvInto c.psr 12 4 (lvl * 4 + 2), pc := x.vbar + BitVec.ofNat 64 (0x100 * vec), windows := [], wait := none }

/-- The level an exception is taken at, with its vector and detail: a second one at supervisor is a double fault (R297,
R299). -/
def Core.excTarget (c : Core) (vec detail : Nat) : Nat × Nat × Nat :=
  let lvl := max (if vec == vMcall || vec == vMachineCheck then 2 else 1) c.level
  if lvl == 1 && c.level == 1 && c.exl then (2, vMachineCheck, 0x10) else (lvl, vec, detail)

/-- A core takes an exception; `c` holds the EPC as its program counter and the windows EDLY records. At monitor with EXL
set the core halts. EVA of an exception without an address is not stated (log entry 51). -/
def State.takeExc (s : State) (e : Nat) (c : Core) (vec detail : Nat) (eva : Option Nat) : State :=
  if c.level == 2 && c.exl then (s.setCore e { c with halted := true, windows := [], wait := none }).raiseL (241 + e)
  else
    let t := c.excTarget vec detail
    match eva with
    | some a => s.setCore e (c.enter t.1 t.2.1 t.2.2 (BitVec.ofNat 64 a))
    | none => s.draw.2.setCore e (c.enter t.1 t.2.1 t.2.2 s.draw.1)

/-! Translation (R302–R304). -/

/-- How a translation ends. -/
inductive Translated where
  | phys (a : Nat)
  | fault (detail : Nat)
  | machineCheck
  deriving DecidableEq, Repr

/-- The second-level entry for a virtual address, none when the walk leaves SRAM; an invalid first-level entry gives one that
is invalid (log entry 52). -/
def State.walk (s : State) (c : Core) (va : Nat) : Option (BitVec 64) :=
  let a1 := bvField c.ptbr 15 25 * 2 ^ 15 + 8 * (va / 2 ^ 28 % 4096)
  if region a1 != .sram then none
  else
    let e1 := BitVec.ofNat 64 (s.word a1)
    if !e1.getLsbD 0 then some 0
    else
      let a2 := bvField e1 15 25 * 2 ^ 15 + 8 * (va / 2 ^ 16 % 4096)
      if region a2 != .sram then none else some (BitVec.ofNat 64 (s.word a2))

/-- The detail codes of the faults an entry gives to an access (R303). -/
def pteFaults (pte : BitVec 64) (user : Bool) (k : AccKind) : List Nat :=
  if !pte.getLsbD 0 then [1]
  else
    let perm := match k with
      | .read => pte.getLsbD 1
      | .write => pte.getLsbD 2
      | .fetch => pte.getLsbD 3 && bvField pte 6 2 != 2
    (if perm then [] else [2]) ++ (if user && !pte.getLsbD 4 then [3] else []) ++ (if bvField pte 6 2 == 3 then [5] else []) ++
      if bvField pte 40 24 != 0 || bvField pte 8 8 != 0 then [6] else []

/-- The cached entry that matches (R304). -/
def Core.cached (c : Core) (vpn : Nat) : Option TlbEntry :=
  c.tlb.find? fun t => t.vpn == vpn && (t.pte.getLsbD 5 || t.asid == bvField c.asid 0 8)

/-- The entry is cached, in place of the one that matched. -/
def Core.cache (c : Core) (vpn : Nat) (pte : BitVec 64) : Core :=
  let asid := bvField c.asid 0 8
  { c with tlb := ⟨vpn, asid, pte⟩ :: c.tlb.filter fun t => !(t.vpn == vpn && (t.pte.getLsbD 5 || t.asid == asid)) }

/-- The address an entry translates to, or its fault; of several faults the manual does not say which is reported (log
entry 52). -/
def State.usePte (s : State) (c : Core) (va : Nat) (pte : BitVec 64) (k : AccKind) : State × Translated :=
  match pteFaults pte (c.level == 0) k with
  | [] => (s, .phys (bvField pte 16 24 * 2 ^ 16 + va % 2 ^ 16))
  | [d] => (s, .fault d)
  | d :: l => (s.draw.2, .fault ((d :: l).getD (s.draw.1.toNat % (l.length + 1)) d))

/-- A virtual address translated for an access by a core; the ECC of the entries a walk reads finds `w` (spec/13, R330).
Where a cached entry differs from the table, either may be used (R304). -/
def State.translate (s : State) (e : Nat) (va : Nat) (k : AccKind) (w : MemErr) : State × Translated :=
  let c := s.core e
  if c.level == 2 then (s, .phys va)
  else if 2 ^ 40 ≤ va then (s, .fault 4)
  else
    let vpn := va / 2 ^ 16
    let useWalk := fun t : State => match t.walk c va with
      | none => (t, Translated.machineCheck)
      | some pte =>
        match w with
        | .double => (t.raiseL 261, .machineCheck)
        | _ =>
          let t := if w == .single then t.raiseL 260 else t
          (if pte.getLsbD 0 then t.setCore e (c.cache vpn pte) else t).usePte c va pte k
    match c.cached vpn with
    | none => useWalk s
    | some x =>
      if s.walk c va == some x.pte then s.usePte c va x.pte k
      else if s.draw.1.getLsbD 0 then s.draw.2.usePte c va x.pte k
      else useWalk s.draw.2

/-! Fetch. -/

/-- How a check of an access ends: it may go on, or gives an exception with its detail. -/
abbrev Check := Option (Nat × Nat)

/-- The fetch of one word (R297; spec/13, R329, R330). -/
def State.fetchWord (s : State) (e : Nat) (a : Nat) (x w : MemErr) : State × Check :=
  match s.translate e a .fetch w with
  | (s, .fault d) => (s, some (vFetchFault, d))
  | (s, .machineCheck) => (s, some (vMachineCheck, 0))
  | (s, .phys p) =>
    if s.asleepBars p || !s.memAllowed (epMaster e) p .fetch then (s, some (vBusError, 0))
    else
      match region p, x with
      | .sram, .single => (s.raiseL 260, none)
      | .sram, .double => (s.raiseL 261, some (vMachineCheck, 0))
      | _, _ => (s, none)

/-- The core executes: it is released, neither halted nor stopped, waits for nothing, is not the upper core of a lockstep
pair, and has no instruction that stalls. -/
def State.executes (s : State) (e : Nat) : Bool :=
  let c := s.core e
  c.released && !c.halted && !c.stopped && c.wait.isNone && s.coreHome e == e &&
  !s.nv.stalled.any fun x => x.instr && x.m == epMaster e

/-- The endpoint of a run's core. -/
def runEp (r : CoreRun) : Nat := r.core.val + 1

/-- The fetch of an instruction of `len` bytes, its words one after another, and the address of a word that fails (R288). A
second word has an ECC of its own where it lies in the next SRAM word. -/
def State.fetchAll (s : State) (e len : Nat) (r : CoreRun) : State × Option (Nat × Nat × Nat) :=
  let a := (s.core e).pc.toNat
  match s.fetchWord e a r.fetch r.walk with
  | (t, some v) => (t, some (v.1, v.2, a))
  | (t, none) =>
    if len == 4 then (t, none)
    else
      match t.fetchWord e (a + 4) (if a % 8 == 4 then r.second else .good) r.walk with
      | (u, some v) => (u, some (v.1, v.2, a + 4))
      | (u, none) => (u, none)

/-- The frame of an instruction: a core that executes fetches it, and a fetch that fails takes its exception. -/
def State.instr (s : State) (r : CoreRun) (len : Nat) (f : State → Nat → State) : State :=
  let e := runEp r
  if !s.executes e then s
  else
    match s.fetchAll e len r with
    | (t, some v) => t.takeExc e (t.core e) v.1 v.2.1 (some v.2.2)
    | (t, none) => f t e

/-- An instruction that only changes its core's registers. -/
def State.regInstr (s : State) (r : CoreRun) (len : Nat) (f : Core → Core) : State :=
  s.instr r len fun t e => t.setCore e ((f (t.core e)).advance len)

/-- An instruction that ZK lacks: ILLEGAL there (R279). -/
def State.acInstr (s : State) (r : CoreRun) (f : Core → Core) : State :=
  s.instr r 4 fun t e =>
    if e == 6 then t.takeExc e (t.core e) vIllegal 0 none else t.setCore e ((f (t.core e)).advance 4)

/-- An instruction above user level (R293, R296). -/
def State.privInstr (s : State) (r : CoreRun) (f : State → Nat → State) : State :=
  s.instr r 4 fun t e => if (t.core e).level == 0 then t.takeExc e (t.core e) vPrivilege 0 none else f t e

end Sys2Proof.Machine
end

