-- ==== Sys2Proof/Machine/CpuData.lean ====
section
/-!
DEFINITION. The data ALU, multiply and divide, and long immediates (spec/11, R284, R288, R289).
-/

namespace Sys2Proof.Machine

/-! Flag computations. -/

/-- The sign of a word. -/
def neg (x : BitVec 64) : Bool := x.getLsbD 63

/-- Carries out of the 16 nibbles of an addition (R284, NC). -/
def nibbleCarries (x y : BitVec 64) (cin : Nat) : BitVec 16 :=
  BitVec.ofNat 16 ((List.range 16).foldl
    (fun n i =>
      let w := 2 ^ (4 * i + 4)
      if w ≤ x.toNat % w + y.toNat % w + cin then n + 2 ^ i else n) 0)

/-- The result of an addition, and the core with its flags. -/
def Core.addFlags (c : Core) (x y : BitVec 64) (cin : Nat) : Core × BitVec 64 :=
  let r := BitVec.ofNat 64 (x.toNat + y.toNat + cin)
  let v := neg x == neg y && neg r != neg x
  ((c.setNzcv (neg r) (r == 0) (decide (2 ^ 64 ≤ x.toNat + y.toNat + cin)) v).setNc (nibbleCarries x y cin), r)

/-- The result of a subtraction, and the core with its flags; C is the borrow. -/
def Core.subFlags (c : Core) (x y : BitVec 64) (bin : Nat) : Core × BitVec 64 :=
  let r := x - y - BitVec.ofNat 64 bin
  let v := neg x != neg y && neg r != neg x
  (c.setNzcv (neg r) (r == 0) (decide (x.toNat < y.toNat + bin)) v, r)

/-- The carry flag as a number. -/
def Core.carry (c : Core) : Nat := c.flagC.toNat

/-! Register forms. -/

/-- Dd from two D registers, no flags. -/
def Core.bin (c : Core) (d n m : Fin 32) (f : BitVec 64 → BitVec 64 → BitVec 64) : Core :=
  c.writeD d (f (c.readD n) (c.readD m))

/-- Dd from one D register, no flags. -/
def Core.un (c : Core) (d n : Fin 32) (f : BitVec 64 → BitVec 64) : Core := c.writeD d (f (c.readD n))

/-- A result with flags into Dd. -/
def putD (d : Fin 32) (p : Core × BitVec 64) : Core := p.1.writeD d p.2

def execAdd (r : CoreRun) (d n m : Fin 32) (s : State) : Out :=
  .next (s.regInstr r 4 fun c => putD d (c.addFlags (c.readD n) (c.readD m) 0))
def execAddc (r : CoreRun) (d n m : Fin 32) (s : State) : Out :=
  .next (s.regInstr r 4 fun c => putD d (c.addFlags (c.readD n) (c.readD m) c.carry))
def execSub (r : CoreRun) (d n m : Fin 32) (s : State) : Out :=
  .next (s.regInstr r 4 fun c => putD d (c.subFlags (c.readD n) (c.readD m) 0))
def execSubc (r : CoreRun) (d n m : Fin 32) (s : State) : Out :=
  .next (s.regInstr r 4 fun c => putD d (c.subFlags (c.readD n) (c.readD m) c.carry))
def execAnd (r : CoreRun) (d n m : Fin 32) (s : State) : Out := .next (s.regInstr r 4 fun c => c.bin d n m (· &&& ·))
def execOr (r : CoreRun) (d n m : Fin 32) (s : State) : Out := .next (s.regInstr r 4 fun c => c.bin d n m (· ||| ·))
def execXor (r : CoreRun) (d n m : Fin 32) (s : State) : Out := .next (s.regInstr r 4 fun c => c.bin d n m (· ^^^ ·))
def execAndn (r : CoreRun) (d n m : Fin 32) (s : State) : Out :=
  .next (s.regInstr r 4 fun c => c.bin d n m fun x y => x &&& ~~~ y)

/-- A shift by less than 64. -/
def shiftBy (k : ShiftKind) (x : BitVec 64) (n : Nat) : BitVec 64 :=
  match k with
  | .left => x <<< n
  | .right => x >>> n
  | .arith => x.sshiftRight n

/-- The kind of a shift as a number. -/
def shiftCode : ShiftKind → Nat
  | .left => 0
  | .right => 1
  | .arith => 2

/-- A shift by a register amount; 64 or more has no stated result (log entry 17). -/
def shiftReg (k : ShiftKind) (x amount : BitVec 64) : BitVec 64 :=
  if amount.toNat < 64 then shiftBy k x amount.toNat else Config.shiftWide (shiftCode k) x amount

def execShift (r : CoreRun) (k : ShiftKind) (d n m : Fin 32) (s : State) : Out :=
  .next (s.regInstr r 4 fun c => c.bin d n m (shiftReg k))
def execRotate (r : CoreRun) (left : Bool) (d n m : Fin 32) (s : State) : Out :=
  .next (s.regInstr r 4 fun c => c.bin d n m fun x y =>
    if left then x.rotateLeft (y.toNat % 64) else x.rotateRight (y.toNat % 64))

/-- The field fits the register. -/
def fieldFits (pos width : Nat) : Bool := decide (1 ≤ width) && decide (pos + width ≤ 64)

/-- A field taken out, extended with zeros or its sign. -/
def fieldOut (x : BitVec 64) (pos width : Nat) (sx : Bool) : BitVec 64 :=
  let v := bvField x pos width
  if sx && 2 ^ (width - 1) ≤ v then BitVec.ofNat 64 (2 ^ 64 - 2 ^ width + v) else BitVec.ofNat 64 v

def execBitFieldExtract (r : CoreRun) (d n : Fin 32) (pos : Fin 64) (width : Fin 65) (sx : Bool) (s : State) : Out :=
  .next (s.regInstr r 4 fun c => c.un d n fun x =>
    if fieldFits pos width then fieldOut x pos width sx else Config.fieldOver x 0 pos width)
def execBitFieldInsert (r : CoreRun) (d n : Fin 32) (pos : Fin 64) (width : Fin 65) (s : State) : Out :=
  .next (s.regInstr r 4 fun c => c.bin d d n fun x y =>
    if fieldFits pos width then bvInto x pos width y.toNat else Config.fieldOver x y pos width)

/-- Leading zeros among the low `k` bits. -/
def leadingZeros (x : BitVec 64) : Nat → Nat
  | 0 => 0
  | k + 1 => if x.getLsbD k then 0 else leadingZeros x k + 1

/-- Ones among the low `k` bits. -/
def onesBelow (x : BitVec 64) : Nat → Nat
  | 0 => 0
  | k + 1 => onesBelow x k + (x.getLsbD k).toNat

def execClz (r : CoreRun) (d n : Fin 32) (s : State) : Out :=
  .next (s.regInstr r 4 fun c => c.un d n fun x => BitVec.ofNat 64 (leadingZeros x 64))
def execPopc (r : CoreRun) (d n : Fin 32) (s : State) : Out :=
  .next (s.regInstr r 4 fun c => c.un d n fun x => BitVec.ofNat 64 (onesBelow x 64))

/-- The order MIN and MAX use (log entry 46). -/
def minMaxLt (x y : BitVec 64) : Bool := if Config.minMaxSigned then x.slt y else x.ult y

def execMin (r : CoreRun) (d n m : Fin 32) (s : State) : Out :=
  .next (s.regInstr r 4 fun c => c.bin d n m fun x y => if minMaxLt y x then y else x)
def execMax (r : CoreRun) (d n m : Fin 32) (s : State) : Out :=
  .next (s.regInstr r 4 fun c => c.bin d n m fun x y => if minMaxLt x y then y else x)
def execCmp (r : CoreRun) (n m : Fin 32) (s : State) : Out :=
  .next (s.regInstr r 4 fun c => (c.subFlags (c.readD n) (c.readD m) 0).1)
def execMov (r : CoreRun) (d n : Fin 32) (s : State) : Out := .next (s.regInstr r 4 fun c => c.un d n id)

/-! Immediate forms: the immediate is sign-extended (R288). -/

def sext16 (v : BitVec 16) : BitVec 64 := v.signExtend 64

def execAddi (r : CoreRun) (d n : Fin 32) (v : BitVec 16) (s : State) : Out :=
  .next (s.regInstr r 4 fun c => putD d (c.addFlags (c.readD n) (sext16 v) 0))
def execSubi (r : CoreRun) (d n : Fin 32) (v : BitVec 16) (s : State) : Out :=
  .next (s.regInstr r 4 fun c => putD d (c.subFlags (c.readD n) (sext16 v) 0))
def execAndi (r : CoreRun) (d n : Fin 32) (v : BitVec 16) (s : State) : Out :=
  .next (s.regInstr r 4 fun c => c.un d n (· &&& sext16 v))
def execOri (r : CoreRun) (d n : Fin 32) (v : BitVec 16) (s : State) : Out :=
  .next (s.regInstr r 4 fun c => c.un d n (· ||| sext16 v))
def execXori (r : CoreRun) (d n : Fin 32) (v : BitVec 16) (s : State) : Out :=
  .next (s.regInstr r 4 fun c => c.un d n (· ^^^ sext16 v))
def execShiftImmediate (r : CoreRun) (k : ShiftKind) (d n : Fin 32) (amount : Fin 64) (s : State) : Out :=
  .next (s.regInstr r 4 fun c => c.un d n fun x => shiftBy k x amount)
def execCmpi (r : CoreRun) (n : Fin 32) (v : BitVec 16) (s : State) : Out :=
  .next (s.regInstr r 4 fun c => (c.subFlags (c.readD n) (sext16 v) 0).1)
def execMovi (r : CoreRun) (d : Fin 32) (v : BitVec 16) (s : State) : Out :=
  .next (s.regInstr r 4 fun c => c.writeD d (sext16 v))

/-! Multiply and divide. -/

def execMul (r : CoreRun) (d n m : Fin 32) (s : State) : Out := .next (s.regInstr r 4 fun c => c.bin d n m (· * ·))
def execMulh (r : CoreRun) (d n m : Fin 32) (s : State) : Out :=
  .next (s.regInstr r 4 fun c => c.bin d n m fun x y => BitVec.ofInt 64 (x.toInt * y.toInt / 2 ^ 64))
def execMulhu (r : CoreRun) (d n m : Fin 32) (s : State) : Out :=
  .next (s.regInstr r 4 fun c => c.bin d n m fun x y => BitVec.ofNat 64 (x.toNat * y.toNat / 2 ^ 64))

/-- The signed quotient and remainder, rounded as the free value says (log entries 16 and 46). -/
def quotS (x y : BitVec 64) : BitVec 64 :=
  if x == BitVec.ofNat 64 (2 ^ 63) && y == BitVec.allOnes 64 then Config.divOverflow
  else BitVec.ofInt 64 (if Config.divTruncates then x.toInt.tdiv y.toInt else x.toInt.fdiv y.toInt)
def remS (x y : BitVec 64) : BitVec 64 :=
  BitVec.ofInt 64 (if Config.divTruncates then x.toInt.tmod y.toInt else x.toInt.fmod y.toInt)

/-- A division: with a divisor of 0, V is set and the result is `zero`. -/
def Core.divide (c : Core) (d n m : Fin 32) (zero : BitVec 64 → BitVec 64) (f : BitVec 64 → BitVec 64 → BitVec 64) : Core :=
  if c.readD m == 0 then (c.setV true).writeD d (zero (c.readD n)) else c.bin d n m f

def execDiv (r : CoreRun) (d n m : Fin 32) (s : State) : Out :=
  .next (s.regInstr r 4 fun c => c.divide d n m (fun _ => 0) quotS)
def execDivu (r : CoreRun) (d n m : Fin 32) (s : State) : Out :=
  .next (s.regInstr r 4 fun c => c.divide d n m (fun _ => 0) (· / ·))
def execRem (r : CoreRun) (d n m : Fin 32) (s : State) : Out := .next (s.regInstr r 4 fun c => c.divide d n m id remS)
def execRemu (r : CoreRun) (d n m : Fin 32) (s : State) : Out :=
  .next (s.regInstr r 4 fun c => c.divide d n m id (· % ·))

/-! Long immediates (R288). -/

def execLi (r : CoreRun) (d : Fin 32) (v : BitVec 40) (s : State) : Out :=
  .next (s.regInstr r 8 fun c => c.writeD d (v.signExtend 64))
def execLia (r : CoreRun) (d : Fin 16) (v : BitVec 40) (s : State) : Out :=
  .next (s.regInstr r 8 fun c => c.writeA d (v.setWidth 64))
def execLih (r : CoreRun) (d : Fin 32) (v : BitVec 40) (s : State) : Out :=
  .next (s.regInstr r 8 fun c => c.writeD d (bvInto (c.readD d) 40 24 v.toNat))

end Sys2Proof.Machine
end

