-- ==== Sys2Proof/Machine/CpuAddr.lean ====
section
/-!
DEFINITION. The address group and the accumulator group (spec/11, R282, R283).
-/

namespace Sys2Proof.Machine

/-! Address registers (R282). -/

/-- The second operand of an address instruction. -/
def Core.addrSrc (c : Core) : AddrSrc → BitVec 64
  | .d i => c.readD i
  | .a i => c.readA i
  | .imm v => sext16 v

def execAdda (r : CoreRun) (d n : Fin 16) (x : AddrSrc) (s : State) : Out :=
  .next (s.regInstr r 4 fun c => c.writeA d (c.readA n + c.addrSrc x))
def execSuba (r : CoreRun) (d n : Fin 16) (x : AddrSrc) (s : State) : Out :=
  .next (s.regInstr r 4 fun c => c.writeA d (c.readA n - c.addrSrc x))
def execLea (r : CoreRun) (d n : Fin 16) (m : Fin 32) (sc : Fin 4) (v : BitVec 16) (s : State) : Out :=
  .next (s.regInstr r 4 fun c => c.writeA d (c.readA n + c.readD m <<< sc.val + sext16 v))
def execCmpa (r : CoreRun) (n m : Fin 16) (s : State) : Out :=
  .next (s.regInstr r 4 fun c => (c.subFlags (c.readA n) (c.readA m) 0).1)
def execMova (r : CoreRun) (d : Fin 16) (n : Fin 32) (s : State) : Out :=
  .next (s.regInstr r 4 fun c => c.writeA d (c.readD n))
def execMovd (r : CoreRun) (d : Fin 32) (n : Fin 16) (s : State) : Out :=
  .next (s.regInstr r 4 fun c => c.writeD d (c.readA n))

/-! Accumulators (R283). -/

/-- The signed 128-bit product of two D registers. -/
def Core.product (c : Core) (n m : Fin 32) : Int := (c.readD n).toInt * (c.readD m).toInt

/-- A result that wraps, or with SATM saturates and sets Q. -/
def Core.macResult (c : Core) (d : Fin 4) (x : Int) : Core :=
  if !c.satm then c.writeAc d (BitVec.ofInt 128 x)
  else if 2 ^ 127 ≤ x then (c.setQ true).writeAc d (BitVec.ofInt 128 (2 ^ 127 - 1))
  else if x < -(2 ^ 127) then (c.setQ true).writeAc d (BitVec.ofInt 128 (-(2 ^ 127)))
  else c.writeAc d (BitVec.ofInt 128 x)

def execMac (r : CoreRun) (d : Fin 4) (n m : Fin 32) (s : State) : Out :=
  .next (s.acInstr r fun c => c.macResult d ((c.readAc d).toInt + c.product n m))
def execMsu (r : CoreRun) (d : Fin 4) (n m : Fin 32) (s : State) : Out :=
  .next (s.acInstr r fun c => c.macResult d ((c.readAc d).toInt - c.product n m))
def execMulac (r : CoreRun) (d : Fin 4) (n m : Fin 32) (s : State) : Out :=
  .next (s.acInstr r fun c => c.writeAc d (BitVec.ofInt 128 (c.product n m)))

/-- The signed 64-bit range, as a 128-bit value. -/
def clamp64 (x : Int) : Int := max (-(2 ^ 63)) (min x (2 ^ 63 - 1))

def execSat (r : CoreRun) (d : Fin 4) (s : State) : Out :=
  .next (s.acInstr r fun c =>
    let x := (c.readAc d).toInt
    (c.setQ (clamp64 x != x)).writeAc d (BitVec.ofInt 128 (clamp64 x)))

/-- An accumulator rounded to a multiple of `2 ^ b`: the nearest (log entry 47). -/
def roundAt (v : BitVec 128) (b : Nat) : BitVec 128 :=
  let x := v.toInt
  let low := x / 2 ^ b * 2 ^ b
  let rest := x - low
  let up := decide (2 ^ b < 2 * rest) || (2 * rest == 2 ^ b && Config.rndTieUp v b)
  let y := if up then low + 2 ^ b else low
  if 2 ^ 127 ≤ y then Config.rndOver v b else BitVec.ofInt 128 y

def execRnd (r : CoreRun) (d : Fin 4) (b : Fin 128) (s : State) : Out :=
  .next (s.acInstr r fun c => c.writeAc d (roundAt (c.readAc d) b))
def execAshr (r : CoreRun) (d : Fin 4) (amount : Fin 128) (s : State) : Out :=
  .next (s.acInstr r fun c => c.writeAc d ((c.readAc d).sshiftRight amount))
def execMvacl (r : CoreRun) (d : Fin 32) (n : Fin 4) (s : State) : Out :=
  .next (s.acInstr r fun c => c.writeD d ((c.readAc n).setWidth 64))
def execMvach (r : CoreRun) (d : Fin 32) (n : Fin 4) (s : State) : Out :=
  .next (s.acInstr r fun c => c.writeD d ((c.readAc n >>> 64).setWidth 64))
def execMvdac (r : CoreRun) (d : Fin 4) (hi lo : Fin 32) (s : State) : Out :=
  .next (s.acInstr r fun c => c.writeAc d (c.readD hi ++ c.readD lo))
def execClrac (r : CoreRun) (d : Fin 4) (s : State) : Out := .next (s.acInstr r fun c => c.writeAc d 0)

end Sys2Proof.Machine
end

