-- ==== Sys2Proof/Machine/CpuDec.lean ====
section
/-!
DEFINITION. Packed decimal (spec/11, R290–R292).
-/

namespace Sys2Proof.Machine

/-! Packed operands (R290). -/

/-- Digit `i`. -/
def digit (x i : Nat) : Nat := x / 16 ^ i % 16

/-- All of the low `k` nibbles are digits. -/
def digitsOk (x k : Nat) : Bool := (List.range k).all fun i => decide (digit x i ≤ 9)

/-- The value of the low `k` digits. -/
def packedVal (x : Nat) : Nat → Nat
  | 0 => 0
  | k + 1 => packedVal x k + digit x k * 10 ^ k

/-- The low `k` digits of a value, packed. -/
def packed (v : Nat) : Nat → Nat
  | 0 => 0
  | k + 1 => packed v k + v / 10 ^ k % 10 * 16 ^ k

/-- A result: its value, C and V. -/
structure DecRes where
  val : Nat
  c : Bool := false
  v : Bool := false

/-- Flags of a result whose value is zero or not (R291). -/
def Core.decFlags (c : Core) (r : DecRes) : Core := c.setNzcv false (r.val == 0) r.c r.v

/-- With DTRAP = 0 an invalid digit clears the flags and sets DI; the destination is written 0 beside (R290). -/
def Core.badDigit (c : Core) : Core := (c.setNzcv false false false false).setDi

/-! The form of an instruction. -/

/-- The digits of a form. -/
def decK (ac : Bool) : Nat := if ac then 32 else 16

/-- A decimal instruction with its sources valid or not: `put` writes a destination, `res` is its result. The AC form is
ILLEGAL on ZK. -/
def State.decInstr (s : State) (r : CoreRun) (ac : Bool) (ok : Core → Bool) (res : Core → DecRes) (put : Core → Nat → Core) : State :=
  s.instr r 4 fun t e =>
    let c := t.core e
    if ac && e == 6 then t.takeExc e c vIllegal 0 none
    else if ok c then t.setCore e ((put (c.decFlags (res c)) (res c).val).advance 4)
    else if c.dtrap then t.takeExc e c vDigit 0 none
    else t.setCore e ((put c.badDigit 0).advance 4)

/-- A register of a form as a number. -/
def Core.decD (c : Core) (i : Fin 32) : Nat := (c.readD i).toNat
def Core.decAc (c : Core) (i : Fin 4) : Nat := (c.readAc i).toNat
def putDecD (i : Fin 32) (c : Core) (v : Nat) : Core := c.writeD i (BitVec.ofNat 64 v)
def putDecAc (i : Fin 4) (c : Core) (v : Nat) : Core := c.writeAc i (BitVec.ofNat 128 v)

/-- Two packed sources of `k` digits. -/
def digits2 (k x y : Nat) : Bool := digitsOk x k && digitsOk y k

/-- The sum and the difference modulo `10 ^ k`, packed. -/
def decSum (k x y : Nat) : DecRes :=
  let v := packedVal x k + packedVal y k
  { val := packed (v % 10 ^ k) k, c := decide (10 ^ k ≤ v) }
def decDiff (k x y : Nat) : DecRes :=
  let a := packedVal x k
  let b := packedVal y k
  { val := packed ((10 ^ k + a - b) % 10 ^ k) k, c := decide (a < b) }

/-! Instructions (R291). -/

/-- Two sources and a destination. -/
def State.dec3 (s : State) (r : CoreRun) (x : Dec3) (f : Nat → Nat → Nat → DecRes) : State :=
  match x with
  | .d d n m => s.decInstr r false (fun c => digits2 16 (c.decD n) (c.decD m)) (fun c => f 16 (c.decD n) (c.decD m)) (putDecD d)
  | .ac d n m =>
    s.decInstr r true (fun c => digits2 32 (c.decAc n) (c.decAc m)) (fun c => f 32 (c.decAc n) (c.decAc m)) (putDecAc d)

def execDadd (r : CoreRun) (x : Dec3) (s : State) : Out := .next (s.dec3 r x decSum)
def execDsub (r : CoreRun) (x : Dec3) (s : State) : Out := .next (s.dec3 r x decDiff)

/-- DCMP writes no destination. -/
def execDcmp (r : CoreRun) (x : Dec2) (s : State) : Out :=
  .next (match x with
    | .d n m =>
      s.decInstr r false (fun c => digits2 16 (c.decD n) (c.decD m)) (fun c => decDiff 16 (c.decD n) (c.decD m)) fun c _ => c
    | .ac n m =>
      s.decInstr r true (fun c => digits2 32 (c.decAc n) (c.decAc m)) (fun c => decDiff 32 (c.decAc n) (c.decAc m)) fun c _ => c)

/-- One digit of DADJ: the carry in and the nibbles so far. -/
def adjustDigit (x : Nat) (nc : BitVec 16) (p : Nat × Nat) (i : Nat) : Nat × Nat :=
  let v := digit x i + p.1
  let v := if nc.getLsbD i || 9 < v then v + 6 else v
  (v / 16, p.2 + v % 16 * 16 ^ i)

/-- DADJ (R292). -/
def adjust (x : Nat) (nc : BitVec 16) : DecRes :=
  let p := (List.range 16).foldl (adjustDigit x nc) (0, 0)
  { val := p.2, c := p.1 != 0 || nc.getLsbD 15 }

/-- DADJ has no AC form. -/
def execDadj (r : CoreRun) (ac : Bool) (d n : Fin 32) (s : State) : Out :=
  .next (if ac then s.instr r 4 fun t e => t.takeExc e (t.core e) vIllegal 0 none
    else s.decInstr r false (fun _ => true) (fun c => adjust (c.decD n) c.nc) (putDecD d))

/-- Shifts by `n` digits: C when a non-zero digit leaves. -/
def decLeft (n k x : Nat) : DecRes :=
  let v := packedVal x k
  { val := packed (v * 10 ^ n % 10 ^ k) k, c := decide (10 ^ k ≤ v * 10 ^ n) }
def decRight (n k x : Nat) : DecRes :=
  let v := packedVal x k
  { val := packed (v / 10 ^ n) k, c := v % 10 ^ n != 0 }

/-- One source and a destination. -/
def State.dec2 (s : State) (r : CoreRun) (x : Dec2) (f : Nat → Nat → DecRes) : State :=
  match x with
  | .d d n => s.decInstr r false (fun c => digitsOk (c.decD n) 16) (fun c => f 16 (c.decD n)) (putDecD d)
  | .ac d n => s.decInstr r true (fun c => digitsOk (c.decAc n) 32) (fun c => f 32 (c.decAc n)) (putDecAc d)

def execDshl (r : CoreRun) (x : Dec2) (n : Fin 64) (s : State) : Out := .next (s.dec2 r x (decLeft n))
def execDshr (r : CoreRun) (x : Dec2) (n : Fin 64) (s : State) : Out := .next (s.dec2 r x (decRight n))

/-- Binary to packed: the D form holds 16 digits and V says that there were more. -/
def toPacked (k x : Nat) : DecRes := { val := packed (x % 10 ^ k) k, v := decide (10 ^ k ≤ x) }

def execDcvt (r : CoreRun) (x : DecCvt) (s : State) : Out :=
  .next (match x with
    | .d d n => s.decInstr r false (fun _ => true) (fun c => toPacked 16 (c.decD n)) (putDecD d)
    | .ac d n => s.decInstr r true (fun _ => true) (fun c => toPacked 32 (c.decD n)) (putDecAc d))

/-- Packed to binary: a value of 2⁶⁴ or more gives 2⁶⁴ − 1 and V. -/
def toBinary (k x : Nat) : DecRes :=
  let v := packedVal x k
  { val := min v (2 ^ 64 - 1), v := decide (2 ^ 64 ≤ v) }

def execBcvt (r : CoreRun) (x : BinCvt) (s : State) : Out :=
  .next (match x with
    | .d d n => s.decInstr r false (fun c => digitsOk (c.decD n) 16) (fun c => toBinary 16 (c.decD n)) (putDecD d)
    | .ac d n => s.decInstr r true (fun c => digitsOk (c.decAc n) 32) (fun c => toBinary 32 (c.decAc n)) (putDecD d))

end Sys2Proof.Machine
end

