-- ==== Sys2Proof/Machine/CpuMem.lean ====
section
/-!
DEFINITION. Loads, stores, branches and jumps (spec/11, R282, R286–R289, R305).
-/

namespace Sys2Proof.Machine

/-- The address of a load or store (R288). -/
def Core.memAddr (c : Core) : MemAddr → Nat
  | .disp b v => (c.readA b + v.signExtend 64).toNat
  | .indexed b i sc v => (c.readA b + c.readD i <<< sc.val + v.signExtend 64).toNat

def widthBytes : MemWidth → Nat
  | .b1 => 1
  | .b2 => 2
  | .b4 => 4
  | .b8 => 8

/-- A loaded value of a width in its register: extended with its sign or with zeros. -/
def loadExtend (v size : Nat) (sx : Bool) : BitVec 128 :=
  if sx && 2 ^ (8 * size - 1) ≤ v then BitVec.ofNat 128 (2 ^ 64 - 2 ^ (8 * size) + v) else BitVec.ofNat 128 v

/-- An access that the address or the translation stops (R289, R297, R303): its vector and detail. -/
def State.dataAccess (s : State) (e va size : Nat) (k : AccKind) (w : MemErr) : State × Except (Nat × Nat) Nat :=
  if va % size != 0 then (s, .error (vAlign, 0))
  else
    match s.translate e va k w with
    | (t, .phys p) => (t, .ok p)
    | (t, .fault d) => (t, .error (if k == .write then vStoreFault else vLoadFault, d))
    | (t, .machineCheck) => (t, .error (vMachineCheck, 0))

/-- The value of a load lands after the slots that follow it (R286). -/
def State.loadLands (s : State) (e : Nat) (x : LoadDest) (v size : Nat) (sx : Bool) : State :=
  s.setCore e (((s.core e).advance 4).landLoad x (loadExtend v size sx))

/-- A load by a core. -/
def State.coreLoad (s : State) (e va size : Nat) (x : LoadDest) (sx : Bool) (err w : MemErr) : State :=
  match s.dataAccess e va size .read w with
  | (t, .error v) => t.takeExc e (t.core e) v.1 v.2 (some va)
  | (t, .ok p) =>
    match t.load (epMaster e) p size err with
    | (u, .value v) => u.loadLands e x v size sx
    | (u, .stalled) =>
      u.pushStall
        { m := epMaster e, addr := p, size := size, store := none, load := some (x, sx), instr := true, va := va, ecc := err }
    | (u, .busError) => u.takeExc e (u.core e) vBusError 0 (some va)
    | (u, .machineCheck) => u.takeExc e (u.core e) vMachineCheck 0 (some va)

/-- A store by a core: it has ended when its target sees it. -/
def State.coreStore (s : State) (e va size v : Nat) (err w : MemErr) : State :=
  match s.dataAccess e va size .write w with
  | (t, .error x) => t.takeExc e (t.core e) x.1 x.2 (some va)
  | (t, .ok p) =>
    let c := t.core e
    match (t.setCore e (c.advance 4)).store (epMaster e) p size v err with
    | (u, .done) => u
    | (u, .stalled) =>
      (u.setCore e c).pushStall
        { m := epMaster e, addr := p, size := size, store := some (BitVec.ofNat 128 v), instr := true, va := va }
    | (u, .busError) => u.takeExc e c vBusError 0 (some va)

/-- The destination of a load of a register. -/
def genDest : GenReg → LoadDest
  | .d i => .d i
  | .a i => .a i

/-- The value a store takes from its register. -/
def Core.readGen (c : Core) : GenReg → BitVec 64
  | .d i => c.readD i
  | .a i => c.readA i

def execLoad (r : CoreRun) (t : GenReg) (w : MemWidth) (sx : Bool) (a : MemAddr) (err : MemErr) (s : State) : Out :=
  .next (s.instr r 4 fun u e => u.coreLoad e ((u.core e).memAddr a) (widthBytes w) (genDest t) sx err r.walk)
def execStore (r : CoreRun) (t : GenReg) (w : MemWidth) (a : MemAddr) (err : MemErr) (s : State) : Out :=
  .next (s.instr r 4 fun u e =>
    let size := widthBytes w
    u.coreStore e ((u.core e).memAddr a) size (((u.core e).readGen t).toNat % 2 ^ (8 * size)) err r.walk)

/-- The accumulator forms are ILLEGAL on ZK (R279). -/
def State.acAccess (s : State) (r : CoreRun) (f : State → Nat → State) : State :=
  s.instr r 4 fun t e => if e == 6 then t.takeExc e (t.core e) vIllegal 0 none else f t e

def execLdac (r : CoreRun) (t : Fin 4) (a : MemAddr) (err : MemErr) (s : State) : Out :=
  .next (s.acAccess r fun u e => u.coreLoad e ((u.core e).memAddr a) 16 (.ac t) false err r.walk)
def execStac (r : CoreRun) (t : Fin 4) (a : MemAddr) (err : MemErr) (s : State) : Out :=
  .next (s.acAccess r fun u e => u.coreStore e ((u.core e).memAddr a) 16 ((u.core e).readAc t).toNat err r.walk)

/-! Branches and jumps. -/

/-- COND (R288). -/
def Core.holds (c : Core) (cond : Fin 16) : Bool :=
  match cond.val with
  | 0x1 => c.flagZ
  | 0x2 => !c.flagZ
  | 0x3 => c.flagC
  | 0x4 => !c.flagC
  | 0x5 => c.flagN
  | 0x6 => !c.flagN
  | 0x7 => c.flagV
  | 0x8 => !c.flagV
  | 0x9 => !c.flagC && !c.flagZ
  | 0xA => c.flagC || c.flagZ
  | 0xB => c.flagN != c.flagV
  | 0xC => c.flagN == c.flagV
  | 0xD => !c.flagZ && c.flagN == c.flagV
  | 0xE => c.flagZ || c.flagN != c.flagV
  | _ => true

/-- The target of a branch at the program counter. -/
def Core.target (c : Core) (off : BitVec 22) : BitVec 64 :=
  c.pc + (if Config.branchFromNext then 4 else 0) + off.signExtend 64 * 4

/-- The return address goes to A14. -/
def Core.link (c : Core) : Core := c.writeA 14 (c.pc + 4)

def execBranch (r : CoreRun) (cond : Fin 16) (off : BitVec 22) (s : State) : Out :=
  .next (s.instr r 4 fun t e =>
    let c := t.core e
    let c := if cond == 15 then c.link else c
    t.setCore e (if c.holds cond then c.goto (c.target off) else c.advance 4))
def execJr (r : CoreRun) (n : Fin 16) (s : State) : Out :=
  .next (s.instr r 4 fun t e => t.setCore e ((t.core e).goto ((t.core e).readA n)))
def execJlr (r : CoreRun) (n : Fin 16) (s : State) : Out :=
  .next (s.instr r 4 fun t e => t.setCore e ((t.core e).link.goto ((t.core e).readA n)))

end Sys2Proof.Machine
end

