-- ==== Sys2Proof/Machine/CpuSys.lean ====
section
/-!
DEFINITION. The mailbox and system instructions, interrupts and lockstep (spec/11, R280, R284, R285, R293–R301, R304, R305).
-/

namespace Sys2Proof.Machine

/-! Mailbox instructions (R293, R294). -/

/-- WPOST; a word to ZS reaches the gate at once (spec/16, R408, R414), and Dd tells of the post. With REFUSED_POLICY there is no
queue whose words Dd could count (log entry 53). -/
def State.wpost (s : State) (e : Nat) (d : Fin 32) (mb : Nat) (v : BitVec 64) : State :=
  match s.mbxSide? mb e with
  | none =>
    let n := s.draw.1.toNat % 16
    s.draw.2.setCore e (((s.core e).writeD d (BitVec.ofNat 64 (n * 16 + istatPolicy))).advance 4)
  | some k =>
    let p := s.mbxPost mb k v
    let n := (p.1.side mb k).queue.length
    (p.1.setCore e (((p.1.core e).writeD d (BitVec.ofNat 64 (n * 16 + p.2))).advance 4)).gateWords

def execWpost (r : CoreRun) (d : Fin 32) (mb : Fin 16) (n : Fin 32) (s : State) : Out :=
  .next (s.privInstr r fun t e => t.wpost e d mb ((t.core e).readD n))

/-- WACK: with no unfinished word it ends at once; otherwise it waits, and a mutual wait releases both (spec/12, R317,
R318). -/
def State.wack (s : State) (e : Nat) (d : Fin 32) (mb : Nat) (timed : Bool) : State :=
  let none_ := s.setCore e (((s.core e).writeD d 0x40).advance 4)
  match s.mbxSide? mb e with
  | none => none_
  | some k =>
    match (s.side mb k).queue with
    | [] => none_
    | w :: _ =>
      let s := s.setCore e { s.core e with wait := some (.wack d (Fin.ofNat 16 mb) timed) }
      (s.setSide mb k { s.side mb k with wait := some w.tag }).crossed mb k

def execWack (r : CoreRun) (d : Fin 32) (mb : Fin 16) (n : Fin 32) (s : State) : Out :=
  .next (s.privInstr r fun t e => t.wack e d mb ((t.core e).readD n != 0))

/-- A waiting WACK's time-out passes. -/
def State.wackTimeout (s : State) (e : Nat) : State :=
  match (s.core e).wait with
  | some (.wack _ mb true) =>
    match s.mbxSide? mb e with
    | some k => s.wackEnd e mb k 0x21
    | none => s
  | _ => s

def execWackTimeout (n : Fin 6) (s : State) : Out := .next (s.wackTimeout (n.val + 1))

/-! Special registers (R284, R285, R295, R296). -/

/-- The level a read of a special register needs; none for a number outside the table. At user level R296 allows PSR, FEAT
and CYCLE only (log entry 54). -/
def srReadLevel (sr : Nat) : Option Nat :=
  if sr == 0 || (0x50 ≤ sr && sr ≤ 0x53) || sr == 0x60 then some 0
  else if (0x10 ≤ sr && sr ≤ 0x1B) || sr == 0x30 || sr == 0x31 || sr == 0x40 || sr == 0x41 then some 1
  else if (0x20 ≤ sr && sr ≤ 0x2B) || sr == 0x32 then some 2
  else if (0x100 ≤ sr && sr ≤ 0x102) || (0x110 ≤ sr && sr ≤ 0x113) || (0x120 ≤ sr && sr ≤ 0x123) || (0x130 ≤ sr && sr ≤ 0x13F)
  then some 1
  else none

/-- The level a write needs: FEAT and CYCLE are not among the registers user level may write (R296), PTBR is monitor's. -/
def srWriteLevel (sr : Nat) : Option Nat :=
  if sr == 0x40 then some 2 else (srReadLevel sr).map fun l => if l == 0 && sr != 0 then 1 else l

/-- A window as numbers: destination (D, then A, then AC), slots left and old value. -/
def windowCode (w : Window) : Nat × Nat × Nat :=
  (match w.dest with | .d i => i.val | .a i => 32 + i.val | .ac i => 48 + i.val, w.left, w.old.toNat)

/-- The window that numbers stand for. -/
def windowOf (x : Nat × Nat × Nat) : Window :=
  let n := x.1 % 52
  let dest : LoadDest := if n < 32 then .d (Fin.ofNat 32 n) else if n < 48 then .a (Fin.ofNat 16 n) else .ac (Fin.ofNat 4 n)
  ⟨dest, max 1 (x.2.1 % 3), BitVec.ofNat 128 x.2.2⟩

/-- EDLY_x as its words and as windows (log entry 18). -/
def ExcRegs.word (x : ExcRegs) (j : Nat) : BitVec 64 :=
  if x.edlyRaw.isEmpty then Config.edlyWord (x.edly.map windowCode) j else x.edlyRaw.getD j 0
def ExcRegs.windows (x : ExcRegs) : List Window :=
  if x.edlyRaw.isEmpty then x.edly else ((Config.edlyWindows x.edlyRaw).take 2).map windowOf

/-- A word of EDLY_x written: the value it already has changes nothing. -/
def ExcRegs.setWord (x : ExcRegs) (j : Nat) (v : BitVec 64) : ExcRegs :=
  if x.word j == v then x else { x with edlyRaw := ((List.range 7).map x.word).set j v }

/-- Register `j` of a level's exception registers. -/
def ExcRegs.read (x : ExcRegs) (j : Nat) : BitVec 64 :=
  match j with
  | 0 => x.epc
  | 1 => x.esr
  | 2 => x.ecause
  | 3 => x.eva
  | 4 => x.vbar
  | _ => x.word (j - 5)
def ExcRegs.write (x : ExcRegs) (j : Nat) (v : BitVec 64) : ExcRegs :=
  match j with
  | 0 => { x with epc := v }
  | 1 => { x with esr := v }
  | 2 => { x with ecause := v }
  | 3 => { x with eva := v }
  | 4 => { x with vbar := v }
  | _ => x.setWord (j - 5) v

/-- FEAT0–FEAT3 of a core (R295). -/
def State.feat (s : State) (e j : Nat) : BitVec 64 :=
  match j with
  | 0 => if e == 6 then 0x1EB else 0x1FF
  | 1 => BitVec.ofNat 64 (e * 2 ^ 16 + s.cpu.lock23.toNat * 2 ^ 11 + s.cpu.lock01.toNat * 2 ^ 10 + 0x3F)
  | 2 => 0x1FFFFF
  | _ => 0xC1B0

/-- A stack pointer by level, as an instruction reads and writes it. -/
def Core.readSp (c : Core) (l : Nat) : BitVec 64 := if l == c.level then c.readA 15 else tget 0 c.sp l
def Core.writeSp (c : Core) (l : Nat) (v : BitVec 64) : Core :=
  if l == c.level then c.writeA 15 v else { c with sp := tset 0 c.sp l v }

/-- The value of a special register. CYCLE counts clocks, which the model does not: a free value. -/
def State.srRead (s : State) (e sr : Nat) : State × BitVec 64 :=
  let c := s.core e
  if sr == 0 then (s, c.psr)
  else if sr < 0x20 then (s, c.excS.read (sr - 0x10))
  else if sr < 0x30 then (s, c.excM.read (sr - 0x20))
  else if sr < 0x40 then (s, c.readSp (sr - 0x30))
  else if sr == 0x40 then (s, c.ptbr)
  else if sr == 0x41 then (s, c.asid)
  else if sr < 0x60 then (s, s.feat e (sr - 0x50))
  else if sr == 0x60 then (s.draw.2, s.draw.1)
  else if sr == 0x100 then (s, BitVec.ofNat 64 c.icCur)
  else if sr == 0x101 then ((s.icAck e).1, BitVec.ofNat 64 (s.icAck e).2)
  else if sr == 0x102 then (s, 0)
  else if sr < 0x120 then (s, tget 0 c.icEn (sr - 0x110))
  else if sr < 0x130 then (s, s.icPending e (sr - 0x120))
  else (s, tget 0 c.icPri (sr - 0x130))

/-- PSR written: only its RW fields change, LEVEL 3 is ignored, and user level changes NC, DI, Q and the flags only
(R284). -/
def psrWrite (old v : BitVec 64) (user : Bool) : BitVec 64 :=
  let mask : BitVec 64 := if user then 0x0000FFFF0000003F else 0x0000FFFF0000FC3F
  let w := (old &&& ~~~ mask) ||| (v &&& mask)
  if bvField w 14 2 == 3 then bvInto w 14 2 (bvField old 14 2) else w

/-- A special register written. -/
def State.srWrite (s : State) (e sr : Nat) (v : BitVec 64) : State :=
  let c := s.core e
  if sr == 0 then s.setCore e { c with psr := psrWrite c.psr v (c.level == 0) }
  else if sr < 0x20 then s.setCore e { c with excS := c.excS.write (sr - 0x10) v }
  else if sr < 0x30 then s.setCore e { c with excM := c.excM.write (sr - 0x20) v }
  else if sr < 0x40 then s.setCore e (c.writeSp (sr - 0x30) v)
  else if sr == 0x40 then s.setCore e { c with ptbr := v }
  else if sr == 0x41 then s.setCore e { c with asid := v &&& 0xFF }
  else if sr == 0x100 then s.setCore e { c with icCur := v.toNat % 16 }
  else if sr == 0x102 then s.icEoi e
  else if 0x110 ≤ sr && sr < 0x120 then s.setCore e { c with icEn := tset 0 c.icEn (sr - 0x110) v }
  else if 0x130 ≤ sr then s.setCore e { c with icPri := tset 0 c.icPri (sr - 0x130) v }
  else s

/-- A special-register access: an unknown number is ILLEGAL, a level below the one it needs PRIVILEGE. -/
def State.srAccess (s : State) (r : CoreRun) (need : Option Nat) (f : State → Nat → State) : State :=
  s.instr r 4 fun t e =>
    match need with
    | none => t.takeExc e (t.core e) vIllegal 0 none
    | some l => if (t.core e).level < l then t.takeExc e (t.core e) vPrivilege 0 none else f t e

def State.mfsr (s : State) (r : CoreRun) (d : Fin 32) (sr : Nat) : State :=
  s.srAccess r (srReadLevel sr) fun t e =>
    let x := t.srRead e sr
    x.1.setCore e (((x.1.core e).writeD d x.2).advance 4)

def State.mtsr (s : State) (r : CoreRun) (sr : Nat) (n : Fin 32) : State :=
  s.srAccess r (srWriteLevel sr) fun t e =>
    let u := t.srWrite e sr ((t.core e).readD n)
    u.setCore e ((u.core e).advance 4)

def execMfsr (r : CoreRun) (d : Fin 32) (sr : BitVec 16) (s : State) : Out := .next (s.mfsr r d sr.toNat)
def execMtsr (r : CoreRun) (sr : BitVec 16) (n : Fin 32) (s : State) : Out := .next (s.mtsr r sr.toNat n)
def execIcAck (r : CoreRun) (d : Fin 32) (s : State) : Out := .next (s.mfsr r d 0x101)
def execIcEoi (r : CoreRun) (n : Fin 32) (s : State) : Out := .next (s.mtsr r 0x102 n)

/-! Traps and returns (R297, R298). -/

/-- TRAP, whose EPC is the next instruction; as a double fault it is a MACHINE_CHECK, whose EPC is the TRAP (R297, R299). -/
def State.trap (s : State) (e : Nat) : State :=
  let c := s.core e
  s.takeExc e (if c.level == 1 && c.exl then c else c.advance 4) vTrap 0 none

def execTrap (r : CoreRun) (s : State) : Out := .next (s.instr r 4 fun t e => t.trap e)
def execMcall (r : CoreRun) (s : State) : Out :=
  .next (s.privInstr r fun t e => t.takeExc e ((t.core e).advance 4) vMcall 0 none)

/-- ERET at the present level: PSR, the windows and the program counter of before. -/
def Core.eret (c : Core) : Core :=
  let x := c.exc c.level
  { c with psr := psrWrite c.psr x.esr false, pc := x.epc, windows := x.windows }

def execEret (r : CoreRun) (s : State) : Out := .next (s.privInstr r fun t e => t.setCore e (t.core e).eret)

/-! Waiting and interrupts (R301). -/

/-- WFI waits unless a source qualifies already. -/
def State.wfi (s : State) (e : Nat) : State :=
  let c := (s.core e).advance 4
  s.setCore e (if (s.icNext e).isSome then c else { c with wait := some .wfi })

def execWfi (r : CoreRun) (s : State) : Out := .next (s.privInstr r fun t e => t.wfi e)

def execWfiWake (n : Fin 6) (s : State) : Out :=
  .next (let e := n.val + 1
    if (s.core e).wait == some .wfi && (s.icNext e).isSome then s.setCore e { s.core e with wait := none } else s)

/-- The wait of a WACK that an interrupt abandons (R294). -/
def State.wackAbandon (s : State) (e : Nat) : State :=
  match (s.core e).wait with
  | some (.wack _ mb _) =>
    match s.mbxSide? mb e with
    | some k => s.setSide mb k { s.side mb k with wait := none }
    | none => s
  | _ => s

/-- An interrupt may be taken: at a boundary outside every open window, with IE set and a source that qualifies. -/
def State.irqDue (s : State) (e : Nat) : Bool :=
  let c := s.core e
  c.released && !c.halted && !c.stopped && s.coreHome e == e && c.windows.isEmpty && c.ie && (s.icNext e).isSome &&
  !s.nv.stalled.any fun x => x.instr && x.m == epMaster e

def execInterruptDeliver (n : Fin 6) (s : State) : Out :=
  .next (let e := n.val + 1
    if s.irqDue e then (s.wackAbandon e).takeExc e (s.core e) vInterrupt 0 none else s)

/-! Ordering and caches (R304, R305). -/

/-- Stores of this model end when they are made, so FENCE has nothing to wait for. -/
def execFence (r : CoreRun) (s : State) : Out := .next (s.privInstr r fun t e => t.setCore e ((t.core e).advance 4))

/-- What an instruction cache holds is not modelled (log entry 50). -/
def execIflush (r : CoreRun) (s : State) : Out := .next (s.privInstr r fun t e => t.setCore e ((t.core e).advance 4))

/-- The cached translations a TLBINV leaves. -/
def Core.tlbInv (c : Core) (k : TlbScope) : Core :=
  match k with
  | .all => { c with tlb := [] }
  | .asid n => { c with tlb := c.tlb.filter fun t => t.pte.getLsbD 5 || t.asid != bvField (c.readD n) 0 8 }
  | .va n =>
    { c with tlb := c.tlb.filter fun t =>
        !(t.vpn == bvField (c.readD n) 16 24 && (t.pte.getLsbD 5 || t.asid == bvField c.asid 0 8)) }

def execTlbinv (r : CoreRun) (k : TlbScope) (s : State) : Out :=
  .next (s.privInstr r fun t e => t.setCore e (((t.core e).tlbInv k).advance 4))

/-! Lockstep (R280). -/

/-- The outputs of a pair that runs in lockstep differ: both cores stop. -/
def State.lockstepStop (s : State) (pair : Nat) : State :=
  let on := if pair == 0 then s.cpu.lock01 else s.cpu.lock23
  let e := 2 * pair + 1
  if on && (s.core e).released && !(s.core e).stopped then
    (s.setCore e { s.core e with stopped := true }).raiseL (240 + pair)
  else s

def execLockstepMismatch (pair : Fin 2) (s : State) : Out := .next (s.lockstepStop pair)

end Sys2Proof.Machine
end

