-- ==== Sys2Proof/Machine/Dom.lean ====
section
/-!
DEFINITION. Domains that power up on demand, and the accesses that waited for them or for an NV line (spec/13, R331; spec/14,
R368).
-/

namespace Sys2Proof.Machine

/-- A core's instruction that stalled goes on with its access, already translated. -/
def State.instrResume (s : State) (x : Stall) (e : Nat) : State :=
  match x.store with
  | some v =>
    let c := s.core e
    match (s.setCore e (c.advance 4)).store x.m x.addr x.size v.toNat .good with
    | (u, .done) => u
    | (u, .stalled) => (u.setCore e c).pushStall x
    | (u, .busError) => u.takeExc e c vBusError 0 (some x.va)
  | none =>
    match s.load x.m x.addr x.size x.ecc with
    | (u, .value v) => match x.load with
      | some (d, sx) => u.loadLands e d v x.size sx
      | none => u
    | (u, .stalled) => u.pushStall x
    | (u, _) => u.takeExc e (u.core e) vBusError 0 (some x.va)

/-- An access that stalled is made now; the host port's next status tells of a bus error (spec/18, R458). -/
def State.stallResume (s : State) (x : Stall) : State :=
  match x.instr, coreEp x.m with
  | true, some e => s.instrResume x e
  | _, _ =>
    let s := if x.m == .host then { s with reply := none } else s
    let s := match x.store with
      | some v => s.busWrite x.m x.addr x.size v.toNat .good
      | none => s.busRead x.m x.addr x.size x.ecc
    if x.m == .host && s.replyErr then { s with host := { s.host with busErr := true } } else s

/-- The stalled accesses that meet a condition are made, oldest first. -/
def State.resumeStalls (s : State) (p : Stall → Bool) : State :=
  let due := s.nv.stalled.filter p
  let s : State := { s with nv := { s.nv with stalled := s.nv.stalled.filter fun x => !p x } }
  s.each due fun x t => t.stallResume x

/-- The programming of a master's line ends. -/
def State.nvProgrammed (s : State) (m : Master) : State :=
  match s.nvBusy m.num with
  | none => s
  | some l => ((s.nvCommit l).setNvBusy m.num none).resumeStalls fun x => x.m == m && region x.addr == .nv

def execNvProgramDone (m : Master) (s : State) : Out := .next (s.nvProgrammed m)

/-- The domain an access waits for: 4 is NET, 5 is NV. -/
def stallDomain (x : Stall) : Nat := if region x.addr == .nv then 5 else 4

/-- An access to a domain that may be off: it stalls and powers the domain up, or is made. -/
def State.demandAccess (s : State) (m : Master) (a size : Nat) (op : DemandOp) : State :=
  match op with
  | .write v e => s.busWrite m a size v.toNat e
  | .read e => s.busRead m a size e

def execDomainDemandAccess (m : Master) (a : BitVec 40) (w : MemWidth) (op : DemandOp) (s : State) : Out :=
  .next (s.demandAccess m a.toNat (widthBytes w) op)

/-- The writes by hardware that waited for the NV domain reach it. -/
def State.heldWrites (s : State) : State :=
  ({ s with nv := { s.nv with held := [] } } : State).each s.nv.held fun x t => t.nvPut x

/-- Domain `d` (4 NET, 5 NV) is READY: what waited for it is done, that of hardware first (log entry 72). -/
def State.domainReady (s : State) (d : Nat) : State :=
  if d == 4 || d == 5 then
    let s := s.put PMU_DOMSTAT_READY (s.fld PMU_DOMSTAT_READY ||| 2 ^ d)
    ((s.when (d == 5) State.heldWrites).bsqResume d).resumeStalls fun x => stallDomain x == d
  else s

def execDomainReady (d : Fin 8) (s : State) : Out := .next (s.domainReady d)

/-- A stalled access ends with a bus error. -/
def State.stallFails (s : State) (x : Stall) : State :=
  match x.instr, coreEp x.m with
  | true, some e => s.takeExc e (s.core e) vBusError 0 (some x.va)
  | _, _ => if x.m == .host then { s.busError with host := { s.host with busErr := true } } else s.busError

/-- Hardware waits for the NV domain: a fault record is to be written (spec/17, R445), or another write. -/
def State.nvAwaited (s : State) (d : Nat) : Bool := d == 5 && !(s.fcu.records.isEmpty && s.nv.held.isEmpty)

/-- A domain is not READY within 2 ms of a stalled access: every access that waits for it fails, and a write by hardware is
lost. A fault record stays in its queue (log entry 82); the sequencer's access ends with a bus error. -/
def State.domainTimeout (s : State) (d : Nat) : State :=
  let due := s.nv.stalled.filter fun x => stallDomain x == d
  if (s.fld PMU_DOMSTAT_READY).testBit d || due.isEmpty && !s.nvAwaited d && !s.bsqAwaits d then s
  else
    let s := ((s.put PMU_DOMSTAT_TMO (s.fld PMU_DOMSTAT_TMO ||| 2 ^ d)).raiseBit PMU_IRQ_DOMTMO).raiseL 265
    let s : State := { s with nv := { s.nv with
      stalled := s.nv.stalled.filter fun x => stallDomain x != d, held := if d == 5 then [] else s.nv.held } }
    (s.each due fun x t => t.stallFails x).bsqStallFails d

def execDomainReadyTimeout (d : Fin 8) (s : State) : Out := .next (s.domainTimeout d)

end Sys2Proof.Machine
end

