-- ==== Sys2Proof/Machine/Tick.lean ====
section
/-!
DEFINITION. The idle tick: what one CK_PER cycle of 8 ns does while no command waits (log entry 2).
-/

namespace Sys2Proof.Machine

/-- The counters' edge, the two CK_NET edges of the NTU and a cycle of the Ethernet ports (spec/07, R190, R200; spec/09,
R244), in RUN and DOZE. -/
def State.clockEdges (s : State) : State :=
  if s.pstate ≤ 1 && !s.sys.inReset then s.gtEdgeAll.ntuEdge.ntuEdge.ethTick else s

/-- The always-on clock has an edge in this cycle (spec/17, R434; spec/14, R382): CK_PER in RUN and DOZE, ZK's clock in HOLD,
CK_SLOW in PARK. -/
def State.aonEdge (s : State) : Bool :=
  let slow := s.slowCount != ({ s with now := s.now - 1 } : State).slowCount
  if s.pstate ≤ 1 then true
  else if 3 ≤ s.pstate then slow
  else match s.fld PMU_CFG_ZKSEL with
    | 0 => slow
    | 1 => s.now % 16 == 0
    | _ => s.now % 2 == 0

/-- A reaction leaves the S3 count on the CK_SLOW edge on which its age reaches the window (spec/17, R444). -/
def State.s3Tick (s : State) : State := s.when (s.s3Counted.length != s.fcu.s3Ages.length) State.s3Age

/-- One CK_PER cycle: model time, counters and NTU, the counter levels that reach the P-die (spec/02, R59), the minimum on-time
of counter-driven channels (spec/02, R62), the age of the S3 reactions, and a sample of the fault collector on an edge of its
clock (spec/17, R434). -/
def State.tick (s : State) : State :=
  let s : State := { s with now := s.now + 1 }
  if s.sys.por then s else (s.clockEdges.countersArrive.pulsesEnd.s3Tick.when s.aonEdge State.fcuSampleAll).pmuPendTick

end Sys2Proof.Machine
end

