-- ==== Sys2Proof/Machine/Dispatch.lean ====
section
/-!
DEFINITION. The dispatch: one arm per command of the block, each a direct call of its meaning.
-/

namespace Sys2Proof.Machine

def exec (i : Instr) (s : State) : Host.Outcome State Fault Refusal :=
  match i with
  | .txnAllocRead m a => Sys2Proof.Machine.execTxnAllocRead m a s
  | .txnFreeWrite m h => Sys2Proof.Machine.execTxnFreeWrite m h s
  | .txnStagingWrite m h r v => Sys2Proof.Machine.execTxnStagingWrite m h r v s
  | .commit m h => Sys2Proof.Machine.execCommit m h s
  | .txnArmed h => Sys2Proof.Machine.execTxnArmed h s
  | .shadowDiscard h crc => Sys2Proof.Machine.execShadowDiscard h crc s
  | .stitchShiftEnd k returned ecc => Sys2Proof.Machine.execStitchShiftEnd k returned ecc s
  | .pointOfNoReturn h => Sys2Proof.Machine.execPointOfNoReturn h s
  | .commitEdge hs => Sys2Proof.Machine.execCommitEdge hs s
  | .itemWindowEnd h j => Sys2Proof.Machine.execItemWindowEnd h j s
  | .txnCancel m h => Sys2Proof.Machine.execTxnCancel m h s
  | .txnNtxSend m v => Sys2Proof.Machine.execTxnNtxSend m v s
  | .commitNoticeRx port n => Sys2Proof.Machine.execCommitNoticeRx port n s
  | .feedUndervoltage f => Sys2Proof.Machine.execFeedUndervoltage f s
  | .feedRestore f => Sys2Proof.Machine.execFeedRestore f s
  | .wireModelStep tdie sense => Sys2Proof.Machine.execWireModelStep tdie sense s
  | .scTrip x => Sys2Proof.Machine.execScTrip x s
  | .ocTrip x => Sys2Proof.Machine.execOcTrip x s
  | .ocBlankEnd n => Sys2Proof.Machine.execOcBlankEnd n s
  | .otTrip n => Sys2Proof.Machine.execOtTrip n s
  | .retryAttempt n => Sys2Proof.Machine.execRetryAttempt n s
  | .retryCountClear n => Sys2Proof.Machine.execRetryCountClear n s
  | .rclr m n => Sys2Proof.Machine.execRclr m n s
  | .tclr n => Sys2Proof.Machine.execTclr n s
  | .ambStale k => Sys2Proof.Machine.execAmbStale k s
  | .governorMeasure pmeas ia ib => Sys2Proof.Machine.execGovernorMeasure pmeas ia ib s
  | .inrushStep => Sys2Proof.Machine.execInrushStep s
  | .reverseCurrentOff n => Sys2Proof.Machine.execReverseCurrentOff n s
  | .reverseCurrentRecover n => Sys2Proof.Machine.execReverseCurrentRecover n s
  | .overvoltageStart => Sys2Proof.Machine.execOvervoltageStart s
  | .overvoltageEnd => Sys2Proof.Machine.execOvervoltageEnd s
  | .saGo a => Sys2Proof.Machine.execSaGo a s
  | .saCounterTrigger a => Sys2Proof.Machine.execSaCounterTrigger a s
  | .saTimeTrigger a => Sys2Proof.Machine.execSaTimeTrigger a s
  | .saTimeWrite a v => Sys2Proof.Machine.execSaTimeWrite a v s
  | .saConversionDone a value => Sys2Proof.Machine.execSaConversionDone a value s
  | .saCalFail p => Sys2Proof.Machine.execSaCalFail p s
  | .ondiagWindowEnd n iwin vout feed => Sys2Proof.Machine.execOndiagWindowEnd n iwin vout feed s
  | .offdiagStart n => Sys2Proof.Machine.execOffdiagStart n s
  | .offdiagResult n vOff vOn own => Sys2Proof.Machine.execOffdiagResult n vOff vOn own s
  | .diagStretch n => Sys2Proof.Machine.execDiagStretch n s
  | .hswDclr m n => Sys2Proof.Machine.execHswDclr m n s
  | .hswTestGo m k v => Sys2Proof.Machine.execHswTestGo m k v s
  | .vlvTestGo m k v => Sys2Proof.Machine.execVlvTestGo m k v s
  | .ledTestGo m k v => Sys2Proof.Machine.execLedTestGo m k v s
  | .doutTestGo m k v => Sys2Proof.Machine.execDoutTestGo m k v s
  | .testGapStart b k => Sys2Proof.Machine.execTestGapStart b k s
  | .testDone b k result => Sys2Proof.Machine.execTestDone b k result s
  | .testDeadlineExpire b k => Sys2Proof.Machine.execTestDeadlineExpire b k s
  | .linkCrcError => Sys2Proof.Machine.execLinkCrcError s
  | .ldieLost => Sys2Proof.Machine.execLdieLost s
  | .linkRestore => Sys2Proof.Machine.execLinkRestore s
  | .linkDownSeen => Sys2Proof.Machine.execLinkDownSeen s
  | .bastingHoldExpire => Sys2Proof.Machine.execBastingHoldExpire s
  | .limpNAssert => Sys2Proof.Machine.execLimpNAssert s
  | .limpRelease => Sys2Proof.Machine.execLimpRelease s
  | .boostStart b vbst => Sys2Proof.Machine.execBoostStart b vbst s
  | .boostEnd c reached imeas tboost => Sys2Proof.Machine.execBoostEnd c reached imeas tboost s
  | .peakEnd c => Sys2Proof.Machine.execPeakEnd c s
  | .holdTimeEnd c => Sys2Proof.Machine.execHoldTimeEnd c s
  | .valveReleaseDone c => Sys2Proof.Machine.execValveReleaseDone c s
  | .deferExpire c => Sys2Proof.Machine.execDeferExpire c s
  | .clampEnergyLimit c => Sys2Proof.Machine.execClampEnergyLimit c s
  | .vbstOvervoltage vbst => Sys2Proof.Machine.execVbstOvervoltage vbst s
  | .vbstUndervoltage vbst => Sys2Proof.Machine.execVbstUndervoltage vbst s
  | .coilModelStep tdie sense => Sys2Proof.Machine.execCoilModelStep tdie sense s
  | .coilRmeas c rmeas => Sys2Proof.Machine.execCoilRmeas c rmeas s
  | .vlvOcTrip c => Sys2Proof.Machine.execVlvOcTrip c s
  | .vlvFeedTrip b => Sys2Proof.Machine.execVlvFeedTrip b s
  | .feedTripWaitEnd b => Sys2Proof.Machine.execFeedTripWaitEnd b s
  | .clampOtTrip c => Sys2Proof.Machine.execClampOtTrip c s
  | .vlvOtTrip c => Sys2Proof.Machine.execVlvOtTrip c s
  | .vlvOffdiag c lowOff lowOn => Sys2Proof.Machine.execVlvOffdiag c lowOff lowOn s
  | .holdLowDetect c => Sys2Proof.Machine.execHoldLowDetect c s
  | .vlvDclr m c => Sys2Proof.Machine.execVlvDclr m c s
  | .fadeStep n => Sys2Proof.Machine.execFadeStep n s
  | .vledTrackStep vbat vled itot vsink imeas => Sys2Proof.Machine.execVledTrackStep vbat vled itot vsink imeas s
  | .vledOvervoltage vled => Sys2Proof.Machine.execVledOvervoltage vled s
  | .vledOvRecover vled => Sys2Proof.Machine.execVledOvRecover vled s
  | .vledUndervoltage vled => Sys2Proof.Machine.execVledUndervoltage vled s
  | .vledOvercurrent => Sys2Proof.Machine.execVledOvercurrent s
  | .sinkFoldback n tj => Sys2Proof.Machine.execSinkFoldback n tj s
  | .sinkEvidence n k => Sys2Proof.Machine.execSinkEvidence n k s
  | .ledDclr m n => Sys2Proof.Machine.execLedDclr m n s
  | .matrixSlot low => Sys2Proof.Machine.execMatrixSlot low s
  | .matrixLineOc => Sys2Proof.Machine.execMatrixLineOc s
  | .mrst m => Sys2Proof.Machine.execMrst m s
  | .frameWrite m k f w a v => Sys2Proof.Machine.execFrameWrite m k f w a v s
  | .dinSample n pin vbat wetOk => Sys2Proof.Machine.execDinSample n pin vbat wetOk s
  | .dinConfigWrite m n r a v => Sys2Proof.Machine.execDinConfigWrite m n r a v s
  | .doutRefresh m n seq => Sys2Proof.Machine.execDoutRefresh m n seq s
  | .refreshWindowExpire n => Sys2Proof.Machine.execRefreshWindowExpire n s
  | .doutOcTrip n => Sys2Proof.Machine.execDoutOcTrip n s
  | .doutOtTrip n => Sys2Proof.Machine.execDoutOtTrip n s
  | .doutOffdiagStart n => Sys2Proof.Machine.execDoutOffdiagStart n s
  | .doutOffdiagResult n v1 v2 vbat => Sys2Proof.Machine.execDoutOffdiagResult n v1 v2 vbat s
  | .doutDclr m n => Sys2Proof.Machine.execDoutDclr m n s
  | .gtStart m g => Sys2Proof.Machine.execGtStart m g s
  | .gtStop m g => Sys2Proof.Machine.execGtStop m g s
  | .gtReset m g => Sys2Proof.Machine.execGtReset m g s
  | .capnow m g => Sys2Proof.Machine.execCapnow m g s
  | .gtGstart m mask => Sys2Proof.Machine.execGtGstart m mask s
  | .gtGstop m mask => Sys2Proof.Machine.execGtGstop m mask s
  | .gtPeriodEvent g => Sys2Proof.Machine.execGtPeriodEvent g s
  | .gtCompareEvent g b => Sys2Proof.Machine.execGtCompareEvent g b s
  | .gtLinkAction g => Sys2Proof.Machine.execGtLinkAction g s
  | .gtTriggerAction g => Sys2Proof.Machine.execGtTriggerAction g s
  | .gtCapture g rising => Sys2Proof.Machine.execGtCapture g rising s
  | .gtCapRead m g a => Sys2Proof.Machine.execGtCapRead m g a s
  | .gtPerCmpWrite m g r a v => Sys2Proof.Machine.execGtPerCmpWrite m g r a v s
  | .splitReadLow m a => Sys2Proof.Machine.execSplitReadLow m a s
  | .splitReadHigh m a => Sys2Proof.Machine.execSplitReadHigh m a s
  | .splitWriteLow m a v => Sys2Proof.Machine.execSplitWriteLow m a v s
  | .splitWriteHigh m a v => Sys2Proof.Machine.execSplitWriteHigh m a v s
  | .ntuWrap => Sys2Proof.Machine.execNtuWrap s
  | .ntuIncWrite m a v => Sys2Proof.Machine.execNtuIncWrite m a v s
  | .ntuSlew m off => Sys2Proof.Machine.execNtuSlew m off s
  | .ntuSlewDone => Sys2Proof.Machine.execNtuSlewDone s
  | .ntuStep m off => Sys2Proof.Machine.execNtuStep m off s
  | .ntuSyncWrite m a v => Sys2Proof.Machine.execNtuSyncWrite m a v s
  | .ntuHoldoverExpire => Sys2Proof.Machine.execNtuHoldoverExpire s
  | .ntuCapture k rising => Sys2Proof.Machine.execNtuCapture k rising s
  | .ntuSwcap m mask => Sys2Proof.Machine.execNtuSwcap m mask s
  | .ntuCapRead m k a => Sys2Proof.Machine.execNtuCapRead m k a s
  | .ntuTriggerArm m k v => Sys2Proof.Machine.execNtuTriggerArm m k v s
  | .ntuTriggerDisarm m k v => Sys2Proof.Machine.execNtuTriggerDisarm m k v s
  | .ntuTriggerLead k => Sys2Proof.Machine.execNtuTriggerLead k s
  | .ntuTriggerTrail k => Sys2Proof.Machine.execNtuTriggerTrail k s
  | .canModeWrite m n mode => Sys2Proof.Machine.execCanModeWrite m n mode s
  | .canModeChange n => Sys2Proof.Machine.execCanModeChange n s
  | .abdCandidateTimeout n => Sys2Proof.Machine.execAbdCandidateTimeout n s
  | .canFrameRx n f stamp vbat => Sys2Proof.Machine.execCanFrameRx n f stamp vbat s
  | .canRelease m n k => Sys2Proof.Machine.execCanRelease m n k s
  | .canTxreq m n x => Sys2Proof.Machine.execCanTxreq m n x s
  | .canTxStart x => Sys2Proof.Machine.execCanTxStart x s
  | .canTxEnd n => Sys2Proof.Machine.execCanTxEnd n s
  | .canArbLost n => Sys2Proof.Machine.execCanArbLost n s
  | .canBusError n tec rec_ err => Sys2Proof.Machine.execCanBusError n tec rec_ err s
  | .canCancel m n k => Sys2Proof.Machine.execCanCancel m n k s
  | .borec m n => Sys2Proof.Machine.execBorec m n s
  | .busoffRecovered n => Sys2Proof.Machine.execBusoffRecovered n s
  | .tackWindowClose n => Sys2Proof.Machine.execTackWindowClose n s
  | .canBusFault n => Sys2Proof.Machine.execCanBusFault n s
  | .canBusFaultClear n => Sys2Proof.Machine.execCanBusFaultClear n s
  | .canSelectiveWake n e => Sys2Proof.Machine.execCanSelectiveWake n e s
  | .linEnable m n => Sys2Proof.Machine.execLinEnable m n s
  | .linTackClose n => Sys2Proof.Machine.execLinTackClose n s
  | .linBusDominant n => Sys2Proof.Machine.execLinBusDominant n s
  | .schgo m n start => Sys2Proof.Machine.execSchgo m n start s
  | .schstop m n => Sys2Proof.Machine.execSchstop m n s
  | .linSlotNext n => Sys2Proof.Machine.execLinSlotNext n s
  | .linHeader n id stamp sync err => Sys2Proof.Machine.execLinHeader n id stamp sync err s
  | .linResponseDone n data err => Sys2Proof.Machine.execLinResponseDone n data err s
  | .linNoresp n => Sys2Proof.Machine.execLinNoresp n s
  | .linTxreq m n k => Sys2Proof.Machine.execLinTxreq m n k s
  | .linFdRead m n k a => Sys2Proof.Machine.execLinFdRead m n k a s
  | .gosleep m n => Sys2Proof.Machine.execGosleep m n s
  | .linWake m n => Sys2Proof.Machine.execLinWake m n s
  | .linWakeRx n => Sys2Proof.Machine.execLinWakeRx n s
  | .linWakeRetry n => Sys2Proof.Machine.execLinWakeRetry n s
  | .linIdleSleep n => Sys2Proof.Machine.execLinIdleSleep n s
  | .stayAwakeExpire net => Sys2Proof.Machine.execStayAwakeExpire net s
  | .nslLocalWrite m v => Sys2Proof.Machine.execNslLocalWrite m v s
  | .waybillWrite nvFail => Sys2Proof.Machine.execWaybillWrite nvFail s
  | .ethFrameRx p f fcsOk stamp vbat => Sys2Proof.Machine.execEthFrameRx p f fcsOk stamp vbat s
  | .macAgeExpire mac vid => Sys2Proof.Machine.execMacAgeExpire mac vid s
  | .ethLinkChange p up => Sys2Proof.Machine.execEthLinkChange p up s
  | .internalTx x => Sys2Proof.Machine.execInternalTx x s
  | .gweLookup x => Sys2Proof.Machine.execGweLookup x s
  | .gweTokenRefill bank k => Sys2Proof.Machine.execGweTokenRefill bank k s
  | .gweReadEntry m bank k => Sys2Proof.Machine.execGweReadEntry m bank k s
  | .gweWriteShadow m bank k => Sys2Proof.Machine.execGweWriteShadow m bank k s
  | .gweCopy m bank k => Sys2Proof.Machine.execGweCopy m bank k s
  | .gweCopyDone => Sys2Proof.Machine.execGweCopyDone s
  | .gweSwap m bank k => Sys2Proof.Machine.execGweSwap m bank k s
  | .handleScan n cnt broken => Sys2Proof.Machine.execHandleScan n cnt broken s
  | .accPoll m h => Sys2Proof.Machine.execAccPoll m h s
  | .accAbort m h => Sys2Proof.Machine.execAccAbort m h s
  | .lfTelegramEnd peaks limited => Sys2Proof.Machine.execLfTelegramEnd peaks limited s
  | .keyWakeEnd runs => Sys2Proof.Machine.execKeyWakeEnd runs s
  | .keyResponseRx k runs => Sys2Proof.Machine.execKeyResponseRx k runs s
  | .rangingFinal runs => Sys2Proof.Machine.execRangingFinal runs s
  | .keyAnswerRx k payload runs => Sys2Proof.Machine.execKeyAnswerRx k payload runs s
  | .answerWindowEnd => Sys2Proof.Machine.execAnswerWindowEnd s
  | .pollEvalDone => Sys2Proof.Machine.execPollEvalDone s
  | .lockoutEnd => Sys2Proof.Machine.execLockoutEnd s
  | .add r d n m => Sys2Proof.Machine.execAdd r d n m s
  | .addc r d n m => Sys2Proof.Machine.execAddc r d n m s
  | .sub r d n m => Sys2Proof.Machine.execSub r d n m s
  | .subc r d n m => Sys2Proof.Machine.execSubc r d n m s
  | .and r d n m => Sys2Proof.Machine.execAnd r d n m s
  | .or r d n m => Sys2Proof.Machine.execOr r d n m s
  | .xor r d n m => Sys2Proof.Machine.execXor r d n m s
  | .andn r d n m => Sys2Proof.Machine.execAndn r d n m s
  | .shift r k d n m => Sys2Proof.Machine.execShift r k d n m s
  | .rotate r left d n m => Sys2Proof.Machine.execRotate r left d n m s
  | .bitFieldExtract r d n pos width sx => Sys2Proof.Machine.execBitFieldExtract r d n pos width sx s
  | .bitFieldInsert r d n pos width => Sys2Proof.Machine.execBitFieldInsert r d n pos width s
  | .clz r d n => Sys2Proof.Machine.execClz r d n s
  | .popc r d n => Sys2Proof.Machine.execPopc r d n s
  | .min r d n m => Sys2Proof.Machine.execMin r d n m s
  | .max r d n m => Sys2Proof.Machine.execMax r d n m s
  | .cmp r n m => Sys2Proof.Machine.execCmp r n m s
  | .mov r d n => Sys2Proof.Machine.execMov r d n s
  | .addi r d n v => Sys2Proof.Machine.execAddi r d n v s
  | .subi r d n v => Sys2Proof.Machine.execSubi r d n v s
  | .andi r d n v => Sys2Proof.Machine.execAndi r d n v s
  | .ori r d n v => Sys2Proof.Machine.execOri r d n v s
  | .xori r d n v => Sys2Proof.Machine.execXori r d n v s
  | .shiftImmediate r k d n amount => Sys2Proof.Machine.execShiftImmediate r k d n amount s
  | .cmpi r n v => Sys2Proof.Machine.execCmpi r n v s
  | .movi r d v => Sys2Proof.Machine.execMovi r d v s
  | .mul r d n m => Sys2Proof.Machine.execMul r d n m s
  | .mulh r d n m => Sys2Proof.Machine.execMulh r d n m s
  | .mulhu r d n m => Sys2Proof.Machine.execMulhu r d n m s
  | .div r d n m => Sys2Proof.Machine.execDiv r d n m s
  | .divu r d n m => Sys2Proof.Machine.execDivu r d n m s
  | .rem r d n m => Sys2Proof.Machine.execRem r d n m s
  | .remu r d n m => Sys2Proof.Machine.execRemu r d n m s
  | .adda r d n x => Sys2Proof.Machine.execAdda r d n x s
  | .suba r d n x => Sys2Proof.Machine.execSuba r d n x s
  | .lea r d n m sc v => Sys2Proof.Machine.execLea r d n m sc v s
  | .cmpa r n m => Sys2Proof.Machine.execCmpa r n m s
  | .mova r d n => Sys2Proof.Machine.execMova r d n s
  | .movd r d n => Sys2Proof.Machine.execMovd r d n s
  | .mac r d n m => Sys2Proof.Machine.execMac r d n m s
  | .msu r d n m => Sys2Proof.Machine.execMsu r d n m s
  | .mulac r d n m => Sys2Proof.Machine.execMulac r d n m s
  | .sat r d => Sys2Proof.Machine.execSat r d s
  | .rnd r d b => Sys2Proof.Machine.execRnd r d b s
  | .ashr r d amount => Sys2Proof.Machine.execAshr r d amount s
  | .mvacl r d n => Sys2Proof.Machine.execMvacl r d n s
  | .mvach r d n => Sys2Proof.Machine.execMvach r d n s
  | .mvdac r d hi lo => Sys2Proof.Machine.execMvdac r d hi lo s
  | .clrac r d => Sys2Proof.Machine.execClrac r d s
  | .load r t w sx a err => Sys2Proof.Machine.execLoad r t w sx a err s
  | .ldac r t a err => Sys2Proof.Machine.execLdac r t a err s
  | .store r t w a err => Sys2Proof.Machine.execStore r t w a err s
  | .stac r t a err => Sys2Proof.Machine.execStac r t a err s
  | .branch r cond off => Sys2Proof.Machine.execBranch r cond off s
  | .jr r n => Sys2Proof.Machine.execJr r n s
  | .jlr r n => Sys2Proof.Machine.execJlr r n s
  | .dadd r x => Sys2Proof.Machine.execDadd r x s
  | .dsub r x => Sys2Proof.Machine.execDsub r x s
  | .dcmp r x => Sys2Proof.Machine.execDcmp r x s
  | .dadj r ac d n => Sys2Proof.Machine.execDadj r ac d n s
  | .dshl r x n => Sys2Proof.Machine.execDshl r x n s
  | .dshr r x n => Sys2Proof.Machine.execDshr r x n s
  | .dcvt r x => Sys2Proof.Machine.execDcvt r x s
  | .bcvt r x => Sys2Proof.Machine.execBcvt r x s
  | .wpost r d mb n => Sys2Proof.Machine.execWpost r d mb n s
  | .wack r d mb n => Sys2Proof.Machine.execWack r d mb n s
  | .wackTimeout n => Sys2Proof.Machine.execWackTimeout n s
  | .mfsr r d sr => Sys2Proof.Machine.execMfsr r d sr s
  | .mtsr r sr n => Sys2Proof.Machine.execMtsr r sr n s
  | .icAck r d => Sys2Proof.Machine.execIcAck r d s
  | .icEoi r n => Sys2Proof.Machine.execIcEoi r n s
  | .trap r => Sys2Proof.Machine.execTrap r s
  | .mcall r => Sys2Proof.Machine.execMcall r s
  | .eret r => Sys2Proof.Machine.execEret r s
  | .wfi r => Sys2Proof.Machine.execWfi r s
  | .wfiWake n => Sys2Proof.Machine.execWfiWake n s
  | .fence r => Sys2Proof.Machine.execFence r s
  | .iflush r => Sys2Proof.Machine.execIflush r s
  | .tlbinv r k => Sys2Proof.Machine.execTlbinv r k s
  | .li r d v => Sys2Proof.Machine.execLi r d v s
  | .lia r d v => Sys2Proof.Machine.execLia r d v s
  | .lih r d v => Sys2Proof.Machine.execLih r d v s
  | .interruptDeliver n => Sys2Proof.Machine.execInterruptDeliver n s
  | .lockstepMismatch pair => Sys2Proof.Machine.execLockstepMismatch pair s
  | .mbxTxqPost m mb a v => Sys2Proof.Machine.execMbxTxqPost m mb a v s
  | .mbxRxqRead m mb a => Sys2Proof.Machine.execMbxRxqRead m mb a s
  | .mbxAck m mb => Sys2Proof.Machine.execMbxAck m mb s
  | .mbxRing m mb => Sys2Proof.Machine.execMbxRing m mb s
  | .lockRead m k a => Sys2Proof.Machine.execLockRead m k a s
  | .lockRelease m k => Sys2Proof.Machine.execLockRelease m k s
  | .nvProgramDone m => Sys2Proof.Machine.execNvProgramDone m s
  | .bootstrapStart kind => Sys2Proof.Machine.execBootstrapStart kind s
  | .bsqHeaderReadDone => Sys2Proof.Machine.execBsqHeaderReadDone s
  | .bsqImageReadDone us errors again => Sys2Proof.Machine.execBsqImageReadDone us errors again s
  | .zsSignatureVerdict verified => Sys2Proof.Machine.execZsSignatureVerdict verified s
  | .zsTimeout => Sys2Proof.Machine.execZsTimeout s
  | .bsqBuildDone => Sys2Proof.Machine.execBsqBuildDone s
  | .regsWaitEnd => Sys2Proof.Machine.execRegsWaitEnd s
  | .coreRelease => Sys2Proof.Machine.execCoreRelease s
  | .bootRetry => Sys2Proof.Machine.execBootRetry s
  | .pmuRequest m tgt => Sys2Proof.Machine.execPmuRequest m tgt s
  | .prepareDone => Sys2Proof.Machine.execPrepareDone s
  | .prepareTimeout => Sys2Proof.Machine.execPrepareTimeout s
  | .sleepEntryDone => Sys2Proof.Machine.execSleepEntryDone s
  | .wakeSource src detail => Sys2Proof.Machine.execWakeSource src detail s
  | .wakeDomainsReady => Sys2Proof.Machine.execWakeDomainsReady s
  | .xtalStartTimeout => Sys2Proof.Machine.execXtalStartTimeout s
  | .wakeSupplyFail => Sys2Proof.Machine.execWakeSupplyFail s
  | .wakeAttemptRetry => Sys2Proof.Machine.execWakeAttemptRetry s
  | .parkLimpTrigger => Sys2Proof.Machine.execParkLimpTrigger s
  | .domainDemandAccess m a w op => Sys2Proof.Machine.execDomainDemandAccess m a w op s
  | .domainReady d => Sys2Proof.Machine.execDomainReady d s
  | .domainReadyTimeout d => Sys2Proof.Machine.execDomainReadyTimeout d s
  | .nvIdleOff => Sys2Proof.Machine.execNvIdleOff s
  | .netoffWrite m => Sys2Proof.Machine.execNetoffWrite m s
  | .wtmrWrite m a v => Sys2Proof.Machine.execWtmrWrite m a v s
  | .wakeTimerAlarm => Sys2Proof.Machine.execWakeTimerAlarm s
  | .powerOnReset => Sys2Proof.Machine.execPowerOnReset s
  | .porRelease => Sys2Proof.Machine.execPorRelease s
  | .railBrownout fast => Sys2Proof.Machine.execRailBrownout fast s
  | .xtalLoss => Sys2Proof.Machine.execXtalLoss s
  | .pllUnlock relock => Sys2Proof.Machine.execPllUnlock relock s
  | .ckpwrLoss => Sys2Proof.Machine.execCkpwrLoss s
  | .ckpwrReturn => Sys2Proof.Machine.execCkpwrReturn s
  | .slowXtalReady => Sys2Proof.Machine.execSlowXtalReady s
  | .slowXtalFail => Sys2Proof.Machine.execSlowXtalFail s
  | .rcTrim => Sys2Proof.Machine.execRcTrim s
  | .ldieReset => Sys2Proof.Machine.execLdieReset s
  | .resetPin low => Sys2Proof.Machine.execResetPin low s
  | .sysLdieReset m key => Sys2Proof.Machine.execSysLdieReset m key s
  | .coreReset m key e => Sys2Proof.Machine.execCoreReset m key e s
  | .wdKick m k v => Sys2Proof.Machine.execWdKick m k v s
  | .wdExpire k => Sys2Proof.Machine.execWdExpire k s
  | .cmdSegmentRx port l vbat => Sys2Proof.Machine.execCmdSegmentRx port l vbat s
  | .segmentTimeout port => Sys2Proof.Machine.execSegmentTimeout port s
  | .statusRead src => Sys2Proof.Machine.execStatusRead src s
  | .statusCert src => Sys2Proof.Machine.execStatusCert src s
  | .quote src => Sys2Proof.Machine.execQuote src s
  | .updateBegin src => Sys2Proof.Machine.execUpdateBegin src s
  | .updateBlock src fail => Sys2Proof.Machine.execUpdateBlock src fail s
  | .updateVerify src errors => Sys2Proof.Machine.execUpdateVerify src errors s
  | .activateHandover src => Sys2Proof.Machine.execActivateHandover src s
  | .activateRestart src => Sys2Proof.Machine.execActivateRestart src s
  | .restartReset => Sys2Proof.Machine.execRestartReset s
  | .updateAbort src => Sys2Proof.Machine.execUpdateAbort src s
  | .updateSessionTimeout => Sys2Proof.Machine.execUpdateSessionTimeout s
  | .enroll src slot keyId => Sys2Proof.Machine.execEnroll src slot keyId s
  | .accessBlock src j => Sys2Proof.Machine.execAccessBlock src j s
  | .remove src j => Sys2Proof.Machine.execRemove src j s
  | .clearLockout src => Sys2Proof.Machine.execClearLockout src s
  | .ownerSet src => Sys2Proof.Machine.execOwnerSet src s
  | .ownerClear src => Sys2Proof.Machine.execOwnerClear src s
  | .install src j pub => Sys2Proof.Machine.execInstall src j pub s
  | .revoke src j => Sys2Proof.Machine.execRevoke src j s
  | .raiseRollback src v => Sys2Proof.Machine.execRaiseRollback src v s
  | .faultRead src => Sys2Proof.Machine.execFaultRead src s
  | .faultErase src => Sys2Proof.Machine.execFaultErase src s
  | .severity src => Sys2Proof.Machine.execSeverity src s
  | .inject src => Sys2Proof.Machine.execInject src s
  | .keygen src => Sys2Proof.Machine.execKeygen src s
  | .factoryCert src cert => Sys2Proof.Machine.execFactoryCert src cert s
  | .endOfLine src => Sys2Proof.Machine.execEndOfLine src s
  | .hoReady m => Sys2Proof.Machine.execHoReady m s
  | .handoverSwitch => Sys2Proof.Machine.execHandoverSwitch s
  | .handoverTablesDone => Sys2Proof.Machine.execHandoverTablesDone s
  | .hoDone m => Sys2Proof.Machine.execHoDone m s
  | .hoAbandon m => Sys2Proof.Machine.execHoAbandon m s
  | .hoquietExpire => Sys2Proof.Machine.execHoquietExpire s
  | .hotimeExpire => Sys2Proof.Machine.execHotimeExpire s
  | .handoverRestoreDone => Sys2Proof.Machine.execHandoverRestoreDone s
  | .faultActivation src active bad => Sys2Proof.Machine.execFaultActivation src active bad s
  | .pairFault src => Sys2Proof.Machine.execPairFault src s
  | .fcuAck m src => Sys2Proof.Machine.execFcuAck m src s
  | .s1Late src => Sys2Proof.Machine.execS1Late src s
  | .s2Escalate src => Sys2Proof.Machine.execS2Escalate src s
  | .s3RecoveryStart => Sys2Proof.Machine.execS3RecoveryStart s
  | .s3CountAge => Sys2Proof.Machine.execS3CountAge s
  | .faultRecordWrite => Sys2Proof.Machine.execFaultRecordWrite s
  | .fcuForceWrite m k a v => Sys2Proof.Machine.execFcuForceWrite m k a v s
  | .fcuPfrcWrite m a v => Sys2Proof.Machine.execFcuPfrcWrite m a v s
  | .fcuSevWrite m k a v => Sys2Proof.Machine.execFcuSevWrite m k a v s
  | .fcuTmrWrite m a v => Sys2Proof.Machine.execFcuTmrWrite m a v s
  | .hostRead64 f e => Sys2Proof.Machine.execHostRead64 f e s
  | .hostRead32 f e => Sys2Proof.Machine.execHostRead32 f e s
  | .hostWrite64 f v => Sys2Proof.Machine.execHostWrite64 f v s
  | .hostWrite32 f v e => Sys2Proof.Machine.execHostWrite32 f v e s
  | .registerWrite m a acc v => Sys2Proof.Machine.execRegisterWrite m a acc v s
  | .vbstOvRecover vbst => Sys2Proof.Machine.execVbstOvRecover vbst s
  | .limpNHigh => Sys2Proof.Machine.execLimpNHigh s

end Sys2Proof.Machine
end

