-- ==== Sys2Proof/Machine/Lands.lean ====
section
/-!
DEFINITION. What the selvedge cells hold the lands at while a domain is not READY (spec/14, R370), and the lands of the stitch
chains (spec/05, R165).
-/

namespace Sys2Proof.Machine

/-- The lands that leave a domain through selvedge cells (R370). -/
inductive Land where
  | xspiCsN
  | xspiCk
  | xspiDq (j : Fin 8)
  | xspiDqs
  | canBus (n : Fin 6)
  | canTxd (n : Fin 2)
  | linBus (n : Fin 8)
  | ethMdi (p : Fin 4)
  | rgpCsN (r : Fin 4)
  | rgpSck
  | rgpMosi
  | tsOut (k : Fin 4)
  | chainCk (k : Fin 2)
  | chainDo (k : Fin 2)
  | chainLe (k : Fin 2)
  deriving DecidableEq, Repr

/-- What a land stands at: a level, high-impedance, a transceiver in recessive standby or in selective wake, a transmitter that
is off. -/
inductive LandState where
  | low
  | high
  | highZ
  | standby
  | selectiveWake
  | off
  deriving DecidableEq, Repr

def LandState.level (b : Bool) : LandState := if b then .high else .low

/-- The domain that drives a land (spec/14, R366, R370). -/
def Land.domain : Land → Nat
  | .rgpCsN _ | .rgpSck | .rgpMosi | .tsOut _ => 1
  | .xspiCsN | .xspiCk | .xspiDq _ | .xspiDqs => 3
  | .canBus _ | .canTxd _ | .linBus _ | .ethMdi _ => 4
  | .chainCk _ | .chainDo _ | .chainLe _ => 7

/-- The value that the cells clamp a land to (R370; for the CAN transceivers spec/08, R239; for TS_OUTk spec/07, R206). -/
def State.clampValue (s : State) : Land → LandState
  | .xspiCsN => .high
  | .xspiCk => .low
  | .xspiDq _ => .highZ
  | .xspiDqs => .highZ
  | .canBus n => if s.fld (CAN_TRX_SWMODE n) == 0 then .standby else .selectiveWake
  | .canTxd _ => .high
  | .linBus _ => .off
  | .ethMdi _ => .highZ
  | .rgpCsN _ => .high
  | .rgpSck => .low
  | .rgpMosi => .low
  | .tsOut k => .level (s.flag (NTU_TRG_CFG_POL k))
  | .chainCk _ => .low
  | .chainDo _ => .low
  | .chainLe _ => .low

/-- What the closed cells hold a land at; none while its domain is READY, so that the block drives it (R370). -/
def State.landClamp (s : State) (l : Land) : Option LandState :=
  if (s.fld PMU_DOMSTAT_READY).testBit l.domain then none else some (s.clampValue l)

/-- The chain shifts: the bits of its frame decide what SCk_CK and SCk_DO stand at (R158). -/
def State.chainShifts (s : State) (k : Nat) : Bool := s.fld (LED_SC_STAT_STATE k) == 2

/-- A land of a stitch chain, which is low while its cells are closed: in PARK. Where they are open and the chain does not shift,
the land keeps its level, and LE is low but in the latch pulse (R165). -/
def State.chainLand (s : State) (l : Land) : Option LandState :=
  match s.landClamp l, l with
  | some x, _ => some x
  | none, .chainCk k => if s.chainShifts k then none else some (.level (s.chain k).ck)
  | none, .chainDo k => if s.chainShifts k then none else some (.level (s.chain k).dout)
  | none, .chainLe _ => some .low
  | none, _ => none

end Sys2Proof.Machine
end

