-- ==== Sys2Proof/Safety.lean ====
section
/-!
DEFINITION. What statements call a good state, a completed command, and what no command does.
-/

namespace Sys2Proof.Machine

/-- The machine takes a command to its next state. -/
def Completes (c : Instr) (s : State) : Prop := ∃ t, exec c s = .next t

/-- An access of a master to a register reaches its block: the L-die is in RUN or DOZE, the master is not the upper core of a
lockstep pair, and the NET domain is READY where the register lies in it (spec/11, R280; spec/14, R366–R369). -/
def State.opens (s : State) (m : Master) (a : Nat) : Bool :=
  decide (s.pstate ≤ 1) && s.presents m && (!inNet a || s.netReadyDom)

/-- The core of a run executes, and the fetch of its instruction of `len` bytes succeeds and leaves `t` (spec/11, R288,
R297). What the instruction does, it does from `t`. -/
abbrev State.fetches (s : State) (r : CoreRun) (len : Nat) (t : State) : Prop :=
  s.executes (runEp r) = true ∧ s.fetchAll (runEp r) len r = (t, none)

/-- The core of a run, and the state in which its instruction of `n` bytes has ended with the core's registers `c`. -/
def State.ran (t : State) (r : CoreRun) : Core := t.core (runEp r)
def State.ends (t : State) (r : CoreRun) (n : Nat) (c : Core) : State := t.setCore (runEp r) (c.advance n)

/-- Registers, memory and external flash are in canonical form: keys strictly rise, and no entry equals what its key
reads as when it is not listed. So equal contents are equal data. -/
structure State.Canon (s : State) : Prop where
  regs : twf regReset s.regs = true
  mem : Memory.wf s.mem = true
  flash : twf (fun _ => (0xFF : Byte)) s.flash = true

/-- PSR of a core shows a level that exists, and its reserved bits 63–48, 31–16 and 9–6 read 0 (spec/11, R284). -/
structure Core.Legal (c : Core) : Prop where
  level : c.level ≤ 2
  reserved : c.psr &&& 0xFFFF0000FFFF03C0 = 0

/-- Every core's PSR is legal. -/
def State.Legal (s : State) : Prop := ∀ e, (s.core e).Legal

/-- What holds from a state to a later one however a command acts: the commands that wait stay as they were, model time
stands, what has left the device is not taken back, no free value is drawn twice, the canonical form is kept, and so are
legal PSRs. -/
structure State.Keeps (s t : State) : Prop where
  pending : t.pending = s.pending
  now : t.now = s.now
  sent : s.sent <+: t.sent
  freeCtr : s.freeCtr ≤ t.freeCtr
  canon : s.Canon → t.Canon
  legal : s.Legal → t.Legal

end Sys2Proof.Machine
end

