-- ==== Sys2Proof/Certificates/Slice0/Obligations.lean ====
section
/-!
DEFINITION. What is claimed of the model: the completion of every command with the state it leaves, the rules of single
operations and registers, the frames, and the invariants of every step.
-/

open Sys2Proof Sys2Proof.Machine

/-- With the L-die running, a read of TXN_ALLOC gives the lowest FREE handle to the reader in STAGING, and the owner's
  writes of TXN_FREE, of a staging register, of COMMIT and of CANCEL have the effects of their rules, from every state
  of the handle that takes them; nothing else changes. That a freed and allocated handle keeps its control, time, cause,
  code and slot registers, and what a claim handle does that is cancelled, are the model's choices (log entries 83 and
  84). -/
def Obligations.TxnOwnerCommandsComplete : Prop :=
  (∀ (s : State) (m : Master) (h : Nat),
    s.opens m TXN_ALLOC = true → s.fld BSQ_STAT_STATE = 5 → allHandles.find? (fun h => s.txState h == txFree) = some h →
    exec (.txnAllocRead m .w64) s =
      .next (((s.put (TXN_STAT_STATE h) txStaging).put (TXN_CTL_OWNER h) m.num).answer h)) ∧
  (∀ (s : State) (m : Master) (h : Fin 32),
    s.opens m TXN_FREE = true → s.fld (TXN_CTL_OWNER h) = m.num → (s.txState h = txStaging ∨ s.txState h = txDone ∨
      s.txState h = txRefused) →
    exec (.txnFreeWrite m h) s = .next (((s.put (TXN_STAT_STATE h) txFree).put (TXN_CTL_OWNER h) 0).setHnd h {})) ∧
  (∀ (s : State) (m : Master) (h : Fin 32) (i : Fin 64) (v : BitVec 64),
    s.opens m TXN_FREE = true → s.fld (TXN_CTL_OWNER h) = m.num → (s.txState h = txStaging ∨ s.txState h = txDone ∨
      s.txState h = txRefused) →
    exec (.txnStagingWrite m h (.slot i) v) s =
      .next ((s.put (TXN_STAT_STATE h) txStaging).put (TXN_ITEM_ITEM h i) v.toNat)) ∧
  (∀ (s : State) (m : Master) (h : Fin 32) (v : BitVec 64),
    s.opens m TXN_FREE = true → s.fld (TXN_CTL_OWNER h) = m.num → (s.txState h = txStaging ∨ s.txState h = txDone ∨
      s.txState h = txRefused) → (TXN_CTL_COUNT h).of v ≤ 64 →
    exec (.txnStagingWrite m h .ctl v) s =
      .next ([TXN_CTL_GROUP h, TXN_CTL_ALIGN h, TXN_CTL_CLAIM h, TXN_CTL_CLAST h, TXN_CTL_MODE h, TXN_CTL_EVGT h,
        TXN_CTL_EVSEL h, TXN_CTL_COUNT h].foldl (fun t f => t.put f (f.of v)) (s.put (TXN_STAT_STATE h) txStaging))) ∧
  (∀ (s : State) (m : Master) (h : Fin 32) (v : BitVec 64),
    s.opens m TXN_FREE = true → s.fld (TXN_CTL_OWNER h) = m.num → (s.txState h = txStaging ∨ s.txState h = txDone ∨
      s.txState h = txRefused) →
    exec (.txnStagingWrite m h .time v) s =
      .next ((((s.splitWrite m (TXN_TIME h) .w64 (s.reg (TXN_TIME h)) v).1).put (TXN_STAT_STATE h) txStaging).put
        (TXN_TIME_TIME h) v.toNat)) ∧
  (∀ (s : State) (m : Master) (h : Fin 32),
    s.opens m TXN_FREE = true → s.fld (TXN_CTL_OWNER h) = m.num → s.txState h = txStaging →
    exec (.commit m h) s = .next (s.commitHandle h false)) ∧
  (∀ (s : State) (m : Master) (h : Fin 32),
    s.opens m TXN_FREE = true → s.fld (TXN_CTL_OWNER h) = m.num → (s.txState h = txWaitNotice ∨ s.txState h = txArmed) →
      (s.hnd h).noRet = false → (s.hnd h).claim = none →
    exec (.txnCancel m h) s =
      let t := s.refuseAll h istatSuperseded false
      .next { t with txn := { t.txn with claimSet := t.txn.claimSet.filter (· != h.val) } }) ∧
  (∀ (s : State) (m : Master) (h : Fin 32),
    s.opens m TXN_FREE = true → s.fld (TXN_CTL_OWNER h) = m.num → s.txState h = txApplied →
    exec (.txnCancel m h) s = .next (s.setHnd h { s.hnd h with lateCancel := true }))

/-- A validated handle outside a claim set arms; a shadow transfer that fails refuses it ABORTED_FAULT; a stitch chain
  that ends its shift becomes ready and leaves SCk_DO at frame bit 0, with nothing compared at VERIFY 0 or in the first
  shift, with the bits of the last latched frame returned from its highest on, and with others, which are counted,
  flagged and raised (how a frame longer than that one is compared is the model's choice, log entry 115); a timed handle
  passes its point of no return or expires there; the commit edge takes effect; an item's window ends OK or LATE; a
  commit notice sent that names this node comes back by loopback, and one that names the node gives its time to every
  waiting handle of its group. -/
def Obligations.TxnEventsComplete : Prop :=
  (∀ (s : State) (h : Fin 32),
    s.txState h = txValidating → (s.hnd h).shadow = true → s.flag PDI_STAT_LINK_UP = true → s.flag SYS_CLKSTAT_PLOC =
      false → (s.hnd h).claim = none →
    exec (.txnArmed h) s = .next (s.armHandle h)) ∧
  (∀ (s : State) (h : Fin 32) (crc : Bool),
    s.txState h = txValidating → (s.hnd h).shadow = true → ((s.when crc fun t => t.incSat PDI_STAT_LINK_ERR).hnd
      h).claim = none →
    exec (.shadowDiscard h crc) s =
      .next ((s.when crc fun t => t.incSat PDI_STAT_LINK_ERR).refuseAll h istatAbortedFault true)) ∧
  (∀ (s : State) (k : Fin 2) (h : Fin 32) (b n v x : Nat),
    (s.chain k).armed = some (h.val, b, n, v) → s.fld (LED_SC_STAT_STATE k) = 2 → (s.flag (LED_SC_CFG_VERIFY k) = false
      ∨ (s.chain k).shifted = false) → s.fld (TXN_CTL_MODE h) ≠ 0 →
    exec (.stitchShiftEnd k x false) s =
      .next (((s.put (LED_SC_STAT_STATE k) 3).setChain k
        { s.chain k with shifted := true, ck := false, dout := v.testBit 0 }).setHnd h
        { s.hnd h with shifting := (s.hnd h).shifting.filter (· != k.val) })) ∧
  (∀ (s : State) (k : Fin 2) (h : Fin 32) (b n v x w : Nat) (c : Nat),
    (s.chain k).armed = some (h.val, b, n, v) → s.fld (LED_SC_STAT_STATE k) = 2 → s.flag (LED_SC_CFG_VERIFY k) = true →
      (s.chain k).shifted = true → (s.chain k).last = some (w, c) → x % 2 ^ n / 2 ^ (n - c) = w % 2 ^ c / 2 ^ (c - n) →
      s.fld (TXN_CTL_MODE h) ≠ 0 →
    exec (.stitchShiftEnd k x false) s =
      .next (((s.put (LED_SC_STAT_STATE k) 3).setChain k
        { s.chain k with shifted := true, ck := false, dout := v.testBit 0 }).setHnd h
        { s.hnd h with shifting := (s.hnd h).shifting.filter (· != k.val) })) ∧
  (∀ (s : State) (k : Fin 2) (h : Fin 32) (b n v x w : Nat) (c : Nat),
    (s.chain k).armed = some (h.val, b, n, v) → s.fld (LED_SC_STAT_STATE k) = 2 → s.flag (LED_SC_CFG_VERIFY k) = true →
      (s.chain k).shifted = true → (s.chain k).last = some (w, c) → x % 2 ^ n / 2 ^ (n - c) ≠ w % 2 ^ c / 2 ^ (c - n) →
      s.fld (TXN_CTL_MODE h) ≠ 0 →
    exec (.stitchShiftEnd k x false) s =
      let t := ((s.incSat (LED_SC_STAT_MISMATCH k)).raiseBit LED_IRQ_CHAIN_ERR).raiseL (162 + k)
      .next (((t.put (LED_SC_STAT_STATE k) 3).setChain k
        { s.chain k with shifted := true, ck := false, dout := v.testBit 0 }).setHnd h
        { s.hnd h with shifting := (s.hnd h).shifting.filter (· != k.val) })) ∧
  (∀ (s : State) (h : Fin 32),
    s.txState h = txArmed → 2 ≤ s.fld (TXN_CTL_MODE h) → (s.hnd h).noRet = false → s.timeErrorBad = false →
    exec (.pointOfNoReturn h) s = .next (s.setHnd h { s.hnd h with noRet := true })) ∧
  (∀ (s : State) (h : Fin 32),
    s.txState h = txArmed → s.fld (TXN_CTL_MODE h) = 3 → (s.hnd h).noRet = false → s.timeErrorBad = true →
    exec (.pointOfNoReturn h) s = .next (s.refuseAll h istatExpired true)) ∧
  (∀ (s : State) (hs : List (Fin 32)),
    exec (.commitEdge hs) s = .next (s.commitEdge (hs.map Fin.val))) ∧
  (∀ (s : State) (h : Fin 32) (i : Fin 64),
    i.val ∈ (s.hnd h).window →
    exec (.itemWindowEnd h i) s = .next (s.endItem h i (if (s.hnd h).lateCancel then istatLate else istatOk))) ∧
  (∀ (s : State) (m : Master) (v : BitVec 64),
    s.opens m TXN_FREE = true → s.flag FCU_STAT_RECOV = false → TXN_NTX_SEND.of v = 1 → 1 ≤ ((s.put TXN_NTX_COUNT
      (TXN_NTX_COUNT.of v)).put TXN_NTX_GROUP (TXN_NTX_GROUP.of v)).fld TXN_NTX_COUNT → ((s.put TXN_NTX_COUNT
      (TXN_NTX_COUNT.of v)).put TXN_NTX_GROUP (TXN_NTX_GROUP.of v)).fld TXN_NTX_COUNT ≤ 48 →
    exec (.txnNtxSend m v) s =
      let t := (s.put TXN_NTX_COUNT (TXN_NTX_COUNT.of v)).put TXN_NTX_GROUP (TXN_NTX_GROUP.of v)
      let n : Notice := ⟨BitVec.ofNat 16 (t.fld TXN_NTX_GROUP), BitVec.ofNat 32 (t.fld TXN_NTXTIME_TIME),
        BitVec.ofNat 14 (t.fld TXN_CFG_NODE), t.noticeNodes (t.fld TXN_NTX_COUNT)⟩
      let u := t.send (.notice n)
      let w := if u.netReadyDom then u.gweSendNotice n else u
      .next (if nodesName (w.fld TXN_CFG_NODE) (n.nodes.map BitVec.toNat) then
        w.noticeRx (if m = .host then 0x1F else 0x14) n else w)) ∧
  (∀ (s : State) (p : Fin 32) (n : Notice),
    s.netReadyDom = true → s.flag FCU_STAT_RECOV = false → s.flag TXN_CFG_NOTICE_EN = true → n.nodes ≠ [] →
      n.nodes.length ≤ 48 → nodesOk (n.nodes.map BitVec.toNat) = true → s.familyAllows famNotice (s.portClass p) = true
      → nodesName (s.fld TXN_CFG_NODE) (n.nodes.map BitVec.toNat) = true → (∃ h ∈ allHandles, s.txState h = txWaitNotice
      ∧ s.fld (TXN_CTL_MODE h) = 3 ∧ s.fld (TXN_CTL_GROUP h) = n.group.toNat) →
    exec (.commitNoticeRx p n) s =
      .next (s.each (allHandles.filter fun h => s.txState h == txWaitNotice && s.fld (TXN_CTL_MODE h) == 3 && s.fld
        (TXN_CTL_GROUP h) == n.group.toNat) fun h t => ((t.put (TXN_TIME_TIME h) n.time.toNat).put (TXN_STAT_STATE h)
        txValidating).finishChecks h fun _ => 0))

/-- A feed group that falls below 6.0 V empties its start queue of all but the bootstrap's schedule, re-evaluates its
  channels and raises FS064 or FS065, and one that returns queues its committed channels; a conducting channel trips
  with the cause of its rule, on the lead of its pair: with SC where its load is above the limit of its class for longer
  than the time of the class, with OC where it is above the threshold that OC_SEL gives, each doubled for a pair; the
  blanking ends; a retry attempt of a committed channel counts and lets it conduct; a clean second in service, whose
  start is kept only while the channel is in service and cool, RCLR and TCLR clear the counts. -/
def Obligations.HswTripCommandsComplete : Prop :=
  (∀ (s : State),
    exec (.feedUndervoltage .a) s =
      let t := (s.put HSW_GOVSTAT_FEEDA_OK 0).bankFeedOk
      let t := t.setStartQueue .a ((t.startQueue .a).filter t.hsw.bootInrush.contains)
      .next ((t.each (t.feedChans .a) fun n u => u.hswEval n).raiseP 64)) ∧
  (∀ (s : State),
    exec (.feedUndervoltage .b) s =
      let t := (s.put HSW_GOVSTAT_FEEDB_OK 0).bankFeedOk
      let t := t.setStartQueue .b ((t.startQueue .b).filter t.hsw.bootInrush.contains)
      .next ((t.each (t.feedChans .b) fun n u => u.hswEval n).raiseP 65)) ∧
  (∀ (s : State) (f : Feed),
    exec (.feedRestore f) s =
      let t := (s.raiseBit (feedFld f)).bankFeedOk
      .next (t.each (t.feedChans f) fun n u =>
        if u.flag (HSW_STAT_STATIC n) && !u.flag (HSW_STAT_OUT n) && !u.hswHeldOff n then
          { u with hsw := { u.hsw with bootInrush := u.hsw.bootInrush.filter (· != n) } }.hswEnqueue n
        else u)) ∧
  (∀ (s : State) (n : Fin 64),
    iLim n = (if hswClass n = 0 then 140000 else if hswClass n = 1 then 60000 else 18000) ∧
    scTime n = (if hswClass n = 0 then 30000 else if hswClass n = 1 then 20000 else 15000) ∧
    [0, 1, 2, 3].map (ocThreshold n) =
      if hswClass n = 0 then [40000, 60000, 80000, 100000]
      else if hswClass n = 1 then [16000, 24000, 32000, 48000] else [5000, 7000, 10000, 14000]) ∧
  (∀ (s : State) (n : Fin 64) (load time : BitVec 32),
    s.flag (HSW_STAT_OUT (s.hswLead n)) = true → s.pairTimes n * iLim n < load.toNat → scTime n < time.toNat →
    exec (.scTrip ⟨n, load, time⟩) s = .next (s.hswTrip n 1)) ∧
  (∀ (s : State) (n : Fin 64) (load time : BitVec 32),
    load.toNat ≤ s.pairTimes n * iLim n ∨ time.toNat ≤ scTime n →
    exec (.scTrip ⟨n, load, time⟩) s = .next s) ∧
  (∀ (s : State) (n : Fin 64) (load time : BitVec 32),
    s.flag (HSW_STAT_OUT (s.hswLead n)) = true → (s.hsc (s.hswLead n)).blank = false → s.pairTimes n * ocThreshold n
      (s.cfld (HSW_PROT_OC_SEL (s.hswLead n))) < load.toNat →
    exec (.ocTrip ⟨n, load, time⟩) s = .next (s.hswTrip n 2)) ∧
  (∀ (s : State) (n : Fin 64) (load time : BitVec 32),
    (s.hsc (s.hswLead n)).blank = true ∨ load.toNat ≤ s.pairTimes n * ocThreshold n (s.cfld (HSW_PROT_OC_SEL (s.hswLead
      n))) →
    exec (.ocTrip ⟨n, load, time⟩) s = .next s) ∧
  (∀ (s : State) (n : Fin 64),
    exec (.ocBlankEnd n) s = .next (s.setHsc n { s.hsc n with blank := false })) ∧
  (∀ (s : State) (n : Fin 64),
    s.flag (HSW_STAT_OUT (s.hswLead n)) = true →
    exec (.otTrip n) s = .next (s.hswTrip n 4)) ∧
  (∀ (s : State) (n : Fin 64),
    s.flag (HSW_STAT_RWAIT n) = true → s.flag (HSW_STAT_LATCH n) = false → s.s4 = false → ((s.putB (HSW_STAT_RWAIT n)
      false).endPulse .hsw n).flag (HSW_STAT_STATIC n) = true →
    exec (.retryAttempt n) s =
      let t := (s.putB (HSW_STAT_RWAIT n) false).endPulse .hsw n
      .next (((t.incSat (HSW_STAT_RETRY_CNT n)).setHsc n { t.hsc n with tripped := false }).hswEval n)) ∧
  (∀ (s : State) (n : Fin 64),
    s.hswInService (s.hswLead n) = true → s.hswCool (s.hswLead n) = true → s.cleanSecond (s.hswLead n) = true →
    exec (.retryCountClear n) s = .next (s.put (HSW_STAT_RETRY_CNT (s.hswLead n)) 0)) ∧
  (∀ (s : State) (n : Nat),
    s.noteClean n = s.setHsc n { s.hsc n with
      cleanFrom := if s.hswInService n && s.hswCool n then some ((s.hsc n).cleanFrom.getD s.now) else none }) ∧
  (∀ (s : State) (m : Master) (n : Fin 64),
    s.opens m (HSW_CFG n) = true → ownerOk (s.fld (HSW_CFG_OWNER n)) m = true →
    exec (.rclr m n) s = .next ((s.put (HSW_STAT_RETRY_CNT n) 0).put (HSW_STAT_EXHAUST n) 0)) ∧
  (∀ (s : State) (n : Fin 64),
    exec (.tclr n) s = .next (s.put (HSW_STAT_TRIPS n) 0))

/-- A wire-model step puts the written values in force and the switches follow them, takes every P_i first, from the
  total current of a pair, then steps each channel and then judges the latches and the clean seconds; how a pair's mean
  square is formed is the model's choice (log entry 113); an ambient turns stale; a governor measurement within BUDGET
  or outside S3 and S4 ends shedding and any other sheds one channel; an inrush step starts the head of both feed
  groups; a conducting channel with reverse current turns off and later starts again; an over-voltage holds turn-ons and
  its end releases them. How SUMP is rounded and wraps, and which channels are shed, are the model's choices (log entry
  85), as is how the bootstrap's one handle serves two heads (log entry 98). -/
def Obligations.HswStepsComplete : Prop :=
  (∀ (s : State) (td : BitVec 16) (sense : List HswSense),
    exec (.wireModelStep td sense) s =
      let dt := if s.pstate == 3 then 100 else 1
      let s := s.hswConfigActs
      let x : Nat → HswSense := s.hswSensed sense
      let p : Nat → Rat := fun n => s.wireP n (x n).ms
      let t := s.each s.hswLeads fun n u =>
        ((u.put (HSW_CUR_IRMS n) (x n).irms.toNat).put (HSW_CUR_PLOSS n) (x n).ploss.toNat).put (HSW_TEMP_TJ n) (x
          n).tj.toNat
      let t := t.each (List.range 16) fun b u =>
        u.put (HSW_BUNDLE_SUMP b) ((((u.hswLeads.filter fun n =>
          u.flag (HSW_WIRE_BEN n) && u.fld (HSW_WIRE_BUNDLE n) == b).map p).sum * 1000).floor.toNat % 65536)
      let t : State := { t with pdi := { t.pdi with tdie := (sgn 16 td.toNat : Rat) / 64 } }
      let t := t.each s.wireSteppers fun n u =>
        u.wireStep n dt (p n) (((s.bundleMates n).map p).sum)
          (u.ambient (u.fld (HSW_WIRE_AMBSRC n)) (u.fld (HSW_WIRE_AMBFIX n)) ((sgn 16 td.toNat : Rat) / 64))
      .next (t.each t.hswLeads fun n u => (u.latchRelease n).noteClean n)) ∧
  (∀ (s : State) (k : Fin 4),
    s.pstate ≤ 1 → s.flag (HSW_AMB_STALE k) = false →
    exec (.ambStale k) s = .next ((s.raiseBit (HSW_AMB_STALE k)).raiseBit HSW_IRQ_AMB_STALE)) ∧
  (∀ (s : State) (p : BitVec 16) (ia ib : BitVec 8),
    exec (.governorMeasure p ia ib) s =
      let t := ((s.put HSW_GOVSTAT_PMEAS p.toNat).put HSW_GOVSTAT_IFEEDA ia.toNat).put HSW_GOVSTAT_IFEEDB ib.toNat
      let u : State := { t with hsw := { t.hsw with recentPrev := t.hsw.recent, recent := [] } }
      .next (if u.govMeas ≤ u.govBudget || !(u.s3 || u.s4) then u.put HSW_GOVSTAT_SHEDDING 0
        else u.shedOne)) ∧
  (∀ (s : State),
    exec .inrushStep s =
      let a := s.inrushHead .a
      let b := a.1.inrushHead .b
      let heads := a.2.toList ++ b.2.toList
      let boot := heads.filter b.1.hsw.bootInrush.contains
      let t := (b.1.bootTurnOn boot).each (heads.filter (!boot.contains ·)) fun n u => u.hswEval n
      .next (t.each heads fun n u =>
        if !u.hsw.bootInrush.contains n && u.startsNow n && u.feedOk (hswFeed n) then u.setHsc n
          { u.hsc n with inrLeft := 10 * u.cfld (HSW_INR_INR_TIME n) } else u)) ∧
  (∀ (s : State) (n : Fin 64),
    s.flag (HSW_STAT_OUT (s.hswLead n)) = true →
    exec (.reverseCurrentOff n) s =
      .next (((s.setHsc (s.hswLead n) { s.hsc (s.hswLead n) with revOff := true }).hswEval (s.hswLead n)).raiseP 271)) ∧
  (∀ (s : State) (n : Fin 64),
    (s.hsc (s.hswLead n)).revOff = true →
    exec (.reverseCurrentRecover n) s =
      .next ((s.setHsc (s.hswLead n) { s.hsc (s.hswLead n) with revOff := false }).queueStarts [s.hswLead n])) ∧
  (∀ (s : State),
    s.overVolt = true →
    exec .overvoltageEnd s =
      let t : State := { s with overVolt := false }
      let held := t.hswLeads.filter fun n => (t.hsc n).ovHeld
      let t := (t.each held fun n u => u.setHsc n { u.hsc n with ovHeld := false }).queueStarts held
      let t := t.each (List.range 16) fun n u =>
        if (u.dou n).ovHeld then
          let v := u.setDou n { u.dou n with ovHeld := false }
          if v.flag (DOUT_STAT_STATIC n) then v.doutOn n else v
        else u
      .next (t.each [0, 1, 2, 3] fun d u => u.boostService d)) ∧
  (∀ (s : State),
    exec .overvoltageStart s =
      .next (((({ s with overVolt := true } : State).raiseBit SYS_SUPPLY_OV).raiseBit SYS_IRQ_OV).raiseP 270))

/-- Outside HOLD, PARK and the basting hold, each kind of trigger starts an idle sequence at entry 0 with the present
  time; a time in the past sets TERR; a conversion of a defined input writes its result, and the last one under another
  TRIG than 0x4 ends the sequence, but under TRIG 0x4 in the hold it ends too, which is the model's choice (log entry
  100); a converter that fails leaves the rotation, and one that leaves four or fewer degrades it. -/
def Obligations.SenseAdcCommandsComplete : Prop :=
  (∀ (s : State) (a : Fin 4),
    s.fld (PDI_SACFG_TRIG a) = 1 → s.saBarred = false → (s.adc a).running = none →
    exec (.saGo a) s = .next (s.setAdc a { s.adc a with running := some 0, stamp := s.ntuNs })) ∧
  (∀ (s : State) (a : Fin 4),
    s.fld (PDI_SACFG_TRIG a) = 2 → (s.adc a).event = true → s.saBarred = false → (s.adc a).running = none →
    exec (.saCounterTrigger a) s =
      .next ((s.setAdc a { s.adc a with event := false }).setAdc a
        { s.adc a with event := false, running := some 0, stamp := s.ntuNs })) ∧
  (∀ (s : State) (a : Fin 4),
    s.fld (PDI_SACFG_TRIG a) = 3 → (s.adc a).armed = true → s.timeDelta (s.fld (PDI_SATIME_TIME a)) = 0 → s.saBarred =
      false → (s.adc a).running = none →
    exec (.saTimeTrigger a) s =
      .next ((s.setAdc a { s.adc a with armed := false }).setAdc a
        { s.adc a with armed := false, running := some 0, stamp := s.ntuNs })) ∧
  (∀ (s : State) (a : Fin 4) (v : BitVec 32),
    exec (.saTimeWrite a v) s =
      let t := s.put (PDI_SATIME_TIME a) v.toNat
      let d := t.timeDelta (t.fld (PDI_SATIME_TIME a))
      let bad : Bool := d == 0 || decide (2 ^ 31 ≤ d)
      .next ((t.setAdc a { t.adc a with armed := !bad }).when bad fun u => u.raiseBit (PDI_SACFG_TERR a))) ∧
  (∀ (s : State) (a : Fin 4) (v : BitVec 12) (j : Nat),
    (s.adc a).running = some j → s.flag (PDI_SARES_VALID a j) = false → saCodeOk (s.saInput a j) = true →
    exec (.saConversionDone a v) s =
      let t := (s.raiseBit (PDI_SARES_VALID a j)).put (PDI_SARES_STAMP a j) (s.adc a).stamp
      let t := (t.put (PDI_SARES_INPUT a j) (s.saInput a j)).put (PDI_SARES_VALUE a j) v.toNat
      .next (t.setAdc a { s.adc a with
        running := if j + 1 < t.saLen a then some (j + 1)
          else if t.fld (PDI_SACFG_TRIG a) == 4 && !t.saBarred then some 0 else none
        stamp := t.ntuNs })) ∧
  (∀ (s : State) (p : Fin 5),
    s.flag (PDI_SACAL_INROT.bit p) = true → s.flag PDI_SACAL_DEGRADED = false →
    exec (.saCalFail p) s =
      let t := (s.put (PDI_SACAL_INROT.bit p) 0).raiseBit PDI_IRQ_SACAL
      .next (if popcount (t.fld PDI_SACAL_INROT) ≤ 4 then (t.raiseBit PDI_SACAL_DEGRADED).raiseP 73 else t))

/-- The on-state window of a conducting channel with ONDIAG 1 records what it saw and gives the evidence of its table,
  GOOD, OPEN, SWITCH_OPEN or none, and records nothing with ONDIAG 0; an off-state diagnosis starts in an off gap of
  RUN, DOZE or a limp target, and ends with the evidence of its table, SWITCH_SHORT, SHORT_BAT, OPEN or GOOD, or none
  where no check is on; a short pulse is stretched; DCLR by the owner clears the diagnosis state. -/
def Obligations.HswDiagnosisCommandsComplete : Prop :=
  (∀ (s : State) (n : Fin 64) (iw vo fe : BitVec 16),
    s.flag (HSW_STAT_OUT (s.hswLead n)) = true → s.flag (HSW_DCFG_ONDIAG (s.hswLead n)) = true → s.fld (HSW_DCFG_IOLON
      (s.hswLead n)) * 128 ≤ iw.toNat * 125 →
    exec (.ondiagWindowEnd n iw vo fe) s =
      let l := s.hswLead n
      let t := ((s.put (HSW_DSTAT_IWIN l) iw.toNat).put (HSW_DSTAT_VOUT l) vo.toNat).hswEvidence l 1
      .next ((t.setHsc l { t.hsc l with stretch := false }).hswEval l)) ∧
  (∀ (s : State) (n : Fin 64) (iw vo fe : BitVec 16),
    s.flag (HSW_STAT_OUT (s.hswLead n)) = true → s.flag (HSW_DCFG_ONDIAG (s.hswLead n)) = true → iw.toNat * 125 < s.fld
      (HSW_DCFG_IOLON (s.hswLead n)) * 128 → fe.toNat ≤ vo.toNat + 100 →
    exec (.ondiagWindowEnd n iw vo fe) s =
      let l := s.hswLead n
      let t := ((s.put (HSW_DSTAT_IWIN l) iw.toNat).put (HSW_DSTAT_VOUT l) vo.toNat).hswEvidence l 2
      .next ((t.setHsc l { t.hsc l with stretch := false }).hswEval l)) ∧
  (∀ (s : State) (n : Fin 64) (iw vo fe : BitVec 16),
    s.flag (HSW_STAT_OUT (s.hswLead n)) = true → s.flag (HSW_DCFG_ONDIAG (s.hswLead n)) = true → iw.toNat * 125 < s.fld
      (HSW_DCFG_IOLON (s.hswLead n)) * 128 → vo.toNat + 100 < fe.toNat →
    exec (.ondiagWindowEnd n iw vo fe) s =
      let l := s.hswLead n
      let t := (s.put (HSW_DSTAT_IWIN l) iw.toNat).put (HSW_DSTAT_VOUT l) vo.toNat
      let t := if vo.toNat < 100 then t.hswEvidence l 5 else t
      .next ((t.setHsc l { t.hsc l with stretch := false }).hswEval l)) ∧
  (∀ (s : State) (n : Fin 64) (iw vo fe : BitVec 16),
    s.flag (HSW_STAT_OUT (s.hswLead n)) = true → s.flag (HSW_DCFG_ONDIAG (s.hswLead n)) = false →
    exec (.ondiagWindowEnd n iw vo fe) s =
      let l := s.hswLead n
      .next ((s.setHsc l { s.hsc l with stretch := false }).hswEval l)) ∧
  (∀ (s : State) (n : Fin 64),
    s.flag (HSW_STAT_OUT (s.hswLead n)) = false → s.fld (HSW_DCFG_DPER (s.hswLead n)) ≠ 0 → (s.pstate ≤ 1 ∨ s.flag
      (HSW_STAT_LIMP (s.hswLead n)) = true) →
    exec (.offdiagStart n) s = .next (s.setHsc (s.hswLead n) { s.hsc (s.hswLead n) with offDiag := true })) ∧
  (∀ (s : State) (n : Fin 64) (a b : BitVec 16),
    (s.hsc (s.hswLead n)).offDiag = true → 275 ≤ a.toNat →
    exec (.offdiagResult n a b true) s =
      let l := s.hswLead n
      let t := s.setHsc l { s.hsc l with offDiag := false }
      .next ((t.put (HSW_DSTAT_VOUT l) (if t.flag (HSW_DCFG_OFFDIAG l) then b.toNat else a.toNat)).hswEvidence l 6)) ∧
  (∀ (s : State) (n : Fin 64) (a b : BitVec 16),
    (s.hsc (s.hswLead n)).offDiag = true → 275 ≤ a.toNat → s.flag (HSW_DCFG_STBEN (s.hswLead n)) = true →
    exec (.offdiagResult n a b false) s =
      let l := s.hswLead n
      let t := s.setHsc l { s.hsc l with offDiag := false }
      .next ((t.put (HSW_DSTAT_VOUT l) (if t.flag (HSW_DCFG_OFFDIAG l) then b.toNat else a.toNat)).hswEvidence l 4)) ∧
  (∀ (s : State) (n : Fin 64) (a b : BitVec 16) (c : Bool),
    (s.hsc (s.hswLead n)).offDiag = true → a.toNat < 275 → s.flag (HSW_DCFG_OFFDIAG (s.hswLead n)) = true → 100 ≤
      b.toNat → b.toNat ≤ 275 →
    exec (.offdiagResult n a b c) s =
      let l := s.hswLead n
      .next (((s.setHsc l { s.hsc l with offDiag := false }).put (HSW_DSTAT_VOUT l) b.toNat).hswEvidence l 2)) ∧
  (∀ (s : State) (n : Fin 64) (a b : BitVec 16),
    (s.hsc (s.hswLead n)).offDiag = true → a.toNat < 275 → s.flag (HSW_DCFG_OFFDIAG (s.hswLead n)) = false →
    exec (.offdiagResult n a b false) s =
      let l := s.hswLead n
      .next ((s.setHsc l { s.hsc l with offDiag := false }).put (HSW_DSTAT_VOUT l) a.toNat)) ∧
  (∀ (s : State) (n : Fin 64) (a b : BitVec 16),
    (s.hsc (s.hswLead n)).offDiag = true → a.toNat < 275 → s.flag (HSW_DCFG_OFFDIAG (s.hswLead n)) = true → b.toNat <
      100 →
    exec (.offdiagResult n a b false) s =
      let l := s.hswLead n
      .next (((s.setHsc l { s.hsc l with offDiag := false }).put (HSW_DSTAT_VOUT l) b.toNat).hswEvidence l 1)) ∧
  (∀ (s : State) (n : Fin 64),
    s.flag (HSW_DCFG_STRETCH n) = true → s.counterDriven n = true → s.flag (HSW_STAT_OUT n) = true → s.pulseCycles n <
      5000 →
    exec (.diagStretch n) s = .next (s.setHsc n { s.hsc n with stretch := true })) ∧
  (∀ (s : State) (m : Master) (n : Fin 64),
    s.opens m (HSW_CFG n) = true → ownerOk (s.fld (HSW_CFG_OWNER n)) m = true →
    exec (.hswDclr m n) s =
      .next (((s.put (HSW_DSTAT_DSTATE n) 0).put (HSW_DSTAT_EVKIND n) 0).put (HSW_DSTAT_EVID n) 0))

/-- GO in a slot with no open request takes the slot's fields, names the writer as owner and gives the request the code
  of its checks; a gap starts a waiting test, its end records OK and, of a kind the test finds, the result as evidence,
  and a deadline with no gap ends it EXPIRED. The code where S3 or S4 is in force, PENDING or DEFERRED by the gap at GO,
  a result as evidence, and RESULT 0 for a kind that the test does not find are the model's choices (log entries 24, 22,
  23, 86), and so are the codes of a valve test that names no channel of its own and the gap of TEST 0x2 (log entry
  101). -/
def Obligations.SelfTestCommandsComplete : Prop :=
  (∀ (s : State) (m : Master) (k : Fin 8) (v : BitVec 64),
    s.opens m (HSW_TSLOT k) = true → istatOpen (s.fld (tslotIstat .hsw k)) = false →
    exec (.hswTestGo m k v) s =
      let w := v ||| 0x8000000000000000#64
      let t := s.put (tslotChan .hsw k) ((tslotChan .hsw k).of w)
      let t := (t.put (tslotTest .hsw k) ((tslotTest .hsw k).of w)).put ⟨HSW_TSLOT k, 32, 16⟩ ((⟨HSW_TSLOT k, 32, 16⟩ :
        Fld).of w)
      let c := t.fld (tslotChan .hsw k)
      let test := t.fld (tslotTest .hsw k)
      let own := t.testOwner .hsw c
      let t := t.put (tslotOwner .hsw k) m.num
      .next (t.put (tslotIstat .hsw k)
        (if t.s3 || t.s4 then istatAbortedFault
         else if !ownerOk own m || t.testHeld .hsw c then istatPolicy
         else if t.testConflict .hsw c test then istatConflict
         else if t.gapNow .hsw c test then istatPending else istatDeferred))) ∧
  (∀ (s : State) (m : Master) (k : Fin 4) (v : BitVec 64),
    s.opens m (VLV_TSLOT k) = true → istatOpen (s.fld (tslotIstat .vlv k)) = false →
    exec (.vlvTestGo m k v) s =
      let w := v ||| 0x8000000000000000#64
      let t := s.put (tslotChan .vlv k) ((tslotChan .vlv k).of w)
      let t := (t.put (tslotTest .vlv k) ((tslotTest .vlv k).of w)).put ⟨VLV_TSLOT k, 32, 16⟩ ((⟨VLV_TSLOT k, 32, 16⟩ :
        Fld).of w)
      let c := t.fld (tslotChan .vlv k)
      let test := t.fld (tslotTest .vlv k)
      let own := t.testOwner .vlv c
      let t := t.put (tslotOwner .vlv k) m.num
      .next (t.put (tslotIstat .vlv k)
        (if t.s3 || t.s4 then istatAbortedFault
         else if !ownerOk own m || t.testHeld .vlv c then istatPolicy
         else if t.testConflict .vlv c test then istatConflict
         else if t.gapNow .vlv c test then istatPending else istatDeferred))) ∧
  (∀ (s : State) (m : Master) (k : Fin 4) (v : BitVec 64),
    s.opens m (LED_TSLOT k) = true → istatOpen (s.fld (tslotIstat .led k)) = false →
    exec (.ledTestGo m k v) s =
      let w := v ||| 0x8000000000000000#64
      let t := s.put (tslotChan .led k) ((tslotChan .led k).of w)
      let t := (t.put (tslotTest .led k) ((tslotTest .led k).of w)).put ⟨LED_TSLOT k, 32, 16⟩ ((⟨LED_TSLOT k, 32, 16⟩ :
        Fld).of w)
      let c := t.fld (tslotChan .led k)
      let test := t.fld (tslotTest .led k)
      let own := t.testOwner .led c
      let t := t.put (tslotOwner .led k) m.num
      .next (t.put (tslotIstat .led k)
        (if t.s3 || t.s4 then istatAbortedFault
         else if !ownerOk own m || t.testHeld .led c then istatPolicy
         else if t.testConflict .led c test then istatConflict
         else if t.gapNow .led c test then istatPending else istatDeferred))) ∧
  (∀ (s : State) (m : Master) (k : Fin 2) (v : BitVec 64),
    s.opens m (DOUT_TSLOT k) = true → istatOpen (s.fld (tslotIstat .dout k)) = false →
    exec (.doutTestGo m k v) s =
      let w := v ||| 0x8000000000000000#64
      let t := s.put (tslotChan .dout k) ((tslotChan .dout k).of w)
      let t := (t.put (tslotTest .dout k) ((tslotTest .dout k).of w)).put ⟨DOUT_TSLOT k, 32, 16⟩ ((⟨DOUT_TSLOT k, 32,
        16⟩ : Fld).of w)
      let c := t.fld (tslotChan .dout k)
      let test := t.fld (tslotTest .dout k)
      let own := t.testOwner .dout c
      let t := t.put (tslotOwner .dout k) m.num
      .next (t.put (tslotIstat .dout k)
        (if t.s3 || t.s4 then istatAbortedFault
         else if !ownerOk own m || t.testHeld .dout c then istatPolicy
         else if t.testConflict .dout c test then istatConflict
         else if t.gapNow .dout c test then istatPending else istatDeferred))) ∧
  (∀ (s : State) (b : OutBlock) (k : Fin 8),
    s.testWaits b k = true → s.gapOk b (s.fld (tslotChan b k)) (s.fld (tslotTest b k)) = true → s.pstate ≤ 1 →
    exec (.testGapStart b k) s =
      let t := s.put (tslotIstat b k) istatPending
      .next { t with pdi := { t.pdi with tests := t.pdi.tests ++ [⟨b, k.val⟩] } }) ∧
  (∀ (s : State) (b : OutBlock) (k : Fin 8) (r : BitVec 4),
    (⟨b, k.val⟩ : TestRun) ∈ s.pdi.tests → (s.testFinds b (s.fld (tslotChan b k)) (s.fld (tslotTest b k))).contains
      r.toNat = true → r.toNat ≠ 0 →
    exec (.testDone b k r) s =
      let t := (s.put (tslotIstat b k) istatOk).put (tslotResult b k) r.toNat
      let t : State := { t with pdi := { t.pdi with tests := t.pdi.tests.filter (· != ⟨b, k.val⟩) } }
      .next (t.evidence b (s.fld (tslotChan b k)) r.toNat)) ∧
  (∀ (s : State) (b : OutBlock) (k : Fin 8) (r : BitVec 4),
    (⟨b, k.val⟩ : TestRun) ∈ s.pdi.tests → (s.testFinds b (s.fld (tslotChan b k)) (s.fld (tslotTest b k))).contains
      r.toNat = false →
    exec (.testDone b k r) s =
      let t := (s.put (tslotIstat b k) istatOk).put (tslotResult b k) 0
      .next { t with pdi := { t.pdi with tests := t.pdi.tests.filter (· != ⟨b, k.val⟩) } }) ∧
  (∀ (s : State) (b : OutBlock) (k : Fin 8),
    s.testWaits b k = true →
    exec (.testDeadlineExpire b k) s = .next (s.put (tslotIstat b k) istatExpired))

/-- A CRC error counts; a lost L-die clears LINK_UP, raises FS070 and applies the limp map with cause 0x2; a restored
  link sets LINK_UP and flags held events; the L-die's own view raises FS075; a hold that expires applies the limp map
  with cause 0x5 and raises FS071; LIMP_N triggers the map, and RELEASE ends it when its conditions hold. What becomes
  of a claim set that is closed when the hold expires is the model's choice (log entry 100). -/
def Obligations.DieLinkCommandsComplete : Prop :=
  (∀ (s : State),
    exec .linkCrcError s = .next (s.incSat PDI_STAT_LINK_ERR)) ∧
  (∀ (s : State),
    s.flag PDI_STAT_LINK_UP = true →
    exec .ldieLost s =
      .next ((((s.put PDI_STAT_LINK_UP 0).raiseBit PDI_IRQ_LINK).raiseP 70).limpApply 2 istatAbortedFault)) ∧
  (∀ (s : State),
    s.flag PDI_STAT_LINK_UP = false →
    exec .linkRestore s =
      let t := (s.raiseBit PDI_STAT_LINK_UP).raiseBit PDI_IRQ_LINK
      let t := t.when t.pdi.holdEvent fun u => u.raiseBit PDI_IRQ_HOLD
      let t := t.when t.pdi.limpEvent fun u => u.raiseBit PDI_IRQ_LIMP
      .next { t with pdi := { t.pdi with holdEvent := false, limpEvent := false } }) ∧
  (∀ (s : State),
    exec .linkDownSeen s = .next (s.raiseL 75)) ∧
  (∀ (s : State),
    s.flag PDI_STAT_HOLD = true → (∀ h ∈ allHandles, (s.hnd h).claim.isSome = true → s.txState h ≠ txArmed) →
    exec .bastingHoldExpire s = .next ((s.limpApply 5 istatExpired).raiseP 71)) ∧
  (∀ (s : State),
    exec .limpNHigh s = .next { s with pdi := { s.pdi with limpNHigh := true } }) ∧
  (∀ (s : State),
    exec .limpNAssert s =
      .next (State.limpTrigger { s with pdi := { s.pdi with limpNHigh := false } } 1 istatAbortedFault)) ∧
  (∀ (s : State),
    s.flag PDI_STAT_LIMP = true → s.pdi.limpNHigh = true → s.flag PDI_STAT_LINK_UP = true → s.s3 = false → s.s4 = false
      →
    exec .limpRelease s = .next s.limpRelease)

/-- A domain takes its turn with VBST as it stands; a boost that reaches its current, or times out, enters PEAK or HOLD
  with its evidence, which of one that times out is OPEN below 10 % of BOOST_I and none otherwise; PEAK ends in HOLD,
  HOLD_T ends in RELEASE, and a release ends OFF; a queued item past its defer limit ends EXPIRED; clamp energy turns
  the release to freewheel; VBST over 62 V stops the regulator, and under VMIN it sets UV, each raising FS108. -/
def Obligations.ValvePhaseCommandsComplete : Prop :=
  (∀ (s : State) (b : Fin 4) (v : BitVec 16),
    exec (.boostStart b v) s = .next ((s.setVbst v.toNat).boostService (s.domain b))) ∧
  (∀ (s : State) (c : Fin 24) (im : BitVec 12) (tb : BitVec 16),
    s.phase (s.vlvLead c) = phBoost →
    exec (.boostEnd c true im tb) s =
      let l := s.vlvLead c
      let t := (s.put (VLV_DIAG_TBOOST l) tb.toNat).put (VLV_STAT_IMEAS l) im.toNat
      let t := t.put (VLV_STAT_PHASE l) (if Fld.of (VLV_PROF_A_PEAK_T 0) (s.val l).profA == 0 then phHold else phPeak)
      let t := t.vlvEvidence l (if tb.toNat < 20 then 3 else 1)
      .next (t.boostService (t.domain (l / 6)))) ∧
  (∀ (s : State) (c : Fin 24) (im : BitVec 12) (tb : BitVec 16),
    s.phase (s.vlvLead c) = phBoost →
    exec (.boostEnd c false im tb) s =
      let l := s.vlvLead c
      let t := (s.put (VLV_DIAG_TBOOST l) tb.toNat).put (VLV_STAT_IMEAS l) im.toNat
      let t := t.put (VLV_STAT_PHASE l) (if Fld.of (VLV_PROF_A_PEAK_T 0) (s.val l).profA == 0 then phHold else phPeak)
      let t := if im.toNat < t.boostI l then t.vlvEvidence l 2 else t
      .next (t.boostService (t.domain (l / 6)))) ∧
  (∀ (s : State) (c : Fin 24),
    s.phase (s.vlvLead c) = phPeak →
    exec (.peakEnd c) s = .next (s.put (VLV_STAT_PHASE (s.vlvLead c)) phHold)) ∧
  (∀ (s : State) (c : Fin 24),
    s.phase (s.vlvLead c) = phHold → Fld.of (VLV_PROF_A_HOLD_T 0) (s.val (s.vlvLead c)).profA ≠ 0 →
    exec (.holdTimeEnd c) s = .next (s.enterRelease (s.vlvLead c) (s.slowRelease (s.vlvLead c)))) ∧
  (∀ (s : State) (c : Fin 24),
    s.phase (s.vlvLead c) = phRelease →
    exec (.valveReleaseDone c) s =
      .next (((s.markOff .vlv (s.vlvLead c)).put (VLV_STAT_PHASE (s.vlvLead c)) phOff).setVal (s.vlvLead c)
        { s.val (s.vlvLead c) with freewheel := false })) ∧
  (∀ (s : State) (c : Fin 24) (r : BoostReq) (h i : Nat),
    (((s.bq (s.domain (s.vlvLead c / 6))).filter fun q => q.chan == s.vlvLead c).head?) = some r → r.item = some (h, i)
      →
    exec (.deferExpire c) s = .next ((s.unqueue (s.vlvLead c)).endItem h i istatExpired)) ∧
  (∀ (s : State) (c : Fin 24),
    s.phase (s.vlvLead c) = phRelease →
    exec (.clampEnergyLimit c) s = .next (s.setVal (s.vlvLead c) { s.val (s.vlvLead c) with freewheel := true })) ∧
  (∀ (s : State) (v : BitVec 16),
    v.toNat ≤ 6000 →
    exec (.vbstOvRecover v) s =
      let t := s.setVbst v.toNat
      .next { t with vlv := { t.vlv with regStopped := false } }) ∧
  (∀ (s : State) (v : BitVec 16),
    6200 < v.toNat →
    exec (.vbstOvervoltage v) s =
      let t := s.setVbst v.toNat
      .next (((({ t with vlv := { t.vlv with regStopped := true } } : State).raiseBit VLV_BSTAT_OV).raiseBit
        VLV_IRQ_BST_FAULT).raiseP 108)) ∧
  (∀ (s : State) (v : BitVec 16),
    (s.setVbst v.toNat).flag VLV_BOOST_BEN = true → (s.setVbst v.toNat).vbstReady = false →
    exec (.vbstUndervoltage v) s =
      .next ((((s.setVbst v.toNat).raiseBit VLV_BSTAT_UV).raiseBit VLV_IRQ_BST_FAULT).raiseP 108))

/-- The coil models step together; a resistance measured in HOLD sets the coil temperature; over-current, clamp and
  switch over-temperature trip a channel with their causes, a bank feed trips all its channels and starts the feed-trip
  wait, which ends by itself; the off-state check, a switch fault only while the feed stands on VBAT, and a low hold
  give their evidence; DCLR by the owner clears DSTATE. That a feed trip of a ganged pair flags the measured bank is the
  model's choice (log entry 101). -/
def Obligations.ValveTripCommandsComplete : Prop :=
  (∀ (s : State) (td : BitVec 16) (sense : List VlvSense),
    exec (.coilModelStep td sense) s = .next (s.each (List.range 24) fun c t =>
      if t.vlvLead c != c then t
      else (t.put (VLV_STAT_IMEAS c) (sense.getD c ⟨0, 0⟩).imeas.toNat).coilStep c (sense.getD c ⟨0, 0⟩).ms
        (if s.pstate == 3 then 100 else 1) ((sgn 16 td.toNat : Rat) / 64))) ∧
  (∀ (s : State) (c : Fin 24) (r : BitVec 16),
    s.phase (s.vlvLead c) = phHold →
    exec (.coilRmeas c r) s =
      let l := s.vlvLead c
      let t : Rat := 20 + ((r.toNat : Rat) / ((max 1 (s.fld (VLV_COIL_RC20 l)) : Nat) : Rat) - 1) / alphaCu
      .next (((s.put (VLV_STAT_RMEAS l) r.toNat).setVal l { s.val l with tCoil := t }).coilLimits l)) ∧
  (∀ (s : State) (c : Fin 24),
    s.phase (s.vlvLead c) ≠ phOff →
    exec (.vlvOcTrip c) s = .next ((s.vlvTrip (s.vlvLead c) 1 false).vlvEvidence (s.vlvLead c) 3)) ∧
  (∀ (s : State) (b : Fin 4),
    exec (.vlvFeedTrip b) s =
      let d := s.domain b
      let t := (s.raiseBit (VLV_IRQ_FEED.bit b)).raiseP (104 + b)
      let t := t.each (t.domainBanks d) fun k u => u.raiseBit (VLV_BANK_FWAIT k)
      .next (t.each (t.domainChans d) fun c u => if u.vlvLead c == c then u.vlvOff c 2 false else u)) ∧
  (∀ (s : State) (b : Fin 4),
    exec (.feedTripWaitEnd b) s =
      let d := s.domain b
      .next ((s.each (s.domainBanks d) fun k t => t.put (VLV_BANK_FWAIT k) 0).boostService d)) ∧
  (∀ (s : State) (c : Fin 24),
    s.phase (s.vlvLead c) = phRelease → (s.val (s.vlvLead c)).freewheel = false →
    exec (.clampOtTrip c) s = .next (s.vlvTrip (s.vlvLead c) 3 true)) ∧
  (∀ (s : State) (c : Fin 24),
    s.vlvConducts (s.vlvLead c) = true →
    exec (.vlvOtTrip c) s = .next (s.vlvTrip (s.vlvLead c) 4 true)) ∧
  (∀ (s : State) (c : Fin 24) (a b : Bool),
    s.flag (VLV_CFG_OFFDIAG (s.vlvLead c)) = true → s.phase (s.vlvLead c) = phOff → (a = true → s.feedPos (s.vlvLead c /
      6) = .vbat) →
    exec (.vlvOffdiag c a b) s = .next (s.vlvEvidence (s.vlvLead c) (if a then 5 else if b then 2 else 1))) ∧
  (∀ (s : State) (c : Fin 24) (b : Bool),
    s.flag (VLV_CFG_OFFDIAG (s.vlvLead c)) = true → s.phase (s.vlvLead c) = phOff → s.feedPos (s.vlvLead c / 6) ≠ .vbat
      →
    exec (.vlvOffdiag c true b) s = .next (s.vlvEvidence (s.vlvLead c) (if b then 2 else 1))) ∧
  (∀ (s : State) (c : Fin 24),
    (s.phase (s.vlvLead c) = phPeak ∨ s.phase (s.vlvLead c) = phHold) →
    exec (.holdLowDetect c) s = .next (s.vlvEvidence (s.vlvLead c) 4)) ∧
  (∀ (s : State) (m : Master) (c : Fin 24),
    s.opens m (VLV_STAT c) = true → ownerOk (s.fld (VLV_CFG_OWNER (s.vlvLead c))) m = true →
    exec (.vlvDclr m c) s = .next (s.put (VLV_DIAG_DSTATE (s.vlvLead c)) 0))

/-- A fade step moves the level along its curve, and step 256 ends the fade and sets its FDONE bit; a rail step records
  the sinks and, outside PARK, or under the limp map, in MODE 0x0 with the buck running, sets VLED to the next value
  under the ceiling and not below 2.0 V; the three rail faults set their bits and raise FS160, and the recovery runs the
  buck again; the junction is kept and sets or clears the fold-back; each kind of evidence of a lit sink with diagnosis
  enabled is taken, DROPOUT with CEIL = 1; DCLR by the owner clears it. -/
def Obligations.LightingRailCommandsComplete : Prop :=
  (∀ (s : State) (n : Fin 48) (f : Fade),
    s.fade n = some f → s.fld (LED_STAT_FSTEP n) < 255 →
    exec (.fadeStep n) s =
      .next ((s.put (LED_STAT_FSTEP n) (s.fld (LED_STAT_FSTEP n) + 1)).put (LED_STAT_LEVEL n) (f.level (s.fld
        (LED_STAT_FSTEP n) + 1)))) ∧
  (∀ (s : State) (n : Fin 48) (f : Fade),
    s.fade n = some f → s.fld (LED_STAT_FSTEP n) = 255 →
    exec (.fadeStep n) s =
      .next ((((((s.put (LED_STAT_FSTEP n) 256).put (LED_STAT_LEVEL n) f.target).when (f.target == 0) fun t => t.markOff
        .led n).setFade n none).put (LED_STAT_FADING n) 0).raiseBit (LED_FDONE_FDONE.bit n))) ∧
  (∀ (s : State) (vb vl it : BitVec 16) (vs im : List (BitVec 16)),
    s.fld LED_VCFG_MODE = 0 → s.led.buckOff = false → s.ledParked = false →
    exec (.vledTrackStep vb vl it vs im) s =
      let t := s.each (List.range 48) fun n u =>
        (u.put (LED_DIAG_VSINK n) (vs.getD n 0).toNat).put (LED_STAT_IMEAS n) (im.getD n 0).toNat
      let t := t.put LED_VSTAT_ITOT it.toNat
      let v := t.fld LED_VSTAT_VLED
      let want := max 200 (if t.fld LED_VCFG_MODE == 1 || v == 0 then t.fld LED_VCFG_VINIT
        else t.vledNext v (leastOf (t.vledSinks.map fun n => (vs.getD n 0).toNat)))
      if t.ledParked then .next ((t.put LED_VSTAT_VLED 0).put LED_VSTAT_CEIL 0)
      else if 2 ≤ t.fld LED_VCFG_MODE || t.led.buckOff then .next ((t.put LED_VSTAT_VLED vl.toNat).put LED_VSTAT_CEIL 0)
      else .next ((t.put LED_VSTAT_VLED (min want (t.vledLimit vb.toNat))).putB LED_VSTAT_CEIL
        (decide (t.vledLimit vb.toNat < want)))) ∧
  (∀ (s : State) (v : BitVec 16),
    (s.put LED_VSTAT_VLED v.toNat).vledMax + 200 < v.toNat →
    exec (.vledOvervoltage v) s =
      let t := s.put LED_VSTAT_VLED v.toNat
      let t : State := { t with led := { t.led with buckOff := true } }
      .next (((t.raiseBit LED_VSTAT_OV).raiseBit LED_IRQ_VLED_FAULT).raiseP 160)) ∧
  (∀ (s : State) (v : BitVec 16),
    v.toNat ≤ (s.put LED_VSTAT_VLED v.toNat).vledMax →
    exec (.vledOvRecover v) s =
      let t := s.put LED_VSTAT_VLED v.toNat
      .next { t with led := { t.led with buckOff := false } }) ∧
  (∀ (s : State) (v : BitVec 16),
    v.toNat < 200 → ((List.range 48).any fun n => (s.put LED_VSTAT_VLED v.toNat).sinkCurrent n != 0) = true →
    exec (.vledUndervoltage v) s =
      .next ((((s.put LED_VSTAT_VLED v.toNat).raiseBit LED_VSTAT_UV).raiseBit LED_IRQ_VLED_FAULT).raiseP 160)) ∧
  (∀ (s : State),
    exec .vledOvercurrent s = .next (((s.raiseBit LED_VSTAT_OC).raiseBit LED_IRQ_VLED_FAULT).raiseP 160)) ∧
  (∀ (s : State) (n : Fin 48) (tj : BitVec 16),
    9600 < sgn 16 tj.toNat →
    exec (.sinkFoldback n tj) s =
      .next (({ s with led := { s.led with tj := tset 1600 s.led.tj n (sgn 16 tj.toNat) } } : State).put (LED_STAT_FOLD
        n) 1)) ∧
  (∀ (s : State) (n : Fin 48) (tj : BitVec 16),
    sgn 16 tj.toNat ≤ 9600 →
    exec (.sinkFoldback n tj) s =
      .next (({ s with led := { s.led with tj := tset 1600 s.led.tj n (sgn 16 tj.toNat) } } : State).put (LED_STAT_FOLD
        n) 0)) ∧
  (∀ (s : State) (n : Fin 48) (k : SinkKind),
    s.flag (LED_CFG_DIAGEN n) = true → 1044225000 ≤ 150000 * s.fld (LED_STAT_TARGET n) * s.fld LED_GCFG_GLEVEL → (k =
      .dropout → s.flag LED_VSTAT_CEIL = true) →
    exec (.sinkEvidence n k) s =
      .next (s.sinkEvidence n (match k with | .good => 1 | .stringOpen => 2 | .stringShort => 3 | .dropout => 4))) ∧
  (∀ (s : State) (m : Master) (n : Fin 48),
    s.opens m (LED_STAT n) = true → ownerOk (s.fld (LED_CFG_OWNER n)) m = true →
    exec (.ledDclr m n) s =
      .next (((s.put (LED_DIAG_DSTATE n) 0).put (LED_DIAG_EVKIND n) 0).put (LED_DIAG_EVID n) 0))

/-- The first slot of a scan starts line 0 with its pre-charge and the stored levels, and a later slot takes the
  evidence of the one that ends and moves to the next line, counting a frame at line 0; a line over-current stops the
  scan, sets MSTOP and LOC and raises FS161; MRST by the owner restarts it; a frame write by the owner to a buffer that
  no armed item names is stored, and any other is ignored with FRAME_VIOL. -/
def Obligations.MatrixAndFrameCommandsComplete : Prop :=
  (∀ (s : State) (low : List (Fin 24)),
    s.matrixOn = true → s.flag LED_MSTAT_MSTOP = false → s.ledParked = false → s.led.columns = [] →
    exec (.matrixSlot low) s =
      let t := s.put LED_MSTAT_LINE 0
      .next { t with led := { t.led with
        slotAt := t.now, preVolt := t.preCharge, columns := (List.range 24).map fun c => t.fld (LED_MPT_LEVEL c) } }) ∧
  (∀ (s : State) (low : List (Fin 24)),
    s.matrixOn = true → s.flag LED_MSTAT_MSTOP = false → s.ledParked = false → s.led.columns ≠ [] → s.fld LED_MSTAT_LINE
      < 7 →
    exec (.matrixSlot low) s =
      let t := (s.pointEvidence (s.fld LED_MSTAT_LINE) low).put LED_MSTAT_LINE (s.fld LED_MSTAT_LINE + 1)
      .next { t with led := { t.led with
        slotAt := t.now, preVolt := t.preCharge, columns := (List.range 24).map fun c => t.fld (LED_MPT_LEVEL (24 *
          (s.fld LED_MSTAT_LINE + 1) + c)) } }) ∧
  (∀ (s : State) (low : List (Fin 24)),
    s.matrixOn = true → s.flag LED_MSTAT_MSTOP = false → s.ledParked = false → s.led.columns ≠ [] → s.fld LED_MSTAT_LINE
      = 7 →
    exec (.matrixSlot low) s =
      let t := ((s.pointEvidence 7 low).incWrap LED_MSTAT_FRAMES).put LED_MSTAT_LINE 0
      .next { t with led := { t.led with
        slotAt := t.now, preVolt := t.preCharge, columns := (List.range 24).map fun c => t.fld (LED_MPT_LEVEL c) } }) ∧
  (∀ (s : State),
    s.matrixOn = true → s.led.columns ≠ [] →
    exec .matrixLineOc s =
      let t := (s.raiseBit LED_MSTAT_MSTOP).raiseBit (LED_MSTAT_LOC.bit ((s.raiseBit LED_MSTAT_MSTOP).fld LED_MSTAT_LINE))
      let t := (t.raiseBit LED_IRQ_MSTOP).raiseP 161
      let t : State := { t with led := { t.led with columns := [] } }
      .next (t.hitItems fun it => it.block == 3 && decide (0x40 ≤ it.chan))) ∧
  (∀ (s : State) (m : Master),
    s.opens m LED_GCFG = true → ownerOk (s.fld LED_MCFG_OWNER) m = true →
    exec (.mrst m) s =
      let t := ((s.put LED_MSTAT_MSTOP 0).put LED_MSTAT_LOC 0).put LED_MSTAT_LINE 0
      let t := t.each (List.range 3) fun k u => u.put (LED_MOPEN_OPEN k) 0
      .next { t with led := { t.led with columns := [], lowPoints := [] } }) ∧
  (∀ (s : State) (m : Master) (k : Fin 2) (f : Fin 16) (w : Fin 64) (a : Access) (v : BitVec 64),
    s.opens m LED_GCFG = true → s.frameArmed k f = false → ownerOk (s.fld (LED_SC_CFG_OWNER k)) m = true →
    exec (.frameWrite m k f w a v) s = .next (s.setReg (LED_SC_FRM k f w) (accMerge a (s.reg (LED_SC_FRM k f w)) v))) ∧
  (∀ (s : State) (m : Master) (k : Fin 2) (f : Fin 16) (w : Fin 64) (a : Access) (v : BitVec 64),
    s.opens m LED_GCFG = true → s.frameArmed k f = true ∨ ownerOk (s.fld (LED_SC_CFG_OWNER k)) m = false →
    exec (.frameWrite m k f w a v) s = .next (s.raiseBit LED_IRQ_FRAME_VIOL))

/-- A sample of a scanned input first brings accepted writes into effect, records its voltage and class, flags the
  wetting check and a low VBAT, steps the filter, and acts on a STATE that differs from the one before; a configuration
  write by the owner of an input no limp entry names is taken; a refresh by the owner with the next SEQ restarts a
  running window; a window that expires switches the output off with cause SILENT; over-current and over-temperature
  trip a conducting output; the off-state check starts and ends with its evidence, SHORT_GND, OPEN, GOOD or none; DCLR
  by the owner clears DSTATE. That only a STATE acts that differs from the one before the sample is the model's choice
  (log entry 75). -/
def Obligations.InputsAndFieldOutputsComplete : Prop :=
  (∀ (s : State) (n : Fin 96) (p v : BitVec 16) (ok : Bool),
    (s.pstate ≠ 3 ∨ s.dinParkScan n = true) →
    exec (.dinSample n p v ok) s =
      let t := s.dinSettle n
      let k := t.dinClass n p.toNat v.toNat ok
      let t := (t.put (DIN_STAT_VPIN n) p.toNat).put (DIN_STAT_RAW n) k
      let t := t.when (!ok) fun u => (u.raiseBit DIN_IRQ_WET_FAULT).raiseP 166
      let t := t.when (t.flag (DIN_CFG_WBEN n) && decide (v.toNat < 500)) fun u => u.raiseBit DIN_IRQ_WBLOWV
      .next (((t.dinDecide n k).1.put (DIN_STAT_STATE n) (s.fld (DIN_STAT_STATE n))).dinChange n (t.dinDecide n k).2)) ∧
  (∀ (s : State) (m : Master) (n : Fin 96) (r : Fin 3) (a : Access) (v : BitVec 64),
    s.opens m (DIN_CFG n) = true → ownerOk (s.fld (DIN_CFG_OWNER n)) m = true → s.dinLimpNamed n = false →
    exec (.dinConfigWrite m n r a v) s =
      .next (s.dinConfig n (dinReg n r) ((s.reg (dinReg n r) &&& ~~~ dinMask r) ||| (accMerge a (s.reg (dinReg n r)) v
        &&& dinMask r))).1) ∧
  (∀ (s : State) (m : Master) (n : Fin 16) (q : BitVec 4),
    s.opens m (DOUT_CFG n) = true → (s.dou n).expired = false → s.fld (DOUT_CFG_OWNER n) = m.num → q.toNat = (s.fld
      (DOUT_STAT_SEQ n) + 1) % 16 → (s.dou n).running = true → (s.dou n).suspended = false →
    exec (.doutRefresh m n q) s = .next ((s.put (DOUT_STAT_SEQ n) q.toNat).startWindow n)) ∧
  (∀ (s : State) (n : Fin 16),
    (s.dou n).running = true → (s.dou n).suspended = false →
    exec (.refreshWindowExpire n) s =
      let t := (s.endPulse .dout n).doutOff n
      let t := (t.put (DOUT_STAT_TRIP_CAUSE n) 3).raiseBit (DOUT_IRQ_SILENT.bit n)
      let t := (t.raiseP (168 + n)).setDou n { t.dou n with expired := true }
      .next (t.hitItems fun it => it.block == 4 && it.chan == n)) ∧
  (∀ (s : State) (n : Fin 16),
    s.flag (DOUT_STAT_OUT n) = true →
    exec (.doutOcTrip n) s = .next ((s.doutTrip n 1).doutEvidence n 4)) ∧
  (∀ (s : State) (n : Fin 16),
    s.flag (DOUT_STAT_OUT n) = true →
    exec (.doutOtTrip n) s = .next (s.doutTrip n 2)) ∧
  (∀ (s : State) (n : Fin 16),
    s.flag (DOUT_CFG_OFFDIAG n) = true → s.flag (DOUT_STAT_OUT n) = false →
    exec (.doutOffdiagStart n) s = .next (s.setDou n { s.dou n with offDiag := true })) ∧
  (∀ (s : State) (n : Fin 16) (a b v : BitVec 16),
    (s.dou n).offDiag = true → a.toNat < 100 →
    exec (.doutOffdiagResult n a b v) s = .next ((s.setDou n { s.dou n with offDiag := false }).doutEvidence n 3)) ∧
  (∀ (s : State) (n : Fin 16) (a b v : BitVec 16),
    (s.dou n).offDiag = true → 100 ≤ a.toNat → b.toNat < 100 →
    exec (.doutOffdiagResult n a b v) s = .next ((s.setDou n { s.dou n with offDiag := false }).doutEvidence n 2)) ∧
  (∀ (s : State) (n : Fin 16) (a b v : BitVec 16),
    (s.dou n).offDiag = true → 100 ≤ a.toNat → 100 ≤ b.toNat →
    exec (.doutOffdiagResult n a b v) s =
      let t := s.setDou n { s.dou n with offDiag := false }
      .next (if v.toNat - 100 ≤ a.toNat ∧ v.toNat - 100 ≤ b.toNat then t.doutEvidence n 1 else t)) ∧
  (∀ (s : State) (m : Master) (n : Fin 16),
    s.opens m (DOUT_CFG n) = true → ownerOk (s.fld (DOUT_CFG_OWNER n)) m = true →
    exec (.doutDclr m n) s = .next (s.put (DOUT_STAT_DSTATE n) 0))

/-- The owner's START, STOP, RESET and CAPNOW, and the group commands for each named counter, wait for the counter's
  next edge (log entry 70), where the requests of a standing counter combine: a stop stops it, a reset sets count and
  prescaler to 0, a start alone runs it with its prescaler at 0, and CAPNOW captures the count after them; a tick with
  its period or compare event, and an edge with waiting LNK or TACT actions, is the counter's edge; a capture edge that
  is selected captures; a full capture slot is handed to the reader; a period or compare written while the counter
  stands is in force at once. -/
def Obligations.CounterCommandsComplete : Prop :=
  (∀ (s : State) (m : Master) (g : Fin 32),
    s.opens m (GT_CFG g) = true → ownerOk (s.fld (GT_CFG_OWNER g)) m = true →
    exec (.gtStart m g) s = .next (s.gtRequest g [1])) ∧
  (∀ (s : State) (m : Master) (g : Fin 32),
    s.opens m (GT_CFG g) = true → ownerOk (s.fld (GT_CFG_OWNER g)) m = true →
    exec (.gtStop m g) s = .next (s.gtRequest g [3])) ∧
  (∀ (s : State) (m : Master) (g : Fin 32),
    s.opens m (GT_CFG g) = true → ownerOk (s.fld (GT_CFG_OWNER g)) m = true →
    exec (.gtReset m g) s = .next (s.gtRequest g [2])) ∧
  (∀ (s : State) (m : Master) (g : Fin 32),
    s.opens m (GT_CFG g) = true → ownerOk (s.fld (GT_CFG_OWNER g)) m = true →
    exec (.capnow m g) s = .next (s.setCtr g { s.ctr g with capDue := true })) ∧
  (∀ (s : State) (g : Nat),
    s.gtRuns g = false →
    s.gtEdge g =
      let t := (s.gtTake g).gtApply g ((s.ctr g).sw ++ (s.ctr g).lnk ++ (s.ctr g).tact)
      if (s.ctr g).capDue then t.gtCapture g else t) ∧
  (∀ (s : State) (g : Nat) (acts : List Nat),
    2 ∉ acts → 3 ∈ acts →
    s.gtApply g acts = s.put (GT_STAT_RUN g) 0) ∧
  (∀ (s : State) (g : Nat) (acts : List Nat),
    2 ∉ acts → 3 ∉ acts → 1 ∈ acts → s.gtRuns g = false →
    s.gtApply g acts = (s.raiseBit (GT_STAT_RUN g)).setCtr g { s.ctr g with psc := 0 }) ∧
  (∀ (s : State) (g : Nat) (acts : List Nat),
    2 ∈ acts → 3 ∉ acts → 1 ∉ acts →
    s.gtApply g acts =
      let t := (s.setReg (GT_CNT g) 0).setCtr g { s.ctr g with psc := 0, wrapNext := false }
      if t.fld (GT_CFG_OUTMODE g) == 2 then t.gtOut g false else t.gtRecompute g) ∧
  (∀ (s : State) (m : Master) (k : BitVec 32),
    s.opens m GT_GSTART = true →
    exec (.gtGstart m k) s = .next (s.each ((List.range 32).filter fun g => k.toNat.testBit g) fun g t =>
      if ownerOk (t.fld (GT_CFG_OWNER g)) m then t.gtRequest g [1] else t.raiseBit GT_IRQ_CFG_VIOL)) ∧
  (∀ (s : State) (m : Master) (k : BitVec 32),
    s.opens m GT_GSTART = true →
    exec (.gtGstop m k) s = .next (s.each ((List.range 32).filter fun g => k.toNat.testBit g) fun g t =>
      if ownerOk (t.fld (GT_CFG_OWNER g)) m then t.gtRequest g [3] else t.raiseBit GT_IRQ_CFG_VIOL)) ∧
  (∀ (s : State) (g : Fin 32),
    s.gtTickDue g = true → s.gtWraps g = true →
    exec (.gtPeriodEvent g) s = .next ((s.gtTake g).gtEdgeWith g (s.gtDue g))) ∧
  (∀ (s : State) (g : Fin 32),
    s.gtTickDue g = true → 1 ∈ s.gtTickEvents g →
    exec (.gtCompareEvent g false) s = .next (s.gtEdge g)) ∧
  (∀ (s : State) (g : Fin 32),
    s.gtTickDue g = true → 2 ∈ s.gtTickEvents g →
    exec (.gtCompareEvent g true) s = .next (s.gtEdge g)) ∧
  (∀ (s : State) (g : Fin 32),
    (s.ctr g).lnk.isEmpty = false → s.pstate ≤ 1 →
    exec (.gtLinkAction g) s = .next (s.gtEdge g)) ∧
  (∀ (s : State) (g : Fin 32),
    (s.ctr g).tact.isEmpty = false → s.pstate ≤ 1 →
    exec (.gtTriggerAction g) s = .next (s.gtEdge g)) ∧
  (∀ (s : State) (g : Fin 32) (up : Bool),
    0x08 ≤ s.fld (GT_CFG_CAPSRC g) → s.fld (GT_CFG_CAPSRC g) ≤ 0x0F → edgeTaken (s.fld (GT_CFG_CAPEDGE g)) up = true →
      s.pstate ≤ 1 →
    exec (.gtCapture g up) s = .next (s.gtCapture g)) ∧
  (∀ (s : State) (m : Master) (g : Fin 32),
    s.opens m (GT_CFG g) = true → s.flag (GT_STAT_CAPF g) = true →
    exec (.gtCapRead m g .w64) s =
      let t := (s.setReg (GT_CAP g) (s.ctr g).slot).put (GT_STAT_CAPF g) 0
      .next (t.answer (t.reg (GT_CAP g)).toNat)) ∧
  (∀ (s : State) (m : Master) (g : Fin 32) (r : GtReg) (v : BitVec 64),
    s.opens m (GT_CFG g) = true → ownerOk (s.fld (GT_CFG_OWNER g)) m = true →
    exec (.gtPerCmpWrite m g r .w64 v) s =
      .next ((s.splitWrite m (gtRegAddr g r) .w64 (s.reg (gtRegAddr g r)) v).1.gtSetReg g r v))

/-- The edge that wraps NTU_NS and the one that uses up a slew are CK_NET edges; the keeper writes the increment, a
  slew, a step, which waits for the next CK_NET edge, and the sync state; a holdover that expires while the unit runs
  clears SYNC; selected edges and SWCAP capture the extended time; a full capture is handed to the reader; a trigger is
  armed for a time ahead, stopped, gives its leading edge at its time and its trailing edge after its width, and under
  MODE 2 stays armed with TIME one PERIOD on, PERIOD and WIDTH acting within their bounds. -/
def Obligations.NetworkTimeCommandsComplete : Prop :=
  (∀ (s : State),
    s.pstate ≤ 1 → s.ntuWraps = true →
    exec .ntuWrap s = .next s.ntuEdge) ∧
  (∀ (s : State) (m : Master) (a : Access) (v : BitVec 64),
    s.opens m NTU_EXT = true → ownerOk (s.fld NTU_SYNC_KEEPER) m = true →
    exec (.ntuIncWrite m a v) s =
      .next ((s.put NTU_INC_INT (NTU_INC_INT.of (accMerge a (s.reg NTU_INC) v))).put NTU_INC_FRAC (NTU_INC_FRAC.of
        (accMerge a (s.reg NTU_INC) v)))) ∧
  (∀ (s : State) (m : Master) (x : BitVec 32),
    s.opens m NTU_EXT = true → ownerOk (s.fld NTU_SYNC_KEEPER) m = true →
    exec (.ntuSlew m x) s =
      .next (((s.put NTU_ADJ_STEP 0).put NTU_ADJ_OFFSET x.toNat).setSlew (sgn 32 x.toNat * 16))) ∧
  (∀ (s : State) (m : Master) (x : BitVec 32),
    s.opens m NTU_ADJ = true → ownerOk (s.fld NTU_SYNC_KEEPER) m = true →
    exec (.ntuStep m x) s =
      let t := (s.put NTU_ADJ_STEP 1).put NTU_ADJ_OFFSET x.toNat
      .next { t with ntu := { t.ntu with step := some (sgn 32 x.toNat) } }) ∧
  (∀ (s : State),
    s.pstate ≤ 1 → (s.ntu.slew = 1 ∨ s.ntu.slew = -1) →
    exec .ntuSlewDone s = .next s.ntuEdge) ∧
  (∀ (s : State) (m : Master) (a : Access) (v : BitVec 64),
    s.opens m NTU_EXT = true → ownerOk (s.fld NTU_SYNC_KEEPER) m = true →
    exec (.ntuSyncWrite m a v) s =
      let x := accMerge a (s.reg NTU_SYNC) v
      .next ([NTU_SYNC_SYNC, NTU_SYNC_HOLDMS, NTU_SYNC_TERR].foldl (fun t f => t.put f (f.of x)) s)) ∧
  (∀ (s : State),
    s.fld NTU_SYNC_HOLDMS ≠ 0 → s.pstate ≤ 1 → s.sys.inReset = false → s.sys.por = false →
    exec .ntuHoldoverExpire s = .next ((s.put NTU_SYNC_SYNC 0).raiseBit NTU_STAT_SYNCLOST)) ∧
  (∀ (s : State) (k : Fin 8),
    s.pstate ≤ 1 → s.fld NTU_CAPCFG_EDGE / 4 ^ k.val % 4 = 1 →
    exec (.ntuCapture k true) s = .next (s.ntuCapture k)) ∧
  (∀ (s : State) (k : Fin 8),
    s.pstate ≤ 1 → s.fld NTU_CAPCFG_EDGE / 4 ^ k.val % 4 = 2 →
    exec (.ntuCapture k false) s = .next (s.ntuCapture k)) ∧
  (∀ (s : State) (m : Master) (x : BitVec 8),
    s.opens m NTU_CAPCFG = true →
    exec (.ntuSwcap m x) s =
      .next (s.each ((List.range 8).filter fun k => x.toNat.testBit k) fun k t => t.ntuCapture k)) ∧
  (∀ (s : State) (m : Master) (k : Fin 8),
    s.opens m NTU_EXT = true → s.flag (NTU_CAPSTAT_CAPF.bit k) = true →
    exec (.ntuCapRead m k .w64) s =
      let t := (s.setReg (NTU_CAP k) (tget 0 s.ntu.slot k)).put (NTU_CAPSTAT_CAPF.bit k) 0
      .next (t.answer (t.reg (NTU_CAP k)).toNat)) ∧
  (∀ (s : State) (m : Master) (k : Fin 4) (v : BitVec 64),
    s.opens m NTU_EXT = true → ownerOk (s.fld (NTU_TRG_CFG_OWNER k)) m = true →
    exec (.ntuTriggerArm m k v) s = .next (s.trgWrite m k .w64 (v ||| armBit))) ∧
  (∀ (s : State) (m : Master) (k : Fin 4) (v : BitVec 64),
    s.opens m NTU_EXT = true → ownerOk (s.fld (NTU_TRG_CFG_OWNER k)) m = true →
    exec (.ntuTriggerDisarm m k v) s =
      let x := v &&& ~~~ armBit
      .next (([NTU_TRG_CFG_OE k, NTU_TRG_CFG_POL k, NTU_TRG_CFG_MODE k].foldl (fun t f => t.put f (f.of x)) s).trgStop k)) ∧
  (∀ (s : State) (k : Fin 4),
    s.flag (NTU_TRG_CFG_ARM k) = true → s.fld (NTU_TRG_CFG_MODE k) = 1 → tget none s.ntu.pulse k = none → s.reached
      (s.fld (NTU_TRG_TIME_TIME k)) = true → s.pstate ≤ 1 →
    exec (.ntuTriggerLead k) s =
      let e := (s.fld (NTU_TRG_TIME_TIME k) + s.trgWidth k) % 2 ^ 32
      let t : State := { s with ntu := { s.ntu with pulse := tset none s.ntu.pulse k (some e) } }
      .next (t.each (List.range 32) fun g u =>
        if u.fld (GT_ACT_TACT g) != 0 && u.fld (GT_ACT_TSEL g) == k.val then
          u.setCtr g { u.ctr g with tact := (u.ctr g).tact ++ [u.fld (GT_ACT_TACT g)] }
        else u)) ∧
  (∀ (s : State) (k : Fin 4),
    s.flag (NTU_TRG_CFG_ARM k) = true → s.fld (NTU_TRG_CFG_MODE k) = 2 → tget none s.ntu.pulse k = none → s.reached
      (s.fld (NTU_TRG_TIME_TIME k)) = true → s.pstate ≤ 1 →
    exec (.ntuTriggerLead k) s =
      let t0 := s.fld (NTU_TRG_TIME_TIME k)
      let p := max 64 (min (2 ^ 31 - 1) (s.fld (NTU_TRG_PW_PERIOD k)))
      let w := max 8 (min (p - 8) (s.fld (NTU_TRG_PW_WIDTH k)))
      let t : State := { s with ntu := { s.ntu with pulse := tset none s.ntu.pulse k (some ((t0 + w) % 2 ^ 32)) } }
      .next ((t.put (NTU_TRG_TIME_TIME k) ((t0 + p) % 2 ^ 32)).each (List.range 32) fun g u =>
        if u.fld (GT_ACT_TACT g) != 0 && u.fld (GT_ACT_TSEL g) == k.val then
          u.setCtr g { u.ctr g with tact := (u.ctr g).tact ++ [u.fld (GT_ACT_TACT g)] }
        else u)) ∧
  (∀ (s : State) (k : Fin 4) (e : Nat),
    tget none s.ntu.pulse k = some e → s.reached e = true → s.fld (NTU_TRG_CFG_MODE k) = 2 →
    exec (.ntuTriggerTrail k) s = .next { s with ntu := { s.ntu with pulse := tset none s.ntu.pulse k none } }) ∧
  (∀ (s : State) (k : Fin 4) (e : Nat),
    tget none s.ntu.pulse k = some e → s.reached e = true → s.fld (NTU_TRG_CFG_MODE k) ≠ 2 →
    exec (.ntuTriggerTrail k) s =
      let t : State := { s with ntu := { s.ntu with pulse := tset none s.ntu.pulse k none } }
      .next (t.put (NTU_TRG_CFG_ARM k) 0))

/-- The owner's mode write is held and takes effect between frames; an unanswered candidate gives way to the next; BOREC
  starts the recovery of a channel that is bus-off and its end clears the counters; the tack window closes; a bus fault
  stands until it clears, when the window opens again; a wake-up pattern wakes a channel that listens for it. -/
def Obligations.CanModeCommandsComplete : Prop :=
  (∀ (s : State) (m : Master) (n : Fin 8) (k : BitVec 3),
    s.opens m (CAN_CTL n) = true → ownerOk (s.fld (CAN_CTL_OWNER n)) m = true → s.fld (CAN_MRAM_SIZE n) ≠ 0 →
    exec (.canModeWrite m n k) s = .next (s.put (CAN_CTL_MODE n) k.toNat)) ∧
  (∀ (s : State) (n : Fin 8),
    s.netRuns = true → (s.cn n).tx = none → canModeOf (s.fld (CAN_CTL_MODE n)) ≠ (s.cn n).mode →
    exec (.canModeChange n) s = .next ((s.canSetMode n (canModeOf (s.fld (CAN_CTL_MODE n)))).nslCheck)) ∧
  (∀ (s : State) (n : Fin 8),
    s.netRuns = true → (s.cn n).mode = canAbd → (s.cn n).cand < s.fld (CAN_CTL_ABDN n) →
    exec (.abdCandidateTimeout n) s = .next (s.setCn n { s.cn n with cand := (s.cn n).cand + 1 })) ∧
  (∀ (s : State) (n : Fin 8),
    s.netRuns = true → (s.cn n).mode = canAbd → s.fld (CAN_CTL_ABDN n) ≤ (s.cn n).cand →
    exec (.abdCandidateTimeout n) s = .next ((s.setCn n { s.cn n with cand := 0 }).raiseBit (CAN_IRQ_ABD_ROUND n))) ∧
  (∀ (s : State) (m : Master) (n : Fin 8),
    s.opens m (CAN_CTL n) = true → ownerOk (s.fld (CAN_CTL_OWNER n)) m = true → (s.cn n).busOff = true →
    exec (.borec m n) s = .next (s.setCn n { s.cn n with recovering := true })) ∧
  (∀ (s : State) (n : Fin 8),
    s.netRuns = true → (s.cn n).busOff = true → (s.cn n).recovering = true →
    exec (.busoffRecovered n) s =
      .next (((((s.put (CAN_STAT_TEC n) 0).put (CAN_STAT_REC n) 0).put (CAN_STAT_EPASS n) 0).setCn n
        { s.cn n with busOff := false, recovering := false }).canShow n)) ∧
  (∀ (s : State) (n : Fin 8),
    s.netRuns = true →
    exec (.tackWindowClose n) s = .next ((s.setCn n { s.cn n with tack := false }).canShow n)) ∧
  (∀ (s : State) (n : Fin 6),
    s.netRuns = true →
    exec (.canBusFault n) s = .next (((s.setCn n { s.cn n with fault := true }).canShow n).raiseL (208 + n))) ∧
  (∀ (s : State) (n : Fin 6),
    s.netRuns = true → (s.cn n).fault = true →
    exec (.canBusFaultClear n) s =
      .next ((s.setCn n { s.cn n with fault := false, tack := (s.cn n).mode == canActive || (s.cn n).tack }).canShow n)) ∧
  (∀ (s : State) (n : Fin 6),
    s.swListens n = true → s.fld (CAN_TRX_SWMODE n) = 1 →
    exec (.canSelectiveWake n .pattern) s = .next (s.swWake n 1)) ∧
  (∀ (s : State) (n : Fin 6),
    s.swListens n = true → s.fld (CAN_TRX_SWMODE n) = 2 →
    exec (.canSelectiveWake n .errored) s = .next (s.swErrored n))

/-- A channel that receives stores a frame, counts it as good and hands it on; a release by the owner frees a buffer; a
  request by the owner of an active channel with a frame its type can carry becomes PENDING, and its cancel before the
  attempt ends it SUPERSEDED; an idle active channel starts the request that wins arbitration; a frame sent ends its
  request OK with its stamp; an attempt that fails and a bus error are counted, and a protocol exception is no error.
  That a word with a double-bit error gives free data and a free length is the model's choice (log entries 96, 105). -/
def Obligations.CanTrafficCommandsComplete : Prop :=
  (∀ (s : State) (n : Fin 8) (f : CanFrame) (st : BitVec 32) (v : BitVec 16),
    s.netRuns = true → (s.cn n).receives = true → (s.cn n).mode ≠ canAbd →
    exec (.canFrameRx n f st v) s = .next (((s.canStore n f st.toNat).canRxGood n).canHandOn n f st.toNat v.toNat)) ∧
  (∀ (s : State) (n : Fin 8) (f : CanFrame) (st : BitVec 32) (v : BitVec 16),
    s.netRuns = true → (s.cn n).mode = canAbd →
    exec (.canFrameRx n f st v) s =
      .next ((((s.abdLock n).canStore n f st.toNat).canRxGood n).canHandOn n f st.toNat v.toNat)) ∧
  (∀ (s : State) (m : Master) (n : Fin 8) (k : Fin 128),
    s.opens m (CAN_MB_CTL n k) = true → ownerOk (s.fld (CAN_CTL_OWNER n)) m = true → s.canPending n k = false →
    exec (.canRelease m n k.castSucc) s =
      .next (((s.put (CAN_MB_CTL_FULL n k) 0).put (CAN_MB_CTL_OVR n k) 0).put (CAN_MB_CTL_TRUNC n k) 0)) ∧
  (∀ (s : State) (m : Master) (n : Fin 8),
    s.opens m (CAN_EXCTL n) = true → ownerOk (s.fld (CAN_CTL_OWNER n)) m = true →
    exec (.canRelease m n 128) s =
      .next (((s.put (CAN_EXCTL_FULL n) 0).put (CAN_EXCTL_OVR n) 0).put (CAN_EXCTL_TRUNC n) 0)) ∧
  (∀ (s : State) (m : Master) (n : Fin 8) (k : Fin 128) (e : MemErr),
    s.opens m (CAN_MB_CTL n k) = true → ownerOk (s.fld (CAN_CTL_OWNER n)) m = true → s.fld (CAN_MB_CTL_DIR n k) = 2 →
      s.canPending n k = false → (s.cn n).mode = canActive → (s.cn n).busOff = false → e ≠ .double → s.canLen n k ≤
      psizeBytes (s.canPsize n k) → (padLen (s.canTxFmt n k) (s.canLen n k)).isSome = true →
    exec (.canTxreq m n ⟨k, e⟩) s =
      .next (((s.dmaEcc e).put (CAN_MB_CTL_ISTAT n k) istatPending).setCn n
        { s.cn n with fails := tset 0 (s.cn n).fails k 0, late := (s.cn n).late.filter (· != k.val) })) ∧
  (∀ (s : State) (m : Master) (n : Fin 8) (k : Fin 128),
    s.opens m (CAN_MB_CTL n k) = true → ownerOk (s.fld (CAN_CTL_OWNER n)) m = true → s.fld (CAN_MB_CTL_DIR n k) = 2 →
      s.canPending n k = false → (s.cn n).mode = canActive → (s.cn n).busOff = false →
    exec (.canTxreq m n ⟨k, .double⟩) s =
      let t := s.dmaEcc .double
      let u := t.draw.2
      let len := t.draw.1.toNat % 4096
      .next (if psizeBytes (u.canPsize n k) < len || (padLen (u.canTxFmt n k) len).isNone then u.canEnd n k istatConflict
        else (u.put (CAN_MB_CTL_ISTAT n k) istatPending).setCn n
          { s.cn n with fails := tset 0 (s.cn n).fails k 0, late := (s.cn n).late.filter (· != k.val) })) ∧
  (∀ (s : State) (m : Master) (n : Fin 8) (k : Fin 128),
    s.opens m (CAN_MB_CTL n k) = true → ownerOk (s.fld (CAN_CTL_OWNER n)) m = true → s.canPending n k = true → (s.cn
      n).tx = none →
    exec (.canCancel m n k) s = .next ((s.canEnd n k istatSuperseded).nslCheck)) ∧
  (∀ (s : State) (n : Fin 8) (b : Option Nat) (f : CanFrame) (d : BitVec 8) (e : MemErr),
    s.netRuns = true → (s.cn n).canSend = true → s.canPick n = some (b, f) →
    exec (.canTxStart ⟨n, d, e⟩) s =
      let e : MemErr := if b.isSome then e else .good
      let r := (s.dmaEcc e).canDamage f e
      .next ((r.1.setCn n { r.1.cn n with
        tx := some
          { buf := b, stamp := r.1.ntuNs, frame := r.2, notice := b.isNone && !(r.1.cn n).gwNotes.isEmpty, tdc := d.toNat }
          }).send
          (.canFrame n r.2))) ∧
  (∀ (s : State) (n : Fin 8) (x : CanTx) (k : Nat),
    s.netRuns = true → (s.cn n).tx = some x → x.buf = some k → x.cancel = false → k ∉ (s.cn n).late →
    exec (.canTxEnd n) s =
      let t := ((s.tdcShow n).setCn n { s.cn n with tx := none }).canTxGood n
      let t := (t.put (CAN_MB_CTL_STAMP n k) x.stamp).canEnd n k istatOk
      .next ((t.nslFrame n x.frame.id.toNat x.frame.ide x.frame.data true).nslCheck)) ∧
  (∀ (s : State) (n : Fin 8) (x : CanTx),
    s.netRuns = true → (s.cn n).tx = some x → x.cancel = false →
    exec (.canArbLost n) s = .next ((s.canFailed n x).nslCheck)) ∧
  (∀ (s : State) (n : Fin 8) (t r : Fin 9) (b x : Bool),
    s.netRuns = true → (x && s.flag (CAN_CTL_PEX n)) = false → (s.cn n).counts = true →
    exec (.canBusError n t r ⟨b, x⟩) s = .next (((s.canAttemptEnds n b).canCount n t r).nslCheck)) ∧
  (∀ (s : State) (n : Fin 8) (t r : Fin 9) (b : Bool),
    s.netRuns = true → s.flag (CAN_CTL_PEX n) = true →
    exec (.canBusError n t r ⟨b, true⟩) s = .next s)

/-- The owner enables a channel, whose tack window then opens and closes; a bus dominant too long opens it again and
  raises its fault; a commander's schedule starts at the slot that is written, stops after the present slot and gives
  way to the go-to-sleep frame; a GOSLEEP in the tack window waits for its end; a slot that ends is followed by the next
  one; WAKE leaves SLEEP, and so does a wake received, which starts no series of pulses (the model's choice, log entry
  78) and in HOLD and PARK is the power manager's; a responder repeats its pulse and sleeps after an idle bus. -/
def Obligations.LinScheduleCommandsComplete : Prop :=
  (∀ (s : State) (m : Master) (n : Fin 8),
    s.opens m (LIN_CFG n) = true → ownerOk (s.fld (LIN_CFG_OWNER n)) m = true → s.flag (LIN_CFG_EN n) = false →
    exec (.linEnable m n) s = .next ((s.raiseBit (LIN_CFG_EN n)).linTackOpen n)) ∧
  (∀ (s : State) (n : Fin 8),
    s.netRuns = true → s.linState n = linTack →
    exec (.linTackClose n) s =
      let t := s.linBecomesActive n
      .next (if t.linState n == linSleep then t.nslCheck else t)) ∧
  (∀ (s : State) (m : Master) (n : Fin 8),
    s.opens m (LIN_CMD n) = true → ownerOk (s.fld (LIN_CFG_OWNER n)) m = true → s.linCommander n = true → s.linState n =
      linTack →
    exec (.gosleep m n) s = .next (s.setLn n { s.ln n with sleepWait := true })) ∧
  (∀ (s : State) (n : Fin 8),
    s.netRuns = true → s.flag (LIN_CFG_EN n) = true →
    exec (.linBusDominant n) s =
      .next (((s.raiseL (200 + n)).put (LIN_STAT_STATE n) linTack).setLn n { s.ln n with header := none })) ∧
  (∀ (s : State) (m : Master) (n : Fin 8) (k : Fin 64),
    s.opens m (LIN_CMD n) = true → ownerOk (s.fld (LIN_CFG_OWNER n)) m = true → (s.put (LIN_CMD_START n) k).linCommander
      n = true →
    exec (.schgo m n k) s =
      let t := s.put (LIN_CMD_START n) k
      .next ((t.setLn n { t.ln n with goWait := some k.val, stopWait := false }).linTryStart n)) ∧
  (∀ (s : State) (m : Master) (n : Fin 8),
    s.opens m (LIN_CMD n) = true → ownerOk (s.fld (LIN_CFG_OWNER n)) m = true → (s.ln n).running = true →
    exec (.schstop m n) s = .next (s.setLn n { s.ln n with stopWait := true, goWait := none })) ∧
  (∀ (s : State) (m : Master) (n : Fin 8),
    s.opens m (LIN_CMD n) = true → ownerOk (s.fld (LIN_CFG_OWNER n)) m = true → s.linCommander n = true → (s.ln
      n).running = true →
    exec (.gosleep m n) s = .next (s.setLn n { s.ln n with sleepWait := true })) ∧
  (∀ (s : State) (m : Master) (n : Fin 8),
    s.opens m (LIN_CMD n) = true → ownerOk (s.fld (LIN_CFG_OWNER n)) m = true → s.linCommander n = true → (s.ln
      n).running = false → s.linState n = linActive →
    exec (.gosleep m n) s = .next ((s.linSendSleep n).nslCheck)) ∧
  (∀ (s : State) (n : Fin 8),
    s.netRuns = true → (s.ln n).running = true → s.linState n ≠ linTack → (s.ln n).sleepWait = false → (s.ln n).announce
      = [] → (s.ln n).stopWait = false → (s.ln n).goWait = none →
    exec (.linSlotNext n) s = .next (s.linSlot n (s.linNextSlot n))) ∧
  (∀ (s : State) (m : Master) (n : Fin 8),
    s.opens m (LIN_CMD n) = true → ownerOk (s.fld (LIN_CFG_OWNER n)) m = true → s.linState n = linSleep →
    exec (.linWake m n) s = .next (s.linPulse n)) ∧
  (∀ (s : State) (n : Fin 8),
    s.pstate ≤ 1 → s.netReadyDom = true → s.linState n = linSleep →
    exec (.linWakeRx n) s =
      .next (((((s.raiseBit (LIN_STAT_WAKE_RX n)).linBecomesActive n).nslWakeRecord (8 + n) 4).pmuWake 2 (8 + n)))) ∧
  (∀ (s : State) (n : Fin 8),
    2 ≤ s.pstate →
    exec (.linWakeRx n) s = .next ((s.nslWakeRecord (8 + n) 4).pmuWake 2 (8 + n))) ∧
  (∀ (s : State) (n : Fin 8),
    s.netRuns = true → s.linCommander n = false → s.linState n = linWaking → (s.ln n).pulses < 3 →
    exec (.linWakeRetry n) s =
      .next (((s.send (.linWake n)).setLn n { s.ln n with pulses := (s.ln n).pulses + 1 }).put (LIN_STAT_STATE n)
        linWaking)) ∧
  (∀ (s : State) (n : Fin 8),
    s.netRuns = true → s.linCommander n = false → s.linState n = linActive →
    exec (.linIdleSleep n) s = .next ((s.linEnterSleep n).nslCheck))

/-- A header within its limits is acted on, and one in error ends the entry's request; a subscribed response received
  without error is stored, stamped and handed on; a missing response is recorded and frees the bus, on which a commander
  that runs no schedule sends the announcement that waits; a publish request of the owner becomes PENDING; a read of the
  data clears FULL; a stay-awake timer that expires ends its network's wakefulness; LOCAL is written by the owner; the
  waybill of the networks awake goes to the NV store. -/
def Obligations.LinFramesAndSleepUnitComplete : Prop :=
  (∀ (s : State) (n : Fin 8) (k : Fin 64) (st : BitVec 32),
    s.netRuns = true → s.linState n = linActive →
    exec (.linHeader n k st true false) s = .next (s.linAct n k st.toNat)) ∧
  (∀ (s : State) (n : Fin 8) (k : Fin 64) (st : BitVec 32) (b : Bool),
    s.netRuns = true → s.linState n = linActive →
    exec (.linHeader n k st b true) s = .next (s.linHeaderError n k)) ∧
  (∀ (s : State) (n : Fin 8) (h : LinHeader) (l : List Byte),
    s.netRuns = true → (s.ln n).header = some h → h.acting = true → s.fld (LIN_FR_DIR n h.id) = 2 → s.linCommander n =
      true →
    exec (.linResponseDone n l .good) s =
      let t := (s.setLn n { s.ln n with header := none }).linReceived n h l .good
      let t := if t.linSumOk n h.id l then t.linSleepRx n h.id (linBody l) else t
      .next (State.nslCheck (if t.linState n == linActive && !(t.ln n).running && (!(t.ln n).announce.isEmpty || (t.ln
        n).sleepWait)
        then t.linBecomesActive n else t))) ∧
  (∀ (s : State) (n : Fin 8) (h : LinHeader),
    s.netRuns = true → (s.ln n).header = some h → h.acting = true → s.fld (LIN_FR_DIR n h.id) = 2 →
    exec (.linNoresp n) s =
      .next (((((s.setLn n { s.ln n with header := none }).put (LIN_FR_ERR n h.id) 1)).raiseBit (LIN_STAT_ERR
        n)).linBusFree n)) ∧
  (∀ (s : State) (n : Nat),
    s.linState n = linActive → (s.ln n).running = false → (s.ln n).announce ≠ [] →
    s.linBusFree n = s.linBecomesActive n) ∧
  (∀ (s : State) (m : Master) (n : Fin 8) (k : Fin 64),
    s.opens m (LIN_FR n k) = true → ownerOk (s.fld (LIN_CFG_OWNER n)) m = true → s.fld (LIN_FR_DIR n k) = 1 → s.fld
      (LIN_FR_ISTAT n k) ≠ istatPending →
    exec (.linTxreq m n k) s = .next (s.put (LIN_FR_ISTAT n k) istatPending)) ∧
  (∀ (s : State) (m : Master) (n : Fin 8) (k : Fin 64) (a : Access),
    s.opens m (LIN_FD n k) = true →
    exec (.linFdRead m n k a) s = .next ((s.answer (accTake a (s.reg (LIN_FD n k))).toNat).put (LIN_FR_FULL n k) 0)) ∧
  (∀ (s : State) (k : Fin 16),
    s.netRuns = true → s.flag (NSL_STAT_AWAKE.bit k) = true →
    exec (.stayAwakeExpire k) s =
      let t := (s.put (NSL_STAT_AWAKE.bit k) 0).ledgerClear k
      .next ((t.setNet k { t.net k with last := none }).nslCheck)) ∧
  (∀ (s : State) (m : Master),
    s.opens m NSL_CFG = true → ownerOk (s.fld NSL_CFG_OWNER) m = true →
    exec (.nslLocalWrite m true) s =
      .next (((s.raiseBit NSL_CFG_LOCAL).each (List.range 16) fun k t => t.setNet k
        { t.net k with ledger := [], ovfl := 0 }).sleepAbandon)) ∧
  (∀ (s : State) (m : Master),
    s.opens m NSL_CFG = true → ownerOk (s.fld NSL_CFG_OWNER) m = true → s.flag NSL_CFG_LOCAL = true →
    exec (.nslLocalWrite m false) s =
      let t := s.put NSL_CFG_LOCAL 0
      .next (State.nslCheck { t with nsl := { t.nsl with localSince := t.now } })) ∧
  (∀ (s : State),
    s.netRuns = true → s.flag NSL_CFG_LOCAL = false → ((List.range 16).filter fun k => s.inGroup k && s.flag
      (NSL_STAT_AWAKE.bit k)) ≠ [] →
    exec (.waybillWrite false) s =
      .next (s.each ((List.range 16).filter fun k => s.inGroup k && s.flag (NSL_STAT_AWAKE.bit k)) fun k t =>
        t.waybillOne k))

/-- A frame in error counts, and a valid frame of an admitted VLAN is switched and handed to its carriers; a MAC entry
  ages out; a link change is recorded, and a lost link raises its fault and ends the descriptors that wait on its port;
  the internal port takes the descriptor at its index and goes on to the next, and leaves a descriptor that it cannot
  read as it is, with FS261 alone (the model's choice, log entry 96); the gateway looks up the frame at the head of its
  queue, returns a token to a bucket, and its owner reads an entry, writes the shadow bank, starts a copy and swaps the
  banks; a finished copy leaves both banks equal. -/
def Obligations.EthernetAndGatewayCommandsComplete : Prop :=
  (∀ (s : State) (p : Fin 4) (f : EthFrame) (st : BitVec 64) (v : BitVec 16),
    s.eswRuns = true → s.flag (ESW_PORT_CFG_PEN p) = true →
    exec (.ethFrameRx p f false st v) s = .next (s.incSat (ESW_PORT_STAT_RXERR p))) ∧
  (∀ (s : State) (p : Fin 4) (f : EthFrame) (st : BitVec 64) (v : BitVec 16) (k : Nat),
    s.eswRuns = true → s.flag (ESW_PORT_CFG_PEN p) = true → 64 ≤ ethLen f → ethLen f ≤ 1522 → s.ethAdmit p f = some k →
    exec (.ethFrameRx p f true st v) s =
      let t := s.ethSwitch p k f st.toNat none
      let t := if f.etype.toNat == t.fld GWE_NCFG_NETYPE then t.gweNotice (16 + p) f.payload else t
      .next (if t.ethCmdCarrier f then t.segRx (16 + p) (.eth f) v.toNat else t)) ∧
  (∀ (s : State) (k : BitVec 48) (v : BitVec 12),
    s.netRuns = true → s.fld ESW_CTL_AGE ≠ 0 →
    exec (.macAgeExpire k v) s =
      .next { s with gwe := { s.gwe with mac := s.gwe.mac.filter fun e => !(e.mac == k && e.vid == v.toNat) } }) ∧
  (∀ (s : State) (p : Fin 4) (up : Bool),
    s.netRuns = true → s.degraded = false →
    exec (.ethLinkChange p up) s =
      let t := s.putB (ESW_PORT_STAT_LINK p) up
      .next (t.each ((List.range 4).filter fun q => s.ethLink q != t.ethLink q) fun q u =>
        (u.raiseBit ESW_IRQ_LINKCHG).when (s.ethLink q) fun x => (x.raiseL (216 + q)).stampFail istatAbortedFault q)) ∧
  (∀ (s : State) (e : MemErr),
    s.eswRuns = true → s.txWaiting.contains s.txDesc = false → e ≠ .double → (s.word s.txDesc).testBit 63 = true →
    exec (.internalTx e) s =
      let d := s.txDesc
      let w := s.word d
      let len := bitsOf w 40 12
      let t := s.dmaEcc e
      let f := ethOfBytes (t.bytes (bitsOf w 0 40) len)
      let u := t.txFrame w f (if w.testBit 61 then some d else none)
      .next (if len < 60 || 1518 < len || t.txLinkDown w (t.txPorts w f) then (t.txReturn d istatAbortedFault
        none).txAdvance
        else (if u.txWaiting.contains d then u else u.txReturn d istatOk none).txAdvance)) ∧
  (∀ (s : State),
    s.eswRuns = true → s.txWaiting.contains s.txDesc = false →
    exec (.internalTx .double) s = .next (s.raiseL 261)) ∧
  (∀ (s : State) (bad : List (Fin 4096)) (e : MemErr),
    s.netRuns = true → s.flag GWE_CTL_EN = true →
    exec (.gweLookup ⟨bad, e⟩) s = .next (s.gweLookup (bad.map fun i => i.val) e)) ∧
  (∀ (s : State) (b : Fin 2) (i : Fin 4096),
    s.netRuns = true →
    exec (.gweTokenRefill b i) s =
      .next
        { s with gwe := { s.gwe with used := tset 0 s.gwe.used (4096 * b + i) (tget 0 s.gwe.used (4096 * b + i) - 1) } }) ∧
  (∀ (s : State) (m : Master) (b : Fin 2) (i : Fin 4096),
    s.opens m GWE_RTCMD = true → ownerOk (s.fld GWE_CTL_OWNER) m = true → s.flag GWE_RTCMD_BUSY = false →
    exec (.gweReadEntry m b i) s =
      .next ((let t := ((s.put GWE_RTCMD_BANK b).put GWE_RTCMD_INDEX i); [t.route b i].foldl (fun u r => (((u.setReg
        (GWE_RTDATA 0) r.key).setReg (GWE_RTDATA 1) r.mask).setReg (GWE_RTDATA 2) r.action).setReg (GWE_RTDATA 3) r.out)
        t))) ∧
  (∀ (s : State) (m : Master) (b : Fin 2) (i : Fin 4096),
    s.opens m GWE_RTCMD = true → ownerOk (s.fld GWE_CTL_OWNER) m = true → s.flag GWE_RTCMD_BUSY = false →
    exec (.gweWriteShadow m b i) s =
      .next (((s.put GWE_RTCMD_BANK b).put GWE_RTCMD_INDEX i).setRoute (1 - ((s.put GWE_RTCMD_BANK b).put
        GWE_RTCMD_INDEX i).gweBank) i ((s.put GWE_RTCMD_BANK b).put GWE_RTCMD_INDEX i).gweData)) ∧
  (∀ (s : State) (m : Master) (b : Fin 2) (i : Fin 4096),
    s.opens m GWE_RTCMD = true → ownerOk (s.fld GWE_CTL_OWNER) m = true → s.flag GWE_RTCMD_BUSY = false →
    exec (.gweCopy m b i) s = .next (((s.put GWE_RTCMD_BANK b).put GWE_RTCMD_INDEX i).put GWE_RTCMD_BUSY 1)) ∧
  (∀ (s : State) (m : Master) (b : Fin 2) (i : Fin 4096),
    s.opens m GWE_RTCMD = true → ownerOk (s.fld GWE_CTL_OWNER) m = true → s.flag GWE_RTCMD_BUSY = false →
    exec (.gweSwap m b i) s =
      .next (((s.put GWE_RTCMD_BANK b).put GWE_RTCMD_INDEX i).put GWE_RTCMD_ACTIVE (1 - ((s.put GWE_RTCMD_BANK b).put
        GWE_RTCMD_INDEX i).gweBank))) ∧
  (∀ (s : State),
    s.netRuns = true → s.flag GWE_RTCMD_BUSY = true →
    exec .gweCopyDone s =
      let live := s.gwe.route.filter fun e => e.1 / 4096 == s.gweBank
      let other := live.map fun e => ((1 - s.gweBank) * 4096 + e.1 % 4096, e.2)
      let t := s.put GWE_RTCMD_BUSY 0
      .next { t with gwe := { s.gwe with
        route := if s.gweBank == 0 then live ++ other else other ++ live
        used := s.gwe.used.filter fun e => e.1 / 4096 == s.gweBank } })

/-- A scan of a handle that is neither broken nor stuck, whose touch lasts and whose difference stays at half the
  threshold or above, leaves the touch; a scan of a broken electrode clears the touch and raises the fault of the
  sensor; the owner starts a poll of a handle when none runs, no lock-out is on and ZS is awake, and aborts one that
  runs; a poll goes through its states LF, WAKE_WAIT, RANGE, ANSWER and EVAL, the script of a slot running in the slots
  before that passed empty too (the model's reading of which slots did, log entry 93); a lock-out ends when its time has
  passed, and its state is saved. -/
def Obligations.VehicleAccessCommandsComplete : Prop :=
  (∀ (s : State) (n : Fin 8) (cnt : BitVec 16),
    s.sensorOn n = true →
    exec (.handleScan n cnt true) s =
      let t := (s.put (ACC_CHST_CNT n) cnt.toNat)
      let t := if s.flag (ACC_CHST_TOUCH n) then t else t.put (ACC_CHST_BASE n) (baseStep (s.fld (ACC_CHST_BASE n))
        cnt.toNat)
      let stuck := if cnt.toNat != 0 && cnt.toNat != 0xFFFF then 0
        else if cnt.toNat == s.fld (ACC_CHST_CNT n) then (s.sensor n).stuck + 1 else 1
      .next (((t.setSensor n { above := 0, stuck := stuck }).putB (ACC_CHST_TOUCH n) false).raiseP 230)) ∧
  (∀ (s : State) (n : Fin 8) (cnt : BitVec 16),
    s.sensorOn n = true → s.flag (ACC_CHST_TOUCH n) = true → cnt ≠ 0 → cnt ≠ 0xFFFF → (s.fld (ACC_CH_THR n) : Int) ≤ 2 *
      ((cnt.toNat : Int) - s.fld (ACC_CHST_BASE n)) →
    exec (.handleScan n cnt false) s =
      let above := if (s.fld (ACC_CH_THR n) : Int) ≤ (cnt.toNat : Int) - s.fld (ACC_CHST_BASE n) then (s.sensor n).above
        + 1 else 0
      .next ((s.put (ACC_CHST_CNT n) cnt.toNat).setSensor n { above := above, stuck := 0 })) ∧
  (∀ (s : State) (m : Master) (h : Fin 8),
    s.opens m ACC_CMD = true → ownerOk (s.fld ACC_CFG_OWNER) m = true → s.flag ACC_CFG_EN = true → s.s3 = false → s.s4 =
      false → s.acc.poll = none → s.acc.lockOut.locked = false → s.zsAsleep = false →
    exec (.accPoll m h) s = .next ((s.put ACC_CMD_HSEL h).pollStart h)) ∧
  (∀ (s : State) (m : Master) (h : Fin 8) (p : Poll),
    s.opens m ACC_CMD = true → ownerOk (s.fld ACC_CFG_OWNER) m = true → s.acc.poll = some p →
    exec (.accAbort m h) s =
      let t := ((s.put ACC_CMD_HSEL h).setPend none).accResult codeAborted p.handle 0 0 0 s.acc.pollNo 0xFFFF
      .next ((t.setPoll none).put ACC_STAT_STATE accIdle)) ∧
  (∀ (s : State) (p : Poll) (v : List (BitVec 16)) (c : BitVec 6),
    s.acc.poll = some p → s.fld ACC_STAT_STATE = 1 →
    exec (.lfTelegramEnd v c) s = .next (s.lfEnd v c p)) ∧
  (∀ (s : State) (p : Poll) (l : List RadioRun),
    s.acc.poll = some p → s.fld ACC_STAT_STATE = 2 →
    exec (.keyWakeEnd l) s =
      let d := s.draw
      let r := d.2.runScripts { p with nonce := d.1 } (s.fld ACC_RGPCFG_SPOLL) 0 [] l
      let t := (r.1.setPoll (some r.2.1)).put ACC_STAT_STATE accRange
      .next (t.send (.ranging 0 p.radios (t.fld ACC_VEHID_VEHID) t.acc.pollNo 0))) ∧
  (∀ (s : State) (p : Poll) (k : Fin 8) (l : List RadioRun),
    s.acc.poll = some p → s.fld ACC_STAT_STATE = 3 → p.slot ≤ k →
    exec (.keyResponseRx k l) s =
      let e := s.emptySlots p (s.fld ACC_RGPCFG_SRESP) k
      let r := e.1.runScripts e.2 (s.fld ACC_RGPCFG_SRESP) k [] l
      .next (r.1.setPoll (some { r.2.1 with slot := k + 1 }))) ∧
  (∀ (s : State) (p : Poll) (l : List RadioRun),
    s.acc.poll = some p → s.fld ACC_STAT_STATE = 3 →
    exec (.rangingFinal l) s =
      let e := s.emptySlots p (s.fld ACC_RGPCFG_SRESP) 8
      let r := e.1.runScripts e.2 (s.fld ACC_RGPCFG_SFINAL) 0 [] l
      let t := (r.1.setPoll (some { r.2.1 with slot := 0 })).put ACC_STAT_STATE accAnswer
      .next (t.send (.ranging 1 p.radios (t.fld ACC_VEHID_VEHID) t.acc.pollNo p.nonce))) ∧
  (∀ (s : State) (p : Poll) (k : Fin 8) (b : List Byte) (l : List RadioRun),
    s.acc.poll = some p → s.fld ACC_STAT_STATE = 4 → p.slot ≤ k →
    exec (.keyAnswerRx k b l) s =
      let e := s.emptySlots p (s.fld ACC_RGPCFG_SANS) k
      let r := e.1.runScripts e.2 (s.fld ACC_RGPCFG_SANS) k b l
      .next (r.1.setPoll (some { r.2.1 with answers := r.2.1.answers ++ r.2.2.toList, slot := k + 1 }))) ∧
  (∀ (s : State) (p : Poll),
    s.acc.poll = some p → s.fld ACC_STAT_STATE = 4 →
    exec .answerWindowEnd s =
      let e := s.emptySlots p (s.fld ACC_RGPCFG_SANS) 8
      .next ((e.1.setPoll (some e.2)).put ACC_STAT_STATE accEval)) ∧
  (∀ (s : State) (p : Poll),
    s.acc.poll = some p → s.fld ACC_STAT_STATE = 5 →
    exec .pollEvalDone s = .next (s.pollEval p)) ∧
  (∀ (s : State),
    s.acc.lockOut.locked = true → s.acc.lockOut.ends ≤ s.slowAge →
    exec .lockoutEnd s =
      .next ({ s with acc := { s.acc with lockOut := { s.acc.lockOut with locked := false } } } : State).lockSave)

/-- When its core executes and its fetch succeeds, each data instruction ends with its result in Dd and the program
  counter 4 further: ADD, ADDC, SUB and SUBC with the flags of the sum or difference, CMP with those flags alone, and
  AND, OR, XOR, ANDN, the shifts and rotates, the bit-field forms, CLZ, POPC, MIN, MAX and MOV with the flags as they
  were. Which instructions leave the flags alone is read by inference from the spec's silence (log entry 19, DEDUCED). A
  shift by 64 or more, a field that does not fit the register and the order of MIN and MAX are free values of the model
  (log entries 17, 48, 46). -/
def Obligations.DataInstructionsComplete : Prop :=
  ∀ (s : State) (t : State) (r : CoreRun) (d n m : Fin 32) (k : ShiftKind) (b : Bool) (p : Fin 64) (w : Fin 65),
    s.fetches r 4 t →
    let c := t.ran r
    exec (.add r d n m) s = .next (t.ends r 4 (putD d (c.addFlags (c.readD n) (c.readD m) 0))) ∧
    exec (.addc r d n m) s = .next (t.ends r 4 (putD d (c.addFlags (c.readD n) (c.readD m) c.flagC.toNat))) ∧
    exec (.sub r d n m) s = .next (t.ends r 4 (putD d (c.subFlags (c.readD n) (c.readD m) 0))) ∧
    exec (.subc r d n m) s = .next (t.ends r 4 (putD d (c.subFlags (c.readD n) (c.readD m) c.flagC.toNat))) ∧
    exec (.cmp r n m) s = .next (t.ends r 4 ((c.subFlags (c.readD n) (c.readD m) 0).1)) ∧
    exec (.and r d n m) s = .next (t.ends r 4 (c.writeD d (c.readD n &&& c.readD m))) ∧
    exec (.or r d n m) s = .next (t.ends r 4 (c.writeD d (c.readD n ||| c.readD m))) ∧
    exec (.xor r d n m) s = .next (t.ends r 4 (c.writeD d (c.readD n ^^^ c.readD m))) ∧
    exec (.andn r d n m) s = .next (t.ends r 4 (c.writeD d (c.readD n &&& ~~~ c.readD m))) ∧
    exec (.shift r k d n m) s = .next (t.ends r 4 (c.writeD d (shiftReg k (c.readD n) (c.readD m)))) ∧
    exec (.rotate r true d n m) s = .next (t.ends r 4 (c.writeD d ((c.readD n).rotateLeft ((c.readD m).toNat % 64)))) ∧
    exec (.rotate r false d n m) s = .next (t.ends r 4 (c.writeD d ((c.readD n).rotateRight ((c.readD m).toNat % 64)))) ∧
    exec (.bitFieldExtract r d n p w b) s = .next (t.ends r 4 (c.writeD d (if fieldFits p w then fieldOut (c.readD n) p
      w b else Config.fieldOver (c.readD n) 0 p w))) ∧
    exec (.bitFieldInsert r d n p w) s = .next (t.ends r 4 (c.writeD d (if fieldFits p w then bvInto (c.readD d) p w
      (c.readD n).toNat else Config.fieldOver (c.readD d) (c.readD n) p w))) ∧
    exec (.clz r d n) s = .next (t.ends r 4 (c.writeD d (BitVec.ofNat 64 (leadingZeros (c.readD n) 64)))) ∧
    exec (.popc r d n) s = .next (t.ends r 4 (c.writeD d (BitVec.ofNat 64 (onesBelow (c.readD n) 64)))) ∧
    exec (.min r d n m) s = .next (t.ends r 4 (c.writeD d (if minMaxLt (c.readD m) (c.readD n) then c.readD m else
      c.readD n))) ∧
    exec (.max r d n m) s = .next (t.ends r 4 (c.writeD d (if minMaxLt (c.readD n) (c.readD m) then c.readD m else
      c.readD n))) ∧
    exec (.mov r d n) s = .next (t.ends r 4 (c.writeD d (c.readD n)))

/-- Each instruction with a 16-bit immediate takes it sign-extended, CMPI writes the flags alone, and an immediate shift
  is by 0–63; LI sign-extends 40 bits into Dd, LIA extends them with zeros into Ad, and LIH writes bits 63–40 of Dd; the
  long forms are 8 bytes. MUL writes the low 64 bits of the product, MULH and MULHU the high 64 bits of the signed and
  unsigned product; DIV and DIVU by zero write 0, REM and REMU by zero the dividend, with V set (R289), and otherwise
  the quotient or remainder, the signed ones rounded as the model's free value says (log entries 16 and 46). That the
  flags otherwise stay is read by inference from the spec's silence (log entry 19, DEDUCED). -/
def Obligations.ImmediateAndMultiplyInstructionsComplete : Prop :=
  (∀ (s : State) (t : State) (r : CoreRun) (d n : Fin 32) (k : ShiftKind) (v : BitVec 16) (a : Fin 64),
    s.fetches r 4 t →
    let c := t.ran r
    exec (.addi r d n v) s = .next (t.ends r 4 (putD d (c.addFlags (c.readD n) (v.signExtend 64) 0))) ∧
    exec (.subi r d n v) s = .next (t.ends r 4 (putD d (c.subFlags (c.readD n) (v.signExtend 64) 0))) ∧
    exec (.cmpi r n v) s = .next (t.ends r 4 ((c.subFlags (c.readD n) (v.signExtend 64) 0).1)) ∧
    exec (.andi r d n v) s = .next (t.ends r 4 (c.writeD d (c.readD n &&& v.signExtend 64))) ∧
    exec (.ori r d n v) s = .next (t.ends r 4 (c.writeD d (c.readD n ||| v.signExtend 64))) ∧
    exec (.xori r d n v) s = .next (t.ends r 4 (c.writeD d (c.readD n ^^^ v.signExtend 64))) ∧
    exec (.shiftImmediate r k d n a) s = .next (t.ends r 4 (c.writeD d (shiftBy k (c.readD n) a))) ∧
    exec (.movi r d v) s = .next (t.ends r 4 (c.writeD d (v.signExtend 64)))) ∧
  (∀ (s : State) (t : State) (r : CoreRun) (d : Fin 32) (a : Fin 16) (v : BitVec 40),
    s.fetches r 8 t →
    let c := t.ran r
    exec (.li r d v) s = .next (t.ends r 8 (c.writeD d (v.signExtend 64))) ∧
    exec (.lia r a v) s = .next (t.ends r 8 (c.writeA a (v.setWidth 64))) ∧
    exec (.lih r d v) s = .next (t.ends r 8 (c.writeD d (bvInto (c.readD d) 40 24 v.toNat)))) ∧
  (∀ (s : State) (t : State) (r : CoreRun) (d n m : Fin 32),
    s.fetches r 4 t →
    let c := t.ran r
    exec (.mul r d n m) s = .next (t.ends r 4 (c.writeD d (c.readD n * c.readD m))) ∧
    exec (.mulh r d n m) s = .next (t.ends r 4 (c.writeD d (BitVec.ofInt 64 ((c.readD n).toInt * (c.readD m).toInt / 2 ^
      64)))) ∧
    exec (.mulhu r d n m) s = .next (t.ends r 4 (c.writeD d (BitVec.ofNat 64 ((c.readD n).toNat * (c.readD m).toNat / 2
      ^ 64)))) ∧
    exec (.div r d n m) s = .next (t.ends r 4 (if c.readD m == 0 then (c.setV true).writeD d 0 else c.writeD d (quotS
      (c.readD n) (c.readD m)))) ∧
    exec (.divu r d n m) s = .next (t.ends r 4 (if c.readD m == 0 then (c.setV true).writeD d 0 else c.writeD d (c.readD
      n / c.readD m))) ∧
    exec (.rem r d n m) s = .next (t.ends r 4 (if c.readD m == 0 then (c.setV true).writeD d (c.readD n) else c.writeD d
      (remS (c.readD n) (c.readD m)))) ∧
    exec (.remu r d n m) s = .next (t.ends r 4 (if c.readD m == 0 then (c.setV true).writeD d (c.readD n) else c.writeD
      d (c.readD n % c.readD m))))

/-- ADDA, SUBA, LEA and MOVA write an address register and no flag, MOVD a data register, CMPA the flags of a
  subtraction; JR goes to Am, JLR does too with the return address in A14; a branch whose condition holds goes to its
  target, one that does not hold to the next instruction, and BL writes A14 in either case. -/
def Obligations.AddressInstructionsComplete : Prop :=
  (∀ (s : State) (t : State) (r : CoreRun) (d n m : Fin 16) (x : AddrSrc) (e : Fin 32) (q : Fin 4) (v : BitVec 16),
    s.fetches r 4 t →
    let c := t.ran r
    exec (.adda r d n x) s = .next (t.ends r 4 (c.writeA d (c.readA n + c.addrSrc x))) ∧
    exec (.suba r d n x) s = .next (t.ends r 4 (c.writeA d (c.readA n - c.addrSrc x))) ∧
    exec (.lea r d n e q v) s = .next (t.ends r 4 (c.writeA d (c.readA n + c.readD e <<< q.val + v.signExtend 64))) ∧
    exec (.cmpa r n m) s = .next (t.ends r 4 ((c.subFlags (c.readA n) (c.readA m) 0).1)) ∧
    exec (.mova r d e) s = .next (t.ends r 4 (c.writeA d (c.readD e))) ∧
    exec (.movd r e n) s = .next (t.ends r 4 (c.writeD e (c.readA n)))) ∧
  (∀ (s : State) (t : State) (r : CoreRun) (n : Fin 16) (k : Fin 16) (o : BitVec 22),
    s.fetches r 4 t →
    let c := t.ran r
    exec (.jr r n) s = .next (t.setCore (runEp r) (c.goto (c.readA n))) ∧
    exec (.jlr r n) s = .next (t.setCore (runEp r) ((c.writeA 14 (c.pc + 4)).goto (c.readA n))) ∧
    (k ≠ 15 → exec (.branch r k o) s = .next (if c.holds k then t.setCore (runEp r) (c.goto (c.target o)) else t.ends r
      4 c)) ∧
    exec (.branch r 15 o) s = .next (t.setCore (runEp r) ((c.writeA 14 (c.pc + 4)).goto ((c.writeA 14 (c.pc + 4)).target
      o))))

/-- On a core other than ZK, MAC and MSU add or subtract the signed product of two data registers, wrapping or, with
  SATM, saturating with Q; MULAC writes the product; SAT brings ACd into the signed 64-bit range and sets Q when that
  changes it; RND rounds, ASHR shifts, MVACL and MVACH read the halves, MVDAC writes them and CLRAC clears. On ZK each
  of them takes ILLEGAL. That RND takes the nearest multiple is the model's choice, and which way its ties go is a free
  value (log entry 47); that PSR but for Q stays is read by inference from the spec's silence (log entry 19, DEDUCED).
  -/
def Obligations.AccumulatorInstructionsComplete : Prop :=
  (∀ (s : State) (t : State) (r : CoreRun) (d : Fin 4) (e n m : Fin 32) (b : Fin 128),
    s.fetches r 4 t → r.core ≠ 5 →
    let c := t.ran r
    exec (.mac r d n m) s = .next (t.ends r 4 (c.macResult d ((c.readAc d).toInt + (c.readD n).toInt * (c.readD
      m).toInt))) ∧
    exec (.msu r d n m) s = .next (t.ends r 4 (c.macResult d ((c.readAc d).toInt - (c.readD n).toInt * (c.readD
      m).toInt))) ∧
    exec (.mulac r d n m) s = .next (t.ends r 4 (c.writeAc d (BitVec.ofInt 128 ((c.readD n).toInt * (c.readD m).toInt)))) ∧
    exec (.sat r d) s = .next (t.ends r 4 ((c.setQ (clamp64 (c.readAc d).toInt != (c.readAc d).toInt)).writeAc d
      (BitVec.ofInt 128 (clamp64 (c.readAc d).toInt)))) ∧
    exec (.rnd r d b) s = .next (t.ends r 4 (c.writeAc d (roundAt (c.readAc d) b))) ∧
    exec (.ashr r d b) s = .next (t.ends r 4 (c.writeAc d ((c.readAc d).sshiftRight b))) ∧
    exec (.mvacl r e d) s = .next (t.ends r 4 (c.writeD e ((c.readAc d).setWidth 64))) ∧
    exec (.mvach r e d) s = .next (t.ends r 4 (c.writeD e ((c.readAc d >>> 64).setWidth 64))) ∧
    exec (.mvdac r d n m) s = .next (t.ends r 4 (c.writeAc d (c.readD n ++ c.readD m))) ∧
    exec (.clrac r d) s = .next (t.ends r 4 (c.writeAc d 0))) ∧
  (∀ (s : State) (t : State) (r : CoreRun) (d : Fin 4) (e n m : Fin 32) (b : Fin 128),
    s.fetches r 4 t → r.core = 5 →
    let z := t.takeExc 6 (t.core 6) vIllegal 0 none
    exec (.mac r d n m) s = .next z ∧
    exec (.msu r d n m) s = .next z ∧
    exec (.mulac r d n m) s = .next z ∧
    exec (.sat r d) s = .next z ∧
    exec (.rnd r d b) s = .next z ∧
    exec (.ashr r d b) s = .next z ∧
    exec (.mvacl r e d) s = .next z ∧
    exec (.mvach r e d) s = .next z ∧
    exec (.mvdac r d n m) s = .next z ∧
    exec (.clrac r d) s = .next z)

/-- A load whose address is a multiple of its width, whose address translates and whose access gives a value ends with
  the value landed in its register, sign-extended or not, its delay window open; a store under the same conditions ends
  when its target has taken the value; LDAC and STAC move 16 bytes on a core other than ZK, where each of them takes
  ILLEGAL instead (the model's inference from R279, log entry 56, DEDUCED). -/
def Obligations.LoadStoreInstructionsComplete : Prop :=
  (∀ (s : State) (t u v : State) (r : CoreRun) (x : GenReg) (w : MemWidth) (b : Bool) (a : MemAddr) (q : MemErr) (p n :
    Nat),
    s.fetches r 4 t → ((t.ran r).memAddr a) % widthBytes w = 0 → t.translate (runEp r) ((t.ran r).memAddr a) .read
      r.walk = (u, .phys p) → u.load (epMaster (runEp r)) p (widthBytes w) q = (v, .value n) →
    exec (.load r x w b a q) s = .next (v.loadLands (runEp r) (genDest x) n (widthBytes w) b)) ∧
  (∀ (s : State) (t u v : State) (r : CoreRun) (x : GenReg) (w : MemWidth) (a : MemAddr) (q : MemErr) (p : Nat),
    s.fetches r 4 t → ((t.ran r).memAddr a) % widthBytes w = 0 → t.translate (runEp r) ((t.ran r).memAddr a) .write
      r.walk = (u, .phys p) → (u.ends r 4 (u.ran r)).store (epMaster (runEp r)) p (widthBytes w) (((t.ran r).readGen
      x).toNat % 2 ^ (8 * widthBytes w)) q = (v, .done) →
    exec (.store r x w a q) s = .next v) ∧
  (∀ (s : State) (t u v : State) (r : CoreRun) (d : Fin 4) (a : MemAddr) (q : MemErr) (p n : Nat),
    s.fetches r 4 t → r.core ≠ 5 → ((t.ran r).memAddr a) % 16 = 0 → t.translate (runEp r) ((t.ran r).memAddr a) .read
      r.walk = (u, .phys p) → u.load (epMaster (runEp r)) p 16 q = (v, .value n) →
    exec (.ldac r d a q) s = .next (v.loadLands (runEp r) (.ac d) n 16 false)) ∧
  (∀ (s : State) (t u v : State) (r : CoreRun) (d : Fin 4) (a : MemAddr) (q : MemErr) (p : Nat),
    s.fetches r 4 t → r.core ≠ 5 → ((t.ran r).memAddr a) % 16 = 0 → t.translate (runEp r) ((t.ran r).memAddr a) .write
      r.walk = (u, .phys p) → (u.ends r 4 (u.ran r)).store (epMaster (runEp r)) p 16 ((t.ran r).readAc d).toNat q = (v,
      .done) →
    exec (.stac r d a q) s = .next v) ∧
  (∀ (s : State) (t : State) (r : CoreRun) (d : Fin 4) (a : MemAddr) (q : MemErr),
    s.fetches r 4 t → r.core = 5 →
    exec (.ldac r d a q) s = .next (t.takeExc 6 (t.core 6) vIllegal 0 none) ∧
    exec (.stac r d a q) s = .next (t.takeExc 6 (t.core 6) vIllegal 0 none))

/-- Each decimal instruction whose packed sources hold digits only ends with the next instruction, its result in its
  destination and the flags of that result: the sum and the difference with carry and borrow, DCMP the flags alone, the
  digit shifts, and the conversion to binary; DADJ and the conversion to packed check no source. The AC forms do so on
  32 digits on a core other than ZK. A source with another digit takes DIGIT under DTRAP = 1, and under DTRAP = 0 leaves
  the flags of a bad digit and a destination of 0. The AC forms take ILLEGAL on ZK, and the AC form of DADJ does
  everywhere. -/
def Obligations.DecimalInstructionsComplete : Prop :=
  (∀ (s : State) (t : State) (r : CoreRun) (d n m : Fin 32),
    s.fetches r 4 t → digitsOk ((t.ran r).decD n) 16 = true → digitsOk ((t.ran r).decD m) 16 = true →
    exec (.dadd r (.d d n m)) s =
      .next (t.ends r 4 (((t.ran r).decFlags (decSum 16 ((t.ran r).decD n) ((t.ran r).decD m))).writeD d (BitVec.ofNat
        64 (decSum 16 ((t.ran r).decD n) ((t.ran r).decD m)).val)))) ∧
  (∀ (s : State) (t : State) (r : CoreRun) (d n m : Fin 32),
    s.fetches r 4 t → digitsOk ((t.ran r).decD n) 16 = true → digitsOk ((t.ran r).decD m) 16 = true →
    exec (.dsub r (.d d n m)) s =
      .next (t.ends r 4 (((t.ran r).decFlags (decDiff 16 ((t.ran r).decD n) ((t.ran r).decD m))).writeD d (BitVec.ofNat
        64 (decDiff 16 ((t.ran r).decD n) ((t.ran r).decD m)).val)))) ∧
  (∀ (s : State) (t : State) (r : CoreRun) (n m : Fin 32),
    s.fetches r 4 t → digitsOk ((t.ran r).decD n) 16 = true → digitsOk ((t.ran r).decD m) 16 = true →
    exec (.dcmp r (.d n m)) s =
      .next (t.ends r 4 ((t.ran r).decFlags (decDiff 16 ((t.ran r).decD n) ((t.ran r).decD m))))) ∧
  (∀ (s : State) (t : State) (r : CoreRun) (d n : Fin 32),
    s.fetches r 4 t →
    exec (.dadj r false d n) s =
      .next (t.ends r 4 (((t.ran r).decFlags (adjust ((t.ran r).decD n) (t.ran r).nc)).writeD d (BitVec.ofNat 64 (adjust
        ((t.ran r).decD n) (t.ran r).nc).val)))) ∧
  (∀ (s : State) (t : State) (r : CoreRun) (d n : Fin 32) (k : Fin 64),
    s.fetches r 4 t → digitsOk ((t.ran r).decD n) 16 = true →
    exec (.dshl r (.d d n) k) s =
      .next (t.ends r 4 (((t.ran r).decFlags (decLeft k 16 ((t.ran r).decD n))).writeD d (BitVec.ofNat 64 (decLeft k 16
        ((t.ran r).decD n)).val)))) ∧
  (∀ (s : State) (t : State) (r : CoreRun) (d n : Fin 32) (k : Fin 64),
    s.fetches r 4 t → digitsOk ((t.ran r).decD n) 16 = true →
    exec (.dshr r (.d d n) k) s =
      .next (t.ends r 4 (((t.ran r).decFlags (decRight k 16 ((t.ran r).decD n))).writeD d (BitVec.ofNat 64 (decRight k
        16 ((t.ran r).decD n)).val)))) ∧
  (∀ (s : State) (t : State) (r : CoreRun) (d n : Fin 32),
    s.fetches r 4 t →
    exec (.dcvt r (.d d n)) s =
      .next (t.ends r 4 (((t.ran r).decFlags (toPacked 16 ((t.ran r).decD n))).writeD d (BitVec.ofNat 64 (toPacked 16
        ((t.ran r).decD n)).val)))) ∧
  (∀ (s : State) (t : State) (r : CoreRun) (d n : Fin 32),
    s.fetches r 4 t → digitsOk ((t.ran r).decD n) 16 = true →
    exec (.bcvt r (.d d n)) s =
      .next (t.ends r 4 (((t.ran r).decFlags (toBinary 16 ((t.ran r).decD n))).writeD d (BitVec.ofNat 64 (toBinary 16
        ((t.ran r).decD n)).val)))) ∧
  (∀ (s : State) (t : State) (r : CoreRun) (d n m : Fin 4),
    s.fetches r 4 t → r.core ≠ 5 → digitsOk ((t.ran r).decAc n) 32 = true → digitsOk ((t.ran r).decAc m) 32 = true →
    exec (.dadd r (.ac d n m)) s =
      .next (t.ends r 4 (((t.ran r).decFlags (decSum 32 ((t.ran r).decAc n) ((t.ran r).decAc m))).writeAc d
        (BitVec.ofNat 128 (decSum 32 ((t.ran r).decAc n) ((t.ran r).decAc m)).val)))) ∧
  (∀ (s : State) (t : State) (r : CoreRun) (d n m : Fin 4),
    s.fetches r 4 t → r.core ≠ 5 → digitsOk ((t.ran r).decAc n) 32 = true → digitsOk ((t.ran r).decAc m) 32 = true →
    exec (.dsub r (.ac d n m)) s =
      .next (t.ends r 4 (((t.ran r).decFlags (decDiff 32 ((t.ran r).decAc n) ((t.ran r).decAc m))).writeAc d
        (BitVec.ofNat 128 (decDiff 32 ((t.ran r).decAc n) ((t.ran r).decAc m)).val)))) ∧
  (∀ (s : State) (t : State) (r : CoreRun) (n m : Fin 4),
    s.fetches r 4 t → r.core ≠ 5 → digitsOk ((t.ran r).decAc n) 32 = true → digitsOk ((t.ran r).decAc m) 32 = true →
    exec (.dcmp r (.ac n m)) s =
      .next (t.ends r 4 ((t.ran r).decFlags (decDiff 32 ((t.ran r).decAc n) ((t.ran r).decAc m))))) ∧
  (∀ (s : State) (t : State) (r : CoreRun) (d n : Fin 4) (k : Fin 64),
    s.fetches r 4 t → r.core ≠ 5 → digitsOk ((t.ran r).decAc n) 32 = true →
    exec (.dshl r (.ac d n) k) s =
      .next (t.ends r 4 (((t.ran r).decFlags (decLeft k 32 ((t.ran r).decAc n))).writeAc d (BitVec.ofNat 128 (decLeft k
        32 ((t.ran r).decAc n)).val)))) ∧
  (∀ (s : State) (t : State) (r : CoreRun) (d n : Fin 4) (k : Fin 64),
    s.fetches r 4 t → r.core ≠ 5 → digitsOk ((t.ran r).decAc n) 32 = true →
    exec (.dshr r (.ac d n) k) s =
      .next (t.ends r 4 (((t.ran r).decFlags (decRight k 32 ((t.ran r).decAc n))).writeAc d (BitVec.ofNat 128 (decRight
        k 32 ((t.ran r).decAc n)).val)))) ∧
  (∀ (s : State) (t : State) (r : CoreRun) (d : Fin 4) (n : Fin 32),
    s.fetches r 4 t → r.core ≠ 5 →
    exec (.dcvt r (.ac d n)) s =
      .next (t.ends r 4 (((t.ran r).decFlags (toPacked 32 ((t.ran r).decD n))).writeAc d (BitVec.ofNat 128 (toPacked 32
        ((t.ran r).decD n)).val)))) ∧
  (∀ (s : State) (t : State) (r : CoreRun) (d : Fin 32) (n : Fin 4),
    s.fetches r 4 t → r.core ≠ 5 → digitsOk ((t.ran r).decAc n) 32 = true →
    exec (.bcvt r (.ac d n)) s =
      .next (t.ends r 4 (((t.ran r).decFlags (toBinary 32 ((t.ran r).decAc n))).writeD d (BitVec.ofNat 64 (toBinary 32
        ((t.ran r).decAc n)).val)))) ∧
  (∀ (s : State) (t : State) (r : CoreRun) (d n m : Fin 32),
    s.fetches r 4 t → digits2 16 ((t.ran r).decD n) ((t.ran r).decD m) = false →
    exec (.dadd r (.d d n m)) s =
      .next (if (t.ran r).dtrap then t.takeExc (runEp r) (t.ran r) vDigit 0 none else t.ends r 4 ((t.ran
        r).badDigit.writeD d 0)) ∧
    exec (.dsub r (.d d n m)) s =
      .next (if (t.ran r).dtrap then t.takeExc (runEp r) (t.ran r) vDigit 0 none else t.ends r 4 ((t.ran
        r).badDigit.writeD d 0)) ∧
    exec (.dcmp r (.d n m)) s =
      .next (if (t.ran r).dtrap then t.takeExc (runEp r) (t.ran r) vDigit 0 none else t.ends r 4 ((t.ran r).badDigit))) ∧
  (∀ (s : State) (t : State) (r : CoreRun) (d n : Fin 32) (k : Fin 64),
    s.fetches r 4 t → digitsOk ((t.ran r).decD n) 16 = false →
    exec (.dshl r (.d d n) k) s =
      .next (if (t.ran r).dtrap then t.takeExc (runEp r) (t.ran r) vDigit 0 none else t.ends r 4 ((t.ran
        r).badDigit.writeD d 0)) ∧
    exec (.dshr r (.d d n) k) s =
      .next (if (t.ran r).dtrap then t.takeExc (runEp r) (t.ran r) vDigit 0 none else t.ends r 4 ((t.ran
        r).badDigit.writeD d 0)) ∧
    exec (.bcvt r (.d d n)) s =
      .next (if (t.ran r).dtrap then t.takeExc (runEp r) (t.ran r) vDigit 0 none else t.ends r 4 ((t.ran
        r).badDigit.writeD d 0))) ∧
  (∀ (s : State) (t : State) (r : CoreRun) (d n m : Fin 4),
    s.fetches r 4 t → r.core ≠ 5 → digits2 32 ((t.ran r).decAc n) ((t.ran r).decAc m) = false →
    exec (.dadd r (.ac d n m)) s =
      .next (if (t.ran r).dtrap then t.takeExc (runEp r) (t.ran r) vDigit 0 none else t.ends r 4 ((t.ran
        r).badDigit.writeAc d 0)) ∧
    exec (.dsub r (.ac d n m)) s =
      .next (if (t.ran r).dtrap then t.takeExc (runEp r) (t.ran r) vDigit 0 none else t.ends r 4 ((t.ran
        r).badDigit.writeAc d 0)) ∧
    exec (.dcmp r (.ac n m)) s =
      .next (if (t.ran r).dtrap then t.takeExc (runEp r) (t.ran r) vDigit 0 none else t.ends r 4 ((t.ran r).badDigit))) ∧
  (∀ (s : State) (t : State) (r : CoreRun) (d n : Fin 4) (k : Fin 64) (i : Fin 32),
    s.fetches r 4 t → r.core ≠ 5 → digitsOk ((t.ran r).decAc n) 32 = false →
    exec (.dshl r (.ac d n) k) s =
      .next (if (t.ran r).dtrap then t.takeExc (runEp r) (t.ran r) vDigit 0 none else t.ends r 4 ((t.ran
        r).badDigit.writeAc d 0)) ∧
    exec (.dshr r (.ac d n) k) s =
      .next (if (t.ran r).dtrap then t.takeExc (runEp r) (t.ran r) vDigit 0 none else t.ends r 4 ((t.ran
        r).badDigit.writeAc d 0)) ∧
    exec (.bcvt r (.ac i n)) s =
      .next (if (t.ran r).dtrap then t.takeExc (runEp r) (t.ran r) vDigit 0 none else t.ends r 4 ((t.ran
        r).badDigit.writeD i 0))) ∧
  (∀ (s : State) (t : State) (r : CoreRun) (d n m : Fin 4) (i : Fin 32) (k : Fin 64),
    s.fetches r 4 t → r.core = 5 →
    let z := t.takeExc 6 (t.core 6) vIllegal 0 none
    exec (.dadd r (.ac d n m)) s = .next z ∧
    exec (.dsub r (.ac d n m)) s = .next z ∧
    exec (.dcmp r (.ac n m)) s = .next z ∧
    exec (.dshl r (.ac d n) k) s = .next z ∧
    exec (.dshr r (.ac d n) k) s = .next z ∧
    exec (.dcvt r (.ac d i)) s = .next z ∧
    exec (.bcvt r (.ac i n)) s = .next z) ∧
  (∀ (s : State) (t : State) (r : CoreRun) (d n : Fin 32),
    s.fetches r 4 t →
    exec (.dadj r true d n) s = .next (t.takeExc (runEp r) (t.ran r) vIllegal 0 none))

/-- Above user level, WPOST to a mailbox of its core posts Dn and writes the ISTAT and the number of unfinished words
  into Dd, and the monitor gates the word at once where it is ZS's (the model's reading, log entry 110, DEDUCED); WACK
  with no unfinished word writes NONE at once, and with one it waits for the oldest; a waiting WACK whose time-out
  passes ends with 0x21. What the count is for a mailbox that is not the core's is a free value (log entry 53). -/
def Obligations.MailboxInstructionsComplete : Prop :=
  (∀ (s : State) (t : State) (r : CoreRun) (d n : Fin 32) (b : Fin 16) (k : Nat),
    s.fetches r 4 t → (t.ran r).level ≠ 0 → t.mbxSide? b (runEp r) = some k →
    exec (.wpost r d b n) s =
      let p := t.mbxPost b k ((t.ran r).readD n)
      .next (p.1.ends r 4 ((p.1.ran r).writeD d (BitVec.ofNat 64 ((p.1.side b k).queue.length * 16 + p.2)))).gateWords) ∧
  (∀ (s : State) (t : State) (r : CoreRun) (d n : Fin 32) (b : Fin 16),
    s.fetches r 4 t → (t.ran r).level ≠ 0 → t.mbxSide? b (runEp r) = none →
    exec (.wpost r d b n) s =
      .next (t.draw.2.ends r 4 ((t.ran r).writeD d (BitVec.ofNat 64 (t.draw.1.toNat % 16 * 16 + istatPolicy)))) ∧
    exec (.wack r d b n) s = .next (t.ends r 4 ((t.ran r).writeD d 0x40))) ∧
  (∀ (s : State) (t : State) (r : CoreRun) (d n : Fin 32) (b : Fin 16) (k : Nat),
    s.fetches r 4 t → (t.ran r).level ≠ 0 → t.mbxSide? b (runEp r) = some k → (t.side b k).queue = [] →
    exec (.wack r d b n) s = .next (t.ends r 4 ((t.ran r).writeD d 0x40))) ∧
  (∀ (s : State) (t : State) (r : CoreRun) (d n : Fin 32) (b : Fin 16) (k : Nat) (x : MboxWord) (l : List MboxWord),
    s.fetches r 4 t → (t.ran r).level ≠ 0 → t.mbxSide? b (runEp r) = some k → (t.side b k).queue = x :: l →
    exec (.wack r d b n) s =
      let u := t.setCore (runEp r) { t.ran r with wait := some (.wack d b ((t.ran r).readD n != 0)) }
      .next ((u.setSide b k { u.side b k with wait := some x.tag }).crossed b k)) ∧
  (∀ (s : State) (n : Fin 6) (d : Fin 32) (b : Fin 16) (k : Nat),
    (s.core (n.val + 1)).wait = some (.wack d b true) → s.mbxSide? b (n.val + 1) = some k →
    exec (.wackTimeout n) s = .next (s.wackEnd (n.val + 1) b k 0x21))

/-- MFSR and MTSR of a special register that the core's level may read or write have their effect, IC_ACK and IC_EOI
  being such accesses, and an unknown number takes ILLEGAL; TRAP takes its exception with the next instruction as EPC,
  or the TRAP where it is a double fault, MCALL above user level likewise; ERET returns; WFI ends at once when an
  interrupt qualifies and waits else; FENCE and IFLUSH end; TLBINV drops cached translations; a qualifying source wakes
  WFI and is delivered; cores that differ in lockstep stop. That a TRAP which double-faults is its own EPC (log entry
  79), that FENCE and IFLUSH only end (log entry 50), and that SP_U is read at supervisor level, as R296 says, and not
  at the level of its pointer (log entry 54), are the model's choices. -/
def Obligations.SystemInstructionsComplete : Prop :=
  (∀ (s : State) (t : State) (r : CoreRun) (d : Fin 32) (n : BitVec 16) (l : Nat),
    s.fetches r 4 t → srReadLevel n.toNat = some l → l ≤ (t.ran r).level →
    exec (.mfsr r d n) s =
      let x := t.srRead (runEp r) n.toNat
      .next (x.1.ends r 4 ((x.1.ran r).writeD d x.2))) ∧
  (∀ (s : State) (t : State) (r : CoreRun) (d : Fin 32) (n : BitVec 16) (l : Nat),
    s.fetches r 4 t → srWriteLevel n.toNat = some l → l ≤ (t.ran r).level →
    exec (.mtsr r n d) s =
      let u := t.srWrite (runEp r) n.toNat ((t.ran r).readD d)
      .next (u.ends r 4 (u.ran r))) ∧
  (∀ (s : State) (t : State) (r : CoreRun) (d : Fin 32),
    s.fetches r 4 t → (t.ran r).level ≠ 0 →
    let x := t.icAck (runEp r)
    exec (.icAck r d) s = .next (x.1.ends r 4 ((x.1.ran r).writeD d (BitVec.ofNat 64 x.2))) ∧
    exec (.icEoi r d) s = .next ((t.icEoi (runEp r)).ends r 4 ((t.icEoi (runEp r)).ran r))) ∧
  (∀ (s : State) (t : State) (r : CoreRun) (d : Fin 32) (n : BitVec 16),
    s.fetches r 4 t → srReadLevel n.toNat = none →
    exec (.mfsr r d n) s = .next (t.takeExc (runEp r) (t.ran r) vIllegal 0 none) ∧
    exec (.mtsr r n d) s = .next (t.takeExc (runEp r) (t.ran r) vIllegal 0 none)) ∧
  (∀ (s : State) (t : State) (r : CoreRun),
    s.fetches r 4 t →
    let c := t.ran r
    exec (.trap r) s = .next (t.takeExc (runEp r) (if c.level == 1 && c.exl then c else c.advance 4) vTrap 0 none)) ∧
  (∀ (s : State) (t : State) (r : CoreRun) (k : TlbScope),
    s.fetches r 4 t → (t.ran r).level ≠ 0 →
    let c := t.ran r
    let x := c.exc c.level
    exec (.mcall r) s = .next (t.takeExc (runEp r) (c.advance 4) vMcall 0 none) ∧
    exec (.eret r) s =
      .next (t.setCore (runEp r) { c with psr := psrWrite c.psr x.esr false, pc := x.epc, windows := x.windows }) ∧
    exec (.fence r) s = .next (t.ends r 4 c) ∧
    exec (.iflush r) s = .next (t.ends r 4 c) ∧
    exec (.tlbinv r k) s = .next (t.ends r 4 (c.tlbInv k)) ∧
    exec (.wfi r) s =
      .next (t.setCore (runEp r) (if (t.icNext (runEp r)).isSome then c.advance 4 else
        { c.advance 4 with wait := some .wfi }))) ∧
  (∀ (s : State) (n : Fin 6),
    (s.core (n.val + 1)).wait = some .wfi → (s.icNext (n.val + 1)).isSome = true →
    exec (.wfiWake n) s = .next (s.setCore (n.val + 1) { s.core (n.val + 1) with wait := none })) ∧
  (∀ (s : State) (n : Fin 6),
    s.irqDue (n.val + 1) = true →
    exec (.interruptDeliver n) s =
      .next ((s.wackAbandon (n.val + 1)).takeExc (n.val + 1) (s.core (n.val + 1)) vInterrupt 0 none)) ∧
  (∀ (s : State) (p : Fin 2),
    (if p.val = 0 then s.cpu.lock01 else s.cpu.lock23) = true → (s.core (2 * p.val + 1)).released = true → (s.core (2 *
      p.val + 1)).stopped = false →
    exec (.lockstepMismatch p) s =
      .next ((s.setCore (2 * p.val + 1) { s.core (2 * p.val + 1) with stopped := true }).raiseL (240 + p.val)))

/-- A write of a register by a master that reaches it, of 64 bits or one half, has the effect of its block's register
  write; a read of either half of a register answers what the register read gives; an allowed read of SRAM with good ECC
  answers its bytes, the lowest address least significant; an access to a domain that is off waits, is made when the
  domain is READY, and fails with DOMTMO when it is not in time, the bootstrap sequencer's own like another's; a
  programmed line lands in the NV store. That what hardware waits to write goes first and the stalled accesses go in the
  order they came is the model's reading (log entry 72, DEDUCED), and so is that what hardware waits to write to the NV
  store, but for fault records, is lost where the domain is not READY in time (log entry 82, DEDUCED). -/
def Obligations.BusAccessCommandsComplete : Prop :=
  (∀ (s : State) (m : Master) (a : BitVec 40) (v : BitVec 64),
    s.masterOn m = true → s.asleepBars (a.toNat) = false → s.stalls m (a.toNat) = false → region (a.toNat) = .periph →
      regBarred m (a.toNat) 8 = false → regAccess a.toNat 8 = some (a.toNat, .w64) → ((regInfo? a.toNat).isNone) = false
      →
    exec (.registerWrite m a .w64 v) s = .next (s.regWrite m a.toNat .w64 v)) ∧
  (∀ (s : State) (m : Master) (a : BitVec 40) (v : BitVec 64),
    s.masterOn m = true → s.asleepBars (a.toNat) = false → s.stalls m (a.toNat) = false → region (a.toNat) = .periph →
      regBarred m (a.toNat) 4 = false → regAccess a.toNat 4 = some (a.toNat, .lo32) → ((regInfo? a.toNat).isNone) =
      false →
    exec (.registerWrite m a .lo32 v) s = .next (s.regWrite m a.toNat .lo32 (BitVec.ofNat 64 (v.toNat % 2 ^ 32)))) ∧
  (∀ (s : State) (m : Master) (a : BitVec 40) (v : BitVec 64),
    s.masterOn m = true → s.asleepBars (a.toNat + 4) = false → s.stalls m (a.toNat + 4) = false → region (a.toNat + 4) =
      .periph → regBarred m (a.toNat + 4) 4 = false → regAccess (a.toNat + 4) 4 = some (a.toNat, .hi32) → ((regInfo?
      a.toNat).isNone) = false →
    exec (.registerWrite m a .hi32 v) s = .next (s.regWrite m a.toNat .hi32 (BitVec.ofNat 64 (v.toNat % 2 ^ 32)))) ∧
  (∀ (s : State) (m : Master) (a : BitVec 40) (v : BitVec 32),
    s.masterOn m = true → s.asleepBars (a.toNat) = false → s.stalls m (a.toNat) = false → region (a.toNat) = .periph →
      regBarred m (a.toNat) 4 = false → regAccess a.toNat 4 = some (a.toNat, .lo32) → ((regInfo? a.toNat).isNone) =
      false →
    exec (.splitWriteLow m a v) s = .next (s.regWrite m a.toNat .lo32 (BitVec.ofNat 64 v.toNat))) ∧
  (∀ (s : State) (m : Master) (a : BitVec 40) (v : BitVec 32),
    s.masterOn m = true → s.asleepBars (a.toNat + 4) = false → s.stalls m (a.toNat + 4) = false → region (a.toNat + 4) =
      .periph → regBarred m (a.toNat + 4) 4 = false → regAccess (a.toNat + 4) 4 = some (a.toNat, .hi32) → ((regInfo?
      a.toNat).isNone) = false →
    exec (.splitWriteHigh m a v) s = .next (s.regWrite m a.toNat .hi32 (BitVec.ofNat 64 v.toNat))) ∧
  (∀ (s : State) (m : Master) (a : BitVec 40) (t : State) (x : Nat),
    s.masterOn m = true → s.load m a.toNat 4 .good = (t, .value x) →
    exec (.splitReadLow m a) s = .next (t.answer x)) ∧
  (∀ (s : State) (m : Master) (a : BitVec 40) (t : State) (x : Nat),
    s.masterOn m = true → s.load m (a.toNat + 4) 4 .good = (t, .value x) →
    exec (.splitReadHigh m a) s = .next (t.answer x)) ∧
  (∀ (s : State) (m : Master) (a n : Nat),
    s.asleepBars a = false → region a = .sram → s.memAllowed m a .read = true →
    s.load m a n .good = (s, .value (leNat (s.bytes a n))) ∧
      ∀ i < n, leNat (s.bytes a n) / 256 ^ i % 256 = (s.byte (a + i)).toNat) ∧
  (∀ (s : State) (m : Master) (a : BitVec 40),
    s.masterOn m = true → s.asleepBars a.toNat = false → region a.toNat = .sram → s.memAllowed m a.toNat .read = true →
    exec (.splitReadLow m a) s = .next (s.answer (leNat (s.bytes a.toNat 4)))) ∧
  (∀ (s : State) (m : Master) (a : BitVec 40) (w : MemWidth) (e : MemErr),
    s.masterOn m = true → s.asleepBars a.toNat = false → s.stalls m a.toNat = true →
    exec (.domainDemandAccess m a w (.read e)) s =
      .next (s.pushStall { m := m, addr := a.toNat, size := widthBytes w, store := none, ecc := e })) ∧
  (∀ (s : State) (m : Master) (a : BitVec 40) (w : MemWidth) (v : BitVec 64) (e : MemErr),
    s.masterOn m = true → s.asleepBars a.toNat = false → s.stalls m a.toNat = true →
    exec (.domainDemandAccess m a w (.write v e)) s =
      .next (s.pushStall { m := m, addr := a.toNat, size := widthBytes w, store := some (BitVec.ofNat 128 v.toNat) })) ∧
  (∀ (s : State) (d : Fin 8),
    d = 4 ∨ d = 5 → (s.fld PMU_DOMSTAT_READY).testBit d = false →
    exec (.domainReady d) s =
      let t := s.put PMU_DOMSTAT_READY (s.fld PMU_DOMSTAT_READY ||| 2 ^ d.val)
      .next (((if d = 5 then t.heldWrites else t).bsqResume d).resumeStalls fun x => stallDomain x == d.val)) ∧
  (∀ (s : State) (d : Fin 8),
    (s.fld PMU_DOMSTAT_READY).testBit d = false → (s.nv.stalled.filter fun x => stallDomain x == d.val) ≠ [] →
    exec (.domainReadyTimeout d) s =
      let t := ((s.put PMU_DOMSTAT_TMO (s.fld PMU_DOMSTAT_TMO ||| 2 ^ d.val)).raiseBit PMU_IRQ_DOMTMO).raiseL 265
      let u : State := { t with nv := { t.nv with
        stalled := s.nv.stalled.filter fun x => stallDomain x != d.val
        held := if d = 5 then [] else s.nv.held } }
      .next ((u.each (s.nv.stalled.filter fun x => stallDomain x == d.val) fun x w => w.stallFails x).bsqStallFails d)) ∧
  (∀ (s : State) (m : Master) (l : NvLine),
    s.nvBusy m.num = some l →
    exec (.nvProgramDone m) s =
      .next (((s.nvCommit l).setNvBusy m.num none).resumeStalls fun x => x.m == m && region x.addr == .nv))

/-- An open host port answers a read frame of 64 or 32 bits, whose address has arrived, with the status byte and the
  data when the access gives them, shifts out ones when they are not ready and free data after a bus error; a whole
  write frame makes the access and shows its bus error in the status byte of the next frame; a frame of another command
  byte, or one that ends before its access, for a write before its data is whole, makes none. -/
def Obligations.HostPortCommandsComplete : Prop :=
  (∀ (s : State) (f : HostFrame) (e : MemErr) (v : BitVec 64),
    s.hostOpen = true → f.cmd = 0x0B → 48 ≤ f.bits → (({ s with reply := none } : State).busRead .host f.addr.toNat 8
      e).reply = some (v, false) →
    exec (.hostRead64 f e) s =
      let t := ({ s with reply := none } : State).busRead .host f.addr.toNat 8 e
      .next (({ t with host := {} } : State).send (.hostFrame s.hostStatus v))) ∧
  (∀ (s : State) (f : HostFrame) (e : MemErr) (v : BitVec 64),
    s.hostOpen = true → f.cmd = 0x0C → 48 ≤ f.bits → (({ s with reply := none } : State).busRead .host f.addr.toNat 4
      e).reply = some (v, false) →
    exec (.hostRead32 f e) s =
      let t := ({ s with reply := none } : State).busRead .host f.addr.toNat 4 e
      .next (({ t with host := {} } : State).send (.hostFrame s.hostStatus v))) ∧
  (∀ (s : State) (f : HostFrame) (e : MemErr),
    s.hostOpen = true → f.cmd = 0x0B → 48 ≤ f.bits → (({ s with reply := none } : State).busRead .host f.addr.toNat 8
      e).reply = none →
    exec (.hostRead64 f e) s =
      let t := ({ s with reply := none } : State).busRead .host f.addr.toNat 8 e
      .next (({ t with host := { notReady := true } } : State).send (.hostFrame s.hostStatus (BitVec.ofNat 64 (2 ^ (8 *
        8) - 1))))) ∧
  (∀ (s : State) (f : HostFrame) (e : MemErr),
    s.hostOpen = true → f.cmd = 0x0C → 48 ≤ f.bits → (({ s with reply := none } : State).busRead .host f.addr.toNat 4
      e).reply = none →
    exec (.hostRead32 f e) s =
      let t := ({ s with reply := none } : State).busRead .host f.addr.toNat 4 e
      .next (({ t with host := { notReady := true } } : State).send (.hostFrame s.hostStatus (BitVec.ofNat 64 (2 ^ (8 *
        4) - 1))))) ∧
  (∀ (s : State) (f : HostFrame) (e : MemErr) (v : BitVec 64),
    s.hostOpen = true → f.cmd = 0x0B → 48 ≤ f.bits → (({ s with reply := none } : State).busRead .host f.addr.toNat 8
      e).reply = some (v, true) →
    exec (.hostRead64 f e) s =
      let t := ({ s with reply := none } : State).busRead .host f.addr.toNat 8 e
      .next (({ t.draw.2 with host := { busErr := true } } : State).send (.hostFrame s.hostStatus t.draw.1))) ∧
  (∀ (s : State) (f : HostFrame) (e : MemErr) (v : BitVec 64),
    s.hostOpen = true → f.cmd = 0x0C → 48 ≤ f.bits → (({ s with reply := none } : State).busRead .host f.addr.toNat 4
      e).reply = some (v, true) →
    exec (.hostRead32 f e) s =
      let t := ({ s with reply := none } : State).busRead .host f.addr.toNat 4 e
      .next (({ t.draw.2 with host := { busErr := true } } : State).send (.hostFrame s.hostStatus t.draw.1))) ∧
  (∀ (s : State) (f : HostFrame) (v : BitVec 64),
    s.hostOpen = true → f.cmd = 0x02 → 112 ≤ f.bits →
    let x := ({ s with reply := none } : State).busWrite .host f.addr.toNat 8 v.toNat .good
    exec (.hostWrite64 f v) s = .next (({ x with host := { busErr := x.replyErr } } : State).send (.hostFrame
      s.hostStatus 0))) ∧
  (∀ (s : State) (f : HostFrame) (e : MemErr) (w : BitVec 32),
    s.hostOpen = true → f.cmd = 0x03 → 80 ≤ f.bits →
    let y := ({ s with reply := none } : State).busWrite .host f.addr.toNat 4 w.toNat e
    exec (.hostWrite32 f w e) s = .next (({ y with host := { busErr := y.replyErr } } : State).send (.hostFrame
      s.hostStatus 0))) ∧
  (∀ (s : State) (f : HostFrame) (e : MemErr) (v : BitVec 64) (w : BitVec 32),
    s.hostOpen = true → f.cmd ≠ 0x0B ∧ f.cmd ≠ 0x0C ∧ f.cmd ≠ 0x02 ∧ f.cmd ≠ 0x03 ∨ f.bits < 48 →
    let none := s.send (.hostFrame s.hostStatus 0)
    exec (.hostRead64 f e) s = .next none ∧ exec (.hostRead32 f e) s = .next none ∧
    exec (.hostWrite64 f v) s = .next none ∧ exec (.hostWrite32 f w e) s = .next none) ∧
  (∀ (s : State) (f : HostFrame) (v : BitVec 64),
    s.hostOpen = true → f.bits < 112 →
    exec (.hostWrite64 f v) s = .next (s.send (.hostFrame s.hostStatus 0))) ∧
  (∀ (s : State) (f : HostFrame) (e : MemErr) (w : BitVec 32),
    s.hostOpen = true → f.bits < 80 →
    exec (.hostWrite32 f w e) s = .next (s.send (.hostFrame s.hostStatus 0)))

/-- By an endpoint of the mailbox, a write of TXQ posts a word, a read of RXQ or of its low half takes one and a read of
  the high half answers what was held, ACK acknowledges the oldest read word and RING sets the peer's BELL. That the
  monitor gates at once what is posted to it is the model's reading of R408, R414 and R424 (log entry 110, DEDUCED). A
  read of RXQ by any other endpoint answers 0, and a write of any other endpoint is a violation, but for a write of the
  low half of TXQ, which is held. A read of a free lock takes it and answers 0, a read of a held one answers its owner,
  the owner's write releases it and any other write is a violation. -/
def Obligations.MailboxAndLockCommandsComplete : Prop :=
  (∀ (s : State) (m : Master) (b : Fin 16) (k : Nat) (v : BitVec 64),
    s.opens m (MBX_TXQ b) = true → s.mbxSide? b (s.epOf m) = some k →
    exec (.mbxTxqPost m b .w64 v) s =
      .next ((({ s with writeShadow := tset none s.writeShadow (shadowKey m (MBX_TXQ b)) none } : State).mbxPost b k
        v).1.gateWords)) ∧
  (∀ (s : State) (m : Master) (b : Fin 16) (k : Nat),
    s.opens m (MBX_RXQ b) = true → s.mbxSide? b (s.epOf m) = some k →
    exec (.mbxRxqRead m b .w64) s = .next ((s.mbxPop b k).1.answer (s.mbxPop b k).2.toNat)) ∧
  (∀ (s : State) (m : Master) (b : Fin 16) (k : Nat),
    s.opens m (MBX_RXQ b) = true → s.mbxSide? b (s.epOf m) = some k →
    exec (.mbxRxqRead m b .lo32) s = .next ((s.mbxPop b k).1.splitRead m (MBX_RXQ b) .lo32 (s.mbxPop b k).2) ∧
    exec (.mbxRxqRead m b .hi32) s = .next (s.splitRead m (MBX_RXQ b) .hi32 (s.mbxPop b k).2)) ∧
  (∀ (s : State) (m : Master) (b : Fin 16) (k : Nat),
    s.opens m (MBX_CMD b) = true → s.mbxSide? b (s.epOf m) = some k → (s.mbxAckWord b k).2 = true →
    exec (.mbxAck m b) s = .next (s.mbxAckWord b k).1) ∧
  (∀ (s : State) (m : Master) (b : Fin 16) (k : Nat),
    s.opens m (MBX_CMD b) = true → s.mbxSide? b (s.epOf m) = some k →
    exec (.mbxRing m b) s = .next (s.setSide b (1 - k) { s.side b (1 - k) with bell := true })) ∧
  (∀ (s : State) (m : Master) (b : Fin 16) (v : BitVec 64),
    s.opens m (MBX_TXQ b) = true → s.opens m (MBX_CMD b) = true → s.mbxSide? b (s.epOf m) = none →
    let drop : State := { s with writeShadow := tset none s.writeShadow (shadowKey m (MBX_TXQ b)) none }
    exec (.mbxTxqPost m b .w64 v) s = .next (drop.mbxViol (s.epOf m)) ∧
    exec (.mbxTxqPost m b .hi32 v) s = .next (drop.mbxViol (s.epOf m)) ∧
    exec (.mbxTxqPost m b .lo32 v) s =
      .next { s with writeShadow := tset none s.writeShadow (shadowKey m (MBX_TXQ b)) (some (BitVec.ofNat 32 v.toNat)) } ∧
    exec (.mbxAck m b) s = .next (s.mbxViol (s.epOf m)) ∧
    exec (.mbxRing m b) s = .next (s.mbxViol (s.epOf m))) ∧
  (∀ (s : State) (m : Master) (b : Fin 16) (a : Access),
    s.opens m (MBX_RXQ b) = true → s.mbxSide? b (s.epOf m) = none →
    exec (.mbxRxqRead m b a) s = .next (s.answer 0)) ∧
  (∀ (s : State) (m : Master) (k : Fin 32) (a : Access),
    s.opens m (LK k) = true → s.epOf m ≠ 0 → a ≠ .hi32 → (s.lk k).owner = 0 →
    exec (.lockRead m k a) s =
      .next ((s.setLk k { owner := s.epOf m, seen := (s.lk k).seen.filter (· != s.epOf m) }).answer 0)) ∧
  (∀ (s : State) (m : Master) (k : Fin 32) (a : Access),
    s.opens m (LK k) = true → s.epOf m ≠ 0 → a ≠ .hi32 → (s.lk k).owner ≠ 0 →
    exec (.lockRead m k a) s =
      let l := s.lk k
      .next ((s.setLk k { l with seen := if l.seen.contains (s.epOf m) then l.seen else l.seen ++ [s.epOf m] }).answer
        l.owner)) ∧
  (∀ (s : State) (m : Master) (k : Fin 32),
    s.opens m (LK k) = true → s.epOf m ≠ 0 → (s.lk k).owner = s.epOf m →
    exec (.lockRelease m k) s = .next (s.lockRelease k)) ∧
  (∀ (s : State) (m : Master) (k : Fin 32),
    s.opens m (LK k) = true → (s.lk k).owner ≠ s.epOf m →
    exec (.lockRelease m k) s = .next (s.mbxViol (s.epOf m)))

/-- Each cause of a bootstrap starts its kind: the end of the power-on reset, a return from sleep with the supplies up,
  which RESET_N held low delays, an L-die reset with RESET_N high and the PLL locked, and S3 when nothing holds it. With
  S4 not in force, read headers lead to the first candidate, or to a wait for the boot record while the NV domain is
  off; a candidate read, and in RECOVERY the re-hash, goes on to its next state; the verdict of ZS accepts or exits the
  candidate, and its time-out, in the reads or in VERIFY, ends in BOOT_FAIL; the build and the end of a REGS wait
  program the registers; the release happens when it is due; the retry starts the second run. Under S4 the end of the
  header reads, of a re-hash, of the wait for ZS, of the build, of a REGS wait and of the waits for the release and the
  retry stops the bootstrap and does nothing else (when it stops is the model's inference, log entry 60, DEDUCED). Which
  OTP words and which entries of the key store fail their check at the power-on reset is free (log entries 105 and 112).
  -/
def Obligations.BootstrapCommandsComplete : Prop :=
  (∀ (s : State),
    s.sys.por = true →
    exec (.bootstrapStart 0) s =
      let t : State := { s with sys := { s.sys with por := false, inReset := true } }
      let t := ((t.raiseBit SYS_CLKSTAT_XTAL_OK).raiseBit SYS_CLKSTAT_PLL_LOCK).raiseBit SYS_CLKSTAT_SLOWSRC
      let t := t.otpRead.keysRead.raiseBit ID_STAT_PVALID
      .next (if t.sys.inReset && !t.sys.pinLow && !t.sys.pllWait then t.bootStart (t.fld BSQ_STAT_KIND) else t)) ∧
  (∀ (s : State),
    s.pmuPhase = phWaking → s.pmu.supplies = true →
    exec (.bootstrapStart 1) s =
      let t := s.cellsOpen.setPhase phBoot
      let u := ((t.put BSQ_STAT_KIND bkWake).put BSQ_STAT_STATE bsReset).raiseBit SYS_RSTCAUSE_PIN
      .next (if t.sys.pinLow then { u with sys := { u.sys with inReset := true } } else t.bootStart bkWake)) ∧
  (∀ (s : State),
    s.sys.inReset = true → s.sys.pinLow = false → s.sys.pllWait = false →
    exec (.bootstrapStart 2) s = .next (s.bootStart (s.fld BSQ_STAT_KIND))) ∧
  (∀ (s : State),
    s.s3 = true → s.flag FCU_STAT_RECOV = false → s.s4 = false → s.fld BSQ_STAT_STATE ≠ bsFail → s.bsq.running = false →
      s.sys.inReset = false → s.pmuPhase ≠ phBoot → s.pmuPhase ≠ phEnter → s.pmuPhase ≠ phWaking → s.fld PMU_STAT_STATE
      < 2 →
    exec (.bootstrapStart 3) s = .next (((s.raiseBit FCU_STAT_RECOV).prepareFault).bootStart bkRecovery)) ∧
  (∀ (s : State),
    s.bsq.running = true → s.fld BSQ_STAT_STATE = 1 → s.bsq.place = 0 → s.bsq.waitRetry = false → s.bsq.nvWait = false →
      s.nvReady = true → s.s4 = false →
    exec .bsqHeaderReadDone s = .next (tryCandidates s.slotOrder 1 s)) ∧
  (∀ (s : State),
    s.bsq.running = true → s.fld BSQ_STAT_STATE = 1 → s.bsq.place = 0 → s.bsq.waitRetry = false → s.bsq.nvWait = false →
      s.nvReady = false → s.s4 = false →
    exec .bsqHeaderReadDone s = .next { s with bsq := { s.bsq with nvWait := true } }) ∧
  (∀ (s : State) (u : BitVec 32) (e : List (Nat × Byte)) (g : List (List (Nat × Byte))),
    s.bsq.running = true → s.fld BSQ_STAT_STATE = 1 → s.fld BSQ_STAT_KIND ≠ 3 → s.bsq.place ≠ 0 → s.bsq.waitRetry =
      false →
    exec (.bsqImageReadDone u e g) s = .next (s.imageRead u.toNat e g)) ∧
  (∀ (s : State) (u : BitVec 32) (e : List (Nat × Byte)) (g : List (List (Nat × Byte))),
    s.bsq.running = true → s.fld BSQ_STAT_STATE = 2 → s.fld BSQ_STAT_KIND = 3 → s.bsq.waitRetry = false → s.s4 = false →
    exec (.bsqImageReadDone u e g) s = .next s.rehash) ∧
  (∀ (s : State) (b : Bool),
    s.bsq.running = true → s.fld BSQ_STAT_STATE = 2 → s.fld BSQ_STAT_KIND ≠ 3 → b = s.signatureGood → s.s4 = false →
    exec (.zsSignatureVerdict b) s =
      .next (if s.verdictExit = 0 then s.put BSQ_STAT_STATE bsBuild else s.candidateExit s.verdictExit)) ∧
  (∀ (s : State),
    s.zsLate = true → s.s4 = false →
    exec .zsTimeout s = .next (s.exitRecord exZsFail).bootFail) ∧
  (∀ (s : State),
    s.bsq.running = true → s.fld BSQ_STAT_STATE = 3 → s.bsq.regsWait = false → s.bsq.built = false → s.bsqAwaits 4 =
      false → s.s4 = false →
    exec .bsqBuildDone s = .next s.build) ∧
  (∀ (s : State),
    s.bsq.running = true → s.fld BSQ_STAT_STATE = 3 → s.bsq.regsWait = true → s.s4 = false →
    exec .regsWaitEnd s = .next (({ s with bsq := { s.bsq with regsWait := false } } : State).regsFrom s.bsq.regs)) ∧
  (∀ (s : State),
    s.releaseDue = true → s.s4 = false →
    exec .coreRelease s = .next s.release_) ∧
  (∀ (s : State),
    s.bsq.running = true → s.bsq.waitRetry = true → s.s4 = false →
    exec .bootRetry s =
      let t := s.bootClear.put BSQ_STAT_STATE (if s.fld BSQ_STAT_KIND == bkRecovery then bsVerify else bsFlash)
      let t := t.when (t.fld BSQ_STAT_KIND != bkRecovery) fun u => u.xspiShow 0 0 8
      .next { t with bsq := { t.bsq with second := true, waitRetry := false, place := 0, slots := [] } }) ∧
  (∀ (s : State),
    s.bsq.running = true → s.fld BSQ_STAT_STATE = 1 → s.bsq.place = 0 → s.bsq.waitRetry = false → s.bsq.nvWait = false →
      s.nvReady = true → s.s4 = true →
    exec .bsqHeaderReadDone s = .next { s with bsq := { s.bsq with running := false } }) ∧
  (∀ (s : State) (u : BitVec 32) (e : List (Nat × Byte)) (g : List (List (Nat × Byte))),
    s.bsq.running = true → s.fld BSQ_STAT_STATE = 2 → s.fld BSQ_STAT_KIND = 3 → s.bsq.waitRetry = false → s.s4 = true →
    exec (.bsqImageReadDone u e g) s = .next { s with bsq := { s.bsq with running := false } }) ∧
  (∀ (s : State),
    s.zsLate = true → s.s4 = true →
    exec .zsTimeout s = .next { s with bsq := { s.bsq with running := false } }) ∧
  (∀ (s : State),
    s.bsq.running = true → s.fld BSQ_STAT_STATE = 3 → s.bsq.regsWait = false → s.bsq.built = false → s.bsqAwaits 4 =
      false → s.s4 = true →
    exec .bsqBuildDone s = .next { s with bsq := { s.bsq with running := false } }) ∧
  (∀ (s : State),
    s.bsq.running = true → s.fld BSQ_STAT_STATE = 3 → s.bsq.regsWait = true → s.s4 = true →
    exec .regsWaitEnd s = .next { s with bsq := { s.bsq with running := false } }) ∧
  (∀ (s : State),
    s.releaseDue = true → s.s4 = true →
    exec .coreRelease s = .next { s with bsq := { s.bsq with running := false } }) ∧
  (∀ (s : State),
    s.bsq.running = true → s.bsq.waitRetry = true → s.s4 = true →
    exec .bootRetry s = .next { s with bsq := { s.bsq with running := false } })

/-- A request of an endpoint is judged; the conditions of PREPARE pass the point of no return, and its time-out ends the
  request EXPIRED; an entry reaches its state; a wake source other than FS264 acts; the domains and clock of a wake
  start a WAKE bootstrap; a late crystal degrades the clock; a supply that fails is tried again, the fourth time the
  wake fails; a limp trigger in PARK applies the map; the NV domain goes off when idle, which clamps its fault wires;
  NETOFF takes the NET domain off when nothing uses it; the wake timer is written by its owner and wakes when it reaches
  its alarm. -/
def Obligations.PowerCommandsComplete : Prop :=
  (∀ (s : State) (m : Master) (t : Fin 4),
    s.opens m PMU_REQ = true →
    exec (.pmuRequest m t) s = .next (s.pmuRequest (s.epOf m) t)) ∧
  (∀ (s : State),
    s.pmuPhase = 1 → s.prepareReady = true →
    exec .prepareDone s = .next s.pointNoReturn) ∧
  (∀ (s : State),
    s.pmuPhase = 1 → s.prepareReady = false →
    exec .prepareTimeout s = .next (s.prepareEnd istatExpired)) ∧
  (∀ (s : State),
    s.pmuPhase = 2 →
    exec .sleepEntryDone s = .next s.sleepDone) ∧
  (∀ (s : State) (w : Fin 7) (d : BitVec 9),
    ¬ (w = 6 ∧ d = 264) →
    exec (.wakeSource w d) s = .next (s.pmuWake w d.toNat)) ∧
  (∀ (s : State),
    s.pmuPhase = 3 → s.pmu.supplies = true →
    exec .wakeDomainsReady s =
      let t := s.cellsOpen.setPhase phBoot
      .next (if t.sys.pinLow = false then t.bootStart bkWake
        else
          let u := ((t.put BSQ_STAT_KIND bkWake).put BSQ_STAT_STATE bsReset).raiseBit SYS_RSTCAUSE_PIN
          { u with sys := { u.sys with inReset := true } })) ∧
  (∀ (s : State),
    s.pmuPhase = 3 → s.pmu.wakeFrom = psPark →
    exec .xtalStartTimeout s = .next { s.setDegraded true with pmu := { s.pmu with xtalLate := true } }) ∧
  (∀ (s : State),
    s.pmuPhase = 3 → s.pmu.supplies = true → s.fld PMU_STAT_ATTEMPTS < 4 →
    exec .wakeSupplyFail s = .next { s with pmu := { s.pmu with supplies := false } }) ∧
  (∀ (s : State),
    s.pmuPhase = 3 → s.pmu.supplies = true → 4 ≤ s.fld PMU_STAT_ATTEMPTS →
    exec .wakeSupplyFail s = .next (State.wakeFail { s with pmu := { s.pmu with supplies := false } })) ∧
  (∀ (s : State),
    s.pmuPhase = 3 → s.pmu.supplies = false →
    exec .wakeAttemptRetry s = .next { s.incSat PMU_STAT_ATTEMPTS with pmu := { s.pmu with supplies := true } }) ∧
  (∀ (s : State),
    s.pstate = psPark →
    exec .parkLimpTrigger s =
      .next (State.limpTrigger { s with pdi := { s.pdi with limpNHigh := false } } 1 istatAbortedFault)) ∧
  (∀ (s : State),
    s.flag PMU_DOMCTL_NVAUTO = true → (s.fld PMU_DOMSTAT_READY).testBit 5 = true → (∀ e < 8, s.nvBusy e = none) →
    exec .nvIdleOff s = .next (s.put PMU_DOMSTAT_READY (s.fld PMU_DOMSTAT_READY - 0x20)).fcuClamp) ∧
  (∀ (s : State) (m : Master),
    s.opens m PMU_DOMCTL = true → (ownerOk (s.fld PMU_CFG_OWNER) m || m == .zk) = true → s.netUnused = true →
    exec (.netoffWrite m) s = .next (s.putB PMU_DOMCTL_NETOFF true).netOff) ∧
  (∀ (s : State) (m : Master) (v : BitVec 64),
    s.opens m PMU_WTMR = true → (ownerOk (s.fld PMU_CFG_OWNER) m || m == .zk) = true →
    exec (.wtmrWrite m .w64 v) s =
      .next (({ s with writeShadow := tset none s.writeShadow (shadowKey m PMU_WTMR) none } : State).wtmrSet v)) ∧
  (∀ (s : State),
    s.flag PMU_WTMR_EN = true → s.fld PMU_WTMR_ALARM ≤ s.slowCount →
    exec .wakeTimerAlarm s = .next ((s.putB PMU_WTMR_EN false).pmuWake 5 0))

/-- The power-on reset leaves its state, and its release starts a COLD bootstrap; a brown-out, the loss and return of
  CK_PWR, the loss of the crystal, a PLL unlock and relock, the CK_SLOW crystal and the trim of CK_RC have their
  effects; the L-die reset, the reset pin and SYS_RSTCMD with its key reset what they name; a kick in turn by the owner
  in the open window keeps a watchdog from expiring; a foreign, an early and a wrong kick, and silence, expire it, and a
  watchdog that does not run takes no notice. Which OTP words and which entries of the key store fail their check at the
  power-on reset is free (log entries 105 and 112). -/
def Obligations.SupplyClockResetCommandsComplete : Prop :=
  (∀ (s : State),
    exec .powerOnReset s = .next s.powerOnReset) ∧
  (∀ (s : State),
    s.sys.por = true →
    exec .porRelease s =
      let t : State := { s with sys := { s.sys with por := false, inReset := true } }
      let t := ((t.raiseBit SYS_CLKSTAT_XTAL_OK).raiseBit SYS_CLKSTAT_PLL_LOCK).raiseBit SYS_CLKSTAT_SLOWSRC
      let t := t.otpRead.keysRead.raiseBit ID_STAT_PVALID
      .next (if t.sys.inReset && !t.sys.pinLow && !t.sys.pllWait then t.bootStart (t.fld BSQ_STAT_KIND) else t)) ∧
  (∀ (s : State),
    s.sys.por = false →
    exec (.railBrownout false) s =
      .next ((((s.raiseBit SYS_SUPPLY_BO).raiseL 276).raiseBit SYS_RSTCAUSE_BOD).ldieRestart)) ∧
  (∀ (s : State),
    s.sys.por = false →
    exec (.railBrownout true) s =
      .next ((((((s.raiseBit SYS_SUPPLY_BO).raiseL 276).raiseBit SYS_RSTCAUSE_LOST).ldieReset
        false).limpLost).bootAfterReset)) ∧
  (∀ (s : State),
    s.pstate < 3 → s.flag SYS_CLKSTAT_XTAL_OK = true → (s.putB SYS_CLKSTAT_XTAL_OK false).flag PMU_STAT_CLK_DEGRADED =
      false →
    exec .xtalLoss s =
      .next (((((s.putB SYS_CLKSTAT_XTAL_OK false).setDegraded true).incSat SYS_CLKSTAT_XLOSS).raiseBit
        SYS_IRQ_XLOSS).raiseL 266)) ∧
  (∀ (s : State),
    s.flag SYS_CLKSTAT_PLL_LOCK = true →
    exec (.pllUnlock false) s =
      .next (((({ s.putB SYS_CLKSTAT_PLL_LOCK false with sys := { s.sys with pllWait := true } } : State).raiseL
        267).raiseBit SYS_RSTCAUSE_PLL).ldieReset true)) ∧
  (∀ (s : State),
    s.sys.pllWait = true →
    exec (.pllUnlock true) s =
      .next (State.bootAfterReset { s.raiseBit SYS_CLKSTAT_PLL_LOCK with sys := { s.sys with pllWait := false } })) ∧
  (∀ (s : State),
    s.flag SYS_CLKSTAT_PLOC = false →
    exec .ckpwrLoss s = .next ((s.raiseBit SYS_CLKSTAT_PLOC).raiseP 269)) ∧
  (∀ (s : State),
    exec .ckpwrReturn s = .next (s.putB SYS_CLKSTAT_PLOC false)) ∧
  (∀ (s : State),
    s.flag SYS_CLKCFG_SLOWSEL = false → s.sys.slowFailed = false →
    exec .slowXtalReady s = .next (s.putB SYS_CLKSTAT_SLOWSRC false) ∧
    exec .slowXtalFail s =
      let t := ((s.raiseBit SYS_CLKSTAT_SLOWSRC).raiseBit SYS_CLKSTAT_SLOW_DEGRADED).putB SYS_CLKSTAT_DISC false
      .next (({ t.raiseBit SYS_IRQ_SLOWFAIL with sys := { t.sys with slowFailed := true } } : State).raiseL 268)) ∧
  (∀ (s : State),
    exec .rcTrim s = .next (s.putB SYS_CLKSTAT_DISC (s.flag SYS_CLKCFG_RCDISC && !s.flag SYS_CLKSTAT_SLOWSRC && !s.flag
      SYS_CLKCFG_SLOWSEL)) ∧
        exec .ldieReset s = .next s.ldieRestart) ∧
  (∀ (s : State),
    s.ldieDown = false → s.sys.por = false →
    exec (.resetPin true) s =
      .next ((({ s with sys := { s.sys with pinLow := true } } : State).raiseBit SYS_RSTCAUSE_PIN).ldieReset true)) ∧
  (∀ (s : State),
    exec (.resetPin false) s = .next (State.bootAfterReset { s with sys := { s.sys with pinLow := false } })) ∧
  (∀ (s : State) (m : Master) (e : Fin 7),
    s.opens m SYS_RSTCMD = true → (m == .zs || (s.fld SYS_CLKCFG_OWNER != 0 && s.fld SYS_CLKCFG_OWNER == s.epOf m)) =
      true →
    exec (.sysLdieReset m 0xD5) s = .next ((s.raiseBit SYS_RSTCAUSE_SWRST).ldieRestart) ∧
    exec (.coreReset m 0xD5 e) s = .next (s.coreReset (e + 1))) ∧
  (∀ (s : State) (m : Master) (k : Fin 4) (v : BitVec 8),
    s.opens m (SYS_WD_KICK k) = true → s.wdRuns k = true → s.epOf m = s.fld (SYS_WD_CFG_OWNER k) → s.fld (SYS_WD_CFG_WIN
      k) ≤ s.wdAge k → v.toNat = (if (s.wdog k).nextA5 then 0xA5 else 0x5A) →
    exec (.wdKick m k v) s = .next (s.setWdog k { s.wdog k with since := s.now, nextA5 := !(s.wdog k).nextA5 })) ∧
  (∀ (s : State) (m : Master) (k : Fin 4) (v : BitVec 8),
    s.opens m (SYS_WD_KICK k) = true → s.wdRuns k = true → s.epOf m ≠ s.fld (SYS_WD_CFG_OWNER k) ∨ s.wdAge k < s.fld
      (SYS_WD_CFG_WIN k) ∨ v.toNat ≠ (if (s.wdog k).nextA5 then 0xA5 else 0x5A) →
    exec (.wdKick m k v) s = .next (s.wdExpire k)) ∧
  (∀ (s : State) (m : Master) (k : Fin 4) (v : BitVec 8),
    s.opens m (SYS_WD_KICK k) = true → s.wdRuns k = false →
    exec (.wdKick m k v) s = .next s) ∧
  (∀ (s : State) (k : Fin 4),
    s.wdRuns k = true →
    exec (.wdExpire k) s = .next (s.wdExpire k))

/-- A segment in a frame that its port takes is reassembled, one in any other frame is not, and a late one is dropped; a
  message that the monitor takes is answered, with REASON 3 where the state of the device has come to refuse its family,
  and then the refused messages behind it (the order of these answers is the model's, log entry 110): STATUS, QUOTE and
  the certificate; ENROLL, BLOCK, REMOVE and CLEAR of access keys; the owner lock; INSTALL, REVOKE and RAISE of image
  keys and rollback; the fault log, severities and injection; KEYGEN, CERT and END_OF_LINE. The secret number of a
  signature, a device key and the answers the specification does not state are free values (log entries 3, 13 and 92).
  -/
def Obligations.MonitorCommandsComplete : Prop :=
  (∀ (s : State) (p : Fin 32) (f : Carrier) (v : BitVec 16),
    s.carries p f = true →
    exec (.cmdSegmentRx p f v) s = .next (s.segRx p f v.toNat)) ∧
  (∀ (s : State) (p : Fin 32) (f : Carrier) (v : BitVec 16),
    s.carries p f = false →
    exec (.cmdSegmentRx p f v) s = .next s) ∧
  (∀ (s : State) (p : Fin 32),
    (s.part p).isSome = true →
    exec (.segmentTimeout p) s = .next ((s.dropPart p).incSat SEC_INTAKE_SEGERR)) ∧
  (∀ (s : State) (src : CmdSrc) (t : State) (f : CmdFrom) (p : Nat) (l : List Byte),
    s.taken src 0 1 = some (t, f, p, l) → t.familyBar 0 1 = false →
    exec (.statusRead src) s = .next ((t.respond f l istatOk 0 (Config.statusBody t.statusData)).answerTurned)) ∧
  (∀ (s : State) (src : CmdSrc) (t : State) (f : CmdFrom) (p : Nat) (l : List Byte),
    s.taken src 0 2 = some (t, f, p, l) → t.familyBar 0 2 = false →
    exec (.statusCert src) s = .next ((t.respond f l istatOk 0 t.cert).answerTurned)) ∧
  (∀ (s : State) (src : CmdSrc) (t : State) (f : CmdFrom) (p : Nat) (l : List Byte),
    s.taken src 1 1 = some (t, f, p, l) → t.familyBar 1 1 = false →
    exec (.quote src) s =
      let m := t.quoteBytes (msgBody l)
      .next (State.answerTurned ((t.deviceSign m).1.respond f l istatOk 0 (m ++ (t.deviceSign m).2)))) ∧
  (∀ (s : State) (src : CmdSrc) (t : State) (f : CmdFrom) (p : Nat) (l : List Byte) (j : Byte) (i : BitVec 32) (k :
    BitVec 128),
    s.taken src 5 1 = some (t, f, p, l) → bodyByte (msgBody l) 0 = j.toNat → bodyLe (msgBody l) 4 4 = i.toNat → j.toNat
      ≤ 7 → (t.sec.keys.slot j.toNat).1 = 0 → (enrollPoint (msgBody l)).isSome = true → t.enrollKey (msgBody l) = some k
      → i.toNat ≠ 0 → (∀ x < 8, (t.sec.keys.slot x).1 ≠ 0 → (t.sec.keys.slot x).2.1 ≠ i.toNat) → t.familyBar 5 1 = false
      →
    exec (.enroll src j i) s =
      .next (State.answerTurned ((t.setKeys (t.sec.keys.setSlot j.toNat (1, i.toNat, k))).respondOk f l))) ∧
  (∀ (s : State) (src : CmdSrc) (t : State) (f : CmdFrom) (p : Nat) (l : List Byte) (j : Fin 8),
    s.taken src 5 2 = some (t, f, p, l) → (t.sec.keys.slot j).1 = 1 → t.familyBar 5 2 = false →
    exec (.accessBlock src j) s =
      .next (((t.setKeys (t.sec.keys.setSlot j (2, (t.sec.keys.slot j).2))).respondOk f l).answerTurned)) ∧
  (∀ (s : State) (src : CmdSrc) (t : State) (f : CmdFrom) (p : Nat) (l : List Byte) (j : Fin 8),
    s.taken src 5 3 = some (t, f, p, l) → t.familyBar 5 3 = false →
    exec (.remove src j) s = .next (((t.setKeys (t.sec.keys.setSlot j (0, 0, 0))).respondOk f l).answerTurned)) ∧
  (∀ (s : State) (src : CmdSrc) (t : State) (f : CmdFrom) (p : Nat) (l : List Byte),
    s.taken src 5 4 = some (t, f, p, l) → t.familyBar 5 4 = false →
    exec (.clearLockout src) s = .next ((t.lockClear.respondOk f l).answerTurned)) ∧
  (∀ (s : State) (src : CmdSrc) (t : State) (f : CmdFrom) (p : Nat) (l : List Byte),
    s.taken src 6 1 = some (t, f, p, l) → t.familyBar 6 1 = false →
    exec (.ownerSet src) s = .next (((t.setKeys { t.sec.keys with ownerLock := true }).respondOk f l).answerTurned)) ∧
  (∀ (s : State) (src : CmdSrc) (t : State) (f : CmdFrom) (p : Nat) (l : List Byte),
    s.taken src 6 2 = some (t, f, p, l) → t.familyBar 6 2 = false →
    exec (.ownerClear src) s =
      .next (((t.setKeys { t.sec.keys with ownerLock := false }).respondOk f l).answerTurned)) ∧
  (∀ (s : State) (src : CmdSrc) (t : State) (f : CmdFrom) (p : Nat) (l : List Byte) (j : Fin 4) (b : List Byte),
    s.taken src 7 1 = some (t, f, p, l) → t.sec.keys.imageState j = 0 → t.familyBar 7 1 = false →
    exec (.install src j b) s =
      .next (((t.setKeys { t.sec.keys with image := tset (0, []) t.sec.keys.image j (1, b) }).respondOk f
        l).answerTurned)) ∧
  (∀ (s : State) (src : CmdSrc) (t : State) (f : CmdFrom) (p : Nat) (l : List Byte) (j : Fin 4),
    s.taken src 7 2 = some (t, f, p, l) → imgKeyIdx (t.halfImg (t.fld BSQ_STAT_IHALF)) ≠ j.val → t.familyBar 7 2 = false
      →
    exec (.revoke src j) s =
      .next (((t.setKeys
        { t.sec.keys with image := tset (0, []) t.sec.keys.image j (2, (tget (0, []) t.sec.keys.image j).2) }).respondOk
        f l).answerTurned)) ∧
  (∀ (s : State) (src : CmdSrc) (t : State) (f : CmdFrom) (p : Nat) (l : List Byte) (v : BitVec 32),
    s.taken src 7 3 = some (t, f, p, l) → t.sec.keys.rollback ≤ v.toNat → v.toNat ≤ t.fld BSQ_IMG_ROLLBACK → t.familyBar
      7 3 = false →
    exec (.raiseRollback src v) s =
      .next (((t.setKeys { t.sec.keys with rollback := v.toNat }).respondOk f l).answerTurned)) ∧
  (∀ (s : State) (src : CmdSrc) (t : State) (f : CmdFrom) (p : Nat) (l : List Byte),
    s.taken src 8 1 = some (t, f, p, l) → t.familyBar 8 1 = false →
    exec (.faultRead src) s =
      .next (State.answerTurned (t.respond f l istatOk 0 ((List.range (bodyByte (msgBody l) 2)).flatMap fun i =>
        t.bytes (0x103E0000 + 64 * ((bodyLe (msgBody l) 0 2 + i) % 1024)) 64)))) ∧
  (∀ (s : State) (src : CmdSrc) (t : State) (f : CmdFrom) (p : Nat) (l : List Byte),
    s.taken src 8 2 = some (t, f, p, l) → t.familyBar 8 2 = false →
    exec (.faultErase src) s =
      .next ((((t.zeroRange 0x103E0000 65536).put FCU_RECSTAT_NEXT 0).respondOk f l).answerTurned)) ∧
  (∀ (s : State) (src : CmdSrc) (t : State) (f : CmdFrom) (p : Nat) (l : List Byte),
    s.taken src 8 2 = some (t, f, p, l) → t.familyBar 8 2 = true →
    exec (.faultErase src) s = .next ((t.respond f l istatPolicy 3 []).answerTurned)) ∧
  (∀ (s : State) (src : CmdSrc) (t : State) (f : CmdFrom) (p : Nat) (l : List Byte),
    s.taken src 8 3 = some (t, f, p, l) → t.familyBar 8 3 = false →
    exec (.severity src) s = .next ((t.faultSeverity f l).answerTurned)) ∧
  (∀ (s : State) (src : CmdSrc) (t : State) (f : CmdFrom) (p : Nat) (l : List Byte),
    s.taken src 8 4 = some (t, f, p, l) → t.familyBar 8 4 = false →
    exec (.inject src) s = .next ((t.faultInject f l).answerTurned)) ∧
  (∀ (s : State) (src : CmdSrc) (t : State) (f : CmdFrom) (p : Nat) (l : List Byte),
    s.taken src 9 1 = some (t, f, p, l) → t.sec.keys.device = none → t.familyBar 9 1 = false →
    exec (.keygen src) s =
      let d := t.drawBytes 4
      .next (State.answerTurned ((d.1.setKeys
        { d.1.sec.keys with device := some (BitVec.ofNat 256 (1 + leNat d.2 % (ecN - 1))) }).respondOk f l))) ∧
  (∀ (s : State) (src : CmdSrc) (t : State) (f : CmdFrom) (p : Nat) (l : List Byte) (c : List Byte),
    s.taken src 9 2 = some (t, f, p, l) → t.familyBar 9 2 = false →
    exec (.factoryCert src c) s = .next (((t.setCert c).respondOk f l).answerTurned)) ∧
  (∀ (s : State) (src : CmdSrc) (t : State) (f : CmdFrom) (p : Nat) (l : List Byte),
    s.taken src 9 3 = some (t, f, p, l) → t.familyBar 9 3 = false →
    exec (.endOfLine src) s = .next (((t.setKeys { t.sec.keys with field := true }).respondOk f l).answerTurned))

/-- With no other port's session and no hand-over, BEGIN with a good length and sequence number opens a session on the
  other slot; a new block is stored; VERIFY with every block staged judges the slot; ACTIVATE HANDOVER of a verified
  image that ZS can read and that is compatible starts the hand-over, which S3 abandons at once; an image it cannot read
  ends ABORTED_FAULT; and ACTIVATE RESTART names the slot in the boot record and restarts 10 ms later; ABORT and a
  session's time-out end it. A participant writes READY in QUIET, and DONE or ABANDON in NEW, the last DONE completing
  the hand-over; at the quiet boundary the sequencer switches; the rewritten tables lead to NEW, a MAP that cannot be
  read abandoning the hand-over; the time limits of QUIET and NEW abandon it; restored tables end it. -/
def Obligations.UpdateAndHandoverCommandsComplete : Prop :=
  (∀ (s : State) (src : CmdSrc) (t : State) (f : CmdFrom) (p : Nat) (l : List Byte),
    s.taken src 4 1 = some (t, f, p, l) → t.sessionBusy p = false → bodyLe (msgBody l) 0 4 % 8 = 0 → 336 ≤ bodyLe
      (msgBody l) 0 4 → bodyLe (msgBody l) 0 4 ≤ 0x1000000 → t.fld BSQ_IMG_SEQ < bodyLe (msgBody l) 4 4 → t.familyBar 4
      1 = false →
    exec (.updateBegin src) s =
      let len := bodyLe (msgBody l) 0 4
      let slot := 1 - t.fld BSQ_STAT_SLOT
      let staging := decide (len ≤ t.fld BSQ_IMGBASE_HALFSZ * 65536)
      .next (State.answerTurned (((t.eraseSector slot 0).setSession (some
          { port := p, length := len, seq := bodyLe (msgBody l) 4 4, slot := slot, staging := staging, erased := [0] })).respond
        f l istatOk 0 [BitVec.ofNat 8 slot, if staging then 1 else 0]))) ∧
  (∀ (s : State) (src : CmdSrc) (t : State) (f : CmdFrom) (p : Nat) (l : List Byte) (x : Session),
    s.taken src 4 2 = some (t, f, p, l) → t.sessionBusy p = false → t.sec.session = some x → bodyLe (msgBody l) 0 4 %
      4096 = 0 → bodyLe (msgBody l) 0 4 < x.length → (msgBody l).length - 4 = min 4096 (x.length - bodyLe (msgBody l) 0
      4) → x.have_.contains (bodyLe (msgBody l) 0 4) = false → t.familyBar 4 2 = false →
    exec (.updateBlock src false) s =
      .next (((t.blockStore x (bodyLe (msgBody l) 0 4) ((msgBody l).drop 4)).respondOk f l).answerTurned)) ∧
  (∀ (s : State) (src : CmdSrc) (t : State) (f : CmdFrom) (p : Nat) (l : List Byte) (x : Session) (e : List (Nat ×
    Byte)),
    s.taken src 4 3 = some (t, f, p, l) → t.sessionBusy p = false → t.sec.session = some x → x.missing = none →
      t.familyBar 4 3 = false →
    exec (.updateVerify src e) s = .next ((t.verifyEnd e x f l).answerTurned)) ∧
  (∀ (s : State) (src : CmdSrc) (t : State) (f : CmdFrom) (p : Nat) (l : List Byte) (x : Session),
    s.taken src 4 4 = some (t, f, p, l) → modeOf l = 1 → t.bootFailed = false → t.sessionBusy p = false → t.sec.session
      = some x → x.verified = true → t.familyBar 4 4 = false →
    exec (.activateHandover src) s =
      let r := t.stagedRead x
      .next (State.answerTurned (if r.2 = false then r.1.respond f l istatAbortedFault 0 []
        else match r.1.incompatible x with
          | some c => r.1.conflict f l c
          | none => if r.1.s3 then (r.1.hoStart f l).hoAbandon 5 else r.1.hoStart f l))) ∧
  (∀ (s : State) (src : CmdSrc) (t : State) (f : CmdFrom) (p : Nat) (l : List Byte) (x : Session),
    s.taken src 4 4 = some (t, f, p, l) → modeOf l = 2 → t.sessionBusy p = false → t.sec.session = some x → x.verified =
      true → t.familyBar 4 4 = false →
    exec (.activateRestart src) s =
      let u := (t.setActSlot x.slot).respondOk f l
      .next (State.answerTurned { u with sec := { u.sec with restart := true } })) ∧
  (∀ (s : State),
    s.sec.restart = true →
    exec .restartReset s = .next (State.ldieRestart { s with sec := { s.sec with restart := false } })) ∧
  (∀ (s : State) (src : CmdSrc) (t : State) (f : CmdFrom) (p : Nat) (l : List Byte),
    s.taken src 4 5 = some (t, f, p, l) → t.sessionBusy p = false → t.familyBar 4 5 = false →
    exec (.updateAbort src) s = .next (((t.setSession none).respondOk f l).answerTurned)) ∧
  (∀ (s : State),
    s.hoRuns = false →
    exec .updateSessionTimeout s = .next (s.setSession none)) ∧
  (∀ (s : State) (m : Master),
    s.opens m BSQ_HOCMD = true → (s.fld BSQ_HOSTAT_PART).testBit (s.coreHome m.num) = true → s.hand.restoring = false →
      s.fld BSQ_HOSTAT_PHASE = 1 →
    exec (.hoReady m) s = .next (s.put BSQ_HOSTAT_READY (s.fld BSQ_HOSTAT_READY ||| 2 ^ s.coreHome m.num))) ∧
  (∀ (s : State) (m : Master),
    s.opens m BSQ_HOCMD = true → (s.fld BSQ_HOSTAT_PART).testBit (s.coreHome m.num) = true → s.hand.restoring = false →
      s.fld BSQ_HOSTAT_PHASE = 3 →
    exec (.hoDone m) s =
      let t := s.put BSQ_HOSTAT_DONE (s.fld BSQ_HOSTAT_DONE ||| 2 ^ s.coreHome m.num)
      .next (if t.fld BSQ_HOSTAT_DONE = t.fld BSQ_HOSTAT_PART then t.hoComplete_ else t)) ∧
  (∀ (s : State) (m : Master),
    s.opens m BSQ_HOCMD = true → (s.fld BSQ_HOSTAT_PART).testBit (s.coreHome m.num) = true → s.hand.restoring = false →
      s.fld BSQ_HOSTAT_PHASE = 3 →
    exec (.hoAbandon m) s = .next (s.hoAbandon 1)) ∧
  (∀ (s : State),
    s.hoBoundary = true →
    exec .handoverSwitch s = .next (s.put BSQ_HOSTAT_PHASE hoSwitch)) ∧
  (∀ (s : State),
    s.fld BSQ_HOSTAT_PHASE = 2 → s.hand.restoring = false →
    exec .handoverTablesDone s =
      let r := s.sramRead
      let h := s.otherHalf
      let t := (r.1.each s.hoPart fun e u => u.writeTables (s.halfImg h) (s.halfBase h) e).put BSQ_HOSTAT_PHASE hoNew
      .next (if r.2 = false then r.1.hoAbandon 5 else if t.hoPart = [] then t.hoComplete_ else t)) ∧
  (∀ (s : State),
    s.fld BSQ_HOSTAT_PHASE = 1 →
    exec .hoquietExpire s = .next (s.hoAbandon 2)) ∧
  (∀ (s : State),
    s.fld BSQ_HOSTAT_PHASE = 3 →
    exec .hotimeExpire s = .next (s.hoAbandon 3)) ∧
  (∀ (s : State),
    s.hand.restoring = true →
    exec .handoverRestoreDone s =
      let r := s.sramRead
      let h := s.fld BSQ_STAT_IHALF
      .next (if r.2 = false then r.1
        else (r.1.each s.hoPart fun e t => t.writeTables (s.halfImg h) (s.halfBase h) e).hoEnd hoAbandoned
          (hoIstat (s.fld BSQ_HOSTAT_CAUSE))))

/-- A change of a source's wires is sampled, first marking a severity that cannot be corrected; a pair fault of a domain
  that is on activates its source; an acknowledgement, forces, a pair force, severities and timers are written by a
  master that may, only ZS forcing a source of class S4, and after the release a timer field that would be lengthened is
  kept with CFG_VIOL, T1 = 0 being the longest, while the others are taken; T1 raises S1LATE, T2 escalates an S2 source,
  T3 starts the recovery; the S3 count ages; the oldest record is written. -/
def Obligations.FaultCollectorCommandsComplete : Prop :=
  (∀ (s : State) (c : Fin 384) (b : Bool),
    exec (.faultActivation c b false) s = .next (s.sourceWire c b) ∧
    exec (.faultActivation c b true) s = .next ((s.sevBad c).sourceWire c b)) ∧
  (∀ (s : State) (c : Fin 384),
    s.fcuClamped c = false → s.fcuCut c = false → c.val < 352 ∨ s.pfrcSource = some c.val →
    exec (.pairFault c) s = .next (s.pairFault c)) ∧
  (∀ (s : State) (m : Master) (c : BitVec 9),
    s.opens m (FCU_ACK) = true → s.fcuMay m = true →
    exec (.fcuAck m c) s = .next (s.fcuAck c.toNat)) ∧
  (∀ (s : State) (c : Fin 384),
    s.timersRun = true → s.pendClass c = 1 → s.fld FCU_TMR_T1 ≠ 0 →
    exec (.s1Late c) s = .next (s.raiseBit FCU_IRQ_S1LATE)) ∧
  (∀ (s : State) (c : Fin 384),
    s.timersRun = true → s.pendClass c = 2 →
    exec (.s2Escalate c) s = .next (s.escalate c)) ∧
  (∀ (s : State),
    exec .s3RecoveryStart s = .next s.recoveryStart ∧
        exec .s3CountAge s = .next s.s3Age ∧
        exec .faultRecordWrite s = .next s.fcuWriteRecord) ∧
  (∀ (s : State) (m : Master) (k : Fin 6) (a : Access) (v : BitVec 64),
    s.opens m (FCU_FRC k) = true → s.fcuMay m = true →
    exec (.fcuForceWrite m k a v) s =
      let w := accMerge a (s.reg (FCU_FRC k)) v
      let js := (List.range 64).map fun j => 64 * k.val + j
      let rise := js.filter fun j => w.toNat.testBit (j - 64 * k.val) && !s.flag (srcBit FCU_FRC_FRC j)
      let off := js.filter fun j => !w.toNat.testBit (j - 64 * k.val) && s.flag (srcBit FCU_FRC_FRC j)
      let t := if rise.any fun j => s.fcuClass j == 4 && m != .zs then s.raiseBit FCU_IRQ_CFG_VIOL else s
      .next (t.forceAll (rise.filter fun j => !(s.fcuClass j == 4 && m != .zs)) off)) ∧
  (∀ (s : State) (m : Master) (a : Access) (v : BitVec 64),
    s.opens m (FCU_PFRC) = true → s.fcuMay m = true → FCU_PFRC_EN.of (accMerge a (s.reg FCU_PFRC) v) ≠ 1 ∨ s.pfrcSource
      = some (FCU_PFRC_SRC.of (accMerge a (s.reg FCU_PFRC) v)) ∨ s.fcuClass (FCU_PFRC_SRC.of (accMerge a (s.reg
      FCU_PFRC) v)) ≠ 4 ∨ m = .zs →
    exec (.fcuPfrcWrite m a v) s =
      let w := accMerge a (s.reg FCU_PFRC) v
      .next (s.pfrcSet (FCU_PFRC_EN.of w) (FCU_PFRC_SRC.of w))) ∧
  (∀ (s : State) (m : Master) (a : Access) (v : BitVec 64),
    s.opens m (FCU_PFRC) = true → s.fcuMay m = true → FCU_PFRC_EN.of (accMerge a (s.reg FCU_PFRC) v) = 1 → s.pfrcSource
      ≠ some (FCU_PFRC_SRC.of (accMerge a (s.reg FCU_PFRC) v)) → s.fcuClass (FCU_PFRC_SRC.of (accMerge a (s.reg
      FCU_PFRC) v)) = 4 → m ≠ .zs →
    exec (.fcuPfrcWrite m a v) s = .next (s.raiseBit FCU_IRQ_CFG_VIOL)) ∧
  (∀ (s : State) (m : Master) (k : Fin 24) (a : Access) (v : BitVec 64),
    s.opens m (FCU_SEV k) = true → s.fcuMay m = true →
    exec (.fcuSevWrite m k a v) s =
      let js := if a = .w64 then List.range 16 else if a = .lo32 then List.range 8 else (List.range 8).map (· + 8)
      .next (s.each js fun j u => u.sevNibble m (16 * k + j) ((FCU_SEV_SEV k j).of (accMerge a (s.reg (FCU_SEV k)) v)))) ∧
  (∀ (s : State) (m : Master) (a : Access) (v : BitVec 64),
    s.opens m (FCU_TMR) = true → s.fcuMay m = true → m = .bsq → s.bsq.running = true →
    exec (.fcuTmrWrite m a v) s =
      let w := accMerge a (s.reg FCU_TMR) v
      .next (((s.put FCU_TMR_T1 (FCU_TMR_T1.of w)).put FCU_TMR_T2 (FCU_TMR_T2.of w)).put FCU_TMR_T3 (FCU_TMR_T3.of w))) ∧
  (∀ (s : State) (m : Master) (a : Access) (v : BitVec 64),
    s.opens m (FCU_TMR) = true → s.fcuMay m = true → s.fcuFree m = false →
    exec (.fcuTmrWrite m a v) s =
      let w := accMerge a (s.reg FCU_TMR) v
      let viol := fun (t : State) => t.raiseBit FCU_IRQ_CFG_VIOL
      let t1 := if s.fld FCU_TMR_T1 ≠ 0 ∧ (FCU_TMR_T1.of w = 0 ∨ s.fld FCU_TMR_T1 < FCU_TMR_T1.of w) then viol s
        else s.put FCU_TMR_T1 (FCU_TMR_T1.of w)
      let t2 := if s.fld FCU_TMR_T2 < FCU_TMR_T2.of w then viol t1 else t1.put FCU_TMR_T2 (FCU_TMR_T2.of w)
      .next (if s.fld FCU_TMR_T3 < FCU_TMR_T3.of w then viol t2 else t2.put FCU_TMR_T3 (FCU_TMR_T3.of w)))

/-- For every command c and state s, a step of s with c at the front of its queue is exec c on s with the queue's rest.
  That commands wait in a queue, first in, first out, is the model's own frame (log entry 2). -/
def Obligations.StepRunsFrontCommand : Prop :=
∀ (c : Instr) (s : State), step { s with pending := c :: s.pending } = exec c s

/-- A step on an empty queue answers a next state: model time advances by one CK_PER cycle, the queue stays empty, and
  nothing that left the device is taken back. That time passes only on an empty queue is the model's choice (log entry
  2). -/
def Obligations.IdleStepIsOneTick : Prop :=
  ∀ s : State, s.pending = [] →
    ∃ t, step s = .next t ∧ t.pending = [] ∧ t.now = s.now + 1 ∧ s.sent <+: t.sent

/-- After reset every register reads its reset value, memory and flash list nothing, no command waits, nothing has been
  sent, and every core is at monitor level with the PSR of R284, not released. The value of a register the specification
  leaves undefined, and of memory nothing has written, is the model's (log entries 1 and 4). -/
def Obligations.ResetHoldsGivenValues : Prop :=
  State.reset.Canon ∧ State.reset.Legal ∧ State.reset.pending = [] ∧ State.reset.sent = [] ∧
  (∀ a, State.reset.reg a = regReset a) ∧ (∀ a, State.reset.byte a = memRest a) ∧ (∀ a, State.reset.flashByte a = 0xFF) ∧
  ∀ e, (State.reset.core e).psr = 0x8000 ∧ (State.reset.core e).level = 2 ∧ (State.reset.core e).released = false

/-- Whatever command waits, and when none does, a step that answers a next state keeps the canonical form: registers,
  memory and external flash list their keys in rising order and no entry equal to what its key reads as unlisted. Of two
  states in that form in which every register, every byte of memory and every byte of flash reads the same, the
  registers, memory and flash are equal data. The form is the model's representation, not the specification's. -/
def Obligations.StepKeepsCanonicalForm : Prop :=
  (∀ s t : State, s.Canon → step s = .next t → t.Canon) ∧
  ∀ s t : State, s.Canon → t.Canon → (∀ a, s.reg a = t.reg a) → (∀ a, s.byte a = t.byte a) →
    (∀ a, s.flashByte a = t.flashByte a) → s.regs = t.regs ∧ s.mem = t.mem ∧ s.flash = t.flash

/-- Whatever command waits, and when none does, a step from a state in which PSR of every core shows user, supervisor or
  monitor level and 0 in its reserved bits 63–48, 31–16 and 9–6 leaves every PSR so: no write of PSR, no ERET, whatever
  ESR holds, and no exception entry reaches the reserved level or a reserved bit. -/
def Obligations.StepKeepsLegalPsr : Prop :=
∀ s t : State, s.Legal → step s = .next t → t.Legal

/-- No command faults or is refused: in every state, exec of every command answers a next state. The commands that wait
  stay as they were, model time stands, what left the device before is not taken back, and no free value is drawn twice.
  The queue, model time and the counter of free values are the model's own (log entries 2 and 3); that a command whose
  precondition does not hold changes nothing is log entry 7. -/
def Obligations.EveryCommandCompletes : Prop :=
  ∀ (c : Instr) (s : State), ∃ t, exec c s = .next t ∧ t.pending = s.pending ∧ t.now = s.now ∧ s.sent <+: t.sent ∧
    s.freeCtr ≤ t.freeCtr

/-- A load into a register with no window open on it: the register reads its old value in the slot and the loaded value
  after it, for one instruction for D and A registers and for two for an accumulator; a slot instruction that writes the
  register does not change what it holds after the window. A branch in a slot closes the window as any other instruction
  does. -/
def Obligations.LoadDelaySlots : Prop :=
  (∀ (c : Core) (i : Fin 32) (v : BitVec 128) (w a : BitVec 64) (n : Nat), c.old (.d i) = none →
    let l := c.landLoad (.d i) v
    l.readD i = c.rawD i ∧ (l.advance n).readD i = v.setWidth 64 ∧ (l.goto a).readD i = v.setWidth 64 ∧
    ((l.writeD i w).advance n).readD i = v.setWidth 64) ∧
  (∀ (c : Core) (i : Fin 16) (v : BitVec 128) (w : BitVec 64) (n : Nat), c.old (.a i) = none →
    let l := c.landLoad (.a i) v
    l.readA i = c.rawA i ∧ (l.advance n).readA i = v.setWidth 64 ∧ ((l.writeA i w).advance n).readA i = v.setWidth 64) ∧
  (∀ (c : Core) (k : Fin 4) (v w : BitVec 128) (n m : Nat), c.old (.ac k) = none →
    let l := c.landLoad (.ac k) v
    l.readAc k = c.rawAc k ∧ (l.advance n).readAc k = c.rawAc k ∧ ((l.advance n).advance m).readAc k = v ∧
    (((l.writeAc k w).advance n).advance m).readAc k = v)

/-- For two packed values of 16 valid digits, DADJ of their binary sum, with the nibble carries of the ADD that formed
  it, gives the result, C and V of DADD. DADJ itself is the loop of R292: nibble i of n plus the carry, 6 more where
  NC[i] is 1 or it is above 9, the low four bits to nibble i and the rest carried; C is the last carry or NC[15]. -/
def Obligations.DecimalAdjustCorrectsSum : Prop :=
  (∀ x y : BitVec 64, digitsOk x.toNat 16 = true → digitsOk y.toNat 16 = true →
    adjust (x + y).toNat (nibbleCarries x y 0) = decSum 16 x.toNat y.toNat) ∧
  ∀ (n : Nat) (nc : BitVec 16), ∃ k : Nat → Nat, k 0 = 0 ∧ ((adjust n nc).c = (k 16 != 0 || nc.getLsbD 15)) ∧
    ∀ i < 16,
      let v := digit n i + k i
      let v := if nc.getLsbD i || 9 < v then v + 6 else v
      digit (adjust n nc).val i = v % 16 ∧ k (i + 1) = v / 16

/-- With k digits, 16 or 32: the sum of valid operands is valid, has the value of the sum modulo 10^k and C says that
  the sum reaches 10^k; the difference has the value of n − m, or of 10^k + n − m with C when n is less than m; a left
  shift multiplies by 10^s modulo 10^k and a right shift divides; converting a binary number below 10^16 to packed and
  back gives it again. -/
def Obligations.DecimalArithmeticByValue : Prop :=
  (∀ k ∈ [16, 32], ∀ x y : Nat, digitsOk x k = true → digitsOk y k = true →
    let n := packedVal x k
    let m := packedVal y k
    (digitsOk (decSum k x y).val k = true ∧ packedVal (decSum k x y).val k = (n + m) % 10 ^ k ∧
      (decSum k x y).c = decide (10 ^ k ≤ n + m)) ∧
    (digitsOk (decDiff k x y).val k = true ∧ packedVal (decDiff k x y).val k = (if n < m then 10 ^ k + n - m else n - m) ∧
      (decDiff k x y).c = decide (n < m)) ∧
    ∀ s, packedVal (decLeft s k x).val k = n * 10 ^ s % 10 ^ k ∧ packedVal (decRight s k x).val k = n / 10 ^ s) ∧
  ∀ n < 10 ^ 16, (toBinary 16 (toPacked 16 n).val).val = n

/-- After an addition with a carry in of 0 or 1: N is the sign of the result, Z says that it is 0, C that the unsigned
  sum reaches 2^64, V that the signed sum is not the result's value, and NC bit i that a carry leaves nibble i. After a
  subtraction with a borrow C is the borrow and V says that the signed difference is not the result's value; NC is left.
  Level, EXL, IE, DTRAP and SATM stay. -/
def Obligations.ArithmeticFlagsByValue : Prop :=
  ∀ (c : Core) (x y : BitVec 64) (b : Bool),
    (let r := c.addFlags x y b.toNat
     r.2 = x + y + BitVec.ofNat 64 b.toNat ∧ r.1.flagN = r.2.msb ∧ r.1.flagZ = decide (r.2 = 0) ∧
     r.1.flagC = decide (2 ^ 64 ≤ x.toNat + y.toNat + b.toNat) ∧
     r.1.flagV = decide (r.2.toInt ≠ x.toInt + y.toInt + b.toNat) ∧
     (∀ i < 16, r.1.nc.getLsbD i =
       decide (16 ^ (i + 1) ≤ x.toNat % 16 ^ (i + 1) + y.toNat % 16 ^ (i + 1) + b.toNat)) ∧
     r.1.level = c.level ∧ r.1.exl = c.exl ∧ r.1.ie = c.ie ∧ r.1.dtrap = c.dtrap ∧ r.1.satm = c.satm) ∧
    let r := c.subFlags x y b.toNat
    r.2 = x - y - BitVec.ofNat 64 b.toNat ∧ r.1.flagN = r.2.msb ∧ r.1.flagZ = decide (r.2 = 0) ∧
    r.1.flagC = decide (x.toNat < y.toNat + b.toNat) ∧
    r.1.flagV = decide (r.2.toInt ≠ x.toInt - y.toInt - b.toNat) ∧ r.1.nc = c.nc ∧
    r.1.level = c.level ∧ r.1.exl = c.exl ∧ r.1.ie = c.ie ∧ r.1.dtrap = c.dtrap ∧ r.1.satm = c.satm

/-- Entry to supervisor or monitor level saves PSR, the program counter, the cause, the address and the open windows,
  sets LEVEL to the level, EXL to 1 and IE to 0, and goes on at VBAR plus 0x100 times the vector; an exception that does
  not halt is such an entry, and one bound for supervisor while EXL is 1 there enters monitor level as MACHINE_CHECK
  with detail 0x10. An exception at monitor level while EXL is 1 halts the core of endpoint e and raises FS242 + (e −
  1), and a halted core executes and fetches nothing. ERET at the level restores PSR, the windows and the program
  counter; ERET at user level raises PRIVILEGE. -/
def Obligations.ExceptionEntryAndReturn : Prop :=
  (∀ (c : Core) (lvl vec d : Nat) (eva : BitVec 64), (lvl = 1 ∨ lvl = 2) → c.level ≤ 2 →
    let x := c.enter lvl vec d eva
    let r := x.exc lvl
    r.esr = c.psr ∧ r.epc = c.pc ∧ r.ecause = BitVec.ofNat 64 (d * 256 + vec) ∧ r.eva = eva ∧ r.windows = c.windows ∧
    r.vbar = (c.exc lvl).vbar ∧ x.level = lvl ∧ x.exl = true ∧ x.ie = false ∧
    x.pc = (c.exc lvl).vbar + BitVec.ofNat 64 (0x100 * vec) ∧
    x.eret.psr = c.psr ∧ x.eret.windows = c.windows ∧ x.eret.pc = c.pc) ∧
  (∀ (s : State) (e vec d a : Nat) (c : Core), ¬ (c.level = 2 ∧ c.exl = true) →
    (s.takeExc e c vec d (some a)).core e =
      if c.level = 1 ∧ c.exl = true ∧ vec ≠ 10 ∧ vec ≠ 11 then c.enter 2 11 0x10 (BitVec.ofNat 64 a)
      else c.enter (max (if vec = 10 ∨ vec = 11 then 2 else 1) c.level) vec d (BitVec.ofNat 64 a)) ∧
  (∀ (s : State) (e vec d : Nat) (a : Option Nat) (c : Core), c.level = 2 → c.exl = true →
    s.takeExc (e + 1) c vec d a =
      (s.setCore (e + 1) { c with halted := true, windows := [], wait := none }).raiseL (242 + e)) ∧
  (∀ (s : State) (e : Nat), (s.core e).halted = true → s.executes e = false ∧ ∀ r t n, runEp r = e → ¬ s.fetches r n t) ∧
  ∀ (s t : State) (r : CoreRun), s.fetches r 4 t →
    ((t.ran r).level = 0 → exec (.eret r) s = .next (t.takeExc (runEp r) (t.ran r) vPrivilege 0 none)) ∧
    ((t.ran r).level ≠ 0 → exec (.eret r) s = .next (t.setCore (runEp r) (t.ran r).eret))

/-- For RCLR, the four DCLR fields and MRST: a write of 1 by a master other than the nonzero owner is ignored and sets
  the block's CFG_VIOL; one by the owner, or by any master while the owner field is 0, has the field's effect. For a
  ganged valve channel the owner is the lead's. The bootstrap sequencer is not such a master. -/
def Obligations.OwnerOnlyFieldsIgnoreOthers : Prop :=
  (∀ (s : State) (m : Master) (n : Fin 64), m ≠ .bsq → s.opens m (HSW_CFG n) = true →
    (s.fld (HSW_CFG_OWNER n) ≠ 0 ∧ s.fld (HSW_CFG_OWNER n) ≠ m.num → exec (.rclr m n) s = .next (s.raiseBit
      HSW_IRQ_CFG_VIOL)) ∧
    (s.fld (HSW_CFG_OWNER n) = 0 ∨ s.fld (HSW_CFG_OWNER n) = m.num →
      exec (.rclr m n) s = .next ((s.put (HSW_STAT_RETRY_CNT n) 0).putB (HSW_STAT_EXHAUST n) false))) ∧
  (∀ (s : State) (m : Master) (n : Fin 64), m ≠ .bsq → s.opens m (HSW_CFG n) = true →
    (s.fld (HSW_CFG_OWNER n) ≠ 0 ∧ s.fld (HSW_CFG_OWNER n) ≠ m.num → exec (.hswDclr m n) s = .next (s.raiseBit
      HSW_IRQ_CFG_VIOL)) ∧
    (s.fld (HSW_CFG_OWNER n) = 0 ∨ s.fld (HSW_CFG_OWNER n) = m.num →
      exec (.hswDclr m n) s = .next (((s.put (HSW_DSTAT_DSTATE n) 0).put (HSW_DSTAT_EVKIND n) 0).put (HSW_DSTAT_EVID n)
        0))) ∧
  (∀ (s : State) (m : Master) (n : Fin 24), m ≠ .bsq → s.opens m (VLV_STAT n) = true →
    (s.fld (VLV_CFG_OWNER (s.vlvLead n)) ≠ 0 ∧ s.fld (VLV_CFG_OWNER (s.vlvLead n)) ≠ m.num → exec (.vlvDclr m n) s =
      .next (s.raiseBit VLV_IRQ_CFG_VIOL)) ∧
    (s.fld (VLV_CFG_OWNER (s.vlvLead n)) = 0 ∨ s.fld (VLV_CFG_OWNER (s.vlvLead n)) = m.num →
      exec (.vlvDclr m n) s = .next (s.put (VLV_DIAG_DSTATE (s.vlvLead n)) 0))) ∧
  (∀ (s : State) (m : Master) (n : Fin 48), m ≠ .bsq → s.opens m (LED_STAT n) = true →
    (s.fld (LED_CFG_OWNER n) ≠ 0 ∧ s.fld (LED_CFG_OWNER n) ≠ m.num → exec (.ledDclr m n) s = .next (s.raiseBit
      LED_IRQ_CFG_VIOL)) ∧
    (s.fld (LED_CFG_OWNER n) = 0 ∨ s.fld (LED_CFG_OWNER n) = m.num →
      exec (.ledDclr m n) s = .next (((s.put (LED_DIAG_DSTATE n) 0).put (LED_DIAG_EVKIND n) 0).put (LED_DIAG_EVID n) 0))) ∧
  (∀ (s : State) (m : Master) (n : Fin 16), m ≠ .bsq → s.opens m (DOUT_CFG n) = true →
    (s.fld (DOUT_CFG_OWNER n) ≠ 0 ∧ s.fld (DOUT_CFG_OWNER n) ≠ m.num → exec (.doutDclr m n) s = .next (s.raiseBit
      DOUT_IRQ_CFG_VIOL)) ∧
    (s.fld (DOUT_CFG_OWNER n) = 0 ∨ s.fld (DOUT_CFG_OWNER n) = m.num →
      exec (.doutDclr m n) s = .next (s.put (DOUT_STAT_DSTATE n) 0))) ∧
  ∀ (s : State) (m : Master), m ≠ .bsq → s.opens m LED_MSTAT = true →
    (s.fld LED_MCFG_OWNER ≠ 0 ∧ s.fld LED_MCFG_OWNER ≠ m.num → exec (.mrst m) s = .next (s.raiseBit LED_IRQ_CFG_VIOL)) ∧
    (s.fld LED_MCFG_OWNER = 0 ∨ s.fld LED_MCFG_OWNER = m.num →
      exec (.mrst m) s = .next
        ({ ((((s.putB LED_MSTAT_MSTOP false).put LED_MSTAT_LOC 0).put LED_MSTAT_LINE 0).each (List.range 3)
        fun k t => t.put (LED_MOPEN_OPEN k) 0) with led := { s.led with columns := [], lowPoints := [] } }))

/-- A write to a lock register by the lock's owner frees the lock and no other, whatever value it writes; a write by any
  other endpoint leaves every lock as it is and sets ACCESS_VIOL, whichever half it writes. -/
def Obligations.LockReleaseRule : Prop :=
  ∀ (s : State) (m : Master) (k : Fin 32) (v : BitVec 64), s.opens m (LK k) = true → s.masterOn m = true →
    (s.epOf m ≠ 0 → (s.lk k).owner = s.epOf m →
      ∃ t, exec (.lockRelease m k) s = .next t ∧ exec (.registerWrite m (BitVec.ofNat 40 (LK k)) .w64 v) s = .next t ∧
        (t.lk k).owner = 0 ∧ (∀ j, j ≠ k.val → t.lk j = s.lk j) ∧ ∀ a, t.reg a = s.reg a) ∧
    ((s.lk k).owner ≠ s.epOf m →
      ∃ t, exec (.lockRelease m k) s = .next t ∧
        (∀ x : Access, exec (.registerWrite m (BitVec.ofNat 40 (LK k)) x v) s = .next t) ∧
        t.flag MBX_IRQ_ACCESS_VIOL = true ∧ ∀ j, t.lk j = s.lk j)

/-- A read of RXQ by a side that is not held, of all of it or of its low half, returns the oldest unread word toward the
  side and marks that word read, leaving the other words, the other queues and every register as they were; when no word
  is unread it returns 0 and changes nothing of the mailboxes. -/
def Obligations.MailboxReadTakesOldestUnread : Prop :=
  ∀ (s : State) (m : Master) (b : Fin 16) (k : Nat) (x : Access), s.opens m (MBX_RXQ b) = true →
    s.mbxSide? b (s.epOf m) = some k → (s.side b k).holdRx = none → x ≠ .hi32 →
    (∀ (l r : List MboxWord) (w : MboxWord), (s.side b (1 - k)).queue = l ++ w :: r → (∀ y ∈ l, y.read = true) → w.read
      = false →
      ∃ t, exec (.mbxRxqRead m b x) s = .next t ∧ t.reply = some (accTake x w.word, false) ∧
        (t.side b (1 - k)).queue = l ++ { w with read := true } :: r ∧
        (∀ a j, a * 2 + j ≠ b.val * 2 + (1 - k) → t.side a j = s.side a j) ∧ t.regs = s.regs) ∧
    ((∀ y ∈ (s.side b (1 - k)).queue, y.read = true) →
      ∃ t, exec (.mbxRxqRead m b x) s = .next t ∧ t.reply = some (0, false) ∧ t.mbx = s.mbx ∧ t.regs = s.regs)

/-- A low-half read of a split register answers the low half and keeps the high half of the same value for that master;
  that master's high-half read answers the shadow whatever the register has become, and changes no shadow; another
  master or register is not affected, and a master with no shadow reads the live high half. -/
def Obligations.SplitReadShadows : Prop :=
  ∀ (s u : State) (m n : Master) (a b : Nat) (v w : BitVec 64),
    let t := s.splitRead m a .lo32 v
    t.reply = some (BitVec.ofNat 64 (v.toNat % 2 ^ 32), false) ∧
    (u.readShadow = t.readShadow →
      (u.splitRead m a .hi32 w).reply = some (BitVec.ofNat 64 (v.toNat / 2 ^ 32), false) ∧
      (u.splitRead m a .hi32 w).readShadow = u.readShadow) ∧
    (n ≠ m ∨ b ≠ a → tget none t.readShadow (shadowKey n b) = tget none s.readShadow (shadowKey n b)) ∧
    (tget none s.readShadow (shadowKey m a) = none →
      (s.splitRead m a .hi32 w).reply = some (BitVec.ofNat 64 (w.toNat / 2 ^ 32), false))

/-- Beside the windows and the program counter, a data instruction without flags changes of its core only Dd, ADD, ADDC
  and ADDI beside it N, Z, C, V and NC, SUB, SUBC and SUBI N, Z, C and V, and CMP, CMPI and CMPA those four flags alone;
  an address instruction changes only Ad, or for A15 the SP of the present level; an accumulator instruction on a core
  other than ZK only ACd and Q. None of them changes another core, a register of a block, memory, flash or the
  mailboxes. Which flags an instruction leaves is read by inference from the spec's silence (log entry 19, DEDUCED). -/
def Obligations.CoreInstructionFrame : Prop :=
  ∀ (s t u : State) (r : CoreRun) (d n m : Fin 32) (v : BitVec 16) (a b : Fin 16) (x : AddrSrc) (k : ShiftKind) (q : Fin 4)
    (z : Bool) (g : Fin 64) (w : Fin 65) (h : Fin 128), s.fetches r 4 t →
    let e := runEp r
    let c := t.core e
    let c' := u.core e
    let outside := (∀ j, j ≠ e → u.core j = t.core j) ∧ u.regs = t.regs ∧ (∀ y, u.byte y = t.byte y) ∧
      (∀ y, u.flashByte y = t.flashByte y) ∧ u.mbx = t.mbx
    let special := c'.excS = c.excS ∧ c'.excM = c.excM ∧ c'.ptbr = c.ptbr ∧ c'.asid = c.asid ∧ c'.icCur = c.icCur ∧
      c'.icStack = c.icStack ∧ c'.icEn = c.icEn ∧ c'.icPri = c.icPri ∧ c'.tlb = c.tlb ∧
      c'.released = c.released ∧ c'.halted = c.halted ∧ c'.stopped = c.stopped ∧ c'.wait = c.wait
    let keeps := fun mask : BitVec 64 => c'.psr &&& ~~~ mask = c.psr &&& ~~~ mask
    (∀ i ∈ [Instr.and r d n m, .or r d n m, .xor r d n m, .andn r d n m, .shift r k d n m, .rotate r z d n m,
        .bitFieldExtract r d n g w z, .bitFieldInsert r d n g w, .clz r d n, .popc r d n, .min r d n m, .max r d n m,
          .mov r d n,
        .andi r d n v, .ori r d n v, .xori r d n v, .shiftImmediate r k d n g, .movi r d v, .mul r d n m, .mulh r d n m,
        .mulhu r d n m, .movd r d a], exec i s = .next u →
      outside ∧ special ∧ c'.psr = c.psr ∧ (∀ j, j ≠ d → c'.rawD j = c.rawD j) ∧ c'.a = c.a ∧ c'.sp = c.sp ∧ c'.ac = c.ac) ∧
    (∀ i ∈ [Instr.add r d n m, .addc r d n m, .addi r d n v], exec i s = .next u →
      outside ∧ special ∧ keeps 0x0000FFFF0000000F ∧ (∀ j, j ≠ d → c'.rawD j = c.rawD j) ∧ c'.a = c.a ∧ c'.sp = c.sp ∧
        c'.ac = c.ac) ∧
    (∀ i ∈ [Instr.sub r d n m, .subc r d n m, .subi r d n v], exec i s = .next u →
      outside ∧ special ∧ keeps 0xF ∧ (∀ j, j ≠ d → c'.rawD j = c.rawD j) ∧ c'.a = c.a ∧ c'.sp = c.sp ∧ c'.ac = c.ac) ∧
    (∀ i ∈ [Instr.cmp r n m, .cmpi r n v, .cmpa r a b], exec i s = .next u →
      outside ∧ special ∧ keeps 0xF ∧ c'.d = c.d ∧ c'.a = c.a ∧ c'.sp = c.sp ∧ c'.ac = c.ac) ∧
    (∀ i ∈ [Instr.adda r a b x, .suba r a b x, .lea r a b n q v, .mova r a n], exec i s = .next u →
      outside ∧ special ∧ c'.psr = c.psr ∧ (∀ j, j ≠ a → j ≠ 15 → c'.rawA j = c.rawA j) ∧ (a ≠ 15 → c'.sp = c.sp) ∧
      (∀ l, l ≠ c.level → tget 0 c'.sp l = tget 0 c.sp l) ∧
      c'.d = c.d ∧ c'.ac = c.ac) ∧
    (r.core ≠ 5 → ∀ i ∈ [Instr.mac r q n m, .msu r q n m, .mulac r q n m, .sat r q, .rnd r q h, .ashr r q h, .mvdac r q n m,
        .clrac r q], exec i s = .next u →
      outside ∧ special ∧ keeps 0x10 ∧ (∀ j, j ≠ q → c'.rawAc j = c.rawAc j) ∧ c'.d = c.d ∧ c'.a = c.a ∧ c'.sp = c.sp)

/-- A store by a core that is aligned, translates to an SRAM address p it may write, and finds good ECC: the stored
  bytes read back as the low bytes of its register, the first least significant; every other byte, the flash, the block
  registers, the other cores and the core's own registers stay, and its program counter is 4 further. -/
def Obligations.StoreWritesItsBytesOnly : Prop :=
  ∀ (s t u v : State) (r : CoreRun) (x : GenReg) (w : MemWidth) (a : MemAddr) (p : Nat), s.fetches r 4 t →
    let e := runEp r
    ((t.ran r).memAddr a) % widthBytes w = 0 → t.translate e ((t.ran r).memAddr a) .write r.walk = (u, .phys p) →
      u.pstate ≤ 1 →
    region p = .sram → u.memAllowed (epMaster e) p .write = true → exec (.store r x w a .good) s = .next v →
    (∀ i < widthBytes w, v.byte (p + i) = BitVec.ofNat 8 (((t.ran r).readGen x).toNat / 2 ^ (8 * i))) ∧
    (∀ y, (y < p ∨ p + widthBytes w ≤ y) → v.byte y = u.byte y) ∧
    (∀ y, v.flashByte y = u.flashByte y) ∧ v.regs = u.regs ∧ v.mbx = u.mbx ∧ (∀ j, j ≠ e → v.core j = u.core j) ∧
    v.core e = (u.core e).advance 4

/-- A write under a block's rule changes a register bit by bit: where the access does not reach, or the bit is neither
  RW nor W1C, it stays; a W1C bit is cleared by a 1 and stays with a 0; an RW bit takes the written bit when the rule
  allows the write. No other register changes but the one that flags an ignored write. That such a rule bars the RW bits
  alone and leaves the W1C bits to any master is the model's reading (log entry 61, DEDUCED). -/
def Obligations.WritesFollowAccessCodes : Prop :=
  ∀ (s : State) (a : Nat) (acc : Access) (v : BitVec 64) (ok : Bool) (f : Fld) (r : RegInfo), regInfo? a = some r →
    f.addr ≠ a → r.rw &&& r.w1c = 0 →
    let t := s.ruledWrite a acc v ok (some f)
    let reached := fun i : Nat => match acc with | .w64 => i < 64 | .lo32 => i < 32 | .hi32 => 32 ≤ i ∧ i < 64
    let bit := fun i : Nat => match acc with | .hi32 => v.getLsbD (i - 32) | _ => v.getLsbD i
    (∀ i < 64, ¬ reached i → (t.reg a).getLsbD i = (s.reg a).getLsbD i) ∧
    (∀ i < 64, r.rw.testBit i = false → r.w1c.testBit i = false → (t.reg a).getLsbD i = (s.reg a).getLsbD i) ∧
    (∀ i < 64, reached i → r.rw.testBit i = true → (t.reg a).getLsbD i = if ok then bit i else (s.reg a).getLsbD i) ∧
    (∀ i < 64, reached i → r.w1c.testBit i = true → (t.reg a).getLsbD i = ((s.reg a).getLsbD i && !bit i)) ∧
    ∀ b, b ≠ a → b ≠ f.addr → t.reg b = s.reg b

/-- With the sequencer's free phase over, a write of FCU_SEVk by any master, of any value and part, leaves every source
  at a class at least as high as before; a nibble above S4 is not taken. -/
def Obligations.SeverityNeverLowered : Prop :=
  ∀ (s t : State) (m : Master) (k : Fin 24) (a : Access) (v : BitVec 64), s.fcuFree m = false → exec (.fcuSevWrite m k a
    v) s = .next t →
    ∀ j < 384, s.fcuClass j ≤ t.fcuClass j ∧ t.fcuClass j ≤ max 4 (s.fcuClass j)

/-- The source that is served is pending and enabled with a priority above IC_CUR, none such has a higher priority, and
  of equal ones it has the lowest number; when none is served, none qualifies. A read of IC_ACK answers it, with IC_CUR
  pushed while the stack has room, or 0x1FF. -/
def Obligations.InterruptSourceChosen : Prop :=
  ∀ (s : State) (e : Nat),
    let c := s.core e
    let ok := fun j => j < 135 ∧ c.enabled j = true ∧ c.icCur < c.priority j ∧ s.irqAsserted e j = true
    (∀ j, s.icNext e = some j → ok j ∧ ∀ i, ok i → c.priority i < c.priority j ∨ (c.priority i = c.priority j ∧ j ≤ i)) ∧
    (s.icNext e = none → (∀ i, ¬ ok i) ∧ s.icAck e = (s, 0x1FF)) ∧
    (∀ j, s.icNext e = some j → c.icStack.length < 15 →
      s.icAck e = (s.setCore e { c with icStack := c.icCur :: c.icStack, icCur := c.priority j }, j))

/-- At user and supervisor level, an access that translates with no cached entry has a virtual address of 40 bits, and
  the second-level entry of its page, found in SRAM, is valid, permits the access, permits user access when the level is
  user, has no reserved bit set, and gives the physical page. At monitor level an address is physical. -/
def Obligations.TranslationGrantsOnlyPermitted : Prop :=
  ∀ (s t : State) (e va p : Nat) (k : AccKind) (q : MemErr), s.translate e va k q = (t, .phys p) →
    ((s.core e).level = 2 → p = va ∧ t = s) ∧
    ((s.core e).level ≠ 2 → (s.core e).cached (va / 2 ^ 16) = none →
      va < 2 ^ 40 ∧ ∃ pte, s.walk (s.core e) va = some pte ∧ pte.getLsbD 0 = true ∧
        (k = .read → pte.getLsbD 1 = true) ∧ (k = .write → pte.getLsbD 2 = true) ∧
        (k = .fetch → pte.getLsbD 3 = true ∧ bvField pte 6 2 ≠ 2) ∧ ((s.core e).level = 0 → pte.getLsbD 4 = true) ∧
        bvField pte 6 2 ≠ 3 ∧ bvField pte 40 24 = 0 ∧ bvField pte 8 8 = 0 ∧
        p = bvField pte 16 24 * 2 ^ 16 + va % 2 ^ 16)

/-- Each of these events of the high-side, valve and lighting blocks leaves memory, flash, the cores, the mailboxes and
  every register outside its own block unchanged. -/
def Obligations.OutputEventFrame : Prop :=
  ∀ (s t : State) (n : Fin 64) (c : Fin 24) (l : Fin 48) (b : Fin 4) (v : BitVec 16),
    ∀ i ∈ [(Instr.ocBlankEnd n, 0x4001), (.tclr n, 0x4001), (.ambStale b, 0x4001), (.offdiagStart n, 0x4001),
        (.diagStretch n, 0x4001), (.vbstOvRecover v, 0x4002), (.vbstOvervoltage v, 0x4002), (.vbstUndervoltage v, 0x4002),
        (.peakEnd c, 0x4002), (.clampEnergyLimit c, 0x4002), (.valveReleaseDone c, 0x4002), (.vledOvervoltage v, 0x4003),
        (.vledOvRecover v, 0x4003), (.vledUndervoltage v, 0x4003), (.vledOvercurrent, 0x4003), (.fadeStep l, 0x4003)],
      exec i.1 s = .next t →
      t.mem = s.mem ∧ t.flash = s.flash ∧ t.cpu = s.cpu ∧ t.mbx = s.mbx ∧ ∀ a, a / 0x10000 ≠ i.2 → t.reg a = s.reg a
end

