-- ==== Sys2Proof/Laws/Tab.lean ====
section
/-!
SUPPORT. What the sparse tables do: a read after a write, and the canonical form every write and filter keeps.
-/

namespace Sys2Proof.Machine

variable {β : Type}

theorem tget_terase (d : β) (t : Tab β) (a b : Nat) :
    tget d (terase t a) b = if b = a then d else tget d t b := by
  induction t with
  | nil => simp [terase, tget]
  | cons e t ih =>
    obtain ⟨k, v⟩ := e
    by_cases hk : k = a
    · subst hk
      simp only [terase, if_true, ih, tget]
      by_cases h : b = k
      · simp [h]
      · simp [h, Ne.symm h]
    · simp only [terase, hk, if_false, tget, ih]
      by_cases h : k = b
      · subst h; simp [hk]
      · simp [h]

theorem mem_terase {t : Tab β} {a : Nat} {e : Nat × β} : e ∈ terase t a ↔ e ∈ t ∧ e.1 ≠ a := by
  induction t with
  | nil => simp [terase]
  | cons f t ih =>
    obtain ⟨k, v⟩ := f
    by_cases hk : k = a
    · simp only [terase, hk, if_true, ih, List.mem_cons]
      constructor
      · exact fun h => ⟨.inr h.1, h.2⟩
      · rintro ⟨h | h, hn⟩
        · exact absurd (congrArg Prod.fst h) hn
        · exact ⟨h, hn⟩
    · simp only [terase, hk, if_false, ih, List.mem_cons]
      constructor
      · rintro (h | h)
        · subst h; exact ⟨.inl rfl, hk⟩
        · exact ⟨.inr h.1, h.2⟩
      · rintro ⟨h | h, hn⟩
        · exact .inl h
        · exact .inr ⟨h, hn⟩

theorem tget_tinsert (d : β) (t : Tab β) (a : Nat) (v : β) (b : Nat) (h : ∀ e ∈ t, e.1 ≠ a) :
    tget d (tinsert t a v) b = if b = a then v else tget d t b := by
  induction t with
  | nil => simp [tinsert, tget, eq_comm]
  | cons e t ih =>
    obtain ⟨k, w⟩ := e
    have hka : k ≠ a := h _ (List.mem_cons_self ..)
    have ih := ih fun e he => h e (List.mem_cons_of_mem _ he)
    by_cases hk : a < k
    · simp only [tinsert, hk, if_true, tget]
      by_cases hb : a = b
      · simp [hb]
      · simp [hb, Ne.symm hb]
    · simp only [tinsert, hk, if_false, tget, ih]
      by_cases hb : k = b
      · subst hb; simp [hka]
      · simp [hb]

/-- A read of a table after a write of one key. -/
theorem tget_tset [DecidableEq β] (d : β) (t : Tab β) (a : Nat) (v : β) (b : Nat) :
    tget d (tset d t a v) b = if b = a then v else tget d t b := by
  unfold tset
  split
  · subst_vars; exact tget_terase ..
  · rw [tget_tinsert _ _ _ _ _ fun e he => (mem_terase.1 he).2, tget_terase]
    by_cases h : b = a <;> simp [h]

/-- A key that was written reads what was written. -/
@[simp] theorem tget_tset_self [DecidableEq β] (d : β) (t : Tab β) (a : Nat) (v : β) :
    tget d (tset d t a v) a = v := by simp [tget_tset]

/-- A key that was not written reads as before, whatever its unlisted value. -/
theorem tget_tset_ne [DecidableEq β] (d e : β) (t : Tab β) {a b : Nat} (v : β) (h : b ≠ a) :
    tget d (tset e t a v) b = tget d t b := by
  unfold tset
  split
  · rw [tget_terase, if_neg h]
  · rw [tget_tinsert _ _ _ _ _ fun e he => (mem_terase.1 he).2, if_neg h, tget_terase, if_neg h]

/-! The canonical form. -/

theorem trising_none {t : Tab β} (l : Option Nat) (h : trising l t = true) : trising none t = true := by
  cases l with
  | none => exact h
  | some l =>
    cases t with
    | nil => rfl
    | cons e t => obtain ⟨k, v⟩ := e; simp only [trising, Bool.and_eq_true] at h ⊢; exact h.2

theorem trising_some {t : Tab β} {l : Nat} :
    trising (some l) t = true ↔ trising none t = true ∧ ∀ e ∈ t, l < e.1 := by
  induction t generalizing l with
  | nil => simp [trising]
  | cons e t ih =>
    obtain ⟨k, v⟩ := e
    simp only [trising, Bool.and_eq_true, decide_eq_true_eq, List.mem_cons, forall_eq_or_imp]
    constructor
    · rintro ⟨h1, h2⟩
      exact ⟨h2, h1, fun e he => Nat.lt_trans h1 ((ih.1 h2).2 e he)⟩
    · exact fun h => ⟨h.2.1, h.1⟩

theorem trising_filter {t : Tab β} (p : Nat × β → Bool) (h : trising none t = true) :
    trising none (t.filter p) = true := by
  induction t with
  | nil => simpa using h
  | cons e t ih =>
    obtain ⟨k, v⟩ := e
    have h2 := trising_some.1 (show trising (some k) t = true from h)
    rw [List.filter_cons]
    split
    · show trising (some k) _ = true
      exact trising_some.2 ⟨ih h2.1, fun e he => h2.2 e (List.mem_filter.1 he).1⟩
    · exact ih h2.1

theorem terase_eq_filter (t : Tab β) (a : Nat) : terase t a = t.filter fun e => e.1 != a := by
  induction t with
  | nil => rfl
  | cons e t ih =>
    obtain ⟨k, v⟩ := e
    by_cases h : k = a <;> simp [terase, h, ih]

theorem mem_tinsert {t : Tab β} {a : Nat} {v : β} {e : Nat × β} : e ∈ tinsert t a v ↔ e = (a, v) ∨ e ∈ t := by
  induction t with
  | nil => simp [tinsert]
  | cons f t ih =>
    obtain ⟨k, w⟩ := f
    unfold tinsert
    split
    · simp
    · simp only [List.mem_cons, ih]; tauto

theorem trising_tinsert {t : Tab β} {a : Nat} {v : β} (h : trising none t = true) (ha : ∀ e ∈ t, e.1 ≠ a) :
    trising none (tinsert t a v) = true := by
  induction t with
  | nil => rfl
  | cons e t ih =>
    obtain ⟨k, w⟩ := e
    have h2 := trising_some.1 (show trising (some k) t = true from h)
    have hk : k ≠ a := ha _ (List.mem_cons_self ..)
    have ih := ih h2.1 fun e he => ha e (List.mem_cons_of_mem _ he)
    unfold tinsert
    split
    · rename_i hlt
      show trising (some a) _ = true
      refine trising_some.2 ⟨h, fun e he => ?_⟩
      rcases List.mem_cons.1 he with rfl | he
      · exact hlt
      · exact Nat.lt_trans hlt (h2.2 e he)
    · rename_i hlt
      show trising (some k) _ = true
      refine trising_some.2 ⟨ih, fun e he => ?_⟩
      rcases mem_tinsert.1 he with rfl | he
      · exact Nat.lt_of_le_of_ne (Nat.le_of_not_lt hlt) hk
      · exact h2.2 e he

variable [DecidableEq β] {d : Nat → β} {t : Tab β}

/-- A filter of a canonical table is canonical. -/
theorem twf_filter (p : Nat × β → Bool) (h : twf d t = true) : twf d (t.filter p) = true := by
  simp only [twf, Bool.and_eq_true, List.all_eq_true, bne_iff_ne] at h ⊢
  exact ⟨trising_filter p h.1, fun e he => h.2 e (List.mem_filter.1 he).1⟩

/-- A write keeps the canonical form. -/
theorem twf_tset (a : Nat) (v : β) (h : twf d t = true) : twf d (tset (d a) t a v) = true := by
  have he : twf d (terase t a) = true := by rw [terase_eq_filter]; exact twf_filter _ h
  unfold tset
  split
  · exact he
  · rename_i hv
    simp only [twf, Bool.and_eq_true, List.all_eq_true, bne_iff_ne] at he ⊢
    refine ⟨trising_tinsert he.1 fun e h => (mem_terase.1 h).2, fun e h => ?_⟩
    rcases mem_tinsert.1 h with rfl | h
    · exact hv
    · exact he.2 e h

theorem twf_nil : twf d ([] : Tab β) = true := rfl

end Sys2Proof.Machine
end

