-- ==== Sys2Proof/Laws/Fields.lean ====
section
/-!
SUPPORT. What reading a register or a field answers after one was written.
-/

namespace Sys2Proof.Machine

/-- A register that was written reads what was written. -/
@[simp] theorem reg_setReg (s : State) (a : Nat) (v : BitVec 64) : (s.setReg a v).reg a = v := tget_tset_self ..

/-- Another register reads as before. -/
theorem reg_setReg_ne (s : State) {a b : Nat} (v : BitVec 64) (h : b ≠ a) : (s.setReg a v).reg b = s.reg b :=
  tget_tset_ne (regReset b) (regReset a) s.regs v h

theorem Fld.of_eq (f : Fld) (v : BitVec 64) (i : Nat) :
    (f.of v).testBit i = (decide (i < f.width) && v.getLsbD (f.lo + i)) := by
  simp [Fld.of, Nat.testBit_mod_two_pow, Nat.testBit_shiftRight, BitVec.testBit_toNat]

theorem Fld.mask_getLsbD (f : Fld) (i : Nat) (hi : i < 64) :
    f.mask.getLsbD i = (decide (f.lo ≤ i) && decide (i < f.lo + f.width)) := by
  simp only [Fld.mask, BitVec.getLsbD_ofNat, hi, decide_true, Bool.true_and, Nat.testBit_shiftLeft, Nat.testBit_two_pow_sub_one]
  by_cases h : f.lo ≤ i
  · have : (i - f.lo < f.width) ↔ i < f.lo + f.width := by omega
    simp [h, this]
  · simp [h]

theorem Fld.into_getLsbD (f : Fld) (v : BitVec 64) (x i : Nat) (hi : i < 64) :
    (f.into v x).getLsbD i =
      if f.lo ≤ i ∧ i < f.lo + f.width then x.testBit (i - f.lo) else v.getLsbD i := by
  simp only [Fld.into, BitVec.getLsbD_or, BitVec.getLsbD_and, BitVec.getLsbD_not, hi, decide_true, Bool.true_and,
    f.mask_getLsbD i hi, BitVec.getLsbD_ofNat, Nat.testBit_shiftLeft, Nat.testBit_mod_two_pow]
  by_cases h1 : f.lo ≤ i <;> by_cases h2 : i < f.lo + f.width
  · have : i - f.lo < f.width := by omega
    simp [h1, h2, this]
  · have : ¬ i - f.lo < f.width := by omega
    simp [h1, h2, this]
  · simp [h1, h2]
  · simp [h1, h2]

/-- A field inside the register reads what was put into it, modulo its width. -/
theorem Fld.of_into (f : Fld) (v : BitVec 64) (x : Nat) (h : f.lo + f.width ≤ 64) : f.of (f.into v x) = x % 2 ^ f.width := by
  apply Nat.eq_of_testBit_eq
  intro i
  rw [Fld.of_eq, Nat.testBit_mod_two_pow]
  by_cases hi : i < f.width
  · rw [Fld.into_getLsbD _ _ _ _ (by omega), if_pos (by omega)]
    simp [hi]
  · simp [hi]

/-- A field that shares no bit reads as before. -/
theorem Fld.of_into_ne (f g : Fld) (v : BitVec 64) (x : Nat) (h : f.lo + f.width ≤ g.lo ∨ g.lo + g.width ≤ f.lo)
    (hg : g.lo + g.width ≤ 64) : g.of (f.into v x) = g.of v := by
  apply Nat.eq_of_testBit_eq
  intro i
  rw [Fld.of_eq, Fld.of_eq]
  by_cases hi : i < g.width
  · rw [Fld.into_getLsbD _ _ _ _ (by omega), if_neg (by omega)]
  · simp [hi]

/-- The field that was put reads what was put, modulo its width. -/
theorem fld_put (s : State) (f : Fld) (x : Nat) (h : f.lo + f.width ≤ 64) : (s.put f x).fld f = x % 2 ^ f.width := by
  simp [State.fld, State.put, f.of_into _ _ h]

/-- A field of another register reads as before. -/
theorem fld_put_addr (s : State) (f g : Fld) (x : Nat) (h : g.addr ≠ f.addr) : (s.put f x).fld g = s.fld g := by
  simp [State.fld, State.put, reg_setReg_ne _ _ h]

/-- A field that shares no bit of the same register reads as before. -/
theorem fld_put_bits (s : State) (f g : Fld) (x : Nat) (h : f.lo + f.width ≤ g.lo ∨ g.lo + g.width ≤ f.lo)
    (hg : g.lo + g.width ≤ 64) : (s.put f x).fld g = s.fld g := by
  by_cases ha : g.addr = f.addr
  · simp only [State.fld, State.put, ha, reg_setReg]
    exact f.of_into_ne g _ x h hg
  · exact fld_put_addr s f g x ha

end Sys2Proof.Machine
end

