-- ==== Sys2Proof/Laws/State.lean ====
section
/-!
SUPPORT. What the single updates of the state leave alone: one lemma per field per update, so that no proof unfolds a
record update.
-/

namespace Sys2Proof.Machine

/-! State.setReg changes regs. -/
@[simp] theorem State.setReg_pending (s : State) (a : Nat) (v : BitVec 64) : (s.setReg a v).pending = s.pending := rfl
@[simp] theorem State.setReg_now (s : State) (a : Nat) (v : BitVec 64) : (s.setReg a v).now = s.now := rfl
@[simp] theorem State.setReg_freeCtr (s : State) (a : Nat) (v : BitVec 64) : (s.setReg a v).freeCtr = s.freeCtr := rfl
@[simp] theorem State.setReg_mem (s : State) (a : Nat) (v : BitVec 64) : (s.setReg a v).mem = s.mem := rfl
@[simp] theorem State.setReg_reply (s : State) (a : Nat) (v : BitVec 64) : (s.setReg a v).reply = s.reply := rfl
@[simp] theorem State.setReg_sent (s : State) (a : Nat) (v : BitVec 64) : (s.setReg a v).sent = s.sent := rfl
@[simp] theorem State.setReg_txn (s : State) (a : Nat) (v : BitVec 64) : (s.setReg a v).txn = s.txn := rfl
@[simp] theorem State.setReg_hsw (s : State) (a : Nat) (v : BitVec 64) : (s.setReg a v).hsw = s.hsw := rfl
@[simp] theorem State.setReg_pdi (s : State) (a : Nat) (v : BitVec 64) : (s.setReg a v).pdi = s.pdi := rfl
@[simp] theorem State.setReg_vlv (s : State) (a : Nat) (v : BitVec 64) : (s.setReg a v).vlv = s.vlv := rfl
@[simp] theorem State.setReg_led (s : State) (a : Nat) (v : BitVec 64) : (s.setReg a v).led = s.led := rfl
@[simp] theorem State.setReg_din (s : State) (a : Nat) (v : BitVec 64) : (s.setReg a v).din = s.din := rfl
@[simp] theorem State.setReg_dout (s : State) (a : Nat) (v : BitVec 64) : (s.setReg a v).dout = s.dout := rfl
@[simp] theorem State.setReg_fcu (s : State) (a : Nat) (v : BitVec 64) : (s.setReg a v).fcu = s.fcu := rfl
@[simp] theorem State.setReg_gt (s : State) (a : Nat) (v : BitVec 64) : (s.setReg a v).gt = s.gt := rfl
@[simp] theorem State.setReg_ntu (s : State) (a : Nat) (v : BitVec 64) : (s.setReg a v).ntu = s.ntu := rfl
@[simp] theorem State.setReg_readShadow (s : State) (a : Nat) (v : BitVec 64) : (s.setReg a v).readShadow = s.readShadow := rfl
@[simp] theorem State.setReg_writeShadow (s : State) (a : Nat) (v : BitVec 64) : (s.setReg a v).writeShadow = s.writeShadow := rfl
@[simp] theorem State.setReg_gtAvail (s : State) (a : Nat) (v : BitVec 64) : (s.setReg a v).gtAvail = s.gtAvail := rfl
@[simp] theorem State.setReg_mbx (s : State) (a : Nat) (v : BitVec 64) : (s.setReg a v).mbx = s.mbx := rfl
@[simp] theorem State.setReg_can (s : State) (a : Nat) (v : BitVec 64) : (s.setReg a v).can = s.can := rfl
@[simp] theorem State.setReg_lin (s : State) (a : Nat) (v : BitVec 64) : (s.setReg a v).lin = s.lin := rfl
@[simp] theorem State.setReg_nsl (s : State) (a : Nat) (v : BitVec 64) : (s.setReg a v).nsl = s.nsl := rfl
@[simp] theorem State.setReg_gwe (s : State) (a : Nat) (v : BitVec 64) : (s.setReg a v).gwe = s.gwe := rfl
@[simp] theorem State.setReg_acc (s : State) (a : Nat) (v : BitVec 64) : (s.setReg a v).acc = s.acc := rfl
@[simp] theorem State.setReg_cpu (s : State) (a : Nat) (v : BitVec 64) : (s.setReg a v).cpu = s.cpu := rfl
@[simp] theorem State.setReg_nv (s : State) (a : Nat) (v : BitVec 64) : (s.setReg a v).nv = s.nv := rfl
@[simp] theorem State.setReg_pmu (s : State) (a : Nat) (v : BitVec 64) : (s.setReg a v).pmu = s.pmu := rfl
@[simp] theorem State.setReg_sys (s : State) (a : Nat) (v : BitVec 64) : (s.setReg a v).sys = s.sys := rfl
@[simp] theorem State.setReg_sec (s : State) (a : Nat) (v : BitVec 64) : (s.setReg a v).sec = s.sec := rfl
@[simp] theorem State.setReg_bsq (s : State) (a : Nat) (v : BitVec 64) : (s.setReg a v).bsq = s.bsq := rfl
@[simp] theorem State.setReg_hand (s : State) (a : Nat) (v : BitVec 64) : (s.setReg a v).hand = s.hand := rfl
@[simp] theorem State.setReg_host (s : State) (a : Nat) (v : BitVec 64) : (s.setReg a v).host = s.host := rfl
@[simp] theorem State.setReg_flash (s : State) (a : Nat) (v : BitVec 64) : (s.setReg a v).flash = s.flash := rfl
@[simp] theorem State.setReg_overVolt (s : State) (a : Nat) (v : BitVec 64) : (s.setReg a v).overVolt = s.overVolt := rfl

/-! State.setHnd changes txn. -/
@[simp] theorem State.setHnd_pending (s : State) (h : Nat) (x : Handle) : (s.setHnd h x).pending = s.pending := rfl
@[simp] theorem State.setHnd_now (s : State) (h : Nat) (x : Handle) : (s.setHnd h x).now = s.now := rfl
@[simp] theorem State.setHnd_freeCtr (s : State) (h : Nat) (x : Handle) : (s.setHnd h x).freeCtr = s.freeCtr := rfl
@[simp] theorem State.setHnd_regs (s : State) (h : Nat) (x : Handle) : (s.setHnd h x).regs = s.regs := rfl
@[simp] theorem State.setHnd_mem (s : State) (h : Nat) (x : Handle) : (s.setHnd h x).mem = s.mem := rfl
@[simp] theorem State.setHnd_reply (s : State) (h : Nat) (x : Handle) : (s.setHnd h x).reply = s.reply := rfl
@[simp] theorem State.setHnd_sent (s : State) (h : Nat) (x : Handle) : (s.setHnd h x).sent = s.sent := rfl
@[simp] theorem State.setHnd_hsw (s : State) (h : Nat) (x : Handle) : (s.setHnd h x).hsw = s.hsw := rfl
@[simp] theorem State.setHnd_pdi (s : State) (h : Nat) (x : Handle) : (s.setHnd h x).pdi = s.pdi := rfl
@[simp] theorem State.setHnd_vlv (s : State) (h : Nat) (x : Handle) : (s.setHnd h x).vlv = s.vlv := rfl
@[simp] theorem State.setHnd_led (s : State) (h : Nat) (x : Handle) : (s.setHnd h x).led = s.led := rfl
@[simp] theorem State.setHnd_din (s : State) (h : Nat) (x : Handle) : (s.setHnd h x).din = s.din := rfl
@[simp] theorem State.setHnd_dout (s : State) (h : Nat) (x : Handle) : (s.setHnd h x).dout = s.dout := rfl
@[simp] theorem State.setHnd_fcu (s : State) (h : Nat) (x : Handle) : (s.setHnd h x).fcu = s.fcu := rfl
@[simp] theorem State.setHnd_gt (s : State) (h : Nat) (x : Handle) : (s.setHnd h x).gt = s.gt := rfl
@[simp] theorem State.setHnd_ntu (s : State) (h : Nat) (x : Handle) : (s.setHnd h x).ntu = s.ntu := rfl
@[simp] theorem State.setHnd_readShadow (s : State) (h : Nat) (x : Handle) : (s.setHnd h x).readShadow = s.readShadow := rfl
@[simp] theorem State.setHnd_writeShadow (s : State) (h : Nat) (x : Handle) : (s.setHnd h x).writeShadow = s.writeShadow := rfl
@[simp] theorem State.setHnd_gtAvail (s : State) (h : Nat) (x : Handle) : (s.setHnd h x).gtAvail = s.gtAvail := rfl
@[simp] theorem State.setHnd_mbx (s : State) (h : Nat) (x : Handle) : (s.setHnd h x).mbx = s.mbx := rfl
@[simp] theorem State.setHnd_can (s : State) (h : Nat) (x : Handle) : (s.setHnd h x).can = s.can := rfl
@[simp] theorem State.setHnd_lin (s : State) (h : Nat) (x : Handle) : (s.setHnd h x).lin = s.lin := rfl
@[simp] theorem State.setHnd_nsl (s : State) (h : Nat) (x : Handle) : (s.setHnd h x).nsl = s.nsl := rfl
@[simp] theorem State.setHnd_gwe (s : State) (h : Nat) (x : Handle) : (s.setHnd h x).gwe = s.gwe := rfl
@[simp] theorem State.setHnd_acc (s : State) (h : Nat) (x : Handle) : (s.setHnd h x).acc = s.acc := rfl
@[simp] theorem State.setHnd_cpu (s : State) (h : Nat) (x : Handle) : (s.setHnd h x).cpu = s.cpu := rfl
@[simp] theorem State.setHnd_nv (s : State) (h : Nat) (x : Handle) : (s.setHnd h x).nv = s.nv := rfl
@[simp] theorem State.setHnd_pmu (s : State) (h : Nat) (x : Handle) : (s.setHnd h x).pmu = s.pmu := rfl
@[simp] theorem State.setHnd_sys (s : State) (h : Nat) (x : Handle) : (s.setHnd h x).sys = s.sys := rfl
@[simp] theorem State.setHnd_sec (s : State) (h : Nat) (x : Handle) : (s.setHnd h x).sec = s.sec := rfl
@[simp] theorem State.setHnd_bsq (s : State) (h : Nat) (x : Handle) : (s.setHnd h x).bsq = s.bsq := rfl
@[simp] theorem State.setHnd_hand (s : State) (h : Nat) (x : Handle) : (s.setHnd h x).hand = s.hand := rfl
@[simp] theorem State.setHnd_host (s : State) (h : Nat) (x : Handle) : (s.setHnd h x).host = s.host := rfl
@[simp] theorem State.setHnd_flash (s : State) (h : Nat) (x : Handle) : (s.setHnd h x).flash = s.flash := rfl
@[simp] theorem State.setHnd_overVolt (s : State) (h : Nat) (x : Handle) : (s.setHnd h x).overVolt = s.overVolt := rfl
@[simp] theorem State.setHnd_reg (s : State) (h : Nat) (x : Handle) (a' : Nat) : (s.setHnd h x).reg a' = s.reg a' := rfl
@[simp] theorem State.setHnd_fld (s : State) (h : Nat) (x : Handle) (f' : Fld) : (s.setHnd h x).fld f' = s.fld f' := rfl
@[simp] theorem State.setHnd_flag (s : State) (h : Nat) (x : Handle) (f' : Fld) : (s.setHnd h x).flag f' = s.flag f' := rfl

/-! State.setHsc changes hsw. -/
@[simp] theorem State.setHsc_pending (s : State) (n : Nat) (x : HswChan) : (s.setHsc n x).pending = s.pending := rfl
@[simp] theorem State.setHsc_now (s : State) (n : Nat) (x : HswChan) : (s.setHsc n x).now = s.now := rfl
@[simp] theorem State.setHsc_freeCtr (s : State) (n : Nat) (x : HswChan) : (s.setHsc n x).freeCtr = s.freeCtr := rfl
@[simp] theorem State.setHsc_regs (s : State) (n : Nat) (x : HswChan) : (s.setHsc n x).regs = s.regs := rfl
@[simp] theorem State.setHsc_mem (s : State) (n : Nat) (x : HswChan) : (s.setHsc n x).mem = s.mem := rfl
@[simp] theorem State.setHsc_reply (s : State) (n : Nat) (x : HswChan) : (s.setHsc n x).reply = s.reply := rfl
@[simp] theorem State.setHsc_sent (s : State) (n : Nat) (x : HswChan) : (s.setHsc n x).sent = s.sent := rfl
@[simp] theorem State.setHsc_txn (s : State) (n : Nat) (x : HswChan) : (s.setHsc n x).txn = s.txn := rfl
@[simp] theorem State.setHsc_pdi (s : State) (n : Nat) (x : HswChan) : (s.setHsc n x).pdi = s.pdi := rfl
@[simp] theorem State.setHsc_vlv (s : State) (n : Nat) (x : HswChan) : (s.setHsc n x).vlv = s.vlv := rfl
@[simp] theorem State.setHsc_led (s : State) (n : Nat) (x : HswChan) : (s.setHsc n x).led = s.led := rfl
@[simp] theorem State.setHsc_din (s : State) (n : Nat) (x : HswChan) : (s.setHsc n x).din = s.din := rfl
@[simp] theorem State.setHsc_dout (s : State) (n : Nat) (x : HswChan) : (s.setHsc n x).dout = s.dout := rfl
@[simp] theorem State.setHsc_fcu (s : State) (n : Nat) (x : HswChan) : (s.setHsc n x).fcu = s.fcu := rfl
@[simp] theorem State.setHsc_gt (s : State) (n : Nat) (x : HswChan) : (s.setHsc n x).gt = s.gt := rfl
@[simp] theorem State.setHsc_ntu (s : State) (n : Nat) (x : HswChan) : (s.setHsc n x).ntu = s.ntu := rfl
@[simp] theorem State.setHsc_readShadow (s : State) (n : Nat) (x : HswChan) : (s.setHsc n x).readShadow = s.readShadow := rfl
@[simp] theorem State.setHsc_writeShadow (s : State) (n : Nat) (x : HswChan) : (s.setHsc n x).writeShadow = s.writeShadow := rfl
@[simp] theorem State.setHsc_gtAvail (s : State) (n : Nat) (x : HswChan) : (s.setHsc n x).gtAvail = s.gtAvail := rfl
@[simp] theorem State.setHsc_mbx (s : State) (n : Nat) (x : HswChan) : (s.setHsc n x).mbx = s.mbx := rfl
@[simp] theorem State.setHsc_can (s : State) (n : Nat) (x : HswChan) : (s.setHsc n x).can = s.can := rfl
@[simp] theorem State.setHsc_lin (s : State) (n : Nat) (x : HswChan) : (s.setHsc n x).lin = s.lin := rfl
@[simp] theorem State.setHsc_nsl (s : State) (n : Nat) (x : HswChan) : (s.setHsc n x).nsl = s.nsl := rfl
@[simp] theorem State.setHsc_gwe (s : State) (n : Nat) (x : HswChan) : (s.setHsc n x).gwe = s.gwe := rfl
@[simp] theorem State.setHsc_acc (s : State) (n : Nat) (x : HswChan) : (s.setHsc n x).acc = s.acc := rfl
@[simp] theorem State.setHsc_cpu (s : State) (n : Nat) (x : HswChan) : (s.setHsc n x).cpu = s.cpu := rfl
@[simp] theorem State.setHsc_nv (s : State) (n : Nat) (x : HswChan) : (s.setHsc n x).nv = s.nv := rfl
@[simp] theorem State.setHsc_pmu (s : State) (n : Nat) (x : HswChan) : (s.setHsc n x).pmu = s.pmu := rfl
@[simp] theorem State.setHsc_sys (s : State) (n : Nat) (x : HswChan) : (s.setHsc n x).sys = s.sys := rfl
@[simp] theorem State.setHsc_sec (s : State) (n : Nat) (x : HswChan) : (s.setHsc n x).sec = s.sec := rfl
@[simp] theorem State.setHsc_bsq (s : State) (n : Nat) (x : HswChan) : (s.setHsc n x).bsq = s.bsq := rfl
@[simp] theorem State.setHsc_hand (s : State) (n : Nat) (x : HswChan) : (s.setHsc n x).hand = s.hand := rfl
@[simp] theorem State.setHsc_host (s : State) (n : Nat) (x : HswChan) : (s.setHsc n x).host = s.host := rfl
@[simp] theorem State.setHsc_flash (s : State) (n : Nat) (x : HswChan) : (s.setHsc n x).flash = s.flash := rfl
@[simp] theorem State.setHsc_overVolt (s : State) (n : Nat) (x : HswChan) : (s.setHsc n x).overVolt = s.overVolt := rfl
@[simp] theorem State.setHsc_reg (s : State) (n : Nat) (x : HswChan) (a' : Nat) : (s.setHsc n x).reg a' = s.reg a' := rfl
@[simp] theorem State.setHsc_fld (s : State) (n : Nat) (x : HswChan) (f' : Fld) : (s.setHsc n x).fld f' = s.fld f' := rfl
@[simp] theorem State.setHsc_flag (s : State) (n : Nat) (x : HswChan) (f' : Fld) : (s.setHsc n x).flag f' = s.flag f' := rfl

/-! State.setAdc changes pdi. -/
@[simp] theorem State.setAdc_pending (s : State) (a : Nat) (x : SenseAdc) : (s.setAdc a x).pending = s.pending := rfl
@[simp] theorem State.setAdc_now (s : State) (a : Nat) (x : SenseAdc) : (s.setAdc a x).now = s.now := rfl
@[simp] theorem State.setAdc_freeCtr (s : State) (a : Nat) (x : SenseAdc) : (s.setAdc a x).freeCtr = s.freeCtr := rfl
@[simp] theorem State.setAdc_regs (s : State) (a : Nat) (x : SenseAdc) : (s.setAdc a x).regs = s.regs := rfl
@[simp] theorem State.setAdc_mem (s : State) (a : Nat) (x : SenseAdc) : (s.setAdc a x).mem = s.mem := rfl
@[simp] theorem State.setAdc_reply (s : State) (a : Nat) (x : SenseAdc) : (s.setAdc a x).reply = s.reply := rfl
@[simp] theorem State.setAdc_sent (s : State) (a : Nat) (x : SenseAdc) : (s.setAdc a x).sent = s.sent := rfl
@[simp] theorem State.setAdc_txn (s : State) (a : Nat) (x : SenseAdc) : (s.setAdc a x).txn = s.txn := rfl
@[simp] theorem State.setAdc_hsw (s : State) (a : Nat) (x : SenseAdc) : (s.setAdc a x).hsw = s.hsw := rfl
@[simp] theorem State.setAdc_vlv (s : State) (a : Nat) (x : SenseAdc) : (s.setAdc a x).vlv = s.vlv := rfl
@[simp] theorem State.setAdc_led (s : State) (a : Nat) (x : SenseAdc) : (s.setAdc a x).led = s.led := rfl
@[simp] theorem State.setAdc_din (s : State) (a : Nat) (x : SenseAdc) : (s.setAdc a x).din = s.din := rfl
@[simp] theorem State.setAdc_dout (s : State) (a : Nat) (x : SenseAdc) : (s.setAdc a x).dout = s.dout := rfl
@[simp] theorem State.setAdc_fcu (s : State) (a : Nat) (x : SenseAdc) : (s.setAdc a x).fcu = s.fcu := rfl
@[simp] theorem State.setAdc_gt (s : State) (a : Nat) (x : SenseAdc) : (s.setAdc a x).gt = s.gt := rfl
@[simp] theorem State.setAdc_ntu (s : State) (a : Nat) (x : SenseAdc) : (s.setAdc a x).ntu = s.ntu := rfl
@[simp] theorem State.setAdc_readShadow (s : State) (a : Nat) (x : SenseAdc) : (s.setAdc a x).readShadow = s.readShadow := rfl
@[simp] theorem State.setAdc_writeShadow (s : State) (a : Nat) (x : SenseAdc) : (s.setAdc a x).writeShadow = s.writeShadow := rfl
@[simp] theorem State.setAdc_gtAvail (s : State) (a : Nat) (x : SenseAdc) : (s.setAdc a x).gtAvail = s.gtAvail := rfl
@[simp] theorem State.setAdc_mbx (s : State) (a : Nat) (x : SenseAdc) : (s.setAdc a x).mbx = s.mbx := rfl
@[simp] theorem State.setAdc_can (s : State) (a : Nat) (x : SenseAdc) : (s.setAdc a x).can = s.can := rfl
@[simp] theorem State.setAdc_lin (s : State) (a : Nat) (x : SenseAdc) : (s.setAdc a x).lin = s.lin := rfl
@[simp] theorem State.setAdc_nsl (s : State) (a : Nat) (x : SenseAdc) : (s.setAdc a x).nsl = s.nsl := rfl
@[simp] theorem State.setAdc_gwe (s : State) (a : Nat) (x : SenseAdc) : (s.setAdc a x).gwe = s.gwe := rfl
@[simp] theorem State.setAdc_acc (s : State) (a : Nat) (x : SenseAdc) : (s.setAdc a x).acc = s.acc := rfl
@[simp] theorem State.setAdc_cpu (s : State) (a : Nat) (x : SenseAdc) : (s.setAdc a x).cpu = s.cpu := rfl
@[simp] theorem State.setAdc_nv (s : State) (a : Nat) (x : SenseAdc) : (s.setAdc a x).nv = s.nv := rfl
@[simp] theorem State.setAdc_pmu (s : State) (a : Nat) (x : SenseAdc) : (s.setAdc a x).pmu = s.pmu := rfl
@[simp] theorem State.setAdc_sys (s : State) (a : Nat) (x : SenseAdc) : (s.setAdc a x).sys = s.sys := rfl
@[simp] theorem State.setAdc_sec (s : State) (a : Nat) (x : SenseAdc) : (s.setAdc a x).sec = s.sec := rfl
@[simp] theorem State.setAdc_bsq (s : State) (a : Nat) (x : SenseAdc) : (s.setAdc a x).bsq = s.bsq := rfl
@[simp] theorem State.setAdc_hand (s : State) (a : Nat) (x : SenseAdc) : (s.setAdc a x).hand = s.hand := rfl
@[simp] theorem State.setAdc_host (s : State) (a : Nat) (x : SenseAdc) : (s.setAdc a x).host = s.host := rfl
@[simp] theorem State.setAdc_flash (s : State) (a : Nat) (x : SenseAdc) : (s.setAdc a x).flash = s.flash := rfl
@[simp] theorem State.setAdc_overVolt (s : State) (a : Nat) (x : SenseAdc) : (s.setAdc a x).overVolt = s.overVolt := rfl
@[simp] theorem State.setAdc_reg (s : State) (a : Nat) (x : SenseAdc) (a' : Nat) : (s.setAdc a x).reg a' = s.reg a' := rfl
@[simp] theorem State.setAdc_fld (s : State) (a : Nat) (x : SenseAdc) (f' : Fld) : (s.setAdc a x).fld f' = s.fld f' := rfl
@[simp] theorem State.setAdc_flag (s : State) (a : Nat) (x : SenseAdc) (f' : Fld) : (s.setAdc a x).flag f' = s.flag f' := rfl

/-! State.setVal changes vlv. -/
@[simp] theorem State.setVal_pending (s : State) (c : Nat) (x : Valve) : (s.setVal c x).pending = s.pending := rfl
@[simp] theorem State.setVal_now (s : State) (c : Nat) (x : Valve) : (s.setVal c x).now = s.now := rfl
@[simp] theorem State.setVal_freeCtr (s : State) (c : Nat) (x : Valve) : (s.setVal c x).freeCtr = s.freeCtr := rfl
@[simp] theorem State.setVal_regs (s : State) (c : Nat) (x : Valve) : (s.setVal c x).regs = s.regs := rfl
@[simp] theorem State.setVal_mem (s : State) (c : Nat) (x : Valve) : (s.setVal c x).mem = s.mem := rfl
@[simp] theorem State.setVal_reply (s : State) (c : Nat) (x : Valve) : (s.setVal c x).reply = s.reply := rfl
@[simp] theorem State.setVal_sent (s : State) (c : Nat) (x : Valve) : (s.setVal c x).sent = s.sent := rfl
@[simp] theorem State.setVal_txn (s : State) (c : Nat) (x : Valve) : (s.setVal c x).txn = s.txn := rfl
@[simp] theorem State.setVal_hsw (s : State) (c : Nat) (x : Valve) : (s.setVal c x).hsw = s.hsw := rfl
@[simp] theorem State.setVal_pdi (s : State) (c : Nat) (x : Valve) : (s.setVal c x).pdi = s.pdi := rfl
@[simp] theorem State.setVal_led (s : State) (c : Nat) (x : Valve) : (s.setVal c x).led = s.led := rfl
@[simp] theorem State.setVal_din (s : State) (c : Nat) (x : Valve) : (s.setVal c x).din = s.din := rfl
@[simp] theorem State.setVal_dout (s : State) (c : Nat) (x : Valve) : (s.setVal c x).dout = s.dout := rfl
@[simp] theorem State.setVal_fcu (s : State) (c : Nat) (x : Valve) : (s.setVal c x).fcu = s.fcu := rfl
@[simp] theorem State.setVal_gt (s : State) (c : Nat) (x : Valve) : (s.setVal c x).gt = s.gt := rfl
@[simp] theorem State.setVal_ntu (s : State) (c : Nat) (x : Valve) : (s.setVal c x).ntu = s.ntu := rfl
@[simp] theorem State.setVal_readShadow (s : State) (c : Nat) (x : Valve) : (s.setVal c x).readShadow = s.readShadow := rfl
@[simp] theorem State.setVal_writeShadow (s : State) (c : Nat) (x : Valve) : (s.setVal c x).writeShadow = s.writeShadow := rfl
@[simp] theorem State.setVal_gtAvail (s : State) (c : Nat) (x : Valve) : (s.setVal c x).gtAvail = s.gtAvail := rfl
@[simp] theorem State.setVal_mbx (s : State) (c : Nat) (x : Valve) : (s.setVal c x).mbx = s.mbx := rfl
@[simp] theorem State.setVal_can (s : State) (c : Nat) (x : Valve) : (s.setVal c x).can = s.can := rfl
@[simp] theorem State.setVal_lin (s : State) (c : Nat) (x : Valve) : (s.setVal c x).lin = s.lin := rfl
@[simp] theorem State.setVal_nsl (s : State) (c : Nat) (x : Valve) : (s.setVal c x).nsl = s.nsl := rfl
@[simp] theorem State.setVal_gwe (s : State) (c : Nat) (x : Valve) : (s.setVal c x).gwe = s.gwe := rfl
@[simp] theorem State.setVal_acc (s : State) (c : Nat) (x : Valve) : (s.setVal c x).acc = s.acc := rfl
@[simp] theorem State.setVal_cpu (s : State) (c : Nat) (x : Valve) : (s.setVal c x).cpu = s.cpu := rfl
@[simp] theorem State.setVal_nv (s : State) (c : Nat) (x : Valve) : (s.setVal c x).nv = s.nv := rfl
@[simp] theorem State.setVal_pmu (s : State) (c : Nat) (x : Valve) : (s.setVal c x).pmu = s.pmu := rfl
@[simp] theorem State.setVal_sys (s : State) (c : Nat) (x : Valve) : (s.setVal c x).sys = s.sys := rfl
@[simp] theorem State.setVal_sec (s : State) (c : Nat) (x : Valve) : (s.setVal c x).sec = s.sec := rfl
@[simp] theorem State.setVal_bsq (s : State) (c : Nat) (x : Valve) : (s.setVal c x).bsq = s.bsq := rfl
@[simp] theorem State.setVal_hand (s : State) (c : Nat) (x : Valve) : (s.setVal c x).hand = s.hand := rfl
@[simp] theorem State.setVal_host (s : State) (c : Nat) (x : Valve) : (s.setVal c x).host = s.host := rfl
@[simp] theorem State.setVal_flash (s : State) (c : Nat) (x : Valve) : (s.setVal c x).flash = s.flash := rfl
@[simp] theorem State.setVal_overVolt (s : State) (c : Nat) (x : Valve) : (s.setVal c x).overVolt = s.overVolt := rfl
@[simp] theorem State.setVal_reg (s : State) (c : Nat) (x : Valve) (a' : Nat) : (s.setVal c x).reg a' = s.reg a' := rfl
@[simp] theorem State.setVal_fld (s : State) (c : Nat) (x : Valve) (f' : Fld) : (s.setVal c x).fld f' = s.fld f' := rfl
@[simp] theorem State.setVal_flag (s : State) (c : Nat) (x : Valve) (f' : Fld) : (s.setVal c x).flag f' = s.flag f' := rfl

/-! State.setBq changes vlv. -/
@[simp] theorem State.setBq_pending (s : State) (d : Nat) (x : List BoostReq) : (s.setBq d x).pending = s.pending := rfl
@[simp] theorem State.setBq_now (s : State) (d : Nat) (x : List BoostReq) : (s.setBq d x).now = s.now := rfl
@[simp] theorem State.setBq_freeCtr (s : State) (d : Nat) (x : List BoostReq) : (s.setBq d x).freeCtr = s.freeCtr := rfl
@[simp] theorem State.setBq_regs (s : State) (d : Nat) (x : List BoostReq) : (s.setBq d x).regs = s.regs := rfl
@[simp] theorem State.setBq_mem (s : State) (d : Nat) (x : List BoostReq) : (s.setBq d x).mem = s.mem := rfl
@[simp] theorem State.setBq_reply (s : State) (d : Nat) (x : List BoostReq) : (s.setBq d x).reply = s.reply := rfl
@[simp] theorem State.setBq_sent (s : State) (d : Nat) (x : List BoostReq) : (s.setBq d x).sent = s.sent := rfl
@[simp] theorem State.setBq_txn (s : State) (d : Nat) (x : List BoostReq) : (s.setBq d x).txn = s.txn := rfl
@[simp] theorem State.setBq_hsw (s : State) (d : Nat) (x : List BoostReq) : (s.setBq d x).hsw = s.hsw := rfl
@[simp] theorem State.setBq_pdi (s : State) (d : Nat) (x : List BoostReq) : (s.setBq d x).pdi = s.pdi := rfl
@[simp] theorem State.setBq_led (s : State) (d : Nat) (x : List BoostReq) : (s.setBq d x).led = s.led := rfl
@[simp] theorem State.setBq_din (s : State) (d : Nat) (x : List BoostReq) : (s.setBq d x).din = s.din := rfl
@[simp] theorem State.setBq_dout (s : State) (d : Nat) (x : List BoostReq) : (s.setBq d x).dout = s.dout := rfl
@[simp] theorem State.setBq_fcu (s : State) (d : Nat) (x : List BoostReq) : (s.setBq d x).fcu = s.fcu := rfl
@[simp] theorem State.setBq_gt (s : State) (d : Nat) (x : List BoostReq) : (s.setBq d x).gt = s.gt := rfl
@[simp] theorem State.setBq_ntu (s : State) (d : Nat) (x : List BoostReq) : (s.setBq d x).ntu = s.ntu := rfl
@[simp] theorem State.setBq_readShadow (s : State) (d : Nat) (x : List BoostReq) : (s.setBq d x).readShadow = s.readShadow := rfl
@[simp] theorem State.setBq_writeShadow (s : State) (d : Nat) (x : List BoostReq) : (s.setBq d x).writeShadow = s.writeShadow := rfl
@[simp] theorem State.setBq_gtAvail (s : State) (d : Nat) (x : List BoostReq) : (s.setBq d x).gtAvail = s.gtAvail := rfl
@[simp] theorem State.setBq_mbx (s : State) (d : Nat) (x : List BoostReq) : (s.setBq d x).mbx = s.mbx := rfl
@[simp] theorem State.setBq_can (s : State) (d : Nat) (x : List BoostReq) : (s.setBq d x).can = s.can := rfl
@[simp] theorem State.setBq_lin (s : State) (d : Nat) (x : List BoostReq) : (s.setBq d x).lin = s.lin := rfl
@[simp] theorem State.setBq_nsl (s : State) (d : Nat) (x : List BoostReq) : (s.setBq d x).nsl = s.nsl := rfl
@[simp] theorem State.setBq_gwe (s : State) (d : Nat) (x : List BoostReq) : (s.setBq d x).gwe = s.gwe := rfl
@[simp] theorem State.setBq_acc (s : State) (d : Nat) (x : List BoostReq) : (s.setBq d x).acc = s.acc := rfl
@[simp] theorem State.setBq_cpu (s : State) (d : Nat) (x : List BoostReq) : (s.setBq d x).cpu = s.cpu := rfl
@[simp] theorem State.setBq_nv (s : State) (d : Nat) (x : List BoostReq) : (s.setBq d x).nv = s.nv := rfl
@[simp] theorem State.setBq_pmu (s : State) (d : Nat) (x : List BoostReq) : (s.setBq d x).pmu = s.pmu := rfl
@[simp] theorem State.setBq_sys (s : State) (d : Nat) (x : List BoostReq) : (s.setBq d x).sys = s.sys := rfl
@[simp] theorem State.setBq_sec (s : State) (d : Nat) (x : List BoostReq) : (s.setBq d x).sec = s.sec := rfl
@[simp] theorem State.setBq_bsq (s : State) (d : Nat) (x : List BoostReq) : (s.setBq d x).bsq = s.bsq := rfl
@[simp] theorem State.setBq_hand (s : State) (d : Nat) (x : List BoostReq) : (s.setBq d x).hand = s.hand := rfl
@[simp] theorem State.setBq_host (s : State) (d : Nat) (x : List BoostReq) : (s.setBq d x).host = s.host := rfl
@[simp] theorem State.setBq_flash (s : State) (d : Nat) (x : List BoostReq) : (s.setBq d x).flash = s.flash := rfl
@[simp] theorem State.setBq_overVolt (s : State) (d : Nat) (x : List BoostReq) : (s.setBq d x).overVolt = s.overVolt := rfl
@[simp] theorem State.setBq_reg (s : State) (d : Nat) (x : List BoostReq) (a' : Nat) : (s.setBq d x).reg a' = s.reg a' := rfl
@[simp] theorem State.setBq_fld (s : State) (d : Nat) (x : List BoostReq) (f' : Fld) : (s.setBq d x).fld f' = s.fld f' := rfl
@[simp] theorem State.setBq_flag (s : State) (d : Nat) (x : List BoostReq) (f' : Fld) : (s.setBq d x).flag f' = s.flag f' := rfl

/-! State.setFade changes led. -/
@[simp] theorem State.setFade_pending (s : State) (n : Nat) (x : Option Fade) : (s.setFade n x).pending = s.pending := rfl
@[simp] theorem State.setFade_now (s : State) (n : Nat) (x : Option Fade) : (s.setFade n x).now = s.now := rfl
@[simp] theorem State.setFade_freeCtr (s : State) (n : Nat) (x : Option Fade) : (s.setFade n x).freeCtr = s.freeCtr := rfl
@[simp] theorem State.setFade_regs (s : State) (n : Nat) (x : Option Fade) : (s.setFade n x).regs = s.regs := rfl
@[simp] theorem State.setFade_mem (s : State) (n : Nat) (x : Option Fade) : (s.setFade n x).mem = s.mem := rfl
@[simp] theorem State.setFade_reply (s : State) (n : Nat) (x : Option Fade) : (s.setFade n x).reply = s.reply := rfl
@[simp] theorem State.setFade_sent (s : State) (n : Nat) (x : Option Fade) : (s.setFade n x).sent = s.sent := rfl
@[simp] theorem State.setFade_txn (s : State) (n : Nat) (x : Option Fade) : (s.setFade n x).txn = s.txn := rfl
@[simp] theorem State.setFade_hsw (s : State) (n : Nat) (x : Option Fade) : (s.setFade n x).hsw = s.hsw := rfl
@[simp] theorem State.setFade_pdi (s : State) (n : Nat) (x : Option Fade) : (s.setFade n x).pdi = s.pdi := rfl
@[simp] theorem State.setFade_vlv (s : State) (n : Nat) (x : Option Fade) : (s.setFade n x).vlv = s.vlv := rfl
@[simp] theorem State.setFade_din (s : State) (n : Nat) (x : Option Fade) : (s.setFade n x).din = s.din := rfl
@[simp] theorem State.setFade_dout (s : State) (n : Nat) (x : Option Fade) : (s.setFade n x).dout = s.dout := rfl
@[simp] theorem State.setFade_fcu (s : State) (n : Nat) (x : Option Fade) : (s.setFade n x).fcu = s.fcu := rfl
@[simp] theorem State.setFade_gt (s : State) (n : Nat) (x : Option Fade) : (s.setFade n x).gt = s.gt := rfl
@[simp] theorem State.setFade_ntu (s : State) (n : Nat) (x : Option Fade) : (s.setFade n x).ntu = s.ntu := rfl
@[simp] theorem State.setFade_readShadow (s : State) (n : Nat) (x : Option Fade) : (s.setFade n x).readShadow = s.readShadow := rfl
@[simp] theorem State.setFade_writeShadow (s : State) (n : Nat) (x : Option Fade) : (s.setFade n x).writeShadow = s.writeShadow := rfl
@[simp] theorem State.setFade_gtAvail (s : State) (n : Nat) (x : Option Fade) : (s.setFade n x).gtAvail = s.gtAvail := rfl
@[simp] theorem State.setFade_mbx (s : State) (n : Nat) (x : Option Fade) : (s.setFade n x).mbx = s.mbx := rfl
@[simp] theorem State.setFade_can (s : State) (n : Nat) (x : Option Fade) : (s.setFade n x).can = s.can := rfl
@[simp] theorem State.setFade_lin (s : State) (n : Nat) (x : Option Fade) : (s.setFade n x).lin = s.lin := rfl
@[simp] theorem State.setFade_nsl (s : State) (n : Nat) (x : Option Fade) : (s.setFade n x).nsl = s.nsl := rfl
@[simp] theorem State.setFade_gwe (s : State) (n : Nat) (x : Option Fade) : (s.setFade n x).gwe = s.gwe := rfl
@[simp] theorem State.setFade_acc (s : State) (n : Nat) (x : Option Fade) : (s.setFade n x).acc = s.acc := rfl
@[simp] theorem State.setFade_cpu (s : State) (n : Nat) (x : Option Fade) : (s.setFade n x).cpu = s.cpu := rfl
@[simp] theorem State.setFade_nv (s : State) (n : Nat) (x : Option Fade) : (s.setFade n x).nv = s.nv := rfl
@[simp] theorem State.setFade_pmu (s : State) (n : Nat) (x : Option Fade) : (s.setFade n x).pmu = s.pmu := rfl
@[simp] theorem State.setFade_sys (s : State) (n : Nat) (x : Option Fade) : (s.setFade n x).sys = s.sys := rfl
@[simp] theorem State.setFade_sec (s : State) (n : Nat) (x : Option Fade) : (s.setFade n x).sec = s.sec := rfl
@[simp] theorem State.setFade_bsq (s : State) (n : Nat) (x : Option Fade) : (s.setFade n x).bsq = s.bsq := rfl
@[simp] theorem State.setFade_hand (s : State) (n : Nat) (x : Option Fade) : (s.setFade n x).hand = s.hand := rfl
@[simp] theorem State.setFade_host (s : State) (n : Nat) (x : Option Fade) : (s.setFade n x).host = s.host := rfl
@[simp] theorem State.setFade_flash (s : State) (n : Nat) (x : Option Fade) : (s.setFade n x).flash = s.flash := rfl
@[simp] theorem State.setFade_overVolt (s : State) (n : Nat) (x : Option Fade) : (s.setFade n x).overVolt = s.overVolt := rfl
@[simp] theorem State.setFade_reg (s : State) (n : Nat) (x : Option Fade) (a' : Nat) : (s.setFade n x).reg a' = s.reg a' := rfl
@[simp] theorem State.setFade_fld (s : State) (n : Nat) (x : Option Fade) (f' : Fld) : (s.setFade n x).fld f' = s.fld f' := rfl
@[simp] theorem State.setFade_flag (s : State) (n : Nat) (x : Option Fade) (f' : Fld) : (s.setFade n x).flag f' = s.flag f' := rfl

/-! State.setChain changes led. -/
@[simp] theorem State.setChain_pending (s : State) (k : Nat) (x : Chain) : (s.setChain k x).pending = s.pending := rfl
@[simp] theorem State.setChain_now (s : State) (k : Nat) (x : Chain) : (s.setChain k x).now = s.now := rfl
@[simp] theorem State.setChain_freeCtr (s : State) (k : Nat) (x : Chain) : (s.setChain k x).freeCtr = s.freeCtr := rfl
@[simp] theorem State.setChain_regs (s : State) (k : Nat) (x : Chain) : (s.setChain k x).regs = s.regs := rfl
@[simp] theorem State.setChain_mem (s : State) (k : Nat) (x : Chain) : (s.setChain k x).mem = s.mem := rfl
@[simp] theorem State.setChain_reply (s : State) (k : Nat) (x : Chain) : (s.setChain k x).reply = s.reply := rfl
@[simp] theorem State.setChain_sent (s : State) (k : Nat) (x : Chain) : (s.setChain k x).sent = s.sent := rfl
@[simp] theorem State.setChain_txn (s : State) (k : Nat) (x : Chain) : (s.setChain k x).txn = s.txn := rfl
@[simp] theorem State.setChain_hsw (s : State) (k : Nat) (x : Chain) : (s.setChain k x).hsw = s.hsw := rfl
@[simp] theorem State.setChain_pdi (s : State) (k : Nat) (x : Chain) : (s.setChain k x).pdi = s.pdi := rfl
@[simp] theorem State.setChain_vlv (s : State) (k : Nat) (x : Chain) : (s.setChain k x).vlv = s.vlv := rfl
@[simp] theorem State.setChain_din (s : State) (k : Nat) (x : Chain) : (s.setChain k x).din = s.din := rfl
@[simp] theorem State.setChain_dout (s : State) (k : Nat) (x : Chain) : (s.setChain k x).dout = s.dout := rfl
@[simp] theorem State.setChain_fcu (s : State) (k : Nat) (x : Chain) : (s.setChain k x).fcu = s.fcu := rfl
@[simp] theorem State.setChain_gt (s : State) (k : Nat) (x : Chain) : (s.setChain k x).gt = s.gt := rfl
@[simp] theorem State.setChain_ntu (s : State) (k : Nat) (x : Chain) : (s.setChain k x).ntu = s.ntu := rfl
@[simp] theorem State.setChain_readShadow (s : State) (k : Nat) (x : Chain) : (s.setChain k x).readShadow = s.readShadow := rfl
@[simp] theorem State.setChain_writeShadow (s : State) (k : Nat) (x : Chain) : (s.setChain k x).writeShadow = s.writeShadow := rfl
@[simp] theorem State.setChain_gtAvail (s : State) (k : Nat) (x : Chain) : (s.setChain k x).gtAvail = s.gtAvail := rfl
@[simp] theorem State.setChain_mbx (s : State) (k : Nat) (x : Chain) : (s.setChain k x).mbx = s.mbx := rfl
@[simp] theorem State.setChain_can (s : State) (k : Nat) (x : Chain) : (s.setChain k x).can = s.can := rfl
@[simp] theorem State.setChain_lin (s : State) (k : Nat) (x : Chain) : (s.setChain k x).lin = s.lin := rfl
@[simp] theorem State.setChain_nsl (s : State) (k : Nat) (x : Chain) : (s.setChain k x).nsl = s.nsl := rfl
@[simp] theorem State.setChain_gwe (s : State) (k : Nat) (x : Chain) : (s.setChain k x).gwe = s.gwe := rfl
@[simp] theorem State.setChain_acc (s : State) (k : Nat) (x : Chain) : (s.setChain k x).acc = s.acc := rfl
@[simp] theorem State.setChain_cpu (s : State) (k : Nat) (x : Chain) : (s.setChain k x).cpu = s.cpu := rfl
@[simp] theorem State.setChain_nv (s : State) (k : Nat) (x : Chain) : (s.setChain k x).nv = s.nv := rfl
@[simp] theorem State.setChain_pmu (s : State) (k : Nat) (x : Chain) : (s.setChain k x).pmu = s.pmu := rfl
@[simp] theorem State.setChain_sys (s : State) (k : Nat) (x : Chain) : (s.setChain k x).sys = s.sys := rfl
@[simp] theorem State.setChain_sec (s : State) (k : Nat) (x : Chain) : (s.setChain k x).sec = s.sec := rfl
@[simp] theorem State.setChain_bsq (s : State) (k : Nat) (x : Chain) : (s.setChain k x).bsq = s.bsq := rfl
@[simp] theorem State.setChain_hand (s : State) (k : Nat) (x : Chain) : (s.setChain k x).hand = s.hand := rfl
@[simp] theorem State.setChain_host (s : State) (k : Nat) (x : Chain) : (s.setChain k x).host = s.host := rfl
@[simp] theorem State.setChain_flash (s : State) (k : Nat) (x : Chain) : (s.setChain k x).flash = s.flash := rfl
@[simp] theorem State.setChain_overVolt (s : State) (k : Nat) (x : Chain) : (s.setChain k x).overVolt = s.overVolt := rfl
@[simp] theorem State.setChain_reg (s : State) (k : Nat) (x : Chain) (a' : Nat) : (s.setChain k x).reg a' = s.reg a' := rfl
@[simp] theorem State.setChain_fld (s : State) (k : Nat) (x : Chain) (f' : Fld) : (s.setChain k x).fld f' = s.fld f' := rfl
@[simp] theorem State.setChain_flag (s : State) (k : Nat) (x : Chain) (f' : Fld) : (s.setChain k x).flag f' = s.flag f' := rfl

/-! State.setDinc changes din. -/
@[simp] theorem State.setDinc_pending (s : State) (n : Nat) (x : DinChan) : (s.setDinc n x).pending = s.pending := rfl
@[simp] theorem State.setDinc_now (s : State) (n : Nat) (x : DinChan) : (s.setDinc n x).now = s.now := rfl
@[simp] theorem State.setDinc_freeCtr (s : State) (n : Nat) (x : DinChan) : (s.setDinc n x).freeCtr = s.freeCtr := rfl
@[simp] theorem State.setDinc_regs (s : State) (n : Nat) (x : DinChan) : (s.setDinc n x).regs = s.regs := rfl
@[simp] theorem State.setDinc_mem (s : State) (n : Nat) (x : DinChan) : (s.setDinc n x).mem = s.mem := rfl
@[simp] theorem State.setDinc_reply (s : State) (n : Nat) (x : DinChan) : (s.setDinc n x).reply = s.reply := rfl
@[simp] theorem State.setDinc_sent (s : State) (n : Nat) (x : DinChan) : (s.setDinc n x).sent = s.sent := rfl
@[simp] theorem State.setDinc_txn (s : State) (n : Nat) (x : DinChan) : (s.setDinc n x).txn = s.txn := rfl
@[simp] theorem State.setDinc_hsw (s : State) (n : Nat) (x : DinChan) : (s.setDinc n x).hsw = s.hsw := rfl
@[simp] theorem State.setDinc_pdi (s : State) (n : Nat) (x : DinChan) : (s.setDinc n x).pdi = s.pdi := rfl
@[simp] theorem State.setDinc_vlv (s : State) (n : Nat) (x : DinChan) : (s.setDinc n x).vlv = s.vlv := rfl
@[simp] theorem State.setDinc_led (s : State) (n : Nat) (x : DinChan) : (s.setDinc n x).led = s.led := rfl
@[simp] theorem State.setDinc_dout (s : State) (n : Nat) (x : DinChan) : (s.setDinc n x).dout = s.dout := rfl
@[simp] theorem State.setDinc_fcu (s : State) (n : Nat) (x : DinChan) : (s.setDinc n x).fcu = s.fcu := rfl
@[simp] theorem State.setDinc_gt (s : State) (n : Nat) (x : DinChan) : (s.setDinc n x).gt = s.gt := rfl
@[simp] theorem State.setDinc_ntu (s : State) (n : Nat) (x : DinChan) : (s.setDinc n x).ntu = s.ntu := rfl
@[simp] theorem State.setDinc_readShadow (s : State) (n : Nat) (x : DinChan) : (s.setDinc n x).readShadow = s.readShadow := rfl
@[simp] theorem State.setDinc_writeShadow (s : State) (n : Nat) (x : DinChan) : (s.setDinc n x).writeShadow = s.writeShadow := rfl
@[simp] theorem State.setDinc_gtAvail (s : State) (n : Nat) (x : DinChan) : (s.setDinc n x).gtAvail = s.gtAvail := rfl
@[simp] theorem State.setDinc_mbx (s : State) (n : Nat) (x : DinChan) : (s.setDinc n x).mbx = s.mbx := rfl
@[simp] theorem State.setDinc_can (s : State) (n : Nat) (x : DinChan) : (s.setDinc n x).can = s.can := rfl
@[simp] theorem State.setDinc_lin (s : State) (n : Nat) (x : DinChan) : (s.setDinc n x).lin = s.lin := rfl
@[simp] theorem State.setDinc_nsl (s : State) (n : Nat) (x : DinChan) : (s.setDinc n x).nsl = s.nsl := rfl
@[simp] theorem State.setDinc_gwe (s : State) (n : Nat) (x : DinChan) : (s.setDinc n x).gwe = s.gwe := rfl
@[simp] theorem State.setDinc_acc (s : State) (n : Nat) (x : DinChan) : (s.setDinc n x).acc = s.acc := rfl
@[simp] theorem State.setDinc_cpu (s : State) (n : Nat) (x : DinChan) : (s.setDinc n x).cpu = s.cpu := rfl
@[simp] theorem State.setDinc_nv (s : State) (n : Nat) (x : DinChan) : (s.setDinc n x).nv = s.nv := rfl
@[simp] theorem State.setDinc_pmu (s : State) (n : Nat) (x : DinChan) : (s.setDinc n x).pmu = s.pmu := rfl
@[simp] theorem State.setDinc_sys (s : State) (n : Nat) (x : DinChan) : (s.setDinc n x).sys = s.sys := rfl
@[simp] theorem State.setDinc_sec (s : State) (n : Nat) (x : DinChan) : (s.setDinc n x).sec = s.sec := rfl
@[simp] theorem State.setDinc_bsq (s : State) (n : Nat) (x : DinChan) : (s.setDinc n x).bsq = s.bsq := rfl
@[simp] theorem State.setDinc_hand (s : State) (n : Nat) (x : DinChan) : (s.setDinc n x).hand = s.hand := rfl
@[simp] theorem State.setDinc_host (s : State) (n : Nat) (x : DinChan) : (s.setDinc n x).host = s.host := rfl
@[simp] theorem State.setDinc_flash (s : State) (n : Nat) (x : DinChan) : (s.setDinc n x).flash = s.flash := rfl
@[simp] theorem State.setDinc_overVolt (s : State) (n : Nat) (x : DinChan) : (s.setDinc n x).overVolt = s.overVolt := rfl
@[simp] theorem State.setDinc_reg (s : State) (n : Nat) (x : DinChan) (a' : Nat) : (s.setDinc n x).reg a' = s.reg a' := rfl
@[simp] theorem State.setDinc_fld (s : State) (n : Nat) (x : DinChan) (f' : Fld) : (s.setDinc n x).fld f' = s.fld f' := rfl
@[simp] theorem State.setDinc_flag (s : State) (n : Nat) (x : DinChan) (f' : Fld) : (s.setDinc n x).flag f' = s.flag f' := rfl

/-! State.setDou changes dout. -/
@[simp] theorem State.setDou_pending (s : State) (n : Nat) (x : DoutChan) : (s.setDou n x).pending = s.pending := rfl
@[simp] theorem State.setDou_now (s : State) (n : Nat) (x : DoutChan) : (s.setDou n x).now = s.now := rfl
@[simp] theorem State.setDou_freeCtr (s : State) (n : Nat) (x : DoutChan) : (s.setDou n x).freeCtr = s.freeCtr := rfl
@[simp] theorem State.setDou_regs (s : State) (n : Nat) (x : DoutChan) : (s.setDou n x).regs = s.regs := rfl
@[simp] theorem State.setDou_mem (s : State) (n : Nat) (x : DoutChan) : (s.setDou n x).mem = s.mem := rfl
@[simp] theorem State.setDou_reply (s : State) (n : Nat) (x : DoutChan) : (s.setDou n x).reply = s.reply := rfl
@[simp] theorem State.setDou_sent (s : State) (n : Nat) (x : DoutChan) : (s.setDou n x).sent = s.sent := rfl
@[simp] theorem State.setDou_txn (s : State) (n : Nat) (x : DoutChan) : (s.setDou n x).txn = s.txn := rfl
@[simp] theorem State.setDou_hsw (s : State) (n : Nat) (x : DoutChan) : (s.setDou n x).hsw = s.hsw := rfl
@[simp] theorem State.setDou_pdi (s : State) (n : Nat) (x : DoutChan) : (s.setDou n x).pdi = s.pdi := rfl
@[simp] theorem State.setDou_vlv (s : State) (n : Nat) (x : DoutChan) : (s.setDou n x).vlv = s.vlv := rfl
@[simp] theorem State.setDou_led (s : State) (n : Nat) (x : DoutChan) : (s.setDou n x).led = s.led := rfl
@[simp] theorem State.setDou_din (s : State) (n : Nat) (x : DoutChan) : (s.setDou n x).din = s.din := rfl
@[simp] theorem State.setDou_fcu (s : State) (n : Nat) (x : DoutChan) : (s.setDou n x).fcu = s.fcu := rfl
@[simp] theorem State.setDou_gt (s : State) (n : Nat) (x : DoutChan) : (s.setDou n x).gt = s.gt := rfl
@[simp] theorem State.setDou_ntu (s : State) (n : Nat) (x : DoutChan) : (s.setDou n x).ntu = s.ntu := rfl
@[simp] theorem State.setDou_readShadow (s : State) (n : Nat) (x : DoutChan) : (s.setDou n x).readShadow = s.readShadow := rfl
@[simp] theorem State.setDou_writeShadow (s : State) (n : Nat) (x : DoutChan) : (s.setDou n x).writeShadow = s.writeShadow := rfl
@[simp] theorem State.setDou_gtAvail (s : State) (n : Nat) (x : DoutChan) : (s.setDou n x).gtAvail = s.gtAvail := rfl
@[simp] theorem State.setDou_mbx (s : State) (n : Nat) (x : DoutChan) : (s.setDou n x).mbx = s.mbx := rfl
@[simp] theorem State.setDou_can (s : State) (n : Nat) (x : DoutChan) : (s.setDou n x).can = s.can := rfl
@[simp] theorem State.setDou_lin (s : State) (n : Nat) (x : DoutChan) : (s.setDou n x).lin = s.lin := rfl
@[simp] theorem State.setDou_nsl (s : State) (n : Nat) (x : DoutChan) : (s.setDou n x).nsl = s.nsl := rfl
@[simp] theorem State.setDou_gwe (s : State) (n : Nat) (x : DoutChan) : (s.setDou n x).gwe = s.gwe := rfl
@[simp] theorem State.setDou_acc (s : State) (n : Nat) (x : DoutChan) : (s.setDou n x).acc = s.acc := rfl
@[simp] theorem State.setDou_cpu (s : State) (n : Nat) (x : DoutChan) : (s.setDou n x).cpu = s.cpu := rfl
@[simp] theorem State.setDou_nv (s : State) (n : Nat) (x : DoutChan) : (s.setDou n x).nv = s.nv := rfl
@[simp] theorem State.setDou_pmu (s : State) (n : Nat) (x : DoutChan) : (s.setDou n x).pmu = s.pmu := rfl
@[simp] theorem State.setDou_sys (s : State) (n : Nat) (x : DoutChan) : (s.setDou n x).sys = s.sys := rfl
@[simp] theorem State.setDou_sec (s : State) (n : Nat) (x : DoutChan) : (s.setDou n x).sec = s.sec := rfl
@[simp] theorem State.setDou_bsq (s : State) (n : Nat) (x : DoutChan) : (s.setDou n x).bsq = s.bsq := rfl
@[simp] theorem State.setDou_hand (s : State) (n : Nat) (x : DoutChan) : (s.setDou n x).hand = s.hand := rfl
@[simp] theorem State.setDou_host (s : State) (n : Nat) (x : DoutChan) : (s.setDou n x).host = s.host := rfl
@[simp] theorem State.setDou_flash (s : State) (n : Nat) (x : DoutChan) : (s.setDou n x).flash = s.flash := rfl
@[simp] theorem State.setDou_overVolt (s : State) (n : Nat) (x : DoutChan) : (s.setDou n x).overVolt = s.overVolt := rfl
@[simp] theorem State.setDou_reg (s : State) (n : Nat) (x : DoutChan) (a' : Nat) : (s.setDou n x).reg a' = s.reg a' := rfl
@[simp] theorem State.setDou_fld (s : State) (n : Nat) (x : DoutChan) (f' : Fld) : (s.setDou n x).fld f' = s.fld f' := rfl
@[simp] theorem State.setDou_flag (s : State) (n : Nat) (x : DoutChan) (f' : Fld) : (s.setDou n x).flag f' = s.flag f' := rfl

/-! State.setCtr changes gt. -/
@[simp] theorem State.setCtr_pending (s : State) (n : Nat) (x : Counter) : (s.setCtr n x).pending = s.pending := rfl
@[simp] theorem State.setCtr_now (s : State) (n : Nat) (x : Counter) : (s.setCtr n x).now = s.now := rfl
@[simp] theorem State.setCtr_freeCtr (s : State) (n : Nat) (x : Counter) : (s.setCtr n x).freeCtr = s.freeCtr := rfl
@[simp] theorem State.setCtr_regs (s : State) (n : Nat) (x : Counter) : (s.setCtr n x).regs = s.regs := rfl
@[simp] theorem State.setCtr_mem (s : State) (n : Nat) (x : Counter) : (s.setCtr n x).mem = s.mem := rfl
@[simp] theorem State.setCtr_reply (s : State) (n : Nat) (x : Counter) : (s.setCtr n x).reply = s.reply := rfl
@[simp] theorem State.setCtr_sent (s : State) (n : Nat) (x : Counter) : (s.setCtr n x).sent = s.sent := rfl
@[simp] theorem State.setCtr_txn (s : State) (n : Nat) (x : Counter) : (s.setCtr n x).txn = s.txn := rfl
@[simp] theorem State.setCtr_hsw (s : State) (n : Nat) (x : Counter) : (s.setCtr n x).hsw = s.hsw := rfl
@[simp] theorem State.setCtr_pdi (s : State) (n : Nat) (x : Counter) : (s.setCtr n x).pdi = s.pdi := rfl
@[simp] theorem State.setCtr_vlv (s : State) (n : Nat) (x : Counter) : (s.setCtr n x).vlv = s.vlv := rfl
@[simp] theorem State.setCtr_led (s : State) (n : Nat) (x : Counter) : (s.setCtr n x).led = s.led := rfl
@[simp] theorem State.setCtr_din (s : State) (n : Nat) (x : Counter) : (s.setCtr n x).din = s.din := rfl
@[simp] theorem State.setCtr_dout (s : State) (n : Nat) (x : Counter) : (s.setCtr n x).dout = s.dout := rfl
@[simp] theorem State.setCtr_fcu (s : State) (n : Nat) (x : Counter) : (s.setCtr n x).fcu = s.fcu := rfl
@[simp] theorem State.setCtr_ntu (s : State) (n : Nat) (x : Counter) : (s.setCtr n x).ntu = s.ntu := rfl
@[simp] theorem State.setCtr_readShadow (s : State) (n : Nat) (x : Counter) : (s.setCtr n x).readShadow = s.readShadow := rfl
@[simp] theorem State.setCtr_writeShadow (s : State) (n : Nat) (x : Counter) : (s.setCtr n x).writeShadow = s.writeShadow := rfl
@[simp] theorem State.setCtr_gtAvail (s : State) (n : Nat) (x : Counter) : (s.setCtr n x).gtAvail = s.gtAvail := rfl
@[simp] theorem State.setCtr_mbx (s : State) (n : Nat) (x : Counter) : (s.setCtr n x).mbx = s.mbx := rfl
@[simp] theorem State.setCtr_can (s : State) (n : Nat) (x : Counter) : (s.setCtr n x).can = s.can := rfl
@[simp] theorem State.setCtr_lin (s : State) (n : Nat) (x : Counter) : (s.setCtr n x).lin = s.lin := rfl
@[simp] theorem State.setCtr_nsl (s : State) (n : Nat) (x : Counter) : (s.setCtr n x).nsl = s.nsl := rfl
@[simp] theorem State.setCtr_gwe (s : State) (n : Nat) (x : Counter) : (s.setCtr n x).gwe = s.gwe := rfl
@[simp] theorem State.setCtr_acc (s : State) (n : Nat) (x : Counter) : (s.setCtr n x).acc = s.acc := rfl
@[simp] theorem State.setCtr_cpu (s : State) (n : Nat) (x : Counter) : (s.setCtr n x).cpu = s.cpu := rfl
@[simp] theorem State.setCtr_nv (s : State) (n : Nat) (x : Counter) : (s.setCtr n x).nv = s.nv := rfl
@[simp] theorem State.setCtr_pmu (s : State) (n : Nat) (x : Counter) : (s.setCtr n x).pmu = s.pmu := rfl
@[simp] theorem State.setCtr_sys (s : State) (n : Nat) (x : Counter) : (s.setCtr n x).sys = s.sys := rfl
@[simp] theorem State.setCtr_sec (s : State) (n : Nat) (x : Counter) : (s.setCtr n x).sec = s.sec := rfl
@[simp] theorem State.setCtr_bsq (s : State) (n : Nat) (x : Counter) : (s.setCtr n x).bsq = s.bsq := rfl
@[simp] theorem State.setCtr_hand (s : State) (n : Nat) (x : Counter) : (s.setCtr n x).hand = s.hand := rfl
@[simp] theorem State.setCtr_host (s : State) (n : Nat) (x : Counter) : (s.setCtr n x).host = s.host := rfl
@[simp] theorem State.setCtr_flash (s : State) (n : Nat) (x : Counter) : (s.setCtr n x).flash = s.flash := rfl
@[simp] theorem State.setCtr_overVolt (s : State) (n : Nat) (x : Counter) : (s.setCtr n x).overVolt = s.overVolt := rfl
@[simp] theorem State.setCtr_reg (s : State) (n : Nat) (x : Counter) (a' : Nat) : (s.setCtr n x).reg a' = s.reg a' := rfl
@[simp] theorem State.setCtr_fld (s : State) (n : Nat) (x : Counter) (f' : Fld) : (s.setCtr n x).fld f' = s.fld f' := rfl
@[simp] theorem State.setCtr_flag (s : State) (n : Nat) (x : Counter) (f' : Fld) : (s.setCtr n x).flag f' = s.flag f' := rfl

/-! State.drawn changes freeCtr. -/
@[simp] theorem State.drawn_pending (s : State) (n : Nat) : (s.drawn n).pending = s.pending := rfl
@[simp] theorem State.drawn_now (s : State) (n : Nat) : (s.drawn n).now = s.now := rfl
@[simp] theorem State.drawn_regs (s : State) (n : Nat) : (s.drawn n).regs = s.regs := rfl
@[simp] theorem State.drawn_mem (s : State) (n : Nat) : (s.drawn n).mem = s.mem := rfl
@[simp] theorem State.drawn_reply (s : State) (n : Nat) : (s.drawn n).reply = s.reply := rfl
@[simp] theorem State.drawn_sent (s : State) (n : Nat) : (s.drawn n).sent = s.sent := rfl
@[simp] theorem State.drawn_txn (s : State) (n : Nat) : (s.drawn n).txn = s.txn := rfl
@[simp] theorem State.drawn_hsw (s : State) (n : Nat) : (s.drawn n).hsw = s.hsw := rfl
@[simp] theorem State.drawn_pdi (s : State) (n : Nat) : (s.drawn n).pdi = s.pdi := rfl
@[simp] theorem State.drawn_vlv (s : State) (n : Nat) : (s.drawn n).vlv = s.vlv := rfl
@[simp] theorem State.drawn_led (s : State) (n : Nat) : (s.drawn n).led = s.led := rfl
@[simp] theorem State.drawn_din (s : State) (n : Nat) : (s.drawn n).din = s.din := rfl
@[simp] theorem State.drawn_dout (s : State) (n : Nat) : (s.drawn n).dout = s.dout := rfl
@[simp] theorem State.drawn_fcu (s : State) (n : Nat) : (s.drawn n).fcu = s.fcu := rfl
@[simp] theorem State.drawn_gt (s : State) (n : Nat) : (s.drawn n).gt = s.gt := rfl
@[simp] theorem State.drawn_ntu (s : State) (n : Nat) : (s.drawn n).ntu = s.ntu := rfl
@[simp] theorem State.drawn_readShadow (s : State) (n : Nat) : (s.drawn n).readShadow = s.readShadow := rfl
@[simp] theorem State.drawn_writeShadow (s : State) (n : Nat) : (s.drawn n).writeShadow = s.writeShadow := rfl
@[simp] theorem State.drawn_gtAvail (s : State) (n : Nat) : (s.drawn n).gtAvail = s.gtAvail := rfl
@[simp] theorem State.drawn_mbx (s : State) (n : Nat) : (s.drawn n).mbx = s.mbx := rfl
@[simp] theorem State.drawn_can (s : State) (n : Nat) : (s.drawn n).can = s.can := rfl
@[simp] theorem State.drawn_lin (s : State) (n : Nat) : (s.drawn n).lin = s.lin := rfl
@[simp] theorem State.drawn_nsl (s : State) (n : Nat) : (s.drawn n).nsl = s.nsl := rfl
@[simp] theorem State.drawn_gwe (s : State) (n : Nat) : (s.drawn n).gwe = s.gwe := rfl
@[simp] theorem State.drawn_acc (s : State) (n : Nat) : (s.drawn n).acc = s.acc := rfl
@[simp] theorem State.drawn_cpu (s : State) (n : Nat) : (s.drawn n).cpu = s.cpu := rfl
@[simp] theorem State.drawn_nv (s : State) (n : Nat) : (s.drawn n).nv = s.nv := rfl
@[simp] theorem State.drawn_pmu (s : State) (n : Nat) : (s.drawn n).pmu = s.pmu := rfl
@[simp] theorem State.drawn_sys (s : State) (n : Nat) : (s.drawn n).sys = s.sys := rfl
@[simp] theorem State.drawn_sec (s : State) (n : Nat) : (s.drawn n).sec = s.sec := rfl
@[simp] theorem State.drawn_bsq (s : State) (n : Nat) : (s.drawn n).bsq = s.bsq := rfl
@[simp] theorem State.drawn_hand (s : State) (n : Nat) : (s.drawn n).hand = s.hand := rfl
@[simp] theorem State.drawn_host (s : State) (n : Nat) : (s.drawn n).host = s.host := rfl
@[simp] theorem State.drawn_flash (s : State) (n : Nat) : (s.drawn n).flash = s.flash := rfl
@[simp] theorem State.drawn_overVolt (s : State) (n : Nat) : (s.drawn n).overVolt = s.overVolt := rfl
@[simp] theorem State.drawn_reg (s : State) (n : Nat) (a' : Nat) : (s.drawn n).reg a' = s.reg a' := rfl
@[simp] theorem State.drawn_fld (s : State) (n : Nat) (f' : Fld) : (s.drawn n).fld f' = s.fld f' := rfl
@[simp] theorem State.drawn_flag (s : State) (n : Nat) (f' : Fld) : (s.drawn n).flag f' = s.flag f' := rfl

/-! State.answer changes reply. -/
@[simp] theorem State.answer_pending (s : State) (v : Nat) : (s.answer v).pending = s.pending := rfl
@[simp] theorem State.answer_now (s : State) (v : Nat) : (s.answer v).now = s.now := rfl
@[simp] theorem State.answer_freeCtr (s : State) (v : Nat) : (s.answer v).freeCtr = s.freeCtr := rfl
@[simp] theorem State.answer_regs (s : State) (v : Nat) : (s.answer v).regs = s.regs := rfl
@[simp] theorem State.answer_mem (s : State) (v : Nat) : (s.answer v).mem = s.mem := rfl
@[simp] theorem State.answer_sent (s : State) (v : Nat) : (s.answer v).sent = s.sent := rfl
@[simp] theorem State.answer_txn (s : State) (v : Nat) : (s.answer v).txn = s.txn := rfl
@[simp] theorem State.answer_hsw (s : State) (v : Nat) : (s.answer v).hsw = s.hsw := rfl
@[simp] theorem State.answer_pdi (s : State) (v : Nat) : (s.answer v).pdi = s.pdi := rfl
@[simp] theorem State.answer_vlv (s : State) (v : Nat) : (s.answer v).vlv = s.vlv := rfl
@[simp] theorem State.answer_led (s : State) (v : Nat) : (s.answer v).led = s.led := rfl
@[simp] theorem State.answer_din (s : State) (v : Nat) : (s.answer v).din = s.din := rfl
@[simp] theorem State.answer_dout (s : State) (v : Nat) : (s.answer v).dout = s.dout := rfl
@[simp] theorem State.answer_fcu (s : State) (v : Nat) : (s.answer v).fcu = s.fcu := rfl
@[simp] theorem State.answer_gt (s : State) (v : Nat) : (s.answer v).gt = s.gt := rfl
@[simp] theorem State.answer_ntu (s : State) (v : Nat) : (s.answer v).ntu = s.ntu := rfl
@[simp] theorem State.answer_readShadow (s : State) (v : Nat) : (s.answer v).readShadow = s.readShadow := rfl
@[simp] theorem State.answer_writeShadow (s : State) (v : Nat) : (s.answer v).writeShadow = s.writeShadow := rfl
@[simp] theorem State.answer_gtAvail (s : State) (v : Nat) : (s.answer v).gtAvail = s.gtAvail := rfl
@[simp] theorem State.answer_mbx (s : State) (v : Nat) : (s.answer v).mbx = s.mbx := rfl
@[simp] theorem State.answer_can (s : State) (v : Nat) : (s.answer v).can = s.can := rfl
@[simp] theorem State.answer_lin (s : State) (v : Nat) : (s.answer v).lin = s.lin := rfl
@[simp] theorem State.answer_nsl (s : State) (v : Nat) : (s.answer v).nsl = s.nsl := rfl
@[simp] theorem State.answer_gwe (s : State) (v : Nat) : (s.answer v).gwe = s.gwe := rfl
@[simp] theorem State.answer_acc (s : State) (v : Nat) : (s.answer v).acc = s.acc := rfl
@[simp] theorem State.answer_cpu (s : State) (v : Nat) : (s.answer v).cpu = s.cpu := rfl
@[simp] theorem State.answer_nv (s : State) (v : Nat) : (s.answer v).nv = s.nv := rfl
@[simp] theorem State.answer_pmu (s : State) (v : Nat) : (s.answer v).pmu = s.pmu := rfl
@[simp] theorem State.answer_sys (s : State) (v : Nat) : (s.answer v).sys = s.sys := rfl
@[simp] theorem State.answer_sec (s : State) (v : Nat) : (s.answer v).sec = s.sec := rfl
@[simp] theorem State.answer_bsq (s : State) (v : Nat) : (s.answer v).bsq = s.bsq := rfl
@[simp] theorem State.answer_hand (s : State) (v : Nat) : (s.answer v).hand = s.hand := rfl
@[simp] theorem State.answer_host (s : State) (v : Nat) : (s.answer v).host = s.host := rfl
@[simp] theorem State.answer_flash (s : State) (v : Nat) : (s.answer v).flash = s.flash := rfl
@[simp] theorem State.answer_overVolt (s : State) (v : Nat) : (s.answer v).overVolt = s.overVolt := rfl
@[simp] theorem State.answer_reg (s : State) (v : Nat) (a' : Nat) : (s.answer v).reg a' = s.reg a' := rfl
@[simp] theorem State.answer_fld (s : State) (v : Nat) (f' : Fld) : (s.answer v).fld f' = s.fld f' := rfl
@[simp] theorem State.answer_flag (s : State) (v : Nat) (f' : Fld) : (s.answer v).flag f' = s.flag f' := rfl

/-! State.send changes sent. -/
@[simp] theorem State.send_pending (s : State) (x : Sent) : (s.send x).pending = s.pending := rfl
@[simp] theorem State.send_now (s : State) (x : Sent) : (s.send x).now = s.now := rfl
@[simp] theorem State.send_freeCtr (s : State) (x : Sent) : (s.send x).freeCtr = s.freeCtr := rfl
@[simp] theorem State.send_regs (s : State) (x : Sent) : (s.send x).regs = s.regs := rfl
@[simp] theorem State.send_mem (s : State) (x : Sent) : (s.send x).mem = s.mem := rfl
@[simp] theorem State.send_reply (s : State) (x : Sent) : (s.send x).reply = s.reply := rfl
@[simp] theorem State.send_txn (s : State) (x : Sent) : (s.send x).txn = s.txn := rfl
@[simp] theorem State.send_hsw (s : State) (x : Sent) : (s.send x).hsw = s.hsw := rfl
@[simp] theorem State.send_pdi (s : State) (x : Sent) : (s.send x).pdi = s.pdi := rfl
@[simp] theorem State.send_vlv (s : State) (x : Sent) : (s.send x).vlv = s.vlv := rfl
@[simp] theorem State.send_led (s : State) (x : Sent) : (s.send x).led = s.led := rfl
@[simp] theorem State.send_din (s : State) (x : Sent) : (s.send x).din = s.din := rfl
@[simp] theorem State.send_dout (s : State) (x : Sent) : (s.send x).dout = s.dout := rfl
@[simp] theorem State.send_fcu (s : State) (x : Sent) : (s.send x).fcu = s.fcu := rfl
@[simp] theorem State.send_gt (s : State) (x : Sent) : (s.send x).gt = s.gt := rfl
@[simp] theorem State.send_ntu (s : State) (x : Sent) : (s.send x).ntu = s.ntu := rfl
@[simp] theorem State.send_readShadow (s : State) (x : Sent) : (s.send x).readShadow = s.readShadow := rfl
@[simp] theorem State.send_writeShadow (s : State) (x : Sent) : (s.send x).writeShadow = s.writeShadow := rfl
@[simp] theorem State.send_gtAvail (s : State) (x : Sent) : (s.send x).gtAvail = s.gtAvail := rfl
@[simp] theorem State.send_mbx (s : State) (x : Sent) : (s.send x).mbx = s.mbx := rfl
@[simp] theorem State.send_can (s : State) (x : Sent) : (s.send x).can = s.can := rfl
@[simp] theorem State.send_lin (s : State) (x : Sent) : (s.send x).lin = s.lin := rfl
@[simp] theorem State.send_nsl (s : State) (x : Sent) : (s.send x).nsl = s.nsl := rfl
@[simp] theorem State.send_gwe (s : State) (x : Sent) : (s.send x).gwe = s.gwe := rfl
@[simp] theorem State.send_acc (s : State) (x : Sent) : (s.send x).acc = s.acc := rfl
@[simp] theorem State.send_cpu (s : State) (x : Sent) : (s.send x).cpu = s.cpu := rfl
@[simp] theorem State.send_nv (s : State) (x : Sent) : (s.send x).nv = s.nv := rfl
@[simp] theorem State.send_pmu (s : State) (x : Sent) : (s.send x).pmu = s.pmu := rfl
@[simp] theorem State.send_sys (s : State) (x : Sent) : (s.send x).sys = s.sys := rfl
@[simp] theorem State.send_sec (s : State) (x : Sent) : (s.send x).sec = s.sec := rfl
@[simp] theorem State.send_bsq (s : State) (x : Sent) : (s.send x).bsq = s.bsq := rfl
@[simp] theorem State.send_hand (s : State) (x : Sent) : (s.send x).hand = s.hand := rfl
@[simp] theorem State.send_host (s : State) (x : Sent) : (s.send x).host = s.host := rfl
@[simp] theorem State.send_flash (s : State) (x : Sent) : (s.send x).flash = s.flash := rfl
@[simp] theorem State.send_overVolt (s : State) (x : Sent) : (s.send x).overVolt = s.overVolt := rfl
@[simp] theorem State.send_reg (s : State) (x : Sent) (a' : Nat) : (s.send x).reg a' = s.reg a' := rfl
@[simp] theorem State.send_fld (s : State) (x : Sent) (f' : Fld) : (s.send x).fld f' = s.fld f' := rfl
@[simp] theorem State.send_flag (s : State) (x : Sent) (f' : Fld) : (s.send x).flag f' = s.flag f' := rfl

/-! State.sendAll changes sent. -/
@[simp] theorem State.sendAll_pending (s : State) (l : List Sent) : (s.sendAll l).pending = s.pending := rfl
@[simp] theorem State.sendAll_now (s : State) (l : List Sent) : (s.sendAll l).now = s.now := rfl
@[simp] theorem State.sendAll_freeCtr (s : State) (l : List Sent) : (s.sendAll l).freeCtr = s.freeCtr := rfl
@[simp] theorem State.sendAll_regs (s : State) (l : List Sent) : (s.sendAll l).regs = s.regs := rfl
@[simp] theorem State.sendAll_mem (s : State) (l : List Sent) : (s.sendAll l).mem = s.mem := rfl
@[simp] theorem State.sendAll_reply (s : State) (l : List Sent) : (s.sendAll l).reply = s.reply := rfl
@[simp] theorem State.sendAll_txn (s : State) (l : List Sent) : (s.sendAll l).txn = s.txn := rfl
@[simp] theorem State.sendAll_hsw (s : State) (l : List Sent) : (s.sendAll l).hsw = s.hsw := rfl
@[simp] theorem State.sendAll_pdi (s : State) (l : List Sent) : (s.sendAll l).pdi = s.pdi := rfl
@[simp] theorem State.sendAll_vlv (s : State) (l : List Sent) : (s.sendAll l).vlv = s.vlv := rfl
@[simp] theorem State.sendAll_led (s : State) (l : List Sent) : (s.sendAll l).led = s.led := rfl
@[simp] theorem State.sendAll_din (s : State) (l : List Sent) : (s.sendAll l).din = s.din := rfl
@[simp] theorem State.sendAll_dout (s : State) (l : List Sent) : (s.sendAll l).dout = s.dout := rfl
@[simp] theorem State.sendAll_fcu (s : State) (l : List Sent) : (s.sendAll l).fcu = s.fcu := rfl
@[simp] theorem State.sendAll_gt (s : State) (l : List Sent) : (s.sendAll l).gt = s.gt := rfl
@[simp] theorem State.sendAll_ntu (s : State) (l : List Sent) : (s.sendAll l).ntu = s.ntu := rfl
@[simp] theorem State.sendAll_readShadow (s : State) (l : List Sent) : (s.sendAll l).readShadow = s.readShadow := rfl
@[simp] theorem State.sendAll_writeShadow (s : State) (l : List Sent) : (s.sendAll l).writeShadow = s.writeShadow := rfl
@[simp] theorem State.sendAll_gtAvail (s : State) (l : List Sent) : (s.sendAll l).gtAvail = s.gtAvail := rfl
@[simp] theorem State.sendAll_mbx (s : State) (l : List Sent) : (s.sendAll l).mbx = s.mbx := rfl
@[simp] theorem State.sendAll_can (s : State) (l : List Sent) : (s.sendAll l).can = s.can := rfl
@[simp] theorem State.sendAll_lin (s : State) (l : List Sent) : (s.sendAll l).lin = s.lin := rfl
@[simp] theorem State.sendAll_nsl (s : State) (l : List Sent) : (s.sendAll l).nsl = s.nsl := rfl
@[simp] theorem State.sendAll_gwe (s : State) (l : List Sent) : (s.sendAll l).gwe = s.gwe := rfl
@[simp] theorem State.sendAll_acc (s : State) (l : List Sent) : (s.sendAll l).acc = s.acc := rfl
@[simp] theorem State.sendAll_cpu (s : State) (l : List Sent) : (s.sendAll l).cpu = s.cpu := rfl
@[simp] theorem State.sendAll_nv (s : State) (l : List Sent) : (s.sendAll l).nv = s.nv := rfl
@[simp] theorem State.sendAll_pmu (s : State) (l : List Sent) : (s.sendAll l).pmu = s.pmu := rfl
@[simp] theorem State.sendAll_sys (s : State) (l : List Sent) : (s.sendAll l).sys = s.sys := rfl
@[simp] theorem State.sendAll_sec (s : State) (l : List Sent) : (s.sendAll l).sec = s.sec := rfl
@[simp] theorem State.sendAll_bsq (s : State) (l : List Sent) : (s.sendAll l).bsq = s.bsq := rfl
@[simp] theorem State.sendAll_hand (s : State) (l : List Sent) : (s.sendAll l).hand = s.hand := rfl
@[simp] theorem State.sendAll_host (s : State) (l : List Sent) : (s.sendAll l).host = s.host := rfl
@[simp] theorem State.sendAll_flash (s : State) (l : List Sent) : (s.sendAll l).flash = s.flash := rfl
@[simp] theorem State.sendAll_overVolt (s : State) (l : List Sent) : (s.sendAll l).overVolt = s.overVolt := rfl
@[simp] theorem State.sendAll_reg (s : State) (l : List Sent) (a' : Nat) : (s.sendAll l).reg a' = s.reg a' := rfl
@[simp] theorem State.sendAll_fld (s : State) (l : List Sent) (f' : Fld) : (s.sendAll l).fld f' = s.fld f' := rfl
@[simp] theorem State.sendAll_flag (s : State) (l : List Sent) (f' : Fld) : (s.sendAll l).flag f' = s.flag f' := rfl

/-! State.raiseL changes fcu. -/
@[simp] theorem State.raiseL_pending (s : State) (src : Nat) : (s.raiseL src).pending = s.pending := rfl
@[simp] theorem State.raiseL_now (s : State) (src : Nat) : (s.raiseL src).now = s.now := rfl
@[simp] theorem State.raiseL_freeCtr (s : State) (src : Nat) : (s.raiseL src).freeCtr = s.freeCtr := rfl
@[simp] theorem State.raiseL_regs (s : State) (src : Nat) : (s.raiseL src).regs = s.regs := rfl
@[simp] theorem State.raiseL_mem (s : State) (src : Nat) : (s.raiseL src).mem = s.mem := rfl
@[simp] theorem State.raiseL_reply (s : State) (src : Nat) : (s.raiseL src).reply = s.reply := rfl
@[simp] theorem State.raiseL_sent (s : State) (src : Nat) : (s.raiseL src).sent = s.sent := rfl
@[simp] theorem State.raiseL_txn (s : State) (src : Nat) : (s.raiseL src).txn = s.txn := rfl
@[simp] theorem State.raiseL_hsw (s : State) (src : Nat) : (s.raiseL src).hsw = s.hsw := rfl
@[simp] theorem State.raiseL_pdi (s : State) (src : Nat) : (s.raiseL src).pdi = s.pdi := rfl
@[simp] theorem State.raiseL_vlv (s : State) (src : Nat) : (s.raiseL src).vlv = s.vlv := rfl
@[simp] theorem State.raiseL_led (s : State) (src : Nat) : (s.raiseL src).led = s.led := rfl
@[simp] theorem State.raiseL_din (s : State) (src : Nat) : (s.raiseL src).din = s.din := rfl
@[simp] theorem State.raiseL_dout (s : State) (src : Nat) : (s.raiseL src).dout = s.dout := rfl
@[simp] theorem State.raiseL_gt (s : State) (src : Nat) : (s.raiseL src).gt = s.gt := rfl
@[simp] theorem State.raiseL_ntu (s : State) (src : Nat) : (s.raiseL src).ntu = s.ntu := rfl
@[simp] theorem State.raiseL_readShadow (s : State) (src : Nat) : (s.raiseL src).readShadow = s.readShadow := rfl
@[simp] theorem State.raiseL_writeShadow (s : State) (src : Nat) : (s.raiseL src).writeShadow = s.writeShadow := rfl
@[simp] theorem State.raiseL_gtAvail (s : State) (src : Nat) : (s.raiseL src).gtAvail = s.gtAvail := rfl
@[simp] theorem State.raiseL_mbx (s : State) (src : Nat) : (s.raiseL src).mbx = s.mbx := rfl
@[simp] theorem State.raiseL_can (s : State) (src : Nat) : (s.raiseL src).can = s.can := rfl
@[simp] theorem State.raiseL_lin (s : State) (src : Nat) : (s.raiseL src).lin = s.lin := rfl
@[simp] theorem State.raiseL_nsl (s : State) (src : Nat) : (s.raiseL src).nsl = s.nsl := rfl
@[simp] theorem State.raiseL_gwe (s : State) (src : Nat) : (s.raiseL src).gwe = s.gwe := rfl
@[simp] theorem State.raiseL_acc (s : State) (src : Nat) : (s.raiseL src).acc = s.acc := rfl
@[simp] theorem State.raiseL_cpu (s : State) (src : Nat) : (s.raiseL src).cpu = s.cpu := rfl
@[simp] theorem State.raiseL_nv (s : State) (src : Nat) : (s.raiseL src).nv = s.nv := rfl
@[simp] theorem State.raiseL_pmu (s : State) (src : Nat) : (s.raiseL src).pmu = s.pmu := rfl
@[simp] theorem State.raiseL_sys (s : State) (src : Nat) : (s.raiseL src).sys = s.sys := rfl
@[simp] theorem State.raiseL_sec (s : State) (src : Nat) : (s.raiseL src).sec = s.sec := rfl
@[simp] theorem State.raiseL_bsq (s : State) (src : Nat) : (s.raiseL src).bsq = s.bsq := rfl
@[simp] theorem State.raiseL_hand (s : State) (src : Nat) : (s.raiseL src).hand = s.hand := rfl
@[simp] theorem State.raiseL_host (s : State) (src : Nat) : (s.raiseL src).host = s.host := rfl
@[simp] theorem State.raiseL_flash (s : State) (src : Nat) : (s.raiseL src).flash = s.flash := rfl
@[simp] theorem State.raiseL_overVolt (s : State) (src : Nat) : (s.raiseL src).overVolt = s.overVolt := rfl
@[simp] theorem State.raiseL_reg (s : State) (src : Nat) (a' : Nat) : (s.raiseL src).reg a' = s.reg a' := rfl
@[simp] theorem State.raiseL_fld (s : State) (src : Nat) (f' : Fld) : (s.raiseL src).fld f' = s.fld f' := rfl
@[simp] theorem State.raiseL_flag (s : State) (src : Nat) (f' : Fld) : (s.raiseL src).flag f' = s.flag f' := rfl

/-! State.markOff changes pdi. -/
@[simp] theorem State.markOff_pending (s : State) (b : OutBlock) (c : Nat) : (s.markOff b c).pending = s.pending := rfl
@[simp] theorem State.markOff_now (s : State) (b : OutBlock) (c : Nat) : (s.markOff b c).now = s.now := rfl
@[simp] theorem State.markOff_freeCtr (s : State) (b : OutBlock) (c : Nat) : (s.markOff b c).freeCtr = s.freeCtr := rfl
@[simp] theorem State.markOff_regs (s : State) (b : OutBlock) (c : Nat) : (s.markOff b c).regs = s.regs := rfl
@[simp] theorem State.markOff_mem (s : State) (b : OutBlock) (c : Nat) : (s.markOff b c).mem = s.mem := rfl
@[simp] theorem State.markOff_reply (s : State) (b : OutBlock) (c : Nat) : (s.markOff b c).reply = s.reply := rfl
@[simp] theorem State.markOff_sent (s : State) (b : OutBlock) (c : Nat) : (s.markOff b c).sent = s.sent := rfl
@[simp] theorem State.markOff_txn (s : State) (b : OutBlock) (c : Nat) : (s.markOff b c).txn = s.txn := rfl
@[simp] theorem State.markOff_hsw (s : State) (b : OutBlock) (c : Nat) : (s.markOff b c).hsw = s.hsw := rfl
@[simp] theorem State.markOff_vlv (s : State) (b : OutBlock) (c : Nat) : (s.markOff b c).vlv = s.vlv := rfl
@[simp] theorem State.markOff_led (s : State) (b : OutBlock) (c : Nat) : (s.markOff b c).led = s.led := rfl
@[simp] theorem State.markOff_din (s : State) (b : OutBlock) (c : Nat) : (s.markOff b c).din = s.din := rfl
@[simp] theorem State.markOff_dout (s : State) (b : OutBlock) (c : Nat) : (s.markOff b c).dout = s.dout := rfl
@[simp] theorem State.markOff_fcu (s : State) (b : OutBlock) (c : Nat) : (s.markOff b c).fcu = s.fcu := rfl
@[simp] theorem State.markOff_gt (s : State) (b : OutBlock) (c : Nat) : (s.markOff b c).gt = s.gt := rfl
@[simp] theorem State.markOff_ntu (s : State) (b : OutBlock) (c : Nat) : (s.markOff b c).ntu = s.ntu := rfl
@[simp] theorem State.markOff_readShadow (s : State) (b : OutBlock) (c : Nat) : (s.markOff b c).readShadow = s.readShadow := rfl
@[simp] theorem State.markOff_writeShadow (s : State) (b : OutBlock) (c : Nat) : (s.markOff b c).writeShadow = s.writeShadow := rfl
@[simp] theorem State.markOff_gtAvail (s : State) (b : OutBlock) (c : Nat) : (s.markOff b c).gtAvail = s.gtAvail := rfl
@[simp] theorem State.markOff_mbx (s : State) (b : OutBlock) (c : Nat) : (s.markOff b c).mbx = s.mbx := rfl
@[simp] theorem State.markOff_can (s : State) (b : OutBlock) (c : Nat) : (s.markOff b c).can = s.can := rfl
@[simp] theorem State.markOff_lin (s : State) (b : OutBlock) (c : Nat) : (s.markOff b c).lin = s.lin := rfl
@[simp] theorem State.markOff_nsl (s : State) (b : OutBlock) (c : Nat) : (s.markOff b c).nsl = s.nsl := rfl
@[simp] theorem State.markOff_gwe (s : State) (b : OutBlock) (c : Nat) : (s.markOff b c).gwe = s.gwe := rfl
@[simp] theorem State.markOff_acc (s : State) (b : OutBlock) (c : Nat) : (s.markOff b c).acc = s.acc := rfl
@[simp] theorem State.markOff_cpu (s : State) (b : OutBlock) (c : Nat) : (s.markOff b c).cpu = s.cpu := rfl
@[simp] theorem State.markOff_nv (s : State) (b : OutBlock) (c : Nat) : (s.markOff b c).nv = s.nv := rfl
@[simp] theorem State.markOff_pmu (s : State) (b : OutBlock) (c : Nat) : (s.markOff b c).pmu = s.pmu := rfl
@[simp] theorem State.markOff_sys (s : State) (b : OutBlock) (c : Nat) : (s.markOff b c).sys = s.sys := rfl
@[simp] theorem State.markOff_sec (s : State) (b : OutBlock) (c : Nat) : (s.markOff b c).sec = s.sec := rfl
@[simp] theorem State.markOff_bsq (s : State) (b : OutBlock) (c : Nat) : (s.markOff b c).bsq = s.bsq := rfl
@[simp] theorem State.markOff_hand (s : State) (b : OutBlock) (c : Nat) : (s.markOff b c).hand = s.hand := rfl
@[simp] theorem State.markOff_host (s : State) (b : OutBlock) (c : Nat) : (s.markOff b c).host = s.host := rfl
@[simp] theorem State.markOff_flash (s : State) (b : OutBlock) (c : Nat) : (s.markOff b c).flash = s.flash := rfl
@[simp] theorem State.markOff_overVolt (s : State) (b : OutBlock) (c : Nat) : (s.markOff b c).overVolt = s.overVolt := rfl
@[simp] theorem State.markOff_reg (s : State) (b : OutBlock) (c : Nat) (a' : Nat) : (s.markOff b c).reg a' = s.reg a' := rfl
@[simp] theorem State.markOff_fld (s : State) (b : OutBlock) (c : Nat) (f' : Fld) : (s.markOff b c).fld f' = s.fld f' := rfl
@[simp] theorem State.markOff_flag (s : State) (b : OutBlock) (c : Nat) (f' : Fld) : (s.markOff b c).flag f' = s.flag f' := rfl

/-! State.noteDemand changes hsw. -/
@[simp] theorem State.noteDemand_pending (s : State) (it : Item) : (s.noteDemand it).pending = s.pending := rfl
@[simp] theorem State.noteDemand_now (s : State) (it : Item) : (s.noteDemand it).now = s.now := rfl
@[simp] theorem State.noteDemand_freeCtr (s : State) (it : Item) : (s.noteDemand it).freeCtr = s.freeCtr := rfl
@[simp] theorem State.noteDemand_regs (s : State) (it : Item) : (s.noteDemand it).regs = s.regs := rfl
@[simp] theorem State.noteDemand_mem (s : State) (it : Item) : (s.noteDemand it).mem = s.mem := rfl
@[simp] theorem State.noteDemand_reply (s : State) (it : Item) : (s.noteDemand it).reply = s.reply := rfl
@[simp] theorem State.noteDemand_sent (s : State) (it : Item) : (s.noteDemand it).sent = s.sent := rfl
@[simp] theorem State.noteDemand_txn (s : State) (it : Item) : (s.noteDemand it).txn = s.txn := rfl
@[simp] theorem State.noteDemand_pdi (s : State) (it : Item) : (s.noteDemand it).pdi = s.pdi := rfl
@[simp] theorem State.noteDemand_vlv (s : State) (it : Item) : (s.noteDemand it).vlv = s.vlv := rfl
@[simp] theorem State.noteDemand_led (s : State) (it : Item) : (s.noteDemand it).led = s.led := rfl
@[simp] theorem State.noteDemand_din (s : State) (it : Item) : (s.noteDemand it).din = s.din := rfl
@[simp] theorem State.noteDemand_dout (s : State) (it : Item) : (s.noteDemand it).dout = s.dout := rfl
@[simp] theorem State.noteDemand_fcu (s : State) (it : Item) : (s.noteDemand it).fcu = s.fcu := rfl
@[simp] theorem State.noteDemand_gt (s : State) (it : Item) : (s.noteDemand it).gt = s.gt := rfl
@[simp] theorem State.noteDemand_ntu (s : State) (it : Item) : (s.noteDemand it).ntu = s.ntu := rfl
@[simp] theorem State.noteDemand_readShadow (s : State) (it : Item) : (s.noteDemand it).readShadow = s.readShadow := rfl
@[simp] theorem State.noteDemand_writeShadow (s : State) (it : Item) : (s.noteDemand it).writeShadow = s.writeShadow := rfl
@[simp] theorem State.noteDemand_gtAvail (s : State) (it : Item) : (s.noteDemand it).gtAvail = s.gtAvail := rfl
@[simp] theorem State.noteDemand_mbx (s : State) (it : Item) : (s.noteDemand it).mbx = s.mbx := rfl
@[simp] theorem State.noteDemand_can (s : State) (it : Item) : (s.noteDemand it).can = s.can := rfl
@[simp] theorem State.noteDemand_lin (s : State) (it : Item) : (s.noteDemand it).lin = s.lin := rfl
@[simp] theorem State.noteDemand_nsl (s : State) (it : Item) : (s.noteDemand it).nsl = s.nsl := rfl
@[simp] theorem State.noteDemand_gwe (s : State) (it : Item) : (s.noteDemand it).gwe = s.gwe := rfl
@[simp] theorem State.noteDemand_acc (s : State) (it : Item) : (s.noteDemand it).acc = s.acc := rfl
@[simp] theorem State.noteDemand_cpu (s : State) (it : Item) : (s.noteDemand it).cpu = s.cpu := rfl
@[simp] theorem State.noteDemand_nv (s : State) (it : Item) : (s.noteDemand it).nv = s.nv := rfl
@[simp] theorem State.noteDemand_pmu (s : State) (it : Item) : (s.noteDemand it).pmu = s.pmu := rfl
@[simp] theorem State.noteDemand_sys (s : State) (it : Item) : (s.noteDemand it).sys = s.sys := rfl
@[simp] theorem State.noteDemand_sec (s : State) (it : Item) : (s.noteDemand it).sec = s.sec := rfl
@[simp] theorem State.noteDemand_bsq (s : State) (it : Item) : (s.noteDemand it).bsq = s.bsq := rfl
@[simp] theorem State.noteDemand_hand (s : State) (it : Item) : (s.noteDemand it).hand = s.hand := rfl
@[simp] theorem State.noteDemand_host (s : State) (it : Item) : (s.noteDemand it).host = s.host := rfl
@[simp] theorem State.noteDemand_flash (s : State) (it : Item) : (s.noteDemand it).flash = s.flash := rfl
@[simp] theorem State.noteDemand_overVolt (s : State) (it : Item) : (s.noteDemand it).overVolt = s.overVolt := rfl
@[simp] theorem State.noteDemand_reg (s : State) (it : Item) (a' : Nat) : (s.noteDemand it).reg a' = s.reg a' := rfl
@[simp] theorem State.noteDemand_fld (s : State) (it : Item) (f' : Fld) : (s.noteDemand it).fld f' = s.fld f' := rfl
@[simp] theorem State.noteDemand_flag (s : State) (it : Item) (f' : Fld) : (s.noteDemand it).flag f' = s.flag f' := rfl

/-! State.setWdog changes sys. -/
@[simp] theorem State.setWdog_pending (s : State) (k : Nat) (x : Watchdog) : (s.setWdog k x).pending = s.pending := rfl
@[simp] theorem State.setWdog_now (s : State) (k : Nat) (x : Watchdog) : (s.setWdog k x).now = s.now := rfl
@[simp] theorem State.setWdog_freeCtr (s : State) (k : Nat) (x : Watchdog) : (s.setWdog k x).freeCtr = s.freeCtr := rfl
@[simp] theorem State.setWdog_regs (s : State) (k : Nat) (x : Watchdog) : (s.setWdog k x).regs = s.regs := rfl
@[simp] theorem State.setWdog_mem (s : State) (k : Nat) (x : Watchdog) : (s.setWdog k x).mem = s.mem := rfl
@[simp] theorem State.setWdog_reply (s : State) (k : Nat) (x : Watchdog) : (s.setWdog k x).reply = s.reply := rfl
@[simp] theorem State.setWdog_sent (s : State) (k : Nat) (x : Watchdog) : (s.setWdog k x).sent = s.sent := rfl
@[simp] theorem State.setWdog_txn (s : State) (k : Nat) (x : Watchdog) : (s.setWdog k x).txn = s.txn := rfl
@[simp] theorem State.setWdog_hsw (s : State) (k : Nat) (x : Watchdog) : (s.setWdog k x).hsw = s.hsw := rfl
@[simp] theorem State.setWdog_pdi (s : State) (k : Nat) (x : Watchdog) : (s.setWdog k x).pdi = s.pdi := rfl
@[simp] theorem State.setWdog_vlv (s : State) (k : Nat) (x : Watchdog) : (s.setWdog k x).vlv = s.vlv := rfl
@[simp] theorem State.setWdog_led (s : State) (k : Nat) (x : Watchdog) : (s.setWdog k x).led = s.led := rfl
@[simp] theorem State.setWdog_din (s : State) (k : Nat) (x : Watchdog) : (s.setWdog k x).din = s.din := rfl
@[simp] theorem State.setWdog_dout (s : State) (k : Nat) (x : Watchdog) : (s.setWdog k x).dout = s.dout := rfl
@[simp] theorem State.setWdog_fcu (s : State) (k : Nat) (x : Watchdog) : (s.setWdog k x).fcu = s.fcu := rfl
@[simp] theorem State.setWdog_gt (s : State) (k : Nat) (x : Watchdog) : (s.setWdog k x).gt = s.gt := rfl
@[simp] theorem State.setWdog_ntu (s : State) (k : Nat) (x : Watchdog) : (s.setWdog k x).ntu = s.ntu := rfl
@[simp] theorem State.setWdog_readShadow (s : State) (k : Nat) (x : Watchdog) : (s.setWdog k x).readShadow = s.readShadow := rfl
@[simp] theorem State.setWdog_writeShadow (s : State) (k : Nat) (x : Watchdog) : (s.setWdog k x).writeShadow = s.writeShadow := rfl
@[simp] theorem State.setWdog_gtAvail (s : State) (k : Nat) (x : Watchdog) : (s.setWdog k x).gtAvail = s.gtAvail := rfl
@[simp] theorem State.setWdog_mbx (s : State) (k : Nat) (x : Watchdog) : (s.setWdog k x).mbx = s.mbx := rfl
@[simp] theorem State.setWdog_can (s : State) (k : Nat) (x : Watchdog) : (s.setWdog k x).can = s.can := rfl
@[simp] theorem State.setWdog_lin (s : State) (k : Nat) (x : Watchdog) : (s.setWdog k x).lin = s.lin := rfl
@[simp] theorem State.setWdog_nsl (s : State) (k : Nat) (x : Watchdog) : (s.setWdog k x).nsl = s.nsl := rfl
@[simp] theorem State.setWdog_gwe (s : State) (k : Nat) (x : Watchdog) : (s.setWdog k x).gwe = s.gwe := rfl
@[simp] theorem State.setWdog_acc (s : State) (k : Nat) (x : Watchdog) : (s.setWdog k x).acc = s.acc := rfl
@[simp] theorem State.setWdog_cpu (s : State) (k : Nat) (x : Watchdog) : (s.setWdog k x).cpu = s.cpu := rfl
@[simp] theorem State.setWdog_nv (s : State) (k : Nat) (x : Watchdog) : (s.setWdog k x).nv = s.nv := rfl
@[simp] theorem State.setWdog_pmu (s : State) (k : Nat) (x : Watchdog) : (s.setWdog k x).pmu = s.pmu := rfl
@[simp] theorem State.setWdog_sec (s : State) (k : Nat) (x : Watchdog) : (s.setWdog k x).sec = s.sec := rfl
@[simp] theorem State.setWdog_bsq (s : State) (k : Nat) (x : Watchdog) : (s.setWdog k x).bsq = s.bsq := rfl
@[simp] theorem State.setWdog_hand (s : State) (k : Nat) (x : Watchdog) : (s.setWdog k x).hand = s.hand := rfl
@[simp] theorem State.setWdog_host (s : State) (k : Nat) (x : Watchdog) : (s.setWdog k x).host = s.host := rfl
@[simp] theorem State.setWdog_flash (s : State) (k : Nat) (x : Watchdog) : (s.setWdog k x).flash = s.flash := rfl
@[simp] theorem State.setWdog_overVolt (s : State) (k : Nat) (x : Watchdog) : (s.setWdog k x).overVolt = s.overVolt := rfl
@[simp] theorem State.setWdog_reg (s : State) (k : Nat) (x : Watchdog) (a' : Nat) : (s.setWdog k x).reg a' = s.reg a' := rfl
@[simp] theorem State.setWdog_fld (s : State) (k : Nat) (x : Watchdog) (f' : Fld) : (s.setWdog k x).fld f' = s.fld f' := rfl
@[simp] theorem State.setWdog_flag (s : State) (k : Nat) (x : Watchdog) (f' : Fld) : (s.setWdog k x).flag f' = s.flag f' := rfl

/-! State.busError changes reply. -/
@[simp] theorem State.busError_pending (s : State) : (s.busError).pending = s.pending := rfl
@[simp] theorem State.busError_now (s : State) : (s.busError).now = s.now := rfl
@[simp] theorem State.busError_freeCtr (s : State) : (s.busError).freeCtr = s.freeCtr := rfl
@[simp] theorem State.busError_regs (s : State) : (s.busError).regs = s.regs := rfl
@[simp] theorem State.busError_mem (s : State) : (s.busError).mem = s.mem := rfl
@[simp] theorem State.busError_sent (s : State) : (s.busError).sent = s.sent := rfl
@[simp] theorem State.busError_txn (s : State) : (s.busError).txn = s.txn := rfl
@[simp] theorem State.busError_hsw (s : State) : (s.busError).hsw = s.hsw := rfl
@[simp] theorem State.busError_pdi (s : State) : (s.busError).pdi = s.pdi := rfl
@[simp] theorem State.busError_vlv (s : State) : (s.busError).vlv = s.vlv := rfl
@[simp] theorem State.busError_led (s : State) : (s.busError).led = s.led := rfl
@[simp] theorem State.busError_din (s : State) : (s.busError).din = s.din := rfl
@[simp] theorem State.busError_dout (s : State) : (s.busError).dout = s.dout := rfl
@[simp] theorem State.busError_fcu (s : State) : (s.busError).fcu = s.fcu := rfl
@[simp] theorem State.busError_gt (s : State) : (s.busError).gt = s.gt := rfl
@[simp] theorem State.busError_ntu (s : State) : (s.busError).ntu = s.ntu := rfl
@[simp] theorem State.busError_readShadow (s : State) : (s.busError).readShadow = s.readShadow := rfl
@[simp] theorem State.busError_writeShadow (s : State) : (s.busError).writeShadow = s.writeShadow := rfl
@[simp] theorem State.busError_gtAvail (s : State) : (s.busError).gtAvail = s.gtAvail := rfl
@[simp] theorem State.busError_mbx (s : State) : (s.busError).mbx = s.mbx := rfl
@[simp] theorem State.busError_can (s : State) : (s.busError).can = s.can := rfl
@[simp] theorem State.busError_lin (s : State) : (s.busError).lin = s.lin := rfl
@[simp] theorem State.busError_nsl (s : State) : (s.busError).nsl = s.nsl := rfl
@[simp] theorem State.busError_gwe (s : State) : (s.busError).gwe = s.gwe := rfl
@[simp] theorem State.busError_acc (s : State) : (s.busError).acc = s.acc := rfl
@[simp] theorem State.busError_cpu (s : State) : (s.busError).cpu = s.cpu := rfl
@[simp] theorem State.busError_nv (s : State) : (s.busError).nv = s.nv := rfl
@[simp] theorem State.busError_pmu (s : State) : (s.busError).pmu = s.pmu := rfl
@[simp] theorem State.busError_sys (s : State) : (s.busError).sys = s.sys := rfl
@[simp] theorem State.busError_sec (s : State) : (s.busError).sec = s.sec := rfl
@[simp] theorem State.busError_bsq (s : State) : (s.busError).bsq = s.bsq := rfl
@[simp] theorem State.busError_hand (s : State) : (s.busError).hand = s.hand := rfl
@[simp] theorem State.busError_host (s : State) : (s.busError).host = s.host := rfl
@[simp] theorem State.busError_flash (s : State) : (s.busError).flash = s.flash := rfl
@[simp] theorem State.busError_overVolt (s : State) : (s.busError).overVolt = s.overVolt := rfl
@[simp] theorem State.busError_reg (s : State) (a' : Nat) : (s.busError).reg a' = s.reg a' := rfl
@[simp] theorem State.busError_fld (s : State) (f' : Fld) : (s.busError).fld f' = s.fld f' := rfl
@[simp] theorem State.busError_flag (s : State) (f' : Fld) : (s.busError).flag f' = s.flag f' := rfl

/-! State.setSide changes mbx. -/
@[simp] theorem State.setSide_pending (s : State) (m : Nat) (k : Nat) (x : MboxSide) : (s.setSide m k x).pending = s.pending := rfl
@[simp] theorem State.setSide_now (s : State) (m : Nat) (k : Nat) (x : MboxSide) : (s.setSide m k x).now = s.now := rfl
@[simp] theorem State.setSide_freeCtr (s : State) (m : Nat) (k : Nat) (x : MboxSide) : (s.setSide m k x).freeCtr = s.freeCtr := rfl
@[simp] theorem State.setSide_regs (s : State) (m : Nat) (k : Nat) (x : MboxSide) : (s.setSide m k x).regs = s.regs := rfl
@[simp] theorem State.setSide_mem (s : State) (m : Nat) (k : Nat) (x : MboxSide) : (s.setSide m k x).mem = s.mem := rfl
@[simp] theorem State.setSide_reply (s : State) (m : Nat) (k : Nat) (x : MboxSide) : (s.setSide m k x).reply = s.reply := rfl
@[simp] theorem State.setSide_sent (s : State) (m : Nat) (k : Nat) (x : MboxSide) : (s.setSide m k x).sent = s.sent := rfl
@[simp] theorem State.setSide_txn (s : State) (m : Nat) (k : Nat) (x : MboxSide) : (s.setSide m k x).txn = s.txn := rfl
@[simp] theorem State.setSide_hsw (s : State) (m : Nat) (k : Nat) (x : MboxSide) : (s.setSide m k x).hsw = s.hsw := rfl
@[simp] theorem State.setSide_pdi (s : State) (m : Nat) (k : Nat) (x : MboxSide) : (s.setSide m k x).pdi = s.pdi := rfl
@[simp] theorem State.setSide_vlv (s : State) (m : Nat) (k : Nat) (x : MboxSide) : (s.setSide m k x).vlv = s.vlv := rfl
@[simp] theorem State.setSide_led (s : State) (m : Nat) (k : Nat) (x : MboxSide) : (s.setSide m k x).led = s.led := rfl
@[simp] theorem State.setSide_din (s : State) (m : Nat) (k : Nat) (x : MboxSide) : (s.setSide m k x).din = s.din := rfl
@[simp] theorem State.setSide_dout (s : State) (m : Nat) (k : Nat) (x : MboxSide) : (s.setSide m k x).dout = s.dout := rfl
@[simp] theorem State.setSide_fcu (s : State) (m : Nat) (k : Nat) (x : MboxSide) : (s.setSide m k x).fcu = s.fcu := rfl
@[simp] theorem State.setSide_gt (s : State) (m : Nat) (k : Nat) (x : MboxSide) : (s.setSide m k x).gt = s.gt := rfl
@[simp] theorem State.setSide_ntu (s : State) (m : Nat) (k : Nat) (x : MboxSide) : (s.setSide m k x).ntu = s.ntu := rfl
@[simp] theorem State.setSide_readShadow (s : State) (m : Nat) (k : Nat) (x : MboxSide) : (s.setSide m k x).readShadow = s.readShadow := rfl
@[simp] theorem State.setSide_writeShadow (s : State) (m : Nat) (k : Nat) (x : MboxSide) : (s.setSide m k x).writeShadow = s.writeShadow := rfl
@[simp] theorem State.setSide_gtAvail (s : State) (m : Nat) (k : Nat) (x : MboxSide) : (s.setSide m k x).gtAvail = s.gtAvail := rfl
@[simp] theorem State.setSide_can (s : State) (m : Nat) (k : Nat) (x : MboxSide) : (s.setSide m k x).can = s.can := rfl
@[simp] theorem State.setSide_lin (s : State) (m : Nat) (k : Nat) (x : MboxSide) : (s.setSide m k x).lin = s.lin := rfl
@[simp] theorem State.setSide_nsl (s : State) (m : Nat) (k : Nat) (x : MboxSide) : (s.setSide m k x).nsl = s.nsl := rfl
@[simp] theorem State.setSide_gwe (s : State) (m : Nat) (k : Nat) (x : MboxSide) : (s.setSide m k x).gwe = s.gwe := rfl
@[simp] theorem State.setSide_acc (s : State) (m : Nat) (k : Nat) (x : MboxSide) : (s.setSide m k x).acc = s.acc := rfl
@[simp] theorem State.setSide_cpu (s : State) (m : Nat) (k : Nat) (x : MboxSide) : (s.setSide m k x).cpu = s.cpu := rfl
@[simp] theorem State.setSide_nv (s : State) (m : Nat) (k : Nat) (x : MboxSide) : (s.setSide m k x).nv = s.nv := rfl
@[simp] theorem State.setSide_pmu (s : State) (m : Nat) (k : Nat) (x : MboxSide) : (s.setSide m k x).pmu = s.pmu := rfl
@[simp] theorem State.setSide_sys (s : State) (m : Nat) (k : Nat) (x : MboxSide) : (s.setSide m k x).sys = s.sys := rfl
@[simp] theorem State.setSide_sec (s : State) (m : Nat) (k : Nat) (x : MboxSide) : (s.setSide m k x).sec = s.sec := rfl
@[simp] theorem State.setSide_bsq (s : State) (m : Nat) (k : Nat) (x : MboxSide) : (s.setSide m k x).bsq = s.bsq := rfl
@[simp] theorem State.setSide_hand (s : State) (m : Nat) (k : Nat) (x : MboxSide) : (s.setSide m k x).hand = s.hand := rfl
@[simp] theorem State.setSide_host (s : State) (m : Nat) (k : Nat) (x : MboxSide) : (s.setSide m k x).host = s.host := rfl
@[simp] theorem State.setSide_flash (s : State) (m : Nat) (k : Nat) (x : MboxSide) : (s.setSide m k x).flash = s.flash := rfl
@[simp] theorem State.setSide_overVolt (s : State) (m : Nat) (k : Nat) (x : MboxSide) : (s.setSide m k x).overVolt = s.overVolt := rfl
@[simp] theorem State.setSide_reg (s : State) (m : Nat) (k : Nat) (x : MboxSide) (a' : Nat) : (s.setSide m k x).reg a' = s.reg a' := rfl
@[simp] theorem State.setSide_fld (s : State) (m : Nat) (k : Nat) (x : MboxSide) (f' : Fld) : (s.setSide m k x).fld f' = s.fld f' := rfl
@[simp] theorem State.setSide_flag (s : State) (m : Nat) (k : Nat) (x : MboxSide) (f' : Fld) : (s.setSide m k x).flag f' = s.flag f' := rfl

/-! State.setLk changes mbx. -/
@[simp] theorem State.setLk_pending (s : State) (k : Nat) (x : Lock) : (s.setLk k x).pending = s.pending := rfl
@[simp] theorem State.setLk_now (s : State) (k : Nat) (x : Lock) : (s.setLk k x).now = s.now := rfl
@[simp] theorem State.setLk_freeCtr (s : State) (k : Nat) (x : Lock) : (s.setLk k x).freeCtr = s.freeCtr := rfl
@[simp] theorem State.setLk_regs (s : State) (k : Nat) (x : Lock) : (s.setLk k x).regs = s.regs := rfl
@[simp] theorem State.setLk_mem (s : State) (k : Nat) (x : Lock) : (s.setLk k x).mem = s.mem := rfl
@[simp] theorem State.setLk_reply (s : State) (k : Nat) (x : Lock) : (s.setLk k x).reply = s.reply := rfl
@[simp] theorem State.setLk_sent (s : State) (k : Nat) (x : Lock) : (s.setLk k x).sent = s.sent := rfl
@[simp] theorem State.setLk_txn (s : State) (k : Nat) (x : Lock) : (s.setLk k x).txn = s.txn := rfl
@[simp] theorem State.setLk_hsw (s : State) (k : Nat) (x : Lock) : (s.setLk k x).hsw = s.hsw := rfl
@[simp] theorem State.setLk_pdi (s : State) (k : Nat) (x : Lock) : (s.setLk k x).pdi = s.pdi := rfl
@[simp] theorem State.setLk_vlv (s : State) (k : Nat) (x : Lock) : (s.setLk k x).vlv = s.vlv := rfl
@[simp] theorem State.setLk_led (s : State) (k : Nat) (x : Lock) : (s.setLk k x).led = s.led := rfl
@[simp] theorem State.setLk_din (s : State) (k : Nat) (x : Lock) : (s.setLk k x).din = s.din := rfl
@[simp] theorem State.setLk_dout (s : State) (k : Nat) (x : Lock) : (s.setLk k x).dout = s.dout := rfl
@[simp] theorem State.setLk_fcu (s : State) (k : Nat) (x : Lock) : (s.setLk k x).fcu = s.fcu := rfl
@[simp] theorem State.setLk_gt (s : State) (k : Nat) (x : Lock) : (s.setLk k x).gt = s.gt := rfl
@[simp] theorem State.setLk_ntu (s : State) (k : Nat) (x : Lock) : (s.setLk k x).ntu = s.ntu := rfl
@[simp] theorem State.setLk_readShadow (s : State) (k : Nat) (x : Lock) : (s.setLk k x).readShadow = s.readShadow := rfl
@[simp] theorem State.setLk_writeShadow (s : State) (k : Nat) (x : Lock) : (s.setLk k x).writeShadow = s.writeShadow := rfl
@[simp] theorem State.setLk_gtAvail (s : State) (k : Nat) (x : Lock) : (s.setLk k x).gtAvail = s.gtAvail := rfl
@[simp] theorem State.setLk_can (s : State) (k : Nat) (x : Lock) : (s.setLk k x).can = s.can := rfl
@[simp] theorem State.setLk_lin (s : State) (k : Nat) (x : Lock) : (s.setLk k x).lin = s.lin := rfl
@[simp] theorem State.setLk_nsl (s : State) (k : Nat) (x : Lock) : (s.setLk k x).nsl = s.nsl := rfl
@[simp] theorem State.setLk_gwe (s : State) (k : Nat) (x : Lock) : (s.setLk k x).gwe = s.gwe := rfl
@[simp] theorem State.setLk_acc (s : State) (k : Nat) (x : Lock) : (s.setLk k x).acc = s.acc := rfl
@[simp] theorem State.setLk_cpu (s : State) (k : Nat) (x : Lock) : (s.setLk k x).cpu = s.cpu := rfl
@[simp] theorem State.setLk_nv (s : State) (k : Nat) (x : Lock) : (s.setLk k x).nv = s.nv := rfl
@[simp] theorem State.setLk_pmu (s : State) (k : Nat) (x : Lock) : (s.setLk k x).pmu = s.pmu := rfl
@[simp] theorem State.setLk_sys (s : State) (k : Nat) (x : Lock) : (s.setLk k x).sys = s.sys := rfl
@[simp] theorem State.setLk_sec (s : State) (k : Nat) (x : Lock) : (s.setLk k x).sec = s.sec := rfl
@[simp] theorem State.setLk_bsq (s : State) (k : Nat) (x : Lock) : (s.setLk k x).bsq = s.bsq := rfl
@[simp] theorem State.setLk_hand (s : State) (k : Nat) (x : Lock) : (s.setLk k x).hand = s.hand := rfl
@[simp] theorem State.setLk_host (s : State) (k : Nat) (x : Lock) : (s.setLk k x).host = s.host := rfl
@[simp] theorem State.setLk_flash (s : State) (k : Nat) (x : Lock) : (s.setLk k x).flash = s.flash := rfl
@[simp] theorem State.setLk_overVolt (s : State) (k : Nat) (x : Lock) : (s.setLk k x).overVolt = s.overVolt := rfl
@[simp] theorem State.setLk_reg (s : State) (k : Nat) (x : Lock) (a' : Nat) : (s.setLk k x).reg a' = s.reg a' := rfl
@[simp] theorem State.setLk_fld (s : State) (k : Nat) (x : Lock) (f' : Fld) : (s.setLk k x).fld f' = s.fld f' := rfl
@[simp] theorem State.setLk_flag (s : State) (k : Nat) (x : Lock) (f' : Fld) : (s.setLk k x).flag f' = s.flag f' := rfl

/-! State.setCore changes cpu. -/
@[simp] theorem State.setCore_pending (s : State) (e : Nat) (x : Core) : (s.setCore e x).pending = s.pending := rfl
@[simp] theorem State.setCore_now (s : State) (e : Nat) (x : Core) : (s.setCore e x).now = s.now := rfl
@[simp] theorem State.setCore_freeCtr (s : State) (e : Nat) (x : Core) : (s.setCore e x).freeCtr = s.freeCtr := rfl
@[simp] theorem State.setCore_regs (s : State) (e : Nat) (x : Core) : (s.setCore e x).regs = s.regs := rfl
@[simp] theorem State.setCore_mem (s : State) (e : Nat) (x : Core) : (s.setCore e x).mem = s.mem := rfl
@[simp] theorem State.setCore_reply (s : State) (e : Nat) (x : Core) : (s.setCore e x).reply = s.reply := rfl
@[simp] theorem State.setCore_sent (s : State) (e : Nat) (x : Core) : (s.setCore e x).sent = s.sent := rfl
@[simp] theorem State.setCore_txn (s : State) (e : Nat) (x : Core) : (s.setCore e x).txn = s.txn := rfl
@[simp] theorem State.setCore_hsw (s : State) (e : Nat) (x : Core) : (s.setCore e x).hsw = s.hsw := rfl
@[simp] theorem State.setCore_pdi (s : State) (e : Nat) (x : Core) : (s.setCore e x).pdi = s.pdi := rfl
@[simp] theorem State.setCore_vlv (s : State) (e : Nat) (x : Core) : (s.setCore e x).vlv = s.vlv := rfl
@[simp] theorem State.setCore_led (s : State) (e : Nat) (x : Core) : (s.setCore e x).led = s.led := rfl
@[simp] theorem State.setCore_din (s : State) (e : Nat) (x : Core) : (s.setCore e x).din = s.din := rfl
@[simp] theorem State.setCore_dout (s : State) (e : Nat) (x : Core) : (s.setCore e x).dout = s.dout := rfl
@[simp] theorem State.setCore_fcu (s : State) (e : Nat) (x : Core) : (s.setCore e x).fcu = s.fcu := rfl
@[simp] theorem State.setCore_gt (s : State) (e : Nat) (x : Core) : (s.setCore e x).gt = s.gt := rfl
@[simp] theorem State.setCore_ntu (s : State) (e : Nat) (x : Core) : (s.setCore e x).ntu = s.ntu := rfl
@[simp] theorem State.setCore_readShadow (s : State) (e : Nat) (x : Core) : (s.setCore e x).readShadow = s.readShadow := rfl
@[simp] theorem State.setCore_writeShadow (s : State) (e : Nat) (x : Core) : (s.setCore e x).writeShadow = s.writeShadow := rfl
@[simp] theorem State.setCore_gtAvail (s : State) (e : Nat) (x : Core) : (s.setCore e x).gtAvail = s.gtAvail := rfl
@[simp] theorem State.setCore_mbx (s : State) (e : Nat) (x : Core) : (s.setCore e x).mbx = s.mbx := rfl
@[simp] theorem State.setCore_can (s : State) (e : Nat) (x : Core) : (s.setCore e x).can = s.can := rfl
@[simp] theorem State.setCore_lin (s : State) (e : Nat) (x : Core) : (s.setCore e x).lin = s.lin := rfl
@[simp] theorem State.setCore_nsl (s : State) (e : Nat) (x : Core) : (s.setCore e x).nsl = s.nsl := rfl
@[simp] theorem State.setCore_gwe (s : State) (e : Nat) (x : Core) : (s.setCore e x).gwe = s.gwe := rfl
@[simp] theorem State.setCore_acc (s : State) (e : Nat) (x : Core) : (s.setCore e x).acc = s.acc := rfl
@[simp] theorem State.setCore_nv (s : State) (e : Nat) (x : Core) : (s.setCore e x).nv = s.nv := rfl
@[simp] theorem State.setCore_pmu (s : State) (e : Nat) (x : Core) : (s.setCore e x).pmu = s.pmu := rfl
@[simp] theorem State.setCore_sys (s : State) (e : Nat) (x : Core) : (s.setCore e x).sys = s.sys := rfl
@[simp] theorem State.setCore_sec (s : State) (e : Nat) (x : Core) : (s.setCore e x).sec = s.sec := rfl
@[simp] theorem State.setCore_bsq (s : State) (e : Nat) (x : Core) : (s.setCore e x).bsq = s.bsq := rfl
@[simp] theorem State.setCore_hand (s : State) (e : Nat) (x : Core) : (s.setCore e x).hand = s.hand := rfl
@[simp] theorem State.setCore_host (s : State) (e : Nat) (x : Core) : (s.setCore e x).host = s.host := rfl
@[simp] theorem State.setCore_flash (s : State) (e : Nat) (x : Core) : (s.setCore e x).flash = s.flash := rfl
@[simp] theorem State.setCore_overVolt (s : State) (e : Nat) (x : Core) : (s.setCore e x).overVolt = s.overVolt := rfl
@[simp] theorem State.setCore_reg (s : State) (e : Nat) (x : Core) (a' : Nat) : (s.setCore e x).reg a' = s.reg a' := rfl
@[simp] theorem State.setCore_fld (s : State) (e : Nat) (x : Core) (f' : Fld) : (s.setCore e x).fld f' = s.fld f' := rfl
@[simp] theorem State.setCore_flag (s : State) (e : Nat) (x : Core) (f' : Fld) : (s.setCore e x).flag f' = s.flag f' := rfl

/-! State.setByte changes mem. -/
@[simp] theorem State.setByte_pending (s : State) (a : Nat) (v : Byte) : (s.setByte a v).pending = s.pending := rfl
@[simp] theorem State.setByte_now (s : State) (a : Nat) (v : Byte) : (s.setByte a v).now = s.now := rfl
@[simp] theorem State.setByte_freeCtr (s : State) (a : Nat) (v : Byte) : (s.setByte a v).freeCtr = s.freeCtr := rfl
@[simp] theorem State.setByte_regs (s : State) (a : Nat) (v : Byte) : (s.setByte a v).regs = s.regs := rfl
@[simp] theorem State.setByte_reply (s : State) (a : Nat) (v : Byte) : (s.setByte a v).reply = s.reply := rfl
@[simp] theorem State.setByte_sent (s : State) (a : Nat) (v : Byte) : (s.setByte a v).sent = s.sent := rfl
@[simp] theorem State.setByte_txn (s : State) (a : Nat) (v : Byte) : (s.setByte a v).txn = s.txn := rfl
@[simp] theorem State.setByte_hsw (s : State) (a : Nat) (v : Byte) : (s.setByte a v).hsw = s.hsw := rfl
@[simp] theorem State.setByte_pdi (s : State) (a : Nat) (v : Byte) : (s.setByte a v).pdi = s.pdi := rfl
@[simp] theorem State.setByte_vlv (s : State) (a : Nat) (v : Byte) : (s.setByte a v).vlv = s.vlv := rfl
@[simp] theorem State.setByte_led (s : State) (a : Nat) (v : Byte) : (s.setByte a v).led = s.led := rfl
@[simp] theorem State.setByte_din (s : State) (a : Nat) (v : Byte) : (s.setByte a v).din = s.din := rfl
@[simp] theorem State.setByte_dout (s : State) (a : Nat) (v : Byte) : (s.setByte a v).dout = s.dout := rfl
@[simp] theorem State.setByte_fcu (s : State) (a : Nat) (v : Byte) : (s.setByte a v).fcu = s.fcu := rfl
@[simp] theorem State.setByte_gt (s : State) (a : Nat) (v : Byte) : (s.setByte a v).gt = s.gt := rfl
@[simp] theorem State.setByte_ntu (s : State) (a : Nat) (v : Byte) : (s.setByte a v).ntu = s.ntu := rfl
@[simp] theorem State.setByte_readShadow (s : State) (a : Nat) (v : Byte) : (s.setByte a v).readShadow = s.readShadow := rfl
@[simp] theorem State.setByte_writeShadow (s : State) (a : Nat) (v : Byte) : (s.setByte a v).writeShadow = s.writeShadow := rfl
@[simp] theorem State.setByte_gtAvail (s : State) (a : Nat) (v : Byte) : (s.setByte a v).gtAvail = s.gtAvail := rfl
@[simp] theorem State.setByte_mbx (s : State) (a : Nat) (v : Byte) : (s.setByte a v).mbx = s.mbx := rfl
@[simp] theorem State.setByte_can (s : State) (a : Nat) (v : Byte) : (s.setByte a v).can = s.can := rfl
@[simp] theorem State.setByte_lin (s : State) (a : Nat) (v : Byte) : (s.setByte a v).lin = s.lin := rfl
@[simp] theorem State.setByte_nsl (s : State) (a : Nat) (v : Byte) : (s.setByte a v).nsl = s.nsl := rfl
@[simp] theorem State.setByte_gwe (s : State) (a : Nat) (v : Byte) : (s.setByte a v).gwe = s.gwe := rfl
@[simp] theorem State.setByte_acc (s : State) (a : Nat) (v : Byte) : (s.setByte a v).acc = s.acc := rfl
@[simp] theorem State.setByte_cpu (s : State) (a : Nat) (v : Byte) : (s.setByte a v).cpu = s.cpu := rfl
@[simp] theorem State.setByte_nv (s : State) (a : Nat) (v : Byte) : (s.setByte a v).nv = s.nv := rfl
@[simp] theorem State.setByte_pmu (s : State) (a : Nat) (v : Byte) : (s.setByte a v).pmu = s.pmu := rfl
@[simp] theorem State.setByte_sys (s : State) (a : Nat) (v : Byte) : (s.setByte a v).sys = s.sys := rfl
@[simp] theorem State.setByte_sec (s : State) (a : Nat) (v : Byte) : (s.setByte a v).sec = s.sec := rfl
@[simp] theorem State.setByte_bsq (s : State) (a : Nat) (v : Byte) : (s.setByte a v).bsq = s.bsq := rfl
@[simp] theorem State.setByte_hand (s : State) (a : Nat) (v : Byte) : (s.setByte a v).hand = s.hand := rfl
@[simp] theorem State.setByte_host (s : State) (a : Nat) (v : Byte) : (s.setByte a v).host = s.host := rfl
@[simp] theorem State.setByte_flash (s : State) (a : Nat) (v : Byte) : (s.setByte a v).flash = s.flash := rfl
@[simp] theorem State.setByte_overVolt (s : State) (a : Nat) (v : Byte) : (s.setByte a v).overVolt = s.overVolt := rfl
@[simp] theorem State.setByte_reg (s : State) (a : Nat) (v : Byte) (a' : Nat) : (s.setByte a v).reg a' = s.reg a' := rfl
@[simp] theorem State.setByte_fld (s : State) (a : Nat) (v : Byte) (f' : Fld) : (s.setByte a v).fld f' = s.fld f' := rfl
@[simp] theorem State.setByte_flag (s : State) (a : Nat) (v : Byte) (f' : Fld) : (s.setByte a v).flag f' = s.flag f' := rfl

/-! State.setNvBuf changes nv. -/
@[simp] theorem State.setNvBuf_pending (s : State) (e : Nat) (x : Option NvLine) : (s.setNvBuf e x).pending = s.pending := rfl
@[simp] theorem State.setNvBuf_now (s : State) (e : Nat) (x : Option NvLine) : (s.setNvBuf e x).now = s.now := rfl
@[simp] theorem State.setNvBuf_freeCtr (s : State) (e : Nat) (x : Option NvLine) : (s.setNvBuf e x).freeCtr = s.freeCtr := rfl
@[simp] theorem State.setNvBuf_regs (s : State) (e : Nat) (x : Option NvLine) : (s.setNvBuf e x).regs = s.regs := rfl
@[simp] theorem State.setNvBuf_mem (s : State) (e : Nat) (x : Option NvLine) : (s.setNvBuf e x).mem = s.mem := rfl
@[simp] theorem State.setNvBuf_reply (s : State) (e : Nat) (x : Option NvLine) : (s.setNvBuf e x).reply = s.reply := rfl
@[simp] theorem State.setNvBuf_sent (s : State) (e : Nat) (x : Option NvLine) : (s.setNvBuf e x).sent = s.sent := rfl
@[simp] theorem State.setNvBuf_txn (s : State) (e : Nat) (x : Option NvLine) : (s.setNvBuf e x).txn = s.txn := rfl
@[simp] theorem State.setNvBuf_hsw (s : State) (e : Nat) (x : Option NvLine) : (s.setNvBuf e x).hsw = s.hsw := rfl
@[simp] theorem State.setNvBuf_pdi (s : State) (e : Nat) (x : Option NvLine) : (s.setNvBuf e x).pdi = s.pdi := rfl
@[simp] theorem State.setNvBuf_vlv (s : State) (e : Nat) (x : Option NvLine) : (s.setNvBuf e x).vlv = s.vlv := rfl
@[simp] theorem State.setNvBuf_led (s : State) (e : Nat) (x : Option NvLine) : (s.setNvBuf e x).led = s.led := rfl
@[simp] theorem State.setNvBuf_din (s : State) (e : Nat) (x : Option NvLine) : (s.setNvBuf e x).din = s.din := rfl
@[simp] theorem State.setNvBuf_dout (s : State) (e : Nat) (x : Option NvLine) : (s.setNvBuf e x).dout = s.dout := rfl
@[simp] theorem State.setNvBuf_fcu (s : State) (e : Nat) (x : Option NvLine) : (s.setNvBuf e x).fcu = s.fcu := rfl
@[simp] theorem State.setNvBuf_gt (s : State) (e : Nat) (x : Option NvLine) : (s.setNvBuf e x).gt = s.gt := rfl
@[simp] theorem State.setNvBuf_ntu (s : State) (e : Nat) (x : Option NvLine) : (s.setNvBuf e x).ntu = s.ntu := rfl
@[simp] theorem State.setNvBuf_readShadow (s : State) (e : Nat) (x : Option NvLine) : (s.setNvBuf e x).readShadow = s.readShadow := rfl
@[simp] theorem State.setNvBuf_writeShadow (s : State) (e : Nat) (x : Option NvLine) : (s.setNvBuf e x).writeShadow = s.writeShadow := rfl
@[simp] theorem State.setNvBuf_gtAvail (s : State) (e : Nat) (x : Option NvLine) : (s.setNvBuf e x).gtAvail = s.gtAvail := rfl
@[simp] theorem State.setNvBuf_mbx (s : State) (e : Nat) (x : Option NvLine) : (s.setNvBuf e x).mbx = s.mbx := rfl
@[simp] theorem State.setNvBuf_can (s : State) (e : Nat) (x : Option NvLine) : (s.setNvBuf e x).can = s.can := rfl
@[simp] theorem State.setNvBuf_lin (s : State) (e : Nat) (x : Option NvLine) : (s.setNvBuf e x).lin = s.lin := rfl
@[simp] theorem State.setNvBuf_nsl (s : State) (e : Nat) (x : Option NvLine) : (s.setNvBuf e x).nsl = s.nsl := rfl
@[simp] theorem State.setNvBuf_gwe (s : State) (e : Nat) (x : Option NvLine) : (s.setNvBuf e x).gwe = s.gwe := rfl
@[simp] theorem State.setNvBuf_acc (s : State) (e : Nat) (x : Option NvLine) : (s.setNvBuf e x).acc = s.acc := rfl
@[simp] theorem State.setNvBuf_cpu (s : State) (e : Nat) (x : Option NvLine) : (s.setNvBuf e x).cpu = s.cpu := rfl
@[simp] theorem State.setNvBuf_pmu (s : State) (e : Nat) (x : Option NvLine) : (s.setNvBuf e x).pmu = s.pmu := rfl
@[simp] theorem State.setNvBuf_sys (s : State) (e : Nat) (x : Option NvLine) : (s.setNvBuf e x).sys = s.sys := rfl
@[simp] theorem State.setNvBuf_sec (s : State) (e : Nat) (x : Option NvLine) : (s.setNvBuf e x).sec = s.sec := rfl
@[simp] theorem State.setNvBuf_bsq (s : State) (e : Nat) (x : Option NvLine) : (s.setNvBuf e x).bsq = s.bsq := rfl
@[simp] theorem State.setNvBuf_hand (s : State) (e : Nat) (x : Option NvLine) : (s.setNvBuf e x).hand = s.hand := rfl
@[simp] theorem State.setNvBuf_host (s : State) (e : Nat) (x : Option NvLine) : (s.setNvBuf e x).host = s.host := rfl
@[simp] theorem State.setNvBuf_flash (s : State) (e : Nat) (x : Option NvLine) : (s.setNvBuf e x).flash = s.flash := rfl
@[simp] theorem State.setNvBuf_overVolt (s : State) (e : Nat) (x : Option NvLine) : (s.setNvBuf e x).overVolt = s.overVolt := rfl
@[simp] theorem State.setNvBuf_reg (s : State) (e : Nat) (x : Option NvLine) (a' : Nat) : (s.setNvBuf e x).reg a' = s.reg a' := rfl
@[simp] theorem State.setNvBuf_fld (s : State) (e : Nat) (x : Option NvLine) (f' : Fld) : (s.setNvBuf e x).fld f' = s.fld f' := rfl
@[simp] theorem State.setNvBuf_flag (s : State) (e : Nat) (x : Option NvLine) (f' : Fld) : (s.setNvBuf e x).flag f' = s.flag f' := rfl

/-! State.setNvBusy changes nv. -/
@[simp] theorem State.setNvBusy_pending (s : State) (e : Nat) (x : Option NvLine) : (s.setNvBusy e x).pending = s.pending := rfl
@[simp] theorem State.setNvBusy_now (s : State) (e : Nat) (x : Option NvLine) : (s.setNvBusy e x).now = s.now := rfl
@[simp] theorem State.setNvBusy_freeCtr (s : State) (e : Nat) (x : Option NvLine) : (s.setNvBusy e x).freeCtr = s.freeCtr := rfl
@[simp] theorem State.setNvBusy_regs (s : State) (e : Nat) (x : Option NvLine) : (s.setNvBusy e x).regs = s.regs := rfl
@[simp] theorem State.setNvBusy_mem (s : State) (e : Nat) (x : Option NvLine) : (s.setNvBusy e x).mem = s.mem := rfl
@[simp] theorem State.setNvBusy_reply (s : State) (e : Nat) (x : Option NvLine) : (s.setNvBusy e x).reply = s.reply := rfl
@[simp] theorem State.setNvBusy_sent (s : State) (e : Nat) (x : Option NvLine) : (s.setNvBusy e x).sent = s.sent := rfl
@[simp] theorem State.setNvBusy_txn (s : State) (e : Nat) (x : Option NvLine) : (s.setNvBusy e x).txn = s.txn := rfl
@[simp] theorem State.setNvBusy_hsw (s : State) (e : Nat) (x : Option NvLine) : (s.setNvBusy e x).hsw = s.hsw := rfl
@[simp] theorem State.setNvBusy_pdi (s : State) (e : Nat) (x : Option NvLine) : (s.setNvBusy e x).pdi = s.pdi := rfl
@[simp] theorem State.setNvBusy_vlv (s : State) (e : Nat) (x : Option NvLine) : (s.setNvBusy e x).vlv = s.vlv := rfl
@[simp] theorem State.setNvBusy_led (s : State) (e : Nat) (x : Option NvLine) : (s.setNvBusy e x).led = s.led := rfl
@[simp] theorem State.setNvBusy_din (s : State) (e : Nat) (x : Option NvLine) : (s.setNvBusy e x).din = s.din := rfl
@[simp] theorem State.setNvBusy_dout (s : State) (e : Nat) (x : Option NvLine) : (s.setNvBusy e x).dout = s.dout := rfl
@[simp] theorem State.setNvBusy_fcu (s : State) (e : Nat) (x : Option NvLine) : (s.setNvBusy e x).fcu = s.fcu := rfl
@[simp] theorem State.setNvBusy_gt (s : State) (e : Nat) (x : Option NvLine) : (s.setNvBusy e x).gt = s.gt := rfl
@[simp] theorem State.setNvBusy_ntu (s : State) (e : Nat) (x : Option NvLine) : (s.setNvBusy e x).ntu = s.ntu := rfl
@[simp] theorem State.setNvBusy_readShadow (s : State) (e : Nat) (x : Option NvLine) : (s.setNvBusy e x).readShadow = s.readShadow := rfl
@[simp] theorem State.setNvBusy_writeShadow (s : State) (e : Nat) (x : Option NvLine) : (s.setNvBusy e x).writeShadow = s.writeShadow := rfl
@[simp] theorem State.setNvBusy_gtAvail (s : State) (e : Nat) (x : Option NvLine) : (s.setNvBusy e x).gtAvail = s.gtAvail := rfl
@[simp] theorem State.setNvBusy_mbx (s : State) (e : Nat) (x : Option NvLine) : (s.setNvBusy e x).mbx = s.mbx := rfl
@[simp] theorem State.setNvBusy_can (s : State) (e : Nat) (x : Option NvLine) : (s.setNvBusy e x).can = s.can := rfl
@[simp] theorem State.setNvBusy_lin (s : State) (e : Nat) (x : Option NvLine) : (s.setNvBusy e x).lin = s.lin := rfl
@[simp] theorem State.setNvBusy_nsl (s : State) (e : Nat) (x : Option NvLine) : (s.setNvBusy e x).nsl = s.nsl := rfl
@[simp] theorem State.setNvBusy_gwe (s : State) (e : Nat) (x : Option NvLine) : (s.setNvBusy e x).gwe = s.gwe := rfl
@[simp] theorem State.setNvBusy_acc (s : State) (e : Nat) (x : Option NvLine) : (s.setNvBusy e x).acc = s.acc := rfl
@[simp] theorem State.setNvBusy_cpu (s : State) (e : Nat) (x : Option NvLine) : (s.setNvBusy e x).cpu = s.cpu := rfl
@[simp] theorem State.setNvBusy_pmu (s : State) (e : Nat) (x : Option NvLine) : (s.setNvBusy e x).pmu = s.pmu := rfl
@[simp] theorem State.setNvBusy_sys (s : State) (e : Nat) (x : Option NvLine) : (s.setNvBusy e x).sys = s.sys := rfl
@[simp] theorem State.setNvBusy_sec (s : State) (e : Nat) (x : Option NvLine) : (s.setNvBusy e x).sec = s.sec := rfl
@[simp] theorem State.setNvBusy_bsq (s : State) (e : Nat) (x : Option NvLine) : (s.setNvBusy e x).bsq = s.bsq := rfl
@[simp] theorem State.setNvBusy_hand (s : State) (e : Nat) (x : Option NvLine) : (s.setNvBusy e x).hand = s.hand := rfl
@[simp] theorem State.setNvBusy_host (s : State) (e : Nat) (x : Option NvLine) : (s.setNvBusy e x).host = s.host := rfl
@[simp] theorem State.setNvBusy_flash (s : State) (e : Nat) (x : Option NvLine) : (s.setNvBusy e x).flash = s.flash := rfl
@[simp] theorem State.setNvBusy_overVolt (s : State) (e : Nat) (x : Option NvLine) : (s.setNvBusy e x).overVolt = s.overVolt := rfl
@[simp] theorem State.setNvBusy_reg (s : State) (e : Nat) (x : Option NvLine) (a' : Nat) : (s.setNvBusy e x).reg a' = s.reg a' := rfl
@[simp] theorem State.setNvBusy_fld (s : State) (e : Nat) (x : Option NvLine) (f' : Fld) : (s.setNvBusy e x).fld f' = s.fld f' := rfl
@[simp] theorem State.setNvBusy_flag (s : State) (e : Nat) (x : Option NvLine) (f' : Fld) : (s.setNvBusy e x).flag f' = s.flag f' := rfl

/-! State.setCn changes can. -/
@[simp] theorem State.setCn_pending (s : State) (n : Nat) (x : CanChan) : (s.setCn n x).pending = s.pending := rfl
@[simp] theorem State.setCn_now (s : State) (n : Nat) (x : CanChan) : (s.setCn n x).now = s.now := rfl
@[simp] theorem State.setCn_freeCtr (s : State) (n : Nat) (x : CanChan) : (s.setCn n x).freeCtr = s.freeCtr := rfl
@[simp] theorem State.setCn_regs (s : State) (n : Nat) (x : CanChan) : (s.setCn n x).regs = s.regs := rfl
@[simp] theorem State.setCn_mem (s : State) (n : Nat) (x : CanChan) : (s.setCn n x).mem = s.mem := rfl
@[simp] theorem State.setCn_reply (s : State) (n : Nat) (x : CanChan) : (s.setCn n x).reply = s.reply := rfl
@[simp] theorem State.setCn_sent (s : State) (n : Nat) (x : CanChan) : (s.setCn n x).sent = s.sent := rfl
@[simp] theorem State.setCn_txn (s : State) (n : Nat) (x : CanChan) : (s.setCn n x).txn = s.txn := rfl
@[simp] theorem State.setCn_hsw (s : State) (n : Nat) (x : CanChan) : (s.setCn n x).hsw = s.hsw := rfl
@[simp] theorem State.setCn_pdi (s : State) (n : Nat) (x : CanChan) : (s.setCn n x).pdi = s.pdi := rfl
@[simp] theorem State.setCn_vlv (s : State) (n : Nat) (x : CanChan) : (s.setCn n x).vlv = s.vlv := rfl
@[simp] theorem State.setCn_led (s : State) (n : Nat) (x : CanChan) : (s.setCn n x).led = s.led := rfl
@[simp] theorem State.setCn_din (s : State) (n : Nat) (x : CanChan) : (s.setCn n x).din = s.din := rfl
@[simp] theorem State.setCn_dout (s : State) (n : Nat) (x : CanChan) : (s.setCn n x).dout = s.dout := rfl
@[simp] theorem State.setCn_fcu (s : State) (n : Nat) (x : CanChan) : (s.setCn n x).fcu = s.fcu := rfl
@[simp] theorem State.setCn_gt (s : State) (n : Nat) (x : CanChan) : (s.setCn n x).gt = s.gt := rfl
@[simp] theorem State.setCn_ntu (s : State) (n : Nat) (x : CanChan) : (s.setCn n x).ntu = s.ntu := rfl
@[simp] theorem State.setCn_readShadow (s : State) (n : Nat) (x : CanChan) : (s.setCn n x).readShadow = s.readShadow := rfl
@[simp] theorem State.setCn_writeShadow (s : State) (n : Nat) (x : CanChan) : (s.setCn n x).writeShadow = s.writeShadow := rfl
@[simp] theorem State.setCn_gtAvail (s : State) (n : Nat) (x : CanChan) : (s.setCn n x).gtAvail = s.gtAvail := rfl
@[simp] theorem State.setCn_mbx (s : State) (n : Nat) (x : CanChan) : (s.setCn n x).mbx = s.mbx := rfl
@[simp] theorem State.setCn_lin (s : State) (n : Nat) (x : CanChan) : (s.setCn n x).lin = s.lin := rfl
@[simp] theorem State.setCn_nsl (s : State) (n : Nat) (x : CanChan) : (s.setCn n x).nsl = s.nsl := rfl
@[simp] theorem State.setCn_gwe (s : State) (n : Nat) (x : CanChan) : (s.setCn n x).gwe = s.gwe := rfl
@[simp] theorem State.setCn_acc (s : State) (n : Nat) (x : CanChan) : (s.setCn n x).acc = s.acc := rfl
@[simp] theorem State.setCn_cpu (s : State) (n : Nat) (x : CanChan) : (s.setCn n x).cpu = s.cpu := rfl
@[simp] theorem State.setCn_nv (s : State) (n : Nat) (x : CanChan) : (s.setCn n x).nv = s.nv := rfl
@[simp] theorem State.setCn_pmu (s : State) (n : Nat) (x : CanChan) : (s.setCn n x).pmu = s.pmu := rfl
@[simp] theorem State.setCn_sys (s : State) (n : Nat) (x : CanChan) : (s.setCn n x).sys = s.sys := rfl
@[simp] theorem State.setCn_sec (s : State) (n : Nat) (x : CanChan) : (s.setCn n x).sec = s.sec := rfl
@[simp] theorem State.setCn_bsq (s : State) (n : Nat) (x : CanChan) : (s.setCn n x).bsq = s.bsq := rfl
@[simp] theorem State.setCn_hand (s : State) (n : Nat) (x : CanChan) : (s.setCn n x).hand = s.hand := rfl
@[simp] theorem State.setCn_host (s : State) (n : Nat) (x : CanChan) : (s.setCn n x).host = s.host := rfl
@[simp] theorem State.setCn_flash (s : State) (n : Nat) (x : CanChan) : (s.setCn n x).flash = s.flash := rfl
@[simp] theorem State.setCn_overVolt (s : State) (n : Nat) (x : CanChan) : (s.setCn n x).overVolt = s.overVolt := rfl
@[simp] theorem State.setCn_reg (s : State) (n : Nat) (x : CanChan) (a' : Nat) : (s.setCn n x).reg a' = s.reg a' := rfl
@[simp] theorem State.setCn_fld (s : State) (n : Nat) (x : CanChan) (f' : Fld) : (s.setCn n x).fld f' = s.fld f' := rfl
@[simp] theorem State.setCn_flag (s : State) (n : Nat) (x : CanChan) (f' : Fld) : (s.setCn n x).flag f' = s.flag f' := rfl

/-! State.setLn changes lin. -/
@[simp] theorem State.setLn_pending (s : State) (n : Nat) (x : LinChan) : (s.setLn n x).pending = s.pending := rfl
@[simp] theorem State.setLn_now (s : State) (n : Nat) (x : LinChan) : (s.setLn n x).now = s.now := rfl
@[simp] theorem State.setLn_freeCtr (s : State) (n : Nat) (x : LinChan) : (s.setLn n x).freeCtr = s.freeCtr := rfl
@[simp] theorem State.setLn_regs (s : State) (n : Nat) (x : LinChan) : (s.setLn n x).regs = s.regs := rfl
@[simp] theorem State.setLn_mem (s : State) (n : Nat) (x : LinChan) : (s.setLn n x).mem = s.mem := rfl
@[simp] theorem State.setLn_reply (s : State) (n : Nat) (x : LinChan) : (s.setLn n x).reply = s.reply := rfl
@[simp] theorem State.setLn_sent (s : State) (n : Nat) (x : LinChan) : (s.setLn n x).sent = s.sent := rfl
@[simp] theorem State.setLn_txn (s : State) (n : Nat) (x : LinChan) : (s.setLn n x).txn = s.txn := rfl
@[simp] theorem State.setLn_hsw (s : State) (n : Nat) (x : LinChan) : (s.setLn n x).hsw = s.hsw := rfl
@[simp] theorem State.setLn_pdi (s : State) (n : Nat) (x : LinChan) : (s.setLn n x).pdi = s.pdi := rfl
@[simp] theorem State.setLn_vlv (s : State) (n : Nat) (x : LinChan) : (s.setLn n x).vlv = s.vlv := rfl
@[simp] theorem State.setLn_led (s : State) (n : Nat) (x : LinChan) : (s.setLn n x).led = s.led := rfl
@[simp] theorem State.setLn_din (s : State) (n : Nat) (x : LinChan) : (s.setLn n x).din = s.din := rfl
@[simp] theorem State.setLn_dout (s : State) (n : Nat) (x : LinChan) : (s.setLn n x).dout = s.dout := rfl
@[simp] theorem State.setLn_fcu (s : State) (n : Nat) (x : LinChan) : (s.setLn n x).fcu = s.fcu := rfl
@[simp] theorem State.setLn_gt (s : State) (n : Nat) (x : LinChan) : (s.setLn n x).gt = s.gt := rfl
@[simp] theorem State.setLn_ntu (s : State) (n : Nat) (x : LinChan) : (s.setLn n x).ntu = s.ntu := rfl
@[simp] theorem State.setLn_readShadow (s : State) (n : Nat) (x : LinChan) : (s.setLn n x).readShadow = s.readShadow := rfl
@[simp] theorem State.setLn_writeShadow (s : State) (n : Nat) (x : LinChan) : (s.setLn n x).writeShadow = s.writeShadow := rfl
@[simp] theorem State.setLn_gtAvail (s : State) (n : Nat) (x : LinChan) : (s.setLn n x).gtAvail = s.gtAvail := rfl
@[simp] theorem State.setLn_mbx (s : State) (n : Nat) (x : LinChan) : (s.setLn n x).mbx = s.mbx := rfl
@[simp] theorem State.setLn_can (s : State) (n : Nat) (x : LinChan) : (s.setLn n x).can = s.can := rfl
@[simp] theorem State.setLn_nsl (s : State) (n : Nat) (x : LinChan) : (s.setLn n x).nsl = s.nsl := rfl
@[simp] theorem State.setLn_gwe (s : State) (n : Nat) (x : LinChan) : (s.setLn n x).gwe = s.gwe := rfl
@[simp] theorem State.setLn_acc (s : State) (n : Nat) (x : LinChan) : (s.setLn n x).acc = s.acc := rfl
@[simp] theorem State.setLn_cpu (s : State) (n : Nat) (x : LinChan) : (s.setLn n x).cpu = s.cpu := rfl
@[simp] theorem State.setLn_nv (s : State) (n : Nat) (x : LinChan) : (s.setLn n x).nv = s.nv := rfl
@[simp] theorem State.setLn_pmu (s : State) (n : Nat) (x : LinChan) : (s.setLn n x).pmu = s.pmu := rfl
@[simp] theorem State.setLn_sys (s : State) (n : Nat) (x : LinChan) : (s.setLn n x).sys = s.sys := rfl
@[simp] theorem State.setLn_sec (s : State) (n : Nat) (x : LinChan) : (s.setLn n x).sec = s.sec := rfl
@[simp] theorem State.setLn_bsq (s : State) (n : Nat) (x : LinChan) : (s.setLn n x).bsq = s.bsq := rfl
@[simp] theorem State.setLn_hand (s : State) (n : Nat) (x : LinChan) : (s.setLn n x).hand = s.hand := rfl
@[simp] theorem State.setLn_host (s : State) (n : Nat) (x : LinChan) : (s.setLn n x).host = s.host := rfl
@[simp] theorem State.setLn_flash (s : State) (n : Nat) (x : LinChan) : (s.setLn n x).flash = s.flash := rfl
@[simp] theorem State.setLn_overVolt (s : State) (n : Nat) (x : LinChan) : (s.setLn n x).overVolt = s.overVolt := rfl
@[simp] theorem State.setLn_reg (s : State) (n : Nat) (x : LinChan) (a' : Nat) : (s.setLn n x).reg a' = s.reg a' := rfl
@[simp] theorem State.setLn_fld (s : State) (n : Nat) (x : LinChan) (f' : Fld) : (s.setLn n x).fld f' = s.fld f' := rfl
@[simp] theorem State.setLn_flag (s : State) (n : Nat) (x : LinChan) (f' : Fld) : (s.setLn n x).flag f' = s.flag f' := rfl

/-! State.setNet changes nsl. -/
@[simp] theorem State.setNet_pending (s : State) (m : Nat) (x : NslNet) : (s.setNet m x).pending = s.pending := rfl
@[simp] theorem State.setNet_now (s : State) (m : Nat) (x : NslNet) : (s.setNet m x).now = s.now := rfl
@[simp] theorem State.setNet_freeCtr (s : State) (m : Nat) (x : NslNet) : (s.setNet m x).freeCtr = s.freeCtr := rfl
@[simp] theorem State.setNet_regs (s : State) (m : Nat) (x : NslNet) : (s.setNet m x).regs = s.regs := rfl
@[simp] theorem State.setNet_mem (s : State) (m : Nat) (x : NslNet) : (s.setNet m x).mem = s.mem := rfl
@[simp] theorem State.setNet_reply (s : State) (m : Nat) (x : NslNet) : (s.setNet m x).reply = s.reply := rfl
@[simp] theorem State.setNet_sent (s : State) (m : Nat) (x : NslNet) : (s.setNet m x).sent = s.sent := rfl
@[simp] theorem State.setNet_txn (s : State) (m : Nat) (x : NslNet) : (s.setNet m x).txn = s.txn := rfl
@[simp] theorem State.setNet_hsw (s : State) (m : Nat) (x : NslNet) : (s.setNet m x).hsw = s.hsw := rfl
@[simp] theorem State.setNet_pdi (s : State) (m : Nat) (x : NslNet) : (s.setNet m x).pdi = s.pdi := rfl
@[simp] theorem State.setNet_vlv (s : State) (m : Nat) (x : NslNet) : (s.setNet m x).vlv = s.vlv := rfl
@[simp] theorem State.setNet_led (s : State) (m : Nat) (x : NslNet) : (s.setNet m x).led = s.led := rfl
@[simp] theorem State.setNet_din (s : State) (m : Nat) (x : NslNet) : (s.setNet m x).din = s.din := rfl
@[simp] theorem State.setNet_dout (s : State) (m : Nat) (x : NslNet) : (s.setNet m x).dout = s.dout := rfl
@[simp] theorem State.setNet_fcu (s : State) (m : Nat) (x : NslNet) : (s.setNet m x).fcu = s.fcu := rfl
@[simp] theorem State.setNet_gt (s : State) (m : Nat) (x : NslNet) : (s.setNet m x).gt = s.gt := rfl
@[simp] theorem State.setNet_ntu (s : State) (m : Nat) (x : NslNet) : (s.setNet m x).ntu = s.ntu := rfl
@[simp] theorem State.setNet_readShadow (s : State) (m : Nat) (x : NslNet) : (s.setNet m x).readShadow = s.readShadow := rfl
@[simp] theorem State.setNet_writeShadow (s : State) (m : Nat) (x : NslNet) : (s.setNet m x).writeShadow = s.writeShadow := rfl
@[simp] theorem State.setNet_gtAvail (s : State) (m : Nat) (x : NslNet) : (s.setNet m x).gtAvail = s.gtAvail := rfl
@[simp] theorem State.setNet_mbx (s : State) (m : Nat) (x : NslNet) : (s.setNet m x).mbx = s.mbx := rfl
@[simp] theorem State.setNet_can (s : State) (m : Nat) (x : NslNet) : (s.setNet m x).can = s.can := rfl
@[simp] theorem State.setNet_lin (s : State) (m : Nat) (x : NslNet) : (s.setNet m x).lin = s.lin := rfl
@[simp] theorem State.setNet_gwe (s : State) (m : Nat) (x : NslNet) : (s.setNet m x).gwe = s.gwe := rfl
@[simp] theorem State.setNet_acc (s : State) (m : Nat) (x : NslNet) : (s.setNet m x).acc = s.acc := rfl
@[simp] theorem State.setNet_cpu (s : State) (m : Nat) (x : NslNet) : (s.setNet m x).cpu = s.cpu := rfl
@[simp] theorem State.setNet_nv (s : State) (m : Nat) (x : NslNet) : (s.setNet m x).nv = s.nv := rfl
@[simp] theorem State.setNet_pmu (s : State) (m : Nat) (x : NslNet) : (s.setNet m x).pmu = s.pmu := rfl
@[simp] theorem State.setNet_sys (s : State) (m : Nat) (x : NslNet) : (s.setNet m x).sys = s.sys := rfl
@[simp] theorem State.setNet_sec (s : State) (m : Nat) (x : NslNet) : (s.setNet m x).sec = s.sec := rfl
@[simp] theorem State.setNet_bsq (s : State) (m : Nat) (x : NslNet) : (s.setNet m x).bsq = s.bsq := rfl
@[simp] theorem State.setNet_hand (s : State) (m : Nat) (x : NslNet) : (s.setNet m x).hand = s.hand := rfl
@[simp] theorem State.setNet_host (s : State) (m : Nat) (x : NslNet) : (s.setNet m x).host = s.host := rfl
@[simp] theorem State.setNet_flash (s : State) (m : Nat) (x : NslNet) : (s.setNet m x).flash = s.flash := rfl
@[simp] theorem State.setNet_overVolt (s : State) (m : Nat) (x : NslNet) : (s.setNet m x).overVolt = s.overVolt := rfl
@[simp] theorem State.setNet_reg (s : State) (m : Nat) (x : NslNet) (a' : Nat) : (s.setNet m x).reg a' = s.reg a' := rfl
@[simp] theorem State.setNet_fld (s : State) (m : Nat) (x : NslNet) (f' : Fld) : (s.setNet m x).fld f' = s.fld f' := rfl
@[simp] theorem State.setNet_flag (s : State) (m : Nat) (x : NslNet) (f' : Fld) : (s.setNet m x).flag f' = s.flag f' := rfl

/-! State.setEport changes gwe. -/
@[simp] theorem State.setEport_pending (s : State) (p : Nat) (x : EthPort) : (s.setEport p x).pending = s.pending := rfl
@[simp] theorem State.setEport_now (s : State) (p : Nat) (x : EthPort) : (s.setEport p x).now = s.now := rfl
@[simp] theorem State.setEport_freeCtr (s : State) (p : Nat) (x : EthPort) : (s.setEport p x).freeCtr = s.freeCtr := rfl
@[simp] theorem State.setEport_regs (s : State) (p : Nat) (x : EthPort) : (s.setEport p x).regs = s.regs := rfl
@[simp] theorem State.setEport_mem (s : State) (p : Nat) (x : EthPort) : (s.setEport p x).mem = s.mem := rfl
@[simp] theorem State.setEport_reply (s : State) (p : Nat) (x : EthPort) : (s.setEport p x).reply = s.reply := rfl
@[simp] theorem State.setEport_sent (s : State) (p : Nat) (x : EthPort) : (s.setEport p x).sent = s.sent := rfl
@[simp] theorem State.setEport_txn (s : State) (p : Nat) (x : EthPort) : (s.setEport p x).txn = s.txn := rfl
@[simp] theorem State.setEport_hsw (s : State) (p : Nat) (x : EthPort) : (s.setEport p x).hsw = s.hsw := rfl
@[simp] theorem State.setEport_pdi (s : State) (p : Nat) (x : EthPort) : (s.setEport p x).pdi = s.pdi := rfl
@[simp] theorem State.setEport_vlv (s : State) (p : Nat) (x : EthPort) : (s.setEport p x).vlv = s.vlv := rfl
@[simp] theorem State.setEport_led (s : State) (p : Nat) (x : EthPort) : (s.setEport p x).led = s.led := rfl
@[simp] theorem State.setEport_din (s : State) (p : Nat) (x : EthPort) : (s.setEport p x).din = s.din := rfl
@[simp] theorem State.setEport_dout (s : State) (p : Nat) (x : EthPort) : (s.setEport p x).dout = s.dout := rfl
@[simp] theorem State.setEport_fcu (s : State) (p : Nat) (x : EthPort) : (s.setEport p x).fcu = s.fcu := rfl
@[simp] theorem State.setEport_gt (s : State) (p : Nat) (x : EthPort) : (s.setEport p x).gt = s.gt := rfl
@[simp] theorem State.setEport_ntu (s : State) (p : Nat) (x : EthPort) : (s.setEport p x).ntu = s.ntu := rfl
@[simp] theorem State.setEport_readShadow (s : State) (p : Nat) (x : EthPort) : (s.setEport p x).readShadow = s.readShadow := rfl
@[simp] theorem State.setEport_writeShadow (s : State) (p : Nat) (x : EthPort) : (s.setEport p x).writeShadow = s.writeShadow := rfl
@[simp] theorem State.setEport_gtAvail (s : State) (p : Nat) (x : EthPort) : (s.setEport p x).gtAvail = s.gtAvail := rfl
@[simp] theorem State.setEport_mbx (s : State) (p : Nat) (x : EthPort) : (s.setEport p x).mbx = s.mbx := rfl
@[simp] theorem State.setEport_can (s : State) (p : Nat) (x : EthPort) : (s.setEport p x).can = s.can := rfl
@[simp] theorem State.setEport_lin (s : State) (p : Nat) (x : EthPort) : (s.setEport p x).lin = s.lin := rfl
@[simp] theorem State.setEport_nsl (s : State) (p : Nat) (x : EthPort) : (s.setEport p x).nsl = s.nsl := rfl
@[simp] theorem State.setEport_acc (s : State) (p : Nat) (x : EthPort) : (s.setEport p x).acc = s.acc := rfl
@[simp] theorem State.setEport_cpu (s : State) (p : Nat) (x : EthPort) : (s.setEport p x).cpu = s.cpu := rfl
@[simp] theorem State.setEport_nv (s : State) (p : Nat) (x : EthPort) : (s.setEport p x).nv = s.nv := rfl
@[simp] theorem State.setEport_pmu (s : State) (p : Nat) (x : EthPort) : (s.setEport p x).pmu = s.pmu := rfl
@[simp] theorem State.setEport_sys (s : State) (p : Nat) (x : EthPort) : (s.setEport p x).sys = s.sys := rfl
@[simp] theorem State.setEport_sec (s : State) (p : Nat) (x : EthPort) : (s.setEport p x).sec = s.sec := rfl
@[simp] theorem State.setEport_bsq (s : State) (p : Nat) (x : EthPort) : (s.setEport p x).bsq = s.bsq := rfl
@[simp] theorem State.setEport_hand (s : State) (p : Nat) (x : EthPort) : (s.setEport p x).hand = s.hand := rfl
@[simp] theorem State.setEport_host (s : State) (p : Nat) (x : EthPort) : (s.setEport p x).host = s.host := rfl
@[simp] theorem State.setEport_flash (s : State) (p : Nat) (x : EthPort) : (s.setEport p x).flash = s.flash := rfl
@[simp] theorem State.setEport_overVolt (s : State) (p : Nat) (x : EthPort) : (s.setEport p x).overVolt = s.overVolt := rfl
@[simp] theorem State.setEport_reg (s : State) (p : Nat) (x : EthPort) (a' : Nat) : (s.setEport p x).reg a' = s.reg a' := rfl
@[simp] theorem State.setEport_fld (s : State) (p : Nat) (x : EthPort) (f' : Fld) : (s.setEport p x).fld f' = s.fld f' := rfl
@[simp] theorem State.setEport_flag (s : State) (p : Nat) (x : EthPort) (f' : Fld) : (s.setEport p x).flag f' = s.flag f' := rfl

/-! State.setEntry changes cpu. -/
@[simp] theorem State.setEntry_pending (s : State) (e : Nat) (x : CoreEntry) : (s.setEntry e x).pending = s.pending := rfl
@[simp] theorem State.setEntry_now (s : State) (e : Nat) (x : CoreEntry) : (s.setEntry e x).now = s.now := rfl
@[simp] theorem State.setEntry_freeCtr (s : State) (e : Nat) (x : CoreEntry) : (s.setEntry e x).freeCtr = s.freeCtr := rfl
@[simp] theorem State.setEntry_regs (s : State) (e : Nat) (x : CoreEntry) : (s.setEntry e x).regs = s.regs := rfl
@[simp] theorem State.setEntry_mem (s : State) (e : Nat) (x : CoreEntry) : (s.setEntry e x).mem = s.mem := rfl
@[simp] theorem State.setEntry_reply (s : State) (e : Nat) (x : CoreEntry) : (s.setEntry e x).reply = s.reply := rfl
@[simp] theorem State.setEntry_sent (s : State) (e : Nat) (x : CoreEntry) : (s.setEntry e x).sent = s.sent := rfl
@[simp] theorem State.setEntry_txn (s : State) (e : Nat) (x : CoreEntry) : (s.setEntry e x).txn = s.txn := rfl
@[simp] theorem State.setEntry_hsw (s : State) (e : Nat) (x : CoreEntry) : (s.setEntry e x).hsw = s.hsw := rfl
@[simp] theorem State.setEntry_pdi (s : State) (e : Nat) (x : CoreEntry) : (s.setEntry e x).pdi = s.pdi := rfl
@[simp] theorem State.setEntry_vlv (s : State) (e : Nat) (x : CoreEntry) : (s.setEntry e x).vlv = s.vlv := rfl
@[simp] theorem State.setEntry_led (s : State) (e : Nat) (x : CoreEntry) : (s.setEntry e x).led = s.led := rfl
@[simp] theorem State.setEntry_din (s : State) (e : Nat) (x : CoreEntry) : (s.setEntry e x).din = s.din := rfl
@[simp] theorem State.setEntry_dout (s : State) (e : Nat) (x : CoreEntry) : (s.setEntry e x).dout = s.dout := rfl
@[simp] theorem State.setEntry_fcu (s : State) (e : Nat) (x : CoreEntry) : (s.setEntry e x).fcu = s.fcu := rfl
@[simp] theorem State.setEntry_gt (s : State) (e : Nat) (x : CoreEntry) : (s.setEntry e x).gt = s.gt := rfl
@[simp] theorem State.setEntry_ntu (s : State) (e : Nat) (x : CoreEntry) : (s.setEntry e x).ntu = s.ntu := rfl
@[simp] theorem State.setEntry_readShadow (s : State) (e : Nat) (x : CoreEntry) : (s.setEntry e x).readShadow = s.readShadow := rfl
@[simp] theorem State.setEntry_writeShadow (s : State) (e : Nat) (x : CoreEntry) : (s.setEntry e x).writeShadow = s.writeShadow := rfl
@[simp] theorem State.setEntry_gtAvail (s : State) (e : Nat) (x : CoreEntry) : (s.setEntry e x).gtAvail = s.gtAvail := rfl
@[simp] theorem State.setEntry_mbx (s : State) (e : Nat) (x : CoreEntry) : (s.setEntry e x).mbx = s.mbx := rfl
@[simp] theorem State.setEntry_can (s : State) (e : Nat) (x : CoreEntry) : (s.setEntry e x).can = s.can := rfl
@[simp] theorem State.setEntry_lin (s : State) (e : Nat) (x : CoreEntry) : (s.setEntry e x).lin = s.lin := rfl
@[simp] theorem State.setEntry_nsl (s : State) (e : Nat) (x : CoreEntry) : (s.setEntry e x).nsl = s.nsl := rfl
@[simp] theorem State.setEntry_gwe (s : State) (e : Nat) (x : CoreEntry) : (s.setEntry e x).gwe = s.gwe := rfl
@[simp] theorem State.setEntry_acc (s : State) (e : Nat) (x : CoreEntry) : (s.setEntry e x).acc = s.acc := rfl
@[simp] theorem State.setEntry_nv (s : State) (e : Nat) (x : CoreEntry) : (s.setEntry e x).nv = s.nv := rfl
@[simp] theorem State.setEntry_pmu (s : State) (e : Nat) (x : CoreEntry) : (s.setEntry e x).pmu = s.pmu := rfl
@[simp] theorem State.setEntry_sys (s : State) (e : Nat) (x : CoreEntry) : (s.setEntry e x).sys = s.sys := rfl
@[simp] theorem State.setEntry_sec (s : State) (e : Nat) (x : CoreEntry) : (s.setEntry e x).sec = s.sec := rfl
@[simp] theorem State.setEntry_bsq (s : State) (e : Nat) (x : CoreEntry) : (s.setEntry e x).bsq = s.bsq := rfl
@[simp] theorem State.setEntry_hand (s : State) (e : Nat) (x : CoreEntry) : (s.setEntry e x).hand = s.hand := rfl
@[simp] theorem State.setEntry_host (s : State) (e : Nat) (x : CoreEntry) : (s.setEntry e x).host = s.host := rfl
@[simp] theorem State.setEntry_flash (s : State) (e : Nat) (x : CoreEntry) : (s.setEntry e x).flash = s.flash := rfl
@[simp] theorem State.setEntry_overVolt (s : State) (e : Nat) (x : CoreEntry) : (s.setEntry e x).overVolt = s.overVolt := rfl
@[simp] theorem State.setEntry_reg (s : State) (e : Nat) (x : CoreEntry) (a' : Nat) : (s.setEntry e x).reg a' = s.reg a' := rfl
@[simp] theorem State.setEntry_fld (s : State) (e : Nat) (x : CoreEntry) (f' : Fld) : (s.setEntry e x).fld f' = s.fld f' := rfl
@[simp] theorem State.setEntry_flag (s : State) (e : Nat) (x : CoreEntry) (f' : Fld) : (s.setEntry e x).flag f' = s.flag f' := rfl

/-! State.setPoll changes acc. -/
@[simp] theorem State.setPoll_pending (s : State) (p : Option Poll) : (s.setPoll p).pending = s.pending := rfl
@[simp] theorem State.setPoll_now (s : State) (p : Option Poll) : (s.setPoll p).now = s.now := rfl
@[simp] theorem State.setPoll_freeCtr (s : State) (p : Option Poll) : (s.setPoll p).freeCtr = s.freeCtr := rfl
@[simp] theorem State.setPoll_regs (s : State) (p : Option Poll) : (s.setPoll p).regs = s.regs := rfl
@[simp] theorem State.setPoll_mem (s : State) (p : Option Poll) : (s.setPoll p).mem = s.mem := rfl
@[simp] theorem State.setPoll_reply (s : State) (p : Option Poll) : (s.setPoll p).reply = s.reply := rfl
@[simp] theorem State.setPoll_sent (s : State) (p : Option Poll) : (s.setPoll p).sent = s.sent := rfl
@[simp] theorem State.setPoll_txn (s : State) (p : Option Poll) : (s.setPoll p).txn = s.txn := rfl
@[simp] theorem State.setPoll_hsw (s : State) (p : Option Poll) : (s.setPoll p).hsw = s.hsw := rfl
@[simp] theorem State.setPoll_pdi (s : State) (p : Option Poll) : (s.setPoll p).pdi = s.pdi := rfl
@[simp] theorem State.setPoll_vlv (s : State) (p : Option Poll) : (s.setPoll p).vlv = s.vlv := rfl
@[simp] theorem State.setPoll_led (s : State) (p : Option Poll) : (s.setPoll p).led = s.led := rfl
@[simp] theorem State.setPoll_din (s : State) (p : Option Poll) : (s.setPoll p).din = s.din := rfl
@[simp] theorem State.setPoll_dout (s : State) (p : Option Poll) : (s.setPoll p).dout = s.dout := rfl
@[simp] theorem State.setPoll_fcu (s : State) (p : Option Poll) : (s.setPoll p).fcu = s.fcu := rfl
@[simp] theorem State.setPoll_gt (s : State) (p : Option Poll) : (s.setPoll p).gt = s.gt := rfl
@[simp] theorem State.setPoll_ntu (s : State) (p : Option Poll) : (s.setPoll p).ntu = s.ntu := rfl
@[simp] theorem State.setPoll_readShadow (s : State) (p : Option Poll) : (s.setPoll p).readShadow = s.readShadow := rfl
@[simp] theorem State.setPoll_writeShadow (s : State) (p : Option Poll) : (s.setPoll p).writeShadow = s.writeShadow := rfl
@[simp] theorem State.setPoll_gtAvail (s : State) (p : Option Poll) : (s.setPoll p).gtAvail = s.gtAvail := rfl
@[simp] theorem State.setPoll_mbx (s : State) (p : Option Poll) : (s.setPoll p).mbx = s.mbx := rfl
@[simp] theorem State.setPoll_can (s : State) (p : Option Poll) : (s.setPoll p).can = s.can := rfl
@[simp] theorem State.setPoll_lin (s : State) (p : Option Poll) : (s.setPoll p).lin = s.lin := rfl
@[simp] theorem State.setPoll_nsl (s : State) (p : Option Poll) : (s.setPoll p).nsl = s.nsl := rfl
@[simp] theorem State.setPoll_gwe (s : State) (p : Option Poll) : (s.setPoll p).gwe = s.gwe := rfl
@[simp] theorem State.setPoll_cpu (s : State) (p : Option Poll) : (s.setPoll p).cpu = s.cpu := rfl
@[simp] theorem State.setPoll_nv (s : State) (p : Option Poll) : (s.setPoll p).nv = s.nv := rfl
@[simp] theorem State.setPoll_pmu (s : State) (p : Option Poll) : (s.setPoll p).pmu = s.pmu := rfl
@[simp] theorem State.setPoll_sys (s : State) (p : Option Poll) : (s.setPoll p).sys = s.sys := rfl
@[simp] theorem State.setPoll_sec (s : State) (p : Option Poll) : (s.setPoll p).sec = s.sec := rfl
@[simp] theorem State.setPoll_bsq (s : State) (p : Option Poll) : (s.setPoll p).bsq = s.bsq := rfl
@[simp] theorem State.setPoll_hand (s : State) (p : Option Poll) : (s.setPoll p).hand = s.hand := rfl
@[simp] theorem State.setPoll_host (s : State) (p : Option Poll) : (s.setPoll p).host = s.host := rfl
@[simp] theorem State.setPoll_flash (s : State) (p : Option Poll) : (s.setPoll p).flash = s.flash := rfl
@[simp] theorem State.setPoll_overVolt (s : State) (p : Option Poll) : (s.setPoll p).overVolt = s.overVolt := rfl
@[simp] theorem State.setPoll_reg (s : State) (p : Option Poll) (a' : Nat) : (s.setPoll p).reg a' = s.reg a' := rfl
@[simp] theorem State.setPoll_fld (s : State) (p : Option Poll) (f' : Fld) : (s.setPoll p).fld f' = s.fld f' := rfl
@[simp] theorem State.setPoll_flag (s : State) (p : Option Poll) (f' : Fld) : (s.setPoll p).flag f' = s.flag f' := rfl

/-! State.setHoFlag changes hand. -/
@[simp] theorem State.setHoFlag_pending (s : State) (e : Nat) (v : Nat) : (s.setHoFlag e v).pending = s.pending := rfl
@[simp] theorem State.setHoFlag_now (s : State) (e : Nat) (v : Nat) : (s.setHoFlag e v).now = s.now := rfl
@[simp] theorem State.setHoFlag_freeCtr (s : State) (e : Nat) (v : Nat) : (s.setHoFlag e v).freeCtr = s.freeCtr := rfl
@[simp] theorem State.setHoFlag_regs (s : State) (e : Nat) (v : Nat) : (s.setHoFlag e v).regs = s.regs := rfl
@[simp] theorem State.setHoFlag_mem (s : State) (e : Nat) (v : Nat) : (s.setHoFlag e v).mem = s.mem := rfl
@[simp] theorem State.setHoFlag_reply (s : State) (e : Nat) (v : Nat) : (s.setHoFlag e v).reply = s.reply := rfl
@[simp] theorem State.setHoFlag_sent (s : State) (e : Nat) (v : Nat) : (s.setHoFlag e v).sent = s.sent := rfl
@[simp] theorem State.setHoFlag_txn (s : State) (e : Nat) (v : Nat) : (s.setHoFlag e v).txn = s.txn := rfl
@[simp] theorem State.setHoFlag_hsw (s : State) (e : Nat) (v : Nat) : (s.setHoFlag e v).hsw = s.hsw := rfl
@[simp] theorem State.setHoFlag_pdi (s : State) (e : Nat) (v : Nat) : (s.setHoFlag e v).pdi = s.pdi := rfl
@[simp] theorem State.setHoFlag_vlv (s : State) (e : Nat) (v : Nat) : (s.setHoFlag e v).vlv = s.vlv := rfl
@[simp] theorem State.setHoFlag_led (s : State) (e : Nat) (v : Nat) : (s.setHoFlag e v).led = s.led := rfl
@[simp] theorem State.setHoFlag_din (s : State) (e : Nat) (v : Nat) : (s.setHoFlag e v).din = s.din := rfl
@[simp] theorem State.setHoFlag_dout (s : State) (e : Nat) (v : Nat) : (s.setHoFlag e v).dout = s.dout := rfl
@[simp] theorem State.setHoFlag_fcu (s : State) (e : Nat) (v : Nat) : (s.setHoFlag e v).fcu = s.fcu := rfl
@[simp] theorem State.setHoFlag_gt (s : State) (e : Nat) (v : Nat) : (s.setHoFlag e v).gt = s.gt := rfl
@[simp] theorem State.setHoFlag_ntu (s : State) (e : Nat) (v : Nat) : (s.setHoFlag e v).ntu = s.ntu := rfl
@[simp] theorem State.setHoFlag_readShadow (s : State) (e : Nat) (v : Nat) : (s.setHoFlag e v).readShadow = s.readShadow := rfl
@[simp] theorem State.setHoFlag_writeShadow (s : State) (e : Nat) (v : Nat) : (s.setHoFlag e v).writeShadow = s.writeShadow := rfl
@[simp] theorem State.setHoFlag_gtAvail (s : State) (e : Nat) (v : Nat) : (s.setHoFlag e v).gtAvail = s.gtAvail := rfl
@[simp] theorem State.setHoFlag_mbx (s : State) (e : Nat) (v : Nat) : (s.setHoFlag e v).mbx = s.mbx := rfl
@[simp] theorem State.setHoFlag_can (s : State) (e : Nat) (v : Nat) : (s.setHoFlag e v).can = s.can := rfl
@[simp] theorem State.setHoFlag_lin (s : State) (e : Nat) (v : Nat) : (s.setHoFlag e v).lin = s.lin := rfl
@[simp] theorem State.setHoFlag_nsl (s : State) (e : Nat) (v : Nat) : (s.setHoFlag e v).nsl = s.nsl := rfl
@[simp] theorem State.setHoFlag_gwe (s : State) (e : Nat) (v : Nat) : (s.setHoFlag e v).gwe = s.gwe := rfl
@[simp] theorem State.setHoFlag_acc (s : State) (e : Nat) (v : Nat) : (s.setHoFlag e v).acc = s.acc := rfl
@[simp] theorem State.setHoFlag_cpu (s : State) (e : Nat) (v : Nat) : (s.setHoFlag e v).cpu = s.cpu := rfl
@[simp] theorem State.setHoFlag_nv (s : State) (e : Nat) (v : Nat) : (s.setHoFlag e v).nv = s.nv := rfl
@[simp] theorem State.setHoFlag_pmu (s : State) (e : Nat) (v : Nat) : (s.setHoFlag e v).pmu = s.pmu := rfl
@[simp] theorem State.setHoFlag_sys (s : State) (e : Nat) (v : Nat) : (s.setHoFlag e v).sys = s.sys := rfl
@[simp] theorem State.setHoFlag_sec (s : State) (e : Nat) (v : Nat) : (s.setHoFlag e v).sec = s.sec := rfl
@[simp] theorem State.setHoFlag_bsq (s : State) (e : Nat) (v : Nat) : (s.setHoFlag e v).bsq = s.bsq := rfl
@[simp] theorem State.setHoFlag_host (s : State) (e : Nat) (v : Nat) : (s.setHoFlag e v).host = s.host := rfl
@[simp] theorem State.setHoFlag_flash (s : State) (e : Nat) (v : Nat) : (s.setHoFlag e v).flash = s.flash := rfl
@[simp] theorem State.setHoFlag_overVolt (s : State) (e : Nat) (v : Nat) : (s.setHoFlag e v).overVolt = s.overVolt := rfl
@[simp] theorem State.setHoFlag_reg (s : State) (e : Nat) (v : Nat) (a' : Nat) : (s.setHoFlag e v).reg a' = s.reg a' := rfl
@[simp] theorem State.setHoFlag_fld (s : State) (e : Nat) (v : Nat) (f' : Fld) : (s.setHoFlag e v).fld f' = s.fld f' := rfl
@[simp] theorem State.setHoFlag_flag (s : State) (e : Nat) (v : Nat) (f' : Fld) : (s.setHoFlag e v).flag f' = s.flag f' := rfl

/-! State.setSensor changes acc. -/
@[simp] theorem State.setSensor_pending (s : State) (n : Nat) (x : Handle8) : (s.setSensor n x).pending = s.pending := rfl
@[simp] theorem State.setSensor_now (s : State) (n : Nat) (x : Handle8) : (s.setSensor n x).now = s.now := rfl
@[simp] theorem State.setSensor_freeCtr (s : State) (n : Nat) (x : Handle8) : (s.setSensor n x).freeCtr = s.freeCtr := rfl
@[simp] theorem State.setSensor_regs (s : State) (n : Nat) (x : Handle8) : (s.setSensor n x).regs = s.regs := rfl
@[simp] theorem State.setSensor_mem (s : State) (n : Nat) (x : Handle8) : (s.setSensor n x).mem = s.mem := rfl
@[simp] theorem State.setSensor_reply (s : State) (n : Nat) (x : Handle8) : (s.setSensor n x).reply = s.reply := rfl
@[simp] theorem State.setSensor_sent (s : State) (n : Nat) (x : Handle8) : (s.setSensor n x).sent = s.sent := rfl
@[simp] theorem State.setSensor_txn (s : State) (n : Nat) (x : Handle8) : (s.setSensor n x).txn = s.txn := rfl
@[simp] theorem State.setSensor_hsw (s : State) (n : Nat) (x : Handle8) : (s.setSensor n x).hsw = s.hsw := rfl
@[simp] theorem State.setSensor_pdi (s : State) (n : Nat) (x : Handle8) : (s.setSensor n x).pdi = s.pdi := rfl
@[simp] theorem State.setSensor_vlv (s : State) (n : Nat) (x : Handle8) : (s.setSensor n x).vlv = s.vlv := rfl
@[simp] theorem State.setSensor_led (s : State) (n : Nat) (x : Handle8) : (s.setSensor n x).led = s.led := rfl
@[simp] theorem State.setSensor_din (s : State) (n : Nat) (x : Handle8) : (s.setSensor n x).din = s.din := rfl
@[simp] theorem State.setSensor_dout (s : State) (n : Nat) (x : Handle8) : (s.setSensor n x).dout = s.dout := rfl
@[simp] theorem State.setSensor_fcu (s : State) (n : Nat) (x : Handle8) : (s.setSensor n x).fcu = s.fcu := rfl
@[simp] theorem State.setSensor_gt (s : State) (n : Nat) (x : Handle8) : (s.setSensor n x).gt = s.gt := rfl
@[simp] theorem State.setSensor_ntu (s : State) (n : Nat) (x : Handle8) : (s.setSensor n x).ntu = s.ntu := rfl
@[simp] theorem State.setSensor_readShadow (s : State) (n : Nat) (x : Handle8) : (s.setSensor n x).readShadow = s.readShadow := rfl
@[simp] theorem State.setSensor_writeShadow (s : State) (n : Nat) (x : Handle8) : (s.setSensor n x).writeShadow = s.writeShadow := rfl
@[simp] theorem State.setSensor_gtAvail (s : State) (n : Nat) (x : Handle8) : (s.setSensor n x).gtAvail = s.gtAvail := rfl
@[simp] theorem State.setSensor_mbx (s : State) (n : Nat) (x : Handle8) : (s.setSensor n x).mbx = s.mbx := rfl
@[simp] theorem State.setSensor_can (s : State) (n : Nat) (x : Handle8) : (s.setSensor n x).can = s.can := rfl
@[simp] theorem State.setSensor_lin (s : State) (n : Nat) (x : Handle8) : (s.setSensor n x).lin = s.lin := rfl
@[simp] theorem State.setSensor_nsl (s : State) (n : Nat) (x : Handle8) : (s.setSensor n x).nsl = s.nsl := rfl
@[simp] theorem State.setSensor_gwe (s : State) (n : Nat) (x : Handle8) : (s.setSensor n x).gwe = s.gwe := rfl
@[simp] theorem State.setSensor_cpu (s : State) (n : Nat) (x : Handle8) : (s.setSensor n x).cpu = s.cpu := rfl
@[simp] theorem State.setSensor_nv (s : State) (n : Nat) (x : Handle8) : (s.setSensor n x).nv = s.nv := rfl
@[simp] theorem State.setSensor_pmu (s : State) (n : Nat) (x : Handle8) : (s.setSensor n x).pmu = s.pmu := rfl
@[simp] theorem State.setSensor_sys (s : State) (n : Nat) (x : Handle8) : (s.setSensor n x).sys = s.sys := rfl
@[simp] theorem State.setSensor_sec (s : State) (n : Nat) (x : Handle8) : (s.setSensor n x).sec = s.sec := rfl
@[simp] theorem State.setSensor_bsq (s : State) (n : Nat) (x : Handle8) : (s.setSensor n x).bsq = s.bsq := rfl
@[simp] theorem State.setSensor_hand (s : State) (n : Nat) (x : Handle8) : (s.setSensor n x).hand = s.hand := rfl
@[simp] theorem State.setSensor_host (s : State) (n : Nat) (x : Handle8) : (s.setSensor n x).host = s.host := rfl
@[simp] theorem State.setSensor_flash (s : State) (n : Nat) (x : Handle8) : (s.setSensor n x).flash = s.flash := rfl
@[simp] theorem State.setSensor_overVolt (s : State) (n : Nat) (x : Handle8) : (s.setSensor n x).overVolt = s.overVolt := rfl
@[simp] theorem State.setSensor_reg (s : State) (n : Nat) (x : Handle8) (a' : Nat) : (s.setSensor n x).reg a' = s.reg a' := rfl
@[simp] theorem State.setSensor_fld (s : State) (n : Nat) (x : Handle8) (f' : Fld) : (s.setSensor n x).fld f' = s.fld f' := rfl
@[simp] theorem State.setSensor_flag (s : State) (n : Nat) (x : Handle8) (f' : Fld) : (s.setSensor n x).flag f' = s.flag f' := rfl

/-! State.dropPart changes sec. -/
@[simp] theorem State.dropPart_pending (s : State) (port : Nat) : (s.dropPart port).pending = s.pending := rfl
@[simp] theorem State.dropPart_now (s : State) (port : Nat) : (s.dropPart port).now = s.now := rfl
@[simp] theorem State.dropPart_freeCtr (s : State) (port : Nat) : (s.dropPart port).freeCtr = s.freeCtr := rfl
@[simp] theorem State.dropPart_regs (s : State) (port : Nat) : (s.dropPart port).regs = s.regs := rfl
@[simp] theorem State.dropPart_mem (s : State) (port : Nat) : (s.dropPart port).mem = s.mem := rfl
@[simp] theorem State.dropPart_reply (s : State) (port : Nat) : (s.dropPart port).reply = s.reply := rfl
@[simp] theorem State.dropPart_sent (s : State) (port : Nat) : (s.dropPart port).sent = s.sent := rfl
@[simp] theorem State.dropPart_txn (s : State) (port : Nat) : (s.dropPart port).txn = s.txn := rfl
@[simp] theorem State.dropPart_hsw (s : State) (port : Nat) : (s.dropPart port).hsw = s.hsw := rfl
@[simp] theorem State.dropPart_pdi (s : State) (port : Nat) : (s.dropPart port).pdi = s.pdi := rfl
@[simp] theorem State.dropPart_vlv (s : State) (port : Nat) : (s.dropPart port).vlv = s.vlv := rfl
@[simp] theorem State.dropPart_led (s : State) (port : Nat) : (s.dropPart port).led = s.led := rfl
@[simp] theorem State.dropPart_din (s : State) (port : Nat) : (s.dropPart port).din = s.din := rfl
@[simp] theorem State.dropPart_dout (s : State) (port : Nat) : (s.dropPart port).dout = s.dout := rfl
@[simp] theorem State.dropPart_fcu (s : State) (port : Nat) : (s.dropPart port).fcu = s.fcu := rfl
@[simp] theorem State.dropPart_gt (s : State) (port : Nat) : (s.dropPart port).gt = s.gt := rfl
@[simp] theorem State.dropPart_ntu (s : State) (port : Nat) : (s.dropPart port).ntu = s.ntu := rfl
@[simp] theorem State.dropPart_readShadow (s : State) (port : Nat) : (s.dropPart port).readShadow = s.readShadow := rfl
@[simp] theorem State.dropPart_writeShadow (s : State) (port : Nat) : (s.dropPart port).writeShadow = s.writeShadow := rfl
@[simp] theorem State.dropPart_gtAvail (s : State) (port : Nat) : (s.dropPart port).gtAvail = s.gtAvail := rfl
@[simp] theorem State.dropPart_mbx (s : State) (port : Nat) : (s.dropPart port).mbx = s.mbx := rfl
@[simp] theorem State.dropPart_can (s : State) (port : Nat) : (s.dropPart port).can = s.can := rfl
@[simp] theorem State.dropPart_lin (s : State) (port : Nat) : (s.dropPart port).lin = s.lin := rfl
@[simp] theorem State.dropPart_nsl (s : State) (port : Nat) : (s.dropPart port).nsl = s.nsl := rfl
@[simp] theorem State.dropPart_gwe (s : State) (port : Nat) : (s.dropPart port).gwe = s.gwe := rfl
@[simp] theorem State.dropPart_acc (s : State) (port : Nat) : (s.dropPart port).acc = s.acc := rfl
@[simp] theorem State.dropPart_cpu (s : State) (port : Nat) : (s.dropPart port).cpu = s.cpu := rfl
@[simp] theorem State.dropPart_nv (s : State) (port : Nat) : (s.dropPart port).nv = s.nv := rfl
@[simp] theorem State.dropPart_pmu (s : State) (port : Nat) : (s.dropPart port).pmu = s.pmu := rfl
@[simp] theorem State.dropPart_sys (s : State) (port : Nat) : (s.dropPart port).sys = s.sys := rfl
@[simp] theorem State.dropPart_bsq (s : State) (port : Nat) : (s.dropPart port).bsq = s.bsq := rfl
@[simp] theorem State.dropPart_hand (s : State) (port : Nat) : (s.dropPart port).hand = s.hand := rfl
@[simp] theorem State.dropPart_host (s : State) (port : Nat) : (s.dropPart port).host = s.host := rfl
@[simp] theorem State.dropPart_flash (s : State) (port : Nat) : (s.dropPart port).flash = s.flash := rfl
@[simp] theorem State.dropPart_overVolt (s : State) (port : Nat) : (s.dropPart port).overVolt = s.overVolt := rfl
@[simp] theorem State.dropPart_reg (s : State) (port : Nat) (a' : Nat) : (s.dropPart port).reg a' = s.reg a' := rfl
@[simp] theorem State.dropPart_fld (s : State) (port : Nat) (f' : Fld) : (s.dropPart port).fld f' = s.fld f' := rfl
@[simp] theorem State.dropPart_flag (s : State) (port : Nat) (f' : Fld) : (s.dropPart port).flag f' = s.flag f' := rfl

/-! State.setRoute changes gwe. -/
@[simp] theorem State.setRoute_pending (s : State) (bank : Nat) (i : Nat) (r : Route) : (s.setRoute bank i r).pending = s.pending := rfl
@[simp] theorem State.setRoute_now (s : State) (bank : Nat) (i : Nat) (r : Route) : (s.setRoute bank i r).now = s.now := rfl
@[simp] theorem State.setRoute_freeCtr (s : State) (bank : Nat) (i : Nat) (r : Route) : (s.setRoute bank i r).freeCtr = s.freeCtr := rfl
@[simp] theorem State.setRoute_regs (s : State) (bank : Nat) (i : Nat) (r : Route) : (s.setRoute bank i r).regs = s.regs := rfl
@[simp] theorem State.setRoute_mem (s : State) (bank : Nat) (i : Nat) (r : Route) : (s.setRoute bank i r).mem = s.mem := rfl
@[simp] theorem State.setRoute_reply (s : State) (bank : Nat) (i : Nat) (r : Route) : (s.setRoute bank i r).reply = s.reply := rfl
@[simp] theorem State.setRoute_sent (s : State) (bank : Nat) (i : Nat) (r : Route) : (s.setRoute bank i r).sent = s.sent := rfl
@[simp] theorem State.setRoute_txn (s : State) (bank : Nat) (i : Nat) (r : Route) : (s.setRoute bank i r).txn = s.txn := rfl
@[simp] theorem State.setRoute_hsw (s : State) (bank : Nat) (i : Nat) (r : Route) : (s.setRoute bank i r).hsw = s.hsw := rfl
@[simp] theorem State.setRoute_pdi (s : State) (bank : Nat) (i : Nat) (r : Route) : (s.setRoute bank i r).pdi = s.pdi := rfl
@[simp] theorem State.setRoute_vlv (s : State) (bank : Nat) (i : Nat) (r : Route) : (s.setRoute bank i r).vlv = s.vlv := rfl
@[simp] theorem State.setRoute_led (s : State) (bank : Nat) (i : Nat) (r : Route) : (s.setRoute bank i r).led = s.led := rfl
@[simp] theorem State.setRoute_din (s : State) (bank : Nat) (i : Nat) (r : Route) : (s.setRoute bank i r).din = s.din := rfl
@[simp] theorem State.setRoute_dout (s : State) (bank : Nat) (i : Nat) (r : Route) : (s.setRoute bank i r).dout = s.dout := rfl
@[simp] theorem State.setRoute_fcu (s : State) (bank : Nat) (i : Nat) (r : Route) : (s.setRoute bank i r).fcu = s.fcu := rfl
@[simp] theorem State.setRoute_gt (s : State) (bank : Nat) (i : Nat) (r : Route) : (s.setRoute bank i r).gt = s.gt := rfl
@[simp] theorem State.setRoute_ntu (s : State) (bank : Nat) (i : Nat) (r : Route) : (s.setRoute bank i r).ntu = s.ntu := rfl
@[simp] theorem State.setRoute_readShadow (s : State) (bank : Nat) (i : Nat) (r : Route) : (s.setRoute bank i r).readShadow = s.readShadow := rfl
@[simp] theorem State.setRoute_writeShadow (s : State) (bank : Nat) (i : Nat) (r : Route) : (s.setRoute bank i r).writeShadow = s.writeShadow := rfl
@[simp] theorem State.setRoute_gtAvail (s : State) (bank : Nat) (i : Nat) (r : Route) : (s.setRoute bank i r).gtAvail = s.gtAvail := rfl
@[simp] theorem State.setRoute_mbx (s : State) (bank : Nat) (i : Nat) (r : Route) : (s.setRoute bank i r).mbx = s.mbx := rfl
@[simp] theorem State.setRoute_can (s : State) (bank : Nat) (i : Nat) (r : Route) : (s.setRoute bank i r).can = s.can := rfl
@[simp] theorem State.setRoute_lin (s : State) (bank : Nat) (i : Nat) (r : Route) : (s.setRoute bank i r).lin = s.lin := rfl
@[simp] theorem State.setRoute_nsl (s : State) (bank : Nat) (i : Nat) (r : Route) : (s.setRoute bank i r).nsl = s.nsl := rfl
@[simp] theorem State.setRoute_acc (s : State) (bank : Nat) (i : Nat) (r : Route) : (s.setRoute bank i r).acc = s.acc := rfl
@[simp] theorem State.setRoute_cpu (s : State) (bank : Nat) (i : Nat) (r : Route) : (s.setRoute bank i r).cpu = s.cpu := rfl
@[simp] theorem State.setRoute_nv (s : State) (bank : Nat) (i : Nat) (r : Route) : (s.setRoute bank i r).nv = s.nv := rfl
@[simp] theorem State.setRoute_pmu (s : State) (bank : Nat) (i : Nat) (r : Route) : (s.setRoute bank i r).pmu = s.pmu := rfl
@[simp] theorem State.setRoute_sys (s : State) (bank : Nat) (i : Nat) (r : Route) : (s.setRoute bank i r).sys = s.sys := rfl
@[simp] theorem State.setRoute_sec (s : State) (bank : Nat) (i : Nat) (r : Route) : (s.setRoute bank i r).sec = s.sec := rfl
@[simp] theorem State.setRoute_bsq (s : State) (bank : Nat) (i : Nat) (r : Route) : (s.setRoute bank i r).bsq = s.bsq := rfl
@[simp] theorem State.setRoute_hand (s : State) (bank : Nat) (i : Nat) (r : Route) : (s.setRoute bank i r).hand = s.hand := rfl
@[simp] theorem State.setRoute_host (s : State) (bank : Nat) (i : Nat) (r : Route) : (s.setRoute bank i r).host = s.host := rfl
@[simp] theorem State.setRoute_flash (s : State) (bank : Nat) (i : Nat) (r : Route) : (s.setRoute bank i r).flash = s.flash := rfl
@[simp] theorem State.setRoute_overVolt (s : State) (bank : Nat) (i : Nat) (r : Route) : (s.setRoute bank i r).overVolt = s.overVolt := rfl
@[simp] theorem State.setRoute_reg (s : State) (bank : Nat) (i : Nat) (r : Route) (a' : Nat) : (s.setRoute bank i r).reg a' = s.reg a' := rfl
@[simp] theorem State.setRoute_fld (s : State) (bank : Nat) (i : Nat) (r : Route) (f' : Fld) : (s.setRoute bank i r).fld f' = s.fld f' := rfl
@[simp] theorem State.setRoute_flag (s : State) (bank : Nat) (i : Nat) (r : Route) (f' : Fld) : (s.setRoute bank i r).flag f' = s.flag f' := rfl

/-! State.lockIenWrite changes mbx. -/
@[simp] theorem State.lockIenWrite_pending (s : State) (m : Master) (v : Nat) : (s.lockIenWrite m v).pending = s.pending := rfl
@[simp] theorem State.lockIenWrite_now (s : State) (m : Master) (v : Nat) : (s.lockIenWrite m v).now = s.now := rfl
@[simp] theorem State.lockIenWrite_freeCtr (s : State) (m : Master) (v : Nat) : (s.lockIenWrite m v).freeCtr = s.freeCtr := rfl
@[simp] theorem State.lockIenWrite_regs (s : State) (m : Master) (v : Nat) : (s.lockIenWrite m v).regs = s.regs := rfl
@[simp] theorem State.lockIenWrite_mem (s : State) (m : Master) (v : Nat) : (s.lockIenWrite m v).mem = s.mem := rfl
@[simp] theorem State.lockIenWrite_reply (s : State) (m : Master) (v : Nat) : (s.lockIenWrite m v).reply = s.reply := rfl
@[simp] theorem State.lockIenWrite_sent (s : State) (m : Master) (v : Nat) : (s.lockIenWrite m v).sent = s.sent := rfl
@[simp] theorem State.lockIenWrite_txn (s : State) (m : Master) (v : Nat) : (s.lockIenWrite m v).txn = s.txn := rfl
@[simp] theorem State.lockIenWrite_hsw (s : State) (m : Master) (v : Nat) : (s.lockIenWrite m v).hsw = s.hsw := rfl
@[simp] theorem State.lockIenWrite_pdi (s : State) (m : Master) (v : Nat) : (s.lockIenWrite m v).pdi = s.pdi := rfl
@[simp] theorem State.lockIenWrite_vlv (s : State) (m : Master) (v : Nat) : (s.lockIenWrite m v).vlv = s.vlv := rfl
@[simp] theorem State.lockIenWrite_led (s : State) (m : Master) (v : Nat) : (s.lockIenWrite m v).led = s.led := rfl
@[simp] theorem State.lockIenWrite_din (s : State) (m : Master) (v : Nat) : (s.lockIenWrite m v).din = s.din := rfl
@[simp] theorem State.lockIenWrite_dout (s : State) (m : Master) (v : Nat) : (s.lockIenWrite m v).dout = s.dout := rfl
@[simp] theorem State.lockIenWrite_fcu (s : State) (m : Master) (v : Nat) : (s.lockIenWrite m v).fcu = s.fcu := rfl
@[simp] theorem State.lockIenWrite_gt (s : State) (m : Master) (v : Nat) : (s.lockIenWrite m v).gt = s.gt := rfl
@[simp] theorem State.lockIenWrite_ntu (s : State) (m : Master) (v : Nat) : (s.lockIenWrite m v).ntu = s.ntu := rfl
@[simp] theorem State.lockIenWrite_readShadow (s : State) (m : Master) (v : Nat) : (s.lockIenWrite m v).readShadow = s.readShadow := rfl
@[simp] theorem State.lockIenWrite_writeShadow (s : State) (m : Master) (v : Nat) : (s.lockIenWrite m v).writeShadow = s.writeShadow := rfl
@[simp] theorem State.lockIenWrite_gtAvail (s : State) (m : Master) (v : Nat) : (s.lockIenWrite m v).gtAvail = s.gtAvail := rfl
@[simp] theorem State.lockIenWrite_can (s : State) (m : Master) (v : Nat) : (s.lockIenWrite m v).can = s.can := rfl
@[simp] theorem State.lockIenWrite_lin (s : State) (m : Master) (v : Nat) : (s.lockIenWrite m v).lin = s.lin := rfl
@[simp] theorem State.lockIenWrite_nsl (s : State) (m : Master) (v : Nat) : (s.lockIenWrite m v).nsl = s.nsl := rfl
@[simp] theorem State.lockIenWrite_gwe (s : State) (m : Master) (v : Nat) : (s.lockIenWrite m v).gwe = s.gwe := rfl
@[simp] theorem State.lockIenWrite_acc (s : State) (m : Master) (v : Nat) : (s.lockIenWrite m v).acc = s.acc := rfl
@[simp] theorem State.lockIenWrite_cpu (s : State) (m : Master) (v : Nat) : (s.lockIenWrite m v).cpu = s.cpu := rfl
@[simp] theorem State.lockIenWrite_nv (s : State) (m : Master) (v : Nat) : (s.lockIenWrite m v).nv = s.nv := rfl
@[simp] theorem State.lockIenWrite_pmu (s : State) (m : Master) (v : Nat) : (s.lockIenWrite m v).pmu = s.pmu := rfl
@[simp] theorem State.lockIenWrite_sys (s : State) (m : Master) (v : Nat) : (s.lockIenWrite m v).sys = s.sys := rfl
@[simp] theorem State.lockIenWrite_sec (s : State) (m : Master) (v : Nat) : (s.lockIenWrite m v).sec = s.sec := rfl
@[simp] theorem State.lockIenWrite_bsq (s : State) (m : Master) (v : Nat) : (s.lockIenWrite m v).bsq = s.bsq := rfl
@[simp] theorem State.lockIenWrite_hand (s : State) (m : Master) (v : Nat) : (s.lockIenWrite m v).hand = s.hand := rfl
@[simp] theorem State.lockIenWrite_host (s : State) (m : Master) (v : Nat) : (s.lockIenWrite m v).host = s.host := rfl
@[simp] theorem State.lockIenWrite_flash (s : State) (m : Master) (v : Nat) : (s.lockIenWrite m v).flash = s.flash := rfl
@[simp] theorem State.lockIenWrite_overVolt (s : State) (m : Master) (v : Nat) : (s.lockIenWrite m v).overVolt = s.overVolt := rfl
@[simp] theorem State.lockIenWrite_reg (s : State) (m : Master) (v : Nat) (a' : Nat) : (s.lockIenWrite m v).reg a' = s.reg a' := rfl
@[simp] theorem State.lockIenWrite_fld (s : State) (m : Master) (v : Nat) (f' : Fld) : (s.lockIenWrite m v).fld f' = s.fld f' := rfl
@[simp] theorem State.lockIenWrite_flag (s : State) (m : Master) (v : Nat) (f' : Fld) : (s.lockIenWrite m v).flag f' = s.flag f' := rfl

/-! State.zeroRange changes mem. -/
@[simp] theorem State.zeroRange_pending (s : State) (a : Nat) (n : Nat) : (s.zeroRange a n).pending = s.pending := rfl
@[simp] theorem State.zeroRange_now (s : State) (a : Nat) (n : Nat) : (s.zeroRange a n).now = s.now := rfl
@[simp] theorem State.zeroRange_freeCtr (s : State) (a : Nat) (n : Nat) : (s.zeroRange a n).freeCtr = s.freeCtr := rfl
@[simp] theorem State.zeroRange_regs (s : State) (a : Nat) (n : Nat) : (s.zeroRange a n).regs = s.regs := rfl
@[simp] theorem State.zeroRange_reply (s : State) (a : Nat) (n : Nat) : (s.zeroRange a n).reply = s.reply := rfl
@[simp] theorem State.zeroRange_sent (s : State) (a : Nat) (n : Nat) : (s.zeroRange a n).sent = s.sent := rfl
@[simp] theorem State.zeroRange_txn (s : State) (a : Nat) (n : Nat) : (s.zeroRange a n).txn = s.txn := rfl
@[simp] theorem State.zeroRange_hsw (s : State) (a : Nat) (n : Nat) : (s.zeroRange a n).hsw = s.hsw := rfl
@[simp] theorem State.zeroRange_pdi (s : State) (a : Nat) (n : Nat) : (s.zeroRange a n).pdi = s.pdi := rfl
@[simp] theorem State.zeroRange_vlv (s : State) (a : Nat) (n : Nat) : (s.zeroRange a n).vlv = s.vlv := rfl
@[simp] theorem State.zeroRange_led (s : State) (a : Nat) (n : Nat) : (s.zeroRange a n).led = s.led := rfl
@[simp] theorem State.zeroRange_din (s : State) (a : Nat) (n : Nat) : (s.zeroRange a n).din = s.din := rfl
@[simp] theorem State.zeroRange_dout (s : State) (a : Nat) (n : Nat) : (s.zeroRange a n).dout = s.dout := rfl
@[simp] theorem State.zeroRange_fcu (s : State) (a : Nat) (n : Nat) : (s.zeroRange a n).fcu = s.fcu := rfl
@[simp] theorem State.zeroRange_gt (s : State) (a : Nat) (n : Nat) : (s.zeroRange a n).gt = s.gt := rfl
@[simp] theorem State.zeroRange_ntu (s : State) (a : Nat) (n : Nat) : (s.zeroRange a n).ntu = s.ntu := rfl
@[simp] theorem State.zeroRange_readShadow (s : State) (a : Nat) (n : Nat) : (s.zeroRange a n).readShadow = s.readShadow := rfl
@[simp] theorem State.zeroRange_writeShadow (s : State) (a : Nat) (n : Nat) : (s.zeroRange a n).writeShadow = s.writeShadow := rfl
@[simp] theorem State.zeroRange_gtAvail (s : State) (a : Nat) (n : Nat) : (s.zeroRange a n).gtAvail = s.gtAvail := rfl
@[simp] theorem State.zeroRange_mbx (s : State) (a : Nat) (n : Nat) : (s.zeroRange a n).mbx = s.mbx := rfl
@[simp] theorem State.zeroRange_can (s : State) (a : Nat) (n : Nat) : (s.zeroRange a n).can = s.can := rfl
@[simp] theorem State.zeroRange_lin (s : State) (a : Nat) (n : Nat) : (s.zeroRange a n).lin = s.lin := rfl
@[simp] theorem State.zeroRange_nsl (s : State) (a : Nat) (n : Nat) : (s.zeroRange a n).nsl = s.nsl := rfl
@[simp] theorem State.zeroRange_gwe (s : State) (a : Nat) (n : Nat) : (s.zeroRange a n).gwe = s.gwe := rfl
@[simp] theorem State.zeroRange_acc (s : State) (a : Nat) (n : Nat) : (s.zeroRange a n).acc = s.acc := rfl
@[simp] theorem State.zeroRange_cpu (s : State) (a : Nat) (n : Nat) : (s.zeroRange a n).cpu = s.cpu := rfl
@[simp] theorem State.zeroRange_nv (s : State) (a : Nat) (n : Nat) : (s.zeroRange a n).nv = s.nv := rfl
@[simp] theorem State.zeroRange_pmu (s : State) (a : Nat) (n : Nat) : (s.zeroRange a n).pmu = s.pmu := rfl
@[simp] theorem State.zeroRange_sys (s : State) (a : Nat) (n : Nat) : (s.zeroRange a n).sys = s.sys := rfl
@[simp] theorem State.zeroRange_sec (s : State) (a : Nat) (n : Nat) : (s.zeroRange a n).sec = s.sec := rfl
@[simp] theorem State.zeroRange_bsq (s : State) (a : Nat) (n : Nat) : (s.zeroRange a n).bsq = s.bsq := rfl
@[simp] theorem State.zeroRange_hand (s : State) (a : Nat) (n : Nat) : (s.zeroRange a n).hand = s.hand := rfl
@[simp] theorem State.zeroRange_host (s : State) (a : Nat) (n : Nat) : (s.zeroRange a n).host = s.host := rfl
@[simp] theorem State.zeroRange_flash (s : State) (a : Nat) (n : Nat) : (s.zeroRange a n).flash = s.flash := rfl
@[simp] theorem State.zeroRange_overVolt (s : State) (a : Nat) (n : Nat) : (s.zeroRange a n).overVolt = s.overVolt := rfl
@[simp] theorem State.zeroRange_reg (s : State) (a : Nat) (n : Nat) (a' : Nat) : (s.zeroRange a n).reg a' = s.reg a' := rfl
@[simp] theorem State.zeroRange_fld (s : State) (a : Nat) (n : Nat) (f' : Fld) : (s.zeroRange a n).fld f' = s.fld f' := rfl
@[simp] theorem State.zeroRange_flag (s : State) (a : Nat) (n : Nat) (f' : Fld) : (s.zeroRange a n).flag f' = s.flag f' := rfl

/-! State.setSession changes sec. -/
@[simp] theorem State.setSession_pending (s : State) (x : Option Session) : (s.setSession x).pending = s.pending := rfl
@[simp] theorem State.setSession_now (s : State) (x : Option Session) : (s.setSession x).now = s.now := rfl
@[simp] theorem State.setSession_freeCtr (s : State) (x : Option Session) : (s.setSession x).freeCtr = s.freeCtr := rfl
@[simp] theorem State.setSession_regs (s : State) (x : Option Session) : (s.setSession x).regs = s.regs := rfl
@[simp] theorem State.setSession_mem (s : State) (x : Option Session) : (s.setSession x).mem = s.mem := rfl
@[simp] theorem State.setSession_reply (s : State) (x : Option Session) : (s.setSession x).reply = s.reply := rfl
@[simp] theorem State.setSession_sent (s : State) (x : Option Session) : (s.setSession x).sent = s.sent := rfl
@[simp] theorem State.setSession_txn (s : State) (x : Option Session) : (s.setSession x).txn = s.txn := rfl
@[simp] theorem State.setSession_hsw (s : State) (x : Option Session) : (s.setSession x).hsw = s.hsw := rfl
@[simp] theorem State.setSession_pdi (s : State) (x : Option Session) : (s.setSession x).pdi = s.pdi := rfl
@[simp] theorem State.setSession_vlv (s : State) (x : Option Session) : (s.setSession x).vlv = s.vlv := rfl
@[simp] theorem State.setSession_led (s : State) (x : Option Session) : (s.setSession x).led = s.led := rfl
@[simp] theorem State.setSession_din (s : State) (x : Option Session) : (s.setSession x).din = s.din := rfl
@[simp] theorem State.setSession_dout (s : State) (x : Option Session) : (s.setSession x).dout = s.dout := rfl
@[simp] theorem State.setSession_fcu (s : State) (x : Option Session) : (s.setSession x).fcu = s.fcu := rfl
@[simp] theorem State.setSession_gt (s : State) (x : Option Session) : (s.setSession x).gt = s.gt := rfl
@[simp] theorem State.setSession_ntu (s : State) (x : Option Session) : (s.setSession x).ntu = s.ntu := rfl
@[simp] theorem State.setSession_readShadow (s : State) (x : Option Session) : (s.setSession x).readShadow = s.readShadow := rfl
@[simp] theorem State.setSession_writeShadow (s : State) (x : Option Session) : (s.setSession x).writeShadow = s.writeShadow := rfl
@[simp] theorem State.setSession_gtAvail (s : State) (x : Option Session) : (s.setSession x).gtAvail = s.gtAvail := rfl
@[simp] theorem State.setSession_mbx (s : State) (x : Option Session) : (s.setSession x).mbx = s.mbx := rfl
@[simp] theorem State.setSession_can (s : State) (x : Option Session) : (s.setSession x).can = s.can := rfl
@[simp] theorem State.setSession_lin (s : State) (x : Option Session) : (s.setSession x).lin = s.lin := rfl
@[simp] theorem State.setSession_nsl (s : State) (x : Option Session) : (s.setSession x).nsl = s.nsl := rfl
@[simp] theorem State.setSession_gwe (s : State) (x : Option Session) : (s.setSession x).gwe = s.gwe := rfl
@[simp] theorem State.setSession_acc (s : State) (x : Option Session) : (s.setSession x).acc = s.acc := rfl
@[simp] theorem State.setSession_cpu (s : State) (x : Option Session) : (s.setSession x).cpu = s.cpu := rfl
@[simp] theorem State.setSession_nv (s : State) (x : Option Session) : (s.setSession x).nv = s.nv := rfl
@[simp] theorem State.setSession_pmu (s : State) (x : Option Session) : (s.setSession x).pmu = s.pmu := rfl
@[simp] theorem State.setSession_sys (s : State) (x : Option Session) : (s.setSession x).sys = s.sys := rfl
@[simp] theorem State.setSession_bsq (s : State) (x : Option Session) : (s.setSession x).bsq = s.bsq := rfl
@[simp] theorem State.setSession_hand (s : State) (x : Option Session) : (s.setSession x).hand = s.hand := rfl
@[simp] theorem State.setSession_host (s : State) (x : Option Session) : (s.setSession x).host = s.host := rfl
@[simp] theorem State.setSession_flash (s : State) (x : Option Session) : (s.setSession x).flash = s.flash := rfl
@[simp] theorem State.setSession_overVolt (s : State) (x : Option Session) : (s.setSession x).overVolt = s.overVolt := rfl
@[simp] theorem State.setSession_reg (s : State) (x : Option Session) (a' : Nat) : (s.setSession x).reg a' = s.reg a' := rfl
@[simp] theorem State.setSession_fld (s : State) (x : Option Session) (f' : Fld) : (s.setSession x).fld f' = s.fld f' := rfl
@[simp] theorem State.setSession_flag (s : State) (x : Option Session) (f' : Fld) : (s.setSession x).flag f' = s.flag f' := rfl

/-! State.pushStall changes nv. -/
@[simp] theorem State.pushStall_pending (s : State) (x : Stall) : (s.pushStall x).pending = s.pending := rfl
@[simp] theorem State.pushStall_now (s : State) (x : Stall) : (s.pushStall x).now = s.now := rfl
@[simp] theorem State.pushStall_freeCtr (s : State) (x : Stall) : (s.pushStall x).freeCtr = s.freeCtr := rfl
@[simp] theorem State.pushStall_regs (s : State) (x : Stall) : (s.pushStall x).regs = s.regs := rfl
@[simp] theorem State.pushStall_mem (s : State) (x : Stall) : (s.pushStall x).mem = s.mem := rfl
@[simp] theorem State.pushStall_reply (s : State) (x : Stall) : (s.pushStall x).reply = s.reply := rfl
@[simp] theorem State.pushStall_sent (s : State) (x : Stall) : (s.pushStall x).sent = s.sent := rfl
@[simp] theorem State.pushStall_txn (s : State) (x : Stall) : (s.pushStall x).txn = s.txn := rfl
@[simp] theorem State.pushStall_hsw (s : State) (x : Stall) : (s.pushStall x).hsw = s.hsw := rfl
@[simp] theorem State.pushStall_pdi (s : State) (x : Stall) : (s.pushStall x).pdi = s.pdi := rfl
@[simp] theorem State.pushStall_vlv (s : State) (x : Stall) : (s.pushStall x).vlv = s.vlv := rfl
@[simp] theorem State.pushStall_led (s : State) (x : Stall) : (s.pushStall x).led = s.led := rfl
@[simp] theorem State.pushStall_din (s : State) (x : Stall) : (s.pushStall x).din = s.din := rfl
@[simp] theorem State.pushStall_dout (s : State) (x : Stall) : (s.pushStall x).dout = s.dout := rfl
@[simp] theorem State.pushStall_fcu (s : State) (x : Stall) : (s.pushStall x).fcu = s.fcu := rfl
@[simp] theorem State.pushStall_gt (s : State) (x : Stall) : (s.pushStall x).gt = s.gt := rfl
@[simp] theorem State.pushStall_ntu (s : State) (x : Stall) : (s.pushStall x).ntu = s.ntu := rfl
@[simp] theorem State.pushStall_readShadow (s : State) (x : Stall) : (s.pushStall x).readShadow = s.readShadow := rfl
@[simp] theorem State.pushStall_writeShadow (s : State) (x : Stall) : (s.pushStall x).writeShadow = s.writeShadow := rfl
@[simp] theorem State.pushStall_gtAvail (s : State) (x : Stall) : (s.pushStall x).gtAvail = s.gtAvail := rfl
@[simp] theorem State.pushStall_mbx (s : State) (x : Stall) : (s.pushStall x).mbx = s.mbx := rfl
@[simp] theorem State.pushStall_can (s : State) (x : Stall) : (s.pushStall x).can = s.can := rfl
@[simp] theorem State.pushStall_lin (s : State) (x : Stall) : (s.pushStall x).lin = s.lin := rfl
@[simp] theorem State.pushStall_nsl (s : State) (x : Stall) : (s.pushStall x).nsl = s.nsl := rfl
@[simp] theorem State.pushStall_gwe (s : State) (x : Stall) : (s.pushStall x).gwe = s.gwe := rfl
@[simp] theorem State.pushStall_acc (s : State) (x : Stall) : (s.pushStall x).acc = s.acc := rfl
@[simp] theorem State.pushStall_cpu (s : State) (x : Stall) : (s.pushStall x).cpu = s.cpu := rfl
@[simp] theorem State.pushStall_pmu (s : State) (x : Stall) : (s.pushStall x).pmu = s.pmu := rfl
@[simp] theorem State.pushStall_sys (s : State) (x : Stall) : (s.pushStall x).sys = s.sys := rfl
@[simp] theorem State.pushStall_sec (s : State) (x : Stall) : (s.pushStall x).sec = s.sec := rfl
@[simp] theorem State.pushStall_bsq (s : State) (x : Stall) : (s.pushStall x).bsq = s.bsq := rfl
@[simp] theorem State.pushStall_hand (s : State) (x : Stall) : (s.pushStall x).hand = s.hand := rfl
@[simp] theorem State.pushStall_host (s : State) (x : Stall) : (s.pushStall x).host = s.host := rfl
@[simp] theorem State.pushStall_flash (s : State) (x : Stall) : (s.pushStall x).flash = s.flash := rfl
@[simp] theorem State.pushStall_overVolt (s : State) (x : Stall) : (s.pushStall x).overVolt = s.overVolt := rfl
@[simp] theorem State.pushStall_reg (s : State) (x : Stall) (a' : Nat) : (s.pushStall x).reg a' = s.reg a' := rfl
@[simp] theorem State.pushStall_fld (s : State) (x : Stall) (f' : Fld) : (s.pushStall x).fld f' = s.fld f' := rfl
@[simp] theorem State.pushStall_flag (s : State) (x : Stall) (f' : Fld) : (s.pushStall x).flag f' = s.flag f' := rfl

/-! State.put changes regs. -/
@[simp] theorem State.put_pending (s : State) (f : Fld) (x : Nat) : (s.put f x).pending = s.pending := rfl
@[simp] theorem State.put_now (s : State) (f : Fld) (x : Nat) : (s.put f x).now = s.now := rfl
@[simp] theorem State.put_freeCtr (s : State) (f : Fld) (x : Nat) : (s.put f x).freeCtr = s.freeCtr := rfl
@[simp] theorem State.put_mem (s : State) (f : Fld) (x : Nat) : (s.put f x).mem = s.mem := rfl
@[simp] theorem State.put_reply (s : State) (f : Fld) (x : Nat) : (s.put f x).reply = s.reply := rfl
@[simp] theorem State.put_sent (s : State) (f : Fld) (x : Nat) : (s.put f x).sent = s.sent := rfl
@[simp] theorem State.put_txn (s : State) (f : Fld) (x : Nat) : (s.put f x).txn = s.txn := rfl
@[simp] theorem State.put_hsw (s : State) (f : Fld) (x : Nat) : (s.put f x).hsw = s.hsw := rfl
@[simp] theorem State.put_pdi (s : State) (f : Fld) (x : Nat) : (s.put f x).pdi = s.pdi := rfl
@[simp] theorem State.put_vlv (s : State) (f : Fld) (x : Nat) : (s.put f x).vlv = s.vlv := rfl
@[simp] theorem State.put_led (s : State) (f : Fld) (x : Nat) : (s.put f x).led = s.led := rfl
@[simp] theorem State.put_din (s : State) (f : Fld) (x : Nat) : (s.put f x).din = s.din := rfl
@[simp] theorem State.put_dout (s : State) (f : Fld) (x : Nat) : (s.put f x).dout = s.dout := rfl
@[simp] theorem State.put_fcu (s : State) (f : Fld) (x : Nat) : (s.put f x).fcu = s.fcu := rfl
@[simp] theorem State.put_gt (s : State) (f : Fld) (x : Nat) : (s.put f x).gt = s.gt := rfl
@[simp] theorem State.put_ntu (s : State) (f : Fld) (x : Nat) : (s.put f x).ntu = s.ntu := rfl
@[simp] theorem State.put_readShadow (s : State) (f : Fld) (x : Nat) : (s.put f x).readShadow = s.readShadow := rfl
@[simp] theorem State.put_writeShadow (s : State) (f : Fld) (x : Nat) : (s.put f x).writeShadow = s.writeShadow := rfl
@[simp] theorem State.put_gtAvail (s : State) (f : Fld) (x : Nat) : (s.put f x).gtAvail = s.gtAvail := rfl
@[simp] theorem State.put_mbx (s : State) (f : Fld) (x : Nat) : (s.put f x).mbx = s.mbx := rfl
@[simp] theorem State.put_can (s : State) (f : Fld) (x : Nat) : (s.put f x).can = s.can := rfl
@[simp] theorem State.put_lin (s : State) (f : Fld) (x : Nat) : (s.put f x).lin = s.lin := rfl
@[simp] theorem State.put_nsl (s : State) (f : Fld) (x : Nat) : (s.put f x).nsl = s.nsl := rfl
@[simp] theorem State.put_gwe (s : State) (f : Fld) (x : Nat) : (s.put f x).gwe = s.gwe := rfl
@[simp] theorem State.put_acc (s : State) (f : Fld) (x : Nat) : (s.put f x).acc = s.acc := rfl
@[simp] theorem State.put_cpu (s : State) (f : Fld) (x : Nat) : (s.put f x).cpu = s.cpu := rfl
@[simp] theorem State.put_nv (s : State) (f : Fld) (x : Nat) : (s.put f x).nv = s.nv := rfl
@[simp] theorem State.put_pmu (s : State) (f : Fld) (x : Nat) : (s.put f x).pmu = s.pmu := rfl
@[simp] theorem State.put_sys (s : State) (f : Fld) (x : Nat) : (s.put f x).sys = s.sys := rfl
@[simp] theorem State.put_sec (s : State) (f : Fld) (x : Nat) : (s.put f x).sec = s.sec := rfl
@[simp] theorem State.put_bsq (s : State) (f : Fld) (x : Nat) : (s.put f x).bsq = s.bsq := rfl
@[simp] theorem State.put_hand (s : State) (f : Fld) (x : Nat) : (s.put f x).hand = s.hand := rfl
@[simp] theorem State.put_host (s : State) (f : Fld) (x : Nat) : (s.put f x).host = s.host := rfl
@[simp] theorem State.put_flash (s : State) (f : Fld) (x : Nat) : (s.put f x).flash = s.flash := rfl
@[simp] theorem State.put_overVolt (s : State) (f : Fld) (x : Nat) : (s.put f x).overVolt = s.overVolt := rfl

/-! State.putB changes regs. -/
@[simp] theorem State.putB_pending (s : State) (f : Fld) (b : Bool) : (s.putB f b).pending = s.pending := rfl
@[simp] theorem State.putB_now (s : State) (f : Fld) (b : Bool) : (s.putB f b).now = s.now := rfl
@[simp] theorem State.putB_freeCtr (s : State) (f : Fld) (b : Bool) : (s.putB f b).freeCtr = s.freeCtr := rfl
@[simp] theorem State.putB_mem (s : State) (f : Fld) (b : Bool) : (s.putB f b).mem = s.mem := rfl
@[simp] theorem State.putB_reply (s : State) (f : Fld) (b : Bool) : (s.putB f b).reply = s.reply := rfl
@[simp] theorem State.putB_sent (s : State) (f : Fld) (b : Bool) : (s.putB f b).sent = s.sent := rfl
@[simp] theorem State.putB_txn (s : State) (f : Fld) (b : Bool) : (s.putB f b).txn = s.txn := rfl
@[simp] theorem State.putB_hsw (s : State) (f : Fld) (b : Bool) : (s.putB f b).hsw = s.hsw := rfl
@[simp] theorem State.putB_pdi (s : State) (f : Fld) (b : Bool) : (s.putB f b).pdi = s.pdi := rfl
@[simp] theorem State.putB_vlv (s : State) (f : Fld) (b : Bool) : (s.putB f b).vlv = s.vlv := rfl
@[simp] theorem State.putB_led (s : State) (f : Fld) (b : Bool) : (s.putB f b).led = s.led := rfl
@[simp] theorem State.putB_din (s : State) (f : Fld) (b : Bool) : (s.putB f b).din = s.din := rfl
@[simp] theorem State.putB_dout (s : State) (f : Fld) (b : Bool) : (s.putB f b).dout = s.dout := rfl
@[simp] theorem State.putB_fcu (s : State) (f : Fld) (b : Bool) : (s.putB f b).fcu = s.fcu := rfl
@[simp] theorem State.putB_gt (s : State) (f : Fld) (b : Bool) : (s.putB f b).gt = s.gt := rfl
@[simp] theorem State.putB_ntu (s : State) (f : Fld) (b : Bool) : (s.putB f b).ntu = s.ntu := rfl
@[simp] theorem State.putB_readShadow (s : State) (f : Fld) (b : Bool) : (s.putB f b).readShadow = s.readShadow := rfl
@[simp] theorem State.putB_writeShadow (s : State) (f : Fld) (b : Bool) : (s.putB f b).writeShadow = s.writeShadow := rfl
@[simp] theorem State.putB_gtAvail (s : State) (f : Fld) (b : Bool) : (s.putB f b).gtAvail = s.gtAvail := rfl
@[simp] theorem State.putB_mbx (s : State) (f : Fld) (b : Bool) : (s.putB f b).mbx = s.mbx := rfl
@[simp] theorem State.putB_can (s : State) (f : Fld) (b : Bool) : (s.putB f b).can = s.can := rfl
@[simp] theorem State.putB_lin (s : State) (f : Fld) (b : Bool) : (s.putB f b).lin = s.lin := rfl
@[simp] theorem State.putB_nsl (s : State) (f : Fld) (b : Bool) : (s.putB f b).nsl = s.nsl := rfl
@[simp] theorem State.putB_gwe (s : State) (f : Fld) (b : Bool) : (s.putB f b).gwe = s.gwe := rfl
@[simp] theorem State.putB_acc (s : State) (f : Fld) (b : Bool) : (s.putB f b).acc = s.acc := rfl
@[simp] theorem State.putB_cpu (s : State) (f : Fld) (b : Bool) : (s.putB f b).cpu = s.cpu := rfl
@[simp] theorem State.putB_nv (s : State) (f : Fld) (b : Bool) : (s.putB f b).nv = s.nv := rfl
@[simp] theorem State.putB_pmu (s : State) (f : Fld) (b : Bool) : (s.putB f b).pmu = s.pmu := rfl
@[simp] theorem State.putB_sys (s : State) (f : Fld) (b : Bool) : (s.putB f b).sys = s.sys := rfl
@[simp] theorem State.putB_sec (s : State) (f : Fld) (b : Bool) : (s.putB f b).sec = s.sec := rfl
@[simp] theorem State.putB_bsq (s : State) (f : Fld) (b : Bool) : (s.putB f b).bsq = s.bsq := rfl
@[simp] theorem State.putB_hand (s : State) (f : Fld) (b : Bool) : (s.putB f b).hand = s.hand := rfl
@[simp] theorem State.putB_host (s : State) (f : Fld) (b : Bool) : (s.putB f b).host = s.host := rfl
@[simp] theorem State.putB_flash (s : State) (f : Fld) (b : Bool) : (s.putB f b).flash = s.flash := rfl
@[simp] theorem State.putB_overVolt (s : State) (f : Fld) (b : Bool) : (s.putB f b).overVolt = s.overVolt := rfl

/-! State.raiseBit changes regs. -/
@[simp] theorem State.raiseBit_pending (s : State) (f : Fld) : (s.raiseBit f).pending = s.pending := rfl
@[simp] theorem State.raiseBit_now (s : State) (f : Fld) : (s.raiseBit f).now = s.now := rfl
@[simp] theorem State.raiseBit_freeCtr (s : State) (f : Fld) : (s.raiseBit f).freeCtr = s.freeCtr := rfl
@[simp] theorem State.raiseBit_mem (s : State) (f : Fld) : (s.raiseBit f).mem = s.mem := rfl
@[simp] theorem State.raiseBit_reply (s : State) (f : Fld) : (s.raiseBit f).reply = s.reply := rfl
@[simp] theorem State.raiseBit_sent (s : State) (f : Fld) : (s.raiseBit f).sent = s.sent := rfl
@[simp] theorem State.raiseBit_txn (s : State) (f : Fld) : (s.raiseBit f).txn = s.txn := rfl
@[simp] theorem State.raiseBit_hsw (s : State) (f : Fld) : (s.raiseBit f).hsw = s.hsw := rfl
@[simp] theorem State.raiseBit_pdi (s : State) (f : Fld) : (s.raiseBit f).pdi = s.pdi := rfl
@[simp] theorem State.raiseBit_vlv (s : State) (f : Fld) : (s.raiseBit f).vlv = s.vlv := rfl
@[simp] theorem State.raiseBit_led (s : State) (f : Fld) : (s.raiseBit f).led = s.led := rfl
@[simp] theorem State.raiseBit_din (s : State) (f : Fld) : (s.raiseBit f).din = s.din := rfl
@[simp] theorem State.raiseBit_dout (s : State) (f : Fld) : (s.raiseBit f).dout = s.dout := rfl
@[simp] theorem State.raiseBit_fcu (s : State) (f : Fld) : (s.raiseBit f).fcu = s.fcu := rfl
@[simp] theorem State.raiseBit_gt (s : State) (f : Fld) : (s.raiseBit f).gt = s.gt := rfl
@[simp] theorem State.raiseBit_ntu (s : State) (f : Fld) : (s.raiseBit f).ntu = s.ntu := rfl
@[simp] theorem State.raiseBit_readShadow (s : State) (f : Fld) : (s.raiseBit f).readShadow = s.readShadow := rfl
@[simp] theorem State.raiseBit_writeShadow (s : State) (f : Fld) : (s.raiseBit f).writeShadow = s.writeShadow := rfl
@[simp] theorem State.raiseBit_gtAvail (s : State) (f : Fld) : (s.raiseBit f).gtAvail = s.gtAvail := rfl
@[simp] theorem State.raiseBit_mbx (s : State) (f : Fld) : (s.raiseBit f).mbx = s.mbx := rfl
@[simp] theorem State.raiseBit_can (s : State) (f : Fld) : (s.raiseBit f).can = s.can := rfl
@[simp] theorem State.raiseBit_lin (s : State) (f : Fld) : (s.raiseBit f).lin = s.lin := rfl
@[simp] theorem State.raiseBit_nsl (s : State) (f : Fld) : (s.raiseBit f).nsl = s.nsl := rfl
@[simp] theorem State.raiseBit_gwe (s : State) (f : Fld) : (s.raiseBit f).gwe = s.gwe := rfl
@[simp] theorem State.raiseBit_acc (s : State) (f : Fld) : (s.raiseBit f).acc = s.acc := rfl
@[simp] theorem State.raiseBit_cpu (s : State) (f : Fld) : (s.raiseBit f).cpu = s.cpu := rfl
@[simp] theorem State.raiseBit_nv (s : State) (f : Fld) : (s.raiseBit f).nv = s.nv := rfl
@[simp] theorem State.raiseBit_pmu (s : State) (f : Fld) : (s.raiseBit f).pmu = s.pmu := rfl
@[simp] theorem State.raiseBit_sys (s : State) (f : Fld) : (s.raiseBit f).sys = s.sys := rfl
@[simp] theorem State.raiseBit_sec (s : State) (f : Fld) : (s.raiseBit f).sec = s.sec := rfl
@[simp] theorem State.raiseBit_bsq (s : State) (f : Fld) : (s.raiseBit f).bsq = s.bsq := rfl
@[simp] theorem State.raiseBit_hand (s : State) (f : Fld) : (s.raiseBit f).hand = s.hand := rfl
@[simp] theorem State.raiseBit_host (s : State) (f : Fld) : (s.raiseBit f).host = s.host := rfl
@[simp] theorem State.raiseBit_flash (s : State) (f : Fld) : (s.raiseBit f).flash = s.flash := rfl
@[simp] theorem State.raiseBit_overVolt (s : State) (f : Fld) : (s.raiseBit f).overVolt = s.overVolt := rfl

/-! State.incSat changes regs. -/
@[simp] theorem State.incSat_pending (s : State) (f : Fld) : (s.incSat f).pending = s.pending := rfl
@[simp] theorem State.incSat_now (s : State) (f : Fld) : (s.incSat f).now = s.now := rfl
@[simp] theorem State.incSat_freeCtr (s : State) (f : Fld) : (s.incSat f).freeCtr = s.freeCtr := rfl
@[simp] theorem State.incSat_mem (s : State) (f : Fld) : (s.incSat f).mem = s.mem := rfl
@[simp] theorem State.incSat_reply (s : State) (f : Fld) : (s.incSat f).reply = s.reply := rfl
@[simp] theorem State.incSat_sent (s : State) (f : Fld) : (s.incSat f).sent = s.sent := rfl
@[simp] theorem State.incSat_txn (s : State) (f : Fld) : (s.incSat f).txn = s.txn := rfl
@[simp] theorem State.incSat_hsw (s : State) (f : Fld) : (s.incSat f).hsw = s.hsw := rfl
@[simp] theorem State.incSat_pdi (s : State) (f : Fld) : (s.incSat f).pdi = s.pdi := rfl
@[simp] theorem State.incSat_vlv (s : State) (f : Fld) : (s.incSat f).vlv = s.vlv := rfl
@[simp] theorem State.incSat_led (s : State) (f : Fld) : (s.incSat f).led = s.led := rfl
@[simp] theorem State.incSat_din (s : State) (f : Fld) : (s.incSat f).din = s.din := rfl
@[simp] theorem State.incSat_dout (s : State) (f : Fld) : (s.incSat f).dout = s.dout := rfl
@[simp] theorem State.incSat_fcu (s : State) (f : Fld) : (s.incSat f).fcu = s.fcu := rfl
@[simp] theorem State.incSat_gt (s : State) (f : Fld) : (s.incSat f).gt = s.gt := rfl
@[simp] theorem State.incSat_ntu (s : State) (f : Fld) : (s.incSat f).ntu = s.ntu := rfl
@[simp] theorem State.incSat_readShadow (s : State) (f : Fld) : (s.incSat f).readShadow = s.readShadow := rfl
@[simp] theorem State.incSat_writeShadow (s : State) (f : Fld) : (s.incSat f).writeShadow = s.writeShadow := rfl
@[simp] theorem State.incSat_gtAvail (s : State) (f : Fld) : (s.incSat f).gtAvail = s.gtAvail := rfl
@[simp] theorem State.incSat_mbx (s : State) (f : Fld) : (s.incSat f).mbx = s.mbx := rfl
@[simp] theorem State.incSat_can (s : State) (f : Fld) : (s.incSat f).can = s.can := rfl
@[simp] theorem State.incSat_lin (s : State) (f : Fld) : (s.incSat f).lin = s.lin := rfl
@[simp] theorem State.incSat_nsl (s : State) (f : Fld) : (s.incSat f).nsl = s.nsl := rfl
@[simp] theorem State.incSat_gwe (s : State) (f : Fld) : (s.incSat f).gwe = s.gwe := rfl
@[simp] theorem State.incSat_acc (s : State) (f : Fld) : (s.incSat f).acc = s.acc := rfl
@[simp] theorem State.incSat_cpu (s : State) (f : Fld) : (s.incSat f).cpu = s.cpu := rfl
@[simp] theorem State.incSat_nv (s : State) (f : Fld) : (s.incSat f).nv = s.nv := rfl
@[simp] theorem State.incSat_pmu (s : State) (f : Fld) : (s.incSat f).pmu = s.pmu := rfl
@[simp] theorem State.incSat_sys (s : State) (f : Fld) : (s.incSat f).sys = s.sys := rfl
@[simp] theorem State.incSat_sec (s : State) (f : Fld) : (s.incSat f).sec = s.sec := rfl
@[simp] theorem State.incSat_bsq (s : State) (f : Fld) : (s.incSat f).bsq = s.bsq := rfl
@[simp] theorem State.incSat_hand (s : State) (f : Fld) : (s.incSat f).hand = s.hand := rfl
@[simp] theorem State.incSat_host (s : State) (f : Fld) : (s.incSat f).host = s.host := rfl
@[simp] theorem State.incSat_flash (s : State) (f : Fld) : (s.incSat f).flash = s.flash := rfl
@[simp] theorem State.incSat_overVolt (s : State) (f : Fld) : (s.incSat f).overVolt = s.overVolt := rfl

/-! State.incWrap changes regs. -/
@[simp] theorem State.incWrap_pending (s : State) (f : Fld) : (s.incWrap f).pending = s.pending := rfl
@[simp] theorem State.incWrap_now (s : State) (f : Fld) : (s.incWrap f).now = s.now := rfl
@[simp] theorem State.incWrap_freeCtr (s : State) (f : Fld) : (s.incWrap f).freeCtr = s.freeCtr := rfl
@[simp] theorem State.incWrap_mem (s : State) (f : Fld) : (s.incWrap f).mem = s.mem := rfl
@[simp] theorem State.incWrap_reply (s : State) (f : Fld) : (s.incWrap f).reply = s.reply := rfl
@[simp] theorem State.incWrap_sent (s : State) (f : Fld) : (s.incWrap f).sent = s.sent := rfl
@[simp] theorem State.incWrap_txn (s : State) (f : Fld) : (s.incWrap f).txn = s.txn := rfl
@[simp] theorem State.incWrap_hsw (s : State) (f : Fld) : (s.incWrap f).hsw = s.hsw := rfl
@[simp] theorem State.incWrap_pdi (s : State) (f : Fld) : (s.incWrap f).pdi = s.pdi := rfl
@[simp] theorem State.incWrap_vlv (s : State) (f : Fld) : (s.incWrap f).vlv = s.vlv := rfl
@[simp] theorem State.incWrap_led (s : State) (f : Fld) : (s.incWrap f).led = s.led := rfl
@[simp] theorem State.incWrap_din (s : State) (f : Fld) : (s.incWrap f).din = s.din := rfl
@[simp] theorem State.incWrap_dout (s : State) (f : Fld) : (s.incWrap f).dout = s.dout := rfl
@[simp] theorem State.incWrap_fcu (s : State) (f : Fld) : (s.incWrap f).fcu = s.fcu := rfl
@[simp] theorem State.incWrap_gt (s : State) (f : Fld) : (s.incWrap f).gt = s.gt := rfl
@[simp] theorem State.incWrap_ntu (s : State) (f : Fld) : (s.incWrap f).ntu = s.ntu := rfl
@[simp] theorem State.incWrap_readShadow (s : State) (f : Fld) : (s.incWrap f).readShadow = s.readShadow := rfl
@[simp] theorem State.incWrap_writeShadow (s : State) (f : Fld) : (s.incWrap f).writeShadow = s.writeShadow := rfl
@[simp] theorem State.incWrap_gtAvail (s : State) (f : Fld) : (s.incWrap f).gtAvail = s.gtAvail := rfl
@[simp] theorem State.incWrap_mbx (s : State) (f : Fld) : (s.incWrap f).mbx = s.mbx := rfl
@[simp] theorem State.incWrap_can (s : State) (f : Fld) : (s.incWrap f).can = s.can := rfl
@[simp] theorem State.incWrap_lin (s : State) (f : Fld) : (s.incWrap f).lin = s.lin := rfl
@[simp] theorem State.incWrap_nsl (s : State) (f : Fld) : (s.incWrap f).nsl = s.nsl := rfl
@[simp] theorem State.incWrap_gwe (s : State) (f : Fld) : (s.incWrap f).gwe = s.gwe := rfl
@[simp] theorem State.incWrap_acc (s : State) (f : Fld) : (s.incWrap f).acc = s.acc := rfl
@[simp] theorem State.incWrap_cpu (s : State) (f : Fld) : (s.incWrap f).cpu = s.cpu := rfl
@[simp] theorem State.incWrap_nv (s : State) (f : Fld) : (s.incWrap f).nv = s.nv := rfl
@[simp] theorem State.incWrap_pmu (s : State) (f : Fld) : (s.incWrap f).pmu = s.pmu := rfl
@[simp] theorem State.incWrap_sys (s : State) (f : Fld) : (s.incWrap f).sys = s.sys := rfl
@[simp] theorem State.incWrap_sec (s : State) (f : Fld) : (s.incWrap f).sec = s.sec := rfl
@[simp] theorem State.incWrap_bsq (s : State) (f : Fld) : (s.incWrap f).bsq = s.bsq := rfl
@[simp] theorem State.incWrap_hand (s : State) (f : Fld) : (s.incWrap f).hand = s.hand := rfl
@[simp] theorem State.incWrap_host (s : State) (f : Fld) : (s.incWrap f).host = s.host := rfl
@[simp] theorem State.incWrap_flash (s : State) (f : Fld) : (s.incWrap f).flash = s.flash := rfl
@[simp] theorem State.incWrap_overVolt (s : State) (f : Fld) : (s.incWrap f).overVolt = s.overVolt := rfl

/-! A record that was set reads back, and another one reads as before. -/
@[simp] theorem hnd_setHnd (s : State) (k : Nat) (x : Handle) : (s.setHnd k x).hnd k = x := tget_tset_self ..
theorem hnd_setHnd_ne (s : State) {k j : Nat} (x : Handle) (h : j ≠ k) : (s.setHnd k x).hnd j = s.hnd j := tget_tset_ne _ _ _ _ h
@[simp] theorem hsc_setHsc (s : State) (k : Nat) (x : HswChan) : (s.setHsc k x).hsc k = x := tget_tset_self ..
theorem hsc_setHsc_ne (s : State) {k j : Nat} (x : HswChan) (h : j ≠ k) : (s.setHsc k x).hsc j = s.hsc j := tget_tset_ne _ _ _ _ h
@[simp] theorem adc_setAdc (s : State) (k : Nat) (x : SenseAdc) : (s.setAdc k x).adc k = x := tget_tset_self ..
theorem adc_setAdc_ne (s : State) {k j : Nat} (x : SenseAdc) (h : j ≠ k) : (s.setAdc k x).adc j = s.adc j := tget_tset_ne _ _ _ _ h
@[simp] theorem val_setVal (s : State) (k : Nat) (x : Valve) : (s.setVal k x).val k = x := tget_tset_self ..
theorem val_setVal_ne (s : State) {k j : Nat} (x : Valve) (h : j ≠ k) : (s.setVal k x).val j = s.val j := tget_tset_ne _ _ _ _ h
@[simp] theorem bq_setBq (s : State) (k : Nat) (x : List BoostReq) : (s.setBq k x).bq k = x := tget_tset_self ..
theorem bq_setBq_ne (s : State) {k j : Nat} (x : List BoostReq) (h : j ≠ k) : (s.setBq k x).bq j = s.bq j := tget_tset_ne _ _ _ _ h
@[simp] theorem fade_setFade (s : State) (k : Nat) (x : Option Fade) : (s.setFade k x).fade k = x := tget_tset_self ..
theorem fade_setFade_ne (s : State) {k j : Nat} (x : Option Fade) (h : j ≠ k) : (s.setFade k x).fade j = s.fade j := tget_tset_ne _ _ _ _ h
@[simp] theorem chain_setChain (s : State) (k : Nat) (x : Chain) : (s.setChain k x).chain k = x := tget_tset_self ..
theorem chain_setChain_ne (s : State) {k j : Nat} (x : Chain) (h : j ≠ k) : (s.setChain k x).chain j = s.chain j := tget_tset_ne _ _ _ _ h
@[simp] theorem dinc_setDinc (s : State) (k : Nat) (x : DinChan) : (s.setDinc k x).dinc k = x := tget_tset_self ..
theorem dinc_setDinc_ne (s : State) {k j : Nat} (x : DinChan) (h : j ≠ k) : (s.setDinc k x).dinc j = s.dinc j := tget_tset_ne _ _ _ _ h
@[simp] theorem dou_setDou (s : State) (k : Nat) (x : DoutChan) : (s.setDou k x).dou k = x := tget_tset_self ..
theorem dou_setDou_ne (s : State) {k j : Nat} (x : DoutChan) (h : j ≠ k) : (s.setDou k x).dou j = s.dou j := tget_tset_ne _ _ _ _ h
@[simp] theorem ctr_setCtr (s : State) (k : Nat) (x : Counter) : (s.setCtr k x).ctr k = x := tget_tset_self ..
theorem ctr_setCtr_ne (s : State) {k j : Nat} (x : Counter) (h : j ≠ k) : (s.setCtr k x).ctr j = s.ctr j := tget_tset_ne _ _ _ _ h
@[simp] theorem cn_setCn (s : State) (k : Nat) (x : CanChan) : (s.setCn k x).cn k = x := tget_tset_self ..
theorem cn_setCn_ne (s : State) {k j : Nat} (x : CanChan) (h : j ≠ k) : (s.setCn k x).cn j = s.cn j := tget_tset_ne _ _ _ _ h
@[simp] theorem ln_setLn (s : State) (k : Nat) (x : LinChan) : (s.setLn k x).ln k = x := tget_tset_self ..
theorem ln_setLn_ne (s : State) {k j : Nat} (x : LinChan) (h : j ≠ k) : (s.setLn k x).ln j = s.ln j := tget_tset_ne _ _ _ _ h
@[simp] theorem core_setCore (s : State) (k : Nat) (x : Core) : (s.setCore k x).core k = x := tget_tset_self ..
theorem core_setCore_ne (s : State) {k j : Nat} (x : Core) (h : j ≠ k) : (s.setCore k x).core j = s.core j := tget_tset_ne _ _ _ _ h

end Sys2Proof.Machine
end

