-- ==== Sys2Proof/Laws/Basic.lean ====
section
/-!
SUPPORT. Small facts about the shared operations that statements about single commands rest on.
-/

namespace Sys2Proof.Machine

/-- An access to a block that is reached has its effect. -/
theorem access_open {s : State} {m : Master} {a : Nat} {st : Option (BitVec 64)} {f : State → State}
    (h : s.opens m a = true) : s.access m a st f = f s := by
  simp only [State.opens, Bool.and_eq_true, decide_eq_true_eq] at h
  have hp : ¬2 ≤ s.pstate := by omega
  have hm := h.1.2
  have hn : (inNet a && !s.netReadyDom) = false := by
    have := h.2; revert this; cases inNet a <;> cases s.netReadyDom <;> simp
  simp [State.access, hp, hm, hn]

/-- The monitor runs the operation whose message it takes, unless the state of the device has come to refuse its family, and
then answers the refused messages behind it. -/
theorem monitor_taken {s t : State} {src : CmdSrc} {a b p : Nat} {f : CmdFrom} {l : List Byte}
    (run : State → CmdFrom → Nat → List Byte → State) (h : s.taken src a b = some (t, f, p, l))
    (hb : t.familyBar a b = false) : s.monitor src a b run = (run t f p l).answerTurned := by
  simp [State.monitor, h, hb]

/-- A family that the state of the device has come to refuse is answered with REASON 3. -/
theorem monitor_barred {s t : State} {src : CmdSrc} {a b p : Nat} {f : CmdFrom} {l : List Byte}
    (run : State → CmdFrom → Nat → List Byte → State) (h : s.taken src a b = some (t, f, p, l))
    (hb : t.familyBar a b = true) : s.monitor src a b run = (t.respond f l istatPolicy 3 []).answerTurned := by
  simp [State.monitor, h, hb]


/-- A slot written with GO has its GO bit set. -/
theorem go_bit (a : Nat) (v : BitVec 64) : ((⟨a, 63, 1⟩ : Fld).of (v ||| 0x8000000000000000#64) == 0) = false := by
  have h : ((⟨a, 63, 1⟩ : Fld).of (v ||| 0x8000000000000000#64)).testBit 0 = true := by
    rw [Fld.of_eq]; simp
  rw [beq_eq_false_iff_ne]
  intro e
  rw [e] at h
  simp at h

/-- A trigger written without ARM has its ARM bit clear. -/
theorem disarm_bit (a : Nat) (v : BitVec 64) : ((⟨a, 63, 1⟩ : Fld).of (v &&& ~~~ 0x8000000000000000#64) == 0) = true := by
  rw [beq_iff_eq]
  apply Nat.eq_of_testBit_eq
  intro i
  rw [Fld.of_eq]
  by_cases h : i = 0
  · subst h; simp
  · have : ¬ i < 1 := by omega
    simp [this]

end Sys2Proof.Machine
end

