-- ==== Sys2Proof/Laws/Keeps.lean ====
section
/-!
SUPPORT. What every command keeps (State.Keeps): the rules by which the lemmas of the operations compose, and the
operations that touch registers, memory, flash, the record of what was sent, and free values.
-/

namespace Sys2Proof.Machine

theorem State.Keeps.refl (s : State) : s.Keeps s :=
  ⟨rfl, rfl, List.prefix_rfl, Nat.le_refl _, id, id⟩

theorem State.Keeps.trans {s t u : State} (h : s.Keeps t) (k : t.Keeps u) : s.Keeps u :=
  ⟨k.pending.trans h.pending, k.now.trans h.now, h.sent.trans k.sent, Nat.le_trans h.freeCtr k.freeCtr,
    fun c => k.canon (h.canon c), fun c => k.legal (h.legal c)⟩

/-- A change of fields other than the queue, model time, registers, memory, flash, the cores, what was sent and the free
values. -/
theorem State.Keeps.mk' {s r : State} {reply txn hsw pdi vlv led din dout fcu gt ntu readShadow writeShadow gtAvail mbx can lin
    nsl gwe acc nv pmu sys sec bsq hand host overVolt} (h : s.Keeps r) :
    s.Keeps ⟨r.pending, r.now, r.freeCtr, r.regs, r.mem, reply, r.sent, txn, hsw, pdi, vlv, led, din, dout, fcu, gt, ntu,
      readShadow, writeShadow, gtAvail, mbx, can, lin, nsl, gwe, acc, r.cpu, nv, pmu, sys, sec, bsq, hand, host, r.flash,
      overVolt⟩ :=
  ⟨h.pending, h.now, h.sent, h.freeCtr, fun c => ⟨(h.canon c).regs, (h.canon c).mem, (h.canon c).flash⟩, h.legal⟩

/-- A core that reset leaves has a legal PSR. -/
theorem core_legal_reset : ({} : Core).Legal := ⟨by decide, by decide⟩

/-- The same where what the cores share changes, or every core is in reset. -/
theorem State.Keeps.mkCpu {s r : State} {reply txn hsw pdi vlv led din dout fcu gt ntu readShadow writeShadow gtAvail mbx can lin
    nsl gwe acc cpu nv pmu sys sec bsq hand host overVolt} (h : s.Keeps r)
    (hc : cpu.core = r.cpu.core ∨ cpu.core = []) :
    s.Keeps ⟨r.pending, r.now, r.freeCtr, r.regs, r.mem, reply, r.sent, txn, hsw, pdi, vlv, led, din, dout, fcu, gt, ntu,
      readShadow, writeShadow, gtAvail, mbx, can, lin, nsl, gwe, acc, cpu, nv, pmu, sys, sec, bsq, hand, host, r.flash,
      overVolt⟩ :=
  ⟨h.pending, h.now, h.sent, h.freeCtr, fun c => ⟨(h.canon c).regs, (h.canon c).mem, (h.canon c).flash⟩,
    fun l e => by
      rcases hc with hc | hc
      · have := h.legal l e; simpa [State.core, hc] using this
      · simp only [State.core, hc]; exact core_legal_reset⟩

/-- The same where memory loses entries. -/
theorem State.Keeps.mkMem {s r : State} {q : Host.Cell → Bool} {reply txn hsw pdi vlv led din dout fcu gt ntu readShadow writeShadow gtAvail mbx can lin
    nsl gwe acc nv pmu sys sec bsq hand host overVolt} (h : s.Keeps r) :
    s.Keeps ⟨r.pending, r.now, r.freeCtr, r.regs, r.mem.filter q, reply, r.sent, txn, hsw, pdi, vlv, led, din, dout, fcu, gt, ntu,
      readShadow, writeShadow, gtAvail, mbx, can, lin, nsl, gwe, acc, r.cpu, nv, pmu, sys, sec, bsq, hand, host, r.flash,
      overVolt⟩ :=
  ⟨h.pending, h.now, h.sent, h.freeCtr,
    fun c => ⟨(h.canon c).regs, twf_filter (d := memRest) _ (h.canon c).mem, (h.canon c).flash⟩, h.legal⟩

/-- The same where flash loses entries. -/
theorem State.Keeps.mkFlash {s r : State} {q : Host.Cell → Bool} {reply txn hsw pdi vlv led din dout fcu gt ntu readShadow writeShadow gtAvail mbx can lin
    nsl gwe acc nv pmu sys sec bsq hand host overVolt} (h : s.Keeps r) :
    s.Keeps ⟨r.pending, r.now, r.freeCtr, r.regs, r.mem, reply, r.sent, txn, hsw, pdi, vlv, led, din, dout, fcu, gt, ntu,
      readShadow, writeShadow, gtAvail, mbx, can, lin, nsl, gwe, acc, r.cpu, nv, pmu, sys, sec, bsq, hand, host, r.flash.filter q,
      overVolt⟩ :=
  ⟨h.pending, h.now, h.sent, h.freeCtr,
    fun c => ⟨(h.canon c).regs, (h.canon c).mem, twf_filter (d := fun _ => 0xFF) _ (h.canon c).flash⟩, h.legal⟩

/-- The same where registers and memory lose entries and every core is in reset. -/
theorem State.Keeps.mkReset {s r : State} {p : Nat × BitVec 64 → Bool} {q : Host.Cell → Bool} {reply txn hsw pdi vlv led din dout fcu gt ntu readShadow writeShadow gtAvail mbx can lin
    nsl gwe acc cpu nv pmu sys sec bsq hand host overVolt} (h : s.Keeps r)
    (hc : cpu.core = []) :
    s.Keeps ⟨r.pending, r.now, r.freeCtr, r.regs.filter p, r.mem.filter q, reply, r.sent, txn, hsw, pdi, vlv, led, din, dout, fcu, gt, ntu,
      readShadow, writeShadow, gtAvail, mbx, can, lin, nsl, gwe, acc, cpu, nv, pmu, sys, sec, bsq, hand, host, r.flash,
      overVolt⟩ :=
  ⟨h.pending, h.now, h.sent, h.freeCtr,
    fun c => ⟨twf_filter _ (h.canon c).regs, twf_filter (d := memRest) _ (h.canon c).mem, (h.canon c).flash⟩,
    fun _ e => by simp only [State.core, hc]; exact core_legal_reset⟩

/-- The same of an outcome, which a command that stops meets. -/
def KeepsOut (s : State) : Out → Prop
  | .next t => s.Keeps t
  | _ => True

theorem KeepsOut.next {s t : State} (h : s.Keeps t) : KeepsOut s (.next t) := h

theorem KeepsOut.elim {s t : State} {o : Out} (h : KeepsOut s o) (e : o = .next t) : s.Keeps t := by subst e; exact h

/-- The same of a state answered beside a value. -/
def KeepsFst {α : Type} (s : State) (p : State × α) : Prop := s.Keeps p.1

theorem KeepsFst.mk {α : Type} {s t : State} {x : α} (h : s.Keeps t) : KeepsFst s (t, x) := h

theorem KeepsFst.fst {α : Type} {s : State} {p : State × α} (h : KeepsFst s p) : s.Keeps p.1 := h

theorem KeepsFst.pair {α : Type} {s t : State} {x : α} (h : KeepsFst s (t, x)) : s.Keeps t := h

theorem KeepsFst.elim {α : Type} {s t : State} {p : State × α} {x : α} (h : KeepsFst s p) (e : p = (t, x)) : s.Keeps t := by
  subst e; exact h

theorem ite_keepsFst {α : Type} {s : State} {a b : State × α} {c : Prop} [Decidable c] (ha : KeepsFst s a)
    (hb : KeepsFst s b) : KeepsFst s (if c then a else b) := by split <;> assumption

theorem after_keeps {s r : State} {o : Out} (h : s.Keeps r) (k : KeepsOut s o) : s.Keeps (after o r) := by
  unfold after; split
  · exact k
  · exact h

theorem ite_keeps {s a b : State} {c : Prop} [Decidable c] (ha : s.Keeps a) (hb : s.Keeps b) :
    s.Keeps (if c then a else b) := by split <;> assumption

theorem ite_keepsOut {s : State} {a b : Out} {c : Prop} [Decidable c] (ha : KeepsOut s a) (hb : KeepsOut s b) :
    KeepsOut s (if c then a else b) := by split <;> assumption

theorem foldl_keeps {α : Type} {s r : State} {l : List α} {f : State → α → State} (h : s.Keeps r)
    (hf : ∀ t x, s.Keeps t → s.Keeps (f t x)) : s.Keeps (l.foldl f r) := by
  induction l generalizing r with
  | nil => exact h
  | cons x l ih => exact ih (hf _ _ h)

theorem foldl_keepsFst {α β : Type} {s : State} {l : List α} {p : State × β} {f : State × β → α → State × β}
    (h : KeepsFst s p) (hf : ∀ p x, KeepsFst s p → KeepsFst s (f p x)) : KeepsFst s (l.foldl f p) := by
  induction l generalizing p with
  | nil => exact h
  | cons x l ih => exact ih (hf _ _ h)

theorem State.each_keeps {α : Type} {s r : State} {l : List α} {f : α → State → State} (h : s.Keeps r)
    (hf : ∀ x t, s.Keeps t → s.Keeps (f x t)) : s.Keeps (r.each l f) := foldl_keeps h fun t x => hf x t

theorem State.when_keeps {s r : State} {b : Bool} {f : State → State} (h : s.Keeps r)
    (hf : ∀ t, s.Keeps t → s.Keeps (f t)) : s.Keeps (r.when b f) := by
  unfold State.when; split
  · exact hf _ h
  · exact h

theorem State.setReg_keeps {s r : State} {a : Nat} {v : BitVec 64} (h : s.Keeps r) : s.Keeps (r.setReg a v) :=
  h.trans ⟨rfl, rfl, List.prefix_rfl, Nat.le_refl _, fun c => ⟨twf_tset a v c.regs, c.mem, c.flash⟩, id⟩

theorem State.dropRegs_keeps {s r : State} {k : Nat → Bool} (h : s.Keeps r) : s.Keeps (r.dropRegs k) :=
  h.trans ⟨rfl, rfl, List.prefix_rfl, Nat.le_refl _, fun c => ⟨twf_filter _ c.regs, c.mem, c.flash⟩, id⟩

theorem State.setByte_keeps {s r : State} {a : Nat} {v : Byte} (h : s.Keeps r) : s.Keeps (r.setByte a v) :=
  h.trans ⟨rfl, rfl, List.prefix_rfl, Nat.le_refl _, fun c => ⟨c.regs, twf_tset (d := memRest) a v c.mem, c.flash⟩, id⟩

theorem State.zeroRange_keeps {s r : State} {a n : Nat} (h : s.Keeps r) : s.Keeps (r.zeroRange a n) :=
  h.trans ⟨rfl, rfl, List.prefix_rfl, Nat.le_refl _, fun c => ⟨c.regs, twf_filter (d := memRest) _ c.mem, c.flash⟩, id⟩

theorem State.setBytes_keeps {s r : State} {a : Nat} {l : List Byte} (h : s.Keeps r) : s.Keeps (r.setBytes a l) := by
  induction l generalizing r a with
  | nil => exact h
  | cons b l ih => exact ih (setByte_keeps h)

theorem State.setFlash_keeps {s r : State} {a : Nat} {l : List Byte} (h : s.Keeps r) : s.Keeps (r.setFlash a l) := by
  induction l generalizing r a with
  | nil => exact h
  | cons b l ih =>
    exact ih (h.trans ⟨rfl, rfl, List.prefix_rfl, Nat.le_refl _,
      fun c => ⟨c.regs, c.mem, twf_tset (d := fun _ => 0xFF) a b c.flash⟩, id⟩)

theorem State.send_keeps {s r : State} {x : Sent} (h : s.Keeps r) : s.Keeps (r.send x) :=
  h.trans ⟨rfl, rfl, List.prefix_append _ _, Nat.le_refl _, fun c => ⟨c.regs, c.mem, c.flash⟩, id⟩

theorem State.sendAll_keeps {s r : State} {l : List Sent} (h : s.Keeps r) : s.Keeps (r.sendAll l) :=
  h.trans ⟨rfl, rfl, List.prefix_append _ _, Nat.le_refl _, fun c => ⟨c.regs, c.mem, c.flash⟩, id⟩

theorem State.drawn_keeps {s r : State} {n : Nat} (h : s.Keeps r) : s.Keeps (r.drawn n) :=
  h.trans ⟨rfl, rfl, List.prefix_rfl, Nat.le_add_right _ _, fun c => ⟨c.regs, c.mem, c.flash⟩, id⟩

theorem State.draw_keeps {s r : State} (h : s.Keeps r) : s.Keeps r.draw.2 :=
  h.trans ⟨rfl, rfl, List.prefix_rfl, Nat.le_succ _, fun c => ⟨c.regs, c.mem, c.flash⟩, id⟩

theorem State.draw_keeps' {s r t : State} {v : BitVec 64} (e : r.draw = (v, t)) (h : s.Keeps r) : s.Keeps t := by
  cases e; exact draw_keeps h

end Sys2Proof.Machine
end

