-- ==== Sys2Proof/Laws/Legal.lean ====
section
/-!
SUPPORT. What the operations on a core's registers do to a legal PSR (Core.Legal): they keep it.
-/

namespace Sys2Proof.Machine

/-- A core legal if the state `s` is. -/
structure Snd (s : State) (c : Core) : Prop where
  sound : s.Legal → c.Legal

theorem State.Keeps.snd {s r : State} {e : Nat} (h : s.Keeps r) : Snd s (r.core e) := ⟨fun l => h.legal l e⟩

theorem ite_snd {s : State} {a b : Core} {c : Prop} [Decidable c] (ha : Snd s a) (hb : Snd s b) :
    Snd s (if c then a else b) := by split <;> assumption

/-- A core that differs in other registers only. -/
theorem Core.Legal.of_psr {c c' : Core} (h : c.Legal) (e : c'.psr = c.psr) : c'.Legal := by
  obtain ⟨h1, h2⟩ := h
  refine ⟨?_, by rw [e]; exact h2⟩
  unfold Core.level at *; rw [e]; exact h1

theorem Snd.mk' {s : State} {c : Core} {released halted stopped wait pc d a sp ac excS excM ptbr asid icCur icStack icEn icPri
    windows tlb} (h : Snd s c) :
    Snd s ⟨released, halted, stopped, wait, pc, d, a, sp, ac, c.psr, excS, excM, ptbr, asid, icCur, icStack, icEn, icPri,
      windows, tlb⟩ := ⟨fun l => (h.sound l).of_psr rfl⟩

/-- A core in reset. -/
theorem Snd.reset {s : State} : Snd s {} := ⟨fun _ => core_legal_reset⟩

/-- A core out of reset. -/
theorem Snd.out {s : State} {halted stopped wait pc d a sp ac excS excM ptbr asid icCur icStack icEn icPri
    windows tlb} : Snd s ⟨true, halted, stopped, wait, pc, d, a, sp, ac, psrReset, excS, excM, ptbr, asid, icCur, icStack, icEn,
      icPri, windows, tlb⟩ := ⟨fun _ => core_legal_reset.of_psr rfl⟩

theorem bvField_level (v : BitVec 64) : bvField v 14 2 = (v.extractLsb' 14 2).toNat := by
  simp [bvField, BitVec.extractLsb'_toNat, Nat.shiftRight_eq_div_pow]

/-- A legal PSR stays legal where its level and its reserved bits stay. -/
theorem Core.Legal.of_masked {c c' : Core} (h : c.Legal) (e : c'.psr &&& 0xFFFF0000FFFFC3C0 = c.psr &&& 0xFFFF0000FFFFC3C0) :
    c'.Legal := by
  have hl : c'.level = c.level := by
    unfold Core.level
    rw [bvField_level, bvField_level]
    congr 1
    have e1 : ∀ v : BitVec 64, v.extractLsb' 14 2 = (v &&& 0xFFFF0000FFFFC3C0).extractLsb' 14 2 := by
      intro v
      ext i hi
      have : i = 0 ∨ i = 1 := by omega
      rcases this with rfl | rfl <;> simp
    rw [e1 c'.psr, e1 c.psr, e]
  refine ⟨by rw [hl]; exact h.level, ?_⟩
  have e2 : ∀ v : BitVec 64, v &&& 0xFFFF0000FFFF03C0 = (v &&& 0xFFFF0000FFFFC3C0) &&& 0xFFFF0000FFFF03C0 := by
    intro v; rw [BitVec.and_assoc]; congr 1
  rw [e2, e, ← e2]; exact h.reserved

/-- A field outside a mask does not show through it. -/
theorem bvInto_mask {v m : BitVec 64} {lo w x : Nat} (h : BitVec.ofNat 64 ((2 ^ w - 1) * 2 ^ lo) &&& m = 0) :
    bvInto v lo w x &&& m = v &&& m := by
  apply BitVec.eq_of_getLsbD_eq
  intro i hi
  have hb := congrArg (fun z => z.getLsbD i) h
  unfold bvInto
  simp only [BitVec.getLsbD_and, BitVec.getLsbD_or, BitVec.getLsbD_not, BitVec.getLsbD_ofNat, hi, decide_true, Bool.true_and,
    Nat.testBit_mul_two_pow, Nat.testBit_two_pow_sub_one, Nat.testBit_mod_two_pow] at hb ⊢
  cases hm : m.getLsbD i
  · simp
  · rw [hm] at hb
    simp at hb
    by_cases hlo : lo ≤ i
    · have := hb hlo
      simp [hlo, show ¬ i - lo < w by omega]
    · simp [hlo]

theorem Snd.setPsr {s : State} {c : Core} {lo w x : Nat} (h : Snd s c)
    (hm : BitVec.ofNat 64 ((2 ^ w - 1) * 2 ^ lo) &&& (0xFFFF0000FFFFC3C0 : BitVec 64) = 0) : Snd s (c.setPsr lo w x) :=
  ⟨fun l => (h.sound l).of_masked (bvInto_mask hm)⟩

theorem Core.setNc_snd {s : State} {c : Core} {x : BitVec 16} (h : Snd s c) : Snd s (c.setNc x) := h.setPsr (by decide)
theorem Core.setDi_snd {s : State} {c : Core} (h : Snd s c) : Snd s c.setDi := h.setPsr (by decide)
theorem Core.setQ_snd {s : State} {c : Core} {b : Bool} (h : Snd s c) : Snd s (c.setQ b) := ite_snd (h.setPsr (by decide)) h
theorem Core.setN_snd {s : State} {c : Core} {b : Bool} (h : Snd s c) : Snd s (c.setN b) := h.setPsr (by decide)
theorem Core.setZ_snd {s : State} {c : Core} {b : Bool} (h : Snd s c) : Snd s (c.setZ b) := h.setPsr (by decide)
theorem Core.setC_snd {s : State} {c : Core} {b : Bool} (h : Snd s c) : Snd s (c.setC b) := h.setPsr (by decide)
theorem Core.setV_snd {s : State} {c : Core} {b : Bool} (h : Snd s c) : Snd s (c.setV b) := h.setPsr (by decide)
theorem Core.setNzcv_snd {s : State} {c : Core} {n z x v : Bool} (h : Snd s c) : Snd s (c.setNzcv n z x v) :=
  setV_snd (setC_snd (setZ_snd (setN_snd h)))

theorem Core.setRawD_snd {s : State} {c : Core} {i : Fin 32} {v : BitVec 64} (h : Snd s c) : Snd s (c.setRawD i v) := h.mk'
theorem Core.setRawAc_snd {s : State} {c : Core} {i : Fin 4} {v : BitVec 128} (h : Snd s c) : Snd s (c.setRawAc i v) := h.mk'
theorem Core.setRawA_snd {s : State} {c : Core} {i : Fin 16} {v : BitVec 64} (h : Snd s c) : Snd s (c.setRawA i v) :=
  ite_snd h.mk' h.mk'
theorem Core.writeD_snd {s : State} {c : Core} {i : Fin 32} {v : BitVec 64} (h : Snd s c) : Snd s (c.writeD i v) :=
  ite_snd h.mk' (setRawD_snd h)
theorem Core.writeA_snd {s : State} {c : Core} {i : Fin 16} {v : BitVec 64} (h : Snd s c) : Snd s (c.writeA i v) :=
  ite_snd h.mk' (setRawA_snd h)
theorem Core.writeAc_snd {s : State} {c : Core} {i : Fin 4} {v : BitVec 128} (h : Snd s c) : Snd s (c.writeAc i v) :=
  ite_snd h.mk' (setRawAc_snd h)
theorem Core.goto_snd {s : State} {c : Core} {a : BitVec 64} (h : Snd s c) : Snd s (c.goto a) := h.mk'
theorem Core.advance_snd {s : State} {c : Core} {n : Nat} (h : Snd s c) : Snd s (c.advance n) := h.mk'
theorem Core.landLoad_snd {s : State} {c : Core} {x : LoadDest} {v : BitVec 128} (h : Snd s c) : Snd s (c.landLoad x v) := by
  cases x with
  | d i => exact (setRawD_snd h).mk'
  | a i => exact (setRawA_snd h).mk'
  | ac i => exact (setRawAc_snd h).mk'
theorem Core.setExc_snd {s : State} {c : Core} {l : Nat} {x : ExcRegs} (h : Snd s c) : Snd s (c.setExc l x) :=
  ite_snd h.mk' h.mk'
theorem Core.cache_snd {s : State} {c : Core} {n : Nat} {p : BitVec 64} (h : Snd s c) : Snd s (c.cache n p) := h.mk'
theorem Core.addFlags_snd {s : State} {c : Core} {x y : BitVec 64} {n : Nat} (h : Snd s c) : Snd s (c.addFlags x y n).1 :=
  setNc_snd (setNzcv_snd h)
theorem Core.subFlags_snd {s : State} {c : Core} {x y : BitVec 64} {n : Nat} (h : Snd s c) : Snd s (c.subFlags x y n).1 :=
  setNzcv_snd h
theorem putD_snd {s : State} {d : Fin 32} {p : Core × BitVec 64} (h : Snd s p.1) : Snd s (putD d p) := Core.writeD_snd h
theorem Core.bin_snd {s : State} {c : Core} {d n m : Fin 32} {f : BitVec 64 → BitVec 64 → BitVec 64} (h : Snd s c) :
    Snd s (c.bin d n m f) := writeD_snd h
theorem Core.un_snd {s : State} {c : Core} {d n : Fin 32} {f : BitVec 64 → BitVec 64} (h : Snd s c) : Snd s (c.un d n f) :=
  writeD_snd h
theorem Core.divide_snd {s : State} {c : Core} {d n m : Fin 32} {z : BitVec 64 → BitVec 64}
    {f : BitVec 64 → BitVec 64 → BitVec 64} (h : Snd s c) : Snd s (c.divide d n m z f) :=
  ite_snd (writeD_snd (setV_snd h)) (bin_snd h)
theorem Core.macResult_snd {s : State} {c : Core} {d : Fin 4} {x : Int} (h : Snd s c) : Snd s (c.macResult d x) :=
  ite_snd (writeAc_snd h) (ite_snd (writeAc_snd (setQ_snd h)) (ite_snd (writeAc_snd (setQ_snd h)) (writeAc_snd h)))
theorem Core.decFlags_snd {s : State} {c : Core} {r : DecRes} (h : Snd s c) : Snd s (c.decFlags r) := setNzcv_snd h
theorem Core.badDigit_snd {s : State} {c : Core} (h : Snd s c) : Snd s c.badDigit := setDi_snd (setNzcv_snd h)
theorem putDecD_snd {s : State} {c : Core} {i : Fin 32} {v : Nat} (h : Snd s c) : Snd s (putDecD i c v) := Core.writeD_snd h
theorem putDecAc_snd {s : State} {c : Core} {i : Fin 4} {v : Nat} (h : Snd s c) : Snd s (putDecAc i c v) := Core.writeAc_snd h
theorem Core.link_snd {s : State} {c : Core} (h : Snd s c) : Snd s c.link := writeA_snd h
theorem Core.writeSp_snd {s : State} {c : Core} {l : Nat} {v : BitVec 64} (h : Snd s c) : Snd s (c.writeSp l v) :=
  ite_snd (writeA_snd h) h.mk'
theorem Core.tlbInv_snd {s : State} {c : Core} {k : TlbScope} (h : Snd s c) : Snd s (c.tlbInv k) := by
  cases k <;> exact h.mk'

/-- Entry to a level that exists leaves a legal PSR (R298). -/
theorem Core.Legal.enter_legal {c : Core} {l v d : Nat} {a : BitVec 64} (h : c.Legal) (hl : l ≤ 2) : (c.enter l v d a).Legal := by
  have hp : (c.enter l v d a).psr = bvInto c.psr 12 4 (l * 4 + 2) := rfl
  refine ⟨?_, ?_⟩
  · unfold Core.level
    rw [hp, bvField_level]
    have : l = 0 ∨ l = 1 ∨ l = 2 := by omega
    have e : ∀ x : BitVec 64, (((x &&& ~~~ BitVec.ofNat 64 ((2 ^ 4 - 1) * 2 ^ 12)) ||| (BitVec.ofNat 64 0x2000)).extractLsb' 14 2 = 0) ∧
        (((x &&& ~~~ BitVec.ofNat 64 ((2 ^ 4 - 1) * 2 ^ 12)) ||| (BitVec.ofNat 64 0x6000)).extractLsb' 14 2 = 1) ∧
        (((x &&& ~~~ BitVec.ofNat 64 ((2 ^ 4 - 1) * 2 ^ 12)) ||| (BitVec.ofNat 64 0xA000)).extractLsb' 14 2 = 2) := by
      intro x
      refine ⟨?_, ?_, ?_⟩ <;>
      · ext i hi
        have : i = 0 ∨ i = 1 := by omega
        rcases this with rfl | rfl <;> simp
    rcases this with rfl | rfl | rfl
    · have := (e c.psr).1; simp only [bvInto]; erw [this]; decide
    · have := (e c.psr).2.1; simp only [bvInto]; erw [this]; decide
    · have := (e c.psr).2.2; simp only [bvInto]; erw [this]; decide
  · rw [hp, bvInto_mask (by decide)]; exact h.reserved

/-- A word with reserved bits 0, its level 3 replaced by one that exists, is a legal PSR. -/
theorem legal_noThree {c : Core} {w : BitVec 64} {x : Nat} (hw : w &&& 0xFFFF0000FFFF03C0 = 0) (hx : x ≤ 2)
    (e : c.psr = if bvField w 14 2 == 3 then bvInto w 14 2 x else w) : c.Legal := by
  refine ⟨?_, ?_⟩
  · unfold Core.level
    rw [e]
    split
    · rw [bvField_level]
      have hx' : x = 0 ∨ x = 1 ∨ x = 2 := by omega
      have f : ∀ y : BitVec 64,
          (((y &&& ~~~ BitVec.ofNat 64 ((2 ^ 2 - 1) * 2 ^ 14)) ||| (BitVec.ofNat 64 0x0)).extractLsb' 14 2 = 0) ∧
          (((y &&& ~~~ BitVec.ofNat 64 ((2 ^ 2 - 1) * 2 ^ 14)) ||| (BitVec.ofNat 64 0x4000)).extractLsb' 14 2 = 1) ∧
          (((y &&& ~~~ BitVec.ofNat 64 ((2 ^ 2 - 1) * 2 ^ 14)) ||| (BitVec.ofNat 64 0x8000)).extractLsb' 14 2 = 2) := by
        intro y
        refine ⟨?_, ?_, ?_⟩ <;>
        · ext i hi
          have : i = 0 ∨ i = 1 := by omega
          rcases this with rfl | rfl <;> simp
      rcases hx' with rfl | rfl | rfl
      · have := (f w).1; simp only [bvInto]; erw [this]; decide
      · have := (f w).2.1; simp only [bvInto]; erw [this]; decide
      · have := (f w).2.2; simp only [bvInto]; erw [this]; decide
    · rename_i hn
      have h3 : bvField w 14 2 ≠ 3 := by simpa using hn
      have h4 : bvField w 14 2 < 4 := Nat.mod_lt _ (by decide)
      omega
  · rw [e]
    split
    · rw [bvInto_mask (by decide)]; exact hw
    · exact hw

/-- A write of PSR leaves it legal: its reserved bits stay and level 3 is not taken (R284). -/
theorem psrWrite_legal {c c' : Core} {v : BitVec 64} {u : Bool} (h : c.Legal) (e : c'.psr = psrWrite c.psr v u) : c'.Legal := by
  have key : ∀ m : BitVec 64, m &&& 0xFFFF0000FFFF03C0 = 0 →
      ((c.psr &&& ~~~ m) ||| (v &&& m)) &&& 0xFFFF0000FFFF03C0 = 0 := by
    intro m hm
    have h2 := h.reserved
    apply BitVec.eq_of_getLsbD_eq
    intro i hi
    have h3 := congrArg (fun z => z.getLsbD i) h2
    have h4 := congrArg (fun z => z.getLsbD i) hm
    simp only [BitVec.getLsbD_and, BitVec.getLsbD_or, BitVec.getLsbD_not] at h3 h4 ⊢
    cases hk : (0xFFFF0000FFFF03C0 : BitVec 64).getLsbD i <;> simp_all
  cases u
  · exact legal_noThree (key _ (by decide)) h.level e
  · exact legal_noThree (key _ (by decide)) h.level e

theorem Core.eret_snd {s : State} {c : Core} (h : Snd s c) : Snd s c.eret := ⟨fun l => psrWrite_legal (h.sound l) rfl⟩
theorem Snd.psrWrite {s : State} {c : Core} {v : BitVec 64} {u : Bool} {released halted stopped wait pc d a sp ac excS excM ptbr
    asid icCur icStack icEn icPri windows tlb} (h : Snd s c) :
    Snd s ⟨released, halted, stopped, wait, pc, d, a, sp, ac, Sys2Proof.Machine.psrWrite c.psr v u, excS, excM, ptbr, asid, icCur, icStack,
      icEn, icPri, windows, tlb⟩ := ⟨fun l => psrWrite_legal (h.sound l) rfl⟩

end Sys2Proof.Machine
end

