-- ==== Sys2Proof/Laws/Keeps01.lean ====
section
/-!
SUPPORT. What the operations and meanings of Machine/Ops, Items, Slots keep, one lemma each (State.Keeps).
-/

namespace Sys2Proof.Machine

theorem State.put_keeps {s r : State} {f : Fld} {x : Nat} (h : s.Keeps r) : s.Keeps (State.put r f x) := by
  unfold State.put
  repeat' first
    | with_reducible assumption
    | with_reducible apply State.setReg_keeps

theorem State.putB_keeps {s r : State} {f : Fld} {b : Bool} (h : s.Keeps r) : s.Keeps (State.putB r f b) := by
  unfold State.putB
  repeat' first
    | with_reducible assumption
    | with_reducible apply State.put_keeps

theorem State.raiseBit_keeps {s r : State} {f : Fld} (h : s.Keeps r) : s.Keeps (State.raiseBit r f) := by
  unfold State.raiseBit
  repeat' first
    | with_reducible assumption
    | with_reducible apply State.put_keeps

theorem State.incSat_keeps {s r : State} {f : Fld} (h : s.Keeps r) : s.Keeps (State.incSat r f) := by
  unfold State.incSat
  repeat' first
    | with_reducible assumption
    | with_reducible apply State.put_keeps

theorem State.incWrap_keeps {s r : State} {f : Fld} (h : s.Keeps r) : s.Keeps (State.incWrap r f) := by
  unfold State.incWrap
  repeat' first
    | with_reducible assumption
    | with_reducible apply State.put_keeps

theorem State.setHnd_keeps {s r : State} {h : Nat} {x : Handle} (h' : s.Keeps r) : s.Keeps (State.setHnd r h x) := by
  unfold State.setHnd
  repeat' first
    | with_reducible assumption
    | fail_if_no_progress with_reducible apply State.Keeps.mk'

theorem State.setHsc_keeps {s r : State} {n : Nat} {x : HswChan} (h : s.Keeps r) : s.Keeps (State.setHsc r n x) := by
  unfold State.setHsc
  repeat' first
    | with_reducible assumption
    | fail_if_no_progress with_reducible apply State.Keeps.mk'

theorem State.setAdc_keeps {s r : State} {a : Nat} {x : SenseAdc} (h : s.Keeps r) : s.Keeps (State.setAdc r a x) := by
  unfold State.setAdc
  repeat' first
    | with_reducible assumption
    | fail_if_no_progress with_reducible apply State.Keeps.mk'

theorem State.setVal_keeps {s r : State} {c : Nat} {x : Valve} (h : s.Keeps r) : s.Keeps (State.setVal r c x) := by
  unfold State.setVal
  repeat' first
    | with_reducible assumption
    | fail_if_no_progress with_reducible apply State.Keeps.mk'

theorem State.setBq_keeps {s r : State} {d : Nat} {x : List BoostReq} (h : s.Keeps r) : s.Keeps (State.setBq r d x) := by
  unfold State.setBq
  repeat' first
    | with_reducible assumption
    | fail_if_no_progress with_reducible apply State.Keeps.mk'

theorem State.setFade_keeps {s r : State} {n : Nat} {x : Option Fade} (h : s.Keeps r) : s.Keeps (State.setFade r n x) := by
  unfold State.setFade
  repeat' first
    | with_reducible assumption
    | fail_if_no_progress with_reducible apply State.Keeps.mk'

theorem State.setChain_keeps {s r : State} {k : Nat} {x : Chain} (h : s.Keeps r) : s.Keeps (State.setChain r k x) := by
  unfold State.setChain
  repeat' first
    | with_reducible assumption
    | fail_if_no_progress with_reducible apply State.Keeps.mk'

theorem State.setDinc_keeps {s r : State} {n : Nat} {x : DinChan} (h : s.Keeps r) : s.Keeps (State.setDinc r n x) := by
  unfold State.setDinc
  repeat' first
    | with_reducible assumption
    | fail_if_no_progress with_reducible apply State.Keeps.mk'

theorem State.setDou_keeps {s r : State} {n : Nat} {x : DoutChan} (h : s.Keeps r) : s.Keeps (State.setDou r n x) := by
  unfold State.setDou
  repeat' first
    | with_reducible assumption
    | fail_if_no_progress with_reducible apply State.Keeps.mk'

theorem State.setCtr_keeps {s r : State} {n : Nat} {x : Counter} (h : s.Keeps r) : s.Keeps (State.setCtr r n x) := by
  unfold State.setCtr
  repeat' first
    | with_reducible assumption
    | fail_if_no_progress with_reducible apply State.Keeps.mk'

theorem State.answer_keeps {s r : State} {v : Nat} (h : s.Keeps r) : s.Keeps (State.answer r v) := by
  unfold State.answer
  repeat' first
    | with_reducible assumption
    | fail_if_no_progress with_reducible apply State.Keeps.mk'

theorem State.raiseL_keeps {s r : State} {src : Nat} (h : s.Keeps r) : s.Keeps (State.raiseL r src) := by
  unfold State.raiseL
  repeat' first
    | with_reducible assumption
    | fail_if_no_progress with_reducible apply State.Keeps.mk'

theorem State.raiseP_keeps {s r : State} {src : Nat} (h : s.Keeps r) : s.Keeps (State.raiseP r src) := by
  unfold State.raiseP
  repeat' first
    | with_reducible assumption
    | with_reducible apply State.raiseL_keeps
    | with_reducible apply ite_keeps
    | fail_if_no_progress with_reducible apply State.Keeps.mk'

theorem State.freeHandle_keeps {s r : State} {h : Nat} (h' : s.Keeps r) : s.Keeps (State.freeHandle r h) := by
  unfold State.freeHandle
  repeat' first
    | with_reducible assumption
    | with_reducible apply State.put_keeps
    | with_reducible apply State.setHnd_keeps

theorem State.enterEnd_keeps {s r : State} {h : Nat} {st : Nat} (h' : s.Keeps r) : s.Keeps (State.enterEnd r h st) := by
  unfold State.enterEnd
  repeat' first
    | with_reducible assumption
    | with_reducible apply State.put_keeps
    | with_reducible apply State.raiseBit_keeps
    | with_reducible apply State.setHnd_keeps
    | with_reducible apply State.freeHandle_keeps
    | with_reducible apply ite_keeps

theorem State.settle_keeps {s r : State} {h : Nat} (h' : s.Keeps r) : s.Keeps (State.settle r h) := by
  unfold State.settle
  repeat' first
    | with_reducible assumption
    | intro _
    | with_reducible apply State.put_keeps
    | with_reducible apply State.enterEnd_keeps
    | with_reducible apply ite_keeps

theorem State.endItem_keeps {s r : State} {h : Nat} {i : Nat} {code : Nat} (h' : s.Keeps r) : s.Keeps (State.endItem r h i code) := by
  unfold State.endItem
  repeat' first
    | with_reducible assumption
    | intro _
    | with_reducible apply State.put_keeps
    | with_reducible apply State.setHnd_keeps
    | with_reducible apply State.settle_keeps
    | with_reducible apply ite_keeps

theorem State.hitItems_keeps {s r : State} {p : Item → Bool} (h : s.Keeps r) : s.Keeps (State.hitItems r p) := by
  unfold State.hitItems
  repeat' first
    | with_reducible assumption
    | intro _
    | with_reducible apply State.each_keeps
    | with_reducible apply State.endItem_keeps

theorem State.hitHsw_keeps {s r : State} {n : Nat} (h : s.Keeps r) : s.Keeps (State.hitHsw r n) := by
  unfold State.hitHsw
  repeat' first
    | with_reducible assumption
    | intro _
    | with_reducible apply State.hitItems_keeps

theorem State.dropFrames_keeps {s r : State} {h : Nat} (h' : s.Keeps r) : s.Keeps (State.dropFrames r h) := by
  unfold State.dropFrames
  repeat' first
    | with_reducible assumption
    | intro _
    | with_reducible apply State.put_keeps
    | with_reducible apply State.each_keeps
    | with_reducible apply State.setChain_keeps
    | with_reducible apply ite_keeps
    | split

theorem State.refuse_keeps {s r : State} {h : Nat} {common : Nat} (h' : s.Keeps r) : s.Keeps (State.refuse r h common) := by
  unfold State.refuse
  repeat' first
    | with_reducible assumption
    | with_reducible apply State.put_keeps
    | with_reducible apply State.enterEnd_keeps
    | with_reducible apply State.dropFrames_keeps

theorem State.refuseAll_keeps {s r : State} {h : Nat} {code : Nat} {cause : Bool} (h' : s.Keeps r) : s.Keeps (State.refuseAll r h code cause) := by
  unfold State.refuseAll
  repeat' first
    | with_reducible assumption
    | intro _
    | with_reducible apply State.put_keeps
    | with_reducible apply State.raiseBit_keeps
    | with_reducible apply State.each_keeps
    | with_reducible apply State.refuse_keeps
    | with_reducible apply ite_keeps

theorem State.refuseHandles_keeps {s r : State} {hs : List Nat} {code : Nat} (h : s.Keeps r) : s.Keeps (State.refuseHandles r hs code) := by
  unfold State.refuseHandles
  repeat' first
    | with_reducible assumption
    | intro _
    | with_reducible apply State.each_keeps
    | with_reducible apply State.refuseAll_keeps
    | fail_if_no_progress with_reducible apply State.Keeps.mk'

theorem State.stopTests_keeps {s r : State} {p : TestRun → Bool} {code : Nat} (h : s.Keeps r) : s.Keeps (State.stopTests r p code) := by
  unfold State.stopTests
  repeat' first
    | with_reducible assumption
    | intro _
    | with_reducible apply State.put_keeps
    | with_reducible apply State.each_keeps
    | fail_if_no_progress with_reducible apply State.Keeps.mk'

theorem State.endPulse_keeps {s r : State} {b : OutBlock} {c : Nat} (h : s.Keeps r) : s.Keeps (State.endPulse r b c) := by
  unfold State.endPulse
  repeat' first
    | with_reducible assumption
    | with_reducible apply State.stopTests_keeps

theorem State.tripPulse_keeps {s r : State} {b : OutBlock} {c : Nat} (h : s.Keeps r) : s.Keeps (State.tripPulse r b c) := by
  unfold State.tripPulse
  repeat' first
    | with_reducible assumption
    | with_reducible apply State.stopTests_keeps

theorem State.markOff_keeps {s r : State} {b : OutBlock} {c : Nat} (h : s.Keeps r) : s.Keeps (State.markOff r b c) := by
  unfold State.markOff
  repeat' first
    | with_reducible assumption
    | fail_if_no_progress with_reducible apply State.Keeps.mk'

theorem State.endRequests_keeps {s r : State} {code : Nat} (h : s.Keeps r) : s.Keeps (State.endRequests r code) := by
  unfold State.endRequests
  repeat' first
    | with_reducible assumption
    | intro _
    | with_reducible apply State.put_keeps
    | with_reducible apply State.each_keeps
    | with_reducible apply ite_keeps
    | fail_if_no_progress with_reducible apply State.Keeps.mk'

end Sys2Proof.Machine
end

