-- ==== Sys2Proof/Laws/Keeps02.lean ====
section
/-!
SUPPORT. What the operations and meanings of Machine/HswOps, VlvOps keep, one lemma each (State.Keeps).
-/

namespace Sys2Proof.Machine

theorem State.setStartQueue_keeps {s r : State} {f : Feed} {q : List Nat} (h : s.Keeps r) : s.Keeps (State.setStartQueue r f q) := by
  unfold State.setStartQueue
  repeat' first
    | with_reducible assumption
    | split
    | dsimp only
    | fail_if_no_progress with_reducible apply State.Keeps.mk'

theorem State.noteClean_keeps {s r : State} {n : Nat} (h : s.Keeps r) : s.Keeps (State.noteClean r n) := by
  unfold State.noteClean
  repeat' first
    | with_reducible assumption
    | with_reducible apply State.setHsc_keeps

theorem State.hswSwitch_keeps {s r : State} {n : Nat} (h : s.Keeps r) : s.Keeps (State.hswSwitch r n) := by
  unfold State.hswSwitch
  repeat' first
    | with_reducible assumption
    | intro _
    | with_reducible apply State.putB_keeps
    | with_reducible apply State.raiseBit_keeps
    | with_reducible apply State.when_keeps
    | with_reducible apply State.setHsc_keeps
    | with_reducible apply State.markOff_keeps
    | with_reducible apply ite_keeps

theorem State.hswEval_keeps {s r : State} {n : Nat} (h : s.Keeps r) : s.Keeps (State.hswEval r n) := by
  unfold State.hswEval
  repeat' first
    | with_reducible assumption
    | with_reducible apply State.noteClean_keeps
    | with_reducible apply State.hswSwitch_keeps

theorem State.pulsesEnd_keeps {s r : State} (h : s.Keeps r) : s.Keeps (State.pulsesEnd r) := by
  unfold State.pulsesEnd
  repeat' first
    | with_reducible assumption
    | intro _
    | with_reducible apply State.each_keeps
    | with_reducible apply State.setHsc_keeps
    | with_reducible apply State.hswEval_keeps

theorem State.hswEnqueue_keeps {s r : State} {n : Nat} (h : s.Keeps r) : s.Keeps (State.hswEnqueue r n) := by
  unfold State.hswEnqueue
  repeat' first
    | with_reducible assumption
    | intro _
    | with_reducible apply State.setStartQueue_keeps
    | with_reducible apply ite_keeps

theorem State.startDelay_keeps {s r : State} {n : Nat} (h : s.Keeps r) : s.Keeps (State.startDelay r n) := by
  unfold State.startDelay
  repeat' first
    | with_reducible assumption
    | with_reducible apply State.raiseBit_keeps
    | with_reducible apply ite_keeps

theorem State.hswTrip_keeps {s r : State} {n : Nat} {cause : Nat} (h : s.Keeps r) : s.Keeps (State.hswTrip r n cause) := by
  unfold State.hswTrip
  repeat' first
    | with_reducible assumption
    | intro _
    | with_reducible apply State.put_keeps
    | with_reducible apply State.putB_keeps
    | with_reducible apply State.raiseBit_keeps
    | with_reducible apply State.incSat_keeps
    | with_reducible apply State.when_keeps
    | with_reducible apply State.setHsc_keeps
    | with_reducible apply State.raiseP_keeps
    | with_reducible apply State.hitHsw_keeps
    | with_reducible apply State.tripPulse_keeps
    | with_reducible apply State.hswEval_keeps
    | with_reducible apply State.startDelay_keeps
    | with_reducible apply ite_keeps

theorem State.latchRelease_keeps {s r : State} {n : Nat} (h : s.Keeps r) : s.Keeps (State.latchRelease r n) := by
  unfold State.latchRelease
  repeat' first
    | with_reducible assumption
    | with_reducible apply State.put_keeps
    | with_reducible apply State.putB_keeps
    | with_reducible apply State.hswEval_keeps
    | with_reducible apply State.startDelay_keeps
    | with_reducible apply ite_keeps

theorem State.noteDemand_keeps {s r : State} {it : Item} (h : s.Keeps r) : s.Keeps (State.noteDemand r it) := by
  unfold State.noteDemand
  repeat' first
    | with_reducible assumption
    | fail_if_no_progress with_reducible apply State.Keeps.mk'

theorem State.shedOne_keeps {s r : State} (h : s.Keeps r) : s.Keeps (State.shedOne r) := by
  unfold State.shedOne
  repeat' first
    | with_reducible assumption
    | intro _
    | with_reducible apply State.put_keeps
    | with_reducible apply State.putB_keeps
    | with_reducible apply State.raiseBit_keeps
    | with_reducible apply State.raiseP_keeps
    | with_reducible apply State.hitHsw_keeps
    | with_reducible apply State.endPulse_keeps
    | with_reducible apply State.hswEval_keeps
    | with_reducible apply ite_keeps
    | split
    | dsimp only

theorem State.hswApply_keeps {s r : State} {it : Item} (h : s.Keeps r) : s.Keeps (State.hswApply r it) := by
  unfold State.hswApply
  repeat' first
    | with_reducible assumption
    | intro _
    | with_reducible apply State.put_keeps
    | with_reducible apply State.putB_keeps
    | with_reducible apply State.raiseBit_keeps
    | with_reducible apply State.incSat_keeps
    | with_reducible apply State.when_keeps
    | with_reducible apply State.setHsc_keeps
    | with_reducible apply State.endPulse_keeps
    | with_reducible apply State.setStartQueue_keeps
    | with_reducible apply State.hswEval_keeps
    | with_reducible apply State.noteDemand_keeps
    | with_reducible apply ite_keeps

theorem State.wireStep_keeps {s r : State} {n : Nat} {dt : Nat} {p : Rat} {heatIn : Rat} {amb : Rat} (h : s.Keeps r) : s.Keeps (State.wireStep r n dt p heatIn amb) := by
  unfold State.wireStep
  repeat' first
    | with_reducible assumption
    | with_reducible apply State.put_keeps
    | with_reducible apply State.setHsc_keeps
    | with_reducible apply State.hswTrip_keeps
    | with_reducible apply ite_keeps

theorem State.setVbst_keeps {s r : State} {v : Nat} (h : s.Keeps r) : s.Keeps (State.setVbst r v) := by
  unfold State.setVbst
  repeat' first
    | with_reducible assumption
    | with_reducible apply State.put_keeps
    | with_reducible apply State.putB_keeps

theorem State.unqueue_keeps {s r : State} {c : Nat} (h : s.Keeps r) : s.Keeps (State.unqueue r c) := by
  unfold State.unqueue
  repeat' first
    | with_reducible assumption
    | intro _
    | with_reducible apply State.putB_keeps
    | with_reducible apply State.setBq_keeps

theorem State.endBankPulses_keeps {s r : State} {c : Nat} (h : s.Keeps r) : s.Keeps (State.endBankPulses r c) := by
  unfold State.endBankPulses
  repeat' first
    | with_reducible assumption
    | intro _
    | with_reducible apply State.stopTests_keeps

theorem State.startBoost_keeps {s r' : State} {r : BoostReq} (h : s.Keeps r') : s.Keeps (State.startBoost r' r) := by
  unfold State.startBoost
  repeat' first
    | with_reducible assumption
    | with_reducible apply State.put_keeps
    | with_reducible apply State.setHnd_keeps
    | with_reducible apply State.setVal_keeps
    | with_reducible apply State.endBankPulses_keeps
    | split

theorem State.boostService_keeps {s r : State} {d : Nat} (h : s.Keeps r) : s.Keeps (State.boostService r d) := by
  unfold State.boostService
  repeat' first
    | with_reducible assumption
    | intro _
    | with_reducible apply State.putB_keeps
    | with_reducible apply State.setBq_keeps
    | with_reducible apply State.startBoost_keeps
    | with_reducible apply ite_keeps
    | split

theorem State.supersede_keeps {s r : State} {x : Option (Nat × Nat)} (h : s.Keeps r) : s.Keeps (State.supersede r x) := by
  unfold State.supersede
  repeat' first
    | with_reducible assumption
    | with_reducible apply State.endItem_keeps
    | split

theorem State.actuate_keeps {s r' : State} {r : BoostReq} (h : s.Keeps r') : s.Keeps (State.actuate r' r) := by
  unfold State.actuate
  repeat' first
    | with_reducible assumption
    | intro _
    | with_reducible apply State.put_keeps
    | with_reducible apply State.raiseBit_keeps
    | with_reducible apply State.setBq_keeps
    | with_reducible apply State.endPulse_keeps
    | with_reducible apply State.startBoost_keeps
    | with_reducible apply State.supersede_keeps
    | with_reducible apply ite_keeps
    | split

theorem State.boostCut_keeps {s r : State} {c : Nat} (h : s.Keeps r) : s.Keeps (State.boostCut r c) := by
  unfold State.boostCut
  repeat' first
    | with_reducible assumption
    | with_reducible apply State.put_keeps
    | with_reducible apply ite_keeps

theorem State.enterRelease_keeps {s r : State} {c : Nat} {freewheel : Bool} (h : s.Keeps r) : s.Keeps (State.enterRelease r c freewheel) := by
  unfold State.enterRelease
  repeat' first
    | with_reducible assumption
    | with_reducible apply State.put_keeps
    | with_reducible apply State.setVal_keeps
    | with_reducible apply State.boostCut_keeps

theorem State.releaseItem_keeps {s r : State} {c : Nat} (h : s.Keeps r) : s.Keeps (State.releaseItem r c) := by
  unfold State.releaseItem
  repeat' first
    | with_reducible assumption
    | intro _
    | with_reducible apply State.endPulse_keeps
    | with_reducible apply State.unqueue_keeps
    | with_reducible apply State.supersede_keeps
    | with_reducible apply State.enterRelease_keeps
    | with_reducible apply ite_keeps

theorem State.release_keeps {s r : State} {c : Nat} (h : s.Keeps r) : s.Keeps (State.release r c) := by
  unfold State.release
  repeat' first
    | with_reducible assumption
    | with_reducible apply State.boostService_keeps
    | with_reducible apply State.releaseItem_keeps

theorem State.expireBoost_keeps {s r : State} {c : Nat} (h : s.Keeps r) : s.Keeps (State.expireBoost r c) := by
  unfold State.expireBoost
  repeat' first
    | with_reducible assumption
    | intro _
    | with_reducible apply State.endItem_keeps
    | with_reducible apply State.unqueue_keeps
    | split
    | dsimp only

theorem State.boostEdge_keeps {s r : State} {cs : List Nat} (h : s.Keeps r) : s.Keeps (State.boostEdge r cs) := by
  unfold State.boostEdge
  repeat' first
    | with_reducible assumption
    | intro _
    | with_reducible apply State.each_keeps
    | with_reducible apply State.when_keeps
    | with_reducible apply State.boostService_keeps
    | with_reducible apply State.expireBoost_keeps

theorem State.vlvEvidence_keeps {s r : State} {c : Nat} {kind : Nat} (h : s.Keeps r) : s.Keeps (State.vlvEvidence r c kind) := by
  unfold State.vlvEvidence
  repeat' first
    | with_reducible assumption
    | with_reducible apply State.put_keeps
    | with_reducible apply State.setVal_keeps
    | with_reducible apply State.raiseP_keeps
    | with_reducible apply ite_keeps

theorem State.vlvOff_keeps {s r : State} {c : Nat} {cause : Nat} {freewheel : Bool} (h : s.Keeps r) : s.Keeps (State.vlvOff r c cause freewheel) := by
  unfold State.vlvOff
  repeat' first
    | with_reducible assumption
    | intro _
    | with_reducible apply State.put_keeps
    | with_reducible apply State.setVal_keeps
    | with_reducible apply State.hitItems_keeps
    | with_reducible apply State.tripPulse_keeps
    | with_reducible apply State.enterRelease_keeps
    | with_reducible apply ite_keeps

theorem State.vlvTrip_keeps {s r : State} {c : Nat} {cause : Nat} {freewheel : Bool} (h : s.Keeps r) : s.Keeps (State.vlvTrip r c cause freewheel) := by
  unfold State.vlvTrip
  repeat' first
    | with_reducible assumption
    | with_reducible apply State.raiseBit_keeps
    | with_reducible apply State.raiseP_keeps
    | with_reducible apply State.boostService_keeps
    | with_reducible apply State.vlvOff_keeps

theorem State.coilLimits_keeps {s r : State} {c : Nat} (h : s.Keeps r) : s.Keeps (State.coilLimits r c) := by
  unfold State.coilLimits
  repeat' first
    | with_reducible assumption
    | with_reducible apply State.put_keeps
    | with_reducible apply State.putB_keeps
    | with_reducible apply State.raiseBit_keeps
    | with_reducible apply State.raiseP_keeps
    | with_reducible apply ite_keeps

theorem State.coilStep_keeps {s r : State} {c : Nat} {ms : Nat} {dt : Nat} {tdie : Rat} (h : s.Keeps r) : s.Keeps (State.coilStep r c ms dt tdie) := by
  unfold State.coilStep
  repeat' first
    | with_reducible assumption
    | with_reducible apply State.setVal_keeps
    | with_reducible apply State.coilLimits_keeps

end Sys2Proof.Machine
end

