-- ==== Sys2Proof/Laws/Keeps03.lean ====
section
/-!
SUPPORT. What the operations and meanings of Machine/LedOps, DoutOps, LimpOps keep, one lemma each (State.Keeps).
-/

namespace Sys2Proof.Machine

theorem State.stopFade_keeps {s r : State} {n : Nat} (h : s.Keeps r) : s.Keeps (State.stopFade r n) := by
  unfold State.stopFade
  repeat' first
    | with_reducible assumption
    | with_reducible apply State.putB_keeps
    | with_reducible apply State.setFade_keeps

theorem State.setSink_keeps {s r : State} {n : Nat} {l : Nat} (h : s.Keeps r) : s.Keeps (State.setSink r n l) := by
  unfold State.setSink
  repeat' first
    | with_reducible assumption
    | intro _
    | with_reducible apply State.put_keeps
    | with_reducible apply State.when_keeps
    | with_reducible apply State.markOff_keeps

theorem State.ledApply_keeps {s r : State} {it : Item} (h : s.Keeps r) : s.Keeps (State.ledApply r it) := by
  unfold State.ledApply
  repeat' first
    | with_reducible assumption
    | with_reducible apply State.put_keeps
    | with_reducible apply State.raiseBit_keeps
    | with_reducible apply State.setFade_keeps
    | with_reducible apply State.endPulse_keeps
    | with_reducible apply State.stopFade_keeps
    | with_reducible apply State.setSink_keeps
    | with_reducible apply ite_keeps

theorem State.sinkShortOff_keeps {s r : State} {n : Nat} (h : s.Keeps r) : s.Keeps (State.sinkShortOff r n) := by
  unfold State.sinkShortOff
  repeat' first
    | with_reducible assumption
    | intro _
    | with_reducible apply State.hitItems_keeps
    | with_reducible apply State.tripPulse_keeps
    | with_reducible apply State.stopFade_keeps
    | with_reducible apply State.setSink_keeps
    | with_reducible apply ite_keeps

theorem State.sinkEvidence_keeps {s r : State} {n : Nat} {kind : Nat} (h : s.Keeps r) : s.Keeps (State.sinkEvidence r n kind) := by
  unfold State.sinkEvidence
  repeat' first
    | with_reducible assumption
    | intro _
    | with_reducible apply State.put_keeps
    | with_reducible apply State.raiseBit_keeps
    | with_reducible apply State.when_keeps
    | with_reducible apply State.raiseP_keeps
    | with_reducible apply State.sinkShortOff_keeps
    | with_reducible apply ite_keeps

theorem State.startShifts_keeps {s r : State} {h : Nat} (h' : s.Keeps r) : s.Keeps (State.startShifts r h) := by
  unfold State.startShifts
  repeat' first
    | with_reducible assumption
    | intro _
    | with_reducible apply State.put_keeps
    | with_reducible apply State.each_keeps
    | with_reducible apply State.setHnd_keeps
    | with_reducible apply State.setChain_keeps
    | with_reducible apply ite_keeps

theorem State.shiftCut_keeps {s r : State} {k : Nat} (h : s.Keeps r) : s.Keeps (State.shiftCut r k) := by
  unfold State.shiftCut
  repeat' first
    | with_reducible assumption
    | with_reducible apply State.setChain_keeps
    | with_reducible apply State.draw_keeps
    | with_reducible refine State.draw_keeps' (by with_reducible assumption) ?_
    | with_reducible apply ite_keeps

theorem State.chainsStop_keeps {s r : State} (h : s.Keeps r) : s.Keeps (State.chainsStop r) := by
  unfold State.chainsStop
  repeat' first
    | with_reducible assumption
    | intro _
    | with_reducible apply State.put_keeps
    | with_reducible apply State.each_keeps
    | with_reducible apply State.setChain_keeps
    | with_reducible apply State.shiftCut_keeps
    | with_reducible apply ite_keeps

theorem State.chainsIdle_keeps {s r : State} (h : s.Keeps r) : s.Keeps (State.chainsIdle r) := by
  unfold State.chainsIdle
  repeat' first
    | with_reducible assumption
    | intro _
    | with_reducible apply State.each_keeps
    | with_reducible apply State.setHnd_keeps
    | with_reducible apply State.chainsStop_keeps
    | with_reducible apply ite_keeps

theorem State.latchChain_keeps {s r : State} {k : Nat} (h : s.Keeps r) : s.Keeps (State.latchChain r k) := by
  unfold State.latchChain
  repeat' first
    | with_reducible assumption
    | with_reducible apply State.put_keeps
    | with_reducible apply State.setChain_keeps
    | with_reducible apply State.send_keeps
    | split

theorem State.startWindow_keeps {s r : State} {n : Nat} (h : s.Keeps r) : s.Keeps (State.startWindow r n) := by
  unfold State.startWindow
  repeat' first
    | with_reducible assumption
    | with_reducible apply State.put_keeps
    | with_reducible apply State.setDou_keeps

theorem State.stopWindow_keeps {s r : State} {n : Nat} (h : s.Keeps r) : s.Keeps (State.stopWindow r n) := by
  unfold State.stopWindow
  repeat' first
    | with_reducible assumption
    | with_reducible apply State.put_keeps
    | with_reducible apply State.setDou_keeps

theorem State.suspendWindows_keeps {s r : State} (h : s.Keeps r) : s.Keeps (State.suspendWindows r) := by
  unfold State.suspendWindows
  repeat' first
    | with_reducible assumption
    | intro _
    | with_reducible apply State.put_keeps
    | with_reducible apply State.each_keeps
    | with_reducible apply State.setDou_keeps
    | with_reducible apply ite_keeps

theorem State.resumeWindows_keeps {s r : State} (h : s.Keeps r) : s.Keeps (State.resumeWindows r) := by
  unfold State.resumeWindows
  repeat' first
    | with_reducible assumption
    | intro _
    | with_reducible apply State.each_keeps
    | with_reducible apply State.startWindow_keeps
    | with_reducible apply ite_keeps

theorem State.doutOn_keeps {s r : State} {n : Nat} (h : s.Keeps r) : s.Keeps (State.doutOn r n) := by
  unfold State.doutOn
  repeat' first
    | with_reducible assumption
    | with_reducible apply State.raiseBit_keeps
    | with_reducible apply State.setDou_keeps
    | with_reducible apply ite_keeps

theorem State.doutOff_keeps {s r : State} {n : Nat} (h : s.Keeps r) : s.Keeps (State.doutOff r n) := by
  unfold State.doutOff
  repeat' first
    | with_reducible assumption
    | intro _
    | with_reducible apply State.putB_keeps
    | with_reducible apply State.when_keeps
    | with_reducible apply State.setDou_keeps
    | with_reducible apply State.markOff_keeps
    | with_reducible apply State.stopWindow_keeps

theorem State.doutApply_keeps {s r : State} {it : Item} (h : s.Keeps r) : s.Keeps (State.doutApply r it) := by
  unfold State.doutApply
  repeat' first
    | with_reducible assumption
    | with_reducible apply State.endPulse_keeps
    | with_reducible apply State.startWindow_keeps
    | with_reducible apply State.doutOn_keeps
    | with_reducible apply State.doutOff_keeps
    | with_reducible apply ite_keeps

theorem State.doutEvidence_keeps {s r : State} {n : Nat} {kind : Nat} (h : s.Keeps r) : s.Keeps (State.doutEvidence r n kind) := by
  unfold State.doutEvidence
  repeat' first
    | with_reducible assumption
    | with_reducible apply State.put_keeps
    | with_reducible apply State.raiseBit_keeps
    | with_reducible apply State.setDou_keeps
    | with_reducible apply State.raiseP_keeps
    | with_reducible apply ite_keeps

theorem State.doutTrip_keeps {s r : State} {n : Nat} {cause : Nat} (h : s.Keeps r) : s.Keeps (State.doutTrip r n cause) := by
  unfold State.doutTrip
  repeat' first
    | with_reducible assumption
    | intro _
    | with_reducible apply State.put_keeps
    | with_reducible apply State.raiseBit_keeps
    | with_reducible apply State.raiseP_keeps
    | with_reducible apply State.hitItems_keeps
    | with_reducible apply State.tripPulse_keeps
    | with_reducible apply State.doutOff_keeps

theorem State.flagHold_keeps {s r : State} (h : s.Keeps r) : s.Keeps (State.flagHold r) := by
  unfold State.flagHold
  repeat' first
    | with_reducible assumption
    | with_reducible apply State.raiseBit_keeps
    | with_reducible apply ite_keeps
    | fail_if_no_progress with_reducible apply State.Keeps.mk'

theorem State.flagLimp_keeps {s r : State} (h : s.Keeps r) : s.Keeps (State.flagLimp r) := by
  unfold State.flagLimp
  repeat' first
    | with_reducible assumption
    | with_reducible apply State.raiseBit_keeps
    | with_reducible apply ite_keeps
    | fail_if_no_progress with_reducible apply State.Keeps.mk'

theorem State.hswEvalAll_keeps {s r : State} (h : s.Keeps r) : s.Keeps (State.hswEvalAll r) := by
  unfold State.hswEvalAll
  repeat' first
    | with_reducible assumption
    | intro _
    | with_reducible apply State.each_keeps
    | with_reducible apply State.hswEval_keeps

theorem State.holdBegin_keeps {s r : State} (h : s.Keeps r) : s.Keeps (State.holdBegin r) := by
  unfold State.holdBegin
  repeat' first
    | with_reducible assumption
    | intro _
    | with_reducible apply State.raiseBit_keeps
    | with_reducible apply State.each_keeps
    | with_reducible apply State.when_keeps
    | with_reducible apply State.unqueue_keeps
    | with_reducible apply State.suspendWindows_keeps
    | with_reducible apply State.flagHold_keeps
    | with_reducible apply State.hswEvalAll_keeps
    | fail_if_no_progress with_reducible apply State.Keeps.mk'

theorem State.passToSpares_keeps {s r : State} (h : s.Keeps r) : s.Keeps (State.passToSpares r) := by
  unfold State.passToSpares
  repeat' first
    | with_reducible assumption
    | intro _
    | with_reducible apply State.put_keeps
    | with_reducible apply State.putB_keeps
    | with_reducible apply State.raiseBit_keeps
    | with_reducible apply State.each_keeps

theorem State.setWdog_keeps {s r : State} {k : Nat} {x : Watchdog} (h : s.Keeps r) : s.Keeps (State.setWdog r k x) := by
  unfold State.setWdog
  repeat' first
    | with_reducible assumption
    | fail_if_no_progress with_reducible apply State.Keeps.mk'

theorem State.wdResume_keeps {s r : State} (h : s.Keeps r) : s.Keeps (State.wdResume r) := by
  unfold State.wdResume
  repeat' first
    | with_reducible assumption
    | intro _
    | with_reducible apply State.each_keeps
    | with_reducible apply State.when_keeps
    | with_reducible apply State.setWdog_keeps

theorem State.holdEnd_keeps {s r : State} (h : s.Keeps r) : s.Keeps (State.holdEnd r) := by
  unfold State.holdEnd
  repeat' first
    | with_reducible assumption
    | intro _
    | with_reducible apply State.put_keeps
    | with_reducible apply State.putB_keeps
    | with_reducible apply State.each_keeps
    | with_reducible apply State.flagHold_keeps
    | with_reducible apply State.hswEvalAll_keeps
    | with_reducible apply State.wdResume_keeps

theorem State.limpValve_keeps {s r : State} {c : Nat} (h : s.Keeps r) : s.Keeps (State.limpValve r c) := by
  unfold State.limpValve
  repeat' first
    | with_reducible assumption
    | with_reducible apply State.setVal_keeps
    | with_reducible apply State.unqueue_keeps
    | with_reducible apply State.boostService_keeps
    | with_reducible apply State.actuate_keeps
    | with_reducible apply State.release_keeps
    | with_reducible apply ite_keeps

theorem State.limpDout_keeps {s r : State} {n : Nat} (h : s.Keeps r) : s.Keeps (State.limpDout r n) := by
  unfold State.limpDout
  repeat' first
    | with_reducible assumption
    | with_reducible apply State.setDou_keeps
    | with_reducible apply State.endPulse_keeps
    | with_reducible apply State.doutOn_keeps
    | with_reducible apply State.doutOff_keeps
    | with_reducible apply ite_keeps

theorem State.limpFollow_keeps {s r : State} (h : s.Keeps r) : s.Keeps (State.limpFollow r) := by
  unfold State.limpFollow
  repeat' first
    | with_reducible assumption
    | intro _
    | with_reducible apply State.each_keeps
    | with_reducible apply State.when_keeps
    | with_reducible apply State.limpValve_keeps
    | with_reducible apply State.limpDout_keeps
    | with_reducible apply ite_keeps

theorem State.limpRefuse_keeps {s r : State} (h : s.Keeps r) : s.Keeps (State.limpRefuse r) := by
  unfold State.limpRefuse
  repeat' first
    | with_reducible assumption
    | intro _
    | with_reducible apply State.put_keeps
    | with_reducible apply State.raiseBit_keeps
    | with_reducible apply State.each_keeps
    | with_reducible apply State.refuse_keeps
    | with_reducible apply ite_keeps

theorem State.dropBoostItems_keeps {s r : State} (h : s.Keeps r) : s.Keeps (State.dropBoostItems r) := by
  unfold State.dropBoostItems
  repeat' first
    | with_reducible assumption
    | intro _
    | with_reducible apply State.each_keeps
    | with_reducible apply State.endItem_keeps
    | with_reducible apply State.unqueue_keeps
    | split

theorem State.hitValve_keeps {s r : State} {c : Nat} (h : s.Keeps r) : s.Keeps (State.hitValve r c) := by
  unfold State.hitValve
  repeat' first
    | with_reducible assumption
    | intro _
    | with_reducible apply State.hitItems_keeps

theorem State.limpTakeValve_keeps {s r : State} {c : Nat} (h : s.Keeps r) : s.Keeps (State.limpTakeValve r c) := by
  unfold State.limpTakeValve
  repeat' first
    | with_reducible assumption
    | with_reducible apply State.raiseBit_keeps
    | with_reducible apply State.setVal_keeps
    | with_reducible apply State.hitValve_keeps

theorem State.limpOutputs_keeps {s r : State} (h : s.Keeps r) : s.Keeps (State.limpOutputs r) := by
  unfold State.limpOutputs
  repeat' first
    | with_reducible assumption
    | intro _
    | with_reducible apply State.putB_keeps
    | with_reducible apply State.raiseBit_keeps
    | with_reducible apply State.each_keeps
    | with_reducible apply State.setDou_keeps
    | with_reducible apply State.hitItems_keeps
    | with_reducible apply State.hitHsw_keeps
    | with_reducible apply State.endPulse_keeps
    | with_reducible apply State.release_keeps
    | with_reducible apply State.stopWindow_keeps
    | with_reducible apply State.doutOff_keeps
    | with_reducible apply State.hswEvalAll_keeps
    | with_reducible apply State.limpFollow_keeps
    | with_reducible apply State.dropBoostItems_keeps
    | with_reducible apply State.hitValve_keeps
    | with_reducible apply State.limpTakeValve_keeps
    | with_reducible apply ite_keeps

theorem State.inrushCut_keeps {s r : State} (h : s.Keeps r) : s.Keeps (State.inrushCut r) := by
  unfold State.inrushCut
  repeat' first
    | with_reducible assumption
    | intro _
    | with_reducible apply State.raiseBit_keeps
    | with_reducible apply State.raiseL_keeps
    | with_reducible apply ite_keeps
    | fail_if_no_progress with_reducible apply State.Keeps.mk'

theorem State.limpApply_keeps {s r : State} {cause : Nat} {claimCode : Nat} (h : s.Keeps r) : s.Keeps (State.limpApply r cause claimCode) := by
  unfold State.limpApply
  repeat' first
    | with_reducible assumption
    | with_reducible apply State.put_keeps
    | with_reducible apply State.raiseBit_keeps
    | with_reducible apply State.raiseP_keeps
    | with_reducible apply State.refuseHandles_keeps
    | with_reducible apply State.chainsIdle_keeps
    | with_reducible apply State.flagLimp_keeps
    | with_reducible apply State.holdEnd_keeps
    | with_reducible apply State.limpRefuse_keeps
    | with_reducible apply State.limpOutputs_keeps
    | with_reducible apply State.inrushCut_keeps
    | with_reducible apply ite_keeps

theorem State.limpRelease_keeps {s r : State} (h : s.Keeps r) : s.Keeps (State.limpRelease r) := by
  unfold State.limpRelease
  repeat' first
    | with_reducible assumption
    | intro _
    | with_reducible apply State.put_keeps
    | with_reducible apply State.putB_keeps
    | with_reducible apply State.each_keeps
    | with_reducible apply State.setVal_keeps
    | with_reducible apply State.setDou_keeps
    | with_reducible apply State.startWindow_keeps
    | with_reducible apply State.doutOn_keeps
    | with_reducible apply State.doutOff_keeps
    | with_reducible apply State.flagLimp_keeps
    | with_reducible apply State.hswEvalAll_keeps
    | with_reducible apply ite_keeps

theorem State.announcedReset_keeps {s r : State} (h : s.Keeps r) : s.Keeps (State.announcedReset r) := by
  unfold State.announcedReset
  repeat' first
    | with_reducible assumption
    | with_reducible apply State.raiseP_keeps
    | with_reducible apply State.holdBegin_keeps
    | with_reducible apply State.limpApply_keeps
    | with_reducible apply ite_keeps

theorem State.inputChanged_keeps {s r : State} {d : Nat} (h : s.Keeps r) : s.Keeps (State.inputChanged r d) := by
  unfold State.inputChanged
  repeat' first
    | with_reducible assumption
    | intro _
    | with_reducible apply State.each_keeps
    | with_reducible apply State.endPulse_keeps
    | with_reducible apply State.hswEval_keeps
    | with_reducible apply State.limpFollow_keeps
    | with_reducible apply ite_keeps

theorem State.counterChanged_keeps {s r : State} {g : Nat} (h : s.Keeps r) : s.Keeps (State.counterChanged r g) := by
  unfold State.counterChanged
  repeat' first
    | with_reducible assumption
    | intro _
    | with_reducible apply State.each_keeps
    | with_reducible apply State.endPulse_keeps
    | with_reducible apply State.hswEval_keeps
    | with_reducible apply ite_keeps

theorem State.counterTaken_keeps {s r : State} {g : Nat} {level : Bool} (h : s.Keeps r) : s.Keeps (State.counterTaken r g level) := by
  unfold State.counterTaken
  repeat' first
    | with_reducible assumption
    | intro _
    | with_reducible apply State.when_keeps
    | with_reducible apply State.counterChanged_keeps
    | with_reducible apply ite_keeps
    | fail_if_no_progress with_reducible apply State.Keeps.mk'

theorem State.countersArrive_keeps {s r : State} (h : s.Keeps r) : s.Keeps (State.countersArrive r) := by
  unfold State.countersArrive
  repeat' first
    | with_reducible assumption
    | intro _
    | with_reducible apply State.each_keeps
    | with_reducible apply State.counterTaken_keeps
    | fail_if_no_progress with_reducible apply State.Keeps.mk'

end Sys2Proof.Machine
end

