-- ==== Sys2Proof/Laws/Keeps04.lean ====
section
/-!
SUPPORT. What the operations and meanings of Machine/TxnOps, GtOps keep, one lemma each (State.Keeps).
-/

namespace Sys2Proof.Machine

theorem State.openItems_keeps {s r : State} {h : Nat} (h' : s.Keeps r) : s.Keeps (State.openItems r h) := by
  unfold State.openItems
  repeat' first
    | with_reducible assumption
    | intro _
    | with_reducible apply State.setReg_keeps
    | with_reducible apply State.put_keeps
    | with_reducible apply State.each_keeps

theorem State.applyChecks_keeps {s r : State} {h : Nat} {code : Nat → Nat} (h' : s.Keeps r) : KeepsFst s (State.applyChecks r h code) := by
  unfold State.applyChecks
  repeat' first
    | with_reducible assumption
    | intro _
    | with_reducible apply State.put_keeps
    | with_reducible apply State.raiseBit_keeps
    | with_reducible apply State.each_keeps
    | with_reducible apply State.refuse_keeps
    | with_reducible apply ite_keeps
    | with_reducible apply ite_keepsFst
    | with_reducible apply KeepsFst.mk

theorem State.applyChecks_keeps' {s r t : State} {h : Nat} {code : Nat → Nat} {y : Bool} (e : State.applyChecks r h code = (t, y)) (h' : s.Keeps r) :
    s.Keeps t :=
  (State.applyChecks_keeps h').elim e

theorem State.finishChecks_keeps {s r : State} {h : Nat} {first : Nat → Nat} (h' : s.Keeps r) : s.Keeps (State.finishChecks r h first) := by
  unfold State.finishChecks
  repeat' first
    | with_reducible assumption
    | intro _
    | with_reducible apply State.put_keeps
    | with_reducible apply State.raiseBit_keeps
    | with_reducible apply State.when_keeps
    | with_reducible apply State.setHnd_keeps
    | with_reducible apply State.refuseAll_keeps
    | with_reducible apply State.applyChecks_keeps
    | with_reducible refine State.applyChecks_keeps' (by with_reducible assumption) ?_
    | with_reducible apply ite_keeps
    | with_reducible apply ite_keepsFst
    | with_reducible apply KeepsFst.fst

theorem State.refuseClaim_keeps {s r : State} {hs : List Nat} {bad : List (Nat × Nat)} {closing : Option Nat} (h : s.Keeps r) : s.Keeps (State.refuseClaim r hs bad closing) := by
  unfold State.refuseClaim
  repeat' first
    | with_reducible assumption
    | intro _
    | with_reducible apply State.put_keeps
    | with_reducible apply State.raiseBit_keeps
    | with_reducible apply State.each_keeps
    | with_reducible apply State.refuse_keeps
    | with_reducible apply ite_keeps
    | with_reducible apply ite_keepsFst
    | with_reducible apply KeepsFst.fst
    | split
    | dsimp only
    | fail_if_no_progress with_reducible apply State.Keeps.mk'

theorem State.closeClaim_keeps {s r : State} {closing : Nat} (h : s.Keeps r) : s.Keeps (State.closeClaim r closing) := by
  unfold State.closeClaim
  repeat' first
    | with_reducible assumption
    | intro _
    | with_reducible apply State.each_keeps
    | with_reducible apply State.setHnd_keeps
    | with_reducible apply State.refuseClaim_keeps
    | with_reducible apply ite_keeps
    | with_reducible apply ite_keepsFst
    | with_reducible apply KeepsFst.fst
    | fail_if_no_progress with_reducible apply State.Keeps.mk'

theorem State.commitClaim_keeps {s r : State} {h : Nat} (h' : s.Keeps r) : s.Keeps (State.commitClaim r h) := by
  unfold State.commitClaim
  repeat' first
    | with_reducible assumption
    | intro _
    | with_reducible apply State.put_keeps
    | with_reducible apply State.refuseClaim_keeps
    | with_reducible apply State.closeClaim_keeps
    | with_reducible apply ite_keeps
    | with_reducible apply ite_keepsFst
    | with_reducible apply KeepsFst.fst
    | fail_if_no_progress with_reducible apply State.Keeps.mk'

theorem State.commitHandle_keeps {s r : State} {h : Nat} {boot : Bool} (h' : s.Keeps r) : s.Keeps (State.commitHandle r h boot) := by
  unfold State.commitHandle
  repeat' first
    | with_reducible assumption
    | intro _
    | with_reducible apply State.put_keeps
    | with_reducible apply State.setHnd_keeps
    | with_reducible apply State.enterEnd_keeps
    | with_reducible apply State.openItems_keeps
    | with_reducible apply State.applyChecks_keeps
    | with_reducible refine State.applyChecks_keeps' (by with_reducible assumption) ?_
    | with_reducible apply State.finishChecks_keeps
    | with_reducible apply State.commitClaim_keeps
    | with_reducible apply ite_keeps
    | with_reducible apply ite_keepsFst
    | with_reducible apply KeepsFst.fst
    | fail_if_no_progress with_reducible apply State.Keeps.mk'

theorem State.armHandle_keeps {s r : State} {h : Nat} (h' : s.Keeps r) : s.Keeps (State.armHandle r h) := by
  unfold State.armHandle
  repeat' first
    | with_reducible assumption
    | with_reducible apply State.put_keeps
    | with_reducible apply State.setHnd_keeps
    | with_reducible apply State.startShifts_keeps
    | with_reducible apply ite_keeps

theorem State.itemEdge_keeps {s r : State} {h : Nat} {i : Nat} (h' : s.Keeps r) : s.Keeps (State.itemEdge r h i) := by
  unfold State.itemEdge
  repeat' first
    | with_reducible assumption
    | with_reducible apply State.setHnd_keeps
    | with_reducible apply State.hswApply_keeps
    | with_reducible apply State.actuate_keeps
    | with_reducible apply State.releaseItem_keeps
    | with_reducible apply State.ledApply_keeps
    | with_reducible apply State.latchChain_keeps
    | with_reducible apply State.doutApply_keeps
    | with_reducible apply ite_keeps
    | split
    | dsimp only

theorem State.commitEdge_keeps {s r : State} {hs : List Nat} (h : s.Keeps r) : s.Keeps (State.commitEdge r hs) := by
  unfold State.commitEdge
  repeat' first
    | with_reducible assumption
    | intro _
    | with_reducible apply State.put_keeps
    | with_reducible apply State.each_keeps
    | with_reducible apply State.settle_keeps
    | with_reducible apply State.endItem_keeps
    | with_reducible apply State.refuseHandles_keeps
    | with_reducible apply State.boostEdge_keeps
    | with_reducible apply State.resumeWindows_keeps
    | with_reducible apply State.passToSpares_keeps
    | with_reducible apply State.holdEnd_keeps
    | with_reducible apply State.itemEdge_keeps
    | with_reducible apply foldl_keeps
    | with_reducible apply foldl_keepsFst
    | exact KeepsFst.pair (by with_reducible assumption)
    | with_reducible apply ite_keeps

theorem State.noticeRx_keeps {s r : State} {port : Nat} {n : Notice} (h : s.Keeps r) : s.Keeps (State.noticeRx r port n) := by
  unfold State.noticeRx
  repeat' first
    | with_reducible assumption
    | intro _
    | with_reducible apply State.put_keeps
    | with_reducible apply State.raiseBit_keeps
    | with_reducible apply State.each_keeps
    | with_reducible apply State.finishChecks_keeps
    | with_reducible apply ite_keeps

theorem State.cancelHandle_keeps {s r : State} {h : Nat} (h' : s.Keeps r) : s.Keeps (State.cancelHandle r h) := by
  unfold State.cancelHandle
  repeat' first
    | with_reducible assumption
    | intro _
    | with_reducible apply State.setHnd_keeps
    | with_reducible apply State.refuseAll_keeps
    | with_reducible apply State.refuseHandles_keeps
    | with_reducible apply ite_keeps
    | fail_if_no_progress with_reducible apply State.Keeps.mk'

theorem State.txnOwnerReset_keeps {s r : State} {ep : Nat} (h : s.Keeps r) : s.Keeps (State.txnOwnerReset r ep) := by
  unfold State.txnOwnerReset
  repeat' first
    | with_reducible assumption
    | intro _
    | with_reducible apply State.each_keeps
    | with_reducible apply State.setHnd_keeps
    | with_reducible apply State.freeHandle_keeps
    | with_reducible apply State.refuseHandles_keeps
    | with_reducible apply ite_keeps

theorem State.faultRefuse_keeps {s r : State} (h : s.Keeps r) : s.Keeps (State.faultRefuse r) := by
  unfold State.faultRefuse
  repeat' first
    | with_reducible assumption
    | with_reducible apply State.refuseHandles_keeps

theorem State.counterEventTxn_keeps {s r : State} {g : Nat} {sel : Nat} (h : s.Keeps r) : s.Keeps (State.counterEventTxn r g sel) := by
  unfold State.counterEventTxn
  repeat' first
    | with_reducible assumption
    | intro _
    | with_reducible apply State.each_keeps
    | with_reducible apply State.setHnd_keeps
    | with_reducible apply ite_keeps

theorem State.gtOut_keeps {s r : State} {g : Nat} {level : Bool} (h : s.Keeps r) : s.Keeps (State.gtOut r g level) := by
  unfold State.gtOut
  repeat' first
    | with_reducible assumption
    | intro _
    | with_reducible apply State.putB_keeps
    | with_reducible apply ite_keeps
    | fail_if_no_progress with_reducible apply State.Keeps.mk'

theorem State.gtRecompute_keeps {s r : State} {g : Nat} (h : s.Keeps r) : s.Keeps (State.gtRecompute r g) := by
  unfold State.gtRecompute
  repeat' first
    | with_reducible assumption
    | with_reducible apply State.gtOut_keeps

theorem State.gtMatch_keeps {s r : State} {g : Nat} (h : s.Keeps r) : s.Keeps (State.gtMatch r g) := by
  unfold State.gtMatch
  repeat' first
    | with_reducible assumption
    | with_reducible apply State.gtRecompute_keeps
    | with_reducible apply ite_keeps

theorem State.gtEvent_keeps {s r : State} {g : Nat} {e : Nat} (h : s.Keeps r) : s.Keeps (State.gtEvent r g e) := by
  unfold State.gtEvent
  repeat' first
    | with_reducible assumption
    | intro _
    | with_reducible apply State.raiseBit_keeps
    | with_reducible apply State.each_keeps
    | with_reducible apply State.setAdc_keeps
    | with_reducible apply State.setCtr_keeps
    | with_reducible apply State.counterEventTxn_keeps
    | with_reducible apply ite_keeps

theorem State.gtLoad_keeps {s r : State} {g : Nat} (h : s.Keeps r) : s.Keeps (State.gtLoad r g) := by
  unfold State.gtLoad
  repeat' first
    | with_reducible assumption
    | with_reducible apply State.setCtr_keeps

theorem State.gtTick_keeps {s r : State} {g : Nat} (h : s.Keeps r) : s.Keeps (State.gtTick r g) := by
  unfold State.gtTick
  repeat' first
    | with_reducible assumption
    | intro _
    | with_reducible apply State.setReg_keeps
    | with_reducible apply State.each_keeps
    | with_reducible apply State.gtOut_keeps
    | with_reducible apply State.gtRecompute_keeps
    | with_reducible apply State.gtEvent_keeps
    | with_reducible apply State.gtLoad_keeps
    | with_reducible apply ite_keeps

theorem State.gtApply_keeps {s r : State} {g : Nat} {acts : List Nat} (h : s.Keeps r) : s.Keeps (State.gtApply r g acts) := by
  unfold State.gtApply
  repeat' first
    | with_reducible assumption
    | with_reducible apply State.setReg_keeps
    | with_reducible apply State.putB_keeps
    | with_reducible apply State.raiseBit_keeps
    | with_reducible apply State.setCtr_keeps
    | with_reducible apply State.gtOut_keeps
    | with_reducible apply State.gtRecompute_keeps
    | with_reducible apply ite_keeps

theorem State.gtCapture_keeps {s r : State} {g : Nat} (h : s.Keeps r) : s.Keeps (State.gtCapture r g) := by
  unfold State.gtCapture
  repeat' first
    | with_reducible assumption
    | with_reducible apply State.raiseBit_keeps
    | with_reducible apply State.setCtr_keeps
    | with_reducible apply ite_keeps

theorem State.gtTake_keeps {s r : State} {g : Nat} (h : s.Keeps r) : s.Keeps (State.gtTake r g) := by
  unfold State.gtTake
  repeat' first
    | with_reducible assumption
    | with_reducible apply State.setCtr_keeps

theorem State.gtRequest_keeps {s r : State} {g : Nat} {acts : List Nat} (h : s.Keeps r) : s.Keeps (State.gtRequest r g acts) := by
  unfold State.gtRequest
  repeat' first
    | with_reducible assumption
    | with_reducible apply State.setCtr_keeps

theorem State.gtCapNow_keeps {s r : State} {g : Nat} (h : s.Keeps r) : s.Keeps (State.gtCapNow r g) := by
  unfold State.gtCapNow
  repeat' first
    | with_reducible assumption
    | with_reducible apply State.setCtr_keeps

theorem State.gtEdgeWith_keeps {s r : State} {g : Nat} {w : GtDue} (h : s.Keeps r) : s.Keeps (State.gtEdgeWith r g w) := by
  unfold State.gtEdgeWith
  repeat' first
    | with_reducible assumption
    | intro _
    | with_reducible apply State.when_keeps
    | with_reducible apply State.setCtr_keeps
    | with_reducible apply State.gtTick_keeps
    | with_reducible apply State.gtApply_keeps
    | with_reducible apply State.gtCapture_keeps
    | with_reducible apply ite_keeps

theorem State.gtEdge_keeps {s r : State} {g : Nat} (h : s.Keeps r) : s.Keeps (State.gtEdge r g) := by
  unfold State.gtEdge
  repeat' first
    | with_reducible assumption
    | with_reducible apply State.gtTake_keeps
    | with_reducible apply State.gtEdgeWith_keeps

theorem State.gtEdgeAll_keeps {s r : State} (h : s.Keeps r) : s.Keeps (State.gtEdgeAll r) := by
  unfold State.gtEdgeAll
  repeat' first
    | with_reducible assumption
    | intro _
    | with_reducible apply State.each_keeps
    | with_reducible apply State.gtTake_keeps
    | with_reducible apply State.gtEdgeWith_keeps

theorem State.gtStopAll_keeps {s r : State} (h : s.Keeps r) : s.Keeps (State.gtStopAll r) := by
  unfold State.gtStopAll
  repeat' first
    | with_reducible assumption
    | intro _
    | with_reducible apply State.putB_keeps
    | with_reducible apply State.each_keeps
    | with_reducible apply State.setCtr_keeps
    | fail_if_no_progress with_reducible apply State.Keeps.mk'

theorem State.gtMakeUp_keeps {s r : State} {g : Nat} {e : Nat} (h : s.Keeps r) : s.Keeps (State.gtMakeUp r g e) := by
  unfold State.gtMakeUp
  repeat' first
    | with_reducible assumption
    | with_reducible apply State.setReg_keeps
    | with_reducible apply State.put_keeps
    | with_reducible apply State.setCtr_keeps
    | with_reducible apply State.gtRecompute_keeps
    | with_reducible apply State.gtLoad_keeps
    | with_reducible apply ite_keeps
    | with_reducible apply ite_keepsFst
    | with_reducible apply KeepsFst.fst
    | fail_if_no_progress with_reducible apply State.Keeps.mk'
    | with_reducible apply KeepsFst.mk

theorem State.gtResumeAll_keeps {s r : State} {n : Nat} (h : s.Keeps r) : s.Keeps (State.gtResumeAll r n) := by
  unfold State.gtResumeAll
  repeat' first
    | with_reducible assumption
    | intro _
    | with_reducible apply State.raiseBit_keeps
    | with_reducible apply State.each_keeps
    | with_reducible apply State.when_keeps
    | with_reducible apply State.setCtr_keeps
    | with_reducible apply State.gtMakeUp_keeps
    | with_reducible apply ite_keeps

theorem State.setGtAvail_keeps {s r : State} {b : Bool} (h : s.Keeps r) : s.Keeps (State.setGtAvail r b) := by
  unfold State.setGtAvail
  repeat' first
    | with_reducible assumption
    | with_reducible apply State.hswEvalAll_keeps
    | fail_if_no_progress with_reducible apply State.Keeps.mk'

theorem State.setNtuExt_keeps {s r : State} {v : BitVec 64} (h : s.Keeps r) : s.Keeps (State.setNtuExt r v) := by
  unfold State.setNtuExt
  repeat' first
    | with_reducible assumption
    | intro _
    | with_reducible apply State.setReg_keeps
    | with_reducible apply State.raiseBit_keeps
    | with_reducible apply State.when_keeps

theorem State.setSlew_keeps {s r : State} {x : Int} (h : s.Keeps r) : s.Keeps (State.setSlew r x) := by
  unfold State.setSlew
  repeat' first
    | with_reducible assumption
    | with_reducible apply State.put_keeps
    | with_reducible apply ite_keeps
    | fail_if_no_progress with_reducible apply State.Keeps.mk'

theorem State.ntuEdge_keeps {s r : State} (h : s.Keeps r) : s.Keeps (State.ntuEdge r) := by
  unfold State.ntuEdge
  repeat' first
    | with_reducible assumption
    | with_reducible apply State.raiseBit_keeps
    | with_reducible apply State.setNtuExt_keeps
    | with_reducible apply State.setSlew_keeps
    | with_reducible apply ite_keeps
    | split
    | dsimp only
    | fail_if_no_progress with_reducible apply State.Keeps.mk'

theorem State.clearSync_keeps {s r : State} (h : s.Keeps r) : s.Keeps (State.clearSync r) := by
  unfold State.clearSync
  repeat' first
    | with_reducible assumption
    | with_reducible apply State.putB_keeps

theorem State.ntuWake_keeps {s r : State} {n : Nat} (h : s.Keeps r) : s.Keeps (State.ntuWake r n) := by
  unfold State.ntuWake
  repeat' first
    | with_reducible assumption
    | with_reducible apply State.setNtuExt_keeps
    | with_reducible apply State.clearSync_keeps

theorem State.ntuDisarm_keeps {s r : State} (h : s.Keeps r) : s.Keeps (State.ntuDisarm r) := by
  unfold State.ntuDisarm
  repeat' first
    | with_reducible assumption
    | intro _
    | with_reducible apply State.putB_keeps
    | with_reducible apply State.each_keeps
    | fail_if_no_progress with_reducible apply State.Keeps.mk'

theorem State.ntuCapture_keeps {s r : State} {k : Nat} (h : s.Keeps r) : s.Keeps (State.ntuCapture r k) := by
  unfold State.ntuCapture
  repeat' first
    | with_reducible assumption
    | with_reducible apply State.raiseBit_keeps
    | with_reducible apply ite_keeps
    | fail_if_no_progress with_reducible apply State.Keeps.mk'

end Sys2Proof.Machine
end

