-- ==== Sys2Proof/Laws/Keeps05.lean ====
section
/-!
SUPPORT. What the operations and meanings of Machine/Shadow, MbxOps, MemOps, CanOps keep, one lemma each (State.Keeps).
-/

namespace Sys2Proof.Machine

theorem State.busError_keeps {s r : State} (h : s.Keeps r) : s.Keeps (State.busError r) := by
  unfold State.busError
  repeat' first
    | with_reducible assumption
    | fail_if_no_progress with_reducible apply State.Keeps.mk'

theorem State.access_keeps {s r : State} {m : Master} {a : Nat} {store : Option (BitVec 64)} {f : State → State} (h : s.Keeps r) (hf : ∀ t, s.Keeps t → s.Keeps (f t)) : s.Keeps (State.access r m a store f) := by
  unfold State.access
  repeat' first
    | with_reducible assumption
    | intro _
    | with_reducible apply State.busError_keeps
    | with_reducible apply hf
    | with_reducible apply ite_keeps
    | fail_if_no_progress with_reducible apply State.Keeps.mk'

theorem State.splitRead_keeps {s r : State} {m : Master} {a : Nat} {acc : Access} {v : BitVec 64} (h : s.Keeps r) : s.Keeps (State.splitRead r m a acc v) := by
  unfold State.splitRead
  repeat' first
    | with_reducible assumption
    | with_reducible apply State.answer_keeps
    | split
    | dsimp only
    | fail_if_no_progress with_reducible apply State.Keeps.mk'

theorem State.splitWrite_keeps {s r : State} {m : Master} {a : Nat} {acc : Access} {cur : BitVec 64} {v : BitVec 64} (h : s.Keeps r) : KeepsFst s (State.splitWrite r m a acc cur v) := by
  unfold State.splitWrite
  repeat' first
    | with_reducible assumption
    | split
    | dsimp only
    | fail_if_no_progress with_reducible apply State.Keeps.mk'
    | with_reducible apply KeepsFst.mk

theorem State.splitWrite_keeps' {s r t : State} {m : Master} {a : Nat} {acc : Access} {cur : BitVec 64} {v : BitVec 64} {y : Option (BitVec 64)} (e : State.splitWrite r m a acc cur v = (t, y)) (h : s.Keeps r) :
    s.Keeps t :=
  (State.splitWrite_keeps h).elim e

theorem State.splitRefuse_keeps {s r : State} {m : Master} {a : Nat} {acc : Access} {v : BitVec 64} {refuse : State → State} (h : s.Keeps r) (hrefuse : ∀ t, s.Keeps t → s.Keeps (refuse t)) : s.Keeps (State.splitRefuse r m a acc v refuse) := by
  unfold State.splitRefuse
  repeat' first
    | with_reducible assumption
    | intro _
    | with_reducible apply State.splitWrite_keeps
    | with_reducible refine State.splitWrite_keeps' (by with_reducible assumption) ?_
    | with_reducible apply hrefuse
    | with_reducible apply KeepsFst.fst
    | split
    | dsimp only
    | fail_if_no_progress with_reducible apply State.Keeps.mk'

theorem State.setSide_keeps {s r : State} {m : Nat} {k : Nat} {x : MboxSide} (h : s.Keeps r) : s.Keeps (State.setSide r m k x) := by
  unfold State.setSide
  repeat' first
    | with_reducible assumption
    | fail_if_no_progress with_reducible apply State.Keeps.mk'

theorem State.setLk_keeps {s r : State} {k : Nat} {x : Lock} (h : s.Keeps r) : s.Keeps (State.setLk r k x) := by
  unfold State.setLk
  repeat' first
    | with_reducible assumption
    | fail_if_no_progress with_reducible apply State.Keeps.mk'

theorem State.setCore_keeps {s r : State} {e : Nat} {x : Core} (h : s.Keeps r) (hx : Snd s x) : s.Keeps (r.setCore e x) :=
  ⟨h.pending, h.now, h.sent, h.freeCtr, fun c => ⟨(h.canon c).regs, (h.canon c).mem, (h.canon c).flash⟩, fun l k => by
    by_cases he : k = e
    · subst he; simpa [State.core, State.setCore, tget_tset_self] using hx.sound l
    · simpa [State.core, State.setCore, tget_tset, he] using h.legal l k⟩

theorem State.mbxViol_keeps {s r : State} {e : Nat} (h : s.Keeps r) : s.Keeps (State.mbxViol r e) := by
  unfold State.mbxViol
  repeat' first
    | with_reducible assumption
    | with_reducible apply State.put_keeps
    | with_reducible apply State.raiseBit_keeps

theorem State.wackEnd_keeps {s r : State} {e : Nat} {m : Nat} {k : Nat} {result : Nat} (h : s.Keeps r) : s.Keeps (State.wackEnd r e m k result) := by
  unfold State.wackEnd
  repeat' first
    | with_reducible assumption
    | with_reducible apply State.setSide_keeps
    | with_reducible apply State.setCore_keeps
    | with_reducible apply State.wack_keeps
    | with_reducible apply Core.writeD_snd
    | with_reducible apply Core.advance_snd
    | intro _
    | with_reducible apply State.Keeps.snd
    | with_reducible apply ite_snd
    | with_reducible apply Snd.mk'
    | with_reducible apply Snd.reset
    | with_reducible apply Snd.out
    | with_reducible apply Snd.psrWrite
    | dsimp only
    | split

theorem State.mbxFinal_keeps {s r : State} {m : Nat} {k : Nat} {tag : Nat} {code : Nat} (h : s.Keeps r) : s.Keeps (State.mbxFinal r m k tag code) := by
  unfold State.mbxFinal
  repeat' first
    | with_reducible assumption
    | intro _
    | with_reducible apply State.each_keeps
    | with_reducible apply State.when_keeps
    | with_reducible apply State.setSide_keeps
    | with_reducible apply State.wackEnd_keeps
    | with_reducible apply ite_keeps

theorem State.crossed_keeps {s r : State} {m : Nat} {k : Nat} (h : s.Keeps r) : s.Keeps (State.crossed r m k) := by
  unfold State.crossed
  repeat' first
    | with_reducible assumption
    | with_reducible apply State.setSide_keeps
    | with_reducible apply State.wackEnd_keeps
    | with_reducible apply ite_keeps
    | split

theorem State.mbxPost_keeps {s r : State} {m : Nat} {k : Nat} {w : BitVec 64} (h : s.Keeps r) : KeepsFst s (State.mbxPost r m k w) := by
  unfold State.mbxPost
  repeat' first
    | with_reducible assumption
    | with_reducible apply State.setSide_keeps
    | with_reducible apply ite_keeps
    | with_reducible apply ite_keepsFst
    | fail_if_no_progress with_reducible apply State.Keeps.mk'
    | with_reducible apply KeepsFst.mk

theorem State.mbxPost_keeps' {s r t : State} {m : Nat} {k : Nat} {w : BitVec 64} {y : Nat} (e : State.mbxPost r m k w = (t, y)) (h : s.Keeps r) :
    s.Keeps t :=
  (State.mbxPost_keeps h).elim e

theorem State.mbxPop_keeps {s r : State} {m : Nat} {k : Nat} (h : s.Keeps r) : KeepsFst s (State.mbxPop r m k) := by
  unfold State.mbxPop
  repeat' first
    | with_reducible assumption
    | intro _
    | with_reducible apply State.setSide_keeps
    | with_reducible apply ite_keeps
    | with_reducible apply ite_keepsFst
    | split
    | dsimp only
    | fail_if_no_progress with_reducible apply State.Keeps.mk'
    | with_reducible apply KeepsFst.mk

theorem State.mbxPop_keeps' {s r t : State} {m : Nat} {k : Nat} {y : BitVec 64} (e : State.mbxPop r m k = (t, y)) (h : s.Keeps r) :
    s.Keeps t :=
  (State.mbxPop_keeps h).elim e

theorem State.mbxAckWord_keeps {s r : State} {m : Nat} {k : Nat} (h : s.Keeps r) : KeepsFst s (State.mbxAckWord r m k) := by
  unfold State.mbxAckWord
  repeat' first
    | with_reducible assumption
    | with_reducible apply State.setSide_keeps
    | with_reducible apply State.mbxFinal_keeps
    | with_reducible apply ite_keeps
    | with_reducible apply ite_keepsFst
    | split
    | dsimp only
    | fail_if_no_progress with_reducible apply State.Keeps.mk'
    | with_reducible apply KeepsFst.mk

theorem State.mbxAckWord_keeps' {s r t : State} {m : Nat} {k : Nat} {y : Bool} (e : State.mbxAckWord r m k = (t, y)) (h : s.Keeps r) :
    s.Keeps t :=
  (State.mbxAckWord_keeps h).elim e

theorem State.lockRelease_keeps {s r : State} {k : Nat} (h : s.Keeps r) : s.Keeps (State.lockRelease r k) := by
  unfold State.lockRelease
  repeat' first
    | with_reducible assumption
    | intro _
    | with_reducible apply State.each_keeps
    | with_reducible apply State.setLk_keeps
    | fail_if_no_progress with_reducible apply State.Keeps.mk'

theorem State.mbxAbort_keeps {s r : State} {m : Nat} {k : Nat} (h : s.Keeps r) : s.Keeps (State.mbxAbort r m k) := by
  unfold State.mbxAbort
  repeat' first
    | with_reducible assumption
    | intro _
    | with_reducible apply State.each_keeps
    | with_reducible apply State.setSide_keeps
    | with_reducible apply State.mbxFinal_keeps

theorem State.mbxReset_keeps {s r : State} {e : Nat} (h : s.Keeps r) : s.Keeps (State.mbxReset r e) := by
  unfold State.mbxReset
  repeat' first
    | with_reducible assumption
    | intro _
    | with_reducible apply State.each_keeps
    | with_reducible apply State.when_keeps
    | with_reducible apply State.setSide_keeps
    | with_reducible apply State.lockRelease_keeps
    | with_reducible apply State.mbxAbort_keeps
    | with_reducible apply ite_keeps

theorem State.setWord_keeps {s r : State} {a : Nat} {v : Nat} (h : s.Keeps r) : s.Keeps (State.setWord r a v) := by
  unfold State.setWord
  repeat' first
    | with_reducible assumption
    | with_reducible apply State.setBytes_keeps

theorem State.setNvBuf_keeps {s r : State} {e : Nat} {x : Option NvLine} (h : s.Keeps r) : s.Keeps (State.setNvBuf r e x) := by
  unfold State.setNvBuf
  repeat' first
    | with_reducible assumption
    | fail_if_no_progress with_reducible apply State.Keeps.mk'

theorem State.setNvBusy_keeps {s r : State} {e : Nat} {x : Option NvLine} (h : s.Keeps r) : s.Keeps (State.setNvBusy r e x) := by
  unfold State.setNvBusy
  repeat' first
    | with_reducible assumption
    | fail_if_no_progress with_reducible apply State.Keeps.mk'

theorem State.nvCommit_keeps {s r : State} {l : NvLine} (h : s.Keeps r) : s.Keeps (State.nvCommit r l) := by
  unfold State.nvCommit
  repeat' first
    | with_reducible assumption
    | intro _
    | with_reducible apply State.each_keeps
    | with_reducible apply State.setWord_keeps
    | split

theorem State.nvStore_keeps {s r : State} {e : Nat} {a : Nat} {v : BitVec 64} (h : s.Keeps r) : s.Keeps (State.nvStore r e a v) := by
  unfold State.nvStore
  repeat' first
    | with_reducible assumption
    | with_reducible apply State.setNvBuf_keeps
    | with_reducible apply State.setNvBusy_keeps
    | with_reducible apply State.nvCommit_keeps
    | with_reducible apply ite_keeps
    | split

theorem State.nvPut_keeps {s r : State} {x : NvHeld} (h : s.Keeps r) : s.Keeps (State.nvPut r x) := by
  unfold State.nvPut
  repeat' first
    | with_reducible assumption
    | with_reducible apply State.setBytes_keeps
    | split
    | dsimp only
    | fail_if_no_progress with_reducible apply State.Keeps.mk'

theorem State.nvSend_keeps {s r : State} {x : NvHeld} (h : s.Keeps r) : s.Keeps (State.nvSend r x) := by
  unfold State.nvSend
  repeat' first
    | with_reducible assumption
    | with_reducible apply State.nvPut_keeps
    | with_reducible apply ite_keeps
    | fail_if_no_progress with_reducible apply State.Keeps.mk'

theorem State.nvWrite_keeps {s r : State} {a : Nat} {l : List Byte} (h : s.Keeps r) : s.Keeps (State.nvWrite r a l) := by
  unfold State.nvWrite
  repeat' first
    | with_reducible assumption
    | with_reducible apply State.nvSend_keeps

theorem State.drawEcc_keeps {s r : State} (h : s.Keeps r) : KeepsFst s (State.drawEcc r) := by
  unfold State.drawEcc
  repeat' first
    | with_reducible assumption
    | with_reducible apply State.draw_keeps
    | with_reducible refine State.draw_keeps' (by with_reducible assumption) ?_
    | with_reducible apply ite_keeps
    | with_reducible apply ite_keepsFst
    | with_reducible apply KeepsFst.fst
    | with_reducible apply KeepsFst.mk

theorem State.drawEcc_keeps' {s r t : State} {y : MemErr} (e : State.drawEcc r = (t, y)) (h : s.Keeps r) :
    s.Keeps t :=
  (State.drawEcc_keeps h).elim e

theorem State.dmaEcc_keeps {s r : State} {e : MemErr} (h : s.Keeps r) : s.Keeps (State.dmaEcc r e) := by
  unfold State.dmaEcc
  repeat' first
    | with_reducible assumption
    | with_reducible apply State.raiseL_keeps
    | split

theorem State.sramRead_keeps {s r : State} (h : s.Keeps r) : KeepsFst s (State.sramRead r) := by
  unfold State.sramRead
  repeat' first
    | with_reducible assumption
    | with_reducible apply State.drawEcc_keeps
    | with_reducible refine State.drawEcc_keeps' (by with_reducible assumption) ?_
    | with_reducible apply State.dmaEcc_keeps
    | with_reducible apply KeepsFst.fst
    | with_reducible apply KeepsFst.mk

theorem State.sramRead_keeps' {s r t : State} {y : Bool} (e : State.sramRead r = (t, y)) (h : s.Keeps r) :
    s.Keeps t :=
  (State.sramRead_keeps h).elim e

theorem State.setCn_keeps {s r : State} {n : Nat} {x : CanChan} (h : s.Keeps r) : s.Keeps (State.setCn r n x) := by
  unfold State.setCn
  repeat' first
    | with_reducible assumption
    | fail_if_no_progress with_reducible apply State.Keeps.mk'

theorem State.canShow_keeps {s r : State} {n : Nat} (h : s.Keeps r) : s.Keeps (State.canShow r n) := by
  unfold State.canShow
  repeat' first
    | with_reducible assumption
    | with_reducible apply State.put_keeps
    | with_reducible apply State.putB_keeps

theorem State.canEnd_keeps {s r : State} {n : Nat} {k : Nat} {code : Nat} (h : s.Keeps r) : s.Keeps (State.canEnd r n k code) := by
  unfold State.canEnd
  repeat' first
    | with_reducible assumption
    | intro _
    | with_reducible apply State.put_keeps
    | with_reducible apply State.raiseBit_keeps
    | with_reducible apply State.when_keeps
    | with_reducible apply State.setCn_keeps

theorem State.canEndAll_keeps {s r : State} {n : Nat} {code : Nat} (h : s.Keeps r) : s.Keeps (State.canEndAll r n code) := by
  unfold State.canEndAll
  repeat' first
    | with_reducible assumption
    | intro _
    | with_reducible apply State.each_keeps
    | with_reducible apply State.setCn_keeps
    | with_reducible apply State.canEnd_keeps

theorem State.canSetMode_keeps {s r : State} {n : Nat} {mode : Nat} (h : s.Keeps r) : s.Keeps (State.canSetMode r n mode) := by
  unfold State.canSetMode
  repeat' first
    | with_reducible assumption
    | with_reducible apply State.setCn_keeps
    | with_reducible apply State.canShow_keeps
    | with_reducible apply State.canEndAll_keeps
    | with_reducible apply ite_keeps

theorem State.canForce_keeps {s r : State} {n : Nat} {mode : Nat} (h : s.Keeps r) : s.Keeps (State.canForce r n mode) := by
  unfold State.canForce
  repeat' first
    | with_reducible assumption
    | with_reducible apply State.put_keeps
    | with_reducible apply State.canSetMode_keeps

theorem State.canOwned_keeps {s r : State} {m : Master} {n : Nat} {f : State → State} (h : s.Keeps r) (hf : ∀ t, s.Keeps t → s.Keeps (f t)) : s.Keeps (State.canOwned r m n f) := by
  unfold State.canOwned
  repeat' first
    | with_reducible assumption
    | intro _
    | with_reducible apply State.raiseBit_keeps
    | with_reducible apply hf
    | with_reducible apply ite_keeps

theorem State.canModeWrite_keeps {s r : State} {n : Nat} {mode : Nat} (h : s.Keeps r) : s.Keeps (State.canModeWrite r n mode) := by
  unfold State.canModeWrite
  repeat' first
    | with_reducible assumption
    | with_reducible apply State.put_keeps
    | with_reducible apply State.raiseBit_keeps
    | with_reducible apply ite_keeps

theorem State.putFrame_keeps {s r : State} {a : Nat} {size : Nat} {f : CanFrame} (h : s.Keeps r) : s.Keeps (State.putFrame r a size f) := by
  unfold State.putFrame
  repeat' first
    | with_reducible assumption
    | with_reducible apply State.setWord_keeps
    | with_reducible apply State.setBytes_keeps

theorem State.canStoreAt_keeps {s r : State} {n : Nat} {k : Nat} {f : CanFrame} {stamp : Nat} (h : s.Keeps r) : s.Keeps (State.canStoreAt r n k f stamp) := by
  unfold State.canStoreAt
  repeat' first
    | with_reducible assumption
    | intro _
    | with_reducible apply State.put_keeps
    | with_reducible apply State.putB_keeps
    | with_reducible apply State.raiseBit_keeps
    | with_reducible apply State.incWrap_keeps
    | with_reducible apply State.when_keeps
    | with_reducible apply State.putFrame_keeps

theorem State.canStoreExpress_keeps {s r : State} {n : Nat} {f : CanFrame} {stamp : Nat} (h : s.Keeps r) : s.Keeps (State.canStoreExpress r n f stamp) := by
  unfold State.canStoreExpress
  repeat' first
    | with_reducible assumption
    | intro _
    | with_reducible apply State.put_keeps
    | with_reducible apply State.putB_keeps
    | with_reducible apply State.raiseBit_keeps
    | with_reducible apply State.incWrap_keeps
    | with_reducible apply State.when_keeps
    | with_reducible apply State.putFrame_keeps

theorem State.canStore_keeps {s r : State} {n : Nat} {f : CanFrame} {stamp : Nat} (h : s.Keeps r) : s.Keeps (State.canStore r n f stamp) := by
  unfold State.canStore
  repeat' first
    | with_reducible assumption
    | intro _
    | with_reducible apply State.incSat_keeps
    | with_reducible apply State.canStoreAt_keeps
    | with_reducible apply State.canStoreExpress_keeps
    | with_reducible apply ite_keeps
    | split
    | dsimp only

theorem State.canDamage_keeps {s r : State} {f : CanFrame} {e : MemErr} (h : s.Keeps r) : KeepsFst s (State.canDamage r f e) := by
  unfold State.canDamage
  repeat' first
    | with_reducible assumption
    | intro _
    | with_reducible apply State.drawn_keeps
    | with_reducible apply ite_keeps
    | with_reducible apply ite_keepsFst
    | fail_if_no_progress with_reducible apply State.Keeps.mk'
    | with_reducible apply KeepsFst.mk

theorem State.canDamage_keeps' {s r t : State} {f : CanFrame} {e : MemErr} {y : CanFrame} (e : State.canDamage r f e = (t, y)) (h : s.Keeps r) :
    s.Keeps t :=
  (State.canDamage_keeps h).elim e

theorem State.canTxreq_keeps {s r : State} {n : Nat} {k : Nat} {e : MemErr} (h : s.Keeps r) : s.Keeps (State.canTxreq r n k e) := by
  unfold State.canTxreq
  repeat' first
    | with_reducible assumption
    | intro _
    | with_reducible apply State.put_keeps
    | with_reducible apply State.raiseBit_keeps
    | with_reducible apply State.dmaEcc_keeps
    | with_reducible apply State.setCn_keeps
    | with_reducible apply State.canEnd_keeps
    | with_reducible apply State.draw_keeps
    | with_reducible refine State.draw_keeps' (by with_reducible assumption) ?_
    | with_reducible apply ite_keeps

theorem State.canCancel_keeps {s r : State} {n : Nat} {k : Nat} (h : s.Keeps r) : s.Keeps (State.canCancel r n k) := by
  unfold State.canCancel
  repeat' first
    | with_reducible assumption
    | with_reducible apply State.setCn_keeps
    | with_reducible apply State.canEnd_keeps
    | with_reducible apply ite_keeps
    | split

theorem State.canFailed_keeps {s r : State} {n : Nat} {x : CanTx} (h : s.Keeps r) : s.Keeps (State.canFailed r n x) := by
  unfold State.canFailed
  repeat' first
    | with_reducible assumption
    | with_reducible apply State.put_keeps
    | with_reducible apply State.setCn_keeps
    | with_reducible apply State.canEnd_keeps
    | with_reducible apply ite_keeps
    | split

theorem State.tdcShow_keeps {s r : State} {n : Nat} (h : s.Keeps r) : s.Keeps (State.tdcShow r n) := by
  unfold State.tdcShow
  repeat' first
    | with_reducible assumption
    | intro _
    | with_reducible apply State.put_keeps
    | with_reducible apply State.when_keeps
    | split

theorem State.canAttemptEnds_keeps {s r : State} {n : Nat} {inArb : Bool} (h : s.Keeps r) : s.Keeps (State.canAttemptEnds r n inArb) := by
  unfold State.canAttemptEnds
  repeat' first
    | with_reducible assumption
    | intro _
    | with_reducible apply State.put_keeps
    | with_reducible apply State.when_keeps
    | with_reducible apply State.setCn_keeps
    | with_reducible apply State.canEnd_keeps
    | with_reducible apply State.canFailed_keeps
    | with_reducible apply State.tdcShow_keeps
    | with_reducible apply ite_keeps
    | split
    | dsimp only

theorem State.canPassive_keeps {s r : State} {n : Nat} (h : s.Keeps r) : s.Keeps (State.canPassive r n) := by
  unfold State.canPassive
  repeat' first
    | with_reducible assumption
    | with_reducible apply State.putB_keeps

theorem State.canBusOff_keeps {s r : State} {n : Nat} (h : s.Keeps r) : s.Keeps (State.canBusOff r n) := by
  unfold State.canBusOff
  repeat' first
    | with_reducible assumption
    | with_reducible apply State.put_keeps
    | with_reducible apply State.raiseBit_keeps
    | with_reducible apply State.raiseL_keeps
    | with_reducible apply State.setCn_keeps
    | with_reducible apply State.canShow_keeps
    | with_reducible apply State.canEndAll_keeps

theorem State.canCount_keeps {s r : State} {n : Nat} {tec : Nat} {rec_ : Nat} (h : s.Keeps r) : s.Keeps (State.canCount r n tec rec_) := by
  unfold State.canCount
  repeat' first
    | with_reducible assumption
    | with_reducible apply State.put_keeps
    | with_reducible apply State.canPassive_keeps
    | with_reducible apply State.canBusOff_keeps
    | with_reducible apply ite_keeps

theorem State.canRxGood_keeps {s r : State} {n : Nat} (h : s.Keeps r) : s.Keeps (State.canRxGood r n) := by
  unfold State.canRxGood
  repeat' first
    | with_reducible assumption
    | with_reducible apply State.put_keeps
    | with_reducible apply State.canPassive_keeps
    | with_reducible apply State.draw_keeps
    | with_reducible refine State.draw_keeps' (by with_reducible assumption) ?_
    | with_reducible apply ite_keeps

theorem State.abdNext_keeps {s r : State} {n : Nat} (h : s.Keeps r) : s.Keeps (State.abdNext r n) := by
  unfold State.abdNext
  repeat' first
    | with_reducible assumption
    | with_reducible apply State.raiseBit_keeps
    | with_reducible apply State.setCn_keeps
    | with_reducible apply ite_keeps

theorem State.abdLock_keeps {s r : State} {n : Nat} (h : s.Keeps r) : s.Keeps (State.abdLock r n) := by
  unfold State.abdLock
  repeat' first
    | with_reducible assumption
    | with_reducible apply State.setReg_keeps
    | with_reducible apply State.put_keeps
    | with_reducible apply State.raiseBit_keeps
    | with_reducible apply State.canForce_keeps

end Sys2Proof.Machine
end

