-- ==== Sys2Proof/Laws/Keeps06.lean ====
section
/-!
SUPPORT. What the operations and meanings of Machine/LinOps, NslOps, EthOps keep, one lemma each (State.Keeps).
-/

namespace Sys2Proof.Machine

theorem State.setLn_keeps {s r : State} {n : Nat} {x : LinChan} (h : s.Keeps r) : s.Keeps (State.setLn r n x) := by
  unfold State.setLn
  repeat' first
    | with_reducible assumption
    | fail_if_no_progress with_reducible apply State.Keeps.mk'

theorem State.linOwned_keeps {s r : State} {m : Master} {n : Nat} {f : State → State} (h : s.Keeps r) (hf : ∀ t, s.Keeps t → s.Keeps (f t)) : s.Keeps (State.linOwned r m n f) := by
  unfold State.linOwned
  repeat' first
    | with_reducible assumption
    | intro _
    | with_reducible apply State.raiseBit_keeps
    | with_reducible apply hf
    | with_reducible apply ite_keeps

theorem State.linReqEnd_keeps {s r : State} {n : Nat} {i : Nat} {code : Nat} (h : s.Keeps r) : s.Keeps (State.linReqEnd r n i code) := by
  unfold State.linReqEnd
  repeat' first
    | with_reducible assumption
    | intro _
    | with_reducible apply State.put_keeps
    | with_reducible apply State.raiseBit_keeps
    | with_reducible apply State.when_keeps
    | with_reducible apply State.setLn_keeps
    | with_reducible apply ite_keeps

theorem State.linErr_keeps {s r : State} {n : Nat} {i : Nat} {code : Nat} (h : s.Keeps r) : s.Keeps (State.linErr r n i code) := by
  unfold State.linErr
  repeat' first
    | with_reducible assumption
    | with_reducible apply State.put_keeps
    | with_reducible apply State.raiseBit_keeps

theorem State.linTxreq_keeps {s r : State} {n : Nat} {i : Nat} (h : s.Keeps r) : s.Keeps (State.linTxreq r n i) := by
  unfold State.linTxreq
  repeat' first
    | with_reducible assumption
    | intro _
    | with_reducible apply State.put_keeps
    | with_reducible apply State.raiseBit_keeps
    | with_reducible apply State.when_keeps
    | with_reducible apply State.setLn_keeps
    | with_reducible apply ite_keeps

theorem State.linSendHeader_keeps {s r : State} {n : Nat} {id : Nat} (h : s.Keeps r) : s.Keeps (State.linSendHeader r n id) := by
  unfold State.linSendHeader
  repeat' first
    | with_reducible assumption
    | with_reducible apply State.send_keeps
    | with_reducible apply State.setLn_keeps

theorem State.linAct_keeps {s r : State} {n : Nat} {id : Nat} {stamp : Nat} (h : s.Keeps r) : s.Keeps (State.linAct r n id stamp) := by
  unfold State.linAct
  repeat' first
    | with_reducible assumption
    | with_reducible apply State.put_keeps
    | with_reducible apply State.send_keeps
    | with_reducible apply State.setLn_keeps
    | with_reducible apply ite_keeps

theorem State.linEnterSleep_keeps {s r : State} {n : Nat} (h : s.Keeps r) : s.Keeps (State.linEnterSleep r n) := by
  unfold State.linEnterSleep
  repeat' first
    | with_reducible assumption
    | with_reducible apply State.put_keeps
    | with_reducible apply State.raiseBit_keeps
    | with_reducible apply State.setLn_keeps

theorem State.linTackOpen_keeps {s r : State} {n : Nat} (h : s.Keeps r) : s.Keeps (State.linTackOpen r n) := by
  unfold State.linTackOpen
  repeat' first
    | with_reducible assumption
    | with_reducible apply State.put_keeps
    | with_reducible apply State.setLn_keeps

theorem State.linSlot_keeps {s r : State} {n : Nat} {k : Nat} (h : s.Keeps r) : s.Keeps (State.linSlot r n k) := by
  unfold State.linSlot
  repeat' first
    | with_reducible assumption
    | with_reducible apply State.put_keeps
    | with_reducible apply State.setLn_keeps
    | with_reducible apply State.linSendHeader_keeps

theorem State.linSendSleep_keeps {s r : State} {n : Nat} (h : s.Keeps r) : s.Keeps (State.linSendSleep r n) := by
  unfold State.linSendSleep
  repeat' first
    | with_reducible assumption
    | with_reducible apply State.send_keeps
    | with_reducible apply State.linEnterSleep_keeps

theorem State.linTryStart_keeps {s r : State} {n : Nat} (h : s.Keeps r) : s.Keeps (State.linTryStart r n) := by
  unfold State.linTryStart
  repeat' first
    | with_reducible assumption
    | with_reducible apply State.setLn_keeps
    | with_reducible apply State.linSlot_keeps
    | with_reducible apply State.linSendSleep_keeps
    | with_reducible apply ite_keeps
    | split

theorem State.linBecomesActive_keeps {s r : State} {n : Nat} (h : s.Keeps r) : s.Keeps (State.linBecomesActive r n) := by
  unfold State.linBecomesActive
  repeat' first
    | with_reducible assumption
    | with_reducible apply State.put_keeps
    | with_reducible apply State.setLn_keeps
    | with_reducible apply State.linSendHeader_keeps
    | with_reducible apply State.linTryStart_keeps
    | with_reducible apply ite_keeps
    | split
    | dsimp only

theorem State.linBusFree_keeps {s r : State} {n : Nat} (h : s.Keeps r) : s.Keeps (State.linBusFree r n) := by
  unfold State.linBusFree
  repeat' first
    | with_reducible assumption
    | intro _
    | with_reducible apply State.when_keeps
    | with_reducible apply State.linBecomesActive_keeps

theorem State.linPulse_keeps {s r : State} {n : Nat} (h : s.Keeps r) : s.Keeps (State.linPulse r n) := by
  unfold State.linPulse
  repeat' first
    | with_reducible assumption
    | with_reducible apply State.put_keeps
    | with_reducible apply State.send_keeps
    | with_reducible apply State.setLn_keeps
    | with_reducible apply State.linBecomesActive_keeps
    | with_reducible apply State.linWake_keeps
    | with_reducible apply ite_keeps

theorem State.linAnnounce_keeps {s r : State} {n : Nat} {id : Nat} (h : s.Keeps r) : s.Keeps (State.linAnnounce r n id) := by
  unfold State.linAnnounce
  repeat' first
    | with_reducible assumption
    | with_reducible apply State.setLn_keeps
    | with_reducible apply State.linBecomesActive_keeps
    | with_reducible apply State.linPulse_keeps
    | with_reducible apply ite_keeps

theorem State.setNet_keeps {s r : State} {m : Nat} {x : NslNet} (h : s.Keeps r) : s.Keeps (State.setNet r m x) := by
  unfold State.setNet
  repeat' first
    | with_reducible assumption
    | fail_if_no_progress with_reducible apply State.Keeps.mk'

theorem State.nslRenew_keeps {s r : State} {m : Nat} {node : Option Nat} (h : s.Keeps r) : s.Keeps (State.nslRenew r m node) := by
  unfold State.nslRenew
  repeat' first
    | with_reducible assumption
    | with_reducible apply State.raiseBit_keeps
    | with_reducible apply State.setNet_keeps

theorem State.nslFrame_keeps {s r : State} {m : Nat} {id : Nat} {ide : Bool} {data : List Byte} {own : Bool} (h : s.Keeps r) : s.Keeps (State.nslFrame r m id ide data own) := by
  unfold State.nslFrame
  repeat' first
    | with_reducible assumption
    | with_reducible apply State.nslRenew_keeps
    | with_reducible apply ite_keeps
    | split

theorem State.ledgerClear_keeps {s r : State} {m : Nat} (h : s.Keeps r) : s.Keeps (State.ledgerClear r m) := by
  unfold State.ledgerClear
  repeat' first
    | with_reducible assumption
    | with_reducible apply State.setNet_keeps

theorem State.nslSleep_keeps {s r : State} (h : s.Keeps r) : s.Keeps (State.nslSleep r) := by
  unfold State.nslSleep
  repeat' first
    | with_reducible assumption
    | intro _
    | with_reducible apply State.raiseBit_keeps
    | with_reducible apply State.each_keeps
    | with_reducible apply State.setCn_keeps
    | with_reducible apply State.canForce_keeps
    | with_reducible apply ite_keeps

theorem State.nslAnnounce_keeps {s r : State} {m : Nat} (h : s.Keeps r) : s.Keeps (State.nslAnnounce r m) := by
  unfold State.nslAnnounce
  repeat' first
    | with_reducible assumption
    | with_reducible apply State.drawEcc_keeps
    | with_reducible refine State.drawEcc_keeps' (by with_reducible assumption) ?_
    | with_reducible apply State.canTxreq_keeps
    | with_reducible apply State.linAnnounce_keeps
    | with_reducible apply ite_keeps
    | with_reducible apply ite_keepsFst
    | with_reducible apply KeepsFst.fst

theorem State.nslAbandon_keeps {s r : State} (h : s.Keeps r) : s.Keeps (State.nslAbandon r) := by
  unfold State.nslAbandon
  repeat' first
    | with_reducible assumption
    | intro _
    | with_reducible apply State.putB_keeps
    | with_reducible apply State.raiseBit_keeps
    | with_reducible apply State.each_keeps
    | with_reducible apply State.when_keeps
    | with_reducible apply State.setCn_keeps
    | with_reducible apply State.canShow_keeps
    | with_reducible apply State.canForce_keeps
    | with_reducible apply State.nslAnnounce_keeps
    | with_reducible apply ite_keeps
    | split

theorem State.nslWakeRecord_keeps {s r : State} {m : Nat} {kind : Nat} (h : s.Keeps r) : s.Keeps (State.nslWakeRecord r m kind) := by
  unfold State.nslWakeRecord
  repeat' first
    | with_reducible assumption
    | with_reducible apply State.put_keeps
    | with_reducible apply State.putB_keeps
    | with_reducible apply State.raiseBit_keeps
    | with_reducible apply ite_keeps

theorem State.setEport_keeps {s r : State} {p : Nat} {x : EthPort} (h : s.Keeps r) : s.Keeps (State.setEport r p x) := by
  unfold State.setEport
  repeat' first
    | with_reducible assumption
    | fail_if_no_progress with_reducible apply State.Keeps.mk'

theorem State.ethOut_keeps {s r : State} {p : Nat} {pcp : Nat} {f : EthFrame} {desc : Option Nat} (h : s.Keeps r) : s.Keeps (State.ethOut r p pcp f desc) := by
  unfold State.ethOut
  repeat' first
    | with_reducible assumption
    | with_reducible apply State.setEport_keeps
    | with_reducible apply Core.setQ_snd
    | intro _
    | with_reducible apply State.Keeps.snd
    | with_reducible apply ite_snd
    | with_reducible apply Snd.mk'
    | with_reducible apply Snd.reset
    | with_reducible apply Snd.out
    | with_reducible apply Snd.psrWrite
    | dsimp only
    | with_reducible apply ite_keeps

theorem State.dmaWrite_keeps {s r : State} {a : Nat} {l : List Byte} (h : s.Keeps r) : s.Keeps (State.dmaWrite r a l) := by
  unfold State.dmaWrite
  repeat' first
    | with_reducible assumption
    | with_reducible apply State.setBytes_keeps
    | with_reducible apply ite_keeps

theorem State.txReturn_keeps {s r : State} {d : Nat} {istat : Nat} {stamp : Option Nat} (h : s.Keeps r) : s.Keeps (State.txReturn r d istat stamp) := by
  unfold State.txReturn
  repeat' first
    | with_reducible assumption
    | with_reducible apply State.raiseBit_keeps
    | with_reducible apply State.dmaWrite_keeps
    | split

theorem State.stampFail_keeps {s r : State} {istat : Nat} {p : Nat} (h : s.Keeps r) : s.Keeps (State.stampFail r istat p) := by
  unfold State.stampFail
  repeat' first
    | with_reducible assumption
    | intro _
    | with_reducible apply State.each_keeps
    | with_reducible apply State.setEport_keeps
    | with_reducible apply State.txReturn_keeps

theorem State.txAdvance_keeps {s r : State} (h : s.Keeps r) : s.Keeps (State.txAdvance r) := by
  unfold State.txAdvance
  repeat' first
    | with_reducible assumption
    | with_reducible apply State.put_keeps

theorem State.txAbort_keeps {s r : State} {n : Nat} (h : s.Keeps r) : s.Keeps (State.txAbort n r) := by
  induction n generalizing r with
  | zero => exact h
  | succ n ih =>
    unfold State.txAbort
    have hr : s.Keeps r.sramRead.1 := State.sramRead_keeps h
    exact ite_keeps (ih (State.txAdvance_keeps (State.txReturn_keeps hr))) hr

theorem State.switchOff_keeps {s r : State} (h : s.Keeps r) : s.Keeps (State.switchOff r) := by
  unfold State.switchOff
  repeat' first
    | with_reducible assumption
    | intro _
    | with_reducible apply State.each_keeps
    | with_reducible apply State.stampFail_keeps
    | with_reducible apply State.txAbort_keeps

theorem State.linkWatch_keeps {s r : State} {f : State → State} (h : s.Keeps r) (hf : ∀ t, s.Keeps t → s.Keeps (f t)) : s.Keeps (State.linkWatch r f) := by
  unfold State.linkWatch
  repeat' first
    | with_reducible assumption
    | intro _
    | with_reducible apply State.raiseBit_keeps
    | with_reducible apply State.each_keeps
    | with_reducible apply State.when_keeps
    | with_reducible apply State.raiseL_keeps
    | with_reducible apply State.stampFail_keeps
    | with_reducible apply hf

theorem State.linksDown_keeps {s r : State} (h : s.Keeps r) : s.Keeps (State.linksDown r) := by
  unfold State.linksDown
  repeat' first
    | with_reducible assumption
    | intro _
    | with_reducible apply State.putB_keeps
    | with_reducible apply State.each_keeps

theorem State.plcaNext_keeps {s r : State} {p : Nat} (h : s.Keeps r) : s.Keeps (State.plcaNext r p) := by
  unfold State.plcaNext
  repeat' first
    | with_reducible assumption
    | intro _
    | with_reducible apply State.when_keeps
    | with_reducible apply State.send_keeps
    | with_reducible apply State.setEport_keeps
    | with_reducible apply ite_keeps

theorem State.ethBegin_keeps {s r : State} {p : Nat} {k : Nat} (h : s.Keeps r) : s.Keeps (State.ethBegin r p k) := by
  unfold State.ethBegin
  repeat' first
    | with_reducible assumption
    | intro _
    | with_reducible apply State.send_keeps
    | with_reducible apply State.setEport_keeps
    | with_reducible apply Core.setQ_snd
    | intro _
    | with_reducible apply State.Keeps.snd
    | with_reducible apply ite_snd
    | with_reducible apply Snd.mk'
    | with_reducible apply Snd.reset
    | with_reducible apply Snd.out
    | with_reducible apply Snd.psrWrite
    | dsimp only
    | split

theorem State.sfdTick_keeps {s r : State} {p : Nat} (h : s.Keeps r) : s.Keeps (State.sfdTick r p) := by
  unfold State.sfdTick
  repeat' first
    | with_reducible assumption
    | with_reducible apply State.setEport_keeps
    | with_reducible apply State.txReturn_keeps
    | with_reducible apply ite_keeps
    | split
    | dsimp only

theorem State.ethPortTick_keeps {s r : State} {p : Nat} (h : s.Keeps r) : s.Keeps (State.ethPortTick r p) := by
  unfold State.ethPortTick
  repeat' first
    | with_reducible assumption
    | intro _
    | with_reducible apply State.when_keeps
    | with_reducible apply State.setEport_keeps
    | with_reducible apply State.plcaNext_keeps
    | with_reducible apply State.ethBegin_keeps
    | with_reducible apply State.sfdTick_keeps
    | with_reducible apply ite_keeps
    | split

theorem State.ethTick_keeps {s r : State} (h : s.Keeps r) : s.Keeps (State.ethTick r) := by
  unfold State.ethTick
  repeat' first
    | with_reducible assumption
    | intro _
    | with_reducible apply State.each_keeps
    | with_reducible apply State.ethPortTick_keeps
    | with_reducible apply ite_keeps

end Sys2Proof.Machine
end

