-- ==== Sys2Proof/Laws/Keeps07.lean ====
section
/-!
SUPPORT. What the operations and meanings of Machine/CoreOps, KeyOps, AccOps, HandOps keep, one lemma each (State.Keeps).
-/

namespace Sys2Proof.Machine

theorem State.setEntry_keeps {s r : State} {e : Nat} {x : CoreEntry} (h : s.Keeps r) : s.Keeps (State.setEntry r e x) := by
  unfold State.setEntry
  repeat' first
    | with_reducible assumption
    | fail_if_no_progress with_reducible apply State.Keeps.mk'
    | exact .inl rfl
    | exact .inr rfl
    | with_reducible apply State.Keeps.mkCpu

theorem State.holdCore_keeps {s r : State} {e : Nat} (h : s.Keeps r) : s.Keeps (State.holdCore r e) := by
  unfold State.holdCore
  repeat' first
    | with_reducible assumption
    | intro _
    | with_reducible apply State.setCore_keeps
    | intro _
    | with_reducible apply State.Keeps.snd
    | with_reducible apply ite_snd
    | with_reducible apply Snd.mk'
    | with_reducible apply Snd.reset
    | with_reducible apply Snd.out
    | with_reducible apply Snd.psrWrite
    | dsimp only
    | fail_if_no_progress with_reducible apply State.Keeps.mk'

theorem State.releaseCore_keeps {s r : State} {e : Nat} (h : s.Keeps r) : s.Keeps (State.releaseCore r e) := by
  unfold State.releaseCore
  repeat' first
    | with_reducible assumption
    | with_reducible apply State.setCore_keeps
    | intro _
    | with_reducible apply State.Keeps.snd
    | with_reducible apply ite_snd
    | with_reducible apply Snd.mk'
    | with_reducible apply Snd.reset
    | with_reducible apply Snd.out
    | with_reducible apply Snd.psrWrite
    | dsimp only
    | with_reducible apply ite_keeps

theorem State.wdStart_keeps {s r : State} {k : Nat} (h : s.Keeps r) : s.Keeps (State.wdStart r k) := by
  unfold State.wdStart
  repeat' first
    | with_reducible assumption
    | with_reducible apply State.setWdog_keeps
    | with_reducible apply ite_keeps

theorem State.monitorReset_keeps {s r : State} (h : s.Keeps r) : s.Keeps (State.monitorReset r) := by
  unfold State.monitorReset
  repeat' first
    | with_reducible assumption
    | intro _
    | with_reducible apply State.put_keeps
    | split
    | dsimp only
    | fail_if_no_progress with_reducible apply State.Keeps.mk'

theorem State.endpointReset_keeps {s r : State} {e : Nat} (h : s.Keeps r) : s.Keeps (State.endpointReset r e) := by
  unfold State.endpointReset
  repeat' first
    | with_reducible assumption
    | intro _
    | with_reducible apply State.when_keeps
    | with_reducible apply State.txnOwnerReset_keeps
    | with_reducible apply State.mbxReset_keeps
    | with_reducible apply State.monitorReset_keeps

theorem State.wdRelease_keeps {s r : State} {e : Nat} (h : s.Keeps r) : s.Keeps (State.wdRelease r e) := by
  unfold State.wdRelease
  repeat' first
    | with_reducible assumption
    | intro _
    | with_reducible apply State.each_keeps
    | with_reducible apply State.when_keeps
    | with_reducible apply State.wdStart_keeps

theorem State.coreResetRun_keeps {s r : State} {e : Nat} (h : s.Keeps r) : s.Keeps (State.coreResetRun r e) := by
  unfold State.coreResetRun
  repeat' first
    | with_reducible assumption
    | with_reducible apply State.holdCore_keeps
    | with_reducible apply State.releaseCore_keeps
    | with_reducible apply State.endpointReset_keeps
    | with_reducible apply State.wdRelease_keeps
    | with_reducible apply ite_keeps

theorem State.keysShow_keeps {s r : State} (h : s.Keeps r) : s.Keeps (State.keysShow r) := by
  unfold State.keysShow
  repeat' first
    | with_reducible assumption
    | intro _
    | with_reducible apply State.put_keeps
    | with_reducible apply State.putB_keeps
    | with_reducible apply State.each_keeps

theorem State.setKeys_keeps {s r : State} {k : KeyStore} (h : s.Keeps r) : s.Keeps (State.setKeys r k) := by
  unfold State.setKeys
  repeat' first
    | with_reducible assumption
    | with_reducible apply State.keysShow_keeps
    | fail_if_no_progress with_reducible apply State.Keeps.mk'

theorem State.setPoll_keeps {s r : State} {p : Option Poll} (h : s.Keeps r) : s.Keeps (State.setPoll r p) := by
  unfold State.setPoll
  repeat' first
    | with_reducible assumption
    | fail_if_no_progress with_reducible apply State.Keeps.mk'

theorem State.setPend_keeps {s r : State} {p : Option Nat} (h : s.Keeps r) : s.Keeps (State.setPend r p) := by
  unfold State.setPend
  repeat' first
    | with_reducible assumption
    | with_reducible apply State.putB_keeps
    | fail_if_no_progress with_reducible apply State.Keeps.mk'

theorem State.accResult_keeps {s r : State} {code : Nat} {handle : Nat} {slot : Nat} {ninv : Nat} {nver : Nat} {pollNo : Nat} {dist : Nat} (h : s.Keeps r) : s.Keeps (State.accResult r code handle slot ninv nver pollNo dist) := by
  unfold State.accResult
  repeat' first
    | with_reducible assumption
    | with_reducible apply State.put_keeps
    | with_reducible apply State.raiseBit_keeps

theorem State.pollStart_keeps {s r : State} {h : Nat} (h' : s.Keeps r) : s.Keeps (State.pollStart r h) := by
  unfold State.pollStart
  repeat' first
    | with_reducible assumption
    | with_reducible apply State.put_keeps
    | with_reducible apply State.send_keeps
    | with_reducible apply State.setPoll_keeps
    | with_reducible apply State.accResult_keeps
    | with_reducible apply ite_keeps
    | fail_if_no_progress with_reducible apply State.Keeps.mk'

theorem State.pollRequest_keeps {s r : State} {h : Nat} {software : Bool} (h' : s.Keeps r) : s.Keeps (State.pollRequest r h software) := by
  unfold State.pollRequest
  repeat' first
    | with_reducible assumption
    | with_reducible apply State.setPend_keeps
    | with_reducible apply State.accResult_keeps
    | with_reducible apply State.pollStart_keeps
    | with_reducible apply ite_keeps
    | fail_if_no_progress with_reducible apply State.Keeps.mk'

theorem State.pollLeave_keeps {s r : State} {code : Nat} (h : s.Keeps r) : s.Keeps (State.pollLeave r code) := by
  unfold State.pollLeave
  repeat' first
    | with_reducible assumption
    | with_reducible apply State.put_keeps
    | with_reducible apply State.setPoll_keeps
    | with_reducible apply State.setPend_keeps
    | with_reducible apply State.pollStart_keeps
    | with_reducible apply ite_keeps
    | split
    | dsimp only

theorem State.accAbort_keeps {s r : State} (h : s.Keeps r) : s.Keeps (State.accAbort r) := by
  unfold State.accAbort
  repeat' first
    | with_reducible assumption
    | with_reducible apply State.put_keeps
    | with_reducible apply State.setPoll_keeps
    | with_reducible apply State.setPend_keeps
    | with_reducible apply State.accResult_keeps
    | split

theorem State.runScripts_keeps {s r : State} {p : Poll} {start : Nat} {slot : Nat} {air : List Byte} {runs : List RadioRun} (h : s.Keeps r) : KeepsFst s (State.runScripts r p start slot air runs) := by
  unfold State.runScripts
  repeat' first
    | with_reducible assumption
    | intro _
    | with_reducible apply State.raiseBit_keeps
    | with_reducible apply State.when_keeps
    | with_reducible apply State.drawn_keeps
    | with_reducible apply State.answer_keeps
    | with_reducible apply State.sendAll_keeps
    | with_reducible apply State.raiseL_keeps
    | with_reducible apply foldl_keeps
    | with_reducible apply foldl_keepsFst
    | exact KeepsFst.pair (by with_reducible assumption)
    | with_reducible apply ite_keeps
    | with_reducible apply ite_keepsFst
    | with_reducible apply KeepsFst.fst
    | split
    | dsimp only
    | fail_if_no_progress with_reducible apply State.Keeps.mk'
    | with_reducible apply KeepsFst.mk

theorem State.runScripts_keeps' {s r t : State} {p : Poll} {start : Nat} {slot : Nat} {air : List Byte} {runs : List RadioRun} {y : Poll × Option (List Byte)} (e : State.runScripts r p start slot air runs = (t, y)) (h : s.Keeps r) :
    s.Keeps t :=
  (State.runScripts_keeps h).elim e

theorem State.lockSave_keeps {s r : State} (h : s.Keeps r) : s.Keeps (State.lockSave r) := by
  unfold State.lockSave
  repeat' first
    | with_reducible assumption
    | intro _
    | with_reducible apply State.nvSend_keeps

theorem State.lockRestore_keeps {s r : State} (h : s.Keeps r) : s.Keeps (State.lockRestore r) := by
  unfold State.lockRestore
  repeat' first
    | with_reducible assumption
    | intro _
    | fail_if_no_progress with_reducible apply State.Keeps.mk'

theorem State.lockStart_keeps {s r : State} (h : s.Keeps r) : s.Keeps (State.lockStart r) := by
  unfold State.lockStart
  repeat' first
    | with_reducible assumption
    | with_reducible apply State.raiseBit_keeps
    | with_reducible apply State.raiseL_keeps
    | with_reducible apply State.lockSave_keeps
    | with_reducible apply ite_keeps
    | split
    | dsimp only
    | fail_if_no_progress with_reducible apply State.Keeps.mk'

theorem State.countFailure_keeps {s r : State} (h : s.Keeps r) : s.Keeps (State.countFailure r) := by
  unfold State.countFailure
  repeat' first
    | with_reducible assumption
    | with_reducible apply State.lockStart_keeps
    | with_reducible apply ite_keeps
    | fail_if_no_progress with_reducible apply State.Keeps.mk'

theorem State.pollEval_keeps {s r : State} {p : Poll} (h : s.Keeps r) : s.Keeps (State.pollEval r p) := by
  unfold State.pollEval
  repeat' first
    | with_reducible assumption
    | intro _
    | with_reducible apply State.put_keeps
    | with_reducible apply State.raiseBit_keeps
    | with_reducible apply State.incSat_keeps
    | with_reducible apply State.each_keeps
    | with_reducible apply State.when_keeps
    | with_reducible apply State.accResult_keeps
    | with_reducible apply State.pollLeave_keeps
    | with_reducible apply State.countFailure_keeps
    | with_reducible apply foldl_keeps
    | with_reducible apply foldl_keepsFst
    | exact KeepsFst.pair (by with_reducible assumption)
    | with_reducible apply ite_keeps
    | with_reducible apply ite_keepsFst
    | with_reducible apply KeepsFst.fst
    | split

theorem State.respondNet_keeps {s r : State} {port : Nat} {msgId : Nat} {via : Carrier} {bytes : List Byte} (h : s.Keeps r) : s.Keeps (State.respondNet r port msgId via bytes) := by
  unfold State.respondNet
  repeat' first
    | with_reducible assumption
    | intro _
    | with_reducible apply State.each_keeps
    | with_reducible apply State.send_keeps
    | with_reducible apply State.ethOut_keeps
    | with_reducible apply ite_keeps
    | with_reducible apply ite_keepsFst
    | with_reducible apply KeepsFst.fst
    | split

theorem State.monitorAck_keeps {s r : State} {m : Nat} (h : s.Keeps r) : s.Keeps (State.monitorAck r m) := by
  unfold State.monitorAck
  repeat' first
    | with_reducible assumption
    | with_reducible apply State.mbxAckWord_keeps
    | with_reducible refine State.mbxAckWord_keeps' (by with_reducible assumption) ?_
    | with_reducible apply ite_keeps
    | with_reducible apply ite_keepsFst
    | with_reducible apply KeepsFst.fst
    | fail_if_no_progress with_reducible apply State.Keeps.mk'

theorem State.respond_keeps {s r : State} {src : CmdFrom} {head : List Byte} {istat : Nat} {reason : Nat} {body : List Byte} (h : s.Keeps r) : s.Keeps (State.respond r src head istat reason body) := by
  unfold State.respond
  repeat' first
    | with_reducible assumption
    | with_reducible apply State.respondNet_keeps
    | with_reducible apply State.monitorAck_keeps
    | with_reducible apply State.setBytes_keeps
    | with_reducible apply ite_keeps
    | split

theorem State.setHoFlag_keeps {s r : State} {e : Nat} {v : Nat} (h : s.Keeps r) : s.Keeps (State.setHoFlag r e v) := by
  unfold State.setHoFlag
  repeat' first
    | with_reducible assumption
    | fail_if_no_progress with_reducible apply State.Keeps.mk'

theorem State.activateEnd_keeps {s r : State} {istat : Nat} (h : s.Keeps r) : s.Keeps (State.activateEnd r istat) := by
  unfold State.activateEnd
  repeat' first
    | with_reducible assumption
    | intro _
    | with_reducible apply State.each_keeps
    | with_reducible apply State.monitorAck_keeps
    | with_reducible apply State.respond_keeps
    | with_reducible apply ite_keeps
    | split
    | dsimp only
    | fail_if_no_progress with_reducible apply State.Keeps.mk'

theorem State.hoEnd_keeps {s r : State} {phase : Nat} {istat : Nat} (h : s.Keeps r) : s.Keeps (State.hoEnd r phase istat) := by
  unfold State.hoEnd
  repeat' first
    | with_reducible assumption
    | intro _
    | with_reducible apply State.put_keeps
    | with_reducible apply State.raiseBit_keeps
    | with_reducible apply State.each_keeps
    | with_reducible apply State.setHoFlag_keeps
    | with_reducible apply State.activateEnd_keeps
    | fail_if_no_progress with_reducible apply State.Keeps.mk'

theorem State.hoAbandon_keeps {s r : State} {cause : Nat} (h : s.Keeps r) : s.Keeps (State.hoAbandon r cause) := by
  unfold State.hoAbandon
  repeat' first
    | with_reducible assumption
    | with_reducible apply State.put_keeps
    | with_reducible apply State.raiseL_keeps
    | with_reducible apply State.hoEnd_keeps
    | with_reducible apply ite_keeps
    | fail_if_no_progress with_reducible apply State.Keeps.mk'

end Sys2Proof.Machine
end

