-- ==== Sys2Proof/Laws/Keeps08.lean ====
section
/-!
SUPPORT. What the operations and meanings of Machine/PmuOps keep, one lemma each (State.Keeps).
-/

namespace Sys2Proof.Machine

theorem State.fcuClamp_keeps {s r : State} (h : s.Keeps r) : s.Keeps (State.fcuClamp r) := by
  unfold State.fcuClamp
  repeat' first
    | with_reducible assumption
    | intro _
    | with_reducible apply State.putB_keeps
    | with_reducible apply State.each_keeps
    | with_reducible apply KeepsFst.fst
    | fail_if_no_progress with_reducible apply State.Keeps.mk'

theorem State.setPhase_keeps {s r : State} {x : Nat} (h : s.Keeps r) : s.Keeps (State.setPhase r x) := by
  unfold State.setPhase
  repeat' first
    | with_reducible assumption
    | with_reducible apply State.put_keeps

theorem State.busesAbort_keeps {s r : State} (h : s.Keeps r) : s.Keeps (State.busesAbort r) := by
  unfold State.busesAbort
  repeat' first
    | with_reducible assumption
    | intro _
    | with_reducible apply State.put_keeps
    | with_reducible apply State.each_keeps
    | with_reducible apply State.canEndAll_keeps
    | with_reducible apply ite_keeps

theorem State.setDegraded_keeps {s r : State} {b : Bool} (h : s.Keeps r) : s.Keeps (State.setDegraded r b) := by
  unfold State.setDegraded
  repeat' first
    | with_reducible assumption
    | intro _
    | with_reducible apply State.putB_keeps
    | with_reducible apply State.when_keeps
    | with_reducible apply State.clearSync_keeps
    | with_reducible apply State.linkWatch_keeps
    | with_reducible apply State.linksDown_keeps

theorem State.degradedShow_keeps {s r : State} (h : s.Keeps r) : s.Keeps (State.degradedShow r) := by
  unfold State.degradedShow
  repeat' first
    | with_reducible assumption
    | with_reducible apply State.putB_keeps

theorem State.pmuReqDone_keeps {s r : State} {ep : Nat} {tgt : Nat} {code : Nat} (h : s.Keeps r) : s.Keeps (State.pmuReqDone r ep tgt code) := by
  unfold State.pmuReqDone
  repeat' first
    | with_reducible assumption
    | with_reducible apply State.put_keeps
    | with_reducible apply State.raiseBit_keeps

theorem State.pmuActDone_keeps {s r : State} {code : Nat} (h : s.Keeps r) : s.Keeps (State.pmuActDone r code) := by
  unfold State.pmuActDone
  repeat' first
    | with_reducible assumption
    | with_reducible apply State.put_keeps
    | with_reducible apply State.putB_keeps
    | with_reducible apply State.pmuReqDone_keeps
    | with_reducible apply ite_keeps

theorem State.pmuPendClear_keeps {s r : State} (h : s.Keeps r) : s.Keeps (State.pmuPendClear r) := by
  unfold State.pmuPendClear
  repeat' first
    | with_reducible assumption
    | with_reducible apply State.put_keeps
    | with_reducible apply State.putB_keeps

theorem State.pmuPendDone_keeps {s r : State} {code : Nat} (h : s.Keeps r) : s.Keeps (State.pmuPendDone r code) := by
  unfold State.pmuPendDone
  repeat' first
    | with_reducible assumption
    | with_reducible apply State.pmuReqDone_keeps
    | with_reducible apply State.pmuPendClear_keeps
    | with_reducible apply ite_keeps

theorem State.pmuPendBeaten_keeps {s r : State} (h : s.Keeps r) : s.Keeps (State.pmuPendBeaten r) := by
  unfold State.pmuPendBeaten
  repeat' first
    | with_reducible assumption
    | with_reducible apply State.pmuPendDone_keeps
    | with_reducible apply ite_keeps

theorem State.pmuActive_keeps {s r : State} {ep : Nat} {tgt : Nat} (h : s.Keeps r) : s.Keeps (State.pmuActive r ep tgt) := by
  unfold State.pmuActive
  repeat' first
    | with_reducible assumption
    | with_reducible apply State.put_keeps
    | with_reducible apply State.putB_keeps

theorem State.pmuQueue_keeps {s r : State} {ep : Nat} {tgt : Nat} (h : s.Keeps r) : s.Keeps (State.pmuQueue r ep tgt) := by
  unfold State.pmuQueue
  repeat' first
    | with_reducible assumption
    | with_reducible apply State.put_keeps
    | with_reducible apply State.putB_keeps
    | with_reducible apply State.pmuPendDone_keeps

theorem State.wakeRecord_keeps {s r : State} {src : Nat} {detail : Nat} {after : Bool} (h : s.Keeps r) : s.Keeps (State.wakeRecord r src detail after) := by
  unfold State.wakeRecord
  repeat' first
    | with_reducible assumption
    | with_reducible apply State.put_keeps
    | with_reducible apply State.putB_keeps
    | with_reducible apply State.raiseBit_keeps
    | with_reducible apply after_keeps
    | with_reducible apply ite_keeps

theorem State.wakeStart_keeps {s r : State} (h : s.Keeps r) : s.Keeps (State.wakeStart r) := by
  unfold State.wakeStart
  repeat' first
    | with_reducible assumption
    | with_reducible apply State.put_keeps
    | with_reducible apply State.setPhase_keeps
    | with_reducible apply State.pmuPendBeaten_keeps
    | fail_if_no_progress with_reducible apply State.Keeps.mk'

theorem State.prepareAbandon_keeps {s r : State} (h : s.Keeps r) : s.Keeps (State.prepareAbandon r) := by
  unfold State.prepareAbandon
  repeat' first
    | with_reducible assumption
    | with_reducible apply State.raiseBit_keeps
    | with_reducible apply State.setPhase_keeps
    | with_reducible apply State.pmuActDone_keeps
    | with_reducible apply State.pmuPendBeaten_keeps

theorem State.sleepAbandon_keeps {s r : State} (h : s.Keeps r) : s.Keeps (State.sleepAbandon r) := by
  unfold State.sleepAbandon
  repeat' first
    | with_reducible assumption
    | with_reducible apply State.raiseBit_keeps
    | with_reducible apply State.nslAbandon_keeps
    | with_reducible apply State.pmuPendDone_keeps
    | with_reducible apply State.prepareAbandon_keeps
    | with_reducible apply ite_keeps

theorem State.latch_keeps {s r : State} {x : Latched} (h : s.Keeps r) : s.Keeps (State.latch r x) := by
  unfold State.latch
  repeat' first
    | with_reducible assumption
    | with_reducible apply State.raiseBit_keeps
    | with_reducible apply State.pmuPendBeaten_keeps
    | fail_if_no_progress with_reducible apply State.Keeps.mk'

theorem State.pmuWake_keeps {s r : State} {src : Nat} {detail : Nat} (h : s.Keeps r) : s.Keeps (State.pmuWake r src detail) := by
  unfold State.pmuWake
  repeat' first
    | with_reducible assumption
    | with_reducible apply State.raiseBit_keeps
    | with_reducible apply State.wakeRecord_keeps
    | with_reducible apply State.wakeStart_keeps
    | with_reducible apply State.prepareAbandon_keeps
    | with_reducible apply State.sleepAbandon_keeps
    | with_reducible apply State.latch_keeps
    | with_reducible apply ite_keeps
    | split

theorem State.prepareStart_keeps {s r : State} {ep : Nat} {tgt : Nat} (h : s.Keeps r) : s.Keeps (State.prepareStart r ep tgt) := by
  unfold State.prepareStart
  repeat' first
    | with_reducible assumption
    | with_reducible apply State.setPhase_keeps
    | with_reducible apply State.pmuActive_keeps

theorem State.runWake_keeps {s r : State} (h : s.Keeps r) : s.Keeps (State.runWake r) := by
  unfold State.runWake
  repeat' first
    | with_reducible assumption
    | with_reducible apply State.wakeRecord_keeps
    | with_reducible apply State.wakeStart_keeps
    | with_reducible apply ite_keeps

theorem State.pmuStart_keeps {s r : State} {ep : Nat} {tgt : Nat} (h : s.Keeps r) : s.Keeps (State.pmuStart r ep tgt) := by
  unfold State.pmuStart
  repeat' first
    | with_reducible assumption
    | with_reducible apply State.pmuReqDone_keeps
    | with_reducible apply State.pmuActive_keeps
    | with_reducible apply State.prepareStart_keeps
    | with_reducible apply State.runWake_keeps
    | with_reducible apply ite_keeps

theorem State.pmuPendStart_keeps {s r : State} (h : s.Keeps r) : s.Keeps (State.pmuPendStart r) := by
  unfold State.pmuPendStart
  repeat' first
    | with_reducible assumption
    | with_reducible apply State.pmuPendClear_keeps
    | with_reducible apply State.pmuStart_keeps
    | with_reducible apply ite_keeps

theorem State.pmuPendTick_keeps {s r : State} (h : s.Keeps r) : s.Keeps (State.pmuPendTick r) := by
  unfold State.pmuPendTick
  repeat' first
    | with_reducible assumption
    | with_reducible apply State.pmuPendStart_keeps
    | with_reducible apply ite_keeps

theorem State.runRecord_keeps {s r : State} {ep : Nat} {only : Bool} (h : s.Keeps r) : s.Keeps (State.runRecord r ep only) := by
  unfold State.runRecord
  repeat' first
    | with_reducible assumption
    | with_reducible apply State.raiseBit_keeps
    | with_reducible apply State.wakeRecord_keeps
    | with_reducible apply ite_keeps

theorem State.pmuRunLate_keeps {s r : State} {ep : Nat} (h : s.Keeps r) : s.Keeps (State.pmuRunLate r ep) := by
  unfold State.pmuRunLate
  repeat' first
    | with_reducible assumption
    | intro _
    | with_reducible apply State.when_keeps
    | with_reducible apply State.pmuReqDone_keeps
    | with_reducible apply State.pmuPendBeaten_keeps
    | with_reducible apply State.pmuActive_keeps
    | with_reducible apply State.pmuQueue_keeps
    | with_reducible apply State.wakeRecord_keeps
    | with_reducible apply State.prepareAbandon_keeps
    | with_reducible apply State.sleepAbandon_keeps
    | with_reducible apply State.latch_keeps
    | with_reducible apply State.pmuStart_keeps
    | with_reducible apply State.runRecord_keeps
    | with_reducible apply ite_keeps
    | split
    | dsimp only

theorem State.pmuRequest_keeps {s r : State} {ep : Nat} {tgt : Nat} (h : s.Keeps r) : s.Keeps (State.pmuRequest r ep tgt) := by
  unfold State.pmuRequest
  repeat' first
    | with_reducible assumption
    | with_reducible apply State.pmuReqDone_keeps
    | with_reducible apply State.pmuPendBeaten_keeps
    | with_reducible apply State.pmuQueue_keeps
    | with_reducible apply State.sleepAbandon_keeps
    | with_reducible apply State.pmuStart_keeps
    | with_reducible apply State.pmuRunLate_keeps
    | with_reducible apply ite_keeps

theorem State.prepareEnd_keeps {s r : State} {code : Nat} (h : s.Keeps r) : s.Keeps (State.prepareEnd r code) := by
  unfold State.prepareEnd
  repeat' first
    | with_reducible assumption
    | with_reducible apply State.setPhase_keeps
    | with_reducible apply State.pmuActDone_keeps
    | with_reducible apply State.pmuPendStart_keeps

theorem State.countersStore_keeps {s r : State} (h : s.Keeps r) : s.Keeps (State.countersStore r) := by
  unfold State.countersStore
  repeat' first
    | with_reducible assumption
    | with_reducible apply State.gtStopAll_keeps
    | with_reducible apply State.ntuDisarm_keeps
    | with_reducible apply ite_keeps
    | fail_if_no_progress with_reducible apply State.Keeps.mk'

theorem State.parkOutputs_keeps {s r : State} (h : s.Keeps r) : s.Keeps (State.parkOutputs r) := by
  unfold State.parkOutputs
  repeat' first
    | with_reducible assumption
    | intro _
    | with_reducible apply State.put_keeps
    | with_reducible apply State.putB_keeps
    | with_reducible apply State.each_keeps
    | with_reducible apply State.when_keeps
    | with_reducible apply State.setBq_keeps
    | with_reducible apply State.setChain_keeps
    | with_reducible apply State.setStartQueue_keeps
    | with_reducible apply State.enterRelease_keeps
    | with_reducible apply State.stopFade_keeps
    | with_reducible apply State.setSink_keeps
    | with_reducible apply State.doutOff_keeps
    | with_reducible apply State.hswEvalAll_keeps
    | with_reducible apply ite_keeps
    | fail_if_no_progress with_reducible apply State.Keeps.mk'

theorem State.diagStop_keeps {s r : State} (h : s.Keeps r) : s.Keeps (State.diagStop r) := by
  unfold State.diagStop
  repeat' first
    | with_reducible assumption
    | intro _
    | with_reducible apply State.each_keeps
    | with_reducible apply State.setHsc_keeps
    | with_reducible apply State.setAdc_keeps

theorem State.pointNoReturn_keeps {s r : State} (h : s.Keeps r) : s.Keeps (State.pointNoReturn r) := by
  unfold State.pointNoReturn
  repeat' first
    | with_reducible assumption
    | intro _
    | with_reducible apply State.each_keeps
    | with_reducible apply State.when_keeps
    | with_reducible apply State.endRequests_keeps
    | with_reducible apply State.chainsStop_keeps
    | with_reducible apply State.suspendWindows_keeps
    | with_reducible apply State.hswEvalAll_keeps
    | with_reducible apply State.holdCore_keeps
    | with_reducible apply State.endpointReset_keeps
    | with_reducible apply State.setPhase_keeps
    | with_reducible apply State.busesAbort_keeps
    | with_reducible apply State.countersStore_keeps
    | with_reducible apply State.parkOutputs_keeps
    | with_reducible apply State.diagStop_keeps

theorem State.limpPowered_keeps {s r : State} (h : s.Keeps r) : s.Keeps (State.limpPowered r) := by
  unfold State.limpPowered
  repeat' first
    | with_reducible assumption
    | with_reducible apply State.put_keeps
    | with_reducible apply State.raiseBit_keeps
    | fail_if_no_progress with_reducible apply State.Keeps.mk'

theorem State.ldieOff_keeps {s r : State} (h : s.Keeps r) : s.Keeps (State.ldieOff r) := by
  unfold State.ldieOff
  repeat' first
    | with_reducible assumption
    | intro _
    | with_reducible apply State.keysShow_keeps
    | with_reducible apply State.dropRegs_keeps
    | with_reducible apply KeepsFst.fst
    | fail_if_no_progress with_reducible apply State.Keeps.mk'
    | with_reducible apply State.Keeps.mkMem

theorem State.sleepDone_keeps {s r : State} (h : s.Keeps r) : s.Keeps (State.sleepDone r) := by
  unfold State.sleepDone
  repeat' first
    | with_reducible assumption
    | intro _
    | with_reducible apply State.put_keeps
    | with_reducible apply State.putB_keeps
    | with_reducible apply State.when_keeps
    | with_reducible apply State.fcuClamp_keeps
    | with_reducible apply State.setPhase_keeps
    | with_reducible apply State.pmuActDone_keeps
    | with_reducible apply State.pmuPendClear_keeps
    | with_reducible apply State.pmuActive_keeps
    | with_reducible apply State.wakeStart_keeps
    | with_reducible apply State.pmuPendStart_keeps
    | with_reducible apply State.limpPowered_keeps
    | with_reducible apply State.ldieOff_keeps
    | with_reducible apply ite_keeps
    | fail_if_no_progress with_reducible apply State.Keeps.mk'

theorem State.limpTrigger_keeps {s r : State} {cause : Nat} {code : Nat} (h : s.Keeps r) : s.Keeps (State.limpTrigger r cause code) := by
  unfold State.limpTrigger
  repeat' first
    | with_reducible assumption
    | intro _
    | with_reducible apply State.when_keeps
    | with_reducible apply State.limpApply_keeps
    | with_reducible apply State.limpPowered_keeps

theorem State.wakeFail_keeps {s r : State} (h : s.Keeps r) : s.Keeps (State.wakeFail r) := by
  unfold State.wakeFail
  repeat' first
    | with_reducible assumption
    | intro _
    | with_reducible apply State.put_keeps
    | with_reducible apply State.putB_keeps
    | with_reducible apply State.raiseBit_keeps
    | with_reducible apply State.when_keeps
    | with_reducible apply State.raiseL_keeps
    | with_reducible apply State.fcuClamp_keeps
    | with_reducible apply State.setPhase_keeps
    | with_reducible apply State.pmuActDone_keeps
    | with_reducible apply State.pmuPendStart_keeps
    | with_reducible apply State.parkOutputs_keeps
    | with_reducible apply State.limpPowered_keeps
    | with_reducible apply State.limpTrigger_keeps
    | with_reducible apply ite_keeps

end Sys2Proof.Machine
end

