-- ==== Sys2Proof/Laws/Keeps09.lean ====
section
/-!
SUPPORT. What the operations and meanings of Machine/Acc, BsqOps keep, one lemma each (State.Keeps).
-/

namespace Sys2Proof.Machine

theorem State.accOwned_keeps {s r : State} {m : Master} {f : State → State} (h : s.Keeps r) (hf : ∀ t, s.Keeps t → s.Keeps (f t)) : s.Keeps (State.accOwned r m f) := by
  unfold State.accOwned
  repeat' first
    | with_reducible assumption
    | intro _
    | with_reducible apply State.raiseBit_keeps
    | with_reducible apply hf
    | with_reducible apply ite_keeps

theorem State.setSensor_keeps {s r : State} {n : Nat} {x : Handle8} (h : s.Keeps r) : s.Keeps (State.setSensor r n x) := by
  unfold State.setSensor
  repeat' first
    | with_reducible assumption
    | fail_if_no_progress with_reducible apply State.Keeps.mk'

theorem State.touch_keeps {s r : State} {n : Nat} (h : s.Keeps r) : s.Keeps (State.touch r n) := by
  unfold State.touch
  repeat' first
    | with_reducible assumption
    | intro _
    | with_reducible apply State.putB_keeps
    | with_reducible apply State.raiseBit_keeps
    | with_reducible apply State.when_keeps
    | with_reducible apply State.pollRequest_keeps
    | with_reducible apply State.pmuWake_keeps
    | with_reducible apply ite_keeps
    | fail_if_no_progress with_reducible apply State.Keeps.mk'

theorem State.scan_keeps {s r : State} {n : Nat} {cnt : Nat} {broken : Bool} (h : s.Keeps r) : s.Keeps (State.scan r n cnt broken) := by
  unfold State.scan
  repeat' first
    | with_reducible assumption
    | with_reducible apply State.put_keeps
    | with_reducible apply State.putB_keeps
    | with_reducible apply State.raiseP_keeps
    | with_reducible apply State.setSensor_keeps
    | with_reducible apply State.touch_keeps
    | with_reducible apply ite_keeps

theorem execHandleScan_keeps {s r : State} {n : Fin 8} {cnt : BitVec 16} {broken : Bool} (h : s.Keeps r) : KeepsOut s (execHandleScan n cnt broken r) := by
  unfold execHandleScan
  repeat' first
    | with_reducible assumption
    | with_reducible apply State.scan_keeps
    | with_reducible apply ite_keeps
    | with_reducible apply ite_keepsOut
    | with_reducible apply KeepsOut.next

theorem State.accCommand_keeps {s r : State} {poll : Bool} {abort : Bool} {h : Nat} (h' : s.Keeps r) : s.Keeps (State.accCommand r poll abort h) := by
  unfold State.accCommand
  repeat' first
    | with_reducible assumption
    | with_reducible apply State.put_keeps
    | with_reducible apply State.pollRequest_keeps
    | with_reducible apply State.accAbort_keeps
    | with_reducible apply ite_keeps

theorem State.accCommandBy_keeps {s r : State} {m : Master} {poll : Bool} {abort : Bool} {h : Nat} (h' : s.Keeps r) : s.Keeps (State.accCommandBy r m poll abort h) := by
  unfold State.accCommandBy
  repeat' first
    | with_reducible assumption
    | intro _
    | with_reducible apply State.access_keeps
    | with_reducible apply State.accOwned_keeps
    | with_reducible apply State.accCommand_keeps

theorem execAccPoll_keeps {s r : State} {m : Master} {h : Fin 8} (h' : s.Keeps r) : KeepsOut s (execAccPoll m h r) := by
  unfold execAccPoll
  repeat' first
    | with_reducible assumption
    | with_reducible apply State.accCommandBy_keeps
    | with_reducible apply KeepsOut.next

theorem execAccAbort_keeps {s r : State} {m : Master} {h : Fin 8} (h' : s.Keeps r) : KeepsOut s (execAccAbort m h r) := by
  unfold execAccAbort
  repeat' first
    | with_reducible assumption
    | with_reducible apply State.accCommandBy_keeps
    | with_reducible apply KeepsOut.next

theorem State.pollStep_keeps {s r : State} {st : Nat} {f : State → Poll → State} (h : s.Keeps r) (hf : ∀ t x, s.Keeps t → s.Keeps (f t x)) : s.Keeps (State.pollStep r st f) := by
  unfold State.pollStep
  repeat' first
    | with_reducible assumption
    | intro _
    | with_reducible apply hf
    | with_reducible apply ite_keeps
    | split

theorem State.antennaState_keeps {s r : State} {k : Nat} {d : Nat} (h : s.Keeps r) : s.Keeps (State.antennaState r k d) := by
  unfold State.antennaState
  repeat' first
    | with_reducible assumption
    | with_reducible apply State.put_keeps
    | with_reducible apply State.raiseL_keeps
    | with_reducible apply ite_keeps

theorem State.lfEnd_keeps {s r : State} {peaks : List (BitVec 16)} {limited : BitVec 6} {p : Poll} (h : s.Keeps r) : s.Keeps (State.lfEnd r peaks limited p) := by
  unfold State.lfEnd
  repeat' first
    | with_reducible assumption
    | intro _
    | with_reducible apply State.put_keeps
    | with_reducible apply State.each_keeps
    | with_reducible apply State.accResult_keeps
    | with_reducible apply State.pollLeave_keeps
    | with_reducible apply State.antennaState_keeps
    | with_reducible apply ite_keeps

theorem execLfTelegramEnd_keeps {s r : State} {peaks : List (BitVec 16)} {limited : BitVec 6} (h : s.Keeps r) : KeepsOut s (execLfTelegramEnd peaks limited r) := by
  unfold execLfTelegramEnd
  repeat' first
    | with_reducible assumption
    | intro _
    | with_reducible apply State.pollStep_keeps
    | with_reducible apply State.lfEnd_keeps
    | with_reducible apply KeepsOut.next

theorem State.rangeStart_keeps {s r : State} {runs : List RadioRun} {p : Poll} (h : s.Keeps r) : s.Keeps (State.rangeStart r runs p) := by
  unfold State.rangeStart
  repeat' first
    | with_reducible assumption
    | with_reducible apply State.put_keeps
    | with_reducible apply State.send_keeps
    | with_reducible apply State.setPoll_keeps
    | with_reducible apply State.runScripts_keeps
    | with_reducible refine State.runScripts_keeps' (by with_reducible assumption) ?_
    | with_reducible apply State.draw_keeps
    | with_reducible refine State.draw_keeps' (by with_reducible assumption) ?_
    | with_reducible apply KeepsFst.fst

theorem execKeyWakeEnd_keeps {s r : State} {runs : List RadioRun} (h : s.Keeps r) : KeepsOut s (execKeyWakeEnd runs r) := by
  unfold execKeyWakeEnd
  repeat' first
    | with_reducible assumption
    | intro _
    | with_reducible apply State.pollStep_keeps
    | with_reducible apply State.rangeStart_keeps
    | with_reducible apply KeepsOut.next

theorem State.emptySlots_keeps {s r : State} {p : Poll} {start : Nat} {k : Nat} (h : s.Keeps r) : KeepsFst s (State.emptySlots r p start k) := by
  unfold State.emptySlots
  repeat' first
    | with_reducible assumption
    | intro _
    | with_reducible apply State.runScripts_keeps
    | with_reducible refine State.runScripts_keeps' (by with_reducible assumption) ?_
    | with_reducible apply foldl_keeps
    | with_reducible apply foldl_keepsFst
    | exact KeepsFst.pair (by with_reducible assumption)
    | with_reducible apply KeepsFst.fst
    | with_reducible apply KeepsFst.mk

theorem State.emptySlots_keeps' {s r t : State} {p : Poll} {start : Nat} {k : Nat} {y : Poll} (e : State.emptySlots r p start k = (t, y)) (h : s.Keeps r) :
    s.Keeps t :=
  (State.emptySlots_keeps h).elim e

theorem State.keyResponse_keeps {s r : State} {k : Nat} {runs : List RadioRun} {p : Poll} (h : s.Keeps r) : s.Keeps (State.keyResponse r k runs p) := by
  unfold State.keyResponse
  repeat' first
    | with_reducible assumption
    | with_reducible apply State.setPoll_keeps
    | with_reducible apply State.runScripts_keeps
    | with_reducible refine State.runScripts_keeps' (by with_reducible assumption) ?_
    | with_reducible apply State.emptySlots_keeps
    | with_reducible refine State.emptySlots_keeps' (by with_reducible assumption) ?_
    | with_reducible apply ite_keeps
    | with_reducible apply ite_keepsFst
    | with_reducible apply KeepsFst.fst

theorem execKeyResponseRx_keeps {s r : State} {k : Fin 8} {runs : List RadioRun} (h : s.Keeps r) : KeepsOut s (execKeyResponseRx k runs r) := by
  unfold execKeyResponseRx
  repeat' first
    | with_reducible assumption
    | intro _
    | with_reducible apply State.pollStep_keeps
    | with_reducible apply State.keyResponse_keeps
    | with_reducible apply KeepsOut.next

theorem State.finalSend_keeps {s r : State} {runs : List RadioRun} {p : Poll} (h : s.Keeps r) : s.Keeps (State.finalSend r runs p) := by
  unfold State.finalSend
  repeat' first
    | with_reducible assumption
    | with_reducible apply State.put_keeps
    | with_reducible apply State.send_keeps
    | with_reducible apply State.setPoll_keeps
    | with_reducible apply State.runScripts_keeps
    | with_reducible refine State.runScripts_keeps' (by with_reducible assumption) ?_
    | with_reducible apply State.emptySlots_keeps
    | with_reducible refine State.emptySlots_keeps' (by with_reducible assumption) ?_
    | with_reducible apply KeepsFst.fst

theorem execRangingFinal_keeps {s r : State} {runs : List RadioRun} (h : s.Keeps r) : KeepsOut s (execRangingFinal runs r) := by
  unfold execRangingFinal
  repeat' first
    | with_reducible assumption
    | intro _
    | with_reducible apply State.pollStep_keeps
    | with_reducible apply State.finalSend_keeps
    | with_reducible apply KeepsOut.next

theorem State.keyAnswer_keeps {s r : State} {k : Nat} {air : List Byte} {runs : List RadioRun} {p : Poll} (h : s.Keeps r) : s.Keeps (State.keyAnswer r k air runs p) := by
  unfold State.keyAnswer
  repeat' first
    | with_reducible assumption
    | with_reducible apply State.setPoll_keeps
    | with_reducible apply State.runScripts_keeps
    | with_reducible refine State.runScripts_keeps' (by with_reducible assumption) ?_
    | with_reducible apply State.emptySlots_keeps
    | with_reducible refine State.emptySlots_keeps' (by with_reducible assumption) ?_
    | with_reducible apply ite_keeps
    | with_reducible apply ite_keepsFst
    | with_reducible apply KeepsFst.fst

theorem State.answerEnd_keeps {s r : State} {p : Poll} (h : s.Keeps r) : s.Keeps (State.answerEnd r p) := by
  unfold State.answerEnd
  repeat' first
    | with_reducible assumption
    | with_reducible apply State.put_keeps
    | with_reducible apply State.setPoll_keeps
    | with_reducible apply State.emptySlots_keeps
    | with_reducible refine State.emptySlots_keeps' (by with_reducible assumption) ?_
    | with_reducible apply KeepsFst.fst

theorem execKeyAnswerRx_keeps {s r : State} {k : Fin 8} {payload : List Byte} {runs : List RadioRun} (h : s.Keeps r) : KeepsOut s (execKeyAnswerRx k payload runs r) := by
  unfold execKeyAnswerRx
  repeat' first
    | with_reducible assumption
    | intro _
    | with_reducible apply State.pollStep_keeps
    | with_reducible apply State.keyAnswer_keeps
    | with_reducible apply KeepsOut.next

theorem execAnswerWindowEnd_keeps {s r : State} (h : s.Keeps r) : KeepsOut s (execAnswerWindowEnd r) := by
  unfold execAnswerWindowEnd
  repeat' first
    | with_reducible assumption
    | intro _
    | with_reducible apply State.pollStep_keeps
    | with_reducible apply State.answerEnd_keeps
    | with_reducible apply KeepsOut.next

theorem execPollEvalDone_keeps {s r : State} (h : s.Keeps r) : KeepsOut s (execPollEvalDone r) := by
  unfold execPollEvalDone
  repeat' first
    | with_reducible assumption
    | intro _
    | with_reducible apply State.pollEval_keeps
    | with_reducible apply State.pollStep_keeps
    | with_reducible apply KeepsOut.next

theorem State.lockEnd_keeps {s r : State} (h : s.Keeps r) : s.Keeps (State.lockEnd r) := by
  unfold State.lockEnd
  repeat' first
    | with_reducible assumption
    | with_reducible apply State.lockSave_keeps
    | with_reducible apply ite_keeps
    | fail_if_no_progress with_reducible apply State.Keeps.mk'

theorem execLockoutEnd_keeps {s r : State} (h : s.Keeps r) : KeepsOut s (execLockoutEnd r) := by
  unfold execLockoutEnd
  repeat' first
    | with_reducible assumption
    | with_reducible apply State.lockEnd_keeps
    | with_reducible apply ite_keeps
    | with_reducible apply ite_keepsOut
    | with_reducible apply KeepsOut.next

theorem State.wdStopAll_keeps {s r : State} (h : s.Keeps r) : s.Keeps (State.wdStopAll r) := by
  unfold State.wdStopAll
  repeat' first
    | with_reducible assumption
    | intro _
    | with_reducible apply State.each_keeps
    | with_reducible apply State.setWdog_keeps

theorem State.bootClear_keeps {s r : State} (h : s.Keeps r) : s.Keeps (State.bootClear r) := by
  unfold State.bootClear
  repeat' first
    | with_reducible assumption
    | with_reducible apply State.put_keeps

theorem State.busesRestart_keeps {s r : State} (h : s.Keeps r) : s.Keeps (State.busesRestart r) := by
  unfold State.busesRestart
  repeat' first
    | with_reducible assumption
    | intro _
    | with_reducible apply State.put_keeps
    | with_reducible apply State.each_keeps
    | with_reducible apply State.when_keeps
    | with_reducible apply State.ledgerClear_keeps
    | with_reducible apply State.switchOff_keeps
    | with_reducible apply State.linkWatch_keeps
    | with_reducible apply State.dropRegs_keeps
    | fail_if_no_progress with_reducible apply State.Keeps.mk'

theorem State.xspiShow_keeps {s r : State} {mode : Nat} {clk : Nat} {dummy : Nat} (h : s.Keeps r) : s.Keeps (State.xspiShow r mode clk dummy) := by
  unfold State.xspiShow
  repeat' first
    | with_reducible assumption
    | with_reducible apply State.put_keeps

theorem State.bootStart_keeps {s r : State} {kind : Nat} (h : s.Keeps r) : s.Keeps (State.bootStart r kind) := by
  unfold State.bootStart
  repeat' first
    | with_reducible assumption
    | intro _
    | with_reducible apply State.put_keeps
    | with_reducible apply State.incSat_keeps
    | with_reducible apply State.each_keeps
    | with_reducible apply State.when_keeps
    | with_reducible apply State.holdCore_keeps
    | with_reducible apply State.releaseCore_keeps
    | with_reducible apply State.endpointReset_keeps
    | with_reducible apply State.setPhase_keeps
    | with_reducible apply State.wdStopAll_keeps
    | with_reducible apply State.bootClear_keeps
    | with_reducible apply State.busesRestart_keeps
    | with_reducible apply State.xspiShow_keeps
    | with_reducible apply ite_keeps
    | fail_if_no_progress with_reducible apply State.Keeps.mk'

theorem State.ldieClear_keeps {s r : State} (h : s.Keeps r) : s.Keeps (State.ldieClear r) := by
  unfold State.ldieClear
  repeat' first
    | with_reducible assumption
    | fail_if_no_progress with_reducible apply State.Keeps.mk'
    | exact .inl rfl
    | exact .inr rfl
    | with_reducible apply State.Keeps.mkCpu

theorem State.ldieReset_keeps {s r : State} {announced : Bool} (h : s.Keeps r) : s.Keeps (State.ldieReset r announced) := by
  unfold State.ldieReset
  repeat' first
    | with_reducible assumption
    | intro _
    | with_reducible apply State.put_keeps
    | with_reducible apply State.each_keeps
    | with_reducible apply State.endRequests_keeps
    | with_reducible apply State.chainsStop_keeps
    | with_reducible apply State.hswEvalAll_keeps
    | with_reducible apply State.announcedReset_keeps
    | with_reducible apply State.keysShow_keeps
    | with_reducible apply State.accResult_keeps
    | with_reducible apply State.setPhase_keeps
    | with_reducible apply State.dropRegs_keeps
    | with_reducible apply State.degradedShow_keeps
    | with_reducible apply State.pmuActDone_keeps
    | with_reducible apply State.latch_keeps
    | with_reducible apply State.wdStopAll_keeps
    | with_reducible apply State.ldieClear_keeps
    | with_reducible apply ite_keeps
    | split
    | dsimp only
    | fail_if_no_progress with_reducible apply State.Keeps.mk'

theorem State.bootAfterReset_keeps {s r : State} (h : s.Keeps r) : s.Keeps (State.bootAfterReset r) := by
  unfold State.bootAfterReset
  repeat' first
    | with_reducible assumption
    | with_reducible apply State.bootStart_keeps
    | with_reducible apply ite_keeps

theorem State.ldieRestart_keeps {s r : State} (h : s.Keeps r) : s.Keeps (State.ldieRestart r) := by
  unfold State.ldieRestart
  repeat' first
    | with_reducible assumption
    | with_reducible apply State.ldieReset_keeps
    | with_reducible apply State.bootAfterReset_keeps

theorem State.coreReset_keeps {s r : State} {e : Nat} (h : s.Keeps r) : s.Keeps (State.coreReset r e) := by
  unfold State.coreReset
  repeat' first
    | with_reducible assumption
    | with_reducible apply State.put_keeps
    | with_reducible apply State.raiseBit_keeps
    | with_reducible apply State.endpointReset_keeps
    | with_reducible apply State.wdRelease_keeps
    | with_reducible apply State.coreResetRun_keeps
    | with_reducible apply State.hoAbandon_keeps
    | with_reducible apply ite_keeps

theorem State.powerOnReset_keeps {s r : State} (h : s.Keeps r) : s.Keeps (State.powerOnReset r) := by
  unfold State.powerOnReset
  repeat' first
    | with_reducible assumption
    | intro _
    | with_reducible apply State.put_keeps
    | with_reducible apply State.putB_keeps
    | with_reducible apply State.keysShow_keeps
    | with_reducible apply State.lockRestore_keeps
    | with_reducible apply State.waybill_keeps
    | with_reducible apply KeepsFst.fst
    | fail_if_no_progress with_reducible apply State.Keeps.mk'
    | with_reducible apply State.Keeps.mkReset
    | with_reducible apply KeepsFst.mk
    | exact rfl

end Sys2Proof.Machine
end

