-- ==== Sys2Proof/Laws/Keeps10.lean ====
section
/-!
SUPPORT. What the operations and meanings of Machine/SecOps, FcuOps keep, one lemma each (State.Keeps).
-/

namespace Sys2Proof.Machine

theorem State.setSecQueue_keeps {s r : State} {q : List SecMsg} (h : s.Keeps r) : s.Keeps (State.setSecQueue r q) := by
  unfold State.setSecQueue
  repeat' first
    | with_reducible assumption
    | with_reducible apply State.put_keeps
    | fail_if_no_progress with_reducible apply State.Keeps.mk'

theorem State.gateMessage_keeps {s r : State} {x : SecMsg} {vbat : Nat} (h : s.Keeps r) : s.Keeps (State.gateMessage r x vbat) := by
  unfold State.gateMessage
  repeat' first
    | with_reducible assumption
    | with_reducible apply State.raiseBit_keeps
    | with_reducible apply State.incSat_keeps
    | with_reducible apply State.respond_keeps
    | with_reducible apply State.setSecQueue_keeps
    | split

theorem State.dropPart_keeps {s r : State} {port : Nat} (h : s.Keeps r) : s.Keeps (State.dropPart r port) := by
  unfold State.dropPart
  repeat' first
    | with_reducible assumption
    | intro _
    | fail_if_no_progress with_reducible apply State.Keeps.mk'

theorem State.takeSegment_keeps {s r : State} {x : SecMsg} {via : Carrier} {last : Bool} {data : List Byte} {vbat : Nat} (h : s.Keeps r) : s.Keeps (State.takeSegment r x via last data vbat) := by
  unfold State.takeSegment
  repeat' first
    | with_reducible assumption
    | with_reducible apply State.incSat_keeps
    | with_reducible apply State.gateMessage_keeps
    | with_reducible apply State.dropPart_keeps
    | with_reducible apply ite_keeps
    | fail_if_no_progress with_reducible apply State.Keeps.mk'

theorem State.segRx_keeps {s r : State} {port : Nat} {via : Carrier} {vbat : Nat} (h : s.Keeps r) : s.Keeps (State.segRx r port via vbat) := by
  unfold State.segRx
  repeat' first
    | with_reducible assumption
    | with_reducible apply State.incSat_keeps
    | with_reducible apply State.dropPart_keeps
    | with_reducible apply State.takeSegment_keeps
    | with_reducible apply ite_keeps
    | split
    | dsimp only

theorem State.speedRx_keeps {s r : State} {n : Nat} {f : CanFrame} (h : s.Keeps r) : s.Keeps (State.speedRx r n f) := by
  unfold State.speedRx
  repeat' first
    | with_reducible assumption
    | with_reducible apply State.put_keeps
    | with_reducible apply ite_keeps
    | fail_if_no_progress with_reducible apply State.Keeps.mk'

theorem State.zsWord_keeps' {s r t : State} {m : Nat} {v : BitVec 64} (e : r.zsWord m = some (t, v)) (h : s.Keeps r) :
    s.Keeps t := by
  unfold State.zsWord at e
  split at e
  · cases e
  · split at e
    · exact State.mbxPop_keeps' (Option.some.inj e) h
    · cases e

theorem State.gateWord_keeps {s r : State} {m : Nat} (h : s.Keeps r) : s.Keeps (State.gateWord r m) := by
  unfold State.gateWord
  repeat' first
    | with_reducible assumption
    | with_reducible apply State.raiseBit_keeps
    | with_reducible apply State.incSat_keeps
    | with_reducible apply State.sramRead_keeps
    | with_reducible refine State.sramRead_keeps' (by with_reducible assumption) ?_
    | with_reducible apply State.setSecQueue_keeps
    | with_reducible refine State.zsWord_keeps' (by with_reducible assumption) ?_
    | with_reducible apply State.draw_keeps
    | with_reducible refine State.draw_keeps' (by with_reducible assumption) ?_
    | with_reducible apply ite_keeps
    | with_reducible apply ite_keepsFst
    | with_reducible apply KeepsFst.fst
    | split
    | dsimp only
    | fail_if_no_progress with_reducible apply State.Keeps.mk'
    | with_reducible apply KeepsFst.mk

theorem State.answerTurned_keeps {s r : State} (h : s.Keeps r) : s.Keeps (State.answerTurned r) := by
  unfold State.answerTurned
  repeat' first
    | with_reducible assumption
    | intro _
    | with_reducible apply State.each_keeps
    | with_reducible apply State.respond_keeps
    | with_reducible apply State.setSecQueue_keeps
    | with_reducible apply KeepsFst.fst
    | split

theorem State.loseWords_keeps {s r : State} (h : s.Keeps r) : s.Keeps (State.loseWords r) := by
  unfold State.loseWords
  repeat' first
    | with_reducible assumption
    | intro _
    | with_reducible apply State.each_keeps
    | with_reducible apply State.mbxAbort_keeps
    | split

theorem State.gateWords_keeps {s r : State} (h : s.Keeps r) : s.Keeps (State.gateWords r) := by
  unfold State.gateWords
  repeat' first
    | with_reducible assumption
    | intro _
    | with_reducible apply State.each_keeps
    | with_reducible apply State.when_keeps
    | with_reducible apply State.gateWord_keeps
    | with_reducible apply State.answerTurned_keeps
    | with_reducible apply State.loseWords_keeps
    | with_reducible apply ite_keeps

theorem State.taken_keeps' {s r t : State} {src : CmdSrc} {family op : Nat} {f : CmdFrom} {p : Nat} {l : List Byte}
    (e : r.taken src family op = some (t, f, p, l)) (h : s.Keeps r) : s.Keeps t := by
  unfold State.taken at e
  dsimp only at e
  split at e
  · cases e
  · split at e
    · simp only [Option.some.injEq, Prod.mk.injEq] at e
      rw [← e.1]
      exact State.setSecQueue_keeps (State.gateWords_keeps h)
    · cases e

theorem State.monitor_keeps {s r : State} {src : CmdSrc} {family : Nat} {op : Nat} {run : State → CmdFrom → Nat → List Byte → State} (h : s.Keeps r) (hrun : ∀ t x y z, s.Keeps t → s.Keeps (run t x y z)) : s.Keeps (State.monitor r src family op run) := by
  unfold State.monitor
  repeat' first
    | with_reducible assumption
    | intro _
    | with_reducible apply State.respond_keeps
    | with_reducible apply State.answerTurned_keeps
    | with_reducible refine State.taken_keeps' (by with_reducible assumption) ?_
    | with_reducible apply hrun
    | with_reducible apply ite_keeps
    | split

theorem State.fcuOwned_keeps {s r : State} {m : Master} {f : State → State} (h : s.Keeps r) (hf : ∀ t, s.Keeps t → s.Keeps (f t)) : s.Keeps (State.fcuOwned r m f) := by
  unfold State.fcuOwned
  repeat' first
    | with_reducible assumption
    | intro _
    | with_reducible apply State.raiseBit_keeps
    | with_reducible apply hf
    | with_reducible apply ite_keeps

theorem State.fcuRecord_keeps {s r' : State} {r : FaultRec} {cls : Nat} {converted : Bool} (h : s.Keeps r') : s.Keeps (State.fcuRecord r' r cls converted) := by
  unfold State.fcuRecord
  repeat' first
    | with_reducible assumption
    | with_reducible apply State.put_keeps
    | with_reducible apply State.incSat_keeps
    | with_reducible apply State.raiseL_keeps
    | with_reducible apply State.draw_keeps
    | with_reducible refine State.draw_keeps' (by with_reducible assumption) ?_
    | with_reducible apply ite_keeps
    | with_reducible apply ite_keepsFst
    | with_reducible apply KeepsFst.fst
    | fail_if_no_progress with_reducible apply State.Keeps.mk'

theorem State.fcuWriteRecord_keeps {s r : State} (h : s.Keeps r) : s.Keeps (State.fcuWriteRecord r) := by
  unfold State.fcuWriteRecord
  repeat' first
    | with_reducible assumption
    | with_reducible apply State.put_keeps
    | with_reducible apply State.incWrap_keeps
    | with_reducible apply State.nvWrite_keeps
    | with_reducible apply ite_keeps
    | split
    | dsimp only
    | fail_if_no_progress with_reducible apply State.Keeps.mk'

theorem State.s3Age_keeps {s r : State} (h : s.Keeps r) : s.Keeps (State.s3Age r) := by
  unfold State.s3Age
  repeat' first
    | with_reducible assumption
    | with_reducible apply State.put_keeps
    | fail_if_no_progress with_reducible apply State.Keeps.mk'

theorem State.prepareFault_keeps {s r : State} (h : s.Keeps r) : s.Keeps (State.prepareFault r) := by
  unfold State.prepareFault
  repeat' first
    | with_reducible assumption
    | with_reducible apply State.setPhase_keeps
    | with_reducible apply State.pmuActDone_keeps
    | with_reducible apply State.prepareEnd_keeps
    | with_reducible apply ite_keeps

theorem State.reactionStops_keeps {s r : State} (h : s.Keeps r) : s.Keeps (State.reactionStops r) := by
  unfold State.reactionStops
  repeat' first
    | with_reducible assumption
    | with_reducible apply State.endRequests_keeps
    | with_reducible apply State.faultRefuse_keeps
    | with_reducible apply State.accAbort_keeps
    | with_reducible apply State.hoAbandon_keeps

theorem State.s4React_keeps {s r' : State} {r : FaultRec} {converted : Bool} (h : s.Keeps r') : s.Keeps (State.s4React r' r converted) := by
  unfold State.s4React
  repeat' first
    | with_reducible assumption
    | intro _
    | with_reducible apply State.put_keeps
    | with_reducible apply State.putB_keeps
    | with_reducible apply State.raiseBit_keeps
    | with_reducible apply State.each_keeps
    | with_reducible apply State.faultRefuse_keeps
    | with_reducible apply State.limpTrigger_keeps
    | with_reducible apply State.fcuRecord_keeps
    | with_reducible apply State.prepareFault_keeps
    | with_reducible apply State.reactionStops_keeps
    | fail_if_no_progress with_reducible apply State.Keeps.mk'

theorem State.s3Power_keeps {s r : State} (h : s.Keeps r) : s.Keeps (State.s3Power r) := by
  unfold State.s3Power
  repeat' first
    | with_reducible assumption
    | intro _
    | with_reducible apply State.wakeStart_keeps
    | with_reducible apply State.latch_keeps
    | with_reducible apply ite_keeps
    | split
    | dsimp only
    | fail_if_no_progress with_reducible apply State.Keeps.mk'

theorem State.s3React_keeps {s r' : State} {r : FaultRec} (h : s.Keeps r') : s.Keeps (State.s3React r' r) := by
  unfold State.s3React
  repeat' first
    | with_reducible assumption
    | with_reducible apply State.put_keeps
    | with_reducible apply State.raiseBit_keeps
    | with_reducible apply State.faultRefuse_keeps
    | with_reducible apply State.limpTrigger_keeps
    | with_reducible apply State.fcuRecord_keeps
    | with_reducible apply State.s3Age_keeps
    | with_reducible apply State.prepareFault_keeps
    | with_reducible apply State.reactionStops_keeps
    | with_reducible apply State.s4React_keeps
    | with_reducible apply State.s3Power_keeps
    | with_reducible apply ite_keeps
    | fail_if_no_progress with_reducible apply State.Keeps.mk'

theorem State.heldReact_keeps {s r : State} (h : s.Keeps r) : s.Keeps (State.heldReact r) := by
  unfold State.heldReact
  repeat' first
    | with_reducible assumption
    | intro _
    | with_reducible apply State.each_keeps
    | with_reducible apply State.s3React_keeps
    | fail_if_no_progress with_reducible apply State.Keeps.mk'

theorem State.recoveryStart_keeps {s r : State} (h : s.Keeps r) : s.Keeps (State.recoveryStart r) := by
  unfold State.recoveryStart
  repeat' first
    | with_reducible assumption
    | with_reducible apply State.raiseBit_keeps
    | with_reducible apply State.bootStart_keeps
    | with_reducible apply State.prepareFault_keeps
    | with_reducible apply State.s3Power_keeps
    | with_reducible apply ite_keeps
    | fail_if_no_progress with_reducible apply State.Keeps.mk'

theorem State.recoveryEnd_keeps {s r : State} (h : s.Keeps r) : s.Keeps (State.recoveryEnd r) := by
  unfold State.recoveryEnd
  repeat' first
    | with_reducible assumption
    | intro _
    | with_reducible apply State.put_keeps
    | with_reducible apply State.putB_keeps
    | with_reducible apply State.raiseBit_keeps
    | with_reducible apply State.when_keeps
    | with_reducible apply ite_keeps

theorem State.fcuPend_keeps {s r : State} {src : Nat} {cls : Nat} {pair : Bool} {forced : Bool} (h : s.Keeps r) : s.Keeps (State.fcuPend r src cls pair forced) := by
  unfold State.fcuPend
  repeat' first
    | with_reducible assumption
    | with_reducible apply State.raiseBit_keeps
    | fail_if_no_progress with_reducible apply State.Keeps.mk'

theorem State.fcuActivate_keeps {s r : State} {src : Nat} {cls : Nat} {pair : Bool} {forced : Bool} (h : s.Keeps r) : s.Keeps (State.fcuActivate r src cls pair forced) := by
  unfold State.fcuActivate
  repeat' first
    | with_reducible assumption
    | intro _
    | with_reducible apply State.raiseBit_keeps
    | with_reducible apply State.when_keeps
    | with_reducible apply State.pmuWake_keeps
    | with_reducible apply State.fcuRecord_keeps
    | with_reducible apply State.prepareFault_keeps
    | with_reducible apply State.s4React_keeps
    | with_reducible apply State.s3React_keeps
    | with_reducible apply State.fcuPend_keeps
    | with_reducible apply ite_keeps

theorem State.fcuEvents_keeps {s r : State} {es : List (Nat × Bool)} (h : s.Keeps r) : s.Keeps (State.fcuEvents r es) := by
  unfold State.fcuEvents
  repeat' first
    | with_reducible assumption
    | intro _
    | with_reducible apply State.raiseBit_keeps
    | with_reducible apply State.each_keeps
    | with_reducible apply State.fcuActivate_keeps

theorem State.fcuSample_keeps {s r : State} {on : List Nat} {off : List Nat} (h : s.Keeps r) : s.Keeps (State.fcuSample r on off) := by
  unfold State.fcuSample
  repeat' first
    | with_reducible assumption
    | intro _
    | with_reducible apply State.putB_keeps
    | with_reducible apply State.each_keeps
    | with_reducible apply State.fcuEvents_keeps

theorem State.underSample_keeps {s r : State} {raised : List Nat} (h : s.Keeps r) : s.Keeps (State.underSample r raised) := by
  unfold State.underSample
  repeat' first
    | with_reducible assumption
    | intro _
    | with_reducible apply ite_keeps
    | with_reducible apply ite_keepsFst
    | with_reducible apply KeepsFst.fst
    | fail_if_no_progress with_reducible apply State.Keeps.mk'

theorem State.pfrcCount_keeps {s r : State} (h : s.Keeps r) : s.Keeps (State.pfrcCount r) := by
  unfold State.pfrcCount
  repeat' first
    | with_reducible assumption
    | intro _
    | with_reducible apply State.when_keeps
    | fail_if_no_progress with_reducible apply State.Keeps.mk'

theorem State.outageRead_keeps {s r : State} (h : s.Keeps r) : s.Keeps (State.outageRead r) := by
  unfold State.outageRead
  repeat' first
    | with_reducible assumption
    | intro _
    | with_reducible apply State.putB_keeps
    | with_reducible apply State.each_keeps
    | with_reducible apply State.fcuEvents_keeps
    | with_reducible apply ite_keeps
    | fail_if_no_progress with_reducible apply State.Keeps.mk'

theorem State.fcuSampleAll_keeps {s r : State} (h : s.Keeps r) : s.Keeps (State.fcuSampleAll r) := by
  unfold State.fcuSampleAll
  repeat' first
    | with_reducible assumption
    | intro _
    | with_reducible apply State.putB_keeps
    | with_reducible apply State.each_keeps
    | with_reducible apply State.fcuEvents_keeps
    | with_reducible apply State.underSample_keeps
    | with_reducible apply State.pfrcCount_keeps
    | with_reducible apply State.outageRead_keeps
    | with_reducible apply ite_keeps
    | with_reducible apply ite_keepsFst
    | with_reducible apply KeepsFst.fst
    | fail_if_no_progress with_reducible apply State.Keeps.mk'

theorem State.fcuAck_keeps {s r : State} {src : Nat} (h : s.Keeps r) : s.Keeps (State.fcuAck r src) := by
  unfold State.fcuAck
  repeat' first
    | with_reducible assumption
    | with_reducible apply State.putB_keeps
    | with_reducible apply State.raiseBit_keeps
    | with_reducible apply State.recoveryStart_keeps
    | with_reducible apply ite_keeps
    | fail_if_no_progress with_reducible apply State.Keeps.mk'

theorem State.sevNibble_keeps {s r : State} {m : Master} {src : Nat} {x : Nat} (h : s.Keeps r) : s.Keeps (State.sevNibble r m src x) := by
  unfold State.sevNibble
  repeat' first
    | with_reducible assumption
    | intro _
    | with_reducible apply State.put_keeps
    | with_reducible apply State.raiseBit_keeps
    | with_reducible apply ite_keeps
    | fail_if_no_progress with_reducible apply State.Keeps.mk'

theorem State.sevWrite_keeps {s r : State} {m : Master} {k : Nat} {a : Access} {v : BitVec 64} (h : s.Keeps r) : s.Keeps (State.sevWrite r m k a v) := by
  unfold State.sevWrite
  repeat' first
    | with_reducible assumption
    | intro _
    | with_reducible apply State.each_keeps
    | with_reducible apply State.fcuOwned_keeps
    | with_reducible apply State.sevNibble_keeps

theorem State.tmrField_keeps {s r : State} {m : Master} {f : Fld} {x : Nat} {longer : Bool} (h : s.Keeps r) : s.Keeps (State.tmrField r m f x longer) := by
  unfold State.tmrField
  repeat' first
    | with_reducible assumption
    | with_reducible apply State.put_keeps
    | with_reducible apply State.raiseBit_keeps
    | with_reducible apply ite_keeps

theorem State.tmrWrite_keeps {s r : State} {m : Master} {a : Access} {v : BitVec 64} (h : s.Keeps r) : s.Keeps (State.tmrWrite r m a v) := by
  unfold State.tmrWrite
  repeat' first
    | with_reducible assumption
    | intro _
    | with_reducible apply State.fcuOwned_keeps
    | with_reducible apply State.tmrField_keeps

theorem State.forceOn_keeps {s r : State} {src : Nat} (h : s.Keeps r) : s.Keeps (State.forceOn r src) := by
  unfold State.forceOn
  repeat' first
    | with_reducible assumption
    | intro _
    | with_reducible apply State.putB_keeps
    | with_reducible apply ite_keeps
    | with_reducible apply ite_keepsFst
    | with_reducible apply KeepsFst.fst
    | fail_if_no_progress with_reducible apply State.Keeps.mk'

theorem State.forceOff_keeps {s r : State} {src : Nat} (h : s.Keeps r) : s.Keeps (State.forceOff r src) := by
  unfold State.forceOff
  repeat' first
    | with_reducible assumption
    | intro _
    | with_reducible apply State.putB_keeps
    | with_reducible apply KeepsFst.fst
    | fail_if_no_progress with_reducible apply State.Keeps.mk'

theorem State.forceAll_keeps {s r : State} {on : List Nat} {off : List Nat} (h : s.Keeps r) : s.Keeps (State.forceAll r on off) := by
  unfold State.forceAll
  repeat' first
    | with_reducible assumption
    | intro _
    | with_reducible apply State.each_keeps
    | with_reducible apply State.fcuSample_keeps
    | with_reducible apply State.forceOn_keeps
    | with_reducible apply State.forceOff_keeps

theorem State.forceOne_keeps {s r : State} {src : Nat} {on : Bool} (h : s.Keeps r) : s.Keeps (State.forceOne r src on) := by
  unfold State.forceOne
  repeat' first
    | with_reducible assumption
    | with_reducible apply State.forceAll_keeps
    | with_reducible apply ite_keeps

theorem State.frcWrite_keeps {s r : State} {m : Master} {k : Nat} {a : Access} {v : BitVec 64} (h : s.Keeps r) : s.Keeps (State.frcWrite r m k a v) := by
  unfold State.frcWrite
  repeat' first
    | with_reducible assumption
    | intro _
    | with_reducible apply State.raiseBit_keeps
    | with_reducible apply State.when_keeps
    | with_reducible apply State.fcuOwned_keeps
    | with_reducible apply State.forceAll_keeps

theorem State.pairFault_keeps {s r : State} {src : Nat} (h : s.Keeps r) : s.Keeps (State.pairFault r src) := by
  unfold State.pairFault
  repeat' first
    | with_reducible assumption
    | with_reducible apply State.fcuEvents_keeps
    | with_reducible apply ite_keeps
    | fail_if_no_progress with_reducible apply State.Keeps.mk'

theorem State.pfrcSet_keeps {s r : State} {en : Nat} {src : Nat} (h : s.Keeps r) : s.Keeps (State.pfrcSet r en src) := by
  unfold State.pfrcSet
  repeat' first
    | with_reducible assumption
    | with_reducible apply State.put_keeps
    | with_reducible apply State.fcuSample_keeps
    | with_reducible apply ite_keeps
    | split
    | dsimp only
    | fail_if_no_progress with_reducible apply State.Keeps.mk'

theorem State.pfrcWrite_keeps {s r : State} {m : Master} {a : Access} {v : BitVec 64} (h : s.Keeps r) : s.Keeps (State.pfrcWrite r m a v) := by
  unfold State.pfrcWrite
  repeat' first
    | with_reducible assumption
    | intro _
    | with_reducible apply State.raiseBit_keeps
    | with_reducible apply State.fcuOwned_keeps
    | with_reducible apply State.pfrcSet_keeps
    | with_reducible apply ite_keeps

end Sys2Proof.Machine
end

