-- ==== Sys2Proof/Laws/Keeps11.lean ====
section
/-!
SUPPORT. What the operations and meanings of Machine/GweOps, NslAgree, Eth keep, one lemma each (State.Keeps).
-/

namespace Sys2Proof.Machine

theorem State.ethForward_keeps {s r : State} {v : Nat} {p : Nat} {vid : Nat} {pcp : Nat} {f : EthFrame} {desc : Option Nat} (h : s.Keeps r) : s.Keeps (State.ethForward r v p vid pcp f desc) := by
  unfold State.ethForward
  repeat' first
    | with_reducible assumption
    | with_reducible apply State.ethOut_keeps

theorem State.ringRx_keeps {s r : State} {src : Nat} {bytes : List Byte} {stamp : Nat} {e : MemErr} (h : s.Keeps r) : s.Keeps (State.ringRx r src bytes stamp e) := by
  unfold State.ringRx
  repeat' first
    | with_reducible assumption
    | with_reducible apply State.put_keeps
    | with_reducible apply State.raiseBit_keeps
    | with_reducible apply State.incSat_keeps
    | with_reducible apply State.dmaEcc_keeps
    | with_reducible apply State.dmaWrite_keeps
    | with_reducible apply ite_keeps

theorem State.macLearn_keeps {s r : State} {mac : BitVec 48} {vid : Nat} {p : Nat} (h : s.Keeps r) : s.Keeps (State.macLearn r mac vid p) := by
  unfold State.macLearn
  repeat' first
    | with_reducible assumption
    | intro _
    | with_reducible apply State.draw_keeps
    | with_reducible refine State.draw_keeps' (by with_reducible assumption) ?_
    | with_reducible apply ite_keeps
    | with_reducible apply ite_keepsFst
    | with_reducible apply KeepsFst.fst
    | fail_if_no_progress with_reducible apply State.Keeps.mk'

theorem State.gweIn_keeps {s r : State} {x : GweFrame} (h : s.Keeps r) : s.Keeps (State.gweIn r x) := by
  unfold State.gweIn
  repeat' first
    | with_reducible assumption
    | with_reducible apply State.incSat_keeps
    | with_reducible apply State.raiseL_keeps
    | with_reducible apply ite_keeps
    | fail_if_no_progress with_reducible apply State.Keeps.mk'

theorem State.gwCan_keeps {s r : State} {n : Nat} {f : CanFrame} (h : s.Keeps r) : s.Keeps (State.gwCan r n f) := by
  unfold State.gwCan
  repeat' first
    | with_reducible assumption
    | with_reducible apply State.incSat_keeps
    | with_reducible apply State.setCn_keeps
    | with_reducible apply ite_keeps

theorem State.gwLin_keeps {s r : State} {n : Nat} {i : Nat} {data : List Byte} (h : s.Keeps r) : s.Keeps (State.gwLin r n i data) := by
  unfold State.gwLin
  repeat' first
    | with_reducible assumption
    | with_reducible apply State.put_keeps
    | with_reducible apply State.incSat_keeps
    | with_reducible apply State.linTxreq_keeps
    | with_reducible apply ite_keeps

theorem State.sendEncap_keeps {s r : State} {p : Nat} {k : Nat} {src : Nat} {m : AcfMsg} (h : s.Keeps r) : s.Keeps (State.sendEncap r p k src m) := by
  unfold State.sendEncap
  repeat' first
    | with_reducible assumption
    | with_reducible apply State.ethOut_keeps
    | fail_if_no_progress with_reducible apply State.Keeps.mk'

theorem State.sendCan_keeps {s r : State} {o : RouteOut} {c : Nat} {src : Nat} {stamp : Nat} {f : CanFrame} {e : MemErr} (h : s.Keeps r) : s.Keeps (State.sendCan r o c src stamp f e) := by
  unfold State.sendCan
  repeat' first
    | with_reducible assumption
    | with_reducible apply State.incSat_keeps
    | with_reducible apply State.ringRx_keeps
    | with_reducible apply State.gwCan_keeps
    | with_reducible apply State.gwLin_keeps
    | with_reducible apply State.sendEncap_keeps
    | with_reducible apply ite_keeps
    | with_reducible apply ite_keepsFst
    | with_reducible apply KeepsFst.fst
    | split

theorem State.sendLin_keeps {s r : State} {o : RouteOut} {c : Nat} {src : Nat} {id : Nat} {stamp : Nat} {data : List Byte} {e : MemErr} (h : s.Keeps r) : s.Keeps (State.sendLin r o c src id stamp data e) := by
  unfold State.sendLin
  repeat' first
    | with_reducible assumption
    | with_reducible apply State.incSat_keeps
    | with_reducible apply State.ringRx_keeps
    | with_reducible apply State.gwCan_keeps
    | with_reducible apply State.gwLin_keeps
    | with_reducible apply State.sendEncap_keeps
    | with_reducible apply ite_keeps

theorem State.sendEth_keeps {s r : State} {c : Nat} {src : Nat} {stamp : Nat} {f : EthFrame} {e : MemErr} (h : s.Keeps r) : s.Keeps (State.sendEth r c src stamp f e) := by
  unfold State.sendEth
  repeat' first
    | with_reducible assumption
    | with_reducible apply State.incSat_keeps
    | with_reducible apply State.ethOut_keeps
    | with_reducible apply State.ringRx_keeps
    | with_reducible apply ite_keeps

theorem State.setRoute_keeps {s r' : State} {bank : Nat} {i : Nat} {r : Route} (h : s.Keeps r') : s.Keeps (State.setRoute r' bank i r) := by
  unfold State.setRoute
  repeat' first
    | with_reducible assumption
    | fail_if_no_progress with_reducible apply State.Keeps.mk'

theorem State.setImage_keeps {s r : State} {g : Nat} {v : Nat} (h : s.Keeps r) : s.Keeps (State.setImage r g v) := by
  unfold State.setImage
  repeat' first
    | with_reducible assumption
    | intro _
    | with_reducible apply State.put_keeps
    | with_reducible apply State.each_keeps

theorem State.signal_keeps {s r' : State} {r : Route} {x : GweFrame} (h : s.Keeps r') : KeepsFst s (State.signal r' r x) := by
  unfold State.signal
  repeat' first
    | with_reducible assumption
    | with_reducible apply State.setImage_keeps
    | with_reducible apply ite_keeps
    | with_reducible apply ite_keepsFst
    | fail_if_no_progress with_reducible apply State.Keeps.mk'
    | with_reducible apply KeepsFst.mk

theorem State.signal_keeps' {s r' t : State} {r : Route} {x : GweFrame} {y : CanFrame} (e : State.signal r' r x = (t, y)) (h : s.Keeps r') :
    s.Keeps t :=
  (State.signal_keeps h).elim e

theorem State.routeFrame_keeps {s r' : State} {r : Route} {x : GweFrame} {e : MemErr} (h : s.Keeps r') : s.Keeps (State.routeFrame r' r x e) := by
  unfold State.routeFrame
  repeat' first
    | with_reducible assumption
    | intro _
    | with_reducible apply State.each_keeps
    | with_reducible apply State.sendCan_keeps
    | with_reducible apply State.sendLin_keeps
    | with_reducible apply State.sendEth_keeps
    | with_reducible apply State.signal_keeps
    | with_reducible refine State.signal_keeps' (by with_reducible assumption) ?_
    | with_reducible apply KeepsFst.fst
    | split
    | dsimp only
    | fail_if_no_progress with_reducible apply State.Keeps.mk'

theorem State.routeHit_keeps {s r' : State} {i : Nat} {r : Route} {x : GweFrame} {e : MemErr} (h : s.Keeps r') : s.Keeps (State.routeHit r' i r x e) := by
  unfold State.routeHit
  repeat' first
    | with_reducible assumption
    | with_reducible apply State.put_keeps
    | with_reducible apply State.incSat_keeps
    | with_reducible apply State.incWrap_keeps
    | with_reducible apply State.routeFrame_keeps
    | with_reducible apply ite_keeps
    | fail_if_no_progress with_reducible apply State.Keeps.mk'

theorem State.gweLookup_keeps {s r : State} {bad : List Nat} {e : MemErr} (h : s.Keeps r) : s.Keeps (State.gweLookup r bad e) := by
  unfold State.gweLookup
  repeat' first
    | with_reducible assumption
    | with_reducible apply State.raiseL_keeps
    | with_reducible apply State.ringRx_keeps
    | with_reducible apply State.routeHit_keeps
    | with_reducible apply ite_keeps
    | split
    | dsimp only
    | fail_if_no_progress with_reducible apply State.Keeps.mk'

theorem State.gwNotice_keeps {s r : State} {n : Nat} {f : CanFrame} (h : s.Keeps r) : s.Keeps (State.gwNotice r n f) := by
  unfold State.gwNotice
  repeat' first
    | with_reducible assumption
    | with_reducible apply State.incSat_keeps
    | with_reducible apply State.setCn_keeps
    | with_reducible apply ite_keeps

theorem State.gweSendNotice_keeps {s r : State} {n : Notice} (h : s.Keeps r) : s.Keeps (State.gweSendNotice r n) := by
  unfold State.gweSendNotice
  repeat' first
    | with_reducible assumption
    | intro _
    | with_reducible apply State.raiseBit_keeps
    | with_reducible apply State.incSat_keeps
    | with_reducible apply State.each_keeps
    | with_reducible apply State.ethOut_keeps
    | with_reducible apply State.gwNotice_keeps
    | with_reducible apply ite_keeps
    | split

theorem State.gweNotice_keeps {s r : State} {port : Nat} {l : List Byte} (h : s.Keeps r) : s.Keeps (State.gweNotice r port l) := by
  unfold State.gweNotice
  repeat' first
    | with_reducible assumption
    | with_reducible apply State.incSat_keeps
    | with_reducible apply State.noticeRx_keeps
    | split

theorem State.nslCheck_keeps {s r : State} (h : s.Keeps r) : s.Keeps (State.nslCheck r) := by
  unfold State.nslCheck
  repeat' first
    | with_reducible assumption
    | with_reducible apply State.nslSleep_keeps
    | with_reducible apply State.pmuRequest_keeps
    | with_reducible apply ite_keeps

theorem State.busWake_keeps {s r : State} {m : Nat} {kind : Nat} (h : s.Keeps r) : s.Keeps (State.busWake r m kind) := by
  unfold State.busWake
  repeat' first
    | with_reducible assumption
    | with_reducible apply State.nslWakeRecord_keeps
    | with_reducible apply State.pmuWake_keeps

theorem State.canHandOn_keeps {s r : State} {n : Nat} {f : CanFrame} {stamp : Nat} {vbat : Nat} (h : s.Keeps r) : s.Keeps (State.canHandOn r n f stamp vbat) := by
  unfold State.canHandOn
  repeat' first
    | with_reducible assumption
    | with_reducible apply State.nslFrame_keeps
    | with_reducible apply State.segRx_keeps
    | with_reducible apply State.speedRx_keeps
    | with_reducible apply State.gweIn_keeps
    | with_reducible apply State.gweNotice_keeps
    | with_reducible apply ite_keeps

theorem State.eswOwned_keeps {s r : State} {m : Master} {f : State → State} (h : s.Keeps r) (hf : ∀ t, s.Keeps t → s.Keeps (f t)) : s.Keeps (State.eswOwned r m f) := by
  unfold State.eswOwned
  repeat' first
    | with_reducible assumption
    | intro _
    | with_reducible apply State.raiseBit_keeps
    | with_reducible apply hf
    | with_reducible apply ite_keeps

theorem State.gweOwned_keeps {s r : State} {m : Master} {f : State → State} (h : s.Keeps r) (hf : ∀ t, s.Keeps t → s.Keeps (f t)) : s.Keeps (State.gweOwned r m f) := by
  unfold State.gweOwned
  repeat' first
    | with_reducible assumption
    | intro _
    | with_reducible apply State.raiseBit_keeps
    | with_reducible apply hf
    | with_reducible apply ite_keeps

theorem State.ethSwitch_keeps {s r : State} {p : Nat} {v : Nat} {f : EthFrame} {stamp : Nat} {desc : Option Nat} (h : s.Keeps r) : s.Keeps (State.ethSwitch r p v f stamp desc) := by
  unfold State.ethSwitch
  repeat' first
    | with_reducible assumption
    | intro _
    | with_reducible apply State.each_keeps
    | with_reducible apply State.ethForward_keeps
    | with_reducible apply State.macLearn_keeps
    | with_reducible apply State.gweIn_keeps
    | with_reducible apply ite_keeps

theorem State.ethReceive_keeps {s r : State} {p : Nat} {f : EthFrame} {fcsOk : Bool} {stamp : Nat} {vbat : Nat} (h : s.Keeps r) : s.Keeps (State.ethReceive r p f fcsOk stamp vbat) := by
  unfold State.ethReceive
  repeat' first
    | with_reducible assumption
    | with_reducible apply State.incSat_keeps
    | with_reducible apply State.segRx_keeps
    | with_reducible apply State.gweNotice_keeps
    | with_reducible apply State.ethSwitch_keeps
    | with_reducible apply ite_keeps
    | split

theorem execEthFrameRx_keeps {s r : State} {p : Fin 4} {f : EthFrame} {fcsOk : Bool} {stamp : BitVec 64} {vbat : BitVec 16} (h : s.Keeps r) : KeepsOut s (execEthFrameRx p f fcsOk stamp vbat r) := by
  unfold execEthFrameRx
  repeat' first
    | with_reducible assumption
    | with_reducible apply State.ethReceive_keeps
    | with_reducible apply KeepsOut.next

theorem State.macExpire_keeps {s r : State} {mac : BitVec 48} {vid : Nat} (h : s.Keeps r) : s.Keeps (State.macExpire r mac vid) := by
  unfold State.macExpire
  repeat' first
    | with_reducible assumption
    | intro _
    | with_reducible apply ite_keeps
    | fail_if_no_progress with_reducible apply State.Keeps.mk'

theorem execMacAgeExpire_keeps {s r : State} {mac : BitVec 48} {vid : BitVec 12} (h : s.Keeps r) : KeepsOut s (execMacAgeExpire mac vid r) := by
  unfold execMacAgeExpire
  repeat' first
    | with_reducible assumption
    | with_reducible apply State.macExpire_keeps
    | with_reducible apply ite_keeps
    | with_reducible apply ite_keepsOut
    | with_reducible apply KeepsOut.next

theorem execEthLinkChange_keeps {s r : State} {p : Fin 4} {up : Bool} (h : s.Keeps r) : KeepsOut s (execEthLinkChange p up r) := by
  unfold execEthLinkChange
  repeat' first
    | with_reducible assumption
    | intro _
    | with_reducible apply State.putB_keeps
    | with_reducible apply State.linkWatch_keeps
    | with_reducible apply ite_keeps
    | with_reducible apply ite_keepsOut
    | with_reducible apply KeepsOut.next

theorem State.txFrame_keeps {s r : State} {w : Nat} {f : EthFrame} {desc : Option Nat} (h : s.Keeps r) : s.Keeps (State.txFrame r w f desc) := by
  unfold State.txFrame
  repeat' first
    | with_reducible assumption
    | intro _
    | with_reducible apply State.each_keeps
    | with_reducible apply State.ethOut_keeps
    | with_reducible apply State.ethSwitch_keeps
    | with_reducible apply ite_keeps
    | split

theorem State.internalTx_keeps {s r : State} {e : MemErr} (h : s.Keeps r) : s.Keeps (State.internalTx r e) := by
  unfold State.internalTx
  repeat' first
    | with_reducible assumption
    | with_reducible apply State.dmaEcc_keeps
    | with_reducible apply State.txReturn_keeps
    | with_reducible apply State.txAdvance_keeps
    | with_reducible apply State.txFrame_keeps
    | with_reducible apply ite_keeps

theorem execInternalTx_keeps {s r : State} {e : MemErr} (h : s.Keeps r) : KeepsOut s (execInternalTx e r) := by
  unfold execInternalTx
  repeat' first
    | with_reducible assumption
    | with_reducible apply State.internalTx_keeps
    | with_reducible apply KeepsOut.next

theorem execGweLookup_keeps {s r : State} {x : LookupRead} (h : s.Keeps r) : KeepsOut s (execGweLookup x r) := by
  unfold execGweLookup
  repeat' first
    | with_reducible assumption
    | intro _
    | with_reducible apply State.gweLookup_keeps
    | with_reducible apply ite_keeps
    | with_reducible apply ite_keepsOut
    | with_reducible apply KeepsOut.next

theorem State.tokenRefill_keeps {s r : State} {bank : Nat} {i : Nat} (h : s.Keeps r) : s.Keeps (State.tokenRefill r bank i) := by
  unfold State.tokenRefill
  repeat' first
    | with_reducible assumption
    | fail_if_no_progress with_reducible apply State.Keeps.mk'

theorem execGweTokenRefill_keeps {s r : State} {bank : Fin 2} {i : Fin 4096} (h : s.Keeps r) : KeepsOut s (execGweTokenRefill bank i r) := by
  unfold execGweTokenRefill
  repeat' first
    | with_reducible assumption
    | with_reducible apply State.tokenRefill_keeps
    | with_reducible apply ite_keeps
    | with_reducible apply ite_keepsOut
    | with_reducible apply KeepsOut.next

theorem State.gweRead_keeps {s r : State} {bank : Nat} {i : Nat} (h : s.Keeps r) : s.Keeps (State.gweRead r bank i) := by
  unfold State.gweRead
  repeat' first
    | with_reducible assumption
    | with_reducible apply State.setReg_keeps

theorem State.gweCommand_keeps {s r : State} {op : Nat} {bank : Nat} {i : Nat} (h : s.Keeps r) : s.Keeps (State.gweCommand r op bank i) := by
  unfold State.gweCommand
  repeat' first
    | with_reducible assumption
    | with_reducible apply State.put_keeps
    | with_reducible apply State.putB_keeps
    | with_reducible apply State.raiseBit_keeps
    | with_reducible apply State.setRoute_keeps
    | with_reducible apply State.gweRead_keeps
    | with_reducible apply ite_keeps
    | split

theorem State.gweCommandBy_keeps {s r : State} {m : Master} {op : Nat} {bank : Nat} {i : Nat} (h : s.Keeps r) : s.Keeps (State.gweCommandBy r m op bank i) := by
  unfold State.gweCommandBy
  repeat' first
    | with_reducible assumption
    | intro _
    | with_reducible apply State.access_keeps
    | with_reducible apply State.gweOwned_keeps
    | with_reducible apply State.gweCommand_keeps

theorem execGweReadEntry_keeps {s r : State} {m : Master} {bank : Fin 2} {i : Fin 4096} (h : s.Keeps r) : KeepsOut s (execGweReadEntry m bank i r) := by
  unfold execGweReadEntry
  repeat' first
    | with_reducible assumption
    | with_reducible apply State.gweCommandBy_keeps
    | with_reducible apply KeepsOut.next

theorem execGweWriteShadow_keeps {s r : State} {m : Master} {bank : Fin 2} {i : Fin 4096} (h : s.Keeps r) : KeepsOut s (execGweWriteShadow m bank i r) := by
  unfold execGweWriteShadow
  repeat' first
    | with_reducible assumption
    | with_reducible apply State.gweCommandBy_keeps
    | with_reducible apply KeepsOut.next

theorem execGweCopy_keeps {s r : State} {m : Master} {bank : Fin 2} {i : Fin 4096} (h : s.Keeps r) : KeepsOut s (execGweCopy m bank i r) := by
  unfold execGweCopy
  repeat' first
    | with_reducible assumption
    | with_reducible apply State.gweCommandBy_keeps
    | with_reducible apply KeepsOut.next

theorem execGweSwap_keeps {s r : State} {m : Master} {bank : Fin 2} {i : Fin 4096} (h : s.Keeps r) : KeepsOut s (execGweSwap m bank i r) := by
  unfold execGweSwap
  repeat' first
    | with_reducible assumption
    | with_reducible apply State.gweCommandBy_keeps
    | with_reducible apply KeepsOut.next

theorem State.gweCopied_keeps {s r : State} (h : s.Keeps r) : s.Keeps (State.gweCopied r) := by
  unfold State.gweCopied
  repeat' first
    | with_reducible assumption
    | intro _
    | with_reducible apply State.putB_keeps
    | with_reducible apply ite_keeps
    | with_reducible apply ite_keepsFst
    | with_reducible apply KeepsFst.fst
    | fail_if_no_progress with_reducible apply State.Keeps.mk'

theorem execGweCopyDone_keeps {s r : State} (h : s.Keeps r) : KeepsOut s (execGweCopyDone r) := by
  unfold execGweCopyDone
  repeat' first
    | with_reducible assumption
    | with_reducible apply State.gweCopied_keeps
    | with_reducible apply ite_keeps
    | with_reducible apply ite_keepsOut
    | with_reducible apply KeepsOut.next

end Sys2Proof.Machine
end

