-- ==== Sys2Proof/Laws/Keeps12.lean ====
section
/-!
SUPPORT. What the operations and meanings of Machine/Diag keep, one lemma each (State.Keeps).
-/

namespace Sys2Proof.Machine

theorem State.saStart_keeps {s r : State} {a : Nat} (h : s.Keeps r) : s.Keeps (State.saStart r a) := by
  unfold State.saStart
  repeat' first
    | with_reducible assumption
    | with_reducible apply State.raiseBit_keeps
    | with_reducible apply State.setAdc_keeps
    | with_reducible apply ite_keeps

theorem State.saGo_keeps {s r : State} {a : Nat} (h : s.Keeps r) : s.Keeps (State.saGo r a) := by
  unfold State.saGo
  repeat' first
    | with_reducible assumption
    | with_reducible apply State.saStart_keeps
    | with_reducible apply ite_keeps

theorem execSaGo_keeps {s r : State} {a : Fin 4} (h : s.Keeps r) : KeepsOut s (execSaGo a r) := by
  unfold execSaGo
  repeat' first
    | with_reducible assumption
    | with_reducible apply State.saGo_keeps
    | with_reducible apply KeepsOut.next

theorem execSaCounterTrigger_keeps {s r : State} {a : Fin 4} (h : s.Keeps r) : KeepsOut s (execSaCounterTrigger a r) := by
  unfold execSaCounterTrigger
  repeat' first
    | with_reducible assumption
    | with_reducible apply State.setAdc_keeps
    | with_reducible apply State.saStart_keeps
    | with_reducible apply ite_keeps
    | with_reducible apply ite_keepsOut
    | with_reducible apply KeepsOut.next

theorem execSaTimeTrigger_keeps {s r : State} {a : Fin 4} (h : s.Keeps r) : KeepsOut s (execSaTimeTrigger a r) := by
  unfold execSaTimeTrigger
  repeat' first
    | with_reducible assumption
    | with_reducible apply State.setAdc_keeps
    | with_reducible apply State.saStart_keeps
    | with_reducible apply ite_keeps
    | with_reducible apply ite_keepsOut
    | with_reducible apply KeepsOut.next

theorem State.saTimeWrite_keeps {s r : State} {a : Nat} {v : Nat} (h : s.Keeps r) : s.Keeps (State.saTimeWrite r a v) := by
  unfold State.saTimeWrite
  repeat' first
    | with_reducible assumption
    | intro _
    | with_reducible apply State.put_keeps
    | with_reducible apply State.raiseBit_keeps
    | with_reducible apply State.when_keeps
    | with_reducible apply State.setAdc_keeps

theorem execSaTimeWrite_keeps {s r : State} {a : Fin 4} {v : BitVec 32} (h : s.Keeps r) : KeepsOut s (execSaTimeWrite a v r) := by
  unfold execSaTimeWrite
  repeat' first
    | with_reducible assumption
    | with_reducible apply State.saTimeWrite_keeps
    | with_reducible apply KeepsOut.next

theorem execSaConversionDone_keeps {s r : State} {a : Fin 4} {value : BitVec 12} (h : s.Keeps r) : KeepsOut s (execSaConversionDone a value r) := by
  unfold execSaConversionDone
  repeat' first
    | with_reducible assumption
    | intro _
    | with_reducible apply State.put_keeps
    | with_reducible apply State.raiseBit_keeps
    | with_reducible apply State.when_keeps
    | with_reducible apply State.setAdc_keeps
    | with_reducible apply ite_keeps
    | with_reducible apply ite_keepsOut
    | with_reducible apply KeepsOut.next
    | split
    | dsimp only

theorem execSaCalFail_keeps {s r : State} {p : Fin 5} (h : s.Keeps r) : KeepsOut s (execSaCalFail p r) := by
  unfold execSaCalFail
  repeat' first
    | with_reducible assumption
    | with_reducible apply State.put_keeps
    | with_reducible apply State.raiseBit_keeps
    | with_reducible apply State.raiseP_keeps
    | with_reducible apply ite_keeps
    | with_reducible apply ite_keepsOut
    | with_reducible apply KeepsOut.next

theorem State.hswEvidence_keeps {s r : State} {n : Nat} {kind : Nat} (h : s.Keeps r) : s.Keeps (State.hswEvidence r n kind) := by
  unfold State.hswEvidence
  repeat' first
    | with_reducible assumption
    | with_reducible apply State.put_keeps
    | with_reducible apply State.raiseBit_keeps
    | with_reducible apply State.raiseP_keeps
    | with_reducible apply ite_keeps

theorem execOndiagWindowEnd_keeps {s r : State} {n : Fin 64} {iwin : BitVec 16} {vout : BitVec 16} {feed : BitVec 16} (h : s.Keeps r) : KeepsOut s (execOndiagWindowEnd n iwin vout feed r) := by
  unfold execOndiagWindowEnd
  repeat' first
    | with_reducible assumption
    | with_reducible apply State.put_keeps
    | with_reducible apply State.setHsc_keeps
    | with_reducible apply State.hswEval_keeps
    | with_reducible apply State.hswEvidence_keeps
    | with_reducible apply ite_keeps
    | with_reducible apply ite_keepsOut
    | with_reducible apply KeepsOut.next

theorem execOffdiagStart_keeps {s r : State} {n : Fin 64} (h : s.Keeps r) : KeepsOut s (execOffdiagStart n r) := by
  unfold execOffdiagStart
  repeat' first
    | with_reducible assumption
    | with_reducible apply State.setHsc_keeps
    | with_reducible apply ite_keeps
    | with_reducible apply ite_keepsOut
    | with_reducible apply KeepsOut.next

theorem execOffdiagResult_keeps {s r : State} {n : Fin 64} {vOff : BitVec 16} {vOn : BitVec 16} {own : Bool} (h : s.Keeps r) : KeepsOut s (execOffdiagResult n vOff vOn own r) := by
  unfold execOffdiagResult
  repeat' first
    | with_reducible assumption
    | with_reducible apply State.put_keeps
    | with_reducible apply State.setHsc_keeps
    | with_reducible apply State.hswEvidence_keeps
    | with_reducible apply ite_keeps
    | with_reducible apply ite_keepsOut
    | with_reducible apply KeepsOut.next

theorem execDiagStretch_keeps {s r : State} {n : Fin 64} (h : s.Keeps r) : KeepsOut s (execDiagStretch n r) := by
  unfold execDiagStretch
  repeat' first
    | with_reducible assumption
    | with_reducible apply State.setHsc_keeps
    | with_reducible apply ite_keeps
    | with_reducible apply ite_keepsOut
    | with_reducible apply KeepsOut.next

theorem State.hswDclr_keeps {s r : State} {m : Master} {n : Nat} (h : s.Keeps r) : s.Keeps (State.hswDclr r m n) := by
  unfold State.hswDclr
  repeat' first
    | with_reducible assumption
    | with_reducible apply State.put_keeps
    | with_reducible apply State.raiseBit_keeps
    | with_reducible apply ite_keeps

theorem execHswDclr_keeps {s r : State} {m : Master} {n : Fin 64} (h : s.Keeps r) : KeepsOut s (execHswDclr m n r) := by
  unfold execHswDclr
  repeat' first
    | with_reducible assumption
    | intro _
    | with_reducible apply State.access_keeps
    | with_reducible apply State.hswDclr_keeps
    | with_reducible apply KeepsOut.next

theorem State.slotWrite_keeps {s r : State} {b : OutBlock} {m : Master} {k : Nat} {v : BitVec 64} (h : s.Keeps r) : s.Keeps (State.slotWrite r b m k v) := by
  unfold State.slotWrite
  repeat' first
    | with_reducible assumption
    | with_reducible apply State.put_keeps
    | with_reducible apply ite_keeps

theorem State.testGo_keeps {s r : State} {b : OutBlock} {m : Master} {k : Nat} {v : BitVec 64} (h : s.Keeps r) : s.Keeps (State.testGo r b m k v) := by
  unfold State.testGo
  repeat' first
    | with_reducible assumption
    | with_reducible apply State.slotWrite_keeps

theorem execHswTestGo_keeps {s r : State} {m : Master} {k : Fin 8} {v : BitVec 64} (h : s.Keeps r) : KeepsOut s (execHswTestGo m k v r) := by
  unfold execHswTestGo
  repeat' first
    | with_reducible assumption
    | intro _
    | with_reducible apply State.access_keeps
    | with_reducible apply State.testGo_keeps
    | with_reducible apply KeepsOut.next

theorem execVlvTestGo_keeps {s r : State} {m : Master} {k : Fin 4} {v : BitVec 64} (h : s.Keeps r) : KeepsOut s (execVlvTestGo m k v r) := by
  unfold execVlvTestGo
  repeat' first
    | with_reducible assumption
    | intro _
    | with_reducible apply State.access_keeps
    | with_reducible apply State.testGo_keeps
    | with_reducible apply KeepsOut.next

theorem execLedTestGo_keeps {s r : State} {m : Master} {k : Fin 4} {v : BitVec 64} (h : s.Keeps r) : KeepsOut s (execLedTestGo m k v r) := by
  unfold execLedTestGo
  repeat' first
    | with_reducible assumption
    | intro _
    | with_reducible apply State.access_keeps
    | with_reducible apply State.testGo_keeps
    | with_reducible apply KeepsOut.next

theorem execDoutTestGo_keeps {s r : State} {m : Master} {k : Fin 2} {v : BitVec 64} (h : s.Keeps r) : KeepsOut s (execDoutTestGo m k v r) := by
  unfold execDoutTestGo
  repeat' first
    | with_reducible assumption
    | intro _
    | with_reducible apply State.access_keeps
    | with_reducible apply State.testGo_keeps
    | with_reducible apply KeepsOut.next

theorem execTestGapStart_keeps {s r : State} {b : OutBlock} {k : Fin 8} (h : s.Keeps r) : KeepsOut s (execTestGapStart b k r) := by
  unfold execTestGapStart
  repeat' first
    | with_reducible assumption
    | with_reducible apply State.put_keeps
    | with_reducible apply ite_keeps
    | with_reducible apply ite_keepsOut
    | with_reducible apply KeepsOut.next
    | fail_if_no_progress with_reducible apply State.Keeps.mk'

theorem State.evidence_keeps {s r : State} {b : OutBlock} {c : Nat} {kind : Nat} (h : s.Keeps r) : s.Keeps (State.evidence r b c kind) := by
  unfold State.evidence
  repeat' first
    | with_reducible assumption
    | with_reducible apply State.vlvEvidence_keeps
    | with_reducible apply State.sinkEvidence_keeps
    | with_reducible apply State.doutEvidence_keeps
    | with_reducible apply State.hswEvidence_keeps
    | split

theorem execTestDone_keeps {s r : State} {b : OutBlock} {k : Fin 8} {result : BitVec 4} (h : s.Keeps r) : KeepsOut s (execTestDone b k result r) := by
  unfold execTestDone
  repeat' first
    | with_reducible assumption
    | intro _
    | with_reducible apply State.put_keeps
    | with_reducible apply State.evidence_keeps
    | with_reducible apply ite_keeps
    | with_reducible apply ite_keepsOut
    | with_reducible apply KeepsOut.next
    | fail_if_no_progress with_reducible apply State.Keeps.mk'

theorem execTestDeadlineExpire_keeps {s r : State} {b : OutBlock} {k : Fin 8} (h : s.Keeps r) : KeepsOut s (execTestDeadlineExpire b k r) := by
  unfold execTestDeadlineExpire
  repeat' first
    | with_reducible assumption
    | with_reducible apply State.put_keeps
    | with_reducible apply ite_keeps
    | with_reducible apply ite_keepsOut
    | with_reducible apply KeepsOut.next

theorem execLinkCrcError_keeps {s r : State} (h : s.Keeps r) : KeepsOut s (execLinkCrcError r) := by
  unfold execLinkCrcError
  repeat' first
    | with_reducible assumption
    | with_reducible apply State.incSat_keeps
    | with_reducible apply KeepsOut.next

theorem State.ldieLost_keeps {s r : State} (h : s.Keeps r) : s.Keeps (State.ldieLost r) := by
  unfold State.ldieLost
  repeat' first
    | with_reducible assumption
    | with_reducible apply State.putB_keeps
    | with_reducible apply State.raiseBit_keeps
    | with_reducible apply State.raiseP_keeps
    | with_reducible apply State.limpApply_keeps

theorem execLdieLost_keeps {s r : State} (h : s.Keeps r) : KeepsOut s (execLdieLost r) := by
  unfold execLdieLost
  repeat' first
    | with_reducible assumption
    | with_reducible apply State.ldieLost_keeps
    | with_reducible apply ite_keeps
    | with_reducible apply ite_keepsOut
    | with_reducible apply KeepsOut.next

theorem State.linkUp_keeps {s r : State} (h : s.Keeps r) : s.Keeps (State.linkUp r) := by
  unfold State.linkUp
  repeat' first
    | with_reducible assumption
    | intro _
    | with_reducible apply State.raiseBit_keeps
    | with_reducible apply State.when_keeps
    | with_reducible apply ite_keeps
    | fail_if_no_progress with_reducible apply State.Keeps.mk'

theorem execLinkRestore_keeps {s r : State} (h : s.Keeps r) : KeepsOut s (execLinkRestore r) := by
  unfold execLinkRestore
  repeat' first
    | with_reducible assumption
    | with_reducible apply State.linkUp_keeps
    | with_reducible apply KeepsOut.next

theorem execLinkDownSeen_keeps {s r : State} (h : s.Keeps r) : KeepsOut s (execLinkDownSeen r) := by
  unfold execLinkDownSeen
  repeat' first
    | with_reducible assumption
    | with_reducible apply State.raiseL_keeps
    | with_reducible apply KeepsOut.next

theorem execBastingHoldExpire_keeps {s r : State} (h : s.Keeps r) : KeepsOut s (execBastingHoldExpire r) := by
  unfold execBastingHoldExpire
  repeat' first
    | with_reducible assumption
    | intro _
    | with_reducible apply State.raiseP_keeps
    | with_reducible apply State.limpApply_keeps
    | with_reducible apply ite_keeps
    | with_reducible apply ite_keepsOut
    | with_reducible apply KeepsOut.next

theorem execLimpNAssert_keeps {s r : State} (h : s.Keeps r) : KeepsOut s (execLimpNAssert r) := by
  unfold execLimpNAssert
  repeat' first
    | with_reducible assumption
    | with_reducible apply State.limpTrigger_keeps
    | with_reducible apply KeepsOut.next
    | fail_if_no_progress with_reducible apply State.Keeps.mk'

theorem execLimpNHigh_keeps {s r : State} (h : s.Keeps r) : KeepsOut s (execLimpNHigh r) := by
  unfold execLimpNHigh
  repeat' first
    | with_reducible assumption
    | with_reducible apply KeepsOut.next
    | fail_if_no_progress with_reducible apply State.Keeps.mk'

theorem State.releaseWrite_keeps {s r : State} (h : s.Keeps r) : s.Keeps (State.releaseWrite r) := by
  unfold State.releaseWrite
  repeat' first
    | with_reducible assumption
    | with_reducible apply State.limpRelease_keeps
    | with_reducible apply ite_keeps

theorem execLimpRelease_keeps {s r : State} (h : s.Keeps r) : KeepsOut s (execLimpRelease r) := by
  unfold execLimpRelease
  repeat' first
    | with_reducible assumption
    | with_reducible apply State.releaseWrite_keeps
    | with_reducible apply KeepsOut.next

end Sys2Proof.Machine
end

