-- ==== Sys2Proof/Laws/Keeps13.lean ====
section
/-!
SUPPORT. What the operations and meanings of Machine/Din, Mbx keep, one lemma each (State.Keeps).
-/

namespace Sys2Proof.Machine

theorem State.dinChange_keeps {s r : State} {n : Nat} {new : Nat} (h : s.Keeps r) : s.Keeps (State.dinChange r n new) := by
  unfold State.dinChange
  repeat' first
    | with_reducible assumption
    | intro _
    | with_reducible apply State.put_keeps
    | with_reducible apply State.raiseBit_keeps
    | with_reducible apply State.each_keeps
    | with_reducible apply State.when_keeps
    | with_reducible apply State.raiseP_keeps
    | with_reducible apply State.inputChanged_keeps
    | with_reducible apply State.gtCapture_keeps
    | with_reducible apply State.pmuWake_keeps
    | with_reducible apply ite_keeps

theorem State.dinDecide_keeps {s r : State} {n : Nat} {k : Nat} (h : s.Keeps r) : KeepsFst s (State.dinDecide r n k) := by
  unfold State.dinDecide
  repeat' first
    | with_reducible assumption
    | with_reducible apply State.put_keeps
    | with_reducible apply State.setDinc_keeps
    | with_reducible apply ite_keeps
    | with_reducible apply ite_keepsFst
    | fail_if_no_progress with_reducible apply State.Keeps.mk'
    | with_reducible apply KeepsFst.mk

theorem State.dinDecide_keeps' {s r t : State} {n : Nat} {k : Nat} {y : Nat} (e : State.dinDecide r n k = (t, y)) (h : s.Keeps r) :
    s.Keeps t :=
  (State.dinDecide_keeps h).elim e

theorem State.dinRestart_keeps {s r : State} {n : Nat} (h : s.Keeps r) : s.Keeps (State.dinRestart r n) := by
  unfold State.dinRestart
  repeat' first
    | with_reducible assumption
    | with_reducible apply State.put_keeps
    | with_reducible apply State.setDinc_keeps

theorem State.dinSettle_keeps {s r : State} {n : Nat} (h : s.Keeps r) : s.Keeps (State.dinSettle r n) := by
  unfold State.dinSettle
  repeat' first
    | with_reducible assumption
    | with_reducible apply State.put_keeps
    | with_reducible apply State.dinRestart_keeps
    | with_reducible apply ite_keeps

theorem execDinSample_keeps {s r : State} {n : Fin 96} {pin : BitVec 16} {vbat : BitVec 16} {wetOk : Bool} (h : s.Keeps r) : KeepsOut s (execDinSample n pin vbat wetOk r) := by
  unfold execDinSample
  repeat' first
    | with_reducible assumption
    | intro _
    | with_reducible apply State.put_keeps
    | with_reducible apply State.raiseBit_keeps
    | with_reducible apply State.when_keeps
    | with_reducible apply State.raiseP_keeps
    | with_reducible apply State.dinChange_keeps
    | with_reducible apply State.dinDecide_keeps
    | with_reducible refine State.dinDecide_keeps' (by with_reducible assumption) ?_
    | with_reducible apply State.dinSettle_keeps
    | with_reducible apply ite_keeps
    | with_reducible apply ite_keepsOut
    | with_reducible apply KeepsOut.next
    | with_reducible apply ite_keepsFst
    | with_reducible apply KeepsFst.fst

theorem State.dinConfig_keeps {s r' : State} {n : Nat} {r : Nat} {new : BitVec 64} (h : s.Keeps r') : KeepsFst s (State.dinConfig r' n r new) := by
  unfold State.dinConfig
  repeat' first
    | with_reducible assumption
    | intro _
    | with_reducible apply State.setReg_keeps
    | with_reducible apply State.raiseBit_keeps
    | with_reducible apply State.when_keeps
    | with_reducible apply State.setDinc_keeps
    | with_reducible apply ite_keeps
    | with_reducible apply ite_keepsFst
    | fail_if_no_progress with_reducible apply State.Keeps.mk'
    | with_reducible apply KeepsFst.mk

theorem State.dinConfig_keeps' {s r' t : State} {n : Nat} {r : Nat} {new : BitVec 64} {y : Bool} (e : State.dinConfig r' n r new = (t, y)) (h : s.Keeps r') :
    s.Keeps t :=
  (State.dinConfig_keeps h).elim e

theorem State.dinConfigWrite_keeps {s r' : State} {m : Master} {n : Nat} {r : Fin 3} {a : Access} {v : BitVec 64} (h : s.Keeps r') : s.Keeps (State.dinConfigWrite r' m n r a v) := by
  unfold State.dinConfigWrite
  repeat' first
    | with_reducible assumption
    | with_reducible apply State.raiseBit_keeps
    | with_reducible apply State.dinConfig_keeps
    | with_reducible refine State.dinConfig_keeps' (by with_reducible assumption) ?_
    | with_reducible apply ite_keeps
    | with_reducible apply ite_keepsFst
    | with_reducible apply KeepsFst.fst

theorem execDinConfigWrite_keeps {s r' : State} {m : Master} {n : Fin 96} {r : Fin 3} {a : Access} {v : BitVec 64} (h : s.Keeps r') : KeepsOut s (execDinConfigWrite m n r a v r') := by
  unfold execDinConfigWrite
  repeat' first
    | with_reducible assumption
    | intro _
    | with_reducible apply State.access_keeps
    | with_reducible apply State.dinConfigWrite_keeps
    | with_reducible apply KeepsOut.next

theorem State.doutRefresh_keeps {s r : State} {m : Master} {n : Nat} {seq : Nat} (h : s.Keeps r) : s.Keeps (State.doutRefresh r m n seq) := by
  unfold State.doutRefresh
  repeat' first
    | with_reducible assumption
    | with_reducible apply State.put_keeps
    | with_reducible apply State.raiseBit_keeps
    | with_reducible apply State.startWindow_keeps
    | with_reducible apply ite_keeps

theorem execDoutRefresh_keeps {s r : State} {m : Master} {n : Fin 16} {seq : BitVec 4} (h : s.Keeps r) : KeepsOut s (execDoutRefresh m n seq r) := by
  unfold execDoutRefresh
  repeat' first
    | with_reducible assumption
    | intro _
    | with_reducible apply State.access_keeps
    | with_reducible apply State.doutRefresh_keeps
    | with_reducible apply KeepsOut.next

theorem execRefreshWindowExpire_keeps {s r : State} {n : Fin 16} (h : s.Keeps r) : KeepsOut s (execRefreshWindowExpire n r) := by
  unfold execRefreshWindowExpire
  repeat' first
    | with_reducible assumption
    | intro _
    | with_reducible apply State.put_keeps
    | with_reducible apply State.raiseBit_keeps
    | with_reducible apply State.setDou_keeps
    | with_reducible apply State.raiseP_keeps
    | with_reducible apply State.hitItems_keeps
    | with_reducible apply State.endPulse_keeps
    | with_reducible apply State.doutOff_keeps
    | with_reducible apply ite_keeps
    | with_reducible apply ite_keepsOut
    | with_reducible apply KeepsOut.next

theorem execDoutOcTrip_keeps {s r : State} {n : Fin 16} (h : s.Keeps r) : KeepsOut s (execDoutOcTrip n r) := by
  unfold execDoutOcTrip
  repeat' first
    | with_reducible assumption
    | with_reducible apply State.doutEvidence_keeps
    | with_reducible apply State.doutTrip_keeps
    | with_reducible apply ite_keeps
    | with_reducible apply ite_keepsOut
    | with_reducible apply KeepsOut.next

theorem execDoutOtTrip_keeps {s r : State} {n : Fin 16} (h : s.Keeps r) : KeepsOut s (execDoutOtTrip n r) := by
  unfold execDoutOtTrip
  repeat' first
    | with_reducible assumption
    | with_reducible apply State.doutTrip_keeps
    | with_reducible apply ite_keeps
    | with_reducible apply ite_keepsOut
    | with_reducible apply KeepsOut.next

theorem execDoutOffdiagStart_keeps {s r : State} {n : Fin 16} (h : s.Keeps r) : KeepsOut s (execDoutOffdiagStart n r) := by
  unfold execDoutOffdiagStart
  repeat' first
    | with_reducible assumption
    | with_reducible apply State.setDou_keeps
    | with_reducible apply ite_keeps
    | with_reducible apply ite_keepsOut
    | with_reducible apply KeepsOut.next

theorem execDoutOffdiagResult_keeps {s r : State} {n : Fin 16} {v1 : BitVec 16} {v2 : BitVec 16} {vbat : BitVec 16} (h : s.Keeps r) : KeepsOut s (execDoutOffdiagResult n v1 v2 vbat r) := by
  unfold execDoutOffdiagResult
  repeat' first
    | with_reducible assumption
    | intro _
    | with_reducible apply State.setDou_keeps
    | with_reducible apply State.doutEvidence_keeps
    | with_reducible apply ite_keeps
    | with_reducible apply ite_keepsOut
    | with_reducible apply KeepsOut.next

theorem State.doutDclr_keeps {s r : State} {m : Master} {n : Nat} (h : s.Keeps r) : s.Keeps (State.doutDclr r m n) := by
  unfold State.doutDclr
  repeat' first
    | with_reducible assumption
    | with_reducible apply State.put_keeps
    | with_reducible apply State.raiseBit_keeps
    | with_reducible apply ite_keeps

theorem execDoutDclr_keeps {s r : State} {m : Master} {n : Fin 16} (h : s.Keeps r) : KeepsOut s (execDoutDclr m n r) := by
  unfold execDoutDclr
  repeat' first
    | with_reducible assumption
    | intro _
    | with_reducible apply State.access_keeps
    | with_reducible apply State.doutDclr_keeps
    | with_reducible apply KeepsOut.next

theorem State.mbxBy_keeps {s r : State} {m : Master} {mb : Nat} {f : State → Nat → State} (h : s.Keeps r) (hf : ∀ t x, s.Keeps t → s.Keeps (f t x)) : s.Keeps (State.mbxBy r m mb f) := by
  unfold State.mbxBy
  repeat' first
    | with_reducible assumption
    | intro _
    | with_reducible apply State.mbxViol_keeps
    | with_reducible apply hf
    | split

theorem State.txqWrite_keeps {s r : State} {m : Master} {mb : Nat} {a : Access} {v : BitVec 64} (h : s.Keeps r) : s.Keeps (State.txqWrite r m mb a v) := by
  unfold State.txqWrite
  repeat' first
    | with_reducible assumption
    | intro _
    | with_reducible apply State.splitWrite_keeps
    | with_reducible refine State.splitWrite_keeps' (by with_reducible assumption) ?_
    | with_reducible apply State.splitRefuse_keeps
    | with_reducible apply State.mbxViol_keeps
    | with_reducible apply State.mbxPost_keeps
    | with_reducible refine State.mbxPost_keeps' (by with_reducible assumption) ?_
    | with_reducible apply State.gateWords_keeps
    | with_reducible apply KeepsFst.fst
    | split
    | dsimp only

theorem execMbxTxqPost_keeps {s r : State} {m : Master} {mb : Fin 16} {a : Access} {v : BitVec 64} (h : s.Keeps r) : KeepsOut s (execMbxTxqPost m mb a v r) := by
  unfold execMbxTxqPost
  repeat' first
    | with_reducible assumption
    | intro _
    | with_reducible apply State.access_keeps
    | with_reducible apply State.txqWrite_keeps
    | with_reducible apply KeepsOut.next

theorem State.rxqRead_keeps {s r : State} {m : Master} {mb : Nat} {a : Access} (h : s.Keeps r) : s.Keeps (State.rxqRead r m mb a) := by
  unfold State.rxqRead
  repeat' first
    | with_reducible assumption
    | with_reducible apply State.answer_keeps
    | with_reducible apply State.splitRead_keeps
    | with_reducible apply State.mbxPop_keeps
    | with_reducible refine State.mbxPop_keeps' (by with_reducible assumption) ?_
    | with_reducible apply KeepsFst.fst
    | split

theorem execMbxRxqRead_keeps {s r : State} {m : Master} {mb : Fin 16} {a : Access} (h : s.Keeps r) : KeepsOut s (execMbxRxqRead m mb a r) := by
  unfold execMbxRxqRead
  repeat' first
    | with_reducible assumption
    | intro _
    | with_reducible apply State.access_keeps
    | with_reducible apply State.rxqRead_keeps
    | with_reducible apply KeepsOut.next

theorem State.mbxAckBy_keeps {s r : State} {e : Nat} {mb : Nat} {k : Nat} (h : s.Keeps r) : s.Keeps (State.mbxAckBy r e mb k) := by
  unfold State.mbxAckBy
  repeat' first
    | with_reducible assumption
    | with_reducible apply State.mbxViol_keeps
    | with_reducible apply State.mbxAckWord_keeps
    | with_reducible refine State.mbxAckWord_keeps' (by with_reducible assumption) ?_
    | with_reducible apply ite_keeps
    | with_reducible apply ite_keepsFst
    | with_reducible apply KeepsFst.fst

theorem State.mbxRing_keeps {s r : State} {mb : Nat} {k : Nat} (h : s.Keeps r) : s.Keeps (State.mbxRing r mb k) := by
  unfold State.mbxRing
  repeat' first
    | with_reducible assumption
    | with_reducible apply State.setSide_keeps

theorem State.mbxCommand_keeps {s r : State} {m : Master} {mb : Nat} {ring : Bool} {ack : Bool} (h : s.Keeps r) : s.Keeps (State.mbxCommand r m mb ring ack) := by
  unfold State.mbxCommand
  repeat' first
    | with_reducible assumption
    | intro _
    | with_reducible apply State.mbxBy_keeps
    | with_reducible apply State.mbxAckBy_keeps
    | with_reducible apply State.mbxRing_keeps
    | with_reducible apply ite_keeps

theorem execMbxAck_keeps {s r : State} {m : Master} {mb : Fin 16} (h : s.Keeps r) : KeepsOut s (execMbxAck m mb r) := by
  unfold execMbxAck
  repeat' first
    | with_reducible assumption
    | intro _
    | with_reducible apply State.access_keeps
    | with_reducible apply State.mbxCommand_keeps
    | with_reducible apply KeepsOut.next

theorem execMbxRing_keeps {s r : State} {m : Master} {mb : Fin 16} (h : s.Keeps r) : KeepsOut s (execMbxRing m mb r) := by
  unfold execMbxRing
  repeat' first
    | with_reducible assumption
    | intro _
    | with_reducible apply State.access_keeps
    | with_reducible apply State.mbxCommand_keeps
    | with_reducible apply KeepsOut.next

theorem State.mbxDbWrite_keeps {s r : State} {m : Master} {mb : Nat} {a : Access} {v : BitVec 64} (h : s.Keeps r) : s.Keeps (State.mbxDbWrite r m mb a v) := by
  unfold State.mbxDbWrite
  repeat' first
    | with_reducible assumption
    | intro _
    | with_reducible apply State.setSide_keeps
    | with_reducible apply State.mbxBy_keeps
    | split

theorem State.lockRead_keeps {s r : State} {m : Master} {k : Nat} {a : Access} (h : s.Keeps r) : s.Keeps (State.lockRead r m k a) := by
  unfold State.lockRead
  repeat' first
    | with_reducible assumption
    | intro _
    | with_reducible apply State.answer_keeps
    | with_reducible apply State.busError_keeps
    | with_reducible apply State.setLk_keeps
    | with_reducible apply ite_keeps

theorem execLockRead_keeps {s r : State} {m : Master} {k : Fin 32} {a : Access} (h : s.Keeps r) : KeepsOut s (execLockRead m k a r) := by
  unfold execLockRead
  repeat' first
    | with_reducible assumption
    | intro _
    | with_reducible apply State.access_keeps
    | with_reducible apply State.lockRead_keeps
    | with_reducible apply KeepsOut.next

theorem State.lockWrite_keeps {s r : State} {m : Master} {k : Nat} {low : Bool} (h : s.Keeps r) : s.Keeps (State.lockWrite r m k low) := by
  unfold State.lockWrite
  repeat' first
    | with_reducible assumption
    | with_reducible apply State.mbxViol_keeps
    | with_reducible apply State.lockRelease_keeps
    | with_reducible apply ite_keeps

theorem execLockRelease_keeps {s r : State} {m : Master} {k : Fin 32} (h : s.Keeps r) : KeepsOut s (execLockRelease m k r) := by
  unfold execLockRelease
  repeat' first
    | with_reducible assumption
    | intro _
    | with_reducible apply State.access_keeps
    | with_reducible apply State.lockWrite_keeps
    | with_reducible apply KeepsOut.next

theorem State.lockRelWrite_keeps {s r : State} {m : Master} {v : Nat} (h : s.Keeps r) : s.Keeps (State.lockRelWrite r m v) := by
  unfold State.lockRelWrite
  repeat' first
    | with_reducible assumption
    | fail_if_no_progress with_reducible apply State.Keeps.mk'

theorem State.lockIenWrite_keeps {s r : State} {m : Master} {v : Nat} (h : s.Keeps r) : s.Keeps (State.lockIenWrite r m v) := by
  unfold State.lockIenWrite
  repeat' first
    | with_reducible assumption
    | fail_if_no_progress with_reducible apply State.Keeps.mk'

end Sys2Proof.Machine
end

