-- ==== Sys2Proof/Laws/Keeps14.lean ====
section
/-!
SUPPORT. What the operations and meanings of Machine/Fcu, Gt keep, one lemma each (State.Keeps).
-/

namespace Sys2Proof.Machine

theorem State.sourceWire_keeps {s r : State} {src : Nat} {active : Bool} (h : s.Keeps r) : s.Keeps (State.sourceWire r src active) := by
  unfold State.sourceWire
  repeat' first
    | with_reducible assumption
    | intro _
    | with_reducible apply State.when_keeps
    | with_reducible apply State.raiseP_keeps
    | with_reducible apply State.fcuSample_keeps
    | with_reducible apply ite_keeps
    | fail_if_no_progress with_reducible apply State.Keeps.mk'

theorem State.sevBad_keeps {s r : State} {src : Nat} (h : s.Keeps r) : s.Keeps (State.sevBad r src) := by
  unfold State.sevBad
  repeat' first
    | with_reducible assumption
    | with_reducible apply State.raiseL_keeps
    | with_reducible apply ite_keeps
    | fail_if_no_progress with_reducible apply State.Keeps.mk'

theorem execFaultActivation_keeps {s r : State} {src : Fin 384} {active : Bool} {bad : Bool} (h : s.Keeps r) : KeepsOut s (execFaultActivation src active bad r) := by
  unfold execFaultActivation
  repeat' first
    | with_reducible assumption
    | with_reducible apply State.sourceWire_keeps
    | with_reducible apply State.sevBad_keeps
    | with_reducible apply ite_keeps
    | with_reducible apply ite_keepsOut
    | with_reducible apply KeepsOut.next

theorem execPairFault_keeps {s r : State} {src : Fin 384} (h : s.Keeps r) : KeepsOut s (execPairFault src r) := by
  unfold execPairFault
  repeat' first
    | with_reducible assumption
    | with_reducible apply State.pairFault_keeps
    | with_reducible apply ite_keeps
    | with_reducible apply ite_keepsOut
    | with_reducible apply KeepsOut.next

theorem State.fcuAckBy_keeps {s r : State} {m : Master} {src : Nat} (h : s.Keeps r) : s.Keeps (State.fcuAckBy r m src) := by
  unfold State.fcuAckBy
  repeat' first
    | with_reducible assumption
    | intro _
    | with_reducible apply State.access_keeps
    | with_reducible apply State.fcuOwned_keeps
    | with_reducible apply State.fcuAck_keeps

theorem execFcuAck_keeps {s r : State} {m : Master} {src : BitVec 9} (h : s.Keeps r) : KeepsOut s (execFcuAck m src r) := by
  unfold execFcuAck
  repeat' first
    | with_reducible assumption
    | with_reducible apply State.fcuAckBy_keeps
    | with_reducible apply KeepsOut.next

theorem execS1Late_keeps {s r : State} {src : Fin 384} (h : s.Keeps r) : KeepsOut s (execS1Late src r) := by
  unfold execS1Late
  repeat' first
    | with_reducible assumption
    | with_reducible apply State.raiseBit_keeps
    | with_reducible apply ite_keeps
    | with_reducible apply ite_keepsOut
    | with_reducible apply KeepsOut.next

theorem State.escalate_keeps {s r : State} {src : Nat} (h : s.Keeps r) : s.Keeps (State.escalate r src) := by
  unfold State.escalate
  repeat' first
    | with_reducible assumption
    | with_reducible apply State.s3React_keeps
    | fail_if_no_progress with_reducible apply State.Keeps.mk'

theorem execS2Escalate_keeps {s r : State} {src : Fin 384} (h : s.Keeps r) : KeepsOut s (execS2Escalate src r) := by
  unfold execS2Escalate
  repeat' first
    | with_reducible assumption
    | with_reducible apply State.escalate_keeps
    | with_reducible apply ite_keeps
    | with_reducible apply ite_keepsOut
    | with_reducible apply KeepsOut.next

theorem execS3RecoveryStart_keeps {s r : State} (h : s.Keeps r) : KeepsOut s (execS3RecoveryStart r) := by
  unfold execS3RecoveryStart
  repeat' first
    | with_reducible assumption
    | with_reducible apply State.recoveryStart_keeps
    | with_reducible apply KeepsOut.next

theorem execS3CountAge_keeps {s r : State} (h : s.Keeps r) : KeepsOut s (execS3CountAge r) := by
  unfold execS3CountAge
  repeat' first
    | with_reducible assumption
    | with_reducible apply State.s3Age_keeps
    | with_reducible apply KeepsOut.next

theorem execFaultRecordWrite_keeps {s r : State} (h : s.Keeps r) : KeepsOut s (execFaultRecordWrite r) := by
  unfold execFaultRecordWrite
  repeat' first
    | with_reducible assumption
    | with_reducible apply State.fcuWriteRecord_keeps
    | with_reducible apply KeepsOut.next

theorem execFcuForceWrite_keeps {s r : State} {m : Master} {k : Fin 6} {a : Access} {v : BitVec 64} (h : s.Keeps r) : KeepsOut s (execFcuForceWrite m k a v r) := by
  unfold execFcuForceWrite
  repeat' first
    | with_reducible assumption
    | intro _
    | with_reducible apply State.access_keeps
    | with_reducible apply State.frcWrite_keeps
    | with_reducible apply KeepsOut.next

theorem execFcuPfrcWrite_keeps {s r : State} {m : Master} {a : Access} {v : BitVec 64} (h : s.Keeps r) : KeepsOut s (execFcuPfrcWrite m a v r) := by
  unfold execFcuPfrcWrite
  repeat' first
    | with_reducible assumption
    | intro _
    | with_reducible apply State.access_keeps
    | with_reducible apply State.pfrcWrite_keeps
    | with_reducible apply KeepsOut.next

theorem execFcuSevWrite_keeps {s r : State} {m : Master} {k : Fin 24} {a : Access} {v : BitVec 64} (h : s.Keeps r) : KeepsOut s (execFcuSevWrite m k a v r) := by
  unfold execFcuSevWrite
  repeat' first
    | with_reducible assumption
    | intro _
    | with_reducible apply State.access_keeps
    | with_reducible apply State.sevWrite_keeps
    | with_reducible apply KeepsOut.next

theorem execFcuTmrWrite_keeps {s r : State} {m : Master} {a : Access} {v : BitVec 64} (h : s.Keeps r) : KeepsOut s (execFcuTmrWrite m a v r) := by
  unfold execFcuTmrWrite
  repeat' first
    | with_reducible assumption
    | intro _
    | with_reducible apply State.access_keeps
    | with_reducible apply State.tmrWrite_keeps
    | with_reducible apply KeepsOut.next

theorem State.gtOwned_keeps {s r : State} {m : Master} {g : Nat} {f : State → State} (h : s.Keeps r) (hf : ∀ t, s.Keeps t → s.Keeps (f t)) : s.Keeps (State.gtOwned r m g f) := by
  unfold State.gtOwned
  repeat' first
    | with_reducible assumption
    | intro _
    | with_reducible apply State.raiseBit_keeps
    | with_reducible apply hf
    | with_reducible apply ite_keeps

theorem execGtStart_keeps {s r : State} {m : Master} {g : Fin 32} (h : s.Keeps r) : KeepsOut s (execGtStart m g r) := by
  unfold execGtStart
  repeat' first
    | with_reducible assumption
    | intro _
    | with_reducible apply State.gtRequest_keeps
    | with_reducible apply State.access_keeps
    | with_reducible apply State.gtOwned_keeps
    | with_reducible apply KeepsOut.next

theorem execGtStop_keeps {s r : State} {m : Master} {g : Fin 32} (h : s.Keeps r) : KeepsOut s (execGtStop m g r) := by
  unfold execGtStop
  repeat' first
    | with_reducible assumption
    | intro _
    | with_reducible apply State.gtRequest_keeps
    | with_reducible apply State.access_keeps
    | with_reducible apply State.gtOwned_keeps
    | with_reducible apply KeepsOut.next

theorem execGtReset_keeps {s r : State} {m : Master} {g : Fin 32} (h : s.Keeps r) : KeepsOut s (execGtReset m g r) := by
  unfold execGtReset
  repeat' first
    | with_reducible assumption
    | intro _
    | with_reducible apply State.gtRequest_keeps
    | with_reducible apply State.access_keeps
    | with_reducible apply State.gtOwned_keeps
    | with_reducible apply KeepsOut.next

theorem execCapnow_keeps {s r : State} {m : Master} {g : Fin 32} (h : s.Keeps r) : KeepsOut s (execCapnow m g r) := by
  unfold execCapnow
  repeat' first
    | with_reducible assumption
    | intro _
    | with_reducible apply State.gtCapNow_keeps
    | with_reducible apply State.access_keeps
    | with_reducible apply State.gtOwned_keeps
    | with_reducible apply KeepsOut.next

theorem State.gtGroup_keeps {s r : State} {m : Master} {mask : Nat} {act : Nat} (h : s.Keeps r) : s.Keeps (State.gtGroup r m mask act) := by
  unfold State.gtGroup
  repeat' first
    | with_reducible assumption
    | intro _
    | with_reducible apply State.each_keeps
    | with_reducible apply State.gtRequest_keeps
    | with_reducible apply State.gtOwned_keeps

theorem execGtGstart_keeps {s r : State} {m : Master} {mask : BitVec 32} (h : s.Keeps r) : KeepsOut s (execGtGstart m mask r) := by
  unfold execGtGstart
  repeat' first
    | with_reducible assumption
    | intro _
    | with_reducible apply State.access_keeps
    | with_reducible apply State.gtGroup_keeps
    | with_reducible apply KeepsOut.next

theorem execGtGstop_keeps {s r : State} {m : Master} {mask : BitVec 32} (h : s.Keeps r) : KeepsOut s (execGtGstop m mask r) := by
  unfold execGtGstop
  repeat' first
    | with_reducible assumption
    | intro _
    | with_reducible apply State.access_keeps
    | with_reducible apply State.gtGroup_keeps
    | with_reducible apply KeepsOut.next

theorem execGtPeriodEvent_keeps {s r : State} {g : Fin 32} (h : s.Keeps r) : KeepsOut s (execGtPeriodEvent g r) := by
  unfold execGtPeriodEvent
  repeat' first
    | with_reducible assumption
    | with_reducible apply State.gtEdge_keeps
    | with_reducible apply ite_keeps
    | with_reducible apply ite_keepsOut
    | with_reducible apply KeepsOut.next

theorem execGtCompareEvent_keeps {s r : State} {g : Fin 32} {b : Bool} (h : s.Keeps r) : KeepsOut s (execGtCompareEvent g b r) := by
  unfold execGtCompareEvent
  repeat' first
    | with_reducible assumption
    | with_reducible apply State.gtEdge_keeps
    | with_reducible apply ite_keeps
    | with_reducible apply ite_keepsOut
    | with_reducible apply KeepsOut.next

theorem execGtLinkAction_keeps {s r : State} {g : Fin 32} (h : s.Keeps r) : KeepsOut s (execGtLinkAction g r) := by
  unfold execGtLinkAction
  repeat' first
    | with_reducible assumption
    | with_reducible apply State.gtEdge_keeps
    | with_reducible apply ite_keeps
    | with_reducible apply ite_keepsOut
    | with_reducible apply KeepsOut.next

theorem execGtTriggerAction_keeps {s r : State} {g : Fin 32} (h : s.Keeps r) : KeepsOut s (execGtTriggerAction g r) := by
  unfold execGtTriggerAction
  repeat' first
    | with_reducible assumption
    | with_reducible apply State.gtEdge_keeps
    | with_reducible apply ite_keeps
    | with_reducible apply ite_keepsOut
    | with_reducible apply KeepsOut.next

theorem execGtCapture_keeps {s r : State} {g : Fin 32} {rising : Bool} (h : s.Keeps r) : KeepsOut s (execGtCapture g rising r) := by
  unfold execGtCapture
  repeat' first
    | with_reducible assumption
    | with_reducible apply State.gtCapture_keeps
    | with_reducible apply State.gtEdge_keeps
    | with_reducible apply ite_keeps
    | with_reducible apply ite_keepsOut
    | with_reducible apply KeepsOut.next

theorem State.gtCapRead_keeps {s r : State} {m : Master} {g : Nat} {a : Access} (h : s.Keeps r) : s.Keeps (State.gtCapRead r m g a) := by
  unfold State.gtCapRead
  repeat' first
    | with_reducible assumption
    | with_reducible apply State.setReg_keeps
    | with_reducible apply State.putB_keeps
    | with_reducible apply State.splitRead_keeps
    | with_reducible apply ite_keeps
    | split

theorem execGtCapRead_keeps {s r : State} {m : Master} {g : Fin 32} {a : Access} (h : s.Keeps r) : KeepsOut s (execGtCapRead m g a r) := by
  unfold execGtCapRead
  repeat' first
    | with_reducible assumption
    | intro _
    | with_reducible apply State.access_keeps
    | with_reducible apply State.gtCapRead_keeps
    | with_reducible apply KeepsOut.next

theorem State.gtSetReg_keeps {s r' : State} {g : Nat} {r : GtReg} {v : BitVec 64} (h : s.Keeps r') : s.Keeps (State.gtSetReg r' g r v) := by
  unfold State.gtSetReg
  repeat' first
    | with_reducible assumption
    | with_reducible apply State.setReg_keeps
    | with_reducible apply State.setCtr_keeps
    | with_reducible apply State.gtMatch_keeps
    | with_reducible apply ite_keeps

theorem State.gtRegWrite_keeps {s r' : State} {m : Master} {g : Nat} {r : GtReg} {a : Access} {v : BitVec 64} (h : s.Keeps r') : s.Keeps (State.gtRegWrite r' m g r a v) := by
  unfold State.gtRegWrite
  repeat' first
    | with_reducible assumption
    | intro _
    | with_reducible apply State.splitWrite_keeps
    | with_reducible refine State.splitWrite_keeps' (by with_reducible assumption) ?_
    | with_reducible apply State.gtOwned_keeps
    | with_reducible apply State.gtSetReg_keeps
    | with_reducible apply KeepsFst.fst
    | split
    | dsimp only

theorem execGtPerCmpWrite_keeps {s r' : State} {m : Master} {g : Fin 32} {r : GtReg} {a : Access} {v : BitVec 64} (h : s.Keeps r') : KeepsOut s (execGtPerCmpWrite m g r a v r') := by
  unfold execGtPerCmpWrite
  repeat' first
    | with_reducible assumption
    | intro _
    | with_reducible apply State.access_keeps
    | with_reducible apply State.gtRegWrite_keeps
    | with_reducible apply KeepsOut.next

theorem State.gtCntWrite_keeps {s r : State} {m : Master} {g : Nat} {a : Access} {v : BitVec 64} (h : s.Keeps r) : s.Keeps (State.gtCntWrite r m g a v) := by
  unfold State.gtCntWrite
  repeat' first
    | with_reducible assumption
    | intro _
    | with_reducible apply State.setReg_keeps
    | with_reducible apply State.raiseBit_keeps
    | with_reducible apply State.setCtr_keeps
    | with_reducible apply State.gtRecompute_keeps
    | with_reducible apply State.splitWrite_keeps
    | with_reducible refine State.splitWrite_keeps' (by with_reducible assumption) ?_
    | with_reducible apply State.gtOwned_keeps
    | with_reducible apply ite_keeps
    | with_reducible apply ite_keepsFst
    | with_reducible apply KeepsFst.fst
    | split
    | dsimp only

theorem execNtuWrap_keeps {s r : State} (h : s.Keeps r) : KeepsOut s (execNtuWrap r) := by
  unfold execNtuWrap
  repeat' first
    | with_reducible assumption
    | with_reducible apply State.ntuEdge_keeps
    | with_reducible apply ite_keeps
    | with_reducible apply ite_keepsOut
    | with_reducible apply KeepsOut.next

theorem State.keeperOnly_keeps {s r : State} {m : Master} {f : State → State} (h : s.Keeps r) (hf : ∀ t, s.Keeps t → s.Keeps (f t)) : s.Keeps (State.keeperOnly r m f) := by
  unfold State.keeperOnly
  repeat' first
    | with_reducible assumption
    | intro _
    | with_reducible apply State.raiseBit_keeps
    | with_reducible apply hf
    | with_reducible apply ite_keeps

theorem State.ntuIncWrite_keeps {s r : State} {m : Master} {a : Access} {v : BitVec 64} (h : s.Keeps r) : s.Keeps (State.ntuIncWrite r m a v) := by
  unfold State.ntuIncWrite
  repeat' first
    | with_reducible assumption
    | intro _
    | with_reducible apply State.put_keeps
    | with_reducible apply State.keeperOnly_keeps

theorem execNtuIncWrite_keeps {s r : State} {m : Master} {a : Access} {v : BitVec 64} (h : s.Keeps r) : KeepsOut s (execNtuIncWrite m a v r) := by
  unfold execNtuIncWrite
  repeat' first
    | with_reducible assumption
    | intro _
    | with_reducible apply State.access_keeps
    | with_reducible apply State.ntuIncWrite_keeps
    | with_reducible apply KeepsOut.next

theorem State.ntuSlewGo_keeps {s r : State} {m : Master} {off : Nat} (h : s.Keeps r) : s.Keeps (State.ntuSlewGo r m off) := by
  unfold State.ntuSlewGo
  repeat' first
    | with_reducible assumption
    | intro _
    | with_reducible apply State.put_keeps
    | with_reducible apply State.setSlew_keeps
    | with_reducible apply State.keeperOnly_keeps

theorem execNtuSlew_keeps {s r : State} {m : Master} {off : BitVec 32} (h : s.Keeps r) : KeepsOut s (execNtuSlew m off r) := by
  unfold execNtuSlew
  repeat' first
    | with_reducible assumption
    | intro _
    | with_reducible apply State.access_keeps
    | with_reducible apply State.ntuSlewGo_keeps
    | with_reducible apply KeepsOut.next

theorem State.ntuStepGo_keeps {s r : State} {m : Master} {off : Nat} (h : s.Keeps r) : s.Keeps (State.ntuStepGo r m off) := by
  unfold State.ntuStepGo
  repeat' first
    | with_reducible assumption
    | intro _
    | with_reducible apply State.put_keeps
    | with_reducible apply State.keeperOnly_keeps
    | fail_if_no_progress with_reducible apply State.Keeps.mk'

theorem execNtuStep_keeps {s r : State} {m : Master} {off : BitVec 32} (h : s.Keeps r) : KeepsOut s (execNtuStep m off r) := by
  unfold execNtuStep
  repeat' first
    | with_reducible assumption
    | intro _
    | with_reducible apply State.access_keeps
    | with_reducible apply State.ntuStepGo_keeps
    | with_reducible apply KeepsOut.next

theorem execNtuSlewDone_keeps {s r : State} (h : s.Keeps r) : KeepsOut s (execNtuSlewDone r) := by
  unfold execNtuSlewDone
  repeat' first
    | with_reducible assumption
    | with_reducible apply State.ntuEdge_keeps
    | with_reducible apply ite_keeps
    | with_reducible apply ite_keepsOut
    | with_reducible apply KeepsOut.next

theorem State.ntuSyncWrite_keeps {s r : State} {m : Master} {a : Access} {v : BitVec 64} (h : s.Keeps r) : s.Keeps (State.ntuSyncWrite r m a v) := by
  unfold State.ntuSyncWrite
  repeat' first
    | with_reducible assumption
    | intro _
    | with_reducible apply State.put_keeps
    | with_reducible apply State.keeperOnly_keeps

theorem execNtuSyncWrite_keeps {s r : State} {m : Master} {a : Access} {v : BitVec 64} (h : s.Keeps r) : KeepsOut s (execNtuSyncWrite m a v r) := by
  unfold execNtuSyncWrite
  repeat' first
    | with_reducible assumption
    | intro _
    | with_reducible apply State.access_keeps
    | with_reducible apply State.ntuSyncWrite_keeps
    | with_reducible apply KeepsOut.next

theorem execNtuHoldoverExpire_keeps {s r : State} (h : s.Keeps r) : KeepsOut s (execNtuHoldoverExpire r) := by
  unfold execNtuHoldoverExpire
  repeat' first
    | with_reducible assumption
    | with_reducible apply State.raiseBit_keeps
    | with_reducible apply State.clearSync_keeps
    | with_reducible apply ite_keeps
    | with_reducible apply ite_keepsOut
    | with_reducible apply KeepsOut.next

theorem execNtuCapture_keeps {s r : State} {k : Fin 8} {rising : Bool} (h : s.Keeps r) : KeepsOut s (execNtuCapture k rising r) := by
  unfold execNtuCapture
  repeat' first
    | with_reducible assumption
    | with_reducible apply State.ntuCapture_keeps
    | with_reducible apply ite_keeps
    | with_reducible apply ite_keepsOut
    | with_reducible apply KeepsOut.next

theorem State.swcap_keeps {s r : State} {mask : Nat} (h : s.Keeps r) : s.Keeps (State.swcap r mask) := by
  unfold State.swcap
  repeat' first
    | with_reducible assumption
    | intro _
    | with_reducible apply State.each_keeps
    | with_reducible apply State.ntuCapture_keeps

theorem execNtuSwcap_keeps {s r : State} {m : Master} {mask : BitVec 8} (h : s.Keeps r) : KeepsOut s (execNtuSwcap m mask r) := by
  unfold execNtuSwcap
  repeat' first
    | with_reducible assumption
    | intro _
    | with_reducible apply State.access_keeps
    | with_reducible apply State.swcap_keeps
    | with_reducible apply KeepsOut.next

theorem State.ntuCapRead_keeps {s r : State} {m : Master} {k : Nat} {a : Access} (h : s.Keeps r) : s.Keeps (State.ntuCapRead r m k a) := by
  unfold State.ntuCapRead
  repeat' first
    | with_reducible assumption
    | with_reducible apply State.setReg_keeps
    | with_reducible apply State.put_keeps
    | with_reducible apply State.splitRead_keeps
    | with_reducible apply ite_keeps
    | split

theorem execNtuCapRead_keeps {s r : State} {m : Master} {k : Fin 8} {a : Access} (h : s.Keeps r) : KeepsOut s (execNtuCapRead m k a r) := by
  unfold execNtuCapRead
  repeat' first
    | with_reducible assumption
    | intro _
    | with_reducible apply State.access_keeps
    | with_reducible apply State.ntuCapRead_keeps
    | with_reducible apply KeepsOut.next

theorem State.trgStop_keeps {s r : State} {k : Nat} (h : s.Keeps r) : s.Keeps (State.trgStop r k) := by
  unfold State.trgStop
  repeat' first
    | with_reducible assumption
    | with_reducible apply State.putB_keeps
    | fail_if_no_progress with_reducible apply State.Keeps.mk'

theorem State.trgWrite_keeps {s r : State} {m : Master} {k : Nat} {a : Access} {v : BitVec 64} (h : s.Keeps r) : s.Keeps (State.trgWrite r m k a v) := by
  unfold State.trgWrite
  repeat' first
    | with_reducible assumption
    | with_reducible apply State.put_keeps
    | with_reducible apply State.putB_keeps
    | with_reducible apply State.raiseBit_keeps
    | with_reducible apply State.trgStop_keeps
    | with_reducible apply ite_keeps

theorem execNtuTriggerArm_keeps {s r : State} {m : Master} {k : Fin 4} {v : BitVec 64} (h : s.Keeps r) : KeepsOut s (execNtuTriggerArm m k v r) := by
  unfold execNtuTriggerArm
  repeat' first
    | with_reducible assumption
    | intro _
    | with_reducible apply State.access_keeps
    | with_reducible apply State.trgWrite_keeps
    | with_reducible apply KeepsOut.next

theorem execNtuTriggerDisarm_keeps {s r : State} {m : Master} {k : Fin 4} {v : BitVec 64} (h : s.Keeps r) : KeepsOut s (execNtuTriggerDisarm m k v r) := by
  unfold execNtuTriggerDisarm
  repeat' first
    | with_reducible assumption
    | intro _
    | with_reducible apply State.access_keeps
    | with_reducible apply State.trgWrite_keeps
    | with_reducible apply KeepsOut.next

theorem execNtuTriggerLead_keeps {s r : State} {k : Fin 4} (h : s.Keeps r) : KeepsOut s (execNtuTriggerLead k r) := by
  unfold execNtuTriggerLead
  repeat' first
    | with_reducible assumption
    | intro _
    | with_reducible apply State.put_keeps
    | with_reducible apply State.each_keeps
    | with_reducible apply State.setCtr_keeps
    | with_reducible apply ite_keeps
    | with_reducible apply ite_keepsOut
    | with_reducible apply KeepsOut.next
    | fail_if_no_progress with_reducible apply State.Keeps.mk'

theorem execNtuTriggerTrail_keeps {s r : State} {k : Fin 4} (h : s.Keeps r) : KeepsOut s (execNtuTriggerTrail k r) := by
  unfold execNtuTriggerTrail
  repeat' first
    | with_reducible assumption
    | intro _
    | with_reducible apply State.putB_keeps
    | with_reducible apply ite_keeps
    | with_reducible apply ite_keepsOut
    | with_reducible apply KeepsOut.next
    | split
    | dsimp only
    | fail_if_no_progress with_reducible apply State.Keeps.mk'

end Sys2Proof.Machine
end

