-- ==== Sys2Proof/Laws/Keeps15.lean ====
section
/-!
SUPPORT. What the operations and meanings of Machine/Hsw, Led keep, one lemma each (State.Keeps).
-/

namespace Sys2Proof.Machine

theorem State.bankFeedOk_keeps {s r : State} (h : s.Keeps r) : s.Keeps (State.bankFeedOk r) := by
  unfold State.bankFeedOk
  repeat' first
    | with_reducible assumption
    | intro _
    | with_reducible apply State.putB_keeps
    | with_reducible apply State.each_keeps

theorem execFeedUndervoltage_keeps {s r : State} {f : Feed} (h : s.Keeps r) : KeepsOut s (execFeedUndervoltage f r) := by
  unfold execFeedUndervoltage
  repeat' first
    | with_reducible assumption
    | intro _
    | with_reducible apply State.putB_keeps
    | with_reducible apply State.each_keeps
    | with_reducible apply State.raiseP_keeps
    | with_reducible apply State.setStartQueue_keeps
    | with_reducible apply State.hswEval_keeps
    | with_reducible apply State.bankFeedOk_keeps
    | with_reducible apply KeepsOut.next

theorem State.queueStarts_keeps {s r : State} {ns : List Nat} (h : s.Keeps r) : s.Keeps (State.queueStarts r ns) := by
  unfold State.queueStarts
  repeat' first
    | with_reducible assumption
    | intro _
    | with_reducible apply State.each_keeps
    | with_reducible apply State.hswEnqueue_keeps
    | with_reducible apply ite_keeps
    | fail_if_no_progress with_reducible apply State.Keeps.mk'

theorem execFeedRestore_keeps {s r : State} {f : Feed} (h : s.Keeps r) : KeepsOut s (execFeedRestore f r) := by
  unfold execFeedRestore
  repeat' first
    | with_reducible assumption
    | with_reducible apply State.putB_keeps
    | with_reducible apply State.bankFeedOk_keeps
    | with_reducible apply State.queueStarts_keeps
    | with_reducible apply KeepsOut.next

theorem State.hswConfigActs_keeps {s r : State} (h : s.Keeps r) : s.Keeps (State.hswConfigActs r) := by
  unfold State.hswConfigActs
  repeat' first
    | with_reducible assumption
    | with_reducible apply State.hswEvalAll_keeps
    | with_reducible apply ite_keeps
    | fail_if_no_progress with_reducible apply State.Keeps.mk'

theorem execWireModelStep_keeps {s r : State} {tdie : BitVec 16} {sense : List HswSense} (h : s.Keeps r) : KeepsOut s (execWireModelStep tdie sense r) := by
  unfold execWireModelStep
  repeat' first
    | with_reducible assumption
    | intro _
    | with_reducible apply State.put_keeps
    | with_reducible apply State.each_keeps
    | with_reducible apply State.noteClean_keeps
    | with_reducible apply State.latchRelease_keeps
    | with_reducible apply State.wireStep_keeps
    | with_reducible apply State.hswConfigActs_keeps
    | with_reducible apply ite_keeps
    | with_reducible apply ite_keepsOut
    | with_reducible apply KeepsOut.next
    | fail_if_no_progress with_reducible apply State.Keeps.mk'

theorem State.tripIf_keeps {s r : State} {n : Nat} {cause : Nat} {ok : Bool} (h : s.Keeps r) : s.Keeps (State.tripIf r n cause ok) := by
  unfold State.tripIf
  repeat' first
    | with_reducible assumption
    | with_reducible apply State.hswTrip_keeps
    | with_reducible apply ite_keeps

theorem execScTrip_keeps {s r : State} {x : HswLoad} (h : s.Keeps r) : KeepsOut s (execScTrip x r) := by
  unfold execScTrip
  repeat' first
    | with_reducible assumption
    | with_reducible apply State.tripIf_keeps
    | with_reducible apply State.load_keeps
    | with_reducible apply KeepsOut.next

theorem execOcTrip_keeps {s r : State} {x : HswLoad} (h : s.Keeps r) : KeepsOut s (execOcTrip x r) := by
  unfold execOcTrip
  repeat' first
    | with_reducible assumption
    | with_reducible apply State.tripIf_keeps
    | with_reducible apply State.load_keeps
    | with_reducible apply KeepsOut.next

theorem execOcBlankEnd_keeps {s r : State} {n : Fin 64} (h : s.Keeps r) : KeepsOut s (execOcBlankEnd n r) := by
  unfold execOcBlankEnd
  repeat' first
    | with_reducible assumption
    | with_reducible apply State.setHsc_keeps
    | with_reducible apply KeepsOut.next

theorem execOtTrip_keeps {s r : State} {n : Fin 64} (h : s.Keeps r) : KeepsOut s (execOtTrip n r) := by
  unfold execOtTrip
  repeat' first
    | with_reducible assumption
    | with_reducible apply State.tripIf_keeps
    | with_reducible apply KeepsOut.next

theorem execRetryAttempt_keeps {s r : State} {n : Fin 64} (h : s.Keeps r) : KeepsOut s (execRetryAttempt n r) := by
  unfold execRetryAttempt
  repeat' first
    | with_reducible assumption
    | with_reducible apply State.putB_keeps
    | with_reducible apply State.incSat_keeps
    | with_reducible apply State.setHsc_keeps
    | with_reducible apply State.endPulse_keeps
    | with_reducible apply State.hswEval_keeps
    | with_reducible apply ite_keeps
    | with_reducible apply ite_keepsOut
    | with_reducible apply KeepsOut.next

theorem execRetryCountClear_keeps {s r : State} {n : Fin 64} (h : s.Keeps r) : KeepsOut s (execRetryCountClear n r) := by
  unfold execRetryCountClear
  repeat' first
    | with_reducible assumption
    | with_reducible apply State.put_keeps
    | with_reducible apply ite_keeps
    | with_reducible apply ite_keepsOut
    | with_reducible apply KeepsOut.next

theorem State.rclr_keeps {s r : State} {m : Master} {n : Nat} (h : s.Keeps r) : s.Keeps (State.rclr r m n) := by
  unfold State.rclr
  repeat' first
    | with_reducible assumption
    | with_reducible apply State.put_keeps
    | with_reducible apply State.putB_keeps
    | with_reducible apply State.raiseBit_keeps
    | with_reducible apply ite_keeps

theorem execRclr_keeps {s r : State} {m : Master} {n : Fin 64} (h : s.Keeps r) : KeepsOut s (execRclr m n r) := by
  unfold execRclr
  repeat' first
    | with_reducible assumption
    | intro _
    | with_reducible apply State.access_keeps
    | with_reducible apply State.rclr_keeps
    | with_reducible apply KeepsOut.next

theorem execTclr_keeps {s r : State} {n : Fin 64} (h : s.Keeps r) : KeepsOut s (execTclr n r) := by
  unfold execTclr
  repeat' first
    | with_reducible assumption
    | with_reducible apply State.put_keeps
    | with_reducible apply KeepsOut.next

theorem execAmbStale_keeps {s r : State} {k : Fin 4} (h : s.Keeps r) : KeepsOut s (execAmbStale k r) := by
  unfold execAmbStale
  repeat' first
    | with_reducible assumption
    | with_reducible apply State.raiseBit_keeps
    | with_reducible apply ite_keeps
    | with_reducible apply ite_keepsOut
    | with_reducible apply KeepsOut.next

theorem execGovernorMeasure_keeps {s r : State} {pmeas : BitVec 16} {ia : BitVec 8} {ib : BitVec 8} (h : s.Keeps r) : KeepsOut s (execGovernorMeasure pmeas ia ib r) := by
  unfold execGovernorMeasure
  repeat' first
    | with_reducible assumption
    | with_reducible apply State.put_keeps
    | with_reducible apply State.putB_keeps
    | with_reducible apply State.shedOne_keeps
    | with_reducible apply ite_keeps
    | with_reducible apply ite_keepsOut
    | with_reducible apply KeepsOut.next
    | fail_if_no_progress with_reducible apply State.Keeps.mk'

theorem State.bootCommit_keeps {s r : State} {h : Nat} {ns : List Nat} (h' : s.Keeps r) : s.Keeps (State.bootCommit r h ns) := by
  unfold State.bootCommit
  repeat' first
    | with_reducible assumption
    | intro _
    | with_reducible apply State.setReg_keeps
    | with_reducible apply State.put_keeps
    | with_reducible apply State.each_keeps
    | with_reducible apply State.commitHandle_keeps
    | with_reducible apply State.armHandle_keeps
    | with_reducible apply State.commitEdge_keeps
    | with_reducible apply ite_keeps

theorem State.inrushBack_keeps {s r : State} {n : Nat} (h : s.Keeps r) : s.Keeps (State.inrushBack r n) := by
  unfold State.inrushBack
  repeat' first
    | with_reducible assumption
    | with_reducible apply State.setStartQueue_keeps
    | fail_if_no_progress with_reducible apply State.Keeps.mk'

theorem State.bootTurnOn_keeps {s r : State} {ns : List Nat} (h : s.Keeps r) : s.Keeps (State.bootTurnOn r ns) := by
  unfold State.bootTurnOn
  repeat' first
    | with_reducible assumption
    | intro _
    | with_reducible apply State.incSat_keeps
    | with_reducible apply State.when_keeps
    | with_reducible apply State.bootCommit_keeps
    | with_reducible apply State.inrushBack_keeps
    | with_reducible apply ite_keeps
    | split
    | dsimp only
    | fail_if_no_progress with_reducible apply State.Keeps.mk'

theorem State.inrushHead_keeps {s r : State} {f : Feed} (h : s.Keeps r) : KeepsFst s (State.inrushHead r f) := by
  unfold State.inrushHead
  repeat' first
    | with_reducible assumption
    | intro _
    | with_reducible apply State.each_keeps
    | with_reducible apply State.setHsc_keeps
    | with_reducible apply State.setStartQueue_keeps
    | with_reducible apply ite_keeps
    | with_reducible apply ite_keepsFst
    | split
    | dsimp only
    | fail_if_no_progress with_reducible apply State.Keeps.mk'
    | with_reducible apply KeepsFst.mk

theorem State.inrushHead_keeps' {s r t : State} {f : Feed} {y : Option Nat} (e : State.inrushHead r f = (t, y)) (h : s.Keeps r) :
    s.Keeps t :=
  (State.inrushHead_keeps h).elim e

theorem State.inrushStep_keeps {s r : State} (h : s.Keeps r) : s.Keeps (State.inrushStep r) := by
  unfold State.inrushStep
  repeat' first
    | with_reducible assumption
    | intro _
    | with_reducible apply State.each_keeps
    | with_reducible apply State.when_keeps
    | with_reducible apply State.setHsc_keeps
    | with_reducible apply State.hswEval_keeps
    | with_reducible apply State.bootTurnOn_keeps
    | with_reducible apply State.inrushHead_keeps
    | with_reducible refine State.inrushHead_keeps' (by with_reducible assumption) ?_
    | with_reducible apply KeepsFst.fst

theorem execInrushStep_keeps {s r : State} (h : s.Keeps r) : KeepsOut s (execInrushStep r) := by
  unfold execInrushStep
  repeat' first
    | with_reducible assumption
    | with_reducible apply State.inrushStep_keeps
    | with_reducible apply KeepsOut.next

theorem execReverseCurrentOff_keeps {s r : State} {n : Fin 64} (h : s.Keeps r) : KeepsOut s (execReverseCurrentOff n r) := by
  unfold execReverseCurrentOff
  repeat' first
    | with_reducible assumption
    | with_reducible apply State.setHsc_keeps
    | with_reducible apply State.raiseP_keeps
    | with_reducible apply State.hswEval_keeps
    | with_reducible apply ite_keeps
    | with_reducible apply ite_keepsOut
    | with_reducible apply KeepsOut.next

theorem execReverseCurrentRecover_keeps {s r : State} {n : Fin 64} (h : s.Keeps r) : KeepsOut s (execReverseCurrentRecover n r) := by
  unfold execReverseCurrentRecover
  repeat' first
    | with_reducible assumption
    | with_reducible apply State.setHsc_keeps
    | with_reducible apply State.queueStarts_keeps
    | with_reducible apply ite_keeps
    | with_reducible apply ite_keepsOut
    | with_reducible apply KeepsOut.next

theorem execOvervoltageStart_keeps {s r : State} (h : s.Keeps r) : KeepsOut s (execOvervoltageStart r) := by
  unfold execOvervoltageStart
  repeat' first
    | with_reducible assumption
    | with_reducible apply State.raiseBit_keeps
    | with_reducible apply State.raiseP_keeps
    | with_reducible apply KeepsOut.next
    | fail_if_no_progress with_reducible apply State.Keeps.mk'

theorem execOvervoltageEnd_keeps {s r : State} (h : s.Keeps r) : KeepsOut s (execOvervoltageEnd r) := by
  unfold execOvervoltageEnd
  repeat' first
    | with_reducible assumption
    | intro _
    | with_reducible apply State.each_keeps
    | with_reducible apply State.setHsc_keeps
    | with_reducible apply State.setDou_keeps
    | with_reducible apply State.boostService_keeps
    | with_reducible apply State.doutOn_keeps
    | with_reducible apply State.queueStarts_keeps
    | with_reducible apply ite_keeps
    | with_reducible apply ite_keepsOut
    | with_reducible apply KeepsOut.next
    | fail_if_no_progress with_reducible apply State.Keeps.mk'

theorem execFadeStep_keeps {s r : State} {n : Fin 48} (h : s.Keeps r) : KeepsOut s (execFadeStep n r) := by
  unfold execFadeStep
  repeat' first
    | with_reducible assumption
    | intro _
    | with_reducible apply State.put_keeps
    | with_reducible apply State.raiseBit_keeps
    | with_reducible apply State.when_keeps
    | with_reducible apply State.markOff_keeps
    | with_reducible apply State.stopFade_keeps
    | with_reducible apply ite_keeps
    | with_reducible apply ite_keepsOut
    | with_reducible apply KeepsOut.next
    | split

theorem execVledTrackStep_keeps {s r : State} {vbat : BitVec 16} {vled : BitVec 16} {itot : BitVec 16} {vsink : List (BitVec 16)} {imeas : List (BitVec 16)} (h : s.Keeps r) : KeepsOut s (execVledTrackStep vbat vled itot vsink imeas r) := by
  unfold execVledTrackStep
  repeat' first
    | with_reducible assumption
    | intro _
    | with_reducible apply State.put_keeps
    | with_reducible apply State.putB_keeps
    | with_reducible apply State.each_keeps
    | with_reducible apply ite_keeps
    | with_reducible apply ite_keepsOut
    | with_reducible apply KeepsOut.next

theorem State.vledFault_keeps {s r : State} {f : Fld} (h : s.Keeps r) : s.Keeps (State.vledFault r f) := by
  unfold State.vledFault
  repeat' first
    | with_reducible assumption
    | with_reducible apply State.raiseBit_keeps
    | with_reducible apply State.raiseP_keeps

theorem execVledOvervoltage_keeps {s r : State} {vled : BitVec 16} (h : s.Keeps r) : KeepsOut s (execVledOvervoltage vled r) := by
  unfold execVledOvervoltage
  repeat' first
    | with_reducible assumption
    | with_reducible apply State.put_keeps
    | with_reducible apply State.vledFault_keeps
    | with_reducible apply ite_keeps
    | with_reducible apply ite_keepsOut
    | with_reducible apply KeepsOut.next
    | fail_if_no_progress with_reducible apply State.Keeps.mk'

theorem execVledOvRecover_keeps {s r : State} {vled : BitVec 16} (h : s.Keeps r) : KeepsOut s (execVledOvRecover vled r) := by
  unfold execVledOvRecover
  repeat' first
    | with_reducible assumption
    | with_reducible apply State.put_keeps
    | with_reducible apply ite_keeps
    | with_reducible apply ite_keepsOut
    | with_reducible apply KeepsOut.next
    | fail_if_no_progress with_reducible apply State.Keeps.mk'

theorem execVledUndervoltage_keeps {s r : State} {vled : BitVec 16} (h : s.Keeps r) : KeepsOut s (execVledUndervoltage vled r) := by
  unfold execVledUndervoltage
  repeat' first
    | with_reducible assumption
    | intro _
    | with_reducible apply State.put_keeps
    | with_reducible apply State.vledFault_keeps
    | with_reducible apply ite_keeps
    | with_reducible apply ite_keepsOut
    | with_reducible apply KeepsOut.next

theorem execVledOvercurrent_keeps {s r : State} (h : s.Keeps r) : KeepsOut s (execVledOvercurrent r) := by
  unfold execVledOvercurrent
  repeat' first
    | with_reducible assumption
    | with_reducible apply State.vledFault_keeps
    | with_reducible apply KeepsOut.next

theorem execSinkFoldback_keeps {s r : State} {n : Fin 48} {tj : BitVec 16} (h : s.Keeps r) : KeepsOut s (execSinkFoldback n tj r) := by
  unfold execSinkFoldback
  repeat' first
    | with_reducible assumption
    | with_reducible apply State.putB_keeps
    | with_reducible apply KeepsOut.next
    | fail_if_no_progress with_reducible apply State.Keeps.mk'

theorem execSinkEvidence_keeps {s r : State} {n : Fin 48} {k : SinkKind} (h : s.Keeps r) : KeepsOut s (execSinkEvidence n k r) := by
  unfold execSinkEvidence
  repeat' first
    | with_reducible assumption
    | with_reducible apply State.sinkEvidence_keeps
    | with_reducible apply ite_keeps
    | with_reducible apply ite_keepsOut
    | with_reducible apply KeepsOut.next
    | split

theorem State.ledDclr_keeps {s r : State} {m : Master} {n : Nat} (h : s.Keeps r) : s.Keeps (State.ledDclr r m n) := by
  unfold State.ledDclr
  repeat' first
    | with_reducible assumption
    | with_reducible apply State.put_keeps
    | with_reducible apply State.raiseBit_keeps
    | with_reducible apply ite_keeps

theorem execLedDclr_keeps {s r : State} {m : Master} {n : Fin 48} (h : s.Keeps r) : KeepsOut s (execLedDclr m n r) := by
  unfold execLedDclr
  repeat' first
    | with_reducible assumption
    | intro _
    | with_reducible apply State.access_keeps
    | with_reducible apply State.ledDclr_keeps
    | with_reducible apply KeepsOut.next

theorem State.pointEvidence_keeps {s r : State} {line : Nat} {low : List (Fin 24)} (h : s.Keeps r) : s.Keeps (State.pointEvidence r line low) := by
  unfold State.pointEvidence
  repeat' first
    | with_reducible assumption
    | intro _
    | with_reducible apply State.raiseBit_keeps
    | with_reducible apply State.each_keeps
    | with_reducible apply ite_keeps
    | with_reducible apply ite_keepsFst
    | with_reducible apply KeepsFst.fst
    | fail_if_no_progress with_reducible apply State.Keeps.mk'

theorem execMatrixSlot_keeps {s r : State} {low : List (Fin 24)} (h : s.Keeps r) : KeepsOut s (execMatrixSlot low r) := by
  unfold execMatrixSlot
  repeat' first
    | with_reducible assumption
    | intro _
    | with_reducible apply State.put_keeps
    | with_reducible apply State.incWrap_keeps
    | with_reducible apply State.pointEvidence_keeps
    | with_reducible apply ite_keeps
    | with_reducible apply ite_keepsOut
    | with_reducible apply KeepsOut.next
    | fail_if_no_progress with_reducible apply State.Keeps.mk'

theorem execMatrixLineOc_keeps {s r : State} (h : s.Keeps r) : KeepsOut s (execMatrixLineOc r) := by
  unfold execMatrixLineOc
  repeat' first
    | with_reducible assumption
    | intro _
    | with_reducible apply State.raiseBit_keeps
    | with_reducible apply State.raiseP_keeps
    | with_reducible apply State.hitItems_keeps
    | with_reducible apply ite_keeps
    | with_reducible apply ite_keepsOut
    | with_reducible apply KeepsOut.next
    | fail_if_no_progress with_reducible apply State.Keeps.mk'

theorem State.mrst_keeps {s r : State} {m : Master} (h : s.Keeps r) : s.Keeps (State.mrst r m) := by
  unfold State.mrst
  repeat' first
    | with_reducible assumption
    | intro _
    | with_reducible apply State.put_keeps
    | with_reducible apply State.putB_keeps
    | with_reducible apply State.raiseBit_keeps
    | with_reducible apply State.each_keeps
    | with_reducible apply ite_keeps
    | fail_if_no_progress with_reducible apply State.Keeps.mk'

theorem execMrst_keeps {s r : State} {m : Master} (h : s.Keeps r) : KeepsOut s (execMrst m r) := by
  unfold execMrst
  repeat' first
    | with_reducible assumption
    | intro _
    | with_reducible apply State.access_keeps
    | with_reducible apply State.mrst_keeps
    | with_reducible apply KeepsOut.next

theorem State.frameWrite_keeps {s r : State} {m : Master} {k : Nat} {f : Nat} {w : Nat} {a : Access} {v : BitVec 64} (h : s.Keeps r) : s.Keeps (State.frameWrite r m k f w a v) := by
  unfold State.frameWrite
  repeat' first
    | with_reducible assumption
    | with_reducible apply State.setReg_keeps
    | with_reducible apply State.raiseBit_keeps
    | with_reducible apply ite_keeps

theorem execFrameWrite_keeps {s r : State} {m : Master} {k : Fin 2} {f : Fin 16} {w : Fin 64} {a : Access} {v : BitVec 64} (h : s.Keeps r) : KeepsOut s (execFrameWrite m k f w a v r) := by
  unfold execFrameWrite
  repeat' first
    | with_reducible assumption
    | intro _
    | with_reducible apply State.access_keeps
    | with_reducible apply State.frameWrite_keeps
    | with_reducible apply KeepsOut.next

end Sys2Proof.Machine
end

