-- ==== Sys2Proof/Laws/Keeps16.lean ====
section
/-!
SUPPORT. What the operations and meanings of Machine/Can keep, one lemma each (State.Keeps).
-/

namespace Sys2Proof.Machine

theorem State.netEvent_keeps {s r : State} {f : State → State} (h : s.Keeps r) (hf : ∀ t, s.Keeps t → s.Keeps (f t)) : s.Keeps (State.netEvent r f) := by
  unfold State.netEvent
  repeat' first
    | with_reducible assumption
    | intro _
    | with_reducible apply hf
    | with_reducible apply ite_keeps

theorem State.canModeWriteBy_keeps {s r : State} {m : Master} {n : Nat} {mode : Nat} (h : s.Keeps r) : s.Keeps (State.canModeWriteBy r m n mode) := by
  unfold State.canModeWriteBy
  repeat' first
    | with_reducible assumption
    | intro _
    | with_reducible apply State.access_keeps
    | with_reducible apply State.canOwned_keeps
    | with_reducible apply State.canModeWrite_keeps

theorem execCanModeWrite_keeps {s r : State} {m : Master} {n : Fin 8} {mode : BitVec 3} (h : s.Keeps r) : KeepsOut s (execCanModeWrite m n mode r) := by
  unfold execCanModeWrite
  repeat' first
    | with_reducible assumption
    | with_reducible apply State.canModeWriteBy_keeps
    | with_reducible apply KeepsOut.next

theorem State.canModeApply_keeps {s r : State} {n : Nat} (h : s.Keeps r) : s.Keeps (State.canModeApply r n) := by
  unfold State.canModeApply
  repeat' first
    | with_reducible assumption
    | with_reducible apply State.canSetMode_keeps
    | with_reducible apply State.nslCheck_keeps
    | with_reducible apply ite_keeps

theorem execCanModeChange_keeps {s r : State} {n : Fin 8} (h : s.Keeps r) : KeepsOut s (execCanModeChange n r) := by
  unfold execCanModeChange
  repeat' first
    | with_reducible assumption
    | intro _
    | with_reducible apply State.netEvent_keeps
    | with_reducible apply State.canModeApply_keeps
    | with_reducible apply KeepsOut.next

theorem execAbdCandidateTimeout_keeps {s r : State} {n : Fin 8} (h : s.Keeps r) : KeepsOut s (execAbdCandidateTimeout n r) := by
  unfold execAbdCandidateTimeout
  repeat' first
    | with_reducible assumption
    | intro _
    | with_reducible apply State.abdNext_keeps
    | with_reducible apply State.netEvent_keeps
    | with_reducible apply ite_keeps
    | with_reducible apply ite_keepsOut
    | with_reducible apply KeepsOut.next

theorem State.canReceive_keeps {s r : State} {n : Nat} {f : CanFrame} {stamp : Nat} {vbat : Nat} (h : s.Keeps r) : s.Keeps (State.canReceive r n f stamp vbat) := by
  unfold State.canReceive
  repeat' first
    | with_reducible assumption
    | with_reducible apply State.canStore_keeps
    | with_reducible apply State.canRxGood_keeps
    | with_reducible apply State.abdLock_keeps
    | with_reducible apply State.canHandOn_keeps
    | with_reducible apply ite_keeps

theorem execCanFrameRx_keeps {s r : State} {n : Fin 8} {f : CanFrame} {stamp : BitVec 32} {vbat : BitVec 16} (h : s.Keeps r) : KeepsOut s (execCanFrameRx n f stamp vbat r) := by
  unfold execCanFrameRx
  repeat' first
    | with_reducible assumption
    | intro _
    | with_reducible apply State.netEvent_keeps
    | with_reducible apply State.canReceive_keeps
    | with_reducible apply KeepsOut.next

theorem State.canRelease_keeps {s r : State} {n : Nat} {k : Nat} (h : s.Keeps r) : s.Keeps (State.canRelease r n k) := by
  unfold State.canRelease
  repeat' first
    | with_reducible assumption
    | with_reducible apply State.putB_keeps
    | with_reducible apply State.raiseBit_keeps
    | with_reducible apply ite_keeps

theorem State.canReleaseBy_keeps {s r : State} {m : Master} {n : Nat} {k : Nat} (h : s.Keeps r) : s.Keeps (State.canReleaseBy r m n k) := by
  unfold State.canReleaseBy
  repeat' first
    | with_reducible assumption
    | intro _
    | with_reducible apply State.access_keeps
    | with_reducible apply State.canOwned_keeps
    | with_reducible apply State.canRelease_keeps

theorem execCanRelease_keeps {s r : State} {m : Master} {n : Fin 8} {k : Fin 129} (h : s.Keeps r) : KeepsOut s (execCanRelease m n k r) := by
  unfold execCanRelease
  repeat' first
    | with_reducible assumption
    | with_reducible apply State.canReleaseBy_keeps
    | with_reducible apply KeepsOut.next

theorem State.canTxreqBy_keeps {s r : State} {m : Master} {n : Nat} {k : Nat} {e : MemErr} (h : s.Keeps r) : s.Keeps (State.canTxreqBy r m n k e) := by
  unfold State.canTxreqBy
  repeat' first
    | with_reducible assumption
    | intro _
    | with_reducible apply State.access_keeps
    | with_reducible apply State.canOwned_keeps
    | with_reducible apply State.canTxreq_keeps

theorem execCanTxreq_keeps {s r : State} {m : Master} {n : Fin 8} {x : CanReq} (h : s.Keeps r) : KeepsOut s (execCanTxreq m n x r) := by
  unfold execCanTxreq
  repeat' first
    | with_reducible assumption
    | with_reducible apply State.canTxreqBy_keeps
    | with_reducible apply KeepsOut.next

theorem State.canCancelBy_keeps {s r : State} {m : Master} {n : Nat} {k : Nat} (h : s.Keeps r) : s.Keeps (State.canCancelBy r m n k) := by
  unfold State.canCancelBy
  repeat' first
    | with_reducible assumption
    | intro _
    | with_reducible apply State.access_keeps
    | with_reducible apply State.canOwned_keeps
    | with_reducible apply State.canCancel_keeps
    | with_reducible apply State.nslCheck_keeps

theorem execCanCancel_keeps {s r : State} {m : Master} {n : Fin 8} {k : Fin 128} (h : s.Keeps r) : KeepsOut s (execCanCancel m n k r) := by
  unfold execCanCancel
  repeat' first
    | with_reducible assumption
    | with_reducible apply State.canCancelBy_keeps
    | with_reducible apply KeepsOut.next

theorem State.canStart_keeps {s r : State} {n : Nat} {tdc : Nat} {e : MemErr} (h : s.Keeps r) : s.Keeps (State.canStart r n tdc e) := by
  unfold State.canStart
  repeat' first
    | with_reducible assumption
    | with_reducible apply State.send_keeps
    | with_reducible apply State.dmaEcc_keeps
    | with_reducible apply State.setCn_keeps
    | with_reducible apply State.canDamage_keeps
    | with_reducible refine State.canDamage_keeps' (by with_reducible assumption) ?_
    | with_reducible apply ite_keeps
    | with_reducible apply ite_keepsFst
    | with_reducible apply KeepsFst.fst
    | split

theorem execCanTxStart_keeps {s r : State} {x : CanStart} (h : s.Keeps r) : KeepsOut s (execCanTxStart x r) := by
  unfold execCanTxStart
  repeat' first
    | with_reducible assumption
    | intro _
    | with_reducible apply State.netEvent_keeps
    | with_reducible apply State.canStart_keeps
    | with_reducible apply KeepsOut.next

theorem State.canTxGood_keeps {s r : State} {n : Nat} (h : s.Keeps r) : s.Keeps (State.canTxGood r n) := by
  unfold State.canTxGood
  repeat' first
    | with_reducible assumption
    | with_reducible apply State.put_keeps
    | with_reducible apply State.canPassive_keeps

theorem State.canSent_keeps {s r : State} {n : Nat} (h : s.Keeps r) : s.Keeps (State.canSent r n) := by
  unfold State.canSent
  repeat' first
    | with_reducible assumption
    | with_reducible apply State.put_keeps
    | with_reducible apply State.setCn_keeps
    | with_reducible apply State.canEnd_keeps
    | with_reducible apply State.tdcShow_keeps
    | with_reducible apply State.nslFrame_keeps
    | with_reducible apply State.nslCheck_keeps
    | with_reducible apply State.canTxGood_keeps
    | with_reducible apply ite_keeps
    | split
    | dsimp only

theorem execCanTxEnd_keeps {s r : State} {n : Fin 8} (h : s.Keeps r) : KeepsOut s (execCanTxEnd n r) := by
  unfold execCanTxEnd
  repeat' first
    | with_reducible assumption
    | intro _
    | with_reducible apply State.netEvent_keeps
    | with_reducible apply State.canSent_keeps
    | with_reducible apply KeepsOut.next

theorem execCanArbLost_keeps {s r : State} {n : Fin 8} (h : s.Keeps r) : KeepsOut s (execCanArbLost n r) := by
  unfold execCanArbLost
  repeat' first
    | with_reducible assumption
    | intro _
    | with_reducible apply State.canAttemptEnds_keeps
    | with_reducible apply State.nslCheck_keeps
    | with_reducible apply State.netEvent_keeps
    | with_reducible apply KeepsOut.next

theorem State.canError_keeps {s r : State} {n : Nat} {tec : Nat} {rec_ : Nat} {inArb : Bool} {resBit : Bool} (h : s.Keeps r) : s.Keeps (State.canError r n tec rec_ inArb resBit) := by
  unfold State.canError
  repeat' first
    | with_reducible assumption
    | with_reducible apply State.canAttemptEnds_keeps
    | with_reducible apply State.canCount_keeps
    | with_reducible apply State.abdNext_keeps
    | with_reducible apply State.nslCheck_keeps
    | with_reducible apply ite_keeps

theorem execCanBusError_keeps {s r : State} {n : Fin 8} {tec : Fin 9} {rec_ : Fin 9} {err : CanErrorAt} (h : s.Keeps r) : KeepsOut s (execCanBusError n tec rec_ err r) := by
  unfold execCanBusError
  repeat' first
    | with_reducible assumption
    | intro _
    | with_reducible apply State.netEvent_keeps
    | with_reducible apply State.canError_keeps
    | with_reducible apply KeepsOut.next

theorem State.borec_keeps {s r : State} {n : Nat} (h : s.Keeps r) : s.Keeps (State.borec r n) := by
  unfold State.borec
  repeat' first
    | with_reducible assumption
    | with_reducible apply State.setCn_keeps
    | with_reducible apply ite_keeps

theorem State.borecBy_keeps {s r : State} {m : Master} {n : Nat} (h : s.Keeps r) : s.Keeps (State.borecBy r m n) := by
  unfold State.borecBy
  repeat' first
    | with_reducible assumption
    | intro _
    | with_reducible apply State.access_keeps
    | with_reducible apply State.canOwned_keeps
    | with_reducible apply State.borec_keeps

theorem execBorec_keeps {s r : State} {m : Master} {n : Fin 8} (h : s.Keeps r) : KeepsOut s (execBorec m n r) := by
  unfold execBorec
  repeat' first
    | with_reducible assumption
    | with_reducible apply State.borecBy_keeps
    | with_reducible apply KeepsOut.next

theorem State.busoffEnd_keeps {s r : State} {n : Nat} (h : s.Keeps r) : s.Keeps (State.busoffEnd r n) := by
  unfold State.busoffEnd
  repeat' first
    | with_reducible assumption
    | with_reducible apply State.put_keeps
    | with_reducible apply State.putB_keeps
    | with_reducible apply State.setCn_keeps
    | with_reducible apply State.canShow_keeps
    | with_reducible apply ite_keeps

theorem execBusoffRecovered_keeps {s r : State} {n : Fin 8} (h : s.Keeps r) : KeepsOut s (execBusoffRecovered n r) := by
  unfold execBusoffRecovered
  repeat' first
    | with_reducible assumption
    | intro _
    | with_reducible apply State.netEvent_keeps
    | with_reducible apply State.busoffEnd_keeps
    | with_reducible apply KeepsOut.next

theorem State.tackEnd_keeps {s r : State} {n : Nat} (h : s.Keeps r) : s.Keeps (State.tackEnd r n) := by
  unfold State.tackEnd
  repeat' first
    | with_reducible assumption
    | with_reducible apply State.setCn_keeps
    | with_reducible apply State.canShow_keeps

theorem execTackWindowClose_keeps {s r : State} {n : Fin 8} (h : s.Keeps r) : KeepsOut s (execTackWindowClose n r) := by
  unfold execTackWindowClose
  repeat' first
    | with_reducible assumption
    | intro _
    | with_reducible apply State.netEvent_keeps
    | with_reducible apply State.tackEnd_keeps
    | with_reducible apply KeepsOut.next

theorem State.canFault_keeps {s r : State} {n : Nat} (h : s.Keeps r) : s.Keeps (State.canFault r n) := by
  unfold State.canFault
  repeat' first
    | with_reducible assumption
    | with_reducible apply State.raiseL_keeps
    | with_reducible apply State.setCn_keeps
    | with_reducible apply State.canShow_keeps

theorem execCanBusFault_keeps {s r : State} {n : Fin 6} (h : s.Keeps r) : KeepsOut s (execCanBusFault n r) := by
  unfold execCanBusFault
  repeat' first
    | with_reducible assumption
    | intro _
    | with_reducible apply State.netEvent_keeps
    | with_reducible apply State.canFault_keeps
    | with_reducible apply KeepsOut.next

theorem State.canFaultClear_keeps {s r : State} {n : Nat} (h : s.Keeps r) : s.Keeps (State.canFaultClear r n) := by
  unfold State.canFaultClear
  repeat' first
    | with_reducible assumption
    | with_reducible apply State.setCn_keeps
    | with_reducible apply State.canShow_keeps
    | with_reducible apply ite_keeps

theorem execCanBusFaultClear_keeps {s r : State} {n : Fin 6} (h : s.Keeps r) : KeepsOut s (execCanBusFaultClear n r) := by
  unfold execCanBusFaultClear
  repeat' first
    | with_reducible assumption
    | intro _
    | with_reducible apply State.netEvent_keeps
    | with_reducible apply State.canFaultClear_keeps
    | with_reducible apply KeepsOut.next

theorem State.swWake_keeps {s r : State} {n : Nat} {kind : Nat} (h : s.Keeps r) : s.Keeps (State.swWake r n kind) := by
  unfold State.swWake
  repeat' first
    | with_reducible assumption
    | with_reducible apply State.raiseBit_keeps
    | with_reducible apply State.setCn_keeps
    | with_reducible apply State.canShow_keeps
    | with_reducible apply State.canForce_keeps
    | with_reducible apply State.busWake_keeps
    | with_reducible apply ite_keeps

theorem State.swErrored_keeps {s r : State} {n : Nat} (h : s.Keeps r) : s.Keeps (State.swErrored r n) := by
  unfold State.swErrored
  repeat' first
    | with_reducible assumption
    | with_reducible apply State.incSat_keeps
    | with_reducible apply State.swWake_keeps
    | with_reducible apply ite_keeps

theorem State.swEvent_keeps {s r : State} {n : Nat} {e : SwEvent} (h : s.Keeps r) : s.Keeps (State.swEvent r n e) := by
  unfold State.swEvent
  repeat' first
    | with_reducible assumption
    | with_reducible apply State.put_keeps
    | with_reducible apply State.swWake_keeps
    | with_reducible apply State.swErrored_keeps
    | with_reducible apply ite_keeps
    | split

theorem execCanSelectiveWake_keeps {s r : State} {n : Fin 6} {e : SwEvent} (h : s.Keeps r) : KeepsOut s (execCanSelectiveWake n e r) := by
  unfold execCanSelectiveWake
  repeat' first
    | with_reducible assumption
    | with_reducible apply State.swEvent_keeps
    | with_reducible apply KeepsOut.next

end Sys2Proof.Machine
end

