-- ==== Sys2Proof/Laws/Keeps17.lean ====
section
/-!
SUPPORT. What the operations and meanings of Machine/Lin keep, one lemma each (State.Keeps).
-/

namespace Sys2Proof.Machine

theorem State.linEnable_keeps {s r : State} {n : Nat} (h : s.Keeps r) : s.Keeps (State.linEnable r n) := by
  unfold State.linEnable
  repeat' first
    | with_reducible assumption
    | with_reducible apply State.raiseBit_keeps
    | with_reducible apply State.linTackOpen_keeps
    | with_reducible apply ite_keeps

theorem State.linDisable_keeps {s r : State} {n : Nat} (h : s.Keeps r) : s.Keeps (State.linDisable r n) := by
  unfold State.linDisable
  repeat' first
    | with_reducible assumption
    | with_reducible apply State.put_keeps
    | with_reducible apply State.putB_keeps
    | with_reducible apply State.setLn_keeps

theorem State.linEnableBy_keeps {s r : State} {m : Master} {n : Nat} (h : s.Keeps r) : s.Keeps (State.linEnableBy r m n) := by
  unfold State.linEnableBy
  repeat' first
    | with_reducible assumption
    | intro _
    | with_reducible apply State.access_keeps
    | with_reducible apply State.linOwned_keeps
    | with_reducible apply State.linEnable_keeps

theorem execLinEnable_keeps {s r : State} {m : Master} {n : Fin 8} (h : s.Keeps r) : KeepsOut s (execLinEnable m n r) := by
  unfold execLinEnable
  repeat' first
    | with_reducible assumption
    | with_reducible apply State.linEnableBy_keeps
    | with_reducible apply KeepsOut.next

theorem execLinTackClose_keeps {s r : State} {n : Fin 8} (h : s.Keeps r) : KeepsOut s (execLinTackClose n r) := by
  unfold execLinTackClose
  repeat' first
    | with_reducible assumption
    | intro _
    | with_reducible apply State.linBecomesActive_keeps
    | with_reducible apply State.nslCheck_keeps
    | with_reducible apply State.netEvent_keeps
    | with_reducible apply ite_keeps
    | with_reducible apply ite_keepsOut
    | with_reducible apply KeepsOut.next

theorem State.linDominant_keeps {s r : State} {n : Nat} (h : s.Keeps r) : s.Keeps (State.linDominant r n) := by
  unfold State.linDominant
  repeat' first
    | with_reducible assumption
    | with_reducible apply State.raiseL_keeps
    | with_reducible apply State.linTackOpen_keeps
    | with_reducible apply ite_keeps

theorem execLinBusDominant_keeps {s r : State} {n : Fin 8} (h : s.Keeps r) : KeepsOut s (execLinBusDominant n r) := by
  unfold execLinBusDominant
  repeat' first
    | with_reducible assumption
    | intro _
    | with_reducible apply State.netEvent_keeps
    | with_reducible apply State.linDominant_keeps
    | with_reducible apply KeepsOut.next

theorem State.schgo_keeps {s r : State} {n : Nat} {start : Nat} (h : s.Keeps r) : s.Keeps (State.schgo r n start) := by
  unfold State.schgo
  repeat' first
    | with_reducible assumption
    | with_reducible apply State.setLn_keeps
    | with_reducible apply State.linTryStart_keeps
    | with_reducible apply ite_keeps

theorem State.schgoBy_keeps {s r : State} {m : Master} {n : Nat} {start : Nat} (h : s.Keeps r) : s.Keeps (State.schgoBy r m n start) := by
  unfold State.schgoBy
  repeat' first
    | with_reducible assumption
    | intro _
    | with_reducible apply State.put_keeps
    | with_reducible apply State.access_keeps
    | with_reducible apply State.linOwned_keeps
    | with_reducible apply State.schgo_keeps

theorem execSchgo_keeps {s r : State} {m : Master} {n : Fin 8} {start : Fin 64} (h : s.Keeps r) : KeepsOut s (execSchgo m n start r) := by
  unfold execSchgo
  repeat' first
    | with_reducible assumption
    | with_reducible apply State.schgoBy_keeps
    | with_reducible apply KeepsOut.next

theorem State.schstop_keeps {s r : State} {n : Nat} (h : s.Keeps r) : s.Keeps (State.schstop r n) := by
  unfold State.schstop
  repeat' first
    | with_reducible assumption
    | with_reducible apply State.setLn_keeps
    | with_reducible apply ite_keeps

theorem State.linCmdBy_keeps {s r : State} {m : Master} {n : Nat} {bit : Nat} {f : State → State} (h : s.Keeps r) (hf : ∀ t, s.Keeps t → s.Keeps (f t)) : s.Keeps (State.linCmdBy r m n bit f) := by
  unfold State.linCmdBy
  repeat' first
    | with_reducible assumption
    | intro _
    | with_reducible apply State.access_keeps
    | with_reducible apply State.linOwned_keeps

theorem execSchstop_keeps {s r : State} {m : Master} {n : Fin 8} (h : s.Keeps r) : KeepsOut s (execSchstop m n r) := by
  unfold execSchstop
  repeat' first
    | with_reducible assumption
    | intro _
    | with_reducible apply State.schstop_keeps
    | with_reducible apply State.linCmdBy_keeps
    | with_reducible apply KeepsOut.next

theorem State.gosleep_keeps {s r : State} {n : Nat} (h : s.Keeps r) : s.Keeps (State.gosleep r n) := by
  unfold State.gosleep
  repeat' first
    | with_reducible assumption
    | with_reducible apply State.setLn_keeps
    | with_reducible apply State.linSendSleep_keeps
    | with_reducible apply State.nslCheck_keeps
    | with_reducible apply ite_keeps

theorem execGosleep_keeps {s r : State} {m : Master} {n : Fin 8} (h : s.Keeps r) : KeepsOut s (execGosleep m n r) := by
  unfold execGosleep
  repeat' first
    | with_reducible assumption
    | intro _
    | with_reducible apply State.linCmdBy_keeps
    | with_reducible apply State.gosleep_keeps
    | with_reducible apply KeepsOut.next

theorem State.linSlotEnd_keeps {s r : State} {n : Nat} (h : s.Keeps r) : s.Keeps (State.linSlotEnd r n) := by
  unfold State.linSlotEnd
  repeat' first
    | with_reducible assumption
    | with_reducible apply State.setLn_keeps
    | with_reducible apply State.linSendHeader_keeps
    | with_reducible apply State.linSlot_keeps
    | with_reducible apply State.linSendSleep_keeps
    | with_reducible apply State.nslCheck_keeps
    | with_reducible apply ite_keeps
    | split

theorem execLinSlotNext_keeps {s r : State} {n : Fin 8} (h : s.Keeps r) : KeepsOut s (execLinSlotNext n r) := by
  unfold execLinSlotNext
  repeat' first
    | with_reducible assumption
    | intro _
    | with_reducible apply State.netEvent_keeps
    | with_reducible apply State.linSlotEnd_keeps
    | with_reducible apply KeepsOut.next

theorem State.linHeaderError_keeps {s r : State} {n : Nat} {id : Nat} (h : s.Keeps r) : s.Keeps (State.linHeaderError r n id) := by
  unfold State.linHeaderError
  repeat' first
    | with_reducible assumption
    | intro _
    | with_reducible apply State.when_keeps
    | with_reducible apply State.setLn_keeps
    | with_reducible apply State.linReqEnd_keeps
    | with_reducible apply State.linBusFree_keeps

theorem State.linHeaderRx_keeps {s r : State} {n : Nat} {id : Nat} {stamp : Nat} {sync : Bool} {err : Bool} (h : s.Keeps r) : s.Keeps (State.linHeaderRx r n id stamp sync err) := by
  unfold State.linHeaderRx
  repeat' first
    | with_reducible assumption
    | with_reducible apply State.raiseBit_keeps
    | with_reducible apply State.setLn_keeps
    | with_reducible apply State.linAct_keeps
    | with_reducible apply State.linBecomesActive_keeps
    | with_reducible apply State.linHeaderError_keeps
    | with_reducible apply ite_keeps

theorem execLinHeader_keeps {s r : State} {n : Fin 8} {id : Fin 64} {stamp : BitVec 32} {sync : Bool} {err : Bool} (h : s.Keeps r) : KeepsOut s (execLinHeader n id stamp sync err r) := by
  unfold execLinHeader
  repeat' first
    | with_reducible assumption
    | intro _
    | with_reducible apply State.netEvent_keeps
    | with_reducible apply State.linHeaderRx_keeps
    | with_reducible apply KeepsOut.next

theorem State.linSleepRx_keeps {s r : State} {n : Nat} {id : Nat} {data : List Byte} (h : s.Keeps r) : s.Keeps (State.linSleepRx r n id data) := by
  unfold State.linSleepRx
  repeat' first
    | with_reducible assumption
    | with_reducible apply State.linEnterSleep_keeps
    | with_reducible apply ite_keeps

theorem State.linPublished_keeps {s r : State} {n : Nat} {h : LinHeader} {err : LinErr} (h' : s.Keeps r) : s.Keeps (State.linPublished r n h err) := by
  unfold State.linPublished
  repeat' first
    | with_reducible assumption
    | with_reducible apply State.put_keeps
    | with_reducible apply State.linReqEnd_keeps
    | with_reducible apply State.linErr_keeps
    | with_reducible apply State.nslFrame_keeps
    | with_reducible apply State.gweIn_keeps
    | with_reducible apply ite_keeps
    | split

theorem State.linReceived_keeps {s r : State} {n : Nat} {h : LinHeader} {data : List Byte} {err : LinErr} (h' : s.Keeps r) : s.Keeps (State.linReceived r n h data err) := by
  unfold State.linReceived
  repeat' first
    | with_reducible assumption
    | intro _
    | with_reducible apply State.put_keeps
    | with_reducible apply State.raiseBit_keeps
    | with_reducible apply State.when_keeps
    | with_reducible apply State.linErr_keeps
    | with_reducible apply State.nslFrame_keeps
    | with_reducible apply State.gweIn_keeps
    | with_reducible apply ite_keeps
    | split

theorem State.linDone_keeps {s r : State} {n : Nat} {data : List Byte} {err : LinErr} (h : s.Keeps r) : s.Keeps (State.linDone r n data err) := by
  unfold State.linDone
  repeat' first
    | with_reducible assumption
    | with_reducible apply State.setLn_keeps
    | with_reducible apply State.linBusFree_keeps
    | with_reducible apply State.nslCheck_keeps
    | with_reducible apply State.linSleepRx_keeps
    | with_reducible apply State.linPublished_keeps
    | with_reducible apply State.linReceived_keeps
    | with_reducible apply ite_keeps
    | split

theorem execLinResponseDone_keeps {s r : State} {n : Fin 8} {data : List Byte} {err : LinErr} (h : s.Keeps r) : KeepsOut s (execLinResponseDone n data err r) := by
  unfold execLinResponseDone
  repeat' first
    | with_reducible assumption
    | intro _
    | with_reducible apply State.netEvent_keeps
    | with_reducible apply State.linDone_keeps
    | with_reducible apply KeepsOut.next

theorem State.linNoresp_keeps {s r : State} {n : Nat} (h : s.Keeps r) : s.Keeps (State.linNoresp r n) := by
  unfold State.linNoresp
  repeat' first
    | with_reducible assumption
    | intro _
    | with_reducible apply State.when_keeps
    | with_reducible apply State.setLn_keeps
    | with_reducible apply State.linErr_keeps
    | with_reducible apply State.linBusFree_keeps
    | split

theorem execLinNoresp_keeps {s r : State} {n : Fin 8} (h : s.Keeps r) : KeepsOut s (execLinNoresp n r) := by
  unfold execLinNoresp
  repeat' first
    | with_reducible assumption
    | intro _
    | with_reducible apply State.netEvent_keeps
    | with_reducible apply State.linNoresp_keeps
    | with_reducible apply KeepsOut.next

theorem State.linTxreqBy_keeps {s r : State} {m : Master} {n : Nat} {i : Nat} (h : s.Keeps r) : s.Keeps (State.linTxreqBy r m n i) := by
  unfold State.linTxreqBy
  repeat' first
    | with_reducible assumption
    | intro _
    | with_reducible apply State.access_keeps
    | with_reducible apply State.linOwned_keeps
    | with_reducible apply State.linTxreq_keeps

theorem execLinTxreq_keeps {s r : State} {m : Master} {n : Fin 8} {k : Fin 64} (h : s.Keeps r) : KeepsOut s (execLinTxreq m n k r) := by
  unfold execLinTxreq
  repeat' first
    | with_reducible assumption
    | with_reducible apply State.linTxreqBy_keeps
    | with_reducible apply KeepsOut.next

theorem State.linFdRead_keeps {s r : State} {n : Nat} {i : Nat} {a : Access} (h : s.Keeps r) : s.Keeps (State.linFdRead r n i a) := by
  unfold State.linFdRead
  repeat' first
    | with_reducible assumption
    | with_reducible apply State.putB_keeps
    | with_reducible apply State.answer_keeps

theorem execLinFdRead_keeps {s r : State} {m : Master} {n : Fin 8} {k : Fin 64} {a : Access} (h : s.Keeps r) : KeepsOut s (execLinFdRead m n k a r) := by
  unfold execLinFdRead
  repeat' first
    | with_reducible assumption
    | intro _
    | with_reducible apply State.access_keeps
    | with_reducible apply State.linFdRead_keeps
    | with_reducible apply KeepsOut.next

theorem State.linWake_keeps {s r : State} {n : Nat} (h : s.Keeps r) : s.Keeps (State.linWake r n) := by
  unfold State.linWake
  repeat' first
    | with_reducible assumption
    | with_reducible apply State.linPulse_keeps
    | with_reducible apply ite_keeps

theorem execLinWake_keeps {s r : State} {m : Master} {n : Fin 8} (h : s.Keeps r) : KeepsOut s (execLinWake m n r) := by
  unfold execLinWake
  repeat' first
    | with_reducible assumption
    | intro _
    | with_reducible apply State.linCmdBy_keeps
    | with_reducible apply State.linWake_keeps
    | with_reducible apply KeepsOut.next

theorem State.linWakeRx_keeps {s r : State} {n : Nat} (h : s.Keeps r) : s.Keeps (State.linWakeRx r n) := by
  unfold State.linWakeRx
  repeat' first
    | with_reducible assumption
    | with_reducible apply State.raiseBit_keeps
    | with_reducible apply State.linBecomesActive_keeps
    | with_reducible apply State.busWake_keeps
    | with_reducible apply ite_keeps

theorem execLinWakeRx_keeps {s r : State} {n : Fin 8} (h : s.Keeps r) : KeepsOut s (execLinWakeRx n r) := by
  unfold execLinWakeRx
  repeat' first
    | with_reducible assumption
    | with_reducible apply State.linWakeRx_keeps
    | with_reducible apply KeepsOut.next

theorem State.linRetry_keeps {s r : State} {n : Nat} (h : s.Keeps r) : s.Keeps (State.linRetry r n) := by
  unfold State.linRetry
  repeat' first
    | with_reducible assumption
    | with_reducible apply State.setLn_keeps
    | with_reducible apply State.linPulse_keeps
    | with_reducible apply ite_keeps

theorem execLinWakeRetry_keeps {s r : State} {n : Fin 8} (h : s.Keeps r) : KeepsOut s (execLinWakeRetry n r) := by
  unfold execLinWakeRetry
  repeat' first
    | with_reducible assumption
    | intro _
    | with_reducible apply State.netEvent_keeps
    | with_reducible apply State.linRetry_keeps
    | with_reducible apply KeepsOut.next

theorem execLinIdleSleep_keeps {s r : State} {n : Fin 8} (h : s.Keeps r) : KeepsOut s (execLinIdleSleep n r) := by
  unfold execLinIdleSleep
  repeat' first
    | with_reducible assumption
    | intro _
    | with_reducible apply State.linEnterSleep_keeps
    | with_reducible apply State.nslCheck_keeps
    | with_reducible apply State.netEvent_keeps
    | with_reducible apply ite_keeps
    | with_reducible apply ite_keepsOut
    | with_reducible apply KeepsOut.next

theorem State.stayAwakeEnd_keeps {s r : State} {m : Nat} (h : s.Keeps r) : s.Keeps (State.stayAwakeEnd r m) := by
  unfold State.stayAwakeEnd
  repeat' first
    | with_reducible assumption
    | with_reducible apply State.putB_keeps
    | with_reducible apply State.setNet_keeps
    | with_reducible apply State.ledgerClear_keeps
    | with_reducible apply State.nslCheck_keeps
    | with_reducible apply ite_keeps

theorem execStayAwakeExpire_keeps {s r : State} {net : Fin 16} (h : s.Keeps r) : KeepsOut s (execStayAwakeExpire net r) := by
  unfold execStayAwakeExpire
  repeat' first
    | with_reducible assumption
    | intro _
    | with_reducible apply State.netEvent_keeps
    | with_reducible apply State.stayAwakeEnd_keeps
    | with_reducible apply KeepsOut.next

theorem State.setLocal_keeps {s r : State} {v : Bool} (h : s.Keeps r) : s.Keeps (State.setLocal r v) := by
  unfold State.setLocal
  repeat' first
    | with_reducible assumption
    | intro _
    | with_reducible apply State.putB_keeps
    | with_reducible apply State.raiseBit_keeps
    | with_reducible apply State.each_keeps
    | with_reducible apply State.ledgerClear_keeps
    | with_reducible apply State.sleepAbandon_keeps
    | with_reducible apply State.nslCheck_keeps
    | with_reducible apply ite_keeps
    | fail_if_no_progress with_reducible apply State.Keeps.mk'

theorem State.nslOwned_keeps {s r : State} {m : Master} {f : State → State} (h : s.Keeps r) (hf : ∀ t, s.Keeps t → s.Keeps (f t)) : s.Keeps (State.nslOwned r m f) := by
  unfold State.nslOwned
  repeat' first
    | with_reducible assumption
    | intro _
    | with_reducible apply hf
    | with_reducible apply ite_keeps

theorem State.nslLocalBy_keeps {s r : State} {m : Master} {v : Bool} (h : s.Keeps r) : s.Keeps (State.nslLocalBy r m v) := by
  unfold State.nslLocalBy
  repeat' first
    | with_reducible assumption
    | intro _
    | with_reducible apply State.access_keeps
    | with_reducible apply State.setLocal_keeps
    | with_reducible apply State.nslOwned_keeps

theorem execNslLocalWrite_keeps {s r : State} {m : Master} {v : Bool} (h : s.Keeps r) : KeepsOut s (execNslLocalWrite m v r) := by
  unfold execNslLocalWrite
  repeat' first
    | with_reducible assumption
    | with_reducible apply State.nslLocalBy_keeps
    | with_reducible apply KeepsOut.next

theorem State.waybillOne_keeps {s r : State} {m : Nat} (h : s.Keeps r) : s.Keeps (State.waybillOne r m) := by
  unfold State.waybillOne
  repeat' first
    | with_reducible assumption
    | with_reducible apply State.nvWrite_keeps
    | with_reducible apply State.waybill_keeps
    | fail_if_no_progress with_reducible apply State.Keeps.mk'

theorem State.waybill_keeps {s r : State} {nvFail : Bool} (h : s.Keeps r) : s.Keeps (State.waybill r nvFail) := by
  unfold State.waybill
  repeat' first
    | with_reducible assumption
    | intro _
    | with_reducible apply State.raiseBit_keeps
    | with_reducible apply State.each_keeps
    | with_reducible apply State.raiseL_keeps
    | with_reducible apply State.waybillOne_keeps
    | with_reducible apply ite_keeps

theorem execWaybillWrite_keeps {s r : State} {nvFail : Bool} (h : s.Keeps r) : KeepsOut s (execWaybillWrite nvFail r) := by
  unfold execWaybillWrite
  repeat' first
    | with_reducible assumption
    | intro _
    | with_reducible apply State.netEvent_keeps
    | with_reducible apply State.waybill_keeps
    | with_reducible apply KeepsOut.next

end Sys2Proof.Machine
end

