-- ==== Sys2Proof/Laws/Keeps18.lean ====
section
/-!
SUPPORT. What the operations and meanings of Machine/ImgOps, Sec keep, one lemma each (State.Keeps).
-/

namespace Sys2Proof.Machine

theorem State.writeTables_keeps {s r : State} {rd : Nat → Byte} {half : Nat} {e : Nat} (h : s.Keeps r) : s.Keeps (State.writeTables r rd half e) := by
  unfold State.writeTables
  repeat' first
    | with_reducible assumption
    | intro _
    | with_reducible apply State.each_keeps
    | with_reducible apply State.setWord_keeps
    | with_reducible apply State.zeroRange_keeps
    | with_reducible apply ite_keeps
    | split

theorem execCmdSegmentRx_keeps {s r : State} {port : Fin 32} {via : Carrier} {vbat : BitVec 16} (h : s.Keeps r) : KeepsOut s (execCmdSegmentRx port via vbat r) := by
  unfold execCmdSegmentRx
  repeat' first
    | with_reducible assumption
    | with_reducible apply State.segRx_keeps
    | with_reducible apply ite_keeps
    | with_reducible apply ite_keepsOut
    | with_reducible apply KeepsOut.next

theorem execSegmentTimeout_keeps {s r : State} {port : Fin 32} (h : s.Keeps r) : KeepsOut s (execSegmentTimeout port r) := by
  unfold execSegmentTimeout
  repeat' first
    | with_reducible assumption
    | with_reducible apply State.incSat_keeps
    | with_reducible apply State.dropPart_keeps
    | with_reducible apply ite_keeps
    | with_reducible apply ite_keepsOut
    | with_reducible apply KeepsOut.next

theorem State.respondFree_keeps {s r : State} {src : CmdFrom} {l : List Byte} (h : s.Keeps r) : s.Keeps (State.respondFree r src l) := by
  unfold State.respondFree
  repeat' first
    | with_reducible assumption
    | with_reducible apply State.respond_keeps
    | with_reducible apply State.draw_keeps

theorem State.conflict_keeps {s r : State} {src : CmdFrom} {l : List Byte} {reason : Nat} (h : s.Keeps r) : s.Keeps (State.conflict r src l reason) := by
  unfold State.conflict
  repeat' first
    | with_reducible assumption
    | with_reducible apply State.respond_keeps

theorem State.respondOk_keeps {s r : State} {src : CmdFrom} {l : List Byte} (h : s.Keeps r) : s.Keeps (State.respondOk r src l) := by
  unfold State.respondOk
  repeat' first
    | with_reducible assumption
    | with_reducible apply State.respond_keeps

theorem execStatusRead_keeps {s r : State} {src : CmdSrc} (h : s.Keeps r) : KeepsOut s (execStatusRead src r) := by
  unfold execStatusRead
  repeat' first
    | with_reducible assumption
    | intro _
    | with_reducible apply State.respond_keeps
    | with_reducible apply State.monitor_keeps
    | with_reducible apply KeepsOut.next

theorem execStatusCert_keeps {s r : State} {src : CmdSrc} (h : s.Keeps r) : KeepsOut s (execStatusCert src r) := by
  unfold execStatusCert
  repeat' first
    | with_reducible assumption
    | intro _
    | with_reducible apply State.respond_keeps
    | with_reducible apply State.monitor_keeps
    | with_reducible apply KeepsOut.next

theorem State.drawBytes_keeps {s r : State} {n : Nat} (h : s.Keeps r) : KeepsFst s (r.drawBytes n) := by
  induction n generalizing r with
  | zero => exact h
  | succ n ih => exact ih (State.draw_keeps h)

theorem State.deviceSign_keeps {s r : State} {m : List Byte} (h : s.Keeps r) : KeepsFst s (State.deviceSign r m) := by
  unfold State.deviceSign
  repeat' first
    | with_reducible assumption
    | with_reducible apply State.drawBytes_keeps
    | with_reducible apply KeepsFst.fst
    | split
    | dsimp only
    | with_reducible apply KeepsFst.mk

theorem State.deviceSign_keeps' {s r t : State} {m : List Byte} {y : List Byte} (e : State.deviceSign r m = (t, y)) (h : s.Keeps r) :
    s.Keeps t :=
  (State.deviceSign_keeps h).elim e

theorem State.quote_keeps {s r : State} {f : CmdFrom} {l : List Byte} (h : s.Keeps r) : s.Keeps (State.quote r f l) := by
  unfold State.quote
  repeat' first
    | with_reducible assumption
    | with_reducible apply State.respond_keeps
    | with_reducible apply State.deviceSign_keeps
    | with_reducible refine State.deviceSign_keeps' (by with_reducible assumption) ?_
    | with_reducible apply KeepsFst.fst

theorem execQuote_keeps {s r : State} {src : CmdSrc} (h : s.Keeps r) : KeepsOut s (execQuote src r) := by
  unfold execQuote
  repeat' first
    | with_reducible assumption
    | intro _
    | with_reducible apply State.monitor_keeps
    | with_reducible apply State.quote_keeps
    | with_reducible apply KeepsOut.next

theorem State.setSession_keeps {s r : State} {x : Option Session} (h : s.Keeps r) : s.Keeps (State.setSession r x) := by
  unfold State.setSession
  repeat' first
    | with_reducible assumption
    | fail_if_no_progress with_reducible apply State.Keeps.mk'

theorem State.eraseSector_keeps {s r : State} {slot : Nat} {sector : Nat} (h : s.Keeps r) : s.Keeps (State.eraseSector r slot sector) := by
  unfold State.eraseSector
  repeat' first
    | with_reducible assumption
    | intro _
    | with_reducible apply KeepsFst.fst
    | fail_if_no_progress with_reducible apply State.Keeps.mk'
    | with_reducible apply State.Keeps.mkFlash

theorem State.updateBegin_keeps {s r : State} {f : CmdFrom} {port : Nat} {l : List Byte} (h : s.Keeps r) : s.Keeps (State.updateBegin r f port l) := by
  unfold State.updateBegin
  repeat' first
    | with_reducible assumption
    | with_reducible apply State.respond_keeps
    | with_reducible apply State.conflict_keeps
    | with_reducible apply State.setSession_keeps
    | with_reducible apply State.eraseSector_keeps
    | with_reducible apply ite_keeps

theorem execUpdateBegin_keeps {s r : State} {src : CmdSrc} (h : s.Keeps r) : KeepsOut s (execUpdateBegin src r) := by
  unfold execUpdateBegin
  repeat' first
    | with_reducible assumption
    | intro _
    | with_reducible apply State.monitor_keeps
    | with_reducible apply State.updateBegin_keeps
    | with_reducible apply KeepsOut.next

theorem State.blockStore_keeps {s r : State} {x : Session} {off : Nat} {data : List Byte} (h : s.Keeps r) : s.Keeps (State.blockStore r x off data) := by
  unfold State.blockStore
  repeat' first
    | with_reducible assumption
    | with_reducible apply State.setSession_keeps
    | with_reducible apply State.eraseSector_keeps
    | with_reducible apply State.setBytes_keeps
    | with_reducible apply State.setFlash_keeps
    | with_reducible apply ite_keeps

theorem State.stageFail_keeps {s r : State} {f : CmdFrom} {l : List Byte} (h : s.Keeps r) : s.Keeps (State.stageFail r f l) := by
  unfold State.stageFail
  repeat' first
    | with_reducible assumption
    | with_reducible apply State.raiseBit_keeps
    | with_reducible apply State.raiseL_keeps
    | with_reducible apply State.respond_keeps
    | with_reducible apply State.setSession_keeps

theorem State.blockSpoil_keeps {s r : State} {x : Session} {off : Nat} {n : Nat} (h : s.Keeps r) : s.Keeps (State.blockSpoil r x off n) := by
  unfold State.blockSpoil
  repeat' first
    | with_reducible assumption
    | with_reducible apply State.drawBytes_keeps
    | with_reducible apply State.eraseSector_keeps
    | with_reducible apply State.setFlash_keeps
    | with_reducible apply ite_keeps
    | with_reducible apply ite_keepsFst
    | with_reducible apply KeepsFst.fst

theorem State.updateBlock_keeps {s r : State} {fail : Bool} {f : CmdFrom} {port : Nat} {l : List Byte} (h : s.Keeps r) : s.Keeps (State.updateBlock r fail f port l) := by
  unfold State.updateBlock
  repeat' first
    | with_reducible assumption
    | with_reducible apply State.conflict_keeps
    | with_reducible apply State.respondOk_keeps
    | with_reducible apply State.blockStore_keeps
    | with_reducible apply State.stageFail_keeps
    | with_reducible apply State.blockSpoil_keeps
    | with_reducible apply ite_keeps
    | split

theorem execUpdateBlock_keeps {s r : State} {src : CmdSrc} {fail : Bool} (h : s.Keeps r) : KeepsOut s (execUpdateBlock src fail r) := by
  unfold execUpdateBlock
  repeat' first
    | with_reducible assumption
    | intro _
    | with_reducible apply State.monitor_keeps
    | with_reducible apply State.updateBlock_keeps
    | with_reducible apply KeepsOut.next

theorem State.stagedRead_keeps {s r : State} {x : Session} (h : s.Keeps r) : KeepsFst s (State.stagedRead r x) := by
  unfold State.stagedRead
  repeat' first
    | with_reducible assumption
    | with_reducible apply State.sramRead_keeps
    | with_reducible refine State.sramRead_keeps' (by with_reducible assumption) ?_
    | with_reducible apply ite_keeps
    | with_reducible apply ite_keepsFst
    | with_reducible apply KeepsFst.mk

theorem State.stagedRead_keeps' {s r t : State} {x : Session} {y : Bool} (e : State.stagedRead r x = (t, y)) (h : s.Keeps r) :
    s.Keeps t :=
  (State.stagedRead_keeps h).elim e

theorem State.verifyEnd_keeps {s r : State} {errors : List (Nat × Byte)} {x : Session} {f : CmdFrom} {l : List Byte} (h : s.Keeps r) : s.Keeps (State.verifyEnd r errors x f l) := by
  unfold State.verifyEnd
  repeat' first
    | with_reducible assumption
    | intro _
    | with_reducible apply State.conflict_keeps
    | with_reducible apply State.respondOk_keeps
    | with_reducible apply State.setSession_keeps
    | with_reducible apply State.stageFail_keeps
    | with_reducible apply State.stagedRead_keeps
    | with_reducible refine State.stagedRead_keeps' (by with_reducible assumption) ?_
    | with_reducible apply State.setFlash_keeps
    | with_reducible apply ite_keeps
    | with_reducible apply ite_keepsFst
    | with_reducible apply KeepsFst.fst

theorem State.updateVerify_keeps {s r : State} {errors : List (Nat × Byte)} {f : CmdFrom} {port : Nat} {l : List Byte} (h : s.Keeps r) : s.Keeps (State.updateVerify r errors f port l) := by
  unfold State.updateVerify
  repeat' first
    | with_reducible assumption
    | with_reducible apply State.respond_keeps
    | with_reducible apply State.conflict_keeps
    | with_reducible apply State.verifyEnd_keeps
    | with_reducible apply ite_keeps
    | split

theorem execUpdateVerify_keeps {s r : State} {src : CmdSrc} {errors : List (Nat × Byte)} (h : s.Keeps r) : KeepsOut s (execUpdateVerify src errors r) := by
  unfold execUpdateVerify
  repeat' first
    | with_reducible assumption
    | intro _
    | with_reducible apply State.monitor_keeps
    | with_reducible apply State.updateVerify_keeps
    | with_reducible apply KeepsOut.next

theorem State.hoStart_keeps {s r : State} {f : CmdFrom} {l : List Byte} (h : s.Keeps r) : s.Keeps (State.hoStart r f l) := by
  unfold State.hoStart
  repeat' first
    | with_reducible assumption
    | intro _
    | with_reducible apply State.put_keeps
    | with_reducible apply State.each_keeps
    | with_reducible apply State.setHoFlag_keeps
    | with_reducible apply foldl_keeps
    | with_reducible apply foldl_keepsFst
    | with_reducible apply ite_keeps
    | fail_if_no_progress with_reducible apply State.Keeps.mk'

theorem State.activate_keeps {s r : State} {f : CmdFrom} {port : Nat} {l : List Byte} {run : State → Session → State} (h : s.Keeps r) (hrun : ∀ t x, s.Keeps t → s.Keeps (run t x)) : s.Keeps (State.activate r f port l run) := by
  unfold State.activate
  repeat' first
    | with_reducible assumption
    | intro _
    | with_reducible apply State.conflict_keeps
    | with_reducible apply hrun
    | with_reducible apply ite_keeps
    | split

theorem State.activateHandover_keeps {s r : State} {f : CmdFrom} {port : Nat} {l : List Byte} (h : s.Keeps r) : s.Keeps (State.activateHandover r f port l) := by
  unfold State.activateHandover
  repeat' first
    | with_reducible assumption
    | intro _
    | with_reducible apply State.when_keeps
    | with_reducible apply State.respond_keeps
    | with_reducible apply State.hoAbandon_keeps
    | with_reducible apply State.conflict_keeps
    | with_reducible apply State.stagedRead_keeps
    | with_reducible refine State.stagedRead_keeps' (by with_reducible assumption) ?_
    | with_reducible apply State.hoStart_keeps
    | with_reducible apply State.activate_keeps
    | with_reducible apply ite_keeps
    | with_reducible apply ite_keepsFst
    | with_reducible apply KeepsFst.fst
    | split

theorem execActivateHandover_keeps {s r : State} {src : CmdSrc} (h : s.Keeps r) : KeepsOut s (execActivateHandover src r) := by
  unfold execActivateHandover
  repeat' first
    | with_reducible assumption
    | intro _
    | with_reducible apply State.monitor_keeps
    | with_reducible apply State.activateHandover_keeps
    | with_reducible apply ite_keeps
    | with_reducible apply ite_keepsOut
    | with_reducible apply KeepsOut.next

theorem State.setActSlot_keeps {s r : State} {slot : Nat} (h : s.Keeps r) : s.Keeps (State.setActSlot r slot) := by
  unfold State.setActSlot
  repeat' first
    | with_reducible assumption
    | with_reducible apply State.nvWrite_keeps

theorem State.activateRestart_keeps {s r : State} {f : CmdFrom} {port : Nat} {l : List Byte} (h : s.Keeps r) : s.Keeps (State.activateRestart r f port l) := by
  unfold State.activateRestart
  repeat' first
    | with_reducible assumption
    | intro _
    | with_reducible apply State.conflict_keeps
    | with_reducible apply State.respondOk_keeps
    | with_reducible apply State.activate_keeps
    | with_reducible apply State.setActSlot_keeps
    | with_reducible apply ite_keeps
    | fail_if_no_progress with_reducible apply State.Keeps.mk'

theorem execActivateRestart_keeps {s r : State} {src : CmdSrc} (h : s.Keeps r) : KeepsOut s (execActivateRestart src r) := by
  unfold execActivateRestart
  repeat' first
    | with_reducible assumption
    | intro _
    | with_reducible apply State.monitor_keeps
    | with_reducible apply State.activateRestart_keeps
    | with_reducible apply ite_keeps
    | with_reducible apply ite_keepsOut
    | with_reducible apply KeepsOut.next

theorem execRestartReset_keeps {s r : State} (h : s.Keeps r) : KeepsOut s (execRestartReset r) := by
  unfold execRestartReset
  repeat' first
    | with_reducible assumption
    | with_reducible apply State.ldieRestart_keeps
    | with_reducible apply ite_keeps
    | with_reducible apply ite_keepsOut
    | with_reducible apply KeepsOut.next
    | fail_if_no_progress with_reducible apply State.Keeps.mk'

theorem State.updateAbort_keeps {s r : State} {f : CmdFrom} {port : Nat} {l : List Byte} (h : s.Keeps r) : s.Keeps (State.updateAbort r f port l) := by
  unfold State.updateAbort
  repeat' first
    | with_reducible assumption
    | with_reducible apply State.conflict_keeps
    | with_reducible apply State.respondOk_keeps
    | with_reducible apply State.setSession_keeps
    | with_reducible apply ite_keeps

theorem execUpdateAbort_keeps {s r : State} {src : CmdSrc} (h : s.Keeps r) : KeepsOut s (execUpdateAbort src r) := by
  unfold execUpdateAbort
  repeat' first
    | with_reducible assumption
    | intro _
    | with_reducible apply State.monitor_keeps
    | with_reducible apply State.updateAbort_keeps
    | with_reducible apply KeepsOut.next

theorem execUpdateSessionTimeout_keeps {s r : State} (h : s.Keeps r) : KeepsOut s (execUpdateSessionTimeout r) := by
  unfold execUpdateSessionTimeout
  repeat' first
    | with_reducible assumption
    | with_reducible apply State.setSession_keeps
    | with_reducible apply ite_keeps
    | with_reducible apply ite_keepsOut
    | with_reducible apply KeepsOut.next

theorem State.enroll_keeps {s r : State} {f : CmdFrom} {l : List Byte} (h : s.Keeps r) : s.Keeps (State.enroll r f l) := by
  unfold State.enroll
  repeat' first
    | with_reducible assumption
    | intro _
    | with_reducible apply State.setKeys_keeps
    | with_reducible apply State.conflict_keeps
    | with_reducible apply State.respondOk_keeps
    | with_reducible apply ite_keeps
    | with_reducible apply ite_keepsFst
    | with_reducible apply KeepsFst.fst
    | split

theorem execEnroll_keeps {s r : State} {src : CmdSrc} {slot : Byte} {keyId : BitVec 32} (h : s.Keeps r) : KeepsOut s (execEnroll src slot keyId r) := by
  unfold execEnroll
  repeat' first
    | with_reducible assumption
    | intro _
    | with_reducible apply State.monitor_keeps
    | with_reducible apply State.enroll_keeps
    | with_reducible apply ite_keeps
    | with_reducible apply ite_keepsOut
    | with_reducible apply KeepsOut.next

theorem State.accessBlock_keeps {s r : State} {j : Nat} {f : CmdFrom} {l : List Byte} (h : s.Keeps r) : s.Keeps (State.accessBlock r j f l) := by
  unfold State.accessBlock
  repeat' first
    | with_reducible assumption
    | with_reducible apply State.setKeys_keeps
    | with_reducible apply State.respondFree_keeps
    | with_reducible apply State.respondOk_keeps
    | with_reducible apply ite_keeps

theorem execAccessBlock_keeps {s r : State} {src : CmdSrc} {j : Fin 8} (h : s.Keeps r) : KeepsOut s (execAccessBlock src j r) := by
  unfold execAccessBlock
  repeat' first
    | with_reducible assumption
    | intro _
    | with_reducible apply State.monitor_keeps
    | with_reducible apply State.accessBlock_keeps
    | with_reducible apply KeepsOut.next

theorem execRemove_keeps {s r : State} {src : CmdSrc} {j : Fin 8} (h : s.Keeps r) : KeepsOut s (execRemove src j r) := by
  unfold execRemove
  repeat' first
    | with_reducible assumption
    | intro _
    | with_reducible apply State.setKeys_keeps
    | with_reducible apply State.monitor_keeps
    | with_reducible apply State.respondOk_keeps
    | with_reducible apply KeepsOut.next

theorem State.lockClear_keeps {s r : State} (h : s.Keeps r) : s.Keeps (State.lockClear r) := by
  unfold State.lockClear
  repeat' first
    | with_reducible assumption
    | with_reducible apply State.lockSave_keeps
    | fail_if_no_progress with_reducible apply State.Keeps.mk'

theorem execClearLockout_keeps {s r : State} {src : CmdSrc} (h : s.Keeps r) : KeepsOut s (execClearLockout src r) := by
  unfold execClearLockout
  repeat' first
    | with_reducible assumption
    | intro _
    | with_reducible apply State.monitor_keeps
    | with_reducible apply State.respondOk_keeps
    | with_reducible apply State.lockClear_keeps
    | with_reducible apply KeepsOut.next

theorem execOwnerSet_keeps {s r : State} {src : CmdSrc} (h : s.Keeps r) : KeepsOut s (execOwnerSet src r) := by
  unfold execOwnerSet
  repeat' first
    | with_reducible assumption
    | intro _
    | with_reducible apply State.setKeys_keeps
    | with_reducible apply State.monitor_keeps
    | with_reducible apply State.respondOk_keeps
    | with_reducible apply KeepsOut.next

theorem execOwnerClear_keeps {s r : State} {src : CmdSrc} (h : s.Keeps r) : KeepsOut s (execOwnerClear src r) := by
  unfold execOwnerClear
  repeat' first
    | with_reducible assumption
    | intro _
    | with_reducible apply State.setKeys_keeps
    | with_reducible apply State.monitor_keeps
    | with_reducible apply State.respondOk_keeps
    | with_reducible apply KeepsOut.next

theorem State.install_keeps {s r : State} {j : Nat} {pub : List Byte} {f : CmdFrom} {l : List Byte} (h : s.Keeps r) : s.Keeps (State.install r j pub f l) := by
  unfold State.install
  repeat' first
    | with_reducible assumption
    | with_reducible apply State.setKeys_keeps
    | with_reducible apply State.respondFree_keeps
    | with_reducible apply State.respondOk_keeps
    | with_reducible apply ite_keeps

theorem execInstall_keeps {s r : State} {src : CmdSrc} {j : Fin 4} {pub : List Byte} (h : s.Keeps r) : KeepsOut s (execInstall src j pub r) := by
  unfold execInstall
  repeat' first
    | with_reducible assumption
    | intro _
    | with_reducible apply State.monitor_keeps
    | with_reducible apply State.install_keeps
    | with_reducible apply KeepsOut.next

theorem State.revoke_keeps {s r : State} {j : Nat} {f : CmdFrom} {l : List Byte} (h : s.Keeps r) : s.Keeps (State.revoke r j f l) := by
  unfold State.revoke
  repeat' first
    | with_reducible assumption
    | with_reducible apply State.setKeys_keeps
    | with_reducible apply State.conflict_keeps
    | with_reducible apply State.respondOk_keeps
    | with_reducible apply ite_keeps

theorem execRevoke_keeps {s r : State} {src : CmdSrc} {j : Fin 4} (h : s.Keeps r) : KeepsOut s (execRevoke src j r) := by
  unfold execRevoke
  repeat' first
    | with_reducible assumption
    | intro _
    | with_reducible apply State.monitor_keeps
    | with_reducible apply State.revoke_keeps
    | with_reducible apply KeepsOut.next

theorem State.raiseRollback_keeps {s r : State} {v : Nat} {f : CmdFrom} {l : List Byte} (h : s.Keeps r) : s.Keeps (State.raiseRollback r v f l) := by
  unfold State.raiseRollback
  repeat' first
    | with_reducible assumption
    | with_reducible apply State.setKeys_keeps
    | with_reducible apply State.conflict_keeps
    | with_reducible apply State.respondOk_keeps
    | with_reducible apply ite_keeps

theorem execRaiseRollback_keeps {s r : State} {src : CmdSrc} {v : BitVec 32} (h : s.Keeps r) : KeepsOut s (execRaiseRollback src v r) := by
  unfold execRaiseRollback
  repeat' first
    | with_reducible assumption
    | intro _
    | with_reducible apply State.monitor_keeps
    | with_reducible apply State.raiseRollback_keeps
    | with_reducible apply KeepsOut.next

theorem State.faultRead_keeps {s r : State} {f : CmdFrom} {l : List Byte} (h : s.Keeps r) : s.Keeps (State.faultRead r f l) := by
  unfold State.faultRead
  repeat' first
    | with_reducible assumption
    | intro _
    | with_reducible apply State.respond_keeps

theorem execFaultRead_keeps {s r : State} {src : CmdSrc} (h : s.Keeps r) : KeepsOut s (execFaultRead src r) := by
  unfold execFaultRead
  repeat' first
    | with_reducible assumption
    | intro _
    | with_reducible apply State.monitor_keeps
    | with_reducible apply State.faultRead_keeps
    | with_reducible apply KeepsOut.next

theorem State.faultErase_keeps {s r : State} {f : CmdFrom} {l : List Byte} (h : s.Keeps r) : s.Keeps (State.faultErase r f l) := by
  unfold State.faultErase
  repeat' first
    | with_reducible assumption
    | with_reducible apply State.put_keeps
    | with_reducible apply State.zeroRange_keeps
    | with_reducible apply State.respondOk_keeps

theorem execFaultErase_keeps {s r : State} {src : CmdSrc} (h : s.Keeps r) : KeepsOut s (execFaultErase src r) := by
  unfold execFaultErase
  repeat' first
    | with_reducible assumption
    | intro _
    | with_reducible apply State.monitor_keeps
    | with_reducible apply State.faultErase_keeps
    | with_reducible apply KeepsOut.next

theorem State.faultSeverity_keeps {s r : State} {f : CmdFrom} {l : List Byte} (h : s.Keeps r) : s.Keeps (State.faultSeverity r f l) := by
  unfold State.faultSeverity
  repeat' first
    | with_reducible assumption
    | intro _
    | with_reducible apply State.put_keeps
    | with_reducible apply State.respondOk_keeps
    | with_reducible apply ite_keeps
    | fail_if_no_progress with_reducible apply State.Keeps.mk'

theorem execSeverity_keeps {s r : State} {src : CmdSrc} (h : s.Keeps r) : KeepsOut s (execSeverity src r) := by
  unfold execSeverity
  repeat' first
    | with_reducible assumption
    | intro _
    | with_reducible apply State.monitor_keeps
    | with_reducible apply State.faultSeverity_keeps
    | with_reducible apply KeepsOut.next

theorem State.faultInject_keeps {s r : State} {f : CmdFrom} {l : List Byte} (h : s.Keeps r) : s.Keeps (State.faultInject r f l) := by
  unfold State.faultInject
  repeat' first
    | with_reducible assumption
    | with_reducible apply State.forceOne_keeps
    | with_reducible apply State.pfrcSet_keeps
    | with_reducible apply State.respondOk_keeps
    | split

theorem execInject_keeps {s r : State} {src : CmdSrc} (h : s.Keeps r) : KeepsOut s (execInject src r) := by
  unfold execInject
  repeat' first
    | with_reducible assumption
    | intro _
    | with_reducible apply State.monitor_keeps
    | with_reducible apply State.faultInject_keeps
    | with_reducible apply KeepsOut.next

theorem State.keygen_keeps {s r : State} {f : CmdFrom} {l : List Byte} (h : s.Keeps r) : s.Keeps (State.keygen r f l) := by
  unfold State.keygen
  repeat' first
    | with_reducible assumption
    | with_reducible apply State.setKeys_keeps
    | with_reducible apply State.respondFree_keeps
    | with_reducible apply State.respondOk_keeps
    | with_reducible apply State.drawBytes_keeps
    | with_reducible apply KeepsFst.fst
    | split

theorem execKeygen_keeps {s r : State} {src : CmdSrc} (h : s.Keeps r) : KeepsOut s (execKeygen src r) := by
  unfold execKeygen
  repeat' first
    | with_reducible assumption
    | intro _
    | with_reducible apply State.monitor_keeps
    | with_reducible apply State.keygen_keeps
    | with_reducible apply KeepsOut.next

theorem State.setCert_keeps {s r : State} {cert : List Byte} (h : s.Keeps r) : s.Keeps (State.setCert r cert) := by
  unfold State.setCert
  repeat' first
    | with_reducible assumption
    | intro _
    | with_reducible apply State.setReg_keeps
    | with_reducible apply State.put_keeps
    | with_reducible apply State.each_keeps
    | fail_if_no_progress with_reducible apply State.Keeps.mk'

theorem execFactoryCert_keeps {s r : State} {src : CmdSrc} {cert : List Byte} (h : s.Keeps r) : KeepsOut s (execFactoryCert src cert r) := by
  unfold execFactoryCert
  repeat' first
    | with_reducible assumption
    | intro _
    | with_reducible apply State.monitor_keeps
    | with_reducible apply State.respondOk_keeps
    | with_reducible apply State.setCert_keeps
    | with_reducible apply KeepsOut.next

theorem execEndOfLine_keeps {s r : State} {src : CmdSrc} (h : s.Keeps r) : KeepsOut s (execEndOfLine src r) := by
  unfold execEndOfLine
  repeat' first
    | with_reducible assumption
    | intro _
    | with_reducible apply State.setKeys_keeps
    | with_reducible apply State.monitor_keeps
    | with_reducible apply State.respondOk_keeps
    | with_reducible apply KeepsOut.next

theorem State.imageShow_keeps {s r : State} {rd : Nat → Byte} (h : s.Keeps r) : s.Keeps (State.imageShow r rd) := by
  unfold State.imageShow
  repeat' first
    | with_reducible assumption
    | intro _
    | with_reducible apply State.setReg_keeps
    | with_reducible apply State.put_keeps
    | with_reducible apply State.each_keeps

theorem State.hoComplete__keeps {s r : State} (h : s.Keeps r) : s.Keeps (State.hoComplete_ r) := by
  unfold State.hoComplete_
  repeat' first
    | with_reducible assumption
    | with_reducible apply State.put_keeps
    | with_reducible apply State.hoEnd_keeps
    | with_reducible apply State.setSession_keeps
    | with_reducible apply State.setActSlot_keeps
    | with_reducible apply State.imageShow_keeps

theorem State.hoCommand_keeps {s r : State} {e : Nat} {ready : Bool} {done : Bool} {abandon : Bool} (h : s.Keeps r) : s.Keeps (State.hoCommand r e ready done abandon) := by
  unfold State.hoCommand
  repeat' first
    | with_reducible assumption
    | with_reducible apply State.put_keeps
    | with_reducible apply State.hoAbandon_keeps
    | with_reducible apply State.hoComplete__keeps
    | with_reducible apply ite_keeps

theorem State.hoCommandBy_keeps {s r : State} {m : Master} {ready : Bool} {done : Bool} {abandon : Bool} (h : s.Keeps r) : s.Keeps (State.hoCommandBy r m ready done abandon) := by
  unfold State.hoCommandBy
  repeat' first
    | with_reducible assumption
    | intro _
    | with_reducible apply State.access_keeps
    | with_reducible apply State.hoCommand_keeps

theorem execHoReady_keeps {s r : State} {m : Master} (h : s.Keeps r) : KeepsOut s (execHoReady m r) := by
  unfold execHoReady
  repeat' first
    | with_reducible assumption
    | with_reducible apply State.hoCommandBy_keeps
    | with_reducible apply KeepsOut.next

theorem execHoDone_keeps {s r : State} {m : Master} (h : s.Keeps r) : KeepsOut s (execHoDone m r) := by
  unfold execHoDone
  repeat' first
    | with_reducible assumption
    | with_reducible apply State.hoCommandBy_keeps
    | with_reducible apply KeepsOut.next

theorem execHoAbandon_keeps {s r : State} {m : Master} (h : s.Keeps r) : KeepsOut s (execHoAbandon m r) := by
  unfold execHoAbandon
  repeat' first
    | with_reducible assumption
    | with_reducible apply State.hoCommandBy_keeps
    | with_reducible apply KeepsOut.next

theorem execHandoverSwitch_keeps {s r : State} (h : s.Keeps r) : KeepsOut s (execHandoverSwitch r) := by
  unfold execHandoverSwitch
  repeat' first
    | with_reducible assumption
    | with_reducible apply State.put_keeps
    | with_reducible apply ite_keeps
    | with_reducible apply ite_keepsOut
    | with_reducible apply KeepsOut.next

theorem State.hoTables_keeps {s r : State} (h : s.Keeps r) : s.Keeps (State.hoTables r) := by
  unfold State.hoTables
  repeat' first
    | with_reducible assumption
    | intro _
    | with_reducible apply State.put_keeps
    | with_reducible apply State.each_keeps
    | with_reducible apply State.sramRead_keeps
    | with_reducible refine State.sramRead_keeps' (by with_reducible assumption) ?_
    | with_reducible apply State.hoAbandon_keeps
    | with_reducible apply State.writeTables_keeps
    | with_reducible apply State.hoComplete__keeps
    | with_reducible apply ite_keeps
    | with_reducible apply ite_keepsFst
    | with_reducible apply KeepsFst.fst

theorem execHandoverTablesDone_keeps {s r : State} (h : s.Keeps r) : KeepsOut s (execHandoverTablesDone r) := by
  unfold execHandoverTablesDone
  repeat' first
    | with_reducible assumption
    | with_reducible apply State.hoTables_keeps
    | with_reducible apply KeepsOut.next

theorem execHoquietExpire_keeps {s r : State} (h : s.Keeps r) : KeepsOut s (execHoquietExpire r) := by
  unfold execHoquietExpire
  repeat' first
    | with_reducible assumption
    | with_reducible apply State.hoAbandon_keeps
    | with_reducible apply ite_keeps
    | with_reducible apply ite_keepsOut
    | with_reducible apply KeepsOut.next

theorem execHotimeExpire_keeps {s r : State} (h : s.Keeps r) : KeepsOut s (execHotimeExpire r) := by
  unfold execHotimeExpire
  repeat' first
    | with_reducible assumption
    | with_reducible apply State.hoAbandon_keeps
    | with_reducible apply ite_keeps
    | with_reducible apply ite_keepsOut
    | with_reducible apply KeepsOut.next

theorem State.hoRestore_keeps {s r : State} (h : s.Keeps r) : s.Keeps (State.hoRestore r) := by
  unfold State.hoRestore
  repeat' first
    | with_reducible assumption
    | intro _
    | with_reducible apply State.each_keeps
    | with_reducible apply State.sramRead_keeps
    | with_reducible refine State.sramRead_keeps' (by with_reducible assumption) ?_
    | with_reducible apply State.hoEnd_keeps
    | with_reducible apply State.writeTables_keeps
    | with_reducible apply ite_keeps
    | with_reducible apply ite_keepsFst
    | with_reducible apply KeepsFst.fst

theorem execHandoverRestoreDone_keeps {s r : State} (h : s.Keeps r) : KeepsOut s (execHandoverRestoreDone r) := by
  unfold execHandoverRestoreDone
  repeat' first
    | with_reducible assumption
    | with_reducible apply State.hoRestore_keeps
    | with_reducible apply KeepsOut.next

end Sys2Proof.Machine
end

