-- ==== Sys2Proof/Laws/Keeps19.lean ====
section
/-!
SUPPORT. What the operations and meanings of Machine/Pmu, Sys keep, one lemma each (State.Keeps).
-/

namespace Sys2Proof.Machine

theorem State.pmuOwned_keeps {s r : State} {m : Master} {f : State → State} (h : s.Keeps r) (hf : ∀ t, s.Keeps t → s.Keeps (f t)) : s.Keeps (State.pmuOwned r m f) := by
  unfold State.pmuOwned
  repeat' first
    | with_reducible assumption
    | intro _
    | with_reducible apply State.raiseBit_keeps
    | with_reducible apply hf
    | with_reducible apply ite_keeps

theorem State.pmuRequestBy_keeps {s r : State} {m : Master} {tgt : Nat} (h : s.Keeps r) : s.Keeps (State.pmuRequestBy r m tgt) := by
  unfold State.pmuRequestBy
  repeat' first
    | with_reducible assumption
    | intro _
    | with_reducible apply State.access_keeps
    | with_reducible apply State.pmuRequest_keeps

theorem execPmuRequest_keeps {s r : State} {m : Master} {tgt : Fin 4} (h : s.Keeps r) : KeepsOut s (execPmuRequest m tgt r) := by
  unfold execPmuRequest
  repeat' first
    | with_reducible assumption
    | with_reducible apply State.pmuRequestBy_keeps
    | with_reducible apply KeepsOut.next

theorem execPrepareDone_keeps {s r : State} (h : s.Keeps r) : KeepsOut s (execPrepareDone r) := by
  unfold execPrepareDone
  repeat' first
    | with_reducible assumption
    | with_reducible apply State.pointNoReturn_keeps
    | with_reducible apply ite_keeps
    | with_reducible apply ite_keepsOut
    | with_reducible apply KeepsOut.next

theorem execPrepareTimeout_keeps {s r : State} (h : s.Keeps r) : KeepsOut s (execPrepareTimeout r) := by
  unfold execPrepareTimeout
  repeat' first
    | with_reducible assumption
    | with_reducible apply State.prepareEnd_keeps
    | with_reducible apply ite_keeps
    | with_reducible apply ite_keepsOut
    | with_reducible apply KeepsOut.next

theorem execSleepEntryDone_keeps {s r : State} (h : s.Keeps r) : KeepsOut s (execSleepEntryDone r) := by
  unfold execSleepEntryDone
  repeat' first
    | with_reducible assumption
    | with_reducible apply State.sleepDone_keeps
    | with_reducible apply ite_keeps
    | with_reducible apply ite_keepsOut
    | with_reducible apply KeepsOut.next

theorem execWakeSource_keeps {s r : State} {src : Fin 7} {detail : BitVec 9} (h : s.Keeps r) : KeepsOut s (execWakeSource src detail r) := by
  unfold execWakeSource
  repeat' first
    | with_reducible assumption
    | with_reducible apply State.pmuWake_keeps
    | with_reducible apply ite_keeps
    | with_reducible apply ite_keepsOut
    | with_reducible apply KeepsOut.next

theorem State.cellsOpen_keeps {s r : State} (h : s.Keeps r) : s.Keeps (State.cellsOpen r) := by
  unfold State.cellsOpen
  repeat' first
    | with_reducible assumption
    | with_reducible apply State.put_keeps
    | with_reducible apply State.putB_keeps
    | with_reducible apply State.raiseBit_keeps
    | with_reducible apply State.hswEvalAll_keeps
    | with_reducible apply State.gtResumeAll_keeps
    | with_reducible apply State.ntuWake_keeps
    | with_reducible apply State.setDegraded_keeps
    | with_reducible apply ite_keeps
    | fail_if_no_progress with_reducible apply State.Keeps.mk'

theorem State.wakeReady_keeps {s r : State} (h : s.Keeps r) : s.Keeps (State.wakeReady r) := by
  unfold State.wakeReady
  repeat' first
    | with_reducible assumption
    | with_reducible apply State.put_keeps
    | with_reducible apply State.raiseBit_keeps
    | with_reducible apply State.setPhase_keeps
    | with_reducible apply State.bootStart_keeps
    | with_reducible apply State.cellsOpen_keeps
    | with_reducible apply ite_keeps
    | fail_if_no_progress with_reducible apply State.Keeps.mk'

theorem execWakeDomainsReady_keeps {s r : State} (h : s.Keeps r) : KeepsOut s (execWakeDomainsReady r) := by
  unfold execWakeDomainsReady
  repeat' first
    | with_reducible assumption
    | with_reducible apply State.wakeReady_keeps
    | with_reducible apply KeepsOut.next

theorem State.xtalTimeout_keeps {s r : State} (h : s.Keeps r) : s.Keeps (State.xtalTimeout r) := by
  unfold State.xtalTimeout
  repeat' first
    | with_reducible assumption
    | with_reducible apply State.setDegraded_keeps
    | with_reducible apply ite_keeps
    | fail_if_no_progress with_reducible apply State.Keeps.mk'

theorem execXtalStartTimeout_keeps {s r : State} (h : s.Keeps r) : KeepsOut s (execXtalStartTimeout r) := by
  unfold execXtalStartTimeout
  repeat' first
    | with_reducible assumption
    | with_reducible apply State.xtalTimeout_keeps
    | with_reducible apply KeepsOut.next

theorem State.supplyFail_keeps {s r : State} (h : s.Keeps r) : s.Keeps (State.supplyFail r) := by
  unfold State.supplyFail
  repeat' first
    | with_reducible assumption
    | with_reducible apply State.wakeFail_keeps
    | with_reducible apply ite_keeps
    | fail_if_no_progress with_reducible apply State.Keeps.mk'

theorem execWakeSupplyFail_keeps {s r : State} (h : s.Keeps r) : KeepsOut s (execWakeSupplyFail r) := by
  unfold execWakeSupplyFail
  repeat' first
    | with_reducible assumption
    | with_reducible apply State.supplyFail_keeps
    | with_reducible apply KeepsOut.next

theorem State.attemptRetry_keeps {s r : State} (h : s.Keeps r) : s.Keeps (State.attemptRetry r) := by
  unfold State.attemptRetry
  repeat' first
    | with_reducible assumption
    | with_reducible apply State.incSat_keeps
    | with_reducible apply ite_keeps
    | fail_if_no_progress with_reducible apply State.Keeps.mk'

theorem execWakeAttemptRetry_keeps {s r : State} (h : s.Keeps r) : KeepsOut s (execWakeAttemptRetry r) := by
  unfold execWakeAttemptRetry
  repeat' first
    | with_reducible assumption
    | with_reducible apply State.attemptRetry_keeps
    | with_reducible apply KeepsOut.next

theorem execParkLimpTrigger_keeps {s r : State} (h : s.Keeps r) : KeepsOut s (execParkLimpTrigger r) := by
  unfold execParkLimpTrigger
  repeat' first
    | with_reducible assumption
    | with_reducible apply State.limpTrigger_keeps
    | with_reducible apply ite_keeps
    | with_reducible apply ite_keepsOut
    | with_reducible apply KeepsOut.next
    | fail_if_no_progress with_reducible apply State.Keeps.mk'

theorem State.nvIdle_keeps {s r : State} (h : s.Keeps r) : s.Keeps (State.nvIdle r) := by
  unfold State.nvIdle
  repeat' first
    | with_reducible assumption
    | intro _
    | with_reducible apply State.put_keeps
    | with_reducible apply State.fcuClamp_keeps
    | with_reducible apply ite_keeps

theorem execNvIdleOff_keeps {s r : State} (h : s.Keeps r) : KeepsOut s (execNvIdleOff r) := by
  unfold execNvIdleOff
  repeat' first
    | with_reducible assumption
    | with_reducible apply State.nvIdle_keeps
    | with_reducible apply KeepsOut.next

theorem State.netOff_keeps {s r : State} (h : s.Keeps r) : s.Keeps (State.netOff r) := by
  unfold State.netOff
  repeat' first
    | with_reducible assumption
    | intro _
    | with_reducible apply State.put_keeps
    | with_reducible apply State.each_keeps
    | with_reducible apply State.setCn_keeps
    | with_reducible apply State.fcuClamp_keeps
    | with_reducible apply ite_keeps
    | fail_if_no_progress with_reducible apply State.Keeps.mk'

theorem State.netoffWrite_keeps {s r : State} {b : Bool} (h : s.Keeps r) : s.Keeps (State.netoffWrite r b) := by
  unfold State.netoffWrite
  repeat' first
    | with_reducible assumption
    | with_reducible apply State.putB_keeps
    | with_reducible apply State.raiseBit_keeps
    | with_reducible apply State.netOff_keeps
    | with_reducible apply ite_keeps

theorem State.netoffBy_keeps {s r : State} {m : Master} {b : Bool} (h : s.Keeps r) : s.Keeps (State.netoffBy r m b) := by
  unfold State.netoffBy
  repeat' first
    | with_reducible assumption
    | intro _
    | with_reducible apply State.access_keeps
    | with_reducible apply State.pmuOwned_keeps
    | with_reducible apply State.netoffWrite_keeps

theorem execNetoffWrite_keeps {s r : State} {m : Master} (h : s.Keeps r) : KeepsOut s (execNetoffWrite m r) := by
  unfold execNetoffWrite
  repeat' first
    | with_reducible assumption
    | with_reducible apply State.netoffBy_keeps
    | with_reducible apply KeepsOut.next

theorem State.wtmrSet_keeps {s r : State} {v : BitVec 64} (h : s.Keeps r) : s.Keeps (State.wtmrSet r v) := by
  unfold State.wtmrSet
  repeat' first
    | with_reducible assumption
    | with_reducible apply State.put_keeps
    | with_reducible apply State.putB_keeps
    | with_reducible apply State.raiseBit_keeps
    | with_reducible apply ite_keeps

theorem State.wtmrWrite_keeps {s r : State} {m : Master} {a : Access} {v : BitVec 64} (h : s.Keeps r) : s.Keeps (State.wtmrWrite r m a v) := by
  unfold State.wtmrWrite
  repeat' first
    | with_reducible assumption
    | intro _
    | with_reducible apply State.access_keeps
    | with_reducible apply State.splitWrite_keeps
    | with_reducible refine State.splitWrite_keeps' (by with_reducible assumption) ?_
    | with_reducible apply State.pmuOwned_keeps
    | with_reducible apply State.wtmrSet_keeps
    | with_reducible apply KeepsFst.fst
    | split
    | dsimp only

theorem execWtmrWrite_keeps {s r : State} {m : Master} {a : Access} {v : BitVec 64} (h : s.Keeps r) : KeepsOut s (execWtmrWrite m a v r) := by
  unfold execWtmrWrite
  repeat' first
    | with_reducible assumption
    | with_reducible apply State.wtmrWrite_keeps
    | with_reducible apply KeepsOut.next

theorem execWakeTimerAlarm_keeps {s r : State} (h : s.Keeps r) : KeepsOut s (execWakeTimerAlarm r) := by
  unfold execWakeTimerAlarm
  repeat' first
    | with_reducible assumption
    | with_reducible apply State.putB_keeps
    | with_reducible apply State.pmuWake_keeps
    | with_reducible apply ite_keeps
    | with_reducible apply ite_keepsOut
    | with_reducible apply KeepsOut.next

theorem State.sysOwned_keeps {s r : State} {m : Master} {f : State → State} (h : s.Keeps r) (hf : ∀ t, s.Keeps t → s.Keeps (f t)) : s.Keeps (State.sysOwned r m f) := by
  unfold State.sysOwned
  repeat' first
    | with_reducible assumption
    | intro _
    | with_reducible apply State.raiseBit_keeps
    | with_reducible apply hf
    | with_reducible apply ite_keeps

theorem execPowerOnReset_keeps {s r : State} (h : s.Keeps r) : KeepsOut s (execPowerOnReset r) := by
  unfold execPowerOnReset
  repeat' first
    | with_reducible assumption
    | with_reducible apply State.powerOnReset_keeps
    | with_reducible apply KeepsOut.next

theorem State.otpRead_keeps {s r : State} (h : s.Keeps r) : s.Keeps (State.otpRead r) := by
  unfold State.otpRead
  repeat' first
    | with_reducible assumption
    | intro _
    | with_reducible apply State.raiseBit_keeps
    | with_reducible apply State.when_keeps
    | with_reducible apply State.raiseL_keeps
    | with_reducible apply State.draw_keeps
    | with_reducible refine State.draw_keeps' (by with_reducible assumption) ?_
    | with_reducible apply KeepsFst.fst
    | fail_if_no_progress with_reducible apply State.Keeps.mk'

theorem State.keysRead_keeps {s r : State} (h : s.Keeps r) : s.Keeps (State.keysRead r) := by
  unfold State.keysRead
  repeat' first
    | with_reducible assumption
    | intro _
    | with_reducible apply State.raiseL_keeps
    | with_reducible apply State.access_keeps
    | with_reducible apply State.setKeys_keeps
    | with_reducible apply State.draw_keeps
    | with_reducible refine State.draw_keeps' (by with_reducible assumption) ?_
    | with_reducible apply foldl_keeps
    | with_reducible apply foldl_keepsFst
    | exact KeepsFst.pair (by with_reducible assumption)
    | with_reducible apply ite_keeps

theorem State.porRelease_keeps {s r : State} (h : s.Keeps r) : s.Keeps (State.porRelease r) := by
  unfold State.porRelease
  repeat' first
    | with_reducible assumption
    | with_reducible apply State.raiseBit_keeps
    | with_reducible apply State.bootAfterReset_keeps
    | with_reducible apply State.otpRead_keeps
    | with_reducible apply State.keysRead_keeps
    | with_reducible apply ite_keeps
    | fail_if_no_progress with_reducible apply State.Keeps.mk'

theorem execPorRelease_keeps {s r : State} (h : s.Keeps r) : KeepsOut s (execPorRelease r) := by
  unfold execPorRelease
  repeat' first
    | with_reducible assumption
    | with_reducible apply State.porRelease_keeps
    | with_reducible apply KeepsOut.next

theorem State.limpLost_keeps {s r : State} (h : s.Keeps r) : s.Keeps (State.limpLost r) := by
  unfold State.limpLost
  repeat' first
    | with_reducible assumption
    | with_reducible apply State.putB_keeps
    | with_reducible apply State.raiseBit_keeps
    | with_reducible apply State.raiseP_keeps
    | with_reducible apply State.limpApply_keeps

theorem State.brownout_keeps {s r : State} {fast : Bool} (h : s.Keeps r) : s.Keeps (State.brownout r fast) := by
  unfold State.brownout
  repeat' first
    | with_reducible assumption
    | with_reducible apply State.raiseBit_keeps
    | with_reducible apply State.raiseL_keeps
    | with_reducible apply State.ldieReset_keeps
    | with_reducible apply State.bootAfterReset_keeps
    | with_reducible apply State.ldieRestart_keeps
    | with_reducible apply State.limpLost_keeps
    | with_reducible apply ite_keeps

theorem execRailBrownout_keeps {s r : State} {fast : Bool} (h : s.Keeps r) : KeepsOut s (execRailBrownout fast r) := by
  unfold execRailBrownout
  repeat' first
    | with_reducible assumption
    | with_reducible apply State.raiseBit_keeps
    | with_reducible apply State.brownout_keeps
    | with_reducible apply ite_keeps
    | with_reducible apply ite_keepsOut
    | with_reducible apply KeepsOut.next

theorem State.xtalLoss_keeps {s r : State} (h : s.Keeps r) : s.Keeps (State.xtalLoss r) := by
  unfold State.xtalLoss
  repeat' first
    | with_reducible assumption
    | with_reducible apply State.putB_keeps
    | with_reducible apply State.raiseBit_keeps
    | with_reducible apply State.incSat_keeps
    | with_reducible apply State.raiseL_keeps
    | with_reducible apply State.setDegraded_keeps
    | with_reducible apply ite_keeps

theorem execXtalLoss_keeps {s r : State} (h : s.Keeps r) : KeepsOut s (execXtalLoss r) := by
  unfold execXtalLoss
  repeat' first
    | with_reducible assumption
    | with_reducible apply State.xtalLoss_keeps
    | with_reducible apply KeepsOut.next

theorem State.pllUnlock_keeps {s r : State} {relock : Bool} (h : s.Keeps r) : s.Keeps (State.pllUnlock r relock) := by
  unfold State.pllUnlock
  repeat' first
    | with_reducible assumption
    | with_reducible apply State.putB_keeps
    | with_reducible apply State.raiseBit_keeps
    | with_reducible apply State.raiseL_keeps
    | with_reducible apply State.ldieReset_keeps
    | with_reducible apply State.bootAfterReset_keeps
    | with_reducible apply ite_keeps
    | fail_if_no_progress with_reducible apply State.Keeps.mk'

theorem execPllUnlock_keeps {s r : State} {relock : Bool} (h : s.Keeps r) : KeepsOut s (execPllUnlock relock r) := by
  unfold execPllUnlock
  repeat' first
    | with_reducible assumption
    | with_reducible apply State.pllUnlock_keeps
    | with_reducible apply KeepsOut.next

theorem execCkpwrLoss_keeps {s r : State} (h : s.Keeps r) : KeepsOut s (execCkpwrLoss r) := by
  unfold execCkpwrLoss
  repeat' first
    | with_reducible assumption
    | with_reducible apply State.raiseBit_keeps
    | with_reducible apply State.raiseP_keeps
    | with_reducible apply ite_keeps
    | with_reducible apply ite_keepsOut
    | with_reducible apply KeepsOut.next

theorem execCkpwrReturn_keeps {s r : State} (h : s.Keeps r) : KeepsOut s (execCkpwrReturn r) := by
  unfold execCkpwrReturn
  repeat' first
    | with_reducible assumption
    | with_reducible apply State.putB_keeps
    | with_reducible apply KeepsOut.next

theorem execSlowXtalReady_keeps {s r : State} (h : s.Keeps r) : KeepsOut s (execSlowXtalReady r) := by
  unfold execSlowXtalReady
  repeat' first
    | with_reducible assumption
    | with_reducible apply State.putB_keeps
    | with_reducible apply ite_keeps
    | with_reducible apply ite_keepsOut
    | with_reducible apply KeepsOut.next

theorem State.slowFail_keeps {s r : State} (h : s.Keeps r) : s.Keeps (State.slowFail r) := by
  unfold State.slowFail
  repeat' first
    | with_reducible assumption
    | with_reducible apply State.putB_keeps
    | with_reducible apply State.raiseBit_keeps
    | with_reducible apply State.raiseL_keeps
    | with_reducible apply ite_keeps
    | fail_if_no_progress with_reducible apply State.Keeps.mk'

theorem execSlowXtalFail_keeps {s r : State} (h : s.Keeps r) : KeepsOut s (execSlowXtalFail r) := by
  unfold execSlowXtalFail
  repeat' first
    | with_reducible assumption
    | with_reducible apply State.slowFail_keeps
    | with_reducible apply KeepsOut.next

theorem execRcTrim_keeps {s r : State} (h : s.Keeps r) : KeepsOut s (execRcTrim r) := by
  unfold execRcTrim
  repeat' first
    | with_reducible assumption
    | with_reducible apply State.putB_keeps
    | with_reducible apply KeepsOut.next

theorem execLdieReset_keeps {s r : State} (h : s.Keeps r) : KeepsOut s (execLdieReset r) := by
  unfold execLdieReset
  repeat' first
    | with_reducible assumption
    | with_reducible apply State.ldieRestart_keeps
    | with_reducible apply KeepsOut.next

theorem State.resetPin_keeps {s r : State} {low : Bool} (h : s.Keeps r) : s.Keeps (State.resetPin r low) := by
  unfold State.resetPin
  repeat' first
    | with_reducible assumption
    | with_reducible apply State.raiseBit_keeps
    | with_reducible apply State.ldieReset_keeps
    | with_reducible apply State.bootAfterReset_keeps
    | with_reducible apply ite_keeps
    | fail_if_no_progress with_reducible apply State.Keeps.mk'

theorem execResetPin_keeps {s r : State} {low : Bool} (h : s.Keeps r) : KeepsOut s (execResetPin low r) := by
  unfold execResetPin
  repeat' first
    | with_reducible assumption
    | with_reducible apply State.resetPin_keeps
    | with_reducible apply KeepsOut.next

theorem State.rstCommand_keeps {s r : State} {m : Master} {key : Nat} {mask : Nat} {ldie : Bool} (h : s.Keeps r) : s.Keeps (State.rstCommand r m key mask ldie) := by
  unfold State.rstCommand
  repeat' first
    | with_reducible assumption
    | intro _
    | with_reducible apply State.put_keeps
    | with_reducible apply State.raiseBit_keeps
    | with_reducible apply State.each_keeps
    | with_reducible apply State.ldieRestart_keeps
    | with_reducible apply State.coreReset_keeps
    | with_reducible apply ite_keeps

theorem State.rstCommandBy_keeps {s r : State} {m : Master} {key : Nat} {mask : Nat} {ldie : Bool} (h : s.Keeps r) : s.Keeps (State.rstCommandBy r m key mask ldie) := by
  unfold State.rstCommandBy
  repeat' first
    | with_reducible assumption
    | intro _
    | with_reducible apply State.access_keeps
    | with_reducible apply State.rstCommand_keeps

theorem execSysLdieReset_keeps {s r : State} {m : Master} {key : BitVec 8} (h : s.Keeps r) : KeepsOut s (execSysLdieReset m key r) := by
  unfold execSysLdieReset
  repeat' first
    | with_reducible assumption
    | with_reducible apply State.rstCommandBy_keeps
    | with_reducible apply KeepsOut.next

theorem execCoreReset_keeps {s r : State} {m : Master} {key : BitVec 8} {e : Fin 7} (h : s.Keeps r) : KeepsOut s (execCoreReset m key e r) := by
  unfold execCoreReset
  repeat' first
    | with_reducible assumption
    | with_reducible apply State.rstCommandBy_keeps
    | with_reducible apply KeepsOut.next

theorem State.wdExpire_keeps {s r : State} {k : Nat} (h : s.Keeps r) : s.Keeps (State.wdExpire r k) := by
  unfold State.wdExpire
  repeat' first
    | with_reducible assumption
    | with_reducible apply State.put_keeps
    | with_reducible apply State.raiseL_keeps
    | with_reducible apply State.setWdog_keeps
    | with_reducible apply State.ldieRestart_keeps
    | with_reducible apply State.coreReset_keeps
    | split
    | dsimp only

theorem State.wdKick_keeps {s r : State} {m : Master} {k : Nat} {v : Nat} (h : s.Keeps r) : s.Keeps (State.wdKick r m k v) := by
  unfold State.wdKick
  repeat' first
    | with_reducible assumption
    | with_reducible apply State.setWdog_keeps
    | with_reducible apply State.wdExpire_keeps
    | with_reducible apply ite_keeps

theorem State.wdKickBy_keeps {s r : State} {m : Master} {k : Nat} {v : Nat} (h : s.Keeps r) : s.Keeps (State.wdKickBy r m k v) := by
  unfold State.wdKickBy
  repeat' first
    | with_reducible assumption
    | intro _
    | with_reducible apply State.access_keeps
    | with_reducible apply State.wdKick_keeps

theorem execWdKick_keeps {s r : State} {m : Master} {k : Fin 4} {v : BitVec 8} (h : s.Keeps r) : KeepsOut s (execWdKick m k v r) := by
  unfold execWdKick
  repeat' first
    | with_reducible assumption
    | with_reducible apply State.wdKickBy_keeps
    | with_reducible apply KeepsOut.next

theorem execWdExpire_keeps {s r : State} {k : Fin 4} (h : s.Keeps r) : KeepsOut s (execWdExpire k r) := by
  unfold execWdExpire
  repeat' first
    | with_reducible assumption
    | with_reducible apply State.wdExpire_keeps
    | with_reducible apply ite_keeps
    | with_reducible apply ite_keepsOut
    | with_reducible apply KeepsOut.next

end Sys2Proof.Machine
end

