-- ==== Sys2Proof/Laws/Keeps20.lean ====
section
/-!
SUPPORT. What the operations and meanings of Machine/Txn, Vlv keep, one lemma each (State.Keeps).
-/

namespace Sys2Proof.Machine

theorem State.allocRead_keeps {s r : State} {m : Master} {a : Access} (h : s.Keeps r) : s.Keeps (State.allocRead r m a) := by
  unfold State.allocRead
  repeat' first
    | with_reducible assumption
    | intro _
    | with_reducible apply State.put_keeps
    | with_reducible apply State.answer_keeps
    | with_reducible apply ite_keeps
    | split

theorem execTxnAllocRead_keeps {s r : State} {m : Master} {a : Access} (h : s.Keeps r) : KeepsOut s (execTxnAllocRead m a r) := by
  unfold execTxnAllocRead
  repeat' first
    | with_reducible assumption
    | intro _
    | with_reducible apply State.access_keeps
    | with_reducible apply State.allocRead_keeps
    | with_reducible apply KeepsOut.next

theorem State.freeWrite_keeps {s r : State} {m : Master} {h : Nat} (h' : s.Keeps r) : s.Keeps (State.freeWrite r m h) := by
  unfold State.freeWrite
  repeat' first
    | with_reducible assumption
    | with_reducible apply State.raiseBit_keeps
    | with_reducible apply State.freeHandle_keeps
    | with_reducible apply ite_keeps

theorem execTxnFreeWrite_keeps {s r : State} {m : Master} {h : Fin 32} (h' : s.Keeps r) : KeepsOut s (execTxnFreeWrite m h r) := by
  unfold execTxnFreeWrite
  repeat' first
    | with_reducible assumption
    | intro _
    | with_reducible apply State.access_keeps
    | with_reducible apply State.freeWrite_keeps
    | with_reducible apply KeepsOut.next

theorem State.stagingWrite_keeps {s r' : State} {m : Master} {h : Nat} {r : StagingReg} {v : BitVec 64} (h' : s.Keeps r') : s.Keeps (State.stagingWrite r' m h r v) := by
  unfold State.stagingWrite
  repeat' first
    | with_reducible assumption
    | intro _
    | with_reducible apply State.put_keeps
    | with_reducible apply State.raiseBit_keeps
    | with_reducible apply ite_keeps
    | split

theorem State.timeWrite_keeps {s r : State} {m : Master} {h : Nat} {a : Access} {v : BitVec 64} (h' : s.Keeps r) : s.Keeps (State.timeWrite r m h a v) := by
  unfold State.timeWrite
  repeat' first
    | with_reducible assumption
    | with_reducible apply State.splitWrite_keeps
    | with_reducible refine State.splitWrite_keeps' (by with_reducible assumption) ?_
    | with_reducible apply State.stagingWrite_keeps
    | with_reducible apply KeepsFst.fst
    | split
    | dsimp only

theorem execTxnStagingWrite_keeps {s r' : State} {m : Master} {h : Fin 32} {r : StagingReg} {v : BitVec 64} (h' : s.Keeps r') : KeepsOut s (execTxnStagingWrite m h r v r') := by
  unfold execTxnStagingWrite
  repeat' first
    | with_reducible assumption
    | intro _
    | with_reducible apply State.access_keeps
    | with_reducible apply State.stagingWrite_keeps
    | with_reducible apply State.timeWrite_keeps
    | with_reducible apply KeepsOut.next
    | split

theorem State.commitWrite_keeps {s r : State} {m : Master} {h : Nat} (h' : s.Keeps r) : s.Keeps (State.commitWrite r m h) := by
  unfold State.commitWrite
  repeat' first
    | with_reducible assumption
    | with_reducible apply State.raiseBit_keeps
    | with_reducible apply State.commitHandle_keeps
    | with_reducible apply ite_keeps

theorem execCommit_keeps {s r : State} {m : Master} {h : Fin 32} (h' : s.Keeps r) : KeepsOut s (execCommit m h r) := by
  unfold execCommit
  repeat' first
    | with_reducible assumption
    | intro _
    | with_reducible apply State.access_keeps
    | with_reducible apply State.commitWrite_keeps
    | with_reducible apply KeepsOut.next

theorem execTxnArmed_keeps {s r : State} {h : Fin 32} (h' : s.Keeps r) : KeepsOut s (execTxnArmed h r) := by
  unfold execTxnArmed
  repeat' first
    | with_reducible assumption
    | intro _
    | with_reducible apply State.each_keeps
    | with_reducible apply State.armHandle_keeps
    | with_reducible apply ite_keeps
    | with_reducible apply ite_keepsOut
    | with_reducible apply KeepsOut.next

theorem execShadowDiscard_keeps {s r : State} {h : Fin 32} {crc : Bool} (h' : s.Keeps r) : KeepsOut s (execShadowDiscard h crc r) := by
  unfold execShadowDiscard
  repeat' first
    | with_reducible assumption
    | intro _
    | with_reducible apply State.incSat_keeps
    | with_reducible apply State.each_keeps
    | with_reducible apply State.when_keeps
    | with_reducible apply State.refuseAll_keeps
    | with_reducible apply ite_keeps
    | with_reducible apply ite_keepsOut
    | with_reducible apply KeepsOut.next

theorem State.shiftBad_keeps {s r : State} {k : Nat} (h : s.Keeps r) : s.Keeps (State.shiftBad r k) := by
  unfold State.shiftBad
  repeat' first
    | with_reducible assumption
    | with_reducible apply State.setChain_keeps
    | with_reducible apply State.draw_keeps
    | with_reducible refine State.draw_keeps' (by with_reducible assumption) ?_
    | with_reducible apply KeepsFst.fst
    | split

theorem execStitchShiftEnd_keeps {s r : State} {k : Fin 2} {returned : Nat} {ecc : Bool} (h : s.Keeps r) : KeepsOut s (execStitchShiftEnd k returned ecc r) := by
  unfold execStitchShiftEnd
  repeat' first
    | with_reducible assumption
    | intro _
    | with_reducible apply State.put_keeps
    | with_reducible apply State.raiseBit_keeps
    | with_reducible apply State.incSat_keeps
    | with_reducible apply State.when_keeps
    | with_reducible apply State.setHnd_keeps
    | with_reducible apply State.setChain_keeps
    | with_reducible apply State.raiseL_keeps
    | with_reducible apply State.shiftBad_keeps
    | with_reducible apply ite_keeps
    | with_reducible apply ite_keepsOut
    | with_reducible apply KeepsOut.next
    | split

theorem execPointOfNoReturn_keeps {s r : State} {h : Fin 32} (h' : s.Keeps r) : KeepsOut s (execPointOfNoReturn h r) := by
  unfold execPointOfNoReturn
  repeat' first
    | with_reducible assumption
    | with_reducible apply State.setHnd_keeps
    | with_reducible apply State.refuseAll_keeps
    | with_reducible apply ite_keeps
    | with_reducible apply ite_keepsOut
    | with_reducible apply KeepsOut.next

theorem execCommitEdge_keeps {s r : State} {hs : List (Fin 32)} (h : s.Keeps r) : KeepsOut s (execCommitEdge hs r) := by
  unfold execCommitEdge
  repeat' first
    | with_reducible assumption
    | with_reducible apply State.commitEdge_keeps
    | with_reducible apply KeepsOut.next

theorem execItemWindowEnd_keeps {s r : State} {h : Fin 32} {i : Fin 64} (h' : s.Keeps r) : KeepsOut s (execItemWindowEnd h i r) := by
  unfold execItemWindowEnd
  repeat' first
    | with_reducible assumption
    | with_reducible apply State.endItem_keeps
    | with_reducible apply ite_keeps
    | with_reducible apply ite_keepsOut
    | with_reducible apply KeepsOut.next

theorem State.cancelWrite_keeps {s r : State} {m : Master} {h : Nat} (h' : s.Keeps r) : s.Keeps (State.cancelWrite r m h) := by
  unfold State.cancelWrite
  repeat' first
    | with_reducible assumption
    | with_reducible apply State.raiseBit_keeps
    | with_reducible apply State.cancelHandle_keeps
    | with_reducible apply ite_keeps

theorem execTxnCancel_keeps {s r : State} {m : Master} {h : Fin 32} (h' : s.Keeps r) : KeepsOut s (execTxnCancel m h r) := by
  unfold execTxnCancel
  repeat' first
    | with_reducible assumption
    | intro _
    | with_reducible apply State.access_keeps
    | with_reducible apply State.cancelWrite_keeps
    | with_reducible apply KeepsOut.next

theorem State.noticeSend_keeps {s r : State} {m : Master} {v : BitVec 64} (h : s.Keeps r) : s.Keeps (State.noticeSend r m v) := by
  unfold State.noticeSend
  repeat' first
    | with_reducible assumption
    | intro _
    | with_reducible apply State.put_keeps
    | with_reducible apply State.when_keeps
    | with_reducible apply State.send_keeps
    | with_reducible apply State.noticeRx_keeps
    | with_reducible apply State.gweSendNotice_keeps
    | with_reducible apply ite_keeps

theorem execTxnNtxSend_keeps {s r : State} {m : Master} {v : BitVec 64} (h : s.Keeps r) : KeepsOut s (execTxnNtxSend m v r) := by
  unfold execTxnNtxSend
  repeat' first
    | with_reducible assumption
    | intro _
    | with_reducible apply State.access_keeps
    | with_reducible apply State.noticeSend_keeps
    | with_reducible apply KeepsOut.next

theorem execCommitNoticeRx_keeps {s r : State} {port : Fin 32} {n : Notice} (h : s.Keeps r) : KeepsOut s (execCommitNoticeRx port n r) := by
  unfold execCommitNoticeRx
  repeat' first
    | with_reducible assumption
    | with_reducible apply State.noticeRx_keeps
    | with_reducible apply ite_keeps
    | with_reducible apply ite_keepsOut
    | with_reducible apply KeepsOut.next

theorem execBoostStart_keeps {s r : State} {b : Fin 4} {vbst : BitVec 16} (h : s.Keeps r) : KeepsOut s (execBoostStart b vbst r) := by
  unfold execBoostStart
  repeat' first
    | with_reducible assumption
    | with_reducible apply State.setVbst_keeps
    | with_reducible apply State.boostService_keeps
    | with_reducible apply KeepsOut.next

theorem execBoostEnd_keeps {s r : State} {c : Fin 24} {reached : Bool} {imeas : BitVec 12} {tboost : BitVec 16} (h : s.Keeps r) : KeepsOut s (execBoostEnd c reached imeas tboost r) := by
  unfold execBoostEnd
  repeat' first
    | with_reducible assumption
    | intro _
    | with_reducible apply State.put_keeps
    | with_reducible apply State.boostService_keeps
    | with_reducible apply State.vlvEvidence_keeps
    | with_reducible apply ite_keeps
    | with_reducible apply ite_keepsOut
    | with_reducible apply KeepsOut.next

theorem execPeakEnd_keeps {s r : State} {c : Fin 24} (h : s.Keeps r) : KeepsOut s (execPeakEnd c r) := by
  unfold execPeakEnd
  repeat' first
    | with_reducible assumption
    | with_reducible apply State.put_keeps
    | with_reducible apply ite_keeps
    | with_reducible apply ite_keepsOut
    | with_reducible apply KeepsOut.next

theorem execHoldTimeEnd_keeps {s r : State} {c : Fin 24} (h : s.Keeps r) : KeepsOut s (execHoldTimeEnd c r) := by
  unfold execHoldTimeEnd
  repeat' first
    | with_reducible assumption
    | with_reducible apply State.enterRelease_keeps
    | with_reducible apply ite_keeps
    | with_reducible apply ite_keepsOut
    | with_reducible apply KeepsOut.next

theorem execValveReleaseDone_keeps {s r : State} {c : Fin 24} (h : s.Keeps r) : KeepsOut s (execValveReleaseDone c r) := by
  unfold execValveReleaseDone
  repeat' first
    | with_reducible assumption
    | with_reducible apply State.put_keeps
    | with_reducible apply State.setVal_keeps
    | with_reducible apply State.markOff_keeps
    | with_reducible apply ite_keeps
    | with_reducible apply ite_keepsOut
    | with_reducible apply KeepsOut.next

theorem execDeferExpire_keeps {s r : State} {c : Fin 24} (h : s.Keeps r) : KeepsOut s (execDeferExpire c r) := by
  unfold execDeferExpire
  repeat' first
    | with_reducible assumption
    | with_reducible apply State.expireBoost_keeps
    | with_reducible apply KeepsOut.next

theorem execClampEnergyLimit_keeps {s r : State} {c : Fin 24} (h : s.Keeps r) : KeepsOut s (execClampEnergyLimit c r) := by
  unfold execClampEnergyLimit
  repeat' first
    | with_reducible assumption
    | with_reducible apply State.setVal_keeps
    | with_reducible apply ite_keeps
    | with_reducible apply ite_keepsOut
    | with_reducible apply KeepsOut.next

theorem execVbstOvervoltage_keeps {s r : State} {vbst : BitVec 16} (h : s.Keeps r) : KeepsOut s (execVbstOvervoltage vbst r) := by
  unfold execVbstOvervoltage
  repeat' first
    | with_reducible assumption
    | with_reducible apply State.raiseBit_keeps
    | with_reducible apply State.raiseP_keeps
    | with_reducible apply State.setVbst_keeps
    | with_reducible apply ite_keeps
    | with_reducible apply ite_keepsOut
    | with_reducible apply KeepsOut.next
    | fail_if_no_progress with_reducible apply State.Keeps.mk'

theorem execVbstOvRecover_keeps {s r : State} {vbst : BitVec 16} (h : s.Keeps r) : KeepsOut s (execVbstOvRecover vbst r) := by
  unfold execVbstOvRecover
  repeat' first
    | with_reducible assumption
    | with_reducible apply State.setVbst_keeps
    | with_reducible apply ite_keeps
    | with_reducible apply ite_keepsOut
    | with_reducible apply KeepsOut.next
    | fail_if_no_progress with_reducible apply State.Keeps.mk'

theorem execVbstUndervoltage_keeps {s r : State} {vbst : BitVec 16} (h : s.Keeps r) : KeepsOut s (execVbstUndervoltage vbst r) := by
  unfold execVbstUndervoltage
  repeat' first
    | with_reducible assumption
    | with_reducible apply State.raiseBit_keeps
    | with_reducible apply State.raiseP_keeps
    | with_reducible apply State.setVbst_keeps
    | with_reducible apply ite_keeps
    | with_reducible apply ite_keepsOut
    | with_reducible apply KeepsOut.next

theorem execCoilModelStep_keeps {s r : State} {tdie : BitVec 16} {sense : List VlvSense} (h : s.Keeps r) : KeepsOut s (execCoilModelStep tdie sense r) := by
  unfold execCoilModelStep
  repeat' first
    | with_reducible assumption
    | intro _
    | with_reducible apply State.put_keeps
    | with_reducible apply State.each_keeps
    | with_reducible apply State.coilStep_keeps
    | with_reducible apply ite_keeps
    | with_reducible apply ite_keepsOut
    | with_reducible apply KeepsOut.next

theorem execCoilRmeas_keeps {s r : State} {c : Fin 24} {rmeas : BitVec 16} (h : s.Keeps r) : KeepsOut s (execCoilRmeas c rmeas r) := by
  unfold execCoilRmeas
  repeat' first
    | with_reducible assumption
    | with_reducible apply State.put_keeps
    | with_reducible apply State.setVal_keeps
    | with_reducible apply State.coilLimits_keeps
    | with_reducible apply ite_keeps
    | with_reducible apply ite_keepsOut
    | with_reducible apply KeepsOut.next

theorem execVlvOcTrip_keeps {s r : State} {c : Fin 24} (h : s.Keeps r) : KeepsOut s (execVlvOcTrip c r) := by
  unfold execVlvOcTrip
  repeat' first
    | with_reducible assumption
    | with_reducible apply State.vlvEvidence_keeps
    | with_reducible apply State.vlvTrip_keeps
    | with_reducible apply ite_keeps
    | with_reducible apply ite_keepsOut
    | with_reducible apply KeepsOut.next

theorem execVlvFeedTrip_keeps {s r : State} {b : Fin 4} (h : s.Keeps r) : KeepsOut s (execVlvFeedTrip b r) := by
  unfold execVlvFeedTrip
  repeat' first
    | with_reducible assumption
    | intro _
    | with_reducible apply State.raiseBit_keeps
    | with_reducible apply State.each_keeps
    | with_reducible apply State.raiseP_keeps
    | with_reducible apply State.vlvOff_keeps
    | with_reducible apply ite_keeps
    | with_reducible apply ite_keepsOut
    | with_reducible apply KeepsOut.next

theorem execFeedTripWaitEnd_keeps {s r : State} {b : Fin 4} (h : s.Keeps r) : KeepsOut s (execFeedTripWaitEnd b r) := by
  unfold execFeedTripWaitEnd
  repeat' first
    | with_reducible assumption
    | intro _
    | with_reducible apply State.putB_keeps
    | with_reducible apply State.each_keeps
    | with_reducible apply State.boostService_keeps
    | with_reducible apply KeepsOut.next

theorem execClampOtTrip_keeps {s r : State} {c : Fin 24} (h : s.Keeps r) : KeepsOut s (execClampOtTrip c r) := by
  unfold execClampOtTrip
  repeat' first
    | with_reducible assumption
    | with_reducible apply State.vlvTrip_keeps
    | with_reducible apply ite_keeps
    | with_reducible apply ite_keepsOut
    | with_reducible apply KeepsOut.next

theorem execVlvOtTrip_keeps {s r : State} {c : Fin 24} (h : s.Keeps r) : KeepsOut s (execVlvOtTrip c r) := by
  unfold execVlvOtTrip
  repeat' first
    | with_reducible assumption
    | with_reducible apply State.vlvTrip_keeps
    | with_reducible apply ite_keeps
    | with_reducible apply ite_keepsOut
    | with_reducible apply KeepsOut.next

theorem execVlvOffdiag_keeps {s r : State} {c : Fin 24} {lowOff : Bool} {lowOn : Bool} (h : s.Keeps r) : KeepsOut s (execVlvOffdiag c lowOff lowOn r) := by
  unfold execVlvOffdiag
  repeat' first
    | with_reducible assumption
    | with_reducible apply State.vlvEvidence_keeps
    | with_reducible apply ite_keeps
    | with_reducible apply ite_keepsOut
    | with_reducible apply KeepsOut.next

theorem execHoldLowDetect_keeps {s r : State} {c : Fin 24} (h : s.Keeps r) : KeepsOut s (execHoldLowDetect c r) := by
  unfold execHoldLowDetect
  repeat' first
    | with_reducible assumption
    | with_reducible apply State.vlvEvidence_keeps
    | with_reducible apply ite_keeps
    | with_reducible apply ite_keepsOut
    | with_reducible apply KeepsOut.next

theorem State.vlvDclr_keeps {s r : State} {m : Master} {c : Nat} (h : s.Keeps r) : s.Keeps (State.vlvDclr r m c) := by
  unfold State.vlvDclr
  repeat' first
    | with_reducible assumption
    | with_reducible apply State.put_keeps
    | with_reducible apply State.raiseBit_keeps
    | with_reducible apply ite_keeps

theorem execVlvDclr_keeps {s r : State} {m : Master} {c : Fin 24} (h : s.Keeps r) : KeepsOut s (execVlvDclr m c r) := by
  unfold execVlvDclr
  repeat' first
    | with_reducible assumption
    | intro _
    | with_reducible apply State.access_keeps
    | with_reducible apply State.vlvDclr_keeps
    | with_reducible apply KeepsOut.next

end Sys2Proof.Machine
end

