-- ==== Sys2Proof/Laws/Keeps21.lean ====
section
/-!
SUPPORT. What the operations and meanings of Machine/RegRead, RegWrite keep, one lemma each (State.Keeps).
-/

namespace Sys2Proof.Machine

theorem State.plainRead_keeps {s r : State} {m : Master} {a : Nat} {acc : Access} (h : s.Keeps r) : s.Keeps (State.plainRead r m a acc) := by
  unfold State.plainRead
  repeat' first
    | with_reducible assumption
    | with_reducible apply State.setReg_keeps
    | with_reducible apply State.answer_keeps
    | with_reducible apply State.splitRead_keeps
    | with_reducible apply ite_keeps

theorem State.openRead_keeps {s r : State} {m : Master} {a : Nat} {acc : Access} {fs : List Fld} (h : s.Keeps r) : s.Keeps (State.openRead r m a acc fs) := by
  unfold State.openRead
  repeat' first
    | with_reducible assumption
    | intro _
    | with_reducible apply State.answer_keeps
    | with_reducible apply State.draw_keeps

theorem State.regRead_keeps {s r : State} {m : Master} {a : Nat} {acc : Access} (h : s.Keeps r) : s.Keeps (State.regRead r m a acc) := by
  unfold State.regRead
  repeat' first
    | with_reducible assumption
    | with_reducible apply State.rxqRead_keeps
    | with_reducible apply State.lockRead_keeps
    | with_reducible apply State.gtCapRead_keeps
    | with_reducible apply State.ntuCapRead_keeps
    | with_reducible apply State.linFdRead_keeps
    | with_reducible apply State.allocRead_keeps
    | with_reducible apply State.plainRead_keeps
    | with_reducible apply State.openRead_keeps
    | with_reducible apply ite_keeps
    | split

theorem State.ruledWrite_keeps {s r : State} {a : Nat} {acc : Access} {v : BitVec 64} {ok : Bool} {viol : Option Fld} (h : s.Keeps r) : s.Keeps (State.ruledWrite r a acc v ok viol) := by
  unfold State.ruledWrite
  repeat' first
    | with_reducible assumption
    | with_reducible apply State.setReg_keeps
    | with_reducible apply State.raiseBit_keeps
    | with_reducible apply after_keeps
    | with_reducible apply ite_keeps
    | split

theorem State.plainWrite_keeps {s r : State} {a : Nat} {acc : Access} {v : BitVec 64} (h : s.Keeps r) : s.Keeps (State.plainWrite r a acc v) := by
  unfold State.plainWrite
  repeat' first
    | with_reducible assumption
    | with_reducible apply State.ruledWrite_keeps

theorem State.txnRegWrite_keeps {s r : State} {m : Master} {a : Nat} {acc : Access} {v : BitVec 64} (h : s.Keeps r) : s.Keeps (State.txnRegWrite r m a acc v) := by
  unfold State.txnRegWrite
  repeat' first
    | with_reducible assumption
    | intro _
    | with_reducible apply State.raiseBit_keeps
    | with_reducible apply State.when_keeps
    | with_reducible apply State.freeWrite_keeps
    | with_reducible apply State.stagingWrite_keeps
    | with_reducible apply State.timeWrite_keeps
    | with_reducible apply State.commitWrite_keeps
    | with_reducible apply State.cancelWrite_keeps
    | with_reducible apply State.noticeSend_keeps
    | with_reducible apply State.plainWrite_keeps
    | with_reducible apply ite_keeps
    | split

theorem State.hswConfigWrite_keeps {s r : State} {m : Master} {n : Nat} {a : Nat} {acc : Access} {v : BitVec 64} (h : s.Keeps r) : s.Keeps (State.hswConfigWrite r m n a acc v) := by
  unfold State.hswConfigWrite
  repeat' first
    | with_reducible assumption
    | with_reducible apply State.ruledWrite_keeps
    | with_reducible apply ite_keeps
    | fail_if_no_progress with_reducible apply State.Keeps.mk'

theorem State.hswRegWrite_keeps {s r : State} {m : Master} {a : Nat} {acc : Access} {v : BitVec 64} (h : s.Keeps r) : s.Keeps (State.hswRegWrite r m a acc v) := by
  unfold State.hswRegWrite
  repeat' first
    | with_reducible assumption
    | with_reducible apply State.put_keeps
    | with_reducible apply State.putB_keeps
    | with_reducible apply State.hswDclr_keeps
    | with_reducible apply State.slotWrite_keeps
    | with_reducible apply State.rclr_keeps
    | with_reducible apply execTclr_keeps
    | with_reducible apply State.ruledWrite_keeps
    | with_reducible apply State.plainWrite_keeps
    | with_reducible apply after_keeps
    | with_reducible apply State.hswConfigWrite_keeps
    | with_reducible apply ite_keeps
    | split

theorem State.vlvRegWrite_keeps {s r : State} {m : Master} {a : Nat} {acc : Access} {v : BitVec 64} (h : s.Keeps r) : s.Keeps (State.vlvRegWrite r m a acc v) := by
  unfold State.vlvRegWrite
  repeat' first
    | with_reducible assumption
    | with_reducible apply State.setVbst_keeps
    | with_reducible apply State.slotWrite_keeps
    | with_reducible apply State.vlvDclr_keeps
    | with_reducible apply State.ruledWrite_keeps
    | with_reducible apply State.plainWrite_keeps
    | with_reducible apply ite_keeps
    | split

theorem State.ledRegWrite_keeps {s r : State} {m : Master} {a : Nat} {acc : Access} {v : BitVec 64} (h : s.Keeps r) : s.Keeps (State.ledRegWrite r m a acc v) := by
  unfold State.ledRegWrite
  repeat' first
    | with_reducible assumption
    | intro _
    | with_reducible apply State.raiseBit_keeps
    | with_reducible apply State.slotWrite_keeps
    | with_reducible apply State.ledDclr_keeps
    | with_reducible apply State.mrst_keeps
    | with_reducible apply State.frameWrite_keeps
    | with_reducible apply State.ruledWrite_keeps
    | with_reducible apply State.plainWrite_keeps
    | with_reducible apply ite_keeps
    | split

theorem State.dinRegWrite_keeps {s r : State} {m : Master} {a : Nat} {acc : Access} {v : BitVec 64} (h : s.Keeps r) : s.Keeps (State.dinRegWrite r m a acc v) := by
  unfold State.dinRegWrite
  repeat' first
    | with_reducible assumption
    | with_reducible apply State.dinConfigWrite_keeps
    | with_reducible apply State.plainWrite_keeps
    | with_reducible apply ite_keeps
    | split

theorem State.doutRegWrite_keeps {s r : State} {m : Master} {a : Nat} {acc : Access} {v : BitVec 64} (h : s.Keeps r) : s.Keeps (State.doutRegWrite r m a acc v) := by
  unfold State.doutRegWrite
  repeat' first
    | with_reducible assumption
    | with_reducible apply State.slotWrite_keeps
    | with_reducible apply State.doutRefresh_keeps
    | with_reducible apply State.doutDclr_keeps
    | with_reducible apply State.ruledWrite_keeps
    | with_reducible apply State.plainWrite_keeps
    | with_reducible apply ite_keeps
    | split

theorem State.saCfgWrite_keeps {s r : State} {i : Nat} {acc : Access} {v : BitVec 64} (h : s.Keeps r) : s.Keeps (State.saCfgWrite r i acc v) := by
  unfold State.saCfgWrite
  repeat' first
    | with_reducible assumption
    | intro _
    | with_reducible apply State.when_keeps
    | with_reducible apply State.saStart_keeps
    | with_reducible apply State.saGo_keeps
    | with_reducible apply State.plainWrite_keeps
    | with_reducible apply ite_keeps

theorem State.pdiRegWrite_keeps {s r : State} {a : Nat} {acc : Access} {v : BitVec 64} (h : s.Keeps r) : s.Keeps (State.pdiRegWrite r a acc v) := by
  unfold State.pdiRegWrite
  repeat' first
    | with_reducible assumption
    | with_reducible apply State.saTimeWrite_keeps
    | with_reducible apply State.releaseWrite_keeps
    | with_reducible apply State.plainWrite_keeps
    | with_reducible apply State.saCfgWrite_keeps
    | with_reducible apply ite_keeps

theorem State.gtCmdWrite_keeps {s r : State} {m : Master} {g : Nat} {acc : Access} {v : BitVec 64} (h : s.Keeps r) : s.Keeps (State.gtCmdWrite r m g acc v) := by
  unfold State.gtCmdWrite
  repeat' first
    | with_reducible assumption
    | intro _
    | with_reducible apply State.gtRequest_keeps
    | with_reducible apply State.gtCapNow_keeps
    | with_reducible apply State.gtOwned_keeps
    | with_reducible apply ite_keeps

theorem State.gtRegistersWrite_keeps {s r : State} {m : Master} {a : Nat} {acc : Access} {v : BitVec 64} (h : s.Keeps r) : s.Keeps (State.gtRegistersWrite r m a acc v) := by
  unfold State.gtRegistersWrite
  repeat' first
    | with_reducible assumption
    | with_reducible apply State.gtMatch_keeps
    | with_reducible apply State.gtGroup_keeps
    | with_reducible apply State.gtRegWrite_keeps
    | with_reducible apply State.gtCntWrite_keeps
    | with_reducible apply State.ruledWrite_keeps
    | with_reducible apply State.plainWrite_keeps
    | with_reducible apply State.gtCmdWrite_keeps
    | with_reducible apply ite_keeps
    | split

theorem State.ntuAdjWrite_keeps {s r : State} {m : Master} {acc : Access} {v : BitVec 64} (h : s.Keeps r) : s.Keeps (State.ntuAdjWrite r m acc v) := by
  unfold State.ntuAdjWrite
  repeat' first
    | with_reducible assumption
    | with_reducible apply State.ntuSlewGo_keeps
    | with_reducible apply execNtuStep_keeps
    | with_reducible apply State.ruledWrite_keeps
    | with_reducible apply after_keeps
    | with_reducible apply ite_keeps

theorem State.ntuRegWrite_keeps {s r : State} {m : Master} {a : Nat} {acc : Access} {v : BitVec 64} (h : s.Keeps r) : s.Keeps (State.ntuRegWrite r m a acc v) := by
  unfold State.ntuRegWrite
  repeat' first
    | with_reducible assumption
    | with_reducible apply State.ntuIncWrite_keeps
    | with_reducible apply State.ntuSyncWrite_keeps
    | with_reducible apply State.swcap_keeps
    | with_reducible apply State.trgWrite_keeps
    | with_reducible apply State.ruledWrite_keeps
    | with_reducible apply State.plainWrite_keeps
    | with_reducible apply State.ntuAdjWrite_keeps
    | with_reducible apply ite_keeps

theorem State.canCtlWrite_keeps {s r : State} {n : Nat} {acc : Access} {v : BitVec 64} (h : s.Keeps r) : s.Keeps (State.canCtlWrite r n acc v) := by
  unfold State.canCtlWrite
  repeat' first
    | with_reducible assumption
    | with_reducible apply State.put_keeps
    | with_reducible apply State.canModeWrite_keeps
    | with_reducible apply State.borec_keeps
    | with_reducible apply State.plainWrite_keeps
    | with_reducible apply ite_keeps

theorem State.canBufWrite_keeps {s r : State} {n : Nat} {k : Nat} {acc : Access} {v : BitVec 64} (h : s.Keeps r) : s.Keeps (State.canBufWrite r n k acc v) := by
  unfold State.canBufWrite
  repeat' first
    | with_reducible assumption
    | with_reducible apply State.raiseBit_keeps
    | with_reducible apply State.drawEcc_keeps
    | with_reducible refine State.drawEcc_keeps' (by with_reducible assumption) ?_
    | with_reducible apply State.canTxreq_keeps
    | with_reducible apply State.canCancel_keeps
    | with_reducible apply State.nslCheck_keeps
    | with_reducible apply State.canRelease_keeps
    | with_reducible apply State.plainWrite_keeps
    | with_reducible apply ite_keeps
    | with_reducible apply ite_keepsFst
    | with_reducible apply KeepsFst.fst

theorem State.canChanWrite_keeps {s r : State} {n : Nat} {a : Nat} {acc : Access} {v : BitVec 64} (h : s.Keeps r) : s.Keeps (State.canChanWrite r n a acc v) := by
  unfold State.canChanWrite
  repeat' first
    | with_reducible assumption
    | with_reducible apply State.raiseBit_keeps
    | with_reducible apply State.canRelease_keeps
    | with_reducible apply State.plainWrite_keeps
    | with_reducible apply State.canCtlWrite_keeps
    | with_reducible apply State.canBufWrite_keeps
    | with_reducible apply ite_keeps

theorem State.canRegWrite_keeps {s r : State} {m : Master} {a : Nat} {acc : Access} {v : BitVec 64} (h : s.Keeps r) : s.Keeps (State.canRegWrite r m a acc v) := by
  unfold State.canRegWrite
  repeat' first
    | with_reducible assumption
    | intro _
    | with_reducible apply State.canOwned_keeps
    | with_reducible apply State.canChanWrite_keeps

theorem State.nslCfgWrite_keeps {s r : State} {acc : Access} {v : BitVec 64} (h : s.Keeps r) : s.Keeps (State.nslCfgWrite r acc v) := by
  unfold State.nslCfgWrite
  repeat' first
    | with_reducible assumption
    | with_reducible apply State.put_keeps
    | with_reducible apply State.nslCheck_keeps
    | with_reducible apply State.setLocal_keeps
    | with_reducible apply State.plainWrite_keeps
    | with_reducible apply ite_keeps

theorem State.nslRegWrite_keeps {s r : State} {m : Master} {a : Nat} {acc : Access} {v : BitVec 64} (h : s.Keeps r) : s.Keeps (State.nslRegWrite r m a acc v) := by
  unfold State.nslRegWrite
  repeat' first
    | with_reducible assumption
    | intro _
    | with_reducible apply State.nslOwned_keeps
    | with_reducible apply State.plainWrite_keeps
    | with_reducible apply State.nslCfgWrite_keeps
    | with_reducible apply ite_keeps

theorem State.linCfgWrite_keeps {s r : State} {n : Nat} {acc : Access} {v : BitVec 64} (h : s.Keeps r) : s.Keeps (State.linCfgWrite r n acc v) := by
  unfold State.linCfgWrite
  repeat' first
    | with_reducible assumption
    | with_reducible apply State.put_keeps
    | with_reducible apply State.nslCheck_keeps
    | with_reducible apply State.linEnable_keeps
    | with_reducible apply State.linDisable_keeps
    | with_reducible apply State.plainWrite_keeps
    | with_reducible apply ite_keeps

theorem State.linCmdWrite_keeps {s r : State} {n : Nat} {acc : Access} {v : BitVec 64} (h : s.Keeps r) : s.Keeps (State.linCmdWrite r n acc v) := by
  unfold State.linCmdWrite
  repeat' first
    | with_reducible assumption
    | with_reducible apply State.schgo_keeps
    | with_reducible apply State.schstop_keeps
    | with_reducible apply State.gosleep_keeps
    | with_reducible apply State.linWake_keeps
    | with_reducible apply State.plainWrite_keeps
    | with_reducible apply ite_keeps

theorem State.linRegWrite_keeps {s r : State} {m : Master} {a : Nat} {acc : Access} {v : BitVec 64} (h : s.Keeps r) : s.Keeps (State.linRegWrite r m a acc v) := by
  unfold State.linRegWrite
  repeat' first
    | with_reducible assumption
    | intro _
    | with_reducible apply State.linOwned_keeps
    | with_reducible apply State.linTxreq_keeps
    | with_reducible apply State.plainWrite_keeps
    | with_reducible apply State.linCfgWrite_keeps
    | with_reducible apply State.linCmdWrite_keeps
    | with_reducible apply ite_keeps

theorem State.eswSwitchOn_keeps {s r : State} {was : Bool} (h : s.Keeps r) : s.Keeps (State.eswSwitchOn r was) := by
  unfold State.eswSwitchOn
  repeat' first
    | with_reducible assumption
    | with_reducible apply State.put_keeps
    | with_reducible apply State.switchOff_keeps
    | with_reducible apply ite_keeps

theorem State.eswRegWrite_keeps {s r : State} {m : Master} {a : Nat} {acc : Access} {v : BitVec 64} (h : s.Keeps r) : s.Keeps (State.eswRegWrite r m a acc v) := by
  unfold State.eswRegWrite
  repeat' first
    | with_reducible assumption
    | intro _
    | with_reducible apply State.linkWatch_keeps
    | with_reducible apply State.ruledWrite_keeps
    | with_reducible apply State.eswSwitchOn_keeps
    | with_reducible apply ite_keeps

theorem State.gweRegWrite_keeps {s r : State} {m : Master} {a : Nat} {acc : Access} {v : BitVec 64} (h : s.Keeps r) : s.Keeps (State.gweRegWrite r m a acc v) := by
  unfold State.gweRegWrite
  repeat' first
    | with_reducible assumption
    | intro _
    | with_reducible apply State.gweOwned_keeps
    | with_reducible apply State.gweCommand_keeps
    | with_reducible apply State.ruledWrite_keeps
    | with_reducible apply ite_keeps

theorem State.accRegWrite_keeps {s r : State} {m : Master} {a : Nat} {acc : Access} {v : BitVec 64} (h : s.Keeps r) : s.Keeps (State.accRegWrite r m a acc v) := by
  unfold State.accRegWrite
  repeat' first
    | with_reducible assumption
    | intro _
    | with_reducible apply State.accOwned_keeps
    | with_reducible apply State.accCommand_keeps
    | with_reducible apply State.ruledWrite_keeps
    | with_reducible apply ite_keeps

theorem State.mbxRegWrite_keeps {s r : State} {m : Master} {a : Nat} {acc : Access} {v : BitVec 64} (h : s.Keeps r) : s.Keeps (State.mbxRegWrite r m a acc v) := by
  unfold State.mbxRegWrite
  repeat' first
    | with_reducible assumption
    | intro _
    | with_reducible apply State.mbxBy_keeps
    | with_reducible apply State.txqWrite_keeps
    | with_reducible apply State.mbxCommand_keeps
    | with_reducible apply State.mbxDbWrite_keeps
    | with_reducible apply State.lockWrite_keeps
    | with_reducible apply State.lockRelWrite_keeps
    | with_reducible apply State.lockIenWrite_keeps
    | with_reducible apply State.plainWrite_keeps
    | with_reducible apply ite_keeps
    | split

theorem State.domctlWrite_keeps {s r : State} {acc : Access} {v : BitVec 64} (h : s.Keeps r) : s.Keeps (State.domctlWrite r acc v) := by
  unfold State.domctlWrite
  repeat' first
    | with_reducible assumption
    | with_reducible apply State.put_keeps
    | with_reducible apply State.netoffWrite_keeps
    | with_reducible apply ite_keeps

theorem State.pmuRegWrite_keeps {s r : State} {m : Master} {a : Nat} {acc : Access} {v : BitVec 64} (h : s.Keeps r) : s.Keeps (State.pmuRegWrite r m a acc v) := by
  unfold State.pmuRegWrite
  repeat' first
    | with_reducible assumption
    | intro _
    | with_reducible apply State.runWake_keeps
    | with_reducible apply State.pmuRequest_keeps
    | with_reducible apply State.pmuOwned_keeps
    | with_reducible apply State.wtmrWrite_keeps
    | with_reducible apply State.ruledWrite_keeps
    | with_reducible apply State.plainWrite_keeps
    | with_reducible apply State.domctlWrite_keeps
    | with_reducible apply ite_keeps

theorem State.sysRegWrite_keeps {s r : State} {m : Master} {a : Nat} {acc : Access} {v : BitVec 64} (h : s.Keeps r) : s.Keeps (State.sysRegWrite r m a acc v) := by
  unfold State.sysRegWrite
  repeat' first
    | with_reducible assumption
    | with_reducible apply State.rstCommand_keeps
    | with_reducible apply State.wdKick_keeps
    | with_reducible apply State.ruledWrite_keeps
    | with_reducible apply ite_keeps

theorem State.fcuRegWrite_keeps {s r : State} {m : Master} {a : Nat} {acc : Access} {v : BitVec 64} (h : s.Keeps r) : s.Keeps (State.fcuRegWrite r m a acc v) := by
  unfold State.fcuRegWrite
  repeat' first
    | with_reducible assumption
    | intro _
    | with_reducible apply State.fcuOwned_keeps
    | with_reducible apply State.fcuAck_keeps
    | with_reducible apply State.sevWrite_keeps
    | with_reducible apply State.tmrWrite_keeps
    | with_reducible apply State.frcWrite_keeps
    | with_reducible apply State.pfrcWrite_keeps
    | with_reducible apply State.plainWrite_keeps
    | with_reducible apply ite_keeps

theorem State.hoFlagWrite_keeps {s r : State} {e : Nat} {acc : Access} {v : BitVec 64} (h : s.Keeps r) : s.Keeps (State.hoFlagWrite r e acc v) := by
  unfold State.hoFlagWrite
  repeat' first
    | with_reducible assumption
    | with_reducible apply State.setHoFlag_keeps
    | with_reducible apply ite_keeps
    | fail_if_no_progress with_reducible apply State.Keeps.mk'

theorem State.bsqRegWrite_keeps {s r : State} {m : Master} {a : Nat} {acc : Access} {v : BitVec 64} (h : s.Keeps r) : s.Keeps (State.bsqRegWrite r m a acc v) := by
  unfold State.bsqRegWrite
  repeat' first
    | with_reducible assumption
    | with_reducible apply State.hoCommand_keeps
    | with_reducible apply State.plainWrite_keeps
    | with_reducible apply State.hoFlagWrite_keeps
    | with_reducible apply ite_keeps

theorem State.regWrite_keeps {s r : State} {m : Master} {a : Nat} {acc : Access} {v : BitVec 64} (h : s.Keeps r) : s.Keeps (State.regWrite r m a acc v) := by
  unfold State.regWrite
  repeat' first
    | with_reducible assumption
    | with_reducible apply State.plainWrite_keeps
    | with_reducible apply State.txnRegWrite_keeps
    | with_reducible apply State.hswRegWrite_keeps
    | with_reducible apply State.vlvRegWrite_keeps
    | with_reducible apply State.ledRegWrite_keeps
    | with_reducible apply State.dinRegWrite_keeps
    | with_reducible apply State.doutRegWrite_keeps
    | with_reducible apply State.pdiRegWrite_keeps
    | with_reducible apply State.gtRegistersWrite_keeps
    | with_reducible apply State.ntuRegWrite_keeps
    | with_reducible apply State.canRegWrite_keeps
    | with_reducible apply State.nslRegWrite_keeps
    | with_reducible apply State.linRegWrite_keeps
    | with_reducible apply State.eswRegWrite_keeps
    | with_reducible apply State.gweRegWrite_keeps
    | with_reducible apply State.accRegWrite_keeps
    | with_reducible apply State.mbxRegWrite_keeps
    | with_reducible apply State.pmuRegWrite_keeps
    | with_reducible apply State.sysRegWrite_keeps
    | with_reducible apply State.fcuRegWrite_keeps
    | with_reducible apply State.bsqRegWrite_keeps
    | split

theorem State.bsqWrite_keeps {s r : State} {a : Nat} {v : BitVec 64} (h : s.Keeps r) : KeepsFst s (State.bsqWrite r a v) := by
  unfold State.bsqWrite
  repeat' first
    | with_reducible assumption
    | intro _
    | with_reducible apply State.setReg_keeps
    | with_reducible apply State.putB_keeps
    | with_reducible apply State.raiseBit_keeps
    | with_reducible apply State.each_keeps
    | with_reducible apply State.regWrite_keeps
    | with_reducible apply ite_keeps
    | with_reducible apply ite_keepsFst
    | split
    | dsimp only
    | with_reducible apply KeepsFst.mk

theorem State.bsqWrite_keeps' {s r t : State} {a : Nat} {v : BitVec 64} {y : Bool} (e : State.bsqWrite r a v = (t, y)) (h : s.Keeps r) :
    s.Keeps t :=
  (State.bsqWrite_keeps h).elim e

end Sys2Proof.Machine
end

