-- ==== Sys2Proof/Laws/Keeps22.lean ====
section
/-!
SUPPORT. What the operations and meanings of Machine/Bus, Bsq keep, one lemma each (State.Keeps).
-/

namespace Sys2Proof.Machine

theorem State.loadReg_keeps {s r : State} {m : Master} {a : Nat} {size : Nat} (h : s.Keeps r) : KeepsFst s (State.loadReg r m a size) := by
  unfold State.loadReg
  repeat' first
    | with_reducible assumption
    | with_reducible apply State.busError_keeps
    | with_reducible apply State.regRead_keeps
    | with_reducible apply ite_keeps
    | with_reducible apply ite_keepsFst
    | split
    | dsimp only
    | fail_if_no_progress with_reducible apply State.Keeps.mk'
    | with_reducible apply KeepsFst.mk

theorem State.loadReg_keeps' {s r t : State} {m : Master} {a : Nat} {size : Nat} {y : Loaded} (e : State.loadReg r m a size = (t, y)) (h : s.Keeps r) :
    s.Keeps t :=
  (State.loadReg_keeps h).elim e

theorem State.memValue_keeps {s r : State} {a : Nat} {size : Nat} (h : s.Keeps r) : KeepsFst s (State.memValue r a size) := by
  unfold State.memValue
  repeat' first
    | with_reducible assumption
    | with_reducible apply State.draw_keeps
    | with_reducible refine State.draw_keeps' (by with_reducible assumption) ?_
    | with_reducible apply ite_keeps
    | with_reducible apply ite_keepsFst
    | with_reducible apply KeepsFst.fst
    | with_reducible apply KeepsFst.mk

theorem State.memValue_keeps' {s r t : State} {a : Nat} {size : Nat} {y : Nat} (e : State.memValue r a size = (t, y)) (h : s.Keeps r) :
    s.Keeps t :=
  (State.memValue_keeps h).elim e

theorem State.loadMem_keeps {s r : State} {m : Master} {a : Nat} {size : Nat} {e : MemErr} (h : s.Keeps r) : KeepsFst s (State.loadMem r m a size e) := by
  unfold State.loadMem
  repeat' first
    | with_reducible assumption
    | with_reducible apply State.raiseL_keeps
    | with_reducible apply State.busError_keeps
    | with_reducible apply State.memValue_keeps
    | with_reducible refine State.memValue_keeps' (by with_reducible assumption) ?_
    | with_reducible apply ite_keeps
    | with_reducible apply ite_keepsFst
    | with_reducible apply KeepsFst.fst
    | split
    | dsimp only
    | with_reducible apply KeepsFst.mk

theorem State.loadMem_keeps' {s r t : State} {m : Master} {a : Nat} {size : Nat} {e : MemErr} {y : Loaded} (e : State.loadMem r m a size e = (t, y)) (h : s.Keeps r) :
    s.Keeps t :=
  (State.loadMem_keeps h).elim e

theorem State.load_keeps {s r : State} {m : Master} {a : Nat} {size : Nat} {e : MemErr} (h : s.Keeps r) : KeepsFst s (State.load r m a size e) := by
  unfold State.load
  repeat' first
    | with_reducible assumption
    | with_reducible apply State.busError_keeps
    | with_reducible apply State.loadReg_keeps
    | with_reducible refine State.loadReg_keeps' (by with_reducible assumption) ?_
    | with_reducible apply State.loadMem_keeps
    | with_reducible refine State.loadMem_keeps' (by with_reducible assumption) ?_
    | with_reducible apply ite_keeps
    | with_reducible apply ite_keepsFst
    | with_reducible apply KeepsFst.mk

theorem State.load_keeps' {s r t : State} {m : Master} {a : Nat} {size : Nat} {e : MemErr} {y : Loaded} (e : State.load r m a size e = (t, y)) (h : s.Keeps r) :
    s.Keeps t :=
  (State.load_keeps h).elim e

theorem State.storeReg_keeps {s r : State} {m : Master} {a : Nat} {size : Nat} {v : Nat} (h : s.Keeps r) : KeepsFst s (State.storeReg r m a size v) := by
  unfold State.storeReg
  repeat' first
    | with_reducible assumption
    | with_reducible apply State.busError_keeps
    | with_reducible apply State.regWrite_keeps
    | with_reducible apply ite_keeps
    | with_reducible apply ite_keepsFst
    | split
    | dsimp only
    | with_reducible apply KeepsFst.mk

theorem State.storeReg_keeps' {s r t : State} {m : Master} {a : Nat} {size : Nat} {v : Nat} {y : Stored} (e : State.storeReg r m a size v = (t, y)) (h : s.Keeps r) :
    s.Keeps t :=
  (State.storeReg_keeps h).elim e

theorem State.storeMem_keeps {s r : State} {m : Master} {a : Nat} {size : Nat} {v : Nat} {e : MemErr} (h : s.Keeps r) : KeepsFst s (State.storeMem r m a size v e) := by
  unfold State.storeMem
  repeat' first
    | with_reducible assumption
    | with_reducible apply State.raiseL_keeps
    | with_reducible apply State.busError_keeps
    | with_reducible apply State.nvStore_keeps
    | with_reducible apply State.setBytes_keeps
    | with_reducible apply ite_keeps
    | with_reducible apply ite_keepsFst
    | split
    | dsimp only
    | with_reducible apply KeepsFst.mk

theorem State.storeMem_keeps' {s r t : State} {m : Master} {a : Nat} {size : Nat} {v : Nat} {e : MemErr} {y : Stored} (e : State.storeMem r m a size v e = (t, y)) (h : s.Keeps r) :
    s.Keeps t :=
  (State.storeMem_keeps h).elim e

theorem State.store_keeps {s r : State} {m : Master} {a : Nat} {size : Nat} {v : Nat} {e : MemErr} (h : s.Keeps r) : KeepsFst s (State.store r m a size v e) := by
  unfold State.store
  repeat' first
    | with_reducible assumption
    | with_reducible apply State.busError_keeps
    | with_reducible apply State.storeReg_keeps
    | with_reducible refine State.storeReg_keeps' (by with_reducible assumption) ?_
    | with_reducible apply State.storeMem_keeps
    | with_reducible refine State.storeMem_keeps' (by with_reducible assumption) ?_
    | with_reducible apply ite_keeps
    | with_reducible apply ite_keepsFst
    | with_reducible apply KeepsFst.mk

theorem State.store_keeps' {s r t : State} {m : Master} {a : Nat} {size : Nat} {v : Nat} {e : MemErr} {y : Stored} (e : State.store r m a size v e = (t, y)) (h : s.Keeps r) :
    s.Keeps t :=
  (State.store_keeps h).elim e

theorem State.pushStall_keeps {s r : State} {x : Stall} (h : s.Keeps r) : s.Keeps (State.pushStall r x) := by
  unfold State.pushStall
  repeat' first
    | with_reducible assumption
    | fail_if_no_progress with_reducible apply State.Keeps.mk'

theorem State.busRead_keeps {s r : State} {m : Master} {a : Nat} {size : Nat} {e : MemErr} (h : s.Keeps r) : s.Keeps (State.busRead r m a size e) := by
  unfold State.busRead
  repeat' first
    | with_reducible assumption
    | with_reducible apply State.answer_keeps
    | with_reducible apply State.busError_keeps
    | with_reducible apply State.load_keeps
    | with_reducible refine State.load_keeps' (by with_reducible assumption) ?_
    | with_reducible apply State.pushStall_keeps
    | with_reducible apply ite_keeps
    | split

theorem State.busWrite_keeps {s r : State} {m : Master} {a : Nat} {size : Nat} {v : Nat} {e : MemErr} (h : s.Keeps r) : s.Keeps (State.busWrite r m a size v e) := by
  unfold State.busWrite
  repeat' first
    | with_reducible assumption
    | with_reducible apply State.busError_keeps
    | with_reducible apply State.store_keeps
    | with_reducible refine State.store_keeps' (by with_reducible assumption) ?_
    | with_reducible apply State.pushStall_keeps
    | with_reducible apply ite_keeps
    | split

theorem execSplitReadLow_keeps {s r : State} {m : Master} {a : BitVec 40} (h : s.Keeps r) : KeepsOut s (execSplitReadLow m a r) := by
  unfold execSplitReadLow
  repeat' first
    | with_reducible assumption
    | with_reducible apply State.busRead_keeps
    | with_reducible apply KeepsOut.next

theorem execSplitReadHigh_keeps {s r : State} {m : Master} {a : BitVec 40} (h : s.Keeps r) : KeepsOut s (execSplitReadHigh m a r) := by
  unfold execSplitReadHigh
  repeat' first
    | with_reducible assumption
    | with_reducible apply State.busRead_keeps
    | with_reducible apply KeepsOut.next

theorem execSplitWriteLow_keeps {s r : State} {m : Master} {a : BitVec 40} {v : BitVec 32} (h : s.Keeps r) : KeepsOut s (execSplitWriteLow m a v r) := by
  unfold execSplitWriteLow
  repeat' first
    | with_reducible assumption
    | with_reducible apply State.busWrite_keeps
    | with_reducible apply KeepsOut.next

theorem execSplitWriteHigh_keeps {s r : State} {m : Master} {a : BitVec 40} {v : BitVec 32} (h : s.Keeps r) : KeepsOut s (execSplitWriteHigh m a v r) := by
  unfold execSplitWriteHigh
  repeat' first
    | with_reducible assumption
    | with_reducible apply State.busWrite_keeps
    | with_reducible apply KeepsOut.next

theorem State.registerWrite_keeps {s r : State} {m : Master} {a : Nat} {acc : Access} {v : BitVec 64} (h : s.Keeps r) : s.Keeps (State.registerWrite r m a acc v) := by
  unfold State.registerWrite
  repeat' first
    | with_reducible assumption
    | with_reducible apply State.busWrite_keeps
    | split

theorem execRegisterWrite_keeps {s r : State} {m : Master} {a : BitVec 40} {acc : Access} {v : BitVec 64} (h : s.Keeps r) : KeepsOut s (execRegisterWrite m a acc v r) := by
  unfold execRegisterWrite
  repeat' first
    | with_reducible assumption
    | with_reducible apply State.registerWrite_keeps
    | with_reducible apply KeepsOut.next

theorem State.hostRead_keeps {s r : State} {a : Nat} {size : Nat} {e : MemErr} (h : s.Keeps r) : s.Keeps (State.hostRead r a size e) := by
  unfold State.hostRead
  repeat' first
    | with_reducible assumption
    | with_reducible apply State.send_keeps
    | with_reducible apply State.busRead_keeps
    | with_reducible apply State.hostFrame_keeps
    | with_reducible apply State.draw_keeps
    | with_reducible refine State.draw_keeps' (by with_reducible assumption) ?_
    | with_reducible apply ite_keeps
    | with_reducible apply ite_keepsFst
    | with_reducible apply KeepsFst.fst
    | split
    | dsimp only
    | fail_if_no_progress with_reducible apply State.Keeps.mk'

theorem State.hostWrite_keeps {s r : State} {a : Nat} {size : Nat} {v : Nat} {e : MemErr} (h : s.Keeps r) : s.Keeps (State.hostWrite r a size v e) := by
  unfold State.hostWrite
  repeat' first
    | with_reducible assumption
    | with_reducible apply State.send_keeps
    | with_reducible apply State.busWrite_keeps
    | with_reducible apply State.hostFrame_keeps
    | with_reducible apply ite_keeps
    | fail_if_no_progress with_reducible apply State.Keeps.mk'

theorem State.hostFrame_keeps {s r : State} {f : HostFrame} {cmd : Byte} {need : Nat} {g : State → State} (h : s.Keeps r) (hg : ∀ t, s.Keeps t → s.Keeps (g t)) : s.Keeps (State.hostFrame r f cmd need g) := by
  unfold State.hostFrame
  repeat' first
    | with_reducible assumption
    | intro _
    | with_reducible apply State.send_keeps
    | with_reducible apply hg
    | with_reducible apply ite_keeps

theorem execHostRead64_keeps {s r : State} {f : HostFrame} {e : MemErr} (h : s.Keeps r) : KeepsOut s (execHostRead64 f e r) := by
  unfold execHostRead64
  repeat' first
    | with_reducible assumption
    | intro _
    | with_reducible apply State.hostRead_keeps
    | with_reducible apply State.hostFrame_keeps
    | with_reducible apply KeepsOut.next

theorem execHostRead32_keeps {s r : State} {f : HostFrame} {e : MemErr} (h : s.Keeps r) : KeepsOut s (execHostRead32 f e r) := by
  unfold execHostRead32
  repeat' first
    | with_reducible assumption
    | intro _
    | with_reducible apply State.hostRead_keeps
    | with_reducible apply State.hostFrame_keeps
    | with_reducible apply KeepsOut.next

theorem execHostWrite64_keeps {s r : State} {f : HostFrame} {v : BitVec 64} (h : s.Keeps r) : KeepsOut s (execHostWrite64 f v r) := by
  unfold execHostWrite64
  repeat' first
    | with_reducible assumption
    | intro _
    | with_reducible apply State.hostWrite_keeps
    | with_reducible apply State.hostFrame_keeps
    | with_reducible apply KeepsOut.next

theorem execHostWrite32_keeps {s r : State} {f : HostFrame} {v : BitVec 32} {e : MemErr} (h : s.Keeps r) : KeepsOut s (execHostWrite32 f v e r) := by
  unfold execHostWrite32
  repeat' first
    | with_reducible assumption
    | intro _
    | with_reducible apply State.hostWrite_keeps
    | with_reducible apply State.hostFrame_keeps
    | with_reducible apply KeepsOut.next

theorem State.phaseEnd_keeps {s r : State} {f : State → State} (h : s.Keeps r) (hf : ∀ t, s.Keeps t → s.Keeps (f t)) : s.Keeps (State.phaseEnd r f) := by
  unfold State.phaseEnd
  repeat' first
    | with_reducible assumption
    | intro _
    | with_reducible apply hf
    | with_reducible apply ite_keeps
    | fail_if_no_progress with_reducible apply State.Keeps.mk'

theorem State.bootLogWrite_keeps {s r : State} (h : s.Keeps r) : s.Keeps (State.bootLogWrite r) := by
  unfold State.bootLogWrite
  repeat' first
    | with_reducible assumption
    | with_reducible apply State.put_keeps
    | with_reducible apply State.nvWrite_keeps
    | fail_if_no_progress with_reducible apply State.Keeps.mk'

theorem State.bootRecordWrite_keeps {s r : State} (h : s.Keeps r) : s.Keeps (State.bootRecordWrite r) := by
  unfold State.bootRecordWrite
  repeat' first
    | with_reducible assumption
    | intro _
    | with_reducible apply State.nvWrite_keeps

theorem State.mbxConfig_keeps {s r : State} {m : Nat} {epa : Nat} {epb : Nat} (h : s.Keeps r) : s.Keeps (State.mbxConfig r m epa epb) := by
  unfold State.mbxConfig
  repeat' first
    | with_reducible assumption
    | with_reducible apply State.setReg_keeps
    | with_reducible apply State.setSide_keeps
    | with_reducible apply State.mbxAbort_keeps
    | with_reducible apply ite_keeps

theorem State.trustClear_keeps {s r : State} (h : s.Keeps r) : s.Keeps (State.trustClear r) := by
  unfold State.trustClear
  repeat' first
    | with_reducible assumption
    | intro _
    | with_reducible apply State.setReg_keeps
    | with_reducible apply State.each_keeps

theorem State.bootFail_keeps {s r : State} (h : s.Keeps r) : s.Keeps (State.bootFail r) := by
  unfold State.bootFail
  repeat' first
    | with_reducible assumption
    | intro _
    | with_reducible apply State.put_keeps
    | with_reducible apply State.each_keeps
    | with_reducible apply State.when_keeps
    | with_reducible apply State.raiseL_keeps
    | with_reducible apply State.setCore_keeps
    | with_reducible apply State.holdCore_keeps
    | with_reducible apply State.endpointReset_keeps
    | with_reducible apply State.setSecQueue_keeps
    | with_reducible apply State.bootLogWrite_keeps
    | with_reducible apply State.mbxConfig_keeps
    | with_reducible apply State.trustClear_keeps
    | intro _
    | with_reducible apply State.Keeps.snd
    | with_reducible apply ite_snd
    | with_reducible apply Snd.mk'
    | with_reducible apply Snd.reset
    | with_reducible apply Snd.out
    | with_reducible apply Snd.psrWrite
    | dsimp only
    | fail_if_no_progress with_reducible apply State.Keeps.mk'

theorem State.exitRecord_keeps {s r : State} {code : Nat} (h : s.Keeps r) : s.Keeps (State.exitRecord r code) := by
  unfold State.exitRecord
  repeat' first
    | with_reducible assumption
    | with_reducible apply State.put_keeps
    | with_reducible apply ite_keeps

theorem State.wakePollStart_keeps {s r : State} (h : s.Keeps r) : s.Keeps (State.wakePollStart r) := by
  unfold State.wakePollStart
  repeat' first
    | with_reducible assumption
    | with_reducible apply State.pollRequest_keeps
    | split
    | dsimp only
    | fail_if_no_progress with_reducible apply State.Keeps.mk'

theorem State.zsReports_keeps {s r : State} (h : s.Keeps r) : s.Keeps (State.zsReports r) := by
  unfold State.zsReports
  repeat' first
    | with_reducible assumption
    | with_reducible apply State.wakePollStart_keeps
    | with_reducible apply ite_keeps
    | fail_if_no_progress with_reducible apply State.Keeps.mk'

theorem State.noCandidate_keeps {s r : State} (h : s.Keeps r) : s.Keeps (State.noCandidate r) := by
  unfold State.noCandidate
  repeat' first
    | with_reducible assumption
    | with_reducible apply State.bootFail_keeps
    | with_reducible apply State.zsReports_keeps
    | with_reducible apply ite_keeps
    | fail_if_no_progress with_reducible apply State.Keeps.mk'

theorem tryCandidates_keeps {s r : State} {l : List Nat} {p : Nat} (h : s.Keeps r) : s.Keeps (tryCandidates l p r) := by
  induction l generalizing r p with
  | nil => exact State.noCandidate_keeps h
  | cons k l ih =>
    unfold tryCandidates
    exact ite_keeps (State.xspiShow_keeps (State.put_keeps (State.put_keeps (State.Keeps.mk' h)))) (ih (State.exitRecord_keeps (State.Keeps.mk' h)))

theorem State.candidateExit_keeps {s r : State} {code : Nat} (h : s.Keeps r) : s.Keeps (State.candidateExit r code) := by
  unfold State.candidateExit
  repeat' first
    | with_reducible assumption
    | with_reducible apply State.exitRecord_keeps
    | with_reducible apply tryCandidates_keeps

theorem State.bootBegin_keeps {s r : State} {kind : Nat} (h : s.Keeps r) : s.Keeps (State.bootBegin r kind) := by
  unfold State.bootBegin
  repeat' first
    | with_reducible assumption
    | with_reducible apply State.bootAfterReset_keeps
    | with_reducible apply State.recoveryStart_keeps
    | with_reducible apply State.wakeReady_keeps
    | with_reducible apply State.porRelease_keeps
    | with_reducible apply ite_keeps

theorem execBootstrapStart_keeps {s r : State} {kind : Fin 4} (h : s.Keeps r) : KeepsOut s (execBootstrapStart kind r) := by
  unfold execBootstrapStart
  repeat' first
    | with_reducible assumption
    | with_reducible apply State.bootBegin_keeps
    | with_reducible apply KeepsOut.next

theorem State.headersRead_keeps {s r : State} (h : s.Keeps r) : s.Keeps (State.headersRead r) := by
  unfold State.headersRead
  repeat' first
    | with_reducible assumption
    | intro _
    | with_reducible apply State.phaseEnd_keeps
    | with_reducible apply tryCandidates_keeps
    | with_reducible apply ite_keeps
    | fail_if_no_progress with_reducible apply State.Keeps.mk'

theorem State.bootRecordRead_keeps {s r : State} {ok : Bool} (h : s.Keeps r) : s.Keeps (State.bootRecordRead r ok) := by
  unfold State.bootRecordRead
  repeat' first
    | with_reducible assumption
    | intro _
    | with_reducible apply State.phaseEnd_keeps
    | with_reducible apply tryCandidates_keeps
    | with_reducible apply ite_keeps
    | fail_if_no_progress with_reducible apply State.Keeps.mk'

theorem execBsqHeaderReadDone_keeps {s r : State} (h : s.Keeps r) : KeepsOut s (execBsqHeaderReadDone r) := by
  unfold execBsqHeaderReadDone
  repeat' first
    | with_reducible assumption
    | with_reducible apply State.headersRead_keeps
    | with_reducible apply KeepsOut.next

theorem State.imageRead_keeps {s r : State} {us : Nat} {errors : List (Nat × Byte)} {again : List (List (Nat × Byte))} (h : s.Keeps r) : s.Keeps (State.imageRead r us errors again) := by
  unfold State.imageRead
  repeat' first
    | with_reducible assumption
    | intro _
    | with_reducible apply State.put_keeps
    | with_reducible apply State.putB_keeps
    | with_reducible apply State.imageShow_keeps
    | with_reducible apply State.phaseEnd_keeps
    | with_reducible apply State.zsReports_keeps
    | with_reducible apply State.candidateExit_keeps
    | with_reducible apply State.setBytes_keeps
    | with_reducible apply ite_keeps

theorem State.rehash_keeps {s r : State} (h : s.Keeps r) : s.Keeps (State.rehash r) := by
  unfold State.rehash
  repeat' first
    | with_reducible assumption
    | intro _
    | with_reducible apply State.put_keeps
    | with_reducible apply State.raiseBit_keeps
    | with_reducible apply State.each_keeps
    | with_reducible apply State.raiseL_keeps
    | with_reducible apply State.drawEcc_keeps
    | with_reducible refine State.drawEcc_keeps' (by with_reducible assumption) ?_
    | with_reducible apply State.dmaEcc_keeps
    | with_reducible apply State.holdCore_keeps
    | with_reducible apply State.endpointReset_keeps
    | with_reducible apply State.xspiShow_keeps
    | with_reducible apply ite_keeps
    | with_reducible apply ite_keepsFst
    | with_reducible apply KeepsFst.fst
    | fail_if_no_progress with_reducible apply State.Keeps.mk'

theorem execBsqImageReadDone_keeps {s r : State} {us : BitVec 32} {errors : List (Nat × Byte)} {again : List (List (Nat × Byte))} (h : s.Keeps r) : KeepsOut s (execBsqImageReadDone us errors again r) := by
  unfold execBsqImageReadDone
  repeat' first
    | with_reducible assumption
    | intro _
    | with_reducible apply State.phaseEnd_keeps
    | with_reducible apply State.imageRead_keeps
    | with_reducible apply State.rehash_keeps
    | with_reducible apply ite_keeps
    | with_reducible apply ite_keepsOut
    | with_reducible apply KeepsOut.next

theorem State.zsVerdict_keeps {s r : State} (h : s.Keeps r) : s.Keeps (State.zsVerdict r) := by
  unfold State.zsVerdict
  repeat' first
    | with_reducible assumption
    | intro _
    | with_reducible apply State.put_keeps
    | with_reducible apply State.phaseEnd_keeps
    | with_reducible apply State.candidateExit_keeps
    | with_reducible apply ite_keeps

theorem execZsSignatureVerdict_keeps {s r : State} {verified : Bool} (h : s.Keeps r) : KeepsOut s (execZsSignatureVerdict verified r) := by
  unfold execZsSignatureVerdict
  repeat' first
    | with_reducible assumption
    | with_reducible apply State.zsVerdict_keeps
    | with_reducible apply ite_keeps
    | with_reducible apply ite_keepsOut
    | with_reducible apply KeepsOut.next

theorem execZsTimeout_keeps {s r : State} (h : s.Keeps r) : KeepsOut s (execZsTimeout r) := by
  unfold execZsTimeout
  repeat' first
    | with_reducible assumption
    | intro _
    | with_reducible apply State.phaseEnd_keeps
    | with_reducible apply State.bootFail_keeps
    | with_reducible apply State.exitRecord_keeps
    | with_reducible apply ite_keeps
    | with_reducible apply ite_keepsOut
    | with_reducible apply KeepsOut.next

theorem State.layoutRegs_keeps {s r : State} {rd : Nat → Byte} {half : Nat} (h : s.Keeps r) : s.Keeps (State.layoutRegs r rd half) := by
  unfold State.layoutRegs
  repeat' first
    | with_reducible assumption
    | intro _
    | with_reducible apply State.setReg_keeps
    | with_reducible apply State.put_keeps
    | with_reducible apply State.putB_keeps
    | with_reducible apply State.each_keeps
    | with_reducible apply State.setEntry_keeps
    | with_reducible apply ite_keeps
    | split
    | dsimp only
    | fail_if_no_progress with_reducible apply State.Keeps.mk'
    | exact .inl rfl
    | exact .inr rfl
    | with_reducible apply State.Keeps.mkCpu

theorem State.nvRegs_keeps {s r : State} {rd : Nat → Byte} (h : s.Keeps r) : s.Keeps (State.nvRegs r rd) := by
  unfold State.nvRegs
  repeat' first
    | with_reducible assumption
    | intro _
    | with_reducible apply State.setReg_keeps
    | with_reducible apply State.put_keeps
    | with_reducible apply State.each_keeps
    | with_reducible apply foldl_keeps
    | with_reducible apply foldl_keepsFst
    | split

theorem State.fillMemory_keeps {s r : State} {rd : Nat → Byte} {half : Nat} (h : s.Keeps r) : s.Keeps (State.fillMemory r rd half) := by
  unfold State.fillMemory
  repeat' first
    | with_reducible assumption
    | intro _
    | with_reducible apply State.each_keeps
    | with_reducible apply State.when_keeps
    | with_reducible apply State.zeroRange_keeps
    | with_reducible apply State.writeTables_keeps
    | with_reducible apply State.setBytes_keeps
    | with_reducible apply ite_keeps
    | split

theorem State.msgRamRegs_keeps {s r : State} {rd : Nat → Byte} (h : s.Keeps r) : s.Keeps (State.msgRamRegs r rd) := by
  unfold State.msgRamRegs
  repeat' first
    | with_reducible assumption
    | intro _
    | with_reducible apply State.put_keeps
    | with_reducible apply State.each_keeps

theorem State.mailboxRegs_keeps {s r : State} {rd : Nat → Byte} (h : s.Keeps r) : s.Keeps (State.mailboxRegs r rd) := by
  unfold State.mailboxRegs
  repeat' first
    | with_reducible assumption
    | intro _
    | with_reducible apply State.each_keeps
    | with_reducible apply State.mbxConfig_keeps

theorem State.trustRegs_keeps {s r : State} {rd : Nat → Byte} (h : s.Keeps r) : s.Keeps (State.trustRegs r rd) := by
  unfold State.trustRegs
  repeat' first
    | with_reducible assumption
    | intro _
    | with_reducible apply State.put_keeps
    | with_reducible apply State.each_keeps
    | with_reducible apply State.trustClear_keeps
    | with_reducible apply ite_keeps
    | split

theorem State.recordRegs_keeps {s r : State} {rd : Nat → Byte} (h : s.Keeps r) : s.Keeps (State.recordRegs r rd) := by
  unfold State.recordRegs
  repeat' first
    | with_reducible assumption
    | with_reducible apply State.put_keeps
    | with_reducible apply State.nvRegs_keeps
    | with_reducible apply State.msgRamRegs_keeps
    | with_reducible apply State.mailboxRegs_keeps
    | with_reducible apply State.trustRegs_keeps
    | with_reducible apply ite_keeps

theorem State.bsqRead_keeps {s r : State} {a : Nat} (h : s.Keeps r) : KeepsFst s (State.bsqRead r a) := by
  unfold State.bsqRead
  repeat' first
    | with_reducible assumption
    | with_reducible apply State.regRead_keeps
    | split
    | dsimp only
    | fail_if_no_progress with_reducible apply State.Keeps.mk'
    | with_reducible apply KeepsFst.mk

theorem State.bsqRead_keeps' {s r t : State} {a : Nat} {y : BitVec 64} (e : State.bsqRead r a = (t, y)) (h : s.Keeps r) :
    s.Keeps t :=
  (State.bsqRead_keeps h).elim e

theorem State.bsqStore_keeps {s r : State} {a : Nat} {v : BitVec 64} (h : s.Keeps r) : KeepsFst s (State.bsqStore r a v) := by
  unfold State.bsqStore
  repeat' first
    | with_reducible assumption
    | intro _
    | with_reducible apply State.bsqWrite_keeps
    | with_reducible refine State.bsqWrite_keeps' (by with_reducible assumption) ?_
    | with_reducible apply KeepsFst.fst
    | split
    | dsimp only
    | fail_if_no_progress with_reducible apply State.Keeps.mk'

theorem State.bsqStore_keeps' {s r t : State} {a : Nat} {v : BitVec 64} {y : Bool} (e : State.bsqStore r a v = (t, y)) (h : s.Keeps r) :
    s.Keeps t :=
  (State.bsqStore_keeps h).elim e

theorem State.regEntry_keeps {s r : State} {op : Nat} {a : Nat} {v : Nat} (h : s.Keeps r) : KeepsFst s (State.regEntry r op a v) := by
  unfold State.regEntry
  repeat' first
    | with_reducible assumption
    | with_reducible apply State.bsqRead_keeps
    | with_reducible refine State.bsqRead_keeps' (by with_reducible assumption) ?_
    | with_reducible apply State.bsqStore_keeps
    | with_reducible refine State.bsqStore_keeps' (by with_reducible assumption) ?_
    | with_reducible apply ite_keeps
    | with_reducible apply ite_keepsFst
    | with_reducible apply KeepsFst.fst
    | with_reducible apply KeepsFst.mk

theorem State.regEntry_keeps' {s r t : State} {op : Nat} {a : Nat} {v : Nat} {y : Bool} (e : State.regEntry r op a v = (t, y)) (h : s.Keeps r) :
    s.Keeps t :=
  (State.regEntry_keeps h).elim e

theorem regsRun_keeps {s r : State} {l : List (Nat × Nat × Nat)} (h : s.Keeps r) : KeepsFst s (regsRun l r) := by
  induction l generalizing r with
  | nil => exact h
  | cons x l ih =>
    obtain ⟨op, a, v⟩ := x
    unfold regsRun
    exact ite_keepsFst h (ite_keepsFst h (ite_keepsFst (State.regEntry_keeps h).fst (ih (State.regEntry_keeps h).fst)))

theorem regsRun_keeps' {s r t : State} {l : List (Nat × Nat × Nat)} {y : RegsEnd} (e : regsRun l r = (t, y)) (h : s.Keeps r) :
    s.Keeps t := (regsRun_keeps h).elim e

theorem State.blocksReset_keeps {s r : State} (h : s.Keeps r) : s.Keeps (State.blocksReset r) := by
  unfold State.blocksReset
  repeat' first
    | with_reducible assumption
    | intro _
    | with_reducible apply State.chainsStop_keeps
    | with_reducible apply State.keysShow_keeps
    | with_reducible apply State.dropRegs_keeps
    | with_reducible apply State.degradedShow_keeps
    | with_reducible apply KeepsFst.fst
    | fail_if_no_progress with_reducible apply State.Keeps.mk'

theorem State.substitute_keeps {s r : State} {n : Nat} (h : s.Keeps r) : s.Keeps (State.substitute r n) := by
  unfold State.substitute
  repeat' first
    | with_reducible assumption
    | with_reducible apply State.setReg_keeps
    | with_reducible apply State.put_keeps
    | with_reducible apply State.raiseBit_keeps
    | with_reducible apply State.setHsc_keeps
    | with_reducible apply State.raiseP_keeps
    | with_reducible apply State.hswEval_keeps

theorem State.spares_keeps {s r : State} (h : s.Keeps r) : s.Keeps (State.spares r) := by
  unfold State.spares
  repeat' first
    | with_reducible assumption
    | intro _
    | with_reducible apply State.each_keeps
    | with_reducible apply State.when_keeps
    | with_reducible apply State.substitute_keeps

theorem State.inrushStart_keeps {s r : State} (h : s.Keeps r) : s.Keeps (State.inrushStart r) := by
  unfold State.inrushStart
  repeat' first
    | with_reducible assumption
    | intro _
    | with_reducible apply State.put_keeps
    | with_reducible apply State.raiseBit_keeps
    | with_reducible apply State.each_keeps
    | with_reducible apply State.hswEnqueue_keeps
    | with_reducible apply ite_keeps
    | split
    | dsimp only
    | fail_if_no_progress with_reducible apply State.Keeps.mk'

theorem State.recoveryRelease_keeps {s r : State} (h : s.Keeps r) : s.Keeps (State.recoveryRelease r) := by
  unfold State.recoveryRelease
  repeat' first
    | with_reducible assumption
    | with_reducible apply State.limpRelease_keeps
    | with_reducible apply ite_keeps

theorem State.buildTail_keeps {s r : State} (h : s.Keeps r) : s.Keeps (State.buildTail r) := by
  unfold State.buildTail
  repeat' first
    | with_reducible assumption
    | intro _
    | with_reducible apply State.when_keeps
    | with_reducible apply State.spares_keeps
    | with_reducible apply State.inrushStart_keeps
    | with_reducible apply State.recoveryRelease_keeps
    | fail_if_no_progress with_reducible apply State.Keeps.mk'

theorem State.regsFrom_keeps {s r : State} {l : List (Nat × Nat × Nat)} (h : s.Keeps r) : s.Keeps (State.regsFrom r l) := by
  unfold State.regsFrom
  repeat' first
    | with_reducible assumption
    | with_reducible apply State.candidateExit_keeps
    | with_reducible apply regsRun_keeps
    | with_reducible refine regsRun_keeps' (by with_reducible assumption) ?_
    | with_reducible apply State.blocksReset_keeps
    | with_reducible apply State.buildTail_keeps
    | split
    | dsimp only
    | fail_if_no_progress with_reducible apply State.Keeps.mk'

theorem State.recordsFrom_keeps {s r : State} (h : s.Keeps r) : s.Keeps (State.recordsFrom r) := by
  unfold State.recordsFrom
  repeat' first
    | with_reducible assumption
    | intro _
    | with_reducible apply State.recordRegs_keeps
    | with_reducible apply State.regsFrom_keeps
    | with_reducible apply ite_keeps
    | with_reducible apply ite_keepsFst
    | with_reducible apply KeepsFst.fst
    | fail_if_no_progress with_reducible apply State.Keeps.mk'

theorem State.bsqResume_keeps {s r : State} {d : Nat} (h : s.Keeps r) : s.Keeps (State.bsqResume r d) := by
  unfold State.bsqResume
  repeat' first
    | with_reducible assumption
    | intro _
    | with_reducible apply State.phaseEnd_keeps
    | with_reducible apply State.bootRecordRead_keeps
    | with_reducible apply State.regsFrom_keeps
    | with_reducible apply State.recordsFrom_keeps
    | with_reducible apply ite_keeps
    | fail_if_no_progress with_reducible apply State.Keeps.mk'

theorem State.bsqStallFails_keeps {s r : State} {d : Nat} (h : s.Keeps r) : s.Keeps (State.bsqStallFails r d) := by
  unfold State.bsqStallFails
  repeat' first
    | with_reducible assumption
    | intro _
    | with_reducible apply State.phaseEnd_keeps
    | with_reducible apply State.candidateExit_keeps
    | with_reducible apply State.bootRecordRead_keeps
    | with_reducible apply State.blocksReset_keeps
    | with_reducible apply ite_keeps
    | fail_if_no_progress with_reducible apply State.Keeps.mk'

theorem State.build_keeps {s r : State} (h : s.Keeps r) : s.Keeps (State.build r) := by
  unfold State.build
  repeat' first
    | with_reducible assumption
    | with_reducible apply State.drawEcc_keeps
    | with_reducible refine State.drawEcc_keeps' (by with_reducible assumption) ?_
    | with_reducible apply State.dmaEcc_keeps
    | with_reducible apply State.candidateExit_keeps
    | with_reducible apply State.layoutRegs_keeps
    | with_reducible apply State.fillMemory_keeps
    | with_reducible apply State.recordsFrom_keeps
    | with_reducible apply ite_keeps
    | with_reducible apply ite_keepsFst
    | with_reducible apply KeepsFst.fst

theorem execBsqBuildDone_keeps {s r : State} (h : s.Keeps r) : KeepsOut s (execBsqBuildDone r) := by
  unfold execBsqBuildDone
  repeat' first
    | with_reducible assumption
    | intro _
    | with_reducible apply State.phaseEnd_keeps
    | with_reducible apply State.build_keeps
    | with_reducible apply ite_keeps
    | with_reducible apply ite_keepsOut
    | with_reducible apply KeepsOut.next

theorem execRegsWaitEnd_keeps {s r : State} (h : s.Keeps r) : KeepsOut s (execRegsWaitEnd r) := by
  unfold execRegsWaitEnd
  repeat' first
    | with_reducible assumption
    | intro _
    | with_reducible apply State.phaseEnd_keeps
    | with_reducible apply State.regsFrom_keeps
    | with_reducible apply ite_keeps
    | with_reducible apply ite_keepsOut
    | with_reducible apply KeepsOut.next
    | fail_if_no_progress with_reducible apply State.Keeps.mk'

theorem State.inrushEnd_keeps {s r : State} (h : s.Keeps r) : s.Keeps (State.inrushEnd r) := by
  unfold State.inrushEnd
  repeat' first
    | with_reducible assumption
    | intro _
    | with_reducible apply State.put_keeps
    | with_reducible apply State.each_keeps
    | with_reducible apply State.freeHandle_keeps
    | with_reducible apply State.inrushCut_keeps
    | with_reducible apply State.cancelHandle_keeps
    | with_reducible apply KeepsFst.fst
    | split
    | dsimp only
    | fail_if_no_progress with_reducible apply State.Keeps.mk'

theorem State.afterRelease_keeps {s r : State} (h : s.Keeps r) : s.Keeps (State.afterRelease r) := by
  unfold State.afterRelease
  repeat' first
    | with_reducible assumption
    | intro _
    | with_reducible apply State.put_keeps
    | with_reducible apply State.raiseBit_keeps
    | with_reducible apply State.each_keeps
    | with_reducible apply State.when_keeps
    | with_reducible apply State.resumeWindows_keeps
    | with_reducible apply State.setGtAvail_keeps
    | with_reducible apply State.wdStart_keeps
    | with_reducible apply State.setPhase_keeps
    | with_reducible apply State.pmuActDone_keeps
    | with_reducible apply State.pmuPendStart_keeps
    | with_reducible apply State.bootStart_keeps
    | with_reducible apply State.heldReact_keeps
    | with_reducible apply State.recoveryEnd_keeps
    | with_reducible apply ite_keeps
    | fail_if_no_progress with_reducible apply State.Keeps.mk'

theorem State.release__keeps {s r : State} (h : s.Keeps r) : s.Keeps (State.release_ r) := by
  unfold State.release_
  repeat' first
    | with_reducible assumption
    | intro _
    | with_reducible apply State.put_keeps
    | with_reducible apply State.raiseBit_keeps
    | with_reducible apply State.each_keeps
    | with_reducible apply State.when_keeps
    | with_reducible apply State.raiseL_keeps
    | with_reducible apply State.releaseCore_keeps
    | with_reducible apply State.bootLogWrite_keeps
    | with_reducible apply State.bootRecordWrite_keeps
    | with_reducible apply State.inrushEnd_keeps
    | with_reducible apply State.afterRelease_keeps
    | fail_if_no_progress with_reducible apply State.Keeps.mk'

theorem execCoreRelease_keeps {s r : State} (h : s.Keeps r) : KeepsOut s (execCoreRelease r) := by
  unfold execCoreRelease
  repeat' first
    | with_reducible assumption
    | intro _
    | with_reducible apply State.phaseEnd_keeps
    | with_reducible apply State.release__keeps
    | with_reducible apply ite_keeps
    | with_reducible apply ite_keepsOut
    | with_reducible apply KeepsOut.next

theorem State.bootRetry_keeps {s r : State} (h : s.Keeps r) : s.Keeps (State.bootRetry r) := by
  unfold State.bootRetry
  repeat' first
    | with_reducible assumption
    | intro _
    | with_reducible apply State.put_keeps
    | with_reducible apply State.when_keeps
    | with_reducible apply State.bootClear_keeps
    | with_reducible apply State.xspiShow_keeps
    | with_reducible apply State.phaseEnd_keeps
    | with_reducible apply ite_keeps
    | fail_if_no_progress with_reducible apply State.Keeps.mk'

theorem execBootRetry_keeps {s r : State} (h : s.Keeps r) : KeepsOut s (execBootRetry r) := by
  unfold execBootRetry
  repeat' first
    | with_reducible assumption
    | with_reducible apply State.bootRetry_keeps
    | with_reducible apply KeepsOut.next

end Sys2Proof.Machine
end

