-- ==== Sys2Proof/Laws/Keeps23.lean ====
section
/-!
SUPPORT. What the operations and meanings of Machine/IntOps, CpuOps, CpuData keep, one lemma each (State.Keeps).
-/

namespace Sys2Proof.Machine

theorem State.icAck_keeps {s r : State} {e : Nat} (h : s.Keeps r) : KeepsFst s (State.icAck r e) := by
  unfold State.icAck
  repeat' first
    | with_reducible assumption
    | with_reducible apply State.setCore_keeps
    | with_reducible apply State.draw_keeps
    | with_reducible refine State.draw_keeps' (by with_reducible assumption) ?_
    | intro _
    | with_reducible apply State.Keeps.snd
    | with_reducible apply ite_snd
    | with_reducible apply Snd.mk'
    | with_reducible apply Snd.reset
    | with_reducible apply Snd.out
    | with_reducible apply Snd.psrWrite
    | dsimp only
    | with_reducible apply ite_keeps
    | with_reducible apply ite_keepsFst
    | with_reducible apply KeepsFst.fst
    | split
    | dsimp only
    | fail_if_no_progress with_reducible apply State.Keeps.mk'
    | with_reducible apply KeepsFst.mk

theorem State.icAck_keeps' {s r t : State} {e : Nat} {y : Nat} (e : State.icAck r e = (t, y)) (h : s.Keeps r) :
    s.Keeps t :=
  (State.icAck_keeps h).elim e

theorem State.icEoi_keeps {s r : State} {e : Nat} (h : s.Keeps r) : s.Keeps (State.icEoi r e) := by
  unfold State.icEoi
  repeat' first
    | with_reducible assumption
    | with_reducible apply State.setCore_keeps
    | with_reducible apply State.draw_keeps
    | with_reducible refine State.draw_keeps' (by with_reducible assumption) ?_
    | intro _
    | with_reducible apply State.Keeps.snd
    | with_reducible apply ite_snd
    | with_reducible apply Snd.mk'
    | with_reducible apply Snd.reset
    | with_reducible apply Snd.out
    | with_reducible apply Snd.psrWrite
    | dsimp only
    | with_reducible apply KeepsFst.fst
    | split

theorem State.takeExc_keeps {s r : State} {e : Nat} {c : Core} {vec detail : Nat} {eva : Option Nat} (h : s.Keeps r)
    (hc : Snd s c) : s.Keeps (r.takeExc e c vec detail eva) := by
  have hl : ∀ l : s.Legal, (c.excTarget vec detail).1 ≤ 2 := by
    intro l
    have := (hc.sound l).level
    have hm : max (if (vec == vMcall || vec == vMachineCheck) = true then 2 else 1) c.level ≤ 2 := by
      have : (if (vec == vMcall || vec == vMachineCheck) = true then 2 else 1) ≤ 2 := by split <;> decide
      omega
    unfold Core.excTarget
    generalize max (if (vec == vMcall || vec == vMachineCheck) = true then 2 else 1) c.level = m at hm
    dsimp only
    split
    · exact Nat.le_refl 2
    · exact hm
  unfold State.takeExc
  split
  · exact State.raiseL_keeps (State.setCore_keeps h hc.mk')
  · dsimp only
    split
    · exact State.setCore_keeps h ⟨fun l => (hc.sound l).enter_legal (hl l)⟩
    · exact State.setCore_keeps (State.draw_keeps h) ⟨fun l => (hc.sound l).enter_legal (hl l)⟩

theorem State.usePte_keeps {s r : State} {c : Core} {va : Nat} {pte : BitVec 64} {k : AccKind} (h : s.Keeps r) : KeepsFst s (State.usePte r c va pte k) := by
  unfold State.usePte
  repeat' first
    | with_reducible assumption
    | with_reducible apply State.draw_keeps
    | with_reducible refine State.draw_keeps' (by with_reducible assumption) ?_
    | with_reducible apply KeepsFst.fst
    | split
    | dsimp only
    | with_reducible apply KeepsFst.mk

theorem State.usePte_keeps' {s r t : State} {c : Core} {va : Nat} {pte : BitVec 64} {k : AccKind} {y : Translated} (e : State.usePte r c va pte k = (t, y)) (h : s.Keeps r) :
    s.Keeps t :=
  (State.usePte_keeps h).elim e

theorem State.translate_keeps {s r : State} {e : Nat} {va : Nat} {k : AccKind} {w : MemErr} (h : s.Keeps r) : KeepsFst s (State.translate r e va k w) := by
  unfold State.translate
  repeat' first
    | with_reducible assumption
    | intro _
    | with_reducible apply State.raiseL_keeps
    | with_reducible apply State.setCore_keeps
    | with_reducible apply State.usePte_keeps
    | with_reducible refine State.usePte_keeps' (by with_reducible assumption) ?_
    | with_reducible apply Core.cache_snd
    | with_reducible apply State.draw_keeps
    | with_reducible refine State.draw_keeps' (by with_reducible assumption) ?_
    | intro _
    | with_reducible apply State.Keeps.snd
    | with_reducible apply ite_snd
    | with_reducible apply Snd.mk'
    | with_reducible apply Snd.reset
    | with_reducible apply Snd.out
    | with_reducible apply Snd.psrWrite
    | dsimp only
    | with_reducible apply ite_keeps
    | with_reducible apply ite_keepsFst
    | with_reducible apply KeepsFst.fst
    | split
    | dsimp only
    | with_reducible apply KeepsFst.mk

theorem State.translate_keeps' {s r t : State} {e : Nat} {va : Nat} {k : AccKind} {w : MemErr} {y : Translated} (e : State.translate r e va k w = (t, y)) (h : s.Keeps r) :
    s.Keeps t :=
  (State.translate_keeps h).elim e

theorem State.fetchWord_keeps {s r : State} {e : Nat} {a : Nat} {x : MemErr} {w : MemErr} (h : s.Keeps r) : KeepsFst s (State.fetchWord r e a x w) := by
  unfold State.fetchWord
  repeat' first
    | with_reducible assumption
    | with_reducible apply State.raiseL_keeps
    | with_reducible apply State.translate_keeps
    | with_reducible refine State.translate_keeps' (by with_reducible assumption) ?_
    | with_reducible apply ite_keeps
    | with_reducible apply ite_keepsFst
    | split
    | dsimp only
    | with_reducible apply KeepsFst.mk

theorem State.fetchWord_keeps' {s r t : State} {e : Nat} {a : Nat} {x : MemErr} {w : MemErr} {y : Check} (e : State.fetchWord r e a x w = (t, y)) (h : s.Keeps r) :
    s.Keeps t :=
  (State.fetchWord_keeps h).elim e

theorem State.fetchAll_keeps {s r' : State} {e : Nat} {len : Nat} {r : CoreRun} (h : s.Keeps r') : KeepsFst s (State.fetchAll r' e len r) := by
  unfold State.fetchAll
  repeat' first
    | with_reducible assumption
    | with_reducible apply State.fetchWord_keeps
    | with_reducible refine State.fetchWord_keeps' (by with_reducible assumption) ?_
    | with_reducible apply ite_keeps
    | with_reducible apply ite_keepsFst
    | with_reducible apply KeepsFst.fst
    | split
    | dsimp only
    | with_reducible apply KeepsFst.mk

theorem State.fetchAll_keeps' {s r' t : State} {e : Nat} {len : Nat} {r : CoreRun} {y : Option (Nat × Nat × Nat)} (e : State.fetchAll r' e len r = (t, y)) (h : s.Keeps r') :
    s.Keeps t :=
  (State.fetchAll_keeps h).elim e

theorem State.instr_keeps {s r' : State} {r : CoreRun} {len : Nat} {f : State → Nat → State} (h : s.Keeps r') (hf : ∀ t x, s.Keeps t → s.Keeps (f t x)) : s.Keeps (State.instr r' r len f) := by
  unfold State.instr
  repeat' first
    | with_reducible assumption
    | intro _
    | with_reducible apply State.takeExc_keeps
    | with_reducible apply State.fetchAll_keeps
    | with_reducible refine State.fetchAll_keeps' (by with_reducible assumption) ?_
    | with_reducible apply hf
    | intro _
    | with_reducible apply State.Keeps.snd
    | with_reducible apply ite_snd
    | with_reducible apply Snd.mk'
    | with_reducible apply Snd.reset
    | with_reducible apply Snd.out
    | with_reducible apply Snd.psrWrite
    | dsimp only
    | with_reducible apply ite_keeps
    | with_reducible apply ite_keepsFst
    | with_reducible apply KeepsFst.fst
    | split

theorem State.regInstr_keeps {s r' : State} {r : CoreRun} {len : Nat} {f : Core → Core} (h : s.Keeps r') (hf : ∀ c, Snd s c → Snd s (f c)) : s.Keeps (State.regInstr r' r len f) := by
  unfold State.regInstr
  repeat' first
    | with_reducible assumption
    | intro _
    | with_reducible apply State.setCore_keeps
    | with_reducible apply State.instr_keeps
    | with_reducible apply Core.advance_snd
    | with_reducible apply hf
    | intro _
    | with_reducible apply State.Keeps.snd

theorem State.acInstr_keeps {s r' : State} {r : CoreRun} {f : Core → Core} (h : s.Keeps r') (hf : ∀ c, Snd s c → Snd s (f c)) : s.Keeps (State.acInstr r' r f) := by
  unfold State.acInstr
  repeat' first
    | with_reducible assumption
    | intro _
    | with_reducible apply State.setCore_keeps
    | with_reducible apply State.takeExc_keeps
    | with_reducible apply State.instr_keeps
    | with_reducible apply Core.advance_snd
    | with_reducible apply hf
    | intro _
    | with_reducible apply State.Keeps.snd
    | with_reducible apply ite_snd
    | with_reducible apply Snd.mk'
    | with_reducible apply Snd.reset
    | with_reducible apply Snd.out
    | with_reducible apply Snd.psrWrite
    | dsimp only
    | with_reducible apply ite_keeps

theorem State.privInstr_keeps {s r' : State} {r : CoreRun} {f : State → Nat → State} (h : s.Keeps r') (hf : ∀ t x, s.Keeps t → s.Keeps (f t x)) : s.Keeps (State.privInstr r' r f) := by
  unfold State.privInstr
  repeat' first
    | with_reducible assumption
    | intro _
    | with_reducible apply State.takeExc_keeps
    | with_reducible apply State.instr_keeps
    | with_reducible apply hf
    | intro _
    | with_reducible apply State.Keeps.snd
    | with_reducible apply ite_snd
    | with_reducible apply Snd.mk'
    | with_reducible apply Snd.reset
    | with_reducible apply Snd.out
    | with_reducible apply Snd.psrWrite
    | dsimp only
    | with_reducible apply ite_keeps

theorem execAdd_keeps {s r' : State} {r : CoreRun} {d : Fin 32} {n : Fin 32} {m : Fin 32} (h : s.Keeps r') : KeepsOut s (execAdd r d n m r') := by
  unfold execAdd
  repeat' first
    | with_reducible assumption
    | intro _
    | with_reducible apply State.regInstr_keeps
    | with_reducible apply putD_snd
    | with_reducible apply Core.addFlags_snd
    | intro _
    | with_reducible apply State.Keeps.snd
    | with_reducible apply ite_snd
    | with_reducible apply Snd.mk'
    | with_reducible apply Snd.reset
    | with_reducible apply Snd.out
    | with_reducible apply Snd.psrWrite
    | dsimp only
    | with_reducible apply KeepsOut.next

theorem execAddc_keeps {s r' : State} {r : CoreRun} {d : Fin 32} {n : Fin 32} {m : Fin 32} (h : s.Keeps r') : KeepsOut s (execAddc r d n m r') := by
  unfold execAddc
  repeat' first
    | with_reducible assumption
    | intro _
    | with_reducible apply State.regInstr_keeps
    | with_reducible apply putD_snd
    | with_reducible apply Core.addFlags_snd
    | intro _
    | with_reducible apply State.Keeps.snd
    | with_reducible apply ite_snd
    | with_reducible apply Snd.mk'
    | with_reducible apply Snd.reset
    | with_reducible apply Snd.out
    | with_reducible apply Snd.psrWrite
    | dsimp only
    | with_reducible apply KeepsOut.next

theorem execSub_keeps {s r' : State} {r : CoreRun} {d : Fin 32} {n : Fin 32} {m : Fin 32} (h : s.Keeps r') : KeepsOut s (execSub r d n m r') := by
  unfold execSub
  repeat' first
    | with_reducible assumption
    | intro _
    | with_reducible apply State.regInstr_keeps
    | with_reducible apply Core.subFlags_snd
    | with_reducible apply putD_snd
    | intro _
    | with_reducible apply State.Keeps.snd
    | with_reducible apply ite_snd
    | with_reducible apply Snd.mk'
    | with_reducible apply Snd.reset
    | with_reducible apply Snd.out
    | with_reducible apply Snd.psrWrite
    | dsimp only
    | with_reducible apply KeepsOut.next

theorem execSubc_keeps {s r' : State} {r : CoreRun} {d : Fin 32} {n : Fin 32} {m : Fin 32} (h : s.Keeps r') : KeepsOut s (execSubc r d n m r') := by
  unfold execSubc
  repeat' first
    | with_reducible assumption
    | intro _
    | with_reducible apply State.regInstr_keeps
    | with_reducible apply Core.subFlags_snd
    | with_reducible apply putD_snd
    | intro _
    | with_reducible apply State.Keeps.snd
    | with_reducible apply ite_snd
    | with_reducible apply Snd.mk'
    | with_reducible apply Snd.reset
    | with_reducible apply Snd.out
    | with_reducible apply Snd.psrWrite
    | dsimp only
    | with_reducible apply KeepsOut.next

theorem execAnd_keeps {s r' : State} {r : CoreRun} {d : Fin 32} {n : Fin 32} {m : Fin 32} (h : s.Keeps r') : KeepsOut s (execAnd r d n m r') := by
  unfold execAnd
  repeat' first
    | with_reducible assumption
    | intro _
    | with_reducible apply State.regInstr_keeps
    | with_reducible apply Core.bin_snd
    | intro _
    | with_reducible apply State.Keeps.snd
    | with_reducible apply ite_snd
    | with_reducible apply Snd.mk'
    | with_reducible apply Snd.reset
    | with_reducible apply Snd.out
    | with_reducible apply Snd.psrWrite
    | dsimp only
    | with_reducible apply KeepsOut.next

theorem execOr_keeps {s r' : State} {r : CoreRun} {d : Fin 32} {n : Fin 32} {m : Fin 32} (h : s.Keeps r') : KeepsOut s (execOr r d n m r') := by
  unfold execOr
  repeat' first
    | with_reducible assumption
    | intro _
    | with_reducible apply State.regInstr_keeps
    | with_reducible apply Core.bin_snd
    | intro _
    | with_reducible apply State.Keeps.snd
    | with_reducible apply ite_snd
    | with_reducible apply Snd.mk'
    | with_reducible apply Snd.reset
    | with_reducible apply Snd.out
    | with_reducible apply Snd.psrWrite
    | dsimp only
    | with_reducible apply KeepsOut.next

theorem execXor_keeps {s r' : State} {r : CoreRun} {d : Fin 32} {n : Fin 32} {m : Fin 32} (h : s.Keeps r') : KeepsOut s (execXor r d n m r') := by
  unfold execXor
  repeat' first
    | with_reducible assumption
    | intro _
    | with_reducible apply State.regInstr_keeps
    | with_reducible apply Core.bin_snd
    | intro _
    | with_reducible apply State.Keeps.snd
    | with_reducible apply ite_snd
    | with_reducible apply Snd.mk'
    | with_reducible apply Snd.reset
    | with_reducible apply Snd.out
    | with_reducible apply Snd.psrWrite
    | dsimp only
    | with_reducible apply KeepsOut.next

theorem execAndn_keeps {s r' : State} {r : CoreRun} {d : Fin 32} {n : Fin 32} {m : Fin 32} (h : s.Keeps r') : KeepsOut s (execAndn r d n m r') := by
  unfold execAndn
  repeat' first
    | with_reducible assumption
    | intro _
    | with_reducible apply State.regInstr_keeps
    | with_reducible apply Core.bin_snd
    | intro _
    | with_reducible apply State.Keeps.snd
    | with_reducible apply ite_snd
    | with_reducible apply Snd.mk'
    | with_reducible apply Snd.reset
    | with_reducible apply Snd.out
    | with_reducible apply Snd.psrWrite
    | dsimp only
    | with_reducible apply KeepsOut.next

theorem execShift_keeps {s r' : State} {r : CoreRun} {k : ShiftKind} {d : Fin 32} {n : Fin 32} {m : Fin 32} (h : s.Keeps r') : KeepsOut s (execShift r k d n m r') := by
  unfold execShift
  repeat' first
    | with_reducible assumption
    | intro _
    | with_reducible apply State.regInstr_keeps
    | with_reducible apply Core.bin_snd
    | intro _
    | with_reducible apply State.Keeps.snd
    | with_reducible apply ite_snd
    | with_reducible apply Snd.mk'
    | with_reducible apply Snd.reset
    | with_reducible apply Snd.out
    | with_reducible apply Snd.psrWrite
    | dsimp only
    | with_reducible apply KeepsOut.next

theorem execRotate_keeps {s r' : State} {r : CoreRun} {left : Bool} {d : Fin 32} {n : Fin 32} {m : Fin 32} (h : s.Keeps r') : KeepsOut s (execRotate r left d n m r') := by
  unfold execRotate
  repeat' first
    | with_reducible assumption
    | intro _
    | with_reducible apply State.regInstr_keeps
    | with_reducible apply Core.bin_snd
    | intro _
    | with_reducible apply State.Keeps.snd
    | with_reducible apply ite_snd
    | with_reducible apply Snd.mk'
    | with_reducible apply Snd.reset
    | with_reducible apply Snd.out
    | with_reducible apply Snd.psrWrite
    | dsimp only
    | with_reducible apply ite_keeps
    | with_reducible apply ite_keepsOut
    | with_reducible apply KeepsOut.next

theorem execBitFieldExtract_keeps {s r' : State} {r : CoreRun} {d : Fin 32} {n : Fin 32} {pos : Fin 64} {width : Fin 65} {sx : Bool} (h : s.Keeps r') : KeepsOut s (execBitFieldExtract r d n pos width sx r') := by
  unfold execBitFieldExtract
  repeat' first
    | with_reducible assumption
    | intro _
    | with_reducible apply State.regInstr_keeps
    | with_reducible apply Core.un_snd
    | intro _
    | with_reducible apply State.Keeps.snd
    | with_reducible apply ite_snd
    | with_reducible apply Snd.mk'
    | with_reducible apply Snd.reset
    | with_reducible apply Snd.out
    | with_reducible apply Snd.psrWrite
    | dsimp only
    | with_reducible apply ite_keeps
    | with_reducible apply ite_keepsOut
    | with_reducible apply KeepsOut.next

theorem execBitFieldInsert_keeps {s r' : State} {r : CoreRun} {d : Fin 32} {n : Fin 32} {pos : Fin 64} {width : Fin 65} (h : s.Keeps r') : KeepsOut s (execBitFieldInsert r d n pos width r') := by
  unfold execBitFieldInsert
  repeat' first
    | with_reducible assumption
    | intro _
    | with_reducible apply State.regInstr_keeps
    | with_reducible apply Core.bin_snd
    | intro _
    | with_reducible apply State.Keeps.snd
    | with_reducible apply ite_snd
    | with_reducible apply Snd.mk'
    | with_reducible apply Snd.reset
    | with_reducible apply Snd.out
    | with_reducible apply Snd.psrWrite
    | dsimp only
    | with_reducible apply ite_keeps
    | with_reducible apply ite_keepsOut
    | with_reducible apply KeepsOut.next

theorem execClz_keeps {s r' : State} {r : CoreRun} {d : Fin 32} {n : Fin 32} (h : s.Keeps r') : KeepsOut s (execClz r d n r') := by
  unfold execClz
  repeat' first
    | with_reducible assumption
    | intro _
    | with_reducible apply State.regInstr_keeps
    | with_reducible apply Core.un_snd
    | intro _
    | with_reducible apply State.Keeps.snd
    | with_reducible apply ite_snd
    | with_reducible apply Snd.mk'
    | with_reducible apply Snd.reset
    | with_reducible apply Snd.out
    | with_reducible apply Snd.psrWrite
    | dsimp only
    | with_reducible apply KeepsOut.next

theorem execPopc_keeps {s r' : State} {r : CoreRun} {d : Fin 32} {n : Fin 32} (h : s.Keeps r') : KeepsOut s (execPopc r d n r') := by
  unfold execPopc
  repeat' first
    | with_reducible assumption
    | intro _
    | with_reducible apply State.regInstr_keeps
    | with_reducible apply Core.un_snd
    | intro _
    | with_reducible apply State.Keeps.snd
    | with_reducible apply ite_snd
    | with_reducible apply Snd.mk'
    | with_reducible apply Snd.reset
    | with_reducible apply Snd.out
    | with_reducible apply Snd.psrWrite
    | dsimp only
    | with_reducible apply KeepsOut.next

theorem execMin_keeps {s r' : State} {r : CoreRun} {d : Fin 32} {n : Fin 32} {m : Fin 32} (h : s.Keeps r') : KeepsOut s (execMin r d n m r') := by
  unfold execMin
  repeat' first
    | with_reducible assumption
    | intro _
    | with_reducible apply State.regInstr_keeps
    | with_reducible apply Core.bin_snd
    | intro _
    | with_reducible apply State.Keeps.snd
    | with_reducible apply ite_snd
    | with_reducible apply Snd.mk'
    | with_reducible apply Snd.reset
    | with_reducible apply Snd.out
    | with_reducible apply Snd.psrWrite
    | dsimp only
    | with_reducible apply ite_keeps
    | with_reducible apply ite_keepsOut
    | with_reducible apply KeepsOut.next

theorem execMax_keeps {s r' : State} {r : CoreRun} {d : Fin 32} {n : Fin 32} {m : Fin 32} (h : s.Keeps r') : KeepsOut s (execMax r d n m r') := by
  unfold execMax
  repeat' first
    | with_reducible assumption
    | intro _
    | with_reducible apply State.regInstr_keeps
    | with_reducible apply Core.bin_snd
    | intro _
    | with_reducible apply State.Keeps.snd
    | with_reducible apply ite_snd
    | with_reducible apply Snd.mk'
    | with_reducible apply Snd.reset
    | with_reducible apply Snd.out
    | with_reducible apply Snd.psrWrite
    | dsimp only
    | with_reducible apply ite_keeps
    | with_reducible apply ite_keepsOut
    | with_reducible apply KeepsOut.next

theorem execCmp_keeps {s r' : State} {r : CoreRun} {n : Fin 32} {m : Fin 32} (h : s.Keeps r') : KeepsOut s (execCmp r n m r') := by
  unfold execCmp
  repeat' first
    | with_reducible assumption
    | intro _
    | with_reducible apply State.regInstr_keeps
    | with_reducible apply Core.subFlags_snd
    | intro _
    | with_reducible apply State.Keeps.snd
    | with_reducible apply ite_snd
    | with_reducible apply Snd.mk'
    | with_reducible apply Snd.reset
    | with_reducible apply Snd.out
    | with_reducible apply Snd.psrWrite
    | dsimp only
    | with_reducible apply KeepsOut.next

theorem execMov_keeps {s r' : State} {r : CoreRun} {d : Fin 32} {n : Fin 32} (h : s.Keeps r') : KeepsOut s (execMov r d n r') := by
  unfold execMov
  repeat' first
    | with_reducible assumption
    | intro _
    | with_reducible apply State.regInstr_keeps
    | with_reducible apply Core.un_snd
    | intro _
    | with_reducible apply State.Keeps.snd
    | with_reducible apply ite_snd
    | with_reducible apply Snd.mk'
    | with_reducible apply Snd.reset
    | with_reducible apply Snd.out
    | with_reducible apply Snd.psrWrite
    | dsimp only
    | with_reducible apply KeepsOut.next

theorem execAddi_keeps {s r' : State} {r : CoreRun} {d : Fin 32} {n : Fin 32} {v : BitVec 16} (h : s.Keeps r') : KeepsOut s (execAddi r d n v r') := by
  unfold execAddi
  repeat' first
    | with_reducible assumption
    | intro _
    | with_reducible apply State.regInstr_keeps
    | with_reducible apply putD_snd
    | with_reducible apply Core.addFlags_snd
    | intro _
    | with_reducible apply State.Keeps.snd
    | with_reducible apply ite_snd
    | with_reducible apply Snd.mk'
    | with_reducible apply Snd.reset
    | with_reducible apply Snd.out
    | with_reducible apply Snd.psrWrite
    | dsimp only
    | with_reducible apply KeepsOut.next

theorem execSubi_keeps {s r' : State} {r : CoreRun} {d : Fin 32} {n : Fin 32} {v : BitVec 16} (h : s.Keeps r') : KeepsOut s (execSubi r d n v r') := by
  unfold execSubi
  repeat' first
    | with_reducible assumption
    | intro _
    | with_reducible apply State.regInstr_keeps
    | with_reducible apply Core.subFlags_snd
    | with_reducible apply putD_snd
    | intro _
    | with_reducible apply State.Keeps.snd
    | with_reducible apply ite_snd
    | with_reducible apply Snd.mk'
    | with_reducible apply Snd.reset
    | with_reducible apply Snd.out
    | with_reducible apply Snd.psrWrite
    | dsimp only
    | with_reducible apply KeepsOut.next

theorem execAndi_keeps {s r' : State} {r : CoreRun} {d : Fin 32} {n : Fin 32} {v : BitVec 16} (h : s.Keeps r') : KeepsOut s (execAndi r d n v r') := by
  unfold execAndi
  repeat' first
    | with_reducible assumption
    | intro _
    | with_reducible apply State.regInstr_keeps
    | with_reducible apply Core.un_snd
    | intro _
    | with_reducible apply State.Keeps.snd
    | with_reducible apply ite_snd
    | with_reducible apply Snd.mk'
    | with_reducible apply Snd.reset
    | with_reducible apply Snd.out
    | with_reducible apply Snd.psrWrite
    | dsimp only
    | with_reducible apply KeepsOut.next

theorem execOri_keeps {s r' : State} {r : CoreRun} {d : Fin 32} {n : Fin 32} {v : BitVec 16} (h : s.Keeps r') : KeepsOut s (execOri r d n v r') := by
  unfold execOri
  repeat' first
    | with_reducible assumption
    | intro _
    | with_reducible apply State.regInstr_keeps
    | with_reducible apply Core.un_snd
    | intro _
    | with_reducible apply State.Keeps.snd
    | with_reducible apply ite_snd
    | with_reducible apply Snd.mk'
    | with_reducible apply Snd.reset
    | with_reducible apply Snd.out
    | with_reducible apply Snd.psrWrite
    | dsimp only
    | with_reducible apply KeepsOut.next

theorem execXori_keeps {s r' : State} {r : CoreRun} {d : Fin 32} {n : Fin 32} {v : BitVec 16} (h : s.Keeps r') : KeepsOut s (execXori r d n v r') := by
  unfold execXori
  repeat' first
    | with_reducible assumption
    | intro _
    | with_reducible apply State.regInstr_keeps
    | with_reducible apply Core.un_snd
    | intro _
    | with_reducible apply State.Keeps.snd
    | with_reducible apply ite_snd
    | with_reducible apply Snd.mk'
    | with_reducible apply Snd.reset
    | with_reducible apply Snd.out
    | with_reducible apply Snd.psrWrite
    | dsimp only
    | with_reducible apply KeepsOut.next

theorem execShiftImmediate_keeps {s r' : State} {r : CoreRun} {k : ShiftKind} {d : Fin 32} {n : Fin 32} {amount : Fin 64} (h : s.Keeps r') : KeepsOut s (execShiftImmediate r k d n amount r') := by
  unfold execShiftImmediate
  repeat' first
    | with_reducible assumption
    | intro _
    | with_reducible apply State.regInstr_keeps
    | with_reducible apply Core.un_snd
    | intro _
    | with_reducible apply State.Keeps.snd
    | with_reducible apply ite_snd
    | with_reducible apply Snd.mk'
    | with_reducible apply Snd.reset
    | with_reducible apply Snd.out
    | with_reducible apply Snd.psrWrite
    | dsimp only
    | with_reducible apply KeepsOut.next

theorem execCmpi_keeps {s r' : State} {r : CoreRun} {n : Fin 32} {v : BitVec 16} (h : s.Keeps r') : KeepsOut s (execCmpi r n v r') := by
  unfold execCmpi
  repeat' first
    | with_reducible assumption
    | intro _
    | with_reducible apply State.regInstr_keeps
    | with_reducible apply Core.subFlags_snd
    | intro _
    | with_reducible apply State.Keeps.snd
    | with_reducible apply ite_snd
    | with_reducible apply Snd.mk'
    | with_reducible apply Snd.reset
    | with_reducible apply Snd.out
    | with_reducible apply Snd.psrWrite
    | dsimp only
    | with_reducible apply KeepsOut.next

theorem execMovi_keeps {s r' : State} {r : CoreRun} {d : Fin 32} {v : BitVec 16} (h : s.Keeps r') : KeepsOut s (execMovi r d v r') := by
  unfold execMovi
  repeat' first
    | with_reducible assumption
    | intro _
    | with_reducible apply State.regInstr_keeps
    | with_reducible apply Core.writeD_snd
    | intro _
    | with_reducible apply State.Keeps.snd
    | with_reducible apply ite_snd
    | with_reducible apply Snd.mk'
    | with_reducible apply Snd.reset
    | with_reducible apply Snd.out
    | with_reducible apply Snd.psrWrite
    | dsimp only
    | with_reducible apply KeepsOut.next

theorem execMul_keeps {s r' : State} {r : CoreRun} {d : Fin 32} {n : Fin 32} {m : Fin 32} (h : s.Keeps r') : KeepsOut s (execMul r d n m r') := by
  unfold execMul
  repeat' first
    | with_reducible assumption
    | intro _
    | with_reducible apply State.regInstr_keeps
    | with_reducible apply Core.bin_snd
    | intro _
    | with_reducible apply State.Keeps.snd
    | with_reducible apply ite_snd
    | with_reducible apply Snd.mk'
    | with_reducible apply Snd.reset
    | with_reducible apply Snd.out
    | with_reducible apply Snd.psrWrite
    | dsimp only
    | with_reducible apply KeepsOut.next

theorem execMulh_keeps {s r' : State} {r : CoreRun} {d : Fin 32} {n : Fin 32} {m : Fin 32} (h : s.Keeps r') : KeepsOut s (execMulh r d n m r') := by
  unfold execMulh
  repeat' first
    | with_reducible assumption
    | intro _
    | with_reducible apply State.regInstr_keeps
    | with_reducible apply Core.bin_snd
    | intro _
    | with_reducible apply State.Keeps.snd
    | with_reducible apply ite_snd
    | with_reducible apply Snd.mk'
    | with_reducible apply Snd.reset
    | with_reducible apply Snd.out
    | with_reducible apply Snd.psrWrite
    | dsimp only
    | with_reducible apply KeepsOut.next

theorem execMulhu_keeps {s r' : State} {r : CoreRun} {d : Fin 32} {n : Fin 32} {m : Fin 32} (h : s.Keeps r') : KeepsOut s (execMulhu r d n m r') := by
  unfold execMulhu
  repeat' first
    | with_reducible assumption
    | intro _
    | with_reducible apply State.regInstr_keeps
    | with_reducible apply Core.bin_snd
    | intro _
    | with_reducible apply State.Keeps.snd
    | with_reducible apply ite_snd
    | with_reducible apply Snd.mk'
    | with_reducible apply Snd.reset
    | with_reducible apply Snd.out
    | with_reducible apply Snd.psrWrite
    | dsimp only
    | with_reducible apply KeepsOut.next

theorem execDiv_keeps {s r' : State} {r : CoreRun} {d : Fin 32} {n : Fin 32} {m : Fin 32} (h : s.Keeps r') : KeepsOut s (execDiv r d n m r') := by
  unfold execDiv
  repeat' first
    | with_reducible assumption
    | intro _
    | with_reducible apply State.regInstr_keeps
    | with_reducible apply Core.divide_snd
    | intro _
    | with_reducible apply State.Keeps.snd
    | with_reducible apply ite_snd
    | with_reducible apply Snd.mk'
    | with_reducible apply Snd.reset
    | with_reducible apply Snd.out
    | with_reducible apply Snd.psrWrite
    | dsimp only
    | with_reducible apply KeepsOut.next

theorem execDivu_keeps {s r' : State} {r : CoreRun} {d : Fin 32} {n : Fin 32} {m : Fin 32} (h : s.Keeps r') : KeepsOut s (execDivu r d n m r') := by
  unfold execDivu
  repeat' first
    | with_reducible assumption
    | intro _
    | with_reducible apply State.regInstr_keeps
    | with_reducible apply Core.divide_snd
    | intro _
    | with_reducible apply State.Keeps.snd
    | with_reducible apply ite_snd
    | with_reducible apply Snd.mk'
    | with_reducible apply Snd.reset
    | with_reducible apply Snd.out
    | with_reducible apply Snd.psrWrite
    | dsimp only
    | with_reducible apply KeepsOut.next

theorem execRem_keeps {s r' : State} {r : CoreRun} {d : Fin 32} {n : Fin 32} {m : Fin 32} (h : s.Keeps r') : KeepsOut s (execRem r d n m r') := by
  unfold execRem
  repeat' first
    | with_reducible assumption
    | intro _
    | with_reducible apply State.regInstr_keeps
    | with_reducible apply Core.divide_snd
    | intro _
    | with_reducible apply State.Keeps.snd
    | with_reducible apply ite_snd
    | with_reducible apply Snd.mk'
    | with_reducible apply Snd.reset
    | with_reducible apply Snd.out
    | with_reducible apply Snd.psrWrite
    | dsimp only
    | with_reducible apply KeepsOut.next

theorem execRemu_keeps {s r' : State} {r : CoreRun} {d : Fin 32} {n : Fin 32} {m : Fin 32} (h : s.Keeps r') : KeepsOut s (execRemu r d n m r') := by
  unfold execRemu
  repeat' first
    | with_reducible assumption
    | intro _
    | with_reducible apply State.regInstr_keeps
    | with_reducible apply Core.divide_snd
    | intro _
    | with_reducible apply State.Keeps.snd
    | with_reducible apply ite_snd
    | with_reducible apply Snd.mk'
    | with_reducible apply Snd.reset
    | with_reducible apply Snd.out
    | with_reducible apply Snd.psrWrite
    | dsimp only
    | with_reducible apply KeepsOut.next

theorem execLi_keeps {s r' : State} {r : CoreRun} {d : Fin 32} {v : BitVec 40} (h : s.Keeps r') : KeepsOut s (execLi r d v r') := by
  unfold execLi
  repeat' first
    | with_reducible assumption
    | intro _
    | with_reducible apply State.regInstr_keeps
    | with_reducible apply Core.writeD_snd
    | intro _
    | with_reducible apply State.Keeps.snd
    | with_reducible apply ite_snd
    | with_reducible apply Snd.mk'
    | with_reducible apply Snd.reset
    | with_reducible apply Snd.out
    | with_reducible apply Snd.psrWrite
    | dsimp only
    | with_reducible apply KeepsOut.next

theorem execLia_keeps {s r' : State} {r : CoreRun} {d : Fin 16} {v : BitVec 40} (h : s.Keeps r') : KeepsOut s (execLia r d v r') := by
  unfold execLia
  repeat' first
    | with_reducible assumption
    | intro _
    | with_reducible apply State.regInstr_keeps
    | with_reducible apply Core.writeA_snd
    | intro _
    | with_reducible apply State.Keeps.snd
    | with_reducible apply ite_snd
    | with_reducible apply Snd.mk'
    | with_reducible apply Snd.reset
    | with_reducible apply Snd.out
    | with_reducible apply Snd.psrWrite
    | dsimp only
    | with_reducible apply KeepsOut.next

theorem execLih_keeps {s r' : State} {r : CoreRun} {d : Fin 32} {v : BitVec 40} (h : s.Keeps r') : KeepsOut s (execLih r d v r') := by
  unfold execLih
  repeat' first
    | with_reducible assumption
    | intro _
    | with_reducible apply State.regInstr_keeps
    | with_reducible apply Core.writeD_snd
    | intro _
    | with_reducible apply State.Keeps.snd
    | with_reducible apply ite_snd
    | with_reducible apply Snd.mk'
    | with_reducible apply Snd.reset
    | with_reducible apply Snd.out
    | with_reducible apply Snd.psrWrite
    | dsimp only
    | with_reducible apply KeepsOut.next

end Sys2Proof.Machine
end

