-- ==== Sys2Proof/Laws/Keeps24.lean ====
section
/-!
SUPPORT. What the operations and meanings of Machine/CpuAddr, CpuDec, CpuMem keep, one lemma each (State.Keeps).
-/

namespace Sys2Proof.Machine

theorem execAdda_keeps {s r' : State} {r : CoreRun} {d : Fin 16} {n : Fin 16} {x : AddrSrc} (h : s.Keeps r') : KeepsOut s (execAdda r d n x r') := by
  unfold execAdda
  repeat' first
    | with_reducible assumption
    | intro _
    | with_reducible apply State.regInstr_keeps
    | with_reducible apply Core.writeA_snd
    | intro _
    | with_reducible apply State.Keeps.snd
    | with_reducible apply ite_snd
    | with_reducible apply Snd.mk'
    | with_reducible apply Snd.reset
    | with_reducible apply Snd.out
    | with_reducible apply Snd.psrWrite
    | dsimp only
    | with_reducible apply KeepsOut.next

theorem execSuba_keeps {s r' : State} {r : CoreRun} {d : Fin 16} {n : Fin 16} {x : AddrSrc} (h : s.Keeps r') : KeepsOut s (execSuba r d n x r') := by
  unfold execSuba
  repeat' first
    | with_reducible assumption
    | intro _
    | with_reducible apply State.regInstr_keeps
    | with_reducible apply Core.writeA_snd
    | intro _
    | with_reducible apply State.Keeps.snd
    | with_reducible apply ite_snd
    | with_reducible apply Snd.mk'
    | with_reducible apply Snd.reset
    | with_reducible apply Snd.out
    | with_reducible apply Snd.psrWrite
    | dsimp only
    | with_reducible apply KeepsOut.next

theorem execLea_keeps {s r' : State} {r : CoreRun} {d : Fin 16} {n : Fin 16} {m : Fin 32} {sc : Fin 4} {v : BitVec 16} (h : s.Keeps r') : KeepsOut s (execLea r d n m sc v r') := by
  unfold execLea
  repeat' first
    | with_reducible assumption
    | intro _
    | with_reducible apply State.regInstr_keeps
    | with_reducible apply Core.writeA_snd
    | intro _
    | with_reducible apply State.Keeps.snd
    | with_reducible apply ite_snd
    | with_reducible apply Snd.mk'
    | with_reducible apply Snd.reset
    | with_reducible apply Snd.out
    | with_reducible apply Snd.psrWrite
    | dsimp only
    | with_reducible apply KeepsOut.next

theorem execCmpa_keeps {s r' : State} {r : CoreRun} {n : Fin 16} {m : Fin 16} (h : s.Keeps r') : KeepsOut s (execCmpa r n m r') := by
  unfold execCmpa
  repeat' first
    | with_reducible assumption
    | intro _
    | with_reducible apply State.regInstr_keeps
    | with_reducible apply Core.subFlags_snd
    | intro _
    | with_reducible apply State.Keeps.snd
    | with_reducible apply ite_snd
    | with_reducible apply Snd.mk'
    | with_reducible apply Snd.reset
    | with_reducible apply Snd.out
    | with_reducible apply Snd.psrWrite
    | dsimp only
    | with_reducible apply KeepsOut.next

theorem execMova_keeps {s r' : State} {r : CoreRun} {d : Fin 16} {n : Fin 32} (h : s.Keeps r') : KeepsOut s (execMova r d n r') := by
  unfold execMova
  repeat' first
    | with_reducible assumption
    | intro _
    | with_reducible apply State.regInstr_keeps
    | with_reducible apply Core.writeA_snd
    | intro _
    | with_reducible apply State.Keeps.snd
    | with_reducible apply ite_snd
    | with_reducible apply Snd.mk'
    | with_reducible apply Snd.reset
    | with_reducible apply Snd.out
    | with_reducible apply Snd.psrWrite
    | dsimp only
    | with_reducible apply KeepsOut.next

theorem execMovd_keeps {s r' : State} {r : CoreRun} {d : Fin 32} {n : Fin 16} (h : s.Keeps r') : KeepsOut s (execMovd r d n r') := by
  unfold execMovd
  repeat' first
    | with_reducible assumption
    | intro _
    | with_reducible apply State.regInstr_keeps
    | with_reducible apply Core.writeD_snd
    | intro _
    | with_reducible apply State.Keeps.snd
    | with_reducible apply ite_snd
    | with_reducible apply Snd.mk'
    | with_reducible apply Snd.reset
    | with_reducible apply Snd.out
    | with_reducible apply Snd.psrWrite
    | dsimp only
    | with_reducible apply KeepsOut.next

theorem execMac_keeps {s r' : State} {r : CoreRun} {d : Fin 4} {n : Fin 32} {m : Fin 32} (h : s.Keeps r') : KeepsOut s (execMac r d n m r') := by
  unfold execMac
  repeat' first
    | with_reducible assumption
    | intro _
    | with_reducible apply State.acInstr_keeps
    | with_reducible apply Core.macResult_snd
    | intro _
    | with_reducible apply State.Keeps.snd
    | with_reducible apply ite_snd
    | with_reducible apply Snd.mk'
    | with_reducible apply Snd.reset
    | with_reducible apply Snd.out
    | with_reducible apply Snd.psrWrite
    | dsimp only
    | with_reducible apply KeepsOut.next

theorem execMsu_keeps {s r' : State} {r : CoreRun} {d : Fin 4} {n : Fin 32} {m : Fin 32} (h : s.Keeps r') : KeepsOut s (execMsu r d n m r') := by
  unfold execMsu
  repeat' first
    | with_reducible assumption
    | intro _
    | with_reducible apply State.acInstr_keeps
    | with_reducible apply Core.macResult_snd
    | intro _
    | with_reducible apply State.Keeps.snd
    | with_reducible apply ite_snd
    | with_reducible apply Snd.mk'
    | with_reducible apply Snd.reset
    | with_reducible apply Snd.out
    | with_reducible apply Snd.psrWrite
    | dsimp only
    | with_reducible apply KeepsOut.next

theorem execMulac_keeps {s r' : State} {r : CoreRun} {d : Fin 4} {n : Fin 32} {m : Fin 32} (h : s.Keeps r') : KeepsOut s (execMulac r d n m r') := by
  unfold execMulac
  repeat' first
    | with_reducible assumption
    | intro _
    | with_reducible apply State.acInstr_keeps
    | with_reducible apply Core.writeAc_snd
    | intro _
    | with_reducible apply State.Keeps.snd
    | with_reducible apply ite_snd
    | with_reducible apply Snd.mk'
    | with_reducible apply Snd.reset
    | with_reducible apply Snd.out
    | with_reducible apply Snd.psrWrite
    | dsimp only
    | with_reducible apply KeepsOut.next

theorem execSat_keeps {s r' : State} {r : CoreRun} {d : Fin 4} (h : s.Keeps r') : KeepsOut s (execSat r d r') := by
  unfold execSat
  repeat' first
    | with_reducible assumption
    | intro _
    | with_reducible apply State.acInstr_keeps
    | with_reducible apply Core.setQ_snd
    | with_reducible apply Core.writeAc_snd
    | intro _
    | with_reducible apply State.Keeps.snd
    | with_reducible apply ite_snd
    | with_reducible apply Snd.mk'
    | with_reducible apply Snd.reset
    | with_reducible apply Snd.out
    | with_reducible apply Snd.psrWrite
    | dsimp only
    | with_reducible apply KeepsOut.next

theorem execRnd_keeps {s r' : State} {r : CoreRun} {d : Fin 4} {b : Fin 128} (h : s.Keeps r') : KeepsOut s (execRnd r d b r') := by
  unfold execRnd
  repeat' first
    | with_reducible assumption
    | intro _
    | with_reducible apply State.acInstr_keeps
    | with_reducible apply Core.writeAc_snd
    | intro _
    | with_reducible apply State.Keeps.snd
    | with_reducible apply ite_snd
    | with_reducible apply Snd.mk'
    | with_reducible apply Snd.reset
    | with_reducible apply Snd.out
    | with_reducible apply Snd.psrWrite
    | dsimp only
    | with_reducible apply KeepsOut.next

theorem execAshr_keeps {s r' : State} {r : CoreRun} {d : Fin 4} {amount : Fin 128} (h : s.Keeps r') : KeepsOut s (execAshr r d amount r') := by
  unfold execAshr
  repeat' first
    | with_reducible assumption
    | intro _
    | with_reducible apply State.acInstr_keeps
    | with_reducible apply Core.writeAc_snd
    | intro _
    | with_reducible apply State.Keeps.snd
    | with_reducible apply ite_snd
    | with_reducible apply Snd.mk'
    | with_reducible apply Snd.reset
    | with_reducible apply Snd.out
    | with_reducible apply Snd.psrWrite
    | dsimp only
    | with_reducible apply KeepsOut.next

theorem execMvacl_keeps {s r' : State} {r : CoreRun} {d : Fin 32} {n : Fin 4} (h : s.Keeps r') : KeepsOut s (execMvacl r d n r') := by
  unfold execMvacl
  repeat' first
    | with_reducible assumption
    | intro _
    | with_reducible apply State.acInstr_keeps
    | with_reducible apply Core.writeD_snd
    | intro _
    | with_reducible apply State.Keeps.snd
    | with_reducible apply ite_snd
    | with_reducible apply Snd.mk'
    | with_reducible apply Snd.reset
    | with_reducible apply Snd.out
    | with_reducible apply Snd.psrWrite
    | dsimp only
    | with_reducible apply KeepsOut.next

theorem execMvach_keeps {s r' : State} {r : CoreRun} {d : Fin 32} {n : Fin 4} (h : s.Keeps r') : KeepsOut s (execMvach r d n r') := by
  unfold execMvach
  repeat' first
    | with_reducible assumption
    | intro _
    | with_reducible apply State.acInstr_keeps
    | with_reducible apply Core.writeD_snd
    | intro _
    | with_reducible apply State.Keeps.snd
    | with_reducible apply ite_snd
    | with_reducible apply Snd.mk'
    | with_reducible apply Snd.reset
    | with_reducible apply Snd.out
    | with_reducible apply Snd.psrWrite
    | dsimp only
    | with_reducible apply KeepsOut.next

theorem execMvdac_keeps {s r' : State} {r : CoreRun} {d : Fin 4} {hi : Fin 32} {lo : Fin 32} (h : s.Keeps r') : KeepsOut s (execMvdac r d hi lo r') := by
  unfold execMvdac
  repeat' first
    | with_reducible assumption
    | intro _
    | with_reducible apply State.acInstr_keeps
    | with_reducible apply Core.writeAc_snd
    | intro _
    | with_reducible apply State.Keeps.snd
    | with_reducible apply ite_snd
    | with_reducible apply Snd.mk'
    | with_reducible apply Snd.reset
    | with_reducible apply Snd.out
    | with_reducible apply Snd.psrWrite
    | dsimp only
    | with_reducible apply KeepsOut.next

theorem execClrac_keeps {s r' : State} {r : CoreRun} {d : Fin 4} (h : s.Keeps r') : KeepsOut s (execClrac r d r') := by
  unfold execClrac
  repeat' first
    | with_reducible assumption
    | intro _
    | with_reducible apply State.acInstr_keeps
    | with_reducible apply Core.writeAc_snd
    | intro _
    | with_reducible apply State.Keeps.snd
    | with_reducible apply ite_snd
    | with_reducible apply Snd.mk'
    | with_reducible apply Snd.reset
    | with_reducible apply Snd.out
    | with_reducible apply Snd.psrWrite
    | dsimp only
    | with_reducible apply KeepsOut.next

theorem State.decInstr_keeps {s r' : State} {r : CoreRun} {ac : Bool} {ok : Core → Bool} {res : Core → DecRes} {put : Core → Nat → Core} (h : s.Keeps r') (hput : ∀ c x, Snd s c → Snd s (put c x)) : s.Keeps (State.decInstr r' r ac ok res put) := by
  unfold State.decInstr
  repeat' first
    | with_reducible assumption
    | intro _
    | with_reducible apply State.setCore_keeps
    | with_reducible apply State.takeExc_keeps
    | with_reducible apply State.instr_keeps
    | with_reducible apply Core.decFlags_snd
    | with_reducible apply Core.advance_snd
    | with_reducible apply Core.badDigit_snd
    | with_reducible apply hput
    | intro _
    | with_reducible apply State.Keeps.snd
    | with_reducible apply ite_snd
    | with_reducible apply Snd.mk'
    | with_reducible apply Snd.reset
    | with_reducible apply Snd.out
    | with_reducible apply Snd.psrWrite
    | dsimp only
    | with_reducible apply ite_keeps

theorem State.dec3_keeps {s r' : State} {r : CoreRun} {x : Dec3} {f : Nat → Nat → Nat → DecRes} (h : s.Keeps r') : s.Keeps (State.dec3 r' r x f) := by
  unfold State.dec3
  repeat' first
    | with_reducible assumption
    | intro _
    | with_reducible apply State.decInstr_keeps
    | with_reducible apply putDecAc_snd
    | with_reducible apply putDecD_snd
    | intro _
    | with_reducible apply State.Keeps.snd
    | with_reducible apply ite_snd
    | with_reducible apply Snd.mk'
    | with_reducible apply Snd.reset
    | with_reducible apply Snd.out
    | with_reducible apply Snd.psrWrite
    | dsimp only
    | split

theorem execDadd_keeps {s r' : State} {r : CoreRun} {x : Dec3} (h : s.Keeps r') : KeepsOut s (execDadd r x r') := by
  unfold execDadd
  repeat' first
    | with_reducible assumption
    | with_reducible apply State.dec3_keeps
    | with_reducible apply KeepsOut.next

theorem execDsub_keeps {s r' : State} {r : CoreRun} {x : Dec3} (h : s.Keeps r') : KeepsOut s (execDsub r x r') := by
  unfold execDsub
  repeat' first
    | with_reducible assumption
    | with_reducible apply State.dec3_keeps
    | with_reducible apply KeepsOut.next

theorem execDcmp_keeps {s r' : State} {r : CoreRun} {x : Dec2} (h : s.Keeps r') : KeepsOut s (execDcmp r x r') := by
  unfold execDcmp
  repeat' first
    | with_reducible assumption
    | intro _
    | with_reducible apply State.decInstr_keeps
    | intro _
    | with_reducible apply State.Keeps.snd
    | with_reducible apply ite_snd
    | with_reducible apply Snd.mk'
    | with_reducible apply Snd.reset
    | with_reducible apply Snd.out
    | with_reducible apply Snd.psrWrite
    | dsimp only
    | with_reducible apply KeepsOut.next
    | split

theorem execDadj_keeps {s r' : State} {r : CoreRun} {ac : Bool} {d : Fin 32} {n : Fin 32} (h : s.Keeps r') : KeepsOut s (execDadj r ac d n r') := by
  unfold execDadj
  repeat' first
    | with_reducible assumption
    | intro _
    | with_reducible apply State.takeExc_keeps
    | with_reducible apply State.instr_keeps
    | with_reducible apply State.decInstr_keeps
    | with_reducible apply putDecD_snd
    | intro _
    | with_reducible apply State.Keeps.snd
    | with_reducible apply ite_snd
    | with_reducible apply Snd.mk'
    | with_reducible apply Snd.reset
    | with_reducible apply Snd.out
    | with_reducible apply Snd.psrWrite
    | dsimp only
    | with_reducible apply ite_keeps
    | with_reducible apply ite_keepsOut
    | with_reducible apply KeepsOut.next

theorem State.dec2_keeps {s r' : State} {r : CoreRun} {x : Dec2} {f : Nat → Nat → DecRes} (h : s.Keeps r') : s.Keeps (State.dec2 r' r x f) := by
  unfold State.dec2
  repeat' first
    | with_reducible assumption
    | intro _
    | with_reducible apply State.decInstr_keeps
    | with_reducible apply putDecAc_snd
    | with_reducible apply putDecD_snd
    | intro _
    | with_reducible apply State.Keeps.snd
    | with_reducible apply ite_snd
    | with_reducible apply Snd.mk'
    | with_reducible apply Snd.reset
    | with_reducible apply Snd.out
    | with_reducible apply Snd.psrWrite
    | dsimp only
    | split

theorem execDshl_keeps {s r' : State} {r : CoreRun} {x : Dec2} {n : Fin 64} (h : s.Keeps r') : KeepsOut s (execDshl r x n r') := by
  unfold execDshl
  repeat' first
    | with_reducible assumption
    | with_reducible apply State.dec2_keeps
    | with_reducible apply KeepsOut.next

theorem execDshr_keeps {s r' : State} {r : CoreRun} {x : Dec2} {n : Fin 64} (h : s.Keeps r') : KeepsOut s (execDshr r x n r') := by
  unfold execDshr
  repeat' first
    | with_reducible assumption
    | with_reducible apply State.dec2_keeps
    | with_reducible apply KeepsOut.next

theorem execDcvt_keeps {s r' : State} {r : CoreRun} {x : DecCvt} (h : s.Keeps r') : KeepsOut s (execDcvt r x r') := by
  unfold execDcvt
  repeat' first
    | with_reducible assumption
    | intro _
    | with_reducible apply State.decInstr_keeps
    | with_reducible apply putDecAc_snd
    | with_reducible apply putDecD_snd
    | intro _
    | with_reducible apply State.Keeps.snd
    | with_reducible apply ite_snd
    | with_reducible apply Snd.mk'
    | with_reducible apply Snd.reset
    | with_reducible apply Snd.out
    | with_reducible apply Snd.psrWrite
    | dsimp only
    | with_reducible apply KeepsOut.next
    | split

theorem execBcvt_keeps {s r' : State} {r : CoreRun} {x : BinCvt} (h : s.Keeps r') : KeepsOut s (execBcvt r x r') := by
  unfold execBcvt
  repeat' first
    | with_reducible assumption
    | intro _
    | with_reducible apply State.decInstr_keeps
    | with_reducible apply putDecD_snd
    | intro _
    | with_reducible apply State.Keeps.snd
    | with_reducible apply ite_snd
    | with_reducible apply Snd.mk'
    | with_reducible apply Snd.reset
    | with_reducible apply Snd.out
    | with_reducible apply Snd.psrWrite
    | dsimp only
    | with_reducible apply KeepsOut.next
    | split

theorem State.dataAccess_keeps {s r : State} {e : Nat} {va : Nat} {size : Nat} {k : AccKind} {w : MemErr} (h : s.Keeps r) : KeepsFst s (State.dataAccess r e va size k w) := by
  unfold State.dataAccess
  repeat' first
    | with_reducible assumption
    | with_reducible apply State.translate_keeps
    | with_reducible refine State.translate_keeps' (by with_reducible assumption) ?_
    | with_reducible apply ite_keeps
    | with_reducible apply ite_keepsFst
    | split
    | dsimp only
    | with_reducible apply KeepsFst.mk

theorem State.dataAccess_keeps' {s r t : State} {e : Nat} {va : Nat} {size : Nat} {k : AccKind} {w : MemErr} {y : Except (Nat × Nat) Nat} (e : State.dataAccess r e va size k w = (t, y)) (h : s.Keeps r) :
    s.Keeps t :=
  (State.dataAccess_keeps h).elim e

theorem State.loadLands_keeps {s r : State} {e : Nat} {x : LoadDest} {v : Nat} {size : Nat} {sx : Bool} (h : s.Keeps r) : s.Keeps (State.loadLands r e x v size sx) := by
  unfold State.loadLands
  repeat' first
    | with_reducible assumption
    | with_reducible apply State.setCore_keeps
    | with_reducible apply Core.advance_snd
    | with_reducible apply Core.landLoad_snd
    | intro _
    | with_reducible apply State.Keeps.snd

theorem State.coreLoad_keeps {s r : State} {e : Nat} {va : Nat} {size : Nat} {x : LoadDest} {sx : Bool} {err : MemErr} {w : MemErr} (h : s.Keeps r) : s.Keeps (State.coreLoad r e va size x sx err w) := by
  unfold State.coreLoad
  repeat' first
    | with_reducible assumption
    | with_reducible apply State.busError_keeps
    | with_reducible apply State.load_keeps
    | with_reducible refine State.load_keeps' (by with_reducible assumption) ?_
    | with_reducible apply State.pushStall_keeps
    | with_reducible apply State.takeExc_keeps
    | with_reducible apply State.dataAccess_keeps
    | with_reducible refine State.dataAccess_keeps' (by with_reducible assumption) ?_
    | with_reducible apply State.loadLands_keeps
    | intro _
    | with_reducible apply State.Keeps.snd
    | with_reducible apply ite_snd
    | with_reducible apply Snd.mk'
    | with_reducible apply Snd.reset
    | with_reducible apply Snd.out
    | with_reducible apply Snd.psrWrite
    | dsimp only
    | with_reducible apply KeepsFst.fst
    | split

theorem State.coreStore_keeps {s r : State} {e : Nat} {va : Nat} {size : Nat} {v : Nat} {err : MemErr} {w : MemErr} (h : s.Keeps r) : s.Keeps (State.coreStore r e va size v err w) := by
  unfold State.coreStore
  repeat' first
    | with_reducible assumption
    | with_reducible apply State.busError_keeps
    | with_reducible apply State.setCore_keeps
    | with_reducible apply State.store_keeps
    | with_reducible refine State.store_keeps' (by with_reducible assumption) ?_
    | with_reducible apply State.pushStall_keeps
    | with_reducible apply State.takeExc_keeps
    | with_reducible apply State.dataAccess_keeps
    | with_reducible refine State.dataAccess_keeps' (by with_reducible assumption) ?_
    | with_reducible apply Core.advance_snd
    | intro _
    | with_reducible apply State.Keeps.snd
    | with_reducible apply ite_snd
    | with_reducible apply Snd.mk'
    | with_reducible apply Snd.reset
    | with_reducible apply Snd.out
    | with_reducible apply Snd.psrWrite
    | dsimp only
    | with_reducible apply KeepsFst.fst
    | split

theorem execLoad_keeps {s r' : State} {r : CoreRun} {t : GenReg} {w : MemWidth} {sx : Bool} {a : MemAddr} {err : MemErr} (h : s.Keeps r') : KeepsOut s (execLoad r t w sx a err r') := by
  unfold execLoad
  repeat' first
    | with_reducible assumption
    | intro _
    | with_reducible apply State.instr_keeps
    | with_reducible apply State.coreLoad_keeps
    | with_reducible apply KeepsOut.next

theorem execStore_keeps {s r' : State} {r : CoreRun} {t : GenReg} {w : MemWidth} {a : MemAddr} {err : MemErr} (h : s.Keeps r') : KeepsOut s (execStore r t w a err r') := by
  unfold execStore
  repeat' first
    | with_reducible assumption
    | intro _
    | with_reducible apply State.instr_keeps
    | with_reducible apply State.coreStore_keeps
    | with_reducible apply KeepsOut.next

theorem State.acAccess_keeps {s r' : State} {r : CoreRun} {f : State → Nat → State} (h : s.Keeps r') (hf : ∀ t x, s.Keeps t → s.Keeps (f t x)) : s.Keeps (State.acAccess r' r f) := by
  unfold State.acAccess
  repeat' first
    | with_reducible assumption
    | intro _
    | with_reducible apply State.takeExc_keeps
    | with_reducible apply State.instr_keeps
    | with_reducible apply hf
    | intro _
    | with_reducible apply State.Keeps.snd
    | with_reducible apply ite_snd
    | with_reducible apply Snd.mk'
    | with_reducible apply Snd.reset
    | with_reducible apply Snd.out
    | with_reducible apply Snd.psrWrite
    | dsimp only
    | with_reducible apply ite_keeps

theorem execLdac_keeps {s r' : State} {r : CoreRun} {t : Fin 4} {a : MemAddr} {err : MemErr} (h : s.Keeps r') : KeepsOut s (execLdac r t a err r') := by
  unfold execLdac
  repeat' first
    | with_reducible assumption
    | intro _
    | with_reducible apply State.coreLoad_keeps
    | with_reducible apply State.acAccess_keeps
    | with_reducible apply KeepsOut.next

theorem execStac_keeps {s r' : State} {r : CoreRun} {t : Fin 4} {a : MemAddr} {err : MemErr} (h : s.Keeps r') : KeepsOut s (execStac r t a err r') := by
  unfold execStac
  repeat' first
    | with_reducible assumption
    | intro _
    | with_reducible apply State.coreStore_keeps
    | with_reducible apply State.acAccess_keeps
    | with_reducible apply KeepsOut.next

theorem execBranch_keeps {s r' : State} {r : CoreRun} {cond : Fin 16} {off : BitVec 22} (h : s.Keeps r') : KeepsOut s (execBranch r cond off r') := by
  unfold execBranch
  repeat' first
    | with_reducible assumption
    | intro _
    | with_reducible apply State.setCore_keeps
    | with_reducible apply State.instr_keeps
    | with_reducible apply Core.goto_snd
    | with_reducible apply Core.link_snd
    | with_reducible apply Core.advance_snd
    | intro _
    | with_reducible apply State.Keeps.snd
    | with_reducible apply ite_snd
    | with_reducible apply Snd.mk'
    | with_reducible apply Snd.reset
    | with_reducible apply Snd.out
    | with_reducible apply Snd.psrWrite
    | dsimp only
    | with_reducible apply ite_keeps
    | with_reducible apply ite_keepsOut
    | with_reducible apply KeepsOut.next

theorem execJr_keeps {s r' : State} {r : CoreRun} {n : Fin 16} (h : s.Keeps r') : KeepsOut s (execJr r n r') := by
  unfold execJr
  repeat' first
    | with_reducible assumption
    | intro _
    | with_reducible apply State.setCore_keeps
    | with_reducible apply State.instr_keeps
    | with_reducible apply Core.goto_snd
    | intro _
    | with_reducible apply State.Keeps.snd
    | with_reducible apply ite_snd
    | with_reducible apply Snd.mk'
    | with_reducible apply Snd.reset
    | with_reducible apply Snd.out
    | with_reducible apply Snd.psrWrite
    | dsimp only
    | with_reducible apply KeepsOut.next

theorem execJlr_keeps {s r' : State} {r : CoreRun} {n : Fin 16} (h : s.Keeps r') : KeepsOut s (execJlr r n r') := by
  unfold execJlr
  repeat' first
    | with_reducible assumption
    | intro _
    | with_reducible apply State.setCore_keeps
    | with_reducible apply State.instr_keeps
    | with_reducible apply Core.goto_snd
    | with_reducible apply Core.link_snd
    | intro _
    | with_reducible apply State.Keeps.snd
    | with_reducible apply ite_snd
    | with_reducible apply Snd.mk'
    | with_reducible apply Snd.reset
    | with_reducible apply Snd.out
    | with_reducible apply Snd.psrWrite
    | dsimp only
    | with_reducible apply KeepsOut.next

end Sys2Proof.Machine
end

