-- ==== Sys2Proof/Laws/Keeps25.lean ====
section
/-!
SUPPORT. What the operations and meanings of Machine/CpuSys, Dom keep, one lemma each (State.Keeps).
-/

namespace Sys2Proof.Machine

theorem State.wpost_keeps {s r : State} {e : Nat} {d : Fin 32} {mb : Nat} {v : BitVec 64} (h : s.Keeps r) : s.Keeps (State.wpost r e d mb v) := by
  unfold State.wpost
  repeat' first
    | with_reducible assumption
    | with_reducible apply State.setCore_keeps
    | with_reducible apply State.mbxPost_keeps
    | with_reducible refine State.mbxPost_keeps' (by with_reducible assumption) ?_
    | with_reducible apply State.gateWords_keeps
    | with_reducible apply Core.writeD_snd
    | with_reducible apply Core.advance_snd
    | with_reducible apply State.draw_keeps
    | with_reducible refine State.draw_keeps' (by with_reducible assumption) ?_
    | intro _
    | with_reducible apply State.Keeps.snd
    | with_reducible apply ite_snd
    | with_reducible apply Snd.mk'
    | with_reducible apply Snd.reset
    | with_reducible apply Snd.out
    | with_reducible apply Snd.psrWrite
    | dsimp only
    | with_reducible apply KeepsFst.fst
    | split

theorem execWpost_keeps {s r' : State} {r : CoreRun} {d : Fin 32} {mb : Fin 16} {n : Fin 32} (h : s.Keeps r') : KeepsOut s (execWpost r d mb n r') := by
  unfold execWpost
  repeat' first
    | with_reducible assumption
    | intro _
    | with_reducible apply State.privInstr_keeps
    | with_reducible apply State.wpost_keeps
    | with_reducible apply KeepsOut.next

theorem State.wack_keeps {s r : State} {e : Nat} {d : Fin 32} {mb : Nat} {timed : Bool} (h : s.Keeps r) : s.Keeps (State.wack r e d mb timed) := by
  unfold State.wack
  repeat' first
    | with_reducible assumption
    | with_reducible apply State.setSide_keeps
    | with_reducible apply State.setCore_keeps
    | with_reducible apply State.crossed_keeps
    | with_reducible apply Core.writeD_snd
    | with_reducible apply Core.advance_snd
    | intro _
    | with_reducible apply State.Keeps.snd
    | with_reducible apply ite_snd
    | with_reducible apply Snd.mk'
    | with_reducible apply Snd.reset
    | with_reducible apply Snd.out
    | with_reducible apply Snd.psrWrite
    | dsimp only
    | split

theorem execWack_keeps {s r' : State} {r : CoreRun} {d : Fin 32} {mb : Fin 16} {n : Fin 32} (h : s.Keeps r') : KeepsOut s (execWack r d mb n r') := by
  unfold execWack
  repeat' first
    | with_reducible assumption
    | intro _
    | with_reducible apply State.privInstr_keeps
    | with_reducible apply State.wack_keeps
    | with_reducible apply KeepsOut.next

theorem State.wackTimeout_keeps {s r : State} {e : Nat} (h : s.Keeps r) : s.Keeps (State.wackTimeout r e) := by
  unfold State.wackTimeout
  repeat' first
    | with_reducible assumption
    | with_reducible apply State.wackEnd_keeps
    | with_reducible apply State.wack_keeps
    | split

theorem execWackTimeout_keeps {s r : State} {n : Fin 6} (h : s.Keeps r) : KeepsOut s (execWackTimeout n r) := by
  unfold execWackTimeout
  repeat' first
    | with_reducible assumption
    | with_reducible apply State.wackTimeout_keeps
    | with_reducible apply KeepsOut.next

theorem State.srRead_keeps {s r : State} {e : Nat} {sr : Nat} (h : s.Keeps r) : KeepsFst s (State.srRead r e sr) := by
  unfold State.srRead
  repeat' first
    | with_reducible assumption
    | with_reducible apply State.icAck_keeps
    | with_reducible refine State.icAck_keeps' (by with_reducible assumption) ?_
    | with_reducible apply State.draw_keeps
    | with_reducible refine State.draw_keeps' (by with_reducible assumption) ?_
    | with_reducible apply ite_keeps
    | with_reducible apply ite_keepsFst
    | with_reducible apply KeepsFst.fst
    | with_reducible apply KeepsFst.mk

theorem State.srRead_keeps' {s r t : State} {e : Nat} {sr : Nat} {y : BitVec 64} (e : State.srRead r e sr = (t, y)) (h : s.Keeps r) :
    s.Keeps t :=
  (State.srRead_keeps h).elim e

theorem State.srWrite_keeps {s r : State} {e : Nat} {sr : Nat} {v : BitVec 64} (h : s.Keeps r) : s.Keeps (State.srWrite r e sr v) := by
  unfold State.srWrite
  repeat' first
    | with_reducible assumption
    | with_reducible apply State.setCore_keeps
    | with_reducible apply State.icEoi_keeps
    | with_reducible apply Core.writeSp_snd
    | intro _
    | with_reducible apply State.Keeps.snd
    | with_reducible apply ite_snd
    | with_reducible apply Snd.mk'
    | with_reducible apply Snd.reset
    | with_reducible apply Snd.out
    | with_reducible apply Snd.psrWrite
    | dsimp only
    | with_reducible apply ite_keeps

theorem State.srAccess_keeps {s r' : State} {r : CoreRun} {need : Option Nat} {f : State → Nat → State} (h : s.Keeps r') (hf : ∀ t x, s.Keeps t → s.Keeps (f t x)) : s.Keeps (State.srAccess r' r need f) := by
  unfold State.srAccess
  repeat' first
    | with_reducible assumption
    | intro _
    | with_reducible apply State.takeExc_keeps
    | with_reducible apply State.instr_keeps
    | with_reducible apply hf
    | intro _
    | with_reducible apply State.Keeps.snd
    | with_reducible apply ite_snd
    | with_reducible apply Snd.mk'
    | with_reducible apply Snd.reset
    | with_reducible apply Snd.out
    | with_reducible apply Snd.psrWrite
    | dsimp only
    | with_reducible apply ite_keeps
    | split

theorem State.mfsr_keeps {s r' : State} {r : CoreRun} {d : Fin 32} {sr : Nat} (h : s.Keeps r') : s.Keeps (State.mfsr r' r d sr) := by
  unfold State.mfsr
  repeat' first
    | with_reducible assumption
    | intro _
    | with_reducible apply State.setCore_keeps
    | with_reducible apply State.srRead_keeps
    | with_reducible refine State.srRead_keeps' (by with_reducible assumption) ?_
    | with_reducible apply State.srAccess_keeps
    | with_reducible apply Core.writeD_snd
    | with_reducible apply Core.advance_snd
    | intro _
    | with_reducible apply State.Keeps.snd
    | with_reducible apply ite_snd
    | with_reducible apply Snd.mk'
    | with_reducible apply Snd.reset
    | with_reducible apply Snd.out
    | with_reducible apply Snd.psrWrite
    | dsimp only
    | with_reducible apply KeepsFst.fst

theorem State.mtsr_keeps {s r' : State} {r : CoreRun} {sr : Nat} {n : Fin 32} (h : s.Keeps r') : s.Keeps (State.mtsr r' r sr n) := by
  unfold State.mtsr
  repeat' first
    | with_reducible assumption
    | intro _
    | with_reducible apply State.setCore_keeps
    | with_reducible apply State.srWrite_keeps
    | with_reducible apply State.srAccess_keeps
    | with_reducible apply Core.advance_snd
    | intro _
    | with_reducible apply State.Keeps.snd

theorem execMfsr_keeps {s r' : State} {r : CoreRun} {d : Fin 32} {sr : BitVec 16} (h : s.Keeps r') : KeepsOut s (execMfsr r d sr r') := by
  unfold execMfsr
  repeat' first
    | with_reducible assumption
    | with_reducible apply State.mfsr_keeps
    | with_reducible apply KeepsOut.next

theorem execMtsr_keeps {s r' : State} {r : CoreRun} {sr : BitVec 16} {n : Fin 32} (h : s.Keeps r') : KeepsOut s (execMtsr r sr n r') := by
  unfold execMtsr
  repeat' first
    | with_reducible assumption
    | with_reducible apply State.mtsr_keeps
    | with_reducible apply KeepsOut.next

theorem execIcAck_keeps {s r' : State} {r : CoreRun} {d : Fin 32} (h : s.Keeps r') : KeepsOut s (execIcAck r d r') := by
  unfold execIcAck
  repeat' first
    | with_reducible assumption
    | with_reducible apply State.mfsr_keeps
    | with_reducible apply KeepsOut.next

theorem execIcEoi_keeps {s r' : State} {r : CoreRun} {n : Fin 32} (h : s.Keeps r') : KeepsOut s (execIcEoi r n r') := by
  unfold execIcEoi
  repeat' first
    | with_reducible assumption
    | with_reducible apply State.mtsr_keeps
    | with_reducible apply KeepsOut.next

theorem State.trap_keeps {s r : State} {e : Nat} (h : s.Keeps r) : s.Keeps (State.trap r e) := by
  unfold State.trap
  repeat' first
    | with_reducible assumption
    | with_reducible apply State.takeExc_keeps
    | with_reducible apply Core.advance_snd
    | intro _
    | with_reducible apply State.Keeps.snd
    | with_reducible apply ite_snd

theorem execTrap_keeps {s r' : State} {r : CoreRun} (h : s.Keeps r') : KeepsOut s (execTrap r r') := by
  unfold execTrap
  repeat' first
    | with_reducible assumption
    | intro _
    | with_reducible apply State.instr_keeps
    | with_reducible apply State.trap_keeps
    | with_reducible apply KeepsOut.next

theorem execMcall_keeps {s r' : State} {r : CoreRun} (h : s.Keeps r') : KeepsOut s (execMcall r r') := by
  unfold execMcall
  repeat' first
    | with_reducible assumption
    | intro _
    | with_reducible apply State.takeExc_keeps
    | with_reducible apply State.privInstr_keeps
    | with_reducible apply Core.advance_snd
    | intro _
    | with_reducible apply State.Keeps.snd
    | with_reducible apply ite_snd
    | with_reducible apply Snd.mk'
    | with_reducible apply Snd.reset
    | with_reducible apply Snd.out
    | with_reducible apply Snd.psrWrite
    | dsimp only
    | with_reducible apply KeepsOut.next

theorem execEret_keeps {s r' : State} {r : CoreRun} (h : s.Keeps r') : KeepsOut s (execEret r r') := by
  unfold execEret
  repeat' first
    | with_reducible assumption
    | intro _
    | with_reducible apply State.setCore_keeps
    | with_reducible apply State.privInstr_keeps
    | with_reducible apply Core.eret_snd
    | intro _
    | with_reducible apply State.Keeps.snd
    | with_reducible apply ite_snd
    | with_reducible apply Snd.mk'
    | with_reducible apply Snd.reset
    | with_reducible apply Snd.out
    | with_reducible apply Snd.psrWrite
    | dsimp only
    | with_reducible apply KeepsOut.next

theorem State.wfi_keeps {s r : State} {e : Nat} (h : s.Keeps r) : s.Keeps (State.wfi r e) := by
  unfold State.wfi
  repeat' first
    | with_reducible assumption
    | with_reducible apply State.setCore_keeps
    | with_reducible apply Core.advance_snd
    | intro _
    | with_reducible apply State.Keeps.snd
    | with_reducible apply ite_snd
    | with_reducible apply Snd.mk'

theorem execWfi_keeps {s r' : State} {r : CoreRun} (h : s.Keeps r') : KeepsOut s (execWfi r r') := by
  unfold execWfi
  repeat' first
    | with_reducible assumption
    | intro _
    | with_reducible apply State.privInstr_keeps
    | with_reducible apply State.wfi_keeps
    | with_reducible apply KeepsOut.next

theorem execWfiWake_keeps {s r : State} {n : Fin 6} (h : s.Keeps r) : KeepsOut s (execWfiWake n r) := by
  unfold execWfiWake
  repeat' first
    | with_reducible assumption
    | with_reducible apply State.setCore_keeps
    | with_reducible apply State.wfi_keeps
    | intro _
    | with_reducible apply State.Keeps.snd
    | with_reducible apply ite_snd
    | with_reducible apply Snd.mk'
    | with_reducible apply Snd.reset
    | with_reducible apply Snd.out
    | with_reducible apply Snd.psrWrite
    | dsimp only
    | with_reducible apply ite_keeps
    | with_reducible apply ite_keepsOut
    | with_reducible apply KeepsOut.next

theorem State.wackAbandon_keeps {s r : State} {e : Nat} (h : s.Keeps r) : s.Keeps (State.wackAbandon r e) := by
  unfold State.wackAbandon
  repeat' first
    | with_reducible assumption
    | with_reducible apply State.setSide_keeps
    | with_reducible apply State.wack_keeps
    | split

theorem execInterruptDeliver_keeps {s r : State} {n : Fin 6} (h : s.Keeps r) : KeepsOut s (execInterruptDeliver n r) := by
  unfold execInterruptDeliver
  repeat' first
    | with_reducible assumption
    | with_reducible apply State.takeExc_keeps
    | with_reducible apply State.wackAbandon_keeps
    | intro _
    | with_reducible apply State.Keeps.snd
    | with_reducible apply ite_snd
    | with_reducible apply Snd.mk'
    | with_reducible apply Snd.reset
    | with_reducible apply Snd.out
    | with_reducible apply Snd.psrWrite
    | dsimp only
    | with_reducible apply ite_keeps
    | with_reducible apply ite_keepsOut
    | with_reducible apply KeepsOut.next

theorem execFence_keeps {s r' : State} {r : CoreRun} (h : s.Keeps r') : KeepsOut s (execFence r r') := by
  unfold execFence
  repeat' first
    | with_reducible assumption
    | intro _
    | with_reducible apply State.setCore_keeps
    | with_reducible apply State.privInstr_keeps
    | with_reducible apply Core.advance_snd
    | intro _
    | with_reducible apply State.Keeps.snd
    | with_reducible apply ite_snd
    | with_reducible apply Snd.mk'
    | with_reducible apply Snd.reset
    | with_reducible apply Snd.out
    | with_reducible apply Snd.psrWrite
    | dsimp only
    | with_reducible apply KeepsOut.next

theorem execIflush_keeps {s r' : State} {r : CoreRun} (h : s.Keeps r') : KeepsOut s (execIflush r r') := by
  unfold execIflush
  repeat' first
    | with_reducible assumption
    | intro _
    | with_reducible apply State.setCore_keeps
    | with_reducible apply State.privInstr_keeps
    | with_reducible apply Core.advance_snd
    | intro _
    | with_reducible apply State.Keeps.snd
    | with_reducible apply ite_snd
    | with_reducible apply Snd.mk'
    | with_reducible apply Snd.reset
    | with_reducible apply Snd.out
    | with_reducible apply Snd.psrWrite
    | dsimp only
    | with_reducible apply KeepsOut.next

theorem execTlbinv_keeps {s r' : State} {r : CoreRun} {k : TlbScope} (h : s.Keeps r') : KeepsOut s (execTlbinv r k r') := by
  unfold execTlbinv
  repeat' first
    | with_reducible assumption
    | intro _
    | with_reducible apply State.setCore_keeps
    | with_reducible apply State.privInstr_keeps
    | with_reducible apply Core.tlbInv_snd
    | with_reducible apply Core.advance_snd
    | intro _
    | with_reducible apply State.Keeps.snd
    | with_reducible apply ite_snd
    | with_reducible apply Snd.mk'
    | with_reducible apply Snd.reset
    | with_reducible apply Snd.out
    | with_reducible apply Snd.psrWrite
    | dsimp only
    | with_reducible apply KeepsOut.next

theorem State.lockstepStop_keeps {s r : State} {pair : Nat} (h : s.Keeps r) : s.Keeps (State.lockstepStop r pair) := by
  unfold State.lockstepStop
  repeat' first
    | with_reducible assumption
    | with_reducible apply State.raiseL_keeps
    | with_reducible apply State.setCore_keeps
    | intro _
    | with_reducible apply State.Keeps.snd
    | with_reducible apply ite_snd
    | with_reducible apply Snd.mk'
    | with_reducible apply Snd.reset
    | with_reducible apply Snd.out
    | with_reducible apply Snd.psrWrite
    | dsimp only
    | with_reducible apply ite_keeps

theorem execLockstepMismatch_keeps {s r : State} {pair : Fin 2} (h : s.Keeps r) : KeepsOut s (execLockstepMismatch pair r) := by
  unfold execLockstepMismatch
  repeat' first
    | with_reducible assumption
    | with_reducible apply State.lockstepStop_keeps
    | with_reducible apply KeepsOut.next

theorem State.instrResume_keeps {s r : State} {x : Stall} {e : Nat} (h : s.Keeps r) : s.Keeps (State.instrResume r x e) := by
  unfold State.instrResume
  repeat' first
    | with_reducible assumption
    | with_reducible apply State.busError_keeps
    | with_reducible apply State.setCore_keeps
    | with_reducible apply State.load_keeps
    | with_reducible refine State.load_keeps' (by with_reducible assumption) ?_
    | with_reducible apply State.store_keeps
    | with_reducible refine State.store_keeps' (by with_reducible assumption) ?_
    | with_reducible apply State.pushStall_keeps
    | with_reducible apply State.takeExc_keeps
    | with_reducible apply State.loadLands_keeps
    | with_reducible apply Core.advance_snd
    | intro _
    | with_reducible apply State.Keeps.snd
    | with_reducible apply ite_snd
    | with_reducible apply Snd.mk'
    | with_reducible apply Snd.reset
    | with_reducible apply Snd.out
    | with_reducible apply Snd.psrWrite
    | dsimp only
    | split

theorem State.stallResume_keeps {s r : State} {x : Stall} (h : s.Keeps r) : s.Keeps (State.stallResume r x) := by
  unfold State.stallResume
  repeat' first
    | with_reducible assumption
    | with_reducible apply State.store_keeps
    | with_reducible refine State.store_keeps' (by with_reducible assumption) ?_
    | with_reducible apply State.busRead_keeps
    | with_reducible apply State.busWrite_keeps
    | with_reducible apply State.instr_keeps
    | with_reducible apply State.instrResume_keeps
    | with_reducible apply ite_keeps
    | split
    | dsimp only
    | fail_if_no_progress with_reducible apply State.Keeps.mk'

theorem State.resumeStalls_keeps {s r : State} {p : Stall → Bool} (h : s.Keeps r) : s.Keeps (State.resumeStalls r p) := by
  unfold State.resumeStalls
  repeat' first
    | with_reducible assumption
    | intro _
    | with_reducible apply State.each_keeps
    | with_reducible apply State.stallResume_keeps
    | fail_if_no_progress with_reducible apply State.Keeps.mk'

theorem State.nvProgrammed_keeps {s r : State} {m : Master} (h : s.Keeps r) : s.Keeps (State.nvProgrammed r m) := by
  unfold State.nvProgrammed
  repeat' first
    | with_reducible assumption
    | intro _
    | with_reducible apply State.setNvBusy_keeps
    | with_reducible apply State.nvCommit_keeps
    | with_reducible apply State.resumeStalls_keeps
    | split

theorem execNvProgramDone_keeps {s r : State} {m : Master} (h : s.Keeps r) : KeepsOut s (execNvProgramDone m r) := by
  unfold execNvProgramDone
  repeat' first
    | with_reducible assumption
    | with_reducible apply State.nvProgrammed_keeps
    | with_reducible apply KeepsOut.next

theorem State.demandAccess_keeps {s r : State} {m : Master} {a : Nat} {size : Nat} {op : DemandOp} (h : s.Keeps r) : s.Keeps (State.demandAccess r m a size op) := by
  unfold State.demandAccess
  repeat' first
    | with_reducible assumption
    | with_reducible apply State.busRead_keeps
    | with_reducible apply State.busWrite_keeps
    | split

theorem execDomainDemandAccess_keeps {s r : State} {m : Master} {a : BitVec 40} {w : MemWidth} {op : DemandOp} (h : s.Keeps r) : KeepsOut s (execDomainDemandAccess m a w op r) := by
  unfold execDomainDemandAccess
  repeat' first
    | with_reducible assumption
    | with_reducible apply State.demandAccess_keeps
    | with_reducible apply KeepsOut.next

theorem State.heldWrites_keeps {s r : State} (h : s.Keeps r) : s.Keeps (State.heldWrites r) := by
  unfold State.heldWrites
  repeat' first
    | with_reducible assumption
    | intro _
    | with_reducible apply State.each_keeps
    | with_reducible apply State.nvPut_keeps
    | fail_if_no_progress with_reducible apply State.Keeps.mk'

theorem State.domainReady_keeps {s r : State} {d : Nat} (h : s.Keeps r) : s.Keeps (State.domainReady r d) := by
  unfold State.domainReady
  repeat' first
    | with_reducible assumption
    | intro _
    | with_reducible apply State.put_keeps
    | with_reducible apply State.when_keeps
    | with_reducible apply State.bsqResume_keeps
    | with_reducible apply State.resumeStalls_keeps
    | with_reducible apply State.heldWrites_keeps
    | with_reducible apply ite_keeps

theorem execDomainReady_keeps {s r : State} {d : Fin 8} (h : s.Keeps r) : KeepsOut s (execDomainReady d r) := by
  unfold execDomainReady
  repeat' first
    | with_reducible assumption
    | with_reducible apply State.domainReady_keeps
    | with_reducible apply KeepsOut.next

theorem State.stallFails_keeps {s r : State} {x : Stall} (h : s.Keeps r) : s.Keeps (State.stallFails r x) := by
  unfold State.stallFails
  repeat' first
    | with_reducible assumption
    | with_reducible apply State.busError_keeps
    | with_reducible apply State.takeExc_keeps
    | with_reducible apply State.instr_keeps
    | intro _
    | with_reducible apply State.Keeps.snd
    | with_reducible apply ite_snd
    | with_reducible apply Snd.mk'
    | with_reducible apply Snd.reset
    | with_reducible apply Snd.out
    | with_reducible apply Snd.psrWrite
    | dsimp only
    | with_reducible apply ite_keeps
    | split
    | dsimp only
    | fail_if_no_progress with_reducible apply State.Keeps.mk'

theorem State.domainTimeout_keeps {s r : State} {d : Nat} (h : s.Keeps r) : s.Keeps (State.domainTimeout r d) := by
  unfold State.domainTimeout
  repeat' first
    | with_reducible assumption
    | intro _
    | with_reducible apply State.put_keeps
    | with_reducible apply State.raiseBit_keeps
    | with_reducible apply State.each_keeps
    | with_reducible apply State.raiseL_keeps
    | with_reducible apply State.bsqStallFails_keeps
    | with_reducible apply State.stallFails_keeps
    | with_reducible apply ite_keeps
    | fail_if_no_progress with_reducible apply State.Keeps.mk'

theorem execDomainReadyTimeout_keeps {s r : State} {d : Fin 8} (h : s.Keeps r) : KeepsOut s (execDomainReadyTimeout d r) := by
  unfold execDomainReadyTimeout
  repeat' first
    | with_reducible assumption
    | with_reducible apply State.domainTimeout_keeps
    | with_reducible apply KeepsOut.next

end Sys2Proof.Machine
end

