-- ==== Sys2Proof/WellFormed.lean ====
section
/-!
DEFINITION. Which commands are well formed: the bounds the manual sets on a command's operands that their types do not
already hold (log entry 8).
-/

namespace Sys2Proof

/-- The endpoint that makes the access a command is; none for an event. -/
def Instr.master : Instr → Option Master
  | .txnAllocRead (m := m) .. => some m
  | .txnFreeWrite (m := m) .. => some m
  | .txnStagingWrite (m := m) .. => some m
  | .commit (m := m) .. => some m
  | .txnCancel (m := m) .. => some m
  | .txnNtxSend (m := m) .. => some m
  | .rclr (m := m) .. => some m
  | .hswDclr (m := m) .. => some m
  | .hswTestGo (m := m) .. => some m
  | .vlvTestGo (m := m) .. => some m
  | .ledTestGo (m := m) .. => some m
  | .doutTestGo (m := m) .. => some m
  | .vlvDclr (m := m) .. => some m
  | .ledDclr (m := m) .. => some m
  | .mrst (m := m) .. => some m
  | .frameWrite (m := m) .. => some m
  | .dinConfigWrite (m := m) .. => some m
  | .doutRefresh (m := m) .. => some m
  | .doutDclr (m := m) .. => some m
  | .gtStart (m := m) .. => some m
  | .gtStop (m := m) .. => some m
  | .gtReset (m := m) .. => some m
  | .capnow (m := m) .. => some m
  | .gtGstart (m := m) .. => some m
  | .gtGstop (m := m) .. => some m
  | .gtCapRead (m := m) .. => some m
  | .gtPerCmpWrite (m := m) .. => some m
  | .splitReadLow (m := m) .. => some m
  | .splitReadHigh (m := m) .. => some m
  | .splitWriteLow (m := m) .. => some m
  | .splitWriteHigh (m := m) .. => some m
  | .ntuIncWrite (m := m) .. => some m
  | .ntuSlew (m := m) .. => some m
  | .ntuStep (m := m) .. => some m
  | .ntuSyncWrite (m := m) .. => some m
  | .ntuSwcap (m := m) .. => some m
  | .ntuCapRead (m := m) .. => some m
  | .ntuTriggerArm (m := m) .. => some m
  | .ntuTriggerDisarm (m := m) .. => some m
  | .canModeWrite (m := m) .. => some m
  | .canRelease (m := m) .. => some m
  | .canTxreq (m := m) .. => some m
  | .canCancel (m := m) .. => some m
  | .borec (m := m) .. => some m
  | .linEnable (m := m) .. => some m
  | .schgo (m := m) .. => some m
  | .schstop (m := m) .. => some m
  | .linTxreq (m := m) .. => some m
  | .linFdRead (m := m) .. => some m
  | .gosleep (m := m) .. => some m
  | .linWake (m := m) .. => some m
  | .nslLocalWrite (m := m) .. => some m
  | .gweReadEntry (m := m) .. => some m
  | .gweWriteShadow (m := m) .. => some m
  | .gweCopy (m := m) .. => some m
  | .gweSwap (m := m) .. => some m
  | .accPoll (m := m) .. => some m
  | .accAbort (m := m) .. => some m
  | .mbxTxqPost (m := m) .. => some m
  | .mbxRxqRead (m := m) .. => some m
  | .mbxAck (m := m) .. => some m
  | .mbxRing (m := m) .. => some m
  | .lockRead (m := m) .. => some m
  | .lockRelease (m := m) .. => some m
  | .nvProgramDone (m := m) .. => some m
  | .pmuRequest (m := m) .. => some m
  | .domainDemandAccess (m := m) .. => some m
  | .netoffWrite (m := m) .. => some m
  | .wtmrWrite (m := m) .. => some m
  | .sysLdieReset (m := m) .. => some m
  | .coreReset (m := m) .. => some m
  | .wdKick (m := m) .. => some m
  | .hoReady (m := m) .. => some m
  | .hoDone (m := m) .. => some m
  | .hoAbandon (m := m) .. => some m
  | .fcuAck (m := m) .. => some m
  | .fcuForceWrite (m := m) .. => some m
  | .fcuPfrcWrite (m := m) .. => some m
  | .fcuSevWrite (m := m) .. => some m
  | .fcuTmrWrite (m := m) .. => some m
  | .registerWrite (m := m) .. => some m
  | _ => none

/-- A commit notice names 1 to 48 node entries (spec/01, R42). -/
def Notice.wf (n : Notice) : Bool := 1 ≤ n.nodes.length && n.nodes.length ≤ 48

/-- A command's operands keep the manual's bounds: the seven endpoints make accesses (spec/00, R17), while the bootstrap
sequencer's own accesses are part of the bootstrap's events; an edge takes each transaction once (spec/01, R39); the
wire model
steps all 64 channels (spec/02, R65), the coil model all 24 (spec/04, R131), and the rail tracking reads all 48 sinks
(spec/05, R142). -/
def Instr.wf (i : Instr) : Bool :=
  i.master != some .bsq &&
    match i with
    | .commitEdge hs => decide hs.Nodup
    | .commitNoticeRx _ n => n.wf
    | .wireModelStep _ sense => sense.length == 64
    | .coilModelStep _ sense => sense.length == 24
    | .vledTrackStep _ _ _ vs is => vs.length == 48 && is.length == 48
    | _ => true

end Sys2Proof
end

