-- ==== Sys2Proof/Tests/Slice0.lean ====
section
/-!
SUPPORT. Tests: the well-formedness smoke, the manual's worked examples, and for every statement with hypotheses states
and operands that meet them together.
-/

set_option Elab.async false
set_option linter.unusedVariables false

open Sys2Proof Sys2Proof.Machine

namespace Sys2Proof.Tests

/-! States. -/

/-- After reset with the given fields set. -/
def wit (l : List (Fld × Nat)) : State := l.foldl (fun s e => s.put e.1 e.2) State.reset

/-- A core runs at the boot ROM. -/
def witCore (e : Nat) : State := State.reset.setCore e { released := true, pc := 0x20000000, a := [(0, 0x20000000)] }

/-- A core holds a digit above 9 in D1 and AC1. -/
def witDigit : State := State.reset.setCore 1 { released := true, pc := 0x20000000, d := [(1, 0xA)], ac := [(1, 0xA)] }

/-- The power-on reset has ended. -/
def awake : State := { State.reset with sys := { State.reset.sys with por := false } }

/-- No domain is READY. -/
def witDark : State := awake.put PMU_DOMSTAT_READY 0

/-- A bootstrap is at some point of its work. -/
def witBoot (l : List (Fld × Nat)) (b : BsqState) : State := { wit l with bsq := b }

/-- A command message: family, operation and body. -/
def msgOf (a b : Nat) (l : List Byte) : List Byte := [BitVec.ofNat 8 a, BitVec.ofNat 8 b] ++ natLe 2 l.length ++ [0, 0,
  0, 0] ++ l

/-- An update session that has verified. -/
def sess (n : Nat) : Session :=
  { port := 31, length := n, seq := 5, slot := 1, staging := true, erased := [0], verified := true }

/-- The monitor runs, with a session and a key store. -/
def mon (l : List (Fld × Nat)) (x : Option Session) (k : KeyStore) : State :=
  { (wit l).setCore 5 { released := true } with sec := { State.reset.sec with session := x, keys := k } }

/-- The monitor answers ACTIVATE with a routine. -/
def gone : State := (mon [] none {}).setEntry 5 { pc := 0x20000000 }

/-- The same with a session. -/
def goneS (x : Session) : State := (mon [(BSQ_IMGBASE_HALFSZ, 1)] (some x) {}).setEntry 5 { pc := 0x20000000 }

/-- The same with an image. -/
def goneI (x : Session) : State := { goneS x with mem := [⟨0x1001C, 1⟩, ⟨0x10100, 11⟩] }

/-- The same with keys. -/
def goneK (k : KeyStore) : State := (mon [] none k).setEntry 5 { pc := 0x20000000 }

/-- The frame that carried a message. -/
def netVia : Carrier := .eth ⟨0, 0, none, 0, []⟩

/-- A message waits at the monitor. -/
def witMsg (u : State) (l : List Byte) : State := u.setSecQueue [⟨31, 7, 0, l, .net 31 7 netVia, none⟩]

/-- A core runs at user level behind a page table. -/
def witUser : State := ((awake.setWord 0x8000 0x10001).setWord 0x10010 0x20000019).setCore 1
  { released := true, pc := 0x20000, psr := 0, ptbr := 0x8000 }

/-- A fault pends with a class. -/
def witPend (c k : Nat) : State :=
  { (awake.setCore 1 { released := true }).raiseBit (srcBit FCU_PEND_PEND c) with fcu := { awake.fcu with acting := [(c, { cls := k })] } }

/-- A core may store to the first SRAM partition. -/
def witMem : State := ((witCore 1).put (BSQ_PART_V 0) 1).put (BSQ_PART_SIZE 0) 1

/-- A mailbox joins two endpoints. -/
def witBox (a b : Nat) : State := (((witCore 1).put (MBX_CFG_EPA 15) a).put (MBX_CFG_EPB 15) b)

/-- An enabled source asserts. -/
def witIrq : State := (((State.reset.put ⟨TXN_IRQ, 32, 3⟩ 1).put TXN_IEN_ERR_EN 1).setCore 1
  { released := true, psr := 0x9000, icEn := [(0, 0x100000000)], icPri := [(2, 5)] })

/-! Well-formed commands. -/

/-- A notice with no node is not well formed. -/
theorem test_wf_notice : (Instr.commitNoticeRx 0 { group := 1, time := 2, origin := 0, nodes := [] }).wf = false := by decide

/-- An edge takes a handle once. -/
theorem test_wf_edge : (Instr.commitEdge [3, 3]).wf = false ∧ (Instr.commitEdge [3, 4]).wf = true := by decide

/-- The wire model takes one sense value per channel. -/
theorem test_wf_wire : (Instr.wireModelStep 0 []).wf = false := by decide

/-- The coil model takes one sense value per channel. -/
theorem test_wf_coil : (Instr.coilModelStep 0 []).wf = false := by decide

/-- The rail tracking takes one voltage and one current per sink. -/
theorem test_wf_rail : (Instr.vledTrackStep 0 0 0 (List.replicate 48 0) []).wf = false := by decide

/-- The bootstrap sequencer sends no command. -/
theorem test_wf_master : (Instr.rclr .bsq 0).wf = false ∧ (Instr.rclr .host 0).wf = true := by decide

/-- No word spells a command. -/
theorem test_decode_none : decodeTableWord 16 0 = none ∧ State.reset.withFetchWord 16 0 = State.reset := ⟨rfl, rfl⟩

/-! The manual's worked examples. -/

/-- spec/05, entry light: the levels of steps 64, 128, 192 and 256, and of the fade back from 166. -/
theorem test_fade_levels :
    ([64, 128, 192, 256].map (Fade.level ⟨0, 0x800, 0, 1500⟩)) = [38, 166, 596, 2048] ∧
    Fade.level ⟨166, 0, 0, 500⟩ 128 = 38 := by
  decide +kernel

/-- spec/11, odometer: DADD, ADD with DADJ, BCVT and DSUB. -/
theorem test_odometer : (decSum 16 0x999995 7).val = 0x1000002 ∧ nibbleCarries 0x999995 7 0 = 0 ∧
    (adjust 0x99999C 0).val = 0x1000002 ∧ (adjust 0x99999C 0).c = false ∧ (toBinary 16 0x1000002).val = 1000002 ∧
    (decDiff 16 3 5).val = 0x9999999999999998 ∧ (decDiff 16 3 5).c = true := by
  decide +kernel

/-- spec/11, delay slots: D4 reads 3 in the slot and 7 after it; AC1 reads 0 in two slots and 5 after them. -/
theorem test_delay_slots :
    let c := (({} : Core).setRawD 4 3).advance 4
    let l := c.landLoad (.d 4) 7
    let k := c.landLoad (.ac 1) 5
    l.readD 4 = 3 ∧ (l.advance 4).readD 4 = 7 ∧ k.readAc 1 = 0 ∧ (k.advance 4).readAc 1 = 0 ∧
    ((k.advance 4).advance 4).readAc 1 = 5 := by
  decide +kernel

/-- spec/12, three readers: HOST takes LK07, the others read 7; HOST's write frees it and sets their LKREL bit; ZC0 takes it
next. -/
theorem test_three_readers :
    let s := ((awake.lockRead .host 7 .w64).lockRead .zc0 7 .w64).lockRead .zc2 7 .w64
    let t := s.lockWrite .host 7 true
    (awake.lockRead .host 7 .w64).reply = some (0, false) ∧ s.reply = some (7, false) ∧ t.lockRel 1 = 128 ∧
    t.lockRel 3 = 128 ∧ (t.lockRead .zc0 7 .w64).reply = some (0, false) ∧
    ((t.lockRead .zc0 7 .w64).lockRead .zc2 7 .w64).reply = some (1, false) := by
  decide +kernel

/-- spec/06, door switch: three LOW samples take DI17 from HIGH to LOW. -/
theorem test_door_switch :
    let s := (((((awake.setReg (DIN_CFG 17) 0x4002A).setReg (DIN_FLT 17) 0xA06003010304).put (DIN_STAT_STATE 17) 2).put
      (DIN_STAT_COUNT 17) 4).setDinc 17 { prev := some 2 })
    let low := fun t : State => after (execDinSample 17 39 600 true t) t
    (low (low s)).fld (DIN_STAT_COUNT 17) = 2 ∧ (low (low s)).fld (DIN_STAT_STATE 17) = 2 ∧
    (low (low (low s))).fld (DIN_STAT_COUNT 17) = 1 ∧ (low (low (low s))).fld (DIN_STAT_STATE 17) = 1 := by
  decide +kernel

/-- spec/06, relay: the next number is accepted, the same one again sets RFR_BAD. -/
theorem test_relay_refresh :
    let s := (((awake.put (DOUT_CFG_OWNER 4) 4).put (DOUT_STAT_SEQ 4) 7).put (DOUT_CFG_REFW 4) 5).setDou 4 { running := true }
    let t := s.doutRefresh .zc3 4 8
    let u := t.doutRefresh .zc3 4 8
    t.fld (DOUT_STAT_SEQ 4) = 8 ∧ t.flag DOUT_IRQ_RFR_BAD = false ∧ u.fld (DOUT_STAT_SEQ 4) = 8 ∧
    u.flag DOUT_IRQ_RFR_BAD = true := by
  decide +kernel

/-- spec/02, HSW_GOV: a BUDGET above 0x06CC stores 0x06CC. -/
theorem test_budget_capped :
    (awake.regWrite .zc0 HSW_GOV .w64 0x700).fld HSW_GOV_BUDGET = 0x6CC ∧
    (awake.regWrite .zc0 HSW_GOV .w64 0x553).fld HSW_GOV_BUDGET = 0x553 := by
  decide +kernel

/-- spec/07, R192 and R195: a compare written to a stopped counter moves its output. -/
theorem test_stopped_counter_output :
    (awake.gtRegWrite .zc0 7 .cmpA .w64 10).flag (GT_STAT_OUT 7) = true ∧ awake.flag (GT_STAT_OUT 7) = false := by
  decide +kernel

/-! Published examples of the algorithms the manual names. -/

/-- FIPS 180-4 example: SHA-256 of "abc". -/
theorem test_sha256 : beNat (sha256 [0x61, 0x62, 0x63]) =
    0xBA7816BF8F01CFEA414140DE5DAE2223B00361A396177A9CB410FF61F20015AD := by
  decide +kernel

/-- RFC 4493, example 1: AES-CMAC of the empty message, which rests on AES-128. -/
theorem test_cmac : beNat (aesCmac 0x2B7E151628AED2A6ABF7158809CF4F3C []) = 0xBB1D6929E95937287FA37D129B756746 := by
  decide +kernel

/-- RFC 3394, 4.1: a wrapped key of 128 bits, and the same with one bit wrong. -/
theorem test_unwrap :
    keyUnwrap (natBe 16 0x000102030405060708090A0B0C0D0E0F)
      (natBe 24 0x1FA68B0A8112B447AEF34BD8FB5A7B829D3E862371D2CFE5) =
      some (natBe 16 0x00112233445566778899AABBCCDDEEFF) ∧
    keyUnwrap (natBe 16 0x000102030405060708090A0B0C0D0E0F)
      (natBe 24 0x1FA68B0A8112B447AEF34BD8FB5A7B829D3E862371D2CFE4) = none := by
  decide +kernel

/-! Witnesses of the statements' hypotheses. -/

theorem test_witness_TxnOwnerCommandsComplete :
  ((fun (s : State) (m : Master) (h : Nat) => (s.opens m TXN_ALLOC = true) ∧ (s.fld BSQ_STAT_STATE = 5) ∧
    (allHandles.find? (fun h => s.txState h == txFree) = some h)) (wit [(BSQ_STAT_STATE, 5)]) .zc0 0) ∧
  ((fun (s : State) (m : Master) (h : Fin 32) => (s.opens m TXN_FREE = true) ∧ (s.fld (TXN_CTL_OWNER h) = m.num) ∧
    ((s.txState h = txStaging ∨ s.txState h = txDone ∨ s.txState h = txRefused))) (wit [(TXN_CTL_OWNER 3, 1),
    (TXN_STAT_STATE 3, 6)]) .zc0 3) ∧
  ((fun (s : State) (m : Master) (h : Fin 32) (i : Fin 64) (v : BitVec 64) => (s.opens m TXN_FREE = true) ∧ (s.fld
    (TXN_CTL_OWNER h) = m.num) ∧ ((s.txState h = txStaging ∨ s.txState h = txDone ∨ s.txState h = txRefused))) (wit
    [(TXN_CTL_OWNER 3, 1), (TXN_STAT_STATE 3, 7)]) .zc0 3 63 0) ∧
  ((fun (s : State) (m : Master) (h : Fin 32) (v : BitVec 64) => (s.opens m TXN_FREE = true) ∧ (s.fld (TXN_CTL_OWNER h)
    = m.num) ∧ ((s.txState h = txStaging ∨ s.txState h = txDone ∨ s.txState h = txRefused)) ∧ ((TXN_CTL_COUNT h).of v ≤
    64)) (wit [(TXN_CTL_OWNER 31, 7), (TXN_STAT_STATE 31, 7)]) .host 31 64) ∧
  ((fun (s : State) (m : Master) (h : Fin 32) (v : BitVec 64) => (s.opens m TXN_FREE = true) ∧ (s.fld (TXN_CTL_OWNER h)
    = m.num) ∧ ((s.txState h = txStaging ∨ s.txState h = txDone ∨ s.txState h = txRefused))) (wit [(TXN_CTL_OWNER 3, 1),
    (TXN_STAT_STATE 3, 6)]) .zc0 3 0) ∧
  ((fun (s : State) (m : Master) (h : Fin 32) => (s.opens m TXN_FREE = true) ∧ (s.fld (TXN_CTL_OWNER h) = m.num) ∧
    (s.txState h = txStaging)) (wit [(TXN_CTL_OWNER 3, 1), (TXN_STAT_STATE 3, 1)]) .zc0 3) ∧
  ((fun (s : State) (m : Master) (h : Fin 32) => (s.opens m TXN_FREE = true) ∧ (s.fld (TXN_CTL_OWNER h) = m.num) ∧
    ((s.txState h = txWaitNotice ∨ s.txState h = txArmed)) ∧ ((s.hnd h).noRet = false) ∧ ((s.hnd h).claim = none)) (wit
    [(TXN_CTL_OWNER 3, 1), (TXN_STAT_STATE 3, 3)]) .zc0 3) ∧
  ((fun (s : State) (m : Master) (h : Fin 32) => (s.opens m TXN_FREE = true) ∧ (s.fld (TXN_CTL_OWNER h) = m.num) ∧
    (s.txState h = txApplied)) (wit [(TXN_CTL_OWNER 3, 1), (TXN_STAT_STATE 3, 5)]) .zc0 3) := by
  refine ⟨?_, ?_, ?_, ?_, ?_, ?_, ?_, ?_⟩ <;> decide +kernel

theorem test_witness_TxnEventsComplete :
  ((fun (s : State) (h : Fin 32) => (s.txState h = txValidating) ∧ ((s.hnd h).shadow = true) ∧ (s.flag PDI_STAT_LINK_UP
    = true) ∧ (s.flag SYS_CLKSTAT_PLOC = false) ∧ ((s.hnd h).claim = none)) ((wit [(TXN_STAT_STATE 3, 2),
    (PDI_STAT_LINK_UP, 1)]).setHnd 3 { shadow := true }) 3) ∧
  ((fun (s : State) (h : Fin 32) (crc : Bool) => (s.txState h = txValidating) ∧ ((s.hnd h).shadow = true) ∧ (((s.when
    crc fun t => t.incSat PDI_STAT_LINK_ERR).hnd h).claim = none)) ((wit [(TXN_STAT_STATE 3, 2)]).setHnd 3
    { shadow := true }) 3 true) ∧
  ((fun (s : State) (k : Fin 2) (h : Fin 32) (b n v x : Nat) => ((s.chain k).armed = some (h.val, b, n, v)) ∧ (s.fld
    (LED_SC_STAT_STATE k) = 2) ∧ ((s.flag (LED_SC_CFG_VERIFY k) = false ∨ (s.chain k).shifted = false)) ∧ (s.fld
    (TXN_CTL_MODE h) ≠ 0)) ((wit [(LED_SC_STAT_STATE 1, 2), (TXN_CTL_MODE 3, 2)]).setChain 1
    { armed := some (3, 0, 8, 255) }) 1 3 0 8 255 255) ∧
  ((fun (s : State) (k : Fin 2) (h : Fin 32) (b n v x w : Nat) (c : Nat) => ((s.chain k).armed = some (h.val, b, n, v))
    ∧ (s.fld (LED_SC_STAT_STATE k) = 2) ∧ (s.flag (LED_SC_CFG_VERIFY k) = true) ∧ ((s.chain k).shifted = true) ∧
    ((s.chain k).last = some (w, c)) ∧ (x % 2 ^ n / 2 ^ (n - c) = w % 2 ^ c / 2 ^ (c - n)) ∧ (s.fld (TXN_CTL_MODE h) ≠
    0)) ((wit [(LED_SC_CFG_VERIFY 1, 1), (LED_SC_STAT_STATE 1, 2), (TXN_CTL_MODE 3, 2)]).setChain 1
    { armed := some (3, 0, 8, 255), shifted := true, last := some (170, 8) }) 1 3 0 8 255 426 170 8) ∧
  ((fun (s : State) (k : Fin 2) (h : Fin 32) (b n v x w : Nat) (c : Nat) => ((s.chain k).armed = some (h.val, b, n, v))
    ∧ (s.fld (LED_SC_STAT_STATE k) = 2) ∧ (s.flag (LED_SC_CFG_VERIFY k) = true) ∧ ((s.chain k).shifted = true) ∧
    ((s.chain k).last = some (w, c)) ∧ (x % 2 ^ n / 2 ^ (n - c) ≠ w % 2 ^ c / 2 ^ (c - n)) ∧ (s.fld (TXN_CTL_MODE h) ≠
    0)) ((wit [(LED_SC_CFG_VERIFY 1, 1), (LED_SC_STAT_STATE 1, 2), (TXN_CTL_MODE 3, 2)]).setChain 1
    { armed := some (3, 0, 8, 255), shifted := true, last := some (170, 8) }) 1 3 0 8 255 171 170 8) ∧
  ((fun (s : State) (h : Fin 32) => (s.txState h = txArmed) ∧ (2 ≤ s.fld (TXN_CTL_MODE h)) ∧ ((s.hnd h).noRet = false) ∧
    (s.timeErrorBad = false)) (wit [(TXN_STAT_STATE 3, 4), (TXN_CTL_MODE 3, 2), (NTU_SYNC_SYNC, 1), (NTU_SYNC_TERR, 0)])
    3) ∧
  ((fun (s : State) (h : Fin 32) => (s.txState h = txArmed) ∧ (s.fld (TXN_CTL_MODE h) = 3) ∧ ((s.hnd h).noRet = false) ∧
    (s.timeErrorBad = true)) (wit [(TXN_STAT_STATE 3, 4), (TXN_CTL_MODE 3, 3)]) 3) ∧
  ((fun (s : State) (h : Fin 32) (i : Fin 64) => (i.val ∈ (s.hnd h).window)) (State.reset.setHnd 3 { window := [63] }) 3
    63) ∧
  ((fun (s : State) (m : Master) (v : BitVec 64) => (s.opens m TXN_FREE = true) ∧ (s.flag FCU_STAT_RECOV = false) ∧
    (TXN_NTX_SEND.of v = 1) ∧ (1 ≤ ((s.put TXN_NTX_COUNT (TXN_NTX_COUNT.of v)).put TXN_NTX_GROUP (TXN_NTX_GROUP.of
    v)).fld TXN_NTX_COUNT) ∧ (((s.put TXN_NTX_COUNT (TXN_NTX_COUNT.of v)).put TXN_NTX_GROUP (TXN_NTX_GROUP.of v)).fld
    TXN_NTX_COUNT ≤ 48)) (wit []) .host (TXN_NTX_SEND.into (TXN_NTX_COUNT.into 0 48) 1)) ∧
  ((fun (s : State) (p : Fin 32) (n : Notice) => (s.netReadyDom = true) ∧ (s.flag FCU_STAT_RECOV = false) ∧ (s.flag
    TXN_CFG_NOTICE_EN = true) ∧ (n.nodes ≠ []) ∧ (n.nodes.length ≤ 48) ∧ (nodesOk (n.nodes.map BitVec.toNat) = true) ∧
    (s.familyAllows famNotice (s.portClass p) = true) ∧ (nodesName (s.fld TXN_CFG_NODE) (n.nodes.map BitVec.toNat) =
    true) ∧ ((∃ h ∈ allHandles, s.txState h = txWaitNotice ∧ s.fld (TXN_CTL_MODE h) = 3 ∧ s.fld (TXN_CTL_GROUP h) =
    n.group.toNat))) (wit [(TXN_CFG_NOTICE_EN, 1), (TXN_CFG_NODE, 5), (TXN_STAT_STATE 3, 3), (TXN_CTL_MODE 3, 3),
    (TXN_CTL_GROUP 3, 7), (SEC_PORTCLS1_HOST, 3), (SEC_FAM_MASK 0 3, 8)]) 31 ⟨7, 0, 0, [5]⟩) := by
  refine ⟨?_, ?_, ?_, ?_, ?_, ?_, ?_, ?_, ?_, ?_⟩ <;> decide +kernel

theorem test_witness_HswTripCommandsComplete :
  ((fun (s : State) (n : Fin 64) (load time : BitVec 32) => (s.flag (HSW_STAT_OUT (s.hswLead n)) = true) ∧ (s.pairTimes
    n * iLim n < load.toNat) ∧ (scTime n < time.toNat)) (wit [(HSW_CFG_PAR 62, 1), (HSW_STAT_OUT 62, 1)]) 63 36001
    15001) ∧
  ((fun (s : State) (n : Fin 64) (load time : BitVec 32) => (load.toNat ≤ s.pairTimes n * iLim n ∨ time.toNat ≤ scTime
    n)) (wit [(HSW_STAT_OUT 63, 1)]) 63 18000 15001) ∧
  ((fun (s : State) (n : Fin 64) (load time : BitVec 32) => (s.flag (HSW_STAT_OUT (s.hswLead n)) = true) ∧ ((s.hsc
    (s.hswLead n)).blank = false) ∧ (s.pairTimes n * ocThreshold n (s.cfld (HSW_PROT_OC_SEL (s.hswLead n))) <
    load.toNat)) (wit [(HSW_STAT_OUT 63, 1), (HSW_PROT_OC_SEL 63, 3)]) 63 14001 0) ∧
  ((fun (s : State) (n : Fin 64) (load time : BitVec 32) => ((s.hsc (s.hswLead n)).blank = true ∨ load.toNat ≤
    s.pairTimes n * ocThreshold n (s.cfld (HSW_PROT_OC_SEL (s.hswLead n))))) (wit [(HSW_STAT_OUT 63, 1)]) 63 5000 7) ∧
  ((fun (s : State) (n : Fin 64) => (s.flag (HSW_STAT_OUT (s.hswLead n)) = true)) (wit [(HSW_STAT_OUT 0, 1)]) 0) ∧
  ((fun (s : State) (n : Fin 64) => (s.flag (HSW_STAT_RWAIT n) = true) ∧ (s.flag (HSW_STAT_LATCH n) = false) ∧ (s.s4 =
    false) ∧ (((s.putB (HSW_STAT_RWAIT n) false).endPulse .hsw n).flag (HSW_STAT_STATIC n) = true)) (wit
    [(HSW_STAT_RWAIT 9, 1), (HSW_STAT_STATIC 9, 1)]) 9) ∧
  ((fun (s : State) (n : Fin 64) => (s.hswInService (s.hswLead n) = true) ∧ (s.hswCool (s.hswLead n) = true) ∧
    (s.cleanSecond (s.hswLead n) = true))
    { (wit [(HSW_STAT_STATIC 9, 1), (HSW_GOVSTAT_FEEDA_OK, 1)]).setHsc 9 { cleanFrom := some 0 } with now := 125000000 }
    9) ∧
  ((fun (s : State) (m : Master) (n : Fin 64) => (s.opens m (HSW_CFG n) = true) ∧ (ownerOk (s.fld (HSW_CFG_OWNER n)) m =
    true)) (wit [(HSW_CFG_OWNER 63, 5)]) .zs 63) := by
  refine ⟨?_, ?_, ?_, ?_, ?_, ?_, ?_, ?_⟩ <;> decide +kernel

theorem test_witness_HswStepsComplete :
  ((fun (s : State) (k : Fin 4) => (s.pstate ≤ 1) ∧ (s.flag (HSW_AMB_STALE k) = false)) (wit [(HSW_AMB_STALE 3, 0)]) 3) ∧
  ((fun (s : State) (n : Fin 64) => (s.flag (HSW_STAT_OUT (s.hswLead n)) = true)) (wit [(HSW_STAT_OUT 5, 1)]) 5) ∧
  ((fun (s : State) (n : Fin 64) => ((s.hsc (s.hswLead n)).revOff = true)) (State.reset.setHsc 5 { revOff := true }) 5) ∧
  ((fun (s : State) => (s.overVolt = true)) { State.reset with overVolt := true }) := by
  refine ⟨?_, ?_, ?_, ?_⟩ <;> decide +kernel

theorem test_witness_SenseAdcCommandsComplete :
  ((fun (s : State) (a : Fin 4) => (s.fld (PDI_SACFG_TRIG a) = 1) ∧ (s.saBarred = false) ∧ ((s.adc a).running = none))
    (wit [(PDI_SACFG_TRIG 3, 1)]) 3) ∧
  ((fun (s : State) (a : Fin 4) => (s.fld (PDI_SACFG_TRIG a) = 2) ∧ ((s.adc a).event = true) ∧ (s.saBarred = false) ∧
    ((s.adc a).running = none)) ((wit [(PDI_SACFG_TRIG 3, 2)]).setAdc 3 { event := true }) 3) ∧
  ((fun (s : State) (a : Fin 4) => (s.fld (PDI_SACFG_TRIG a) = 3) ∧ ((s.adc a).armed = true) ∧ (s.timeDelta (s.fld
    (PDI_SATIME_TIME a)) = 0) ∧ (s.saBarred = false) ∧ ((s.adc a).running = none)) ((wit [(PDI_SACFG_TRIG 3, 3)]).setAdc
    3 { armed := true }) 3) ∧
  ((fun (s : State) (a : Fin 4) (v : BitVec 12) (j : Nat) => ((s.adc a).running = some j) ∧ (s.flag (PDI_SARES_VALID a
    j) = false) ∧ (saCodeOk (s.saInput a j) = true)) (State.reset.setAdc 3 { running := some 0 }) 3 0 0) ∧
  ((fun (s : State) (p : Fin 5) => (s.flag (PDI_SACAL_INROT.bit p) = true) ∧ (s.flag PDI_SACAL_DEGRADED = false)) (wit
    [(PDI_SACAL_INROT, 31)]) 4) := by
  refine ⟨?_, ?_, ?_, ?_, ?_⟩ <;> decide +kernel

theorem test_witness_HswDiagnosisCommandsComplete :
  ((fun (s : State) (n : Fin 64) (iw vo fe : BitVec 16) => (s.flag (HSW_STAT_OUT (s.hswLead n)) = true) ∧ (s.flag
    (HSW_DCFG_ONDIAG (s.hswLead n)) = true) ∧ (s.fld (HSW_DCFG_IOLON (s.hswLead n)) * 128 ≤ iw.toNat * 125)) (wit
    [(HSW_STAT_OUT 5, 1), (HSW_DCFG_ONDIAG 5, 1)]) 5 0xFFFF 0 0) ∧
  ((fun (s : State) (n : Fin 64) (iw vo fe : BitVec 16) => (s.flag (HSW_STAT_OUT (s.hswLead n)) = true) ∧ (s.flag
    (HSW_DCFG_ONDIAG (s.hswLead n)) = true) ∧ (iw.toNat * 125 < s.fld (HSW_DCFG_IOLON (s.hswLead n)) * 128) ∧ (fe.toNat
    ≤ vo.toNat + 100)) (wit [(HSW_STAT_OUT 5, 1), (HSW_DCFG_ONDIAG 5, 1), (HSW_DCFG_IOLON 5, 8)]) 5 0 500 600) ∧
  ((fun (s : State) (n : Fin 64) (iw vo fe : BitVec 16) => (s.flag (HSW_STAT_OUT (s.hswLead n)) = true) ∧ (s.flag
    (HSW_DCFG_ONDIAG (s.hswLead n)) = true) ∧ (iw.toNat * 125 < s.fld (HSW_DCFG_IOLON (s.hswLead n)) * 128) ∧ (vo.toNat
    + 100 < fe.toNat)) (wit [(HSW_STAT_OUT 5, 1), (HSW_DCFG_ONDIAG 5, 1), (HSW_DCFG_IOLON 5, 8)]) 5 0 99 600) ∧
  ((fun (s : State) (n : Fin 64) (iw vo fe : BitVec 16) => (s.flag (HSW_STAT_OUT (s.hswLead n)) = true) ∧ (s.flag
    (HSW_DCFG_ONDIAG (s.hswLead n)) = false)) (wit [(HSW_STAT_OUT 5, 1), (HSW_DCFG_ONDIAG 5, 0)]) 5 0 0 0) ∧
  ((fun (s : State) (n : Fin 64) => (s.flag (HSW_STAT_OUT (s.hswLead n)) = false) ∧ (s.fld (HSW_DCFG_DPER (s.hswLead n))
    ≠ 0) ∧ ((s.pstate ≤ 1 ∨ s.flag (HSW_STAT_LIMP (s.hswLead n)) = true))) (wit [(HSW_DCFG_DPER 5, 1)]) 5) ∧
  ((fun (s : State) (n : Fin 64) (a b : BitVec 16) => ((s.hsc (s.hswLead n)).offDiag = true) ∧ (275 ≤ a.toNat))
    (State.reset.setHsc 5 { offDiag := true }) 5 275 0) ∧
  ((fun (s : State) (n : Fin 64) (a b : BitVec 16) => ((s.hsc (s.hswLead n)).offDiag = true) ∧ (275 ≤ a.toNat) ∧ (s.flag
    (HSW_DCFG_STBEN (s.hswLead n)) = true)) ((wit [(HSW_DCFG_STBEN 5, 1)]).setHsc 5 { offDiag := true }) 5 275 0) ∧
  ((fun (s : State) (n : Fin 64) (a b : BitVec 16) (c : Bool) => ((s.hsc (s.hswLead n)).offDiag = true) ∧ (a.toNat <
    275) ∧ (s.flag (HSW_DCFG_OFFDIAG (s.hswLead n)) = true) ∧ (100 ≤ b.toNat) ∧ (b.toNat ≤ 275)) ((wit
    [(HSW_DCFG_OFFDIAG 5, 1)]).setHsc 5 { offDiag := true }) 5 274 275 true) ∧
  ((fun (s : State) (n : Fin 64) (a b : BitVec 16) => ((s.hsc (s.hswLead n)).offDiag = true) ∧ (a.toNat < 275) ∧ (s.flag
    (HSW_DCFG_OFFDIAG (s.hswLead n)) = false)) ((wit [(HSW_DCFG_OFFDIAG 5, 0)]).setHsc 5 { offDiag := true }) 5 274 0) ∧
  ((fun (s : State) (n : Fin 64) (a b : BitVec 16) => ((s.hsc (s.hswLead n)).offDiag = true) ∧ (a.toNat < 275) ∧ (s.flag
    (HSW_DCFG_OFFDIAG (s.hswLead n)) = true) ∧ (b.toNat < 100)) ((wit [(HSW_DCFG_OFFDIAG 5, 1)]).setHsc 5
    { offDiag := true }) 5 274 99) ∧
  ((fun (s : State) (n : Fin 64) => (s.flag (HSW_DCFG_STRETCH n) = true) ∧ (s.counterDriven n = true) ∧ (s.flag
    (HSW_STAT_OUT n) = true) ∧ (s.pulseCycles n < 5000))
    { wit [(HSW_DCFG_STRETCH 63, 1), (HSW_STAT_SRC 63, 0x3F), (HSW_STAT_OUT 63, 1)] with gtAvail := true } 63) ∧
  ((fun (s : State) (m : Master) (n : Fin 64) => (s.opens m (HSW_CFG n) = true) ∧ (ownerOk (s.fld (HSW_CFG_OWNER n)) m =
    true)) (wit [(HSW_CFG_OWNER 63, 7)]) .host 63) := by
  refine ⟨?_, ?_, ?_, ?_, ?_, ?_, ?_, ?_, ?_, ?_, ?_, ?_⟩ <;> decide +kernel

theorem test_witness_SelfTestCommandsComplete :
  ((fun (s : State) (m : Master) (k : Fin 8) (v : BitVec 64) => (s.opens m (HSW_TSLOT k) = true) ∧ (istatOpen (s.fld
    (tslotIstat .hsw k)) = false)) State.reset .zc0 7 0) ∧
  ((fun (s : State) (m : Master) (k : Fin 4) (v : BitVec 64) => (s.opens m (VLV_TSLOT k) = true) ∧ (istatOpen (s.fld
    (tslotIstat .vlv k)) = false)) State.reset .zc0 3 0) ∧
  ((fun (s : State) (m : Master) (k : Fin 4) (v : BitVec 64) => (s.opens m (LED_TSLOT k) = true) ∧ (istatOpen (s.fld
    (tslotIstat .led k)) = false)) State.reset .zc0 3 0) ∧
  ((fun (s : State) (m : Master) (k : Fin 2) (v : BitVec 64) => (s.opens m (DOUT_TSLOT k) = true) ∧ (istatOpen (s.fld
    (tslotIstat .dout k)) = false)) State.reset .zc0 1 0) ∧
  ((fun (s : State) (b : OutBlock) (k : Fin 8) => (s.testWaits b k = true) ∧ (s.gapOk b (s.fld (tslotChan b k)) (s.fld
    (tslotTest b k)) = true) ∧ (s.pstate ≤ 1)) (wit [(tslotIstat .hsw 7, 2)]) .hsw 7) ∧
  ((fun (s : State) (b : OutBlock) (k : Fin 8) (r : BitVec 4) => ((⟨b, k.val⟩ : TestRun) ∈ s.pdi.tests) ∧ ((s.testFinds
    b (s.fld (tslotChan b k)) (s.fld (tslotTest b k))).contains r.toNat = true) ∧ (r.toNat ≠ 0))
    { wit [(tslotTest .vlv 3, 1)] with pdi := { tests := [⟨.vlv, 3⟩] } } .vlv 3 1) ∧
  ((fun (s : State) (b : OutBlock) (k : Fin 8) (r : BitVec 4) => ((⟨b, k.val⟩ : TestRun) ∈ s.pdi.tests) ∧ ((s.testFinds
    b (s.fld (tslotChan b k)) (s.fld (tslotTest b k))).contains r.toNat = false))
    { wit [(tslotTest .led 3, 4)] with pdi := { tests := [⟨.led, 3⟩] } } .led 3 7) ∧
  ((fun (s : State) (b : OutBlock) (k : Fin 8) => (s.testWaits b k = true)) (wit [(tslotIstat .dout 1, 2)]) .dout 1) := by
  refine ⟨?_, ?_, ?_, ?_, ?_, ?_, ?_, ?_⟩ <;> decide +kernel

theorem test_witness_DieLinkCommandsComplete :
  ((fun (s : State) => (s.flag PDI_STAT_LINK_UP = true)) (wit [(PDI_STAT_LINK_UP, 1)])) ∧
  ((fun (s : State) => (s.flag PDI_STAT_LINK_UP = false)) (wit [(PDI_STAT_LINK_UP, 0)])) ∧
  ((fun (s : State) => (s.flag PDI_STAT_HOLD = true) ∧ ((∀ h ∈ allHandles, (s.hnd h).claim.isSome = true → s.txState h ≠
    txArmed))) (wit [(PDI_STAT_HOLD, 1)])) ∧
  ((fun (s : State) => (s.flag PDI_STAT_LIMP = true) ∧ (s.pdi.limpNHigh = true) ∧ (s.flag PDI_STAT_LINK_UP = true) ∧
    (s.s3 = false) ∧ (s.s4 = false)) (wit [(PDI_STAT_LIMP, 1), (PDI_STAT_LINK_UP, 1)])) := by
  refine ⟨?_, ?_, ?_, ?_⟩ <;> decide +kernel

theorem test_witness_ValvePhaseCommandsComplete :
  ((fun (s : State) (c : Fin 24) (im : BitVec 12) (tb : BitVec 16) => (s.phase (s.vlvLead c) = phBoost)) (wit
    [(VLV_STAT_PHASE 23, 2)]) 23 0 20) ∧
  ((fun (s : State) (c : Fin 24) (im : BitVec 12) (tb : BitVec 16) => (s.phase (s.vlvLead c) = phBoost)) (wit
    [(VLV_STAT_PHASE 23, 2)]) 23 0 500) ∧
  ((fun (s : State) (c : Fin 24) => (s.phase (s.vlvLead c) = phPeak)) (wit [(VLV_STAT_PHASE 23, 3)]) 23) ∧
  ((fun (s : State) (c : Fin 24) => (s.phase (s.vlvLead c) = phHold) ∧ (Fld.of (VLV_PROF_A_HOLD_T 0) (s.val (s.vlvLead
    c)).profA ≠ 0)) ((wit [(VLV_STAT_PHASE 23, 4)]).setVal 23 { profA := (VLV_PROF_A_HOLD_T 0).into 0 1 }) 23) ∧
  ((fun (s : State) (c : Fin 24) => (s.phase (s.vlvLead c) = phRelease)) (wit [(VLV_STAT_PHASE 23, 5)]) 23) ∧
  ((fun (s : State) (c : Fin 24) (r : BoostReq) (h i : Nat) => ((((s.bq (s.domain (s.vlvLead c / 6))).filter fun q =>
    q.chan == s.vlvLead c).head?) = some r) ∧ (r.item = some (h, i))) (State.reset.setBq 3 [⟨23, 0, some (31, 63)⟩]) 23
    ⟨23, 0, some (31, 63)⟩ 31 63) ∧
  ((fun (s : State) (c : Fin 24) => (s.phase (s.vlvLead c) = phRelease)) (wit [(VLV_STAT_PHASE 23, 5)]) 23) ∧
  ((fun (s : State) (v : BitVec 16) => (v.toNat ≤ 6000)) State.reset 6000) ∧
  ((fun (s : State) (v : BitVec 16) => (6200 < v.toNat)) State.reset 6201) ∧
  ((fun (s : State) (v : BitVec 16) => ((s.setVbst v.toNat).flag VLV_BOOST_BEN = true) ∧ ((s.setVbst v.toNat).vbstReady
    = false)) (wit [(VLV_BOOST_BEN, 1), (VLV_BOOST_VMIN, 200)]) 4999) := by
  refine ⟨?_, ?_, ?_, ?_, ?_, ?_, ?_, ?_, ?_, ?_⟩ <;> decide +kernel

theorem test_witness_ValveTripCommandsComplete :
  ((fun (s : State) (c : Fin 24) (r : BitVec 16) => (s.phase (s.vlvLead c) = phHold)) (wit [(VLV_STAT_PHASE 23, 4)]) 23
    0) ∧
  ((fun (s : State) (c : Fin 24) => (s.phase (s.vlvLead c) ≠ phOff)) (wit [(VLV_STAT_PHASE 23, 2)]) 23) ∧
  ((fun (s : State) (c : Fin 24) => (s.phase (s.vlvLead c) = phRelease) ∧ ((s.val (s.vlvLead c)).freewheel = false))
    (wit [(VLV_STAT_PHASE 23, 5)]) 23) ∧
  ((fun (s : State) (c : Fin 24) => (s.vlvConducts (s.vlvLead c) = true)) (wit [(VLV_STAT_PHASE 23, 4)]) 23) ∧
  ((fun (s : State) (c : Fin 24) (a b : Bool) => (s.flag (VLV_CFG_OFFDIAG (s.vlvLead c)) = true) ∧ (s.phase (s.vlvLead
    c) = phOff) ∧ ((a = true → s.feedPos (s.vlvLead c / 6) = .vbat))) (wit [(VLV_CFG_OFFDIAG 23, 1)]) 23 false true) ∧
  ((fun (s : State) (c : Fin 24) (b : Bool) => (s.flag (VLV_CFG_OFFDIAG (s.vlvLead c)) = true) ∧ (s.phase (s.vlvLead c)
    = phOff) ∧ (s.feedPos (s.vlvLead c / 6) ≠ .vbat)) (wit [(VLV_CFG_OFFDIAG 23, 1), (PMU_STAT_STATE, 3)]) 23 false) ∧
  ((fun (s : State) (c : Fin 24) => ((s.phase (s.vlvLead c) = phPeak ∨ s.phase (s.vlvLead c) = phHold))) (wit
    [(VLV_STAT_PHASE 23, 3)]) 23) ∧
  ((fun (s : State) (m : Master) (c : Fin 24) => (s.opens m (VLV_STAT c) = true) ∧ (ownerOk (s.fld (VLV_CFG_OWNER
    (s.vlvLead c))) m = true)) (wit [(VLV_CFG_OWNER 23, 2)]) .zc1 23) := by
  refine ⟨?_, ?_, ?_, ?_, ?_, ?_, ?_, ?_⟩ <;> decide +kernel

theorem test_witness_LightingRailCommandsComplete :
  ((fun (s : State) (n : Fin 48) (f : Fade) => (s.fade n = some f) ∧ (s.fld (LED_STAT_FSTEP n) < 255))
    (State.reset.setFade 47 (some ⟨0, 4095, 1, 100⟩)) 47 ⟨0, 4095, 1, 100⟩) ∧
  ((fun (s : State) (n : Fin 48) (f : Fade) => (s.fade n = some f) ∧ (s.fld (LED_STAT_FSTEP n) = 255)) ((wit
    [(LED_STAT_FSTEP 47, 255)]).setFade 47 (some ⟨0, 4095, 1, 100⟩)) 47 ⟨0, 4095, 1, 100⟩) ∧
  ((fun (s : State) (vb vl it : BitVec 16) (vs im : List (BitVec 16)) => (s.fld LED_VCFG_MODE = 0) ∧ (s.led.buckOff =
    false) ∧ (s.ledParked = false)) (wit [(LED_VCFG_MODE, 0)]) 0 0 0 [] []) ∧
  ((fun (s : State) (v : BitVec 16) => ((s.put LED_VSTAT_VLED v.toNat).vledMax + 200 < v.toNat)) State.reset 4201) ∧
  ((fun (s : State) (v : BitVec 16) => (v.toNat ≤ (s.put LED_VSTAT_VLED v.toNat).vledMax)) State.reset 0) ∧
  ((fun (s : State) (v : BitVec 16) => (v.toNat < 200) ∧ (((List.range 48).any fun n => (s.put LED_VSTAT_VLED
    v.toNat).sinkCurrent n != 0) = true)) (wit [(LED_STAT_LEVEL 47, 4095), (LED_GCFG_GLEVEL, 255)]) 199) ∧
  ((fun (s : State) (n : Fin 48) (tj : BitVec 16) => (9600 < sgn 16 tj.toNat)) State.reset 47 9601) ∧
  ((fun (s : State) (n : Fin 48) (tj : BitVec 16) => (sgn 16 tj.toNat ≤ 9600)) State.reset 47 9600) ∧
  ((fun (s : State) (n : Fin 48) (k : SinkKind) => (s.flag (LED_CFG_DIAGEN n) = true) ∧ (1044225000 ≤ 150000 * s.fld
    (LED_STAT_TARGET n) * s.fld LED_GCFG_GLEVEL) ∧ ((k = .dropout → s.flag LED_VSTAT_CEIL = true))) (wit
    [(LED_STAT_TARGET 47, 4095), (LED_GCFG_GLEVEL, 255), (LED_CFG_DIAGEN 47, 1), (LED_VSTAT_CEIL, 1)]) 47 .dropout) ∧
  ((fun (s : State) (m : Master) (n : Fin 48) => (s.opens m (LED_STAT n) = true) ∧ (ownerOk (s.fld (LED_CFG_OWNER n)) m
    = true)) (wit [(LED_CFG_OWNER 47, 6)]) .zk 47) := by
  refine ⟨?_, ?_, ?_, ?_, ?_, ?_, ?_, ?_, ?_, ?_⟩ <;> decide +kernel

theorem test_witness_MatrixAndFrameCommandsComplete :
  ((fun (s : State) (low : List (Fin 24)) => (s.matrixOn = true) ∧ (s.flag LED_MSTAT_MSTOP = false) ∧ (s.ledParked =
    false) ∧ (s.led.columns = [])) (wit [(LED_MCFG_MEN, 1)]) [23]) ∧
  ((fun (s : State) (low : List (Fin 24)) => (s.matrixOn = true) ∧ (s.flag LED_MSTAT_MSTOP = false) ∧ (s.ledParked =
    false) ∧ (s.led.columns ≠ []) ∧ (s.fld LED_MSTAT_LINE < 7))
    { (wit [(LED_MCFG_MEN, 1), (LED_MSTAT_LINE, 6)]) with led := { columns := [4095] } } [23]) ∧
  ((fun (s : State) (low : List (Fin 24)) => (s.matrixOn = true) ∧ (s.flag LED_MSTAT_MSTOP = false) ∧ (s.ledParked =
    false) ∧ (s.led.columns ≠ []) ∧ (s.fld LED_MSTAT_LINE = 7))
    { (wit [(LED_MCFG_MEN, 1), (LED_MSTAT_LINE, 7)]) with led := { columns := [4095] } } [23]) ∧
  ((fun (s : State) => (s.matrixOn = true) ∧ (s.led.columns ≠ []))
    { (wit [(LED_MCFG_MEN, 1)]) with led := { columns := [4095] } }) ∧
  ((fun (s : State) (m : Master) => (s.opens m LED_GCFG = true) ∧ (ownerOk (s.fld LED_MCFG_OWNER) m = true)) (wit
    [(LED_MCFG_OWNER, 4)]) .zc3) ∧
  ((fun (s : State) (m : Master) (k : Fin 2) (f : Fin 16) (w : Fin 64) (a : Access) (v : BitVec 64) => (s.opens m
    LED_GCFG = true) ∧ (s.frameArmed k f = false) ∧ (ownerOk (s.fld (LED_SC_CFG_OWNER k)) m = true)) (wit
    [(LED_SC_CFG_OWNER 1, 4)]) .zc3 1 15 63 .hi32 0) ∧
  ((fun (s : State) (m : Master) (k : Fin 2) (f : Fin 16) (w : Fin 64) (a : Access) (v : BitVec 64) => (s.opens m
    LED_GCFG = true) ∧ (s.frameArmed k f = true ∨ ownerOk (s.fld (LED_SC_CFG_OWNER k)) m = false)) (wit
    [(LED_SC_CFG_OWNER 1, 4)]) .zc1 1 15 63 .hi32 0) := by
  refine ⟨?_, ?_, ?_, ?_, ?_, ?_, ?_⟩ <;> decide +kernel

theorem test_witness_InputsAndFieldOutputsComplete :
  ((fun (s : State) (n : Fin 96) (p v : BitVec 16) (ok : Bool) => ((s.pstate ≠ 3 ∨ s.dinParkScan n = true))) State.reset
    95 0 499 false) ∧
  ((fun (s : State) (m : Master) (n : Fin 96) (r : Fin 3) (a : Access) (v : BitVec 64) => (s.opens m (DIN_CFG n) = true)
    ∧ (ownerOk (s.fld (DIN_CFG_OWNER n)) m = true) ∧ (s.dinLimpNamed n = false)) (wit [(DIN_CFG_OWNER 95, 4)]) .zc3 95 2
    .lo32 0) ∧
  ((fun (s : State) (m : Master) (n : Fin 16) (q : BitVec 4) => (s.opens m (DOUT_CFG n) = true) ∧ ((s.dou n).expired =
    false) ∧ (s.fld (DOUT_CFG_OWNER n) = m.num) ∧ (q.toNat = (s.fld (DOUT_STAT_SEQ n) + 1) % 16) ∧ ((s.dou n).running =
    true) ∧ ((s.dou n).suspended = false)) ((wit [(DOUT_CFG_OWNER 15, 4), (DOUT_STAT_SEQ 15, 15)]).setDou 15
    { running := true }) .zc3 15 0) ∧
  ((fun (s : State) (n : Fin 16) => ((s.dou n).running = true) ∧ ((s.dou n).suspended = false)) (State.reset.setDou 15
    { running := true }) 15) ∧
  ((fun (s : State) (n : Fin 16) => (s.flag (DOUT_STAT_OUT n) = true)) (wit [(DOUT_STAT_OUT 15, 1)]) 15) ∧
  ((fun (s : State) (n : Fin 16) => (s.flag (DOUT_STAT_OUT n) = true)) (wit [(DOUT_STAT_OUT 15, 1)]) 15) ∧
  ((fun (s : State) (n : Fin 16) => (s.flag (DOUT_CFG_OFFDIAG n) = true) ∧ (s.flag (DOUT_STAT_OUT n) = false)) (wit
    [(DOUT_CFG_OFFDIAG 15, 1)]) 15) ∧
  ((fun (s : State) (n : Fin 16) (a b v : BitVec 16) => ((s.dou n).offDiag = true) ∧ (a.toNat < 100))
    (State.reset.setDou 15 { offDiag := true }) 15 99 0 0) ∧
  ((fun (s : State) (n : Fin 16) (a b v : BitVec 16) => ((s.dou n).offDiag = true) ∧ (100 ≤ a.toNat) ∧ (b.toNat < 100))
    (State.reset.setDou 15 { offDiag := true }) 15 100 99 0) ∧
  ((fun (s : State) (n : Fin 16) (a b v : BitVec 16) => ((s.dou n).offDiag = true) ∧ (100 ≤ a.toNat) ∧ (100 ≤ b.toNat))
    (State.reset.setDou 15 { offDiag := true }) 15 100 100 200) ∧
  ((fun (s : State) (m : Master) (n : Fin 16) => (s.opens m (DOUT_CFG n) = true) ∧ (ownerOk (s.fld (DOUT_CFG_OWNER n)) m
    = true)) (wit [(DOUT_CFG_OWNER 15, 7)]) .host 15) := by
  refine ⟨?_, ?_, ?_, ?_, ?_, ?_, ?_, ?_, ?_, ?_, ?_⟩ <;> decide +kernel

theorem test_witness_CounterCommandsComplete :
  ((fun (s : State) (m : Master) (g : Fin 32) => (s.opens m (GT_CFG g) = true) ∧ (ownerOk (s.fld (GT_CFG_OWNER g)) m =
    true)) (wit [(GT_CFG_OWNER 31, 1)]) .zc0 31) ∧
  ((fun (s : State) (m : Master) (g : Fin 32) => (s.opens m (GT_CFG g) = true) ∧ (ownerOk (s.fld (GT_CFG_OWNER g)) m =
    true)) (wit [(GT_CFG_OWNER 31, 1)]) .zc0 31) ∧
  ((fun (s : State) (m : Master) (g : Fin 32) => (s.opens m (GT_CFG g) = true) ∧ (ownerOk (s.fld (GT_CFG_OWNER g)) m =
    true)) (wit [(GT_CFG_OWNER 31, 1)]) .zc0 31) ∧
  ((fun (s : State) (m : Master) (g : Fin 32) => (s.opens m (GT_CFG g) = true) ∧ (ownerOk (s.fld (GT_CFG_OWNER g)) m =
    true)) (wit [(GT_CFG_OWNER 31, 1)]) .zc0 31) ∧
  ((fun (s : State) (g : Nat) => (s.gtRuns g = false)) State.reset 31) ∧
  ((fun (s : State) (g : Nat) (acts : List Nat) => (2 ∉ acts) ∧ (3 ∈ acts)) State.reset 31 [1, 3]) ∧
  ((fun (s : State) (g : Nat) (acts : List Nat) => (2 ∉ acts) ∧ (3 ∉ acts) ∧ (1 ∈ acts) ∧ (s.gtRuns g = false))
    State.reset 31 [1]) ∧
  ((fun (s : State) (g : Nat) (acts : List Nat) => (2 ∈ acts) ∧ (3 ∉ acts) ∧ (1 ∉ acts)) State.reset 31 [2]) ∧
  ((fun (s : State) (m : Master) (k : BitVec 32) => (s.opens m GT_GSTART = true)) State.reset .zc0 0xFFFFFFFF) ∧
  ((fun (s : State) (m : Master) (k : BitVec 32) => (s.opens m GT_GSTART = true)) State.reset .zc0 0xFFFFFFFF) ∧
  ((fun (s : State) (g : Fin 32) => (s.gtTickDue g = true) ∧ (s.gtWraps g = true)) ((wit [(GT_STAT_RUN 31, 1)]).setCtr
    31 { per := 1 }) 31) ∧
  ((fun (s : State) (g : Fin 32) => (s.gtTickDue g = true) ∧ (1 ∈ s.gtTickEvents g)) ((wit [(GT_STAT_RUN 31, 1)]).setCtr
    31 { cmpA := 1 }) 31) ∧
  ((fun (s : State) (g : Fin 32) => (s.gtTickDue g = true) ∧ (2 ∈ s.gtTickEvents g)) ((wit [(GT_STAT_RUN 31, 1)]).setCtr
    31 { cmpB := 1 }) 31) ∧
  ((fun (s : State) (g : Fin 32) => ((s.ctr g).lnk.isEmpty = false) ∧ (s.pstate ≤ 1)) (State.reset.setCtr 31
    { lnk := [1] }) 31) ∧
  ((fun (s : State) (g : Fin 32) => ((s.ctr g).tact.isEmpty = false) ∧ (s.pstate ≤ 1)) (State.reset.setCtr 31
    { tact := [1] }) 31) ∧
  ((fun (s : State) (g : Fin 32) (up : Bool) => (0x08 ≤ s.fld (GT_CFG_CAPSRC g)) ∧ (s.fld (GT_CFG_CAPSRC g) ≤ 0x0F) ∧
    (edgeTaken (s.fld (GT_CFG_CAPEDGE g)) up = true) ∧ (s.pstate ≤ 1)) (wit [(GT_CFG_CAPSRC 31, 15)]) 31 true) ∧
  ((fun (s : State) (m : Master) (g : Fin 32) => (s.opens m (GT_CFG g) = true) ∧ (s.flag (GT_STAT_CAPF g) = true)) (wit
    [(GT_STAT_CAPF 31, 1)]) .zk 31) ∧
  ((fun (s : State) (m : Master) (g : Fin 32) (r : GtReg) (v : BitVec 64) => (s.opens m (GT_CFG g) = true) ∧ (ownerOk
    (s.fld (GT_CFG_OWNER g)) m = true)) (wit [(GT_CFG_OWNER 31, 1)]) .zc0 31 .cmpB 0) := by
  refine ⟨?_, ?_, ?_, ?_, ?_, ?_, ?_, ?_, ?_, ?_, ?_, ?_, ?_, ?_, ?_, ?_, ?_, ?_⟩ <;> decide +kernel

theorem test_witness_NetworkTimeCommandsComplete :
  ((fun (s : State) => (s.pstate ≤ 1) ∧ (s.ntuWraps = true)) (wit [(NTU_EXT_NS, 0xFFFFFFFF), (NTU_INC_INT, 4)])) ∧
  ((fun (s : State) (m : Master) (a : Access) (v : BitVec 64) => (s.opens m NTU_EXT = true) ∧ (ownerOk (s.fld
    NTU_SYNC_KEEPER) m = true)) (wit [(NTU_SYNC_KEEPER, 5)]) .zs .hi32 0) ∧
  ((fun (s : State) (m : Master) (x : BitVec 32) => (s.opens m NTU_EXT = true) ∧ (ownerOk (s.fld NTU_SYNC_KEEPER) m =
    true)) (wit [(NTU_SYNC_KEEPER, 5)]) .zs 0x80000000) ∧
  ((fun (s : State) (m : Master) (x : BitVec 32) => (s.opens m NTU_ADJ = true) ∧ (ownerOk (s.fld NTU_SYNC_KEEPER) m =
    true)) (wit [(NTU_SYNC_KEEPER, 5)]) .zs 1) ∧
  ((fun (s : State) => (s.pstate ≤ 1) ∧ ((s.ntu.slew = 1 ∨ s.ntu.slew = -1)))
    { State.reset with ntu := { slew := -1 } }) ∧
  ((fun (s : State) (m : Master) (a : Access) (v : BitVec 64) => (s.opens m NTU_EXT = true) ∧ (ownerOk (s.fld
    NTU_SYNC_KEEPER) m = true)) (wit [(NTU_SYNC_KEEPER, 5)]) .zs .lo32 0) ∧
  ((fun (s : State) => (s.fld NTU_SYNC_HOLDMS ≠ 0) ∧ (s.pstate ≤ 1) ∧ (s.sys.inReset = false) ∧ (s.sys.por = false))
    { wit [(NTU_SYNC_HOLDMS, 1)] with sys := { por := false } }) ∧
  ((fun (s : State) (k : Fin 8) => (s.pstate ≤ 1) ∧ (s.fld NTU_CAPCFG_EDGE / 4 ^ k.val % 4 = 1)) (wit [(NTU_CAPCFG_EDGE,
    0x4000)]) 7) ∧
  ((fun (s : State) (k : Fin 8) => (s.pstate ≤ 1) ∧ (s.fld NTU_CAPCFG_EDGE / 4 ^ k.val % 4 = 2)) (wit [(NTU_CAPCFG_EDGE,
    0x8000)]) 7) ∧
  ((fun (s : State) (m : Master) (x : BitVec 8) => (s.opens m NTU_CAPCFG = true)) State.reset .zc0 255) ∧
  ((fun (s : State) (m : Master) (k : Fin 8) => (s.opens m NTU_EXT = true) ∧ (s.flag (NTU_CAPSTAT_CAPF.bit k) = true))
    (wit [(NTU_CAPSTAT_CAPF, 128)]) .zc0 7) ∧
  ((fun (s : State) (m : Master) (k : Fin 4) (v : BitVec 64) => (s.opens m NTU_EXT = true) ∧ (ownerOk (s.fld
    (NTU_TRG_CFG_OWNER k)) m = true)) (wit [(NTU_TRG_CFG_OWNER 3, 1)]) .zc0 3 0) ∧
  ((fun (s : State) (m : Master) (k : Fin 4) (v : BitVec 64) => (s.opens m NTU_EXT = true) ∧ (ownerOk (s.fld
    (NTU_TRG_CFG_OWNER k)) m = true)) (wit [(NTU_TRG_CFG_OWNER 3, 1)]) .zc0 3 0) ∧
  ((fun (s : State) (k : Fin 4) => (s.flag (NTU_TRG_CFG_ARM k) = true) ∧ (s.fld (NTU_TRG_CFG_MODE k) = 1) ∧ (tget none
    s.ntu.pulse k = none) ∧ (s.reached (s.fld (NTU_TRG_TIME_TIME k)) = true) ∧ (s.pstate ≤ 1)) (wit [(NTU_TRG_CFG_ARM 3,
    1), (NTU_TRG_CFG_MODE 3, 1)]) 3) ∧
  ((fun (s : State) (k : Fin 4) => (s.flag (NTU_TRG_CFG_ARM k) = true) ∧ (s.fld (NTU_TRG_CFG_MODE k) = 2) ∧ (tget none
    s.ntu.pulse k = none) ∧ (s.reached (s.fld (NTU_TRG_TIME_TIME k)) = true) ∧ (s.pstate ≤ 1)) (wit [(NTU_TRG_CFG_ARM 3,
    1), (NTU_TRG_CFG_MODE 3, 2)]) 3) ∧
  ((fun (s : State) (k : Fin 4) (e : Nat) => (tget none s.ntu.pulse k = some e) ∧ (s.reached e = true) ∧ (s.fld
    (NTU_TRG_CFG_MODE k) = 2)) { (wit [(NTU_TRG_CFG_MODE 3, 2)]) with ntu := { pulse := [(3, some 0)] } } 3 0) ∧
  ((fun (s : State) (k : Fin 4) (e : Nat) => (tget none s.ntu.pulse k = some e) ∧ (s.reached e = true) ∧ (s.fld
    (NTU_TRG_CFG_MODE k) ≠ 2)) { (wit [(NTU_TRG_CFG_MODE 3, 1)]) with ntu := { pulse := [(3, some 0)] } } 3 0) := by
  refine ⟨?_, ?_, ?_, ?_, ?_, ?_, ?_, ?_, ?_, ?_, ?_, ?_, ?_, ?_, ?_, ?_, ?_⟩ <;> decide +kernel

theorem test_witness_CanModeCommandsComplete :
  ((fun (s : State) (m : Master) (n : Fin 8) (k : BitVec 3) => (s.opens m (CAN_CTL n) = true) ∧ (ownerOk (s.fld
    (CAN_CTL_OWNER n)) m = true) ∧ (s.fld (CAN_MRAM_SIZE n) ≠ 0)) (wit [(PMU_DOMSTAT_READY, 31), (CAN_CTL_OWNER 7, 1),
    (CAN_MRAM_SIZE 7, 1)]) .zc0 7 1) ∧
  ((fun (s : State) (n : Fin 8) => (s.netRuns = true) ∧ ((s.cn n).tx = none) ∧ (canModeOf (s.fld (CAN_CTL_MODE n)) ≠
    (s.cn n).mode)) (wit [(PMU_DOMSTAT_READY, 31), (CAN_CTL_MODE 7, 4)]) 7) ∧
  ((fun (s : State) (n : Fin 8) => (s.netRuns = true) ∧ ((s.cn n).mode = canAbd) ∧ ((s.cn n).cand < s.fld (CAN_CTL_ABDN
    n))) ((wit [(PMU_DOMSTAT_READY, 31), (CAN_CTL_ABDN 7, 3)]).setCn 7 { mode := 3, cand := 2 }) 7) ∧
  ((fun (s : State) (n : Fin 8) => (s.netRuns = true) ∧ ((s.cn n).mode = canAbd) ∧ (s.fld (CAN_CTL_ABDN n) ≤ (s.cn
    n).cand)) ((wit [(PMU_DOMSTAT_READY, 31), (CAN_CTL_ABDN 7, 3)]).setCn 7 { mode := 3, cand := 3 }) 7) ∧
  ((fun (s : State) (m : Master) (n : Fin 8) => (s.opens m (CAN_CTL n) = true) ∧ (ownerOk (s.fld (CAN_CTL_OWNER n)) m =
    true) ∧ ((s.cn n).busOff = true)) ((wit [(PMU_DOMSTAT_READY, 31), (CAN_CTL_OWNER 7, 1)]).setCn 7 { busOff := true })
    .zc0 7) ∧
  ((fun (s : State) (n : Fin 8) => (s.netRuns = true) ∧ ((s.cn n).busOff = true) ∧ ((s.cn n).recovering = true)) ((wit
    [(PMU_DOMSTAT_READY, 31)]).setCn 7 { busOff := true, recovering := true }) 7) ∧
  ((fun (s : State) (n : Fin 8) => (s.netRuns = true)) (wit [(PMU_DOMSTAT_READY, 31)]) 7) ∧
  ((fun (s : State) (n : Fin 6) => (s.netRuns = true)) (wit [(PMU_DOMSTAT_READY, 31)]) 5) ∧
  ((fun (s : State) (n : Fin 6) => (s.netRuns = true) ∧ ((s.cn n).fault = true)) ((wit [(PMU_DOMSTAT_READY, 31)]).setCn
    5 { fault := true }) 5) ∧
  ((fun (s : State) (n : Fin 6) => (s.swListens n = true) ∧ (s.fld (CAN_TRX_SWMODE n) = 1)) ((wit [(CAN_TRX_SWMODE 5,
    1)]).setCn 5 { mode := 4 }) 5) ∧
  ((fun (s : State) (n : Fin 6) => (s.swListens n = true) ∧ (s.fld (CAN_TRX_SWMODE n) = 2)) ((wit [(CAN_TRX_SWMODE 5,
    2)]).setCn 5 { mode := 4 }) 5) := by
  refine ⟨?_, ?_, ?_, ?_, ?_, ?_, ?_, ?_, ?_, ?_, ?_⟩ <;> decide +kernel

theorem test_witness_CanTrafficCommandsComplete :
  ((fun (s : State) (n : Fin 8) (f : CanFrame) (st : BitVec 32) (v : BitVec 16) => (s.netRuns = true) ∧ ((s.cn
    n).receives = true) ∧ ((s.cn n).mode ≠ canAbd)) ((wit [(PMU_DOMSTAT_READY, 31)]).setCn 7 { mode := 2 }) 7 ⟨1, false,
    false, false, 0, 0, false, 0, 0, [], 0, false⟩ 0 0) ∧
  ((fun (s : State) (n : Fin 8) (f : CanFrame) (st : BitVec 32) (v : BitVec 16) => (s.netRuns = true) ∧ ((s.cn n).mode =
    canAbd)) ((wit [(PMU_DOMSTAT_READY, 31)]).setCn 7 { mode := 3 }) 7 ⟨1, false, false, false, 0, 0, false, 0, 0, [],
    0, false⟩ 0 0) ∧
  ((fun (s : State) (m : Master) (n : Fin 8) (k : Fin 128) => (s.opens m (CAN_MB_CTL n k) = true) ∧ (ownerOk (s.fld
    (CAN_CTL_OWNER n)) m = true) ∧ (s.canPending n k = false)) (wit [(PMU_DOMSTAT_READY, 31), (CAN_CTL_OWNER 7, 1)])
    .zc0 7 127) ∧
  ((fun (s : State) (m : Master) (n : Fin 8) => (s.opens m (CAN_EXCTL n) = true) ∧ (ownerOk (s.fld (CAN_CTL_OWNER n)) m
    = true)) (wit [(PMU_DOMSTAT_READY, 31), (CAN_CTL_OWNER 7, 1)]) .zc0 7) ∧
  ((fun (s : State) (m : Master) (n : Fin 8) (k : Fin 128) (e : MemErr) => (s.opens m (CAN_MB_CTL n k) = true) ∧
    (ownerOk (s.fld (CAN_CTL_OWNER n)) m = true) ∧ (s.fld (CAN_MB_CTL_DIR n k) = 2) ∧ (s.canPending n k = false) ∧
    ((s.cn n).mode = canActive) ∧ ((s.cn n).busOff = false) ∧ (e ≠ .double) ∧ (s.canLen n k ≤ psizeBytes (s.canPsize n
    k)) ∧ ((padLen (s.canTxFmt n k) (s.canLen n k)).isSome = true)) ((wit [(PMU_DOMSTAT_READY, 31), (CAN_CTL_OWNER 7,
    1), (CAN_MB_CTL_DIR 7 127, 2)]).setCn 7 { mode := 1 }) .zc0 7 127 .single) ∧
  ((fun (s : State) (m : Master) (n : Fin 8) (k : Fin 128) => (s.opens m (CAN_MB_CTL n k) = true) ∧ (ownerOk (s.fld
    (CAN_CTL_OWNER n)) m = true) ∧ (s.fld (CAN_MB_CTL_DIR n k) = 2) ∧ (s.canPending n k = false) ∧ ((s.cn n).mode =
    canActive) ∧ ((s.cn n).busOff = false)) ((wit [(PMU_DOMSTAT_READY, 31), (CAN_CTL_OWNER 7, 1), (CAN_MB_CTL_DIR 7 127,
    2)]).setCn 7 { mode := 1 }) .zc0 7 127) ∧
  ((fun (s : State) (m : Master) (n : Fin 8) (k : Fin 128) => (s.opens m (CAN_MB_CTL n k) = true) ∧ (ownerOk (s.fld
    (CAN_CTL_OWNER n)) m = true) ∧ (s.canPending n k = true) ∧ ((s.cn n).tx = none)) (wit [(PMU_DOMSTAT_READY, 31),
    (CAN_CTL_OWNER 7, 1), (CAN_MB_CTL_ISTAT 7 127, 1)]) .zc0 7 127) ∧
  ((fun (s : State) (n : Fin 8) (b : Option Nat) (f : CanFrame) (d : BitVec 8) (e : MemErr) => (s.netRuns = true) ∧
    ((s.cn n).canSend = true) ∧ (s.canPick n = some (b, f))) ((wit [(PMU_DOMSTAT_READY, 31)]).setCn 7
    { mode := 1, gwQueue := [⟨1, false, false, false, 5, 0, false, 0, 0, [], 0, false⟩] }) 7 none ⟨1, false, false,
    false, 5, 0, false, 0, 0, [], 0, false⟩ 0 .good) ∧
  ((fun (s : State) (n : Fin 8) (x : CanTx) (k : Nat) => (s.netRuns = true) ∧ ((s.cn n).tx = some x) ∧ (x.buf = some k)
    ∧ (x.cancel = false) ∧ (k ∉ (s.cn n).late)) ((wit [(PMU_DOMSTAT_READY, 31)]).setCn 7
    { mode := 1, tx := some { buf := some 127, stamp := 5, frame := ⟨1, false, false, false, 5, 0, false, 0, 0, [], 0, false⟩ } })
    7 { buf := some 127, stamp := 5, frame := ⟨1, false, false, false, 5, 0, false, 0, 0, [], 0, false⟩ } 127) ∧
  ((fun (s : State) (n : Fin 8) (x : CanTx) => (s.netRuns = true) ∧ ((s.cn n).tx = some x) ∧ (x.cancel = false)) ((wit
    [(PMU_DOMSTAT_READY, 31)]).setCn 7
    { mode := 1, tx := some { buf := none, stamp := 5, frame := ⟨1, false, false, false, 5, 0, false, 0, 0, [], 0, false⟩ } })
    7 { buf := none, stamp := 5, frame := ⟨1, false, false, false, 5, 0, false, 0, 0, [], 0, false⟩ }) ∧
  ((fun (s : State) (n : Fin 8) (t r : Fin 9) (b x : Bool) => (s.netRuns = true) ∧ ((x && s.flag (CAN_CTL_PEX n)) =
    false) ∧ ((s.cn n).counts = true)) ((wit [(PMU_DOMSTAT_READY, 31)]).setCn 7 { mode := 1 }) 7 8 0 false false) ∧
  ((fun (s : State) (n : Fin 8) (t r : Fin 9) (b : Bool) => (s.netRuns = true) ∧ (s.flag (CAN_CTL_PEX n) = true)) (wit
    [(PMU_DOMSTAT_READY, 31), (CAN_CTL_PEX 7, 1)]) 7 8 0 false) := by
  refine ⟨?_, ?_, ?_, ?_, ?_, ?_, ?_, ?_, ?_, ?_, ?_, ?_⟩ <;> decide +kernel

theorem test_witness_LinScheduleCommandsComplete :
  ((fun (s : State) (m : Master) (n : Fin 8) => (s.opens m (LIN_CFG n) = true) ∧ (ownerOk (s.fld (LIN_CFG_OWNER n)) m =
    true) ∧ (s.flag (LIN_CFG_EN n) = false)) (wit [(PMU_DOMSTAT_READY, 31), (LIN_CFG_OWNER 7, 1)]) .zc0 7) ∧
  ((fun (s : State) (n : Fin 8) => (s.netRuns = true) ∧ (s.linState n = linTack)) (wit [(PMU_DOMSTAT_READY, 31),
    (LIN_STAT_STATE 7, 1)]) 7) ∧
  ((fun (s : State) (m : Master) (n : Fin 8) => (s.opens m (LIN_CMD n) = true) ∧ (ownerOk (s.fld (LIN_CFG_OWNER n)) m =
    true) ∧ (s.linCommander n = true) ∧ (s.linState n = linTack)) (wit [(PMU_DOMSTAT_READY, 31), (LIN_CFG_OWNER 7, 1),
    (LIN_CFG_ROLE 7, 1), (LIN_STAT_STATE 7, 1)]) .zc0 7) ∧
  ((fun (s : State) (n : Fin 8) => (s.netRuns = true) ∧ (s.flag (LIN_CFG_EN n) = true)) (wit [(PMU_DOMSTAT_READY, 31),
    (LIN_CFG_EN 7, 1)]) 7) ∧
  ((fun (s : State) (m : Master) (n : Fin 8) (k : Fin 64) => (s.opens m (LIN_CMD n) = true) ∧ (ownerOk (s.fld
    (LIN_CFG_OWNER n)) m = true) ∧ ((s.put (LIN_CMD_START n) k).linCommander n = true)) (wit [(PMU_DOMSTAT_READY, 31),
    (LIN_CFG_OWNER 7, 1), (LIN_CFG_ROLE 7, 1)]) .zc0 7 63) ∧
  ((fun (s : State) (m : Master) (n : Fin 8) => (s.opens m (LIN_CMD n) = true) ∧ (ownerOk (s.fld (LIN_CFG_OWNER n)) m =
    true) ∧ ((s.ln n).running = true)) ((wit [(PMU_DOMSTAT_READY, 31), (LIN_CFG_OWNER 7, 1)]).setLn 7
    { running := true }) .zc0 7) ∧
  ((fun (s : State) (m : Master) (n : Fin 8) => (s.opens m (LIN_CMD n) = true) ∧ (ownerOk (s.fld (LIN_CFG_OWNER n)) m =
    true) ∧ (s.linCommander n = true) ∧ ((s.ln n).running = true)) ((wit [(PMU_DOMSTAT_READY, 31), (LIN_CFG_OWNER 7, 1),
    (LIN_CFG_ROLE 7, 1)]).setLn 7 { running := true }) .zc0 7) ∧
  ((fun (s : State) (m : Master) (n : Fin 8) => (s.opens m (LIN_CMD n) = true) ∧ (ownerOk (s.fld (LIN_CFG_OWNER n)) m =
    true) ∧ (s.linCommander n = true) ∧ ((s.ln n).running = false) ∧ (s.linState n = linActive)) (wit
    [(PMU_DOMSTAT_READY, 31), (LIN_CFG_OWNER 7, 1), (LIN_CFG_ROLE 7, 1), (LIN_STAT_STATE 7, 2)]) .zc0 7) ∧
  ((fun (s : State) (n : Fin 8) => (s.netRuns = true) ∧ ((s.ln n).running = true) ∧ (s.linState n ≠ linTack) ∧ ((s.ln
    n).sleepWait = false) ∧ ((s.ln n).announce = []) ∧ ((s.ln n).stopWait = false) ∧ ((s.ln n).goWait = none)) ((wit
    [(PMU_DOMSTAT_READY, 31), (LIN_STAT_STATE 7, 2)]).setLn 7 { running := true }) 7) ∧
  ((fun (s : State) (m : Master) (n : Fin 8) => (s.opens m (LIN_CMD n) = true) ∧ (ownerOk (s.fld (LIN_CFG_OWNER n)) m =
    true) ∧ (s.linState n = linSleep)) (wit [(PMU_DOMSTAT_READY, 31), (LIN_CFG_OWNER 7, 1), (LIN_STAT_STATE 7, 3)]) .zc0
    7) ∧
  ((fun (s : State) (n : Fin 8) => (s.pstate ≤ 1) ∧ (s.netReadyDom = true) ∧ (s.linState n = linSleep)) (wit
    [(PMU_DOMSTAT_READY, 31), (LIN_STAT_STATE 7, 3)]) 7) ∧
  ((fun (s : State) (n : Fin 8) => (2 ≤ s.pstate)) (wit [(PMU_STAT_STATE, 3)]) 7) ∧
  ((fun (s : State) (n : Fin 8) => (s.netRuns = true) ∧ (s.linCommander n = false) ∧ (s.linState n = linWaking) ∧ ((s.ln
    n).pulses < 3)) ((wit [(PMU_DOMSTAT_READY, 31), (LIN_STAT_STATE 7, 4)]).setLn 7 { pulses := 2 }) 7) ∧
  ((fun (s : State) (n : Fin 8) => (s.netRuns = true) ∧ (s.linCommander n = false) ∧ (s.linState n = linActive)) (wit
    [(PMU_DOMSTAT_READY, 31), (LIN_STAT_STATE 7, 2)]) 7) := by
  refine ⟨?_, ?_, ?_, ?_, ?_, ?_, ?_, ?_, ?_, ?_, ?_, ?_, ?_, ?_⟩ <;> decide +kernel

theorem test_witness_LinFramesAndSleepUnitComplete :
  ((fun (s : State) (n : Fin 8) (k : Fin 64) (st : BitVec 32) => (s.netRuns = true) ∧ (s.linState n = linActive)) (wit
    [(PMU_DOMSTAT_READY, 31), (LIN_STAT_STATE 7, 2)]) 7 63 0) ∧
  ((fun (s : State) (n : Fin 8) (k : Fin 64) (st : BitVec 32) (b : Bool) => (s.netRuns = true) ∧ (s.linState n =
    linActive)) (wit [(PMU_DOMSTAT_READY, 31), (LIN_STAT_STATE 7, 2)]) 7 63 0 true) ∧
  ((fun (s : State) (n : Fin 8) (h : LinHeader) (l : List Byte) => (s.netRuns = true) ∧ ((s.ln n).header = some h) ∧
    (h.acting = true) ∧ (s.fld (LIN_FR_DIR n h.id) = 2) ∧ (s.linCommander n = true)) ((wit [(PMU_DOMSTAT_READY, 31),
    (LIN_CFG_ROLE 7, 1), (LIN_FR_DIR 7 63, 2)]).setLn 7 { header := some ⟨63, 0, true, [], false⟩ }) 7 ⟨63, 0, true, [],
    false⟩ [1]) ∧
  ((fun (s : State) (n : Fin 8) (h : LinHeader) => (s.netRuns = true) ∧ ((s.ln n).header = some h) ∧ (h.acting = true) ∧
    (s.fld (LIN_FR_DIR n h.id) = 2)) ((wit [(PMU_DOMSTAT_READY, 31), (LIN_FR_DIR 7 63, 2)]).setLn 7
    { header := some ⟨63, 0, true, [], false⟩ }) 7 ⟨63, 0, true, [], false⟩) ∧
  ((fun (s : State) (n : Nat) => (s.linState n = linActive) ∧ ((s.ln n).running = false) ∧ ((s.ln n).announce ≠ []))
    ((wit [(LIN_STAT_STATE 7, 2), (LIN_CFG_ROLE 7, 1)]).setLn 7 { announce := [63] }) 7) ∧
  ((fun (s : State) (m : Master) (n : Fin 8) (k : Fin 64) => (s.opens m (LIN_FR n k) = true) ∧ (ownerOk (s.fld
    (LIN_CFG_OWNER n)) m = true) ∧ (s.fld (LIN_FR_DIR n k) = 1) ∧ (s.fld (LIN_FR_ISTAT n k) ≠ istatPending)) (wit
    [(PMU_DOMSTAT_READY, 31), (LIN_CFG_OWNER 7, 1), (LIN_FR_DIR 7 63, 1)]) .zc0 7 63) ∧
  ((fun (s : State) (m : Master) (n : Fin 8) (k : Fin 64) (a : Access) => (s.opens m (LIN_FD n k) = true)) (wit
    [(PMU_DOMSTAT_READY, 31)]) .zc0 7 63 .hi32) ∧
  ((fun (s : State) (k : Fin 16) => (s.netRuns = true) ∧ (s.flag (NSL_STAT_AWAKE.bit k) = true)) (wit
    [(PMU_DOMSTAT_READY, 31), (NSL_STAT_AWAKE, 0x8000)]) 15) ∧
  ((fun (s : State) (m : Master) => (s.opens m NSL_CFG = true) ∧ (ownerOk (s.fld NSL_CFG_OWNER) m = true)) (wit
    [(PMU_DOMSTAT_READY, 31), (NSL_CFG_OWNER, 1)]) .zc0) ∧
  ((fun (s : State) (m : Master) => (s.opens m NSL_CFG = true) ∧ (ownerOk (s.fld NSL_CFG_OWNER) m = true) ∧ (s.flag
    NSL_CFG_LOCAL = true)) (wit [(PMU_DOMSTAT_READY, 31), (NSL_CFG_OWNER, 1), (NSL_CFG_LOCAL, 1)]) .zc0) ∧
  ((fun (s : State) => (s.netRuns = true) ∧ (s.flag NSL_CFG_LOCAL = false) ∧ (((List.range 16).filter fun k => s.inGroup
    k && s.flag (NSL_STAT_AWAKE.bit k)) ≠ [])) (wit [(PMU_DOMSTAT_READY, 31), (NSL_CFG_LOCAL, 0), (NSL_CFG_GROUP,
    0x8000), (NSL_STAT_AWAKE, 0x8000)])) := by
  refine ⟨?_, ?_, ?_, ?_, ?_, ?_, ?_, ?_, ?_, ?_, ?_⟩ <;> decide +kernel

theorem test_witness_EthernetAndGatewayCommandsComplete :
  ((fun (s : State) (p : Fin 4) (f : EthFrame) (st : BitVec 64) (v : BitVec 16) => (s.eswRuns = true) ∧ (s.flag
    (ESW_PORT_CFG_PEN p) = true)) (wit [(PMU_DOMSTAT_READY, 31), (ESW_CTL_EN, 1), (ESW_PORT_CFG_PEN 3, 1)]) 3 ⟨0, 0,
    none, 0x88B5, List.replicate 46 0⟩ 0 0) ∧
  ((fun (s : State) (p : Fin 4) (f : EthFrame) (st : BitVec 64) (v : BitVec 16) (k : Nat) => (s.eswRuns = true) ∧
    (s.flag (ESW_PORT_CFG_PEN p) = true) ∧ (64 ≤ ethLen f) ∧ (ethLen f ≤ 1522) ∧ (s.ethAdmit p f = some k)) (wit
    [(PMU_DOMSTAT_READY, 31), (ESW_CTL_EN, 1), (ESW_PORT_CFG_PEN 3, 1), (ESW_VLAN_V 0, 1), (ESW_VLAN_VID 0, 1),
    (ESW_PORT_CFG_PVID 3, 1), (ESW_VLAN_MEMBER 0, 31)]) 3 ⟨0, 0, none, 0x88B5, List.replicate 46 0⟩ 0 0 0) ∧
  ((fun (s : State) (k : BitVec 48) (v : BitVec 12) => (s.netRuns = true) ∧ (s.fld ESW_CTL_AGE ≠ 0)) (wit
    [(PMU_DOMSTAT_READY, 31), (ESW_CTL_AGE, 1)]) 0 0) ∧
  ((fun (s : State) (p : Fin 4) (up : Bool) => (s.netRuns = true) ∧ (s.degraded = false)) (wit [(PMU_DOMSTAT_READY,
    31)]) 1 true) ∧
  ((fun (s : State) (e : MemErr) => (s.eswRuns = true) ∧ (s.txWaiting.contains s.txDesc = false) ∧ (e ≠ .double) ∧
    ((s.word s.txDesc).testBit 63 = true)) ((wit [(PMU_DOMSTAT_READY, 31), (ESW_CTL_EN, 1), (ESW_PORT_CFG_PEN 3,
    1)]).setWord 0 (2 ^ 63)) .single) ∧
  ((fun (s : State) => (s.eswRuns = true) ∧ (s.txWaiting.contains s.txDesc = false)) (wit [(PMU_DOMSTAT_READY, 31),
    (ESW_CTL_EN, 1), (ESW_PORT_CFG_PEN 3, 1)])) ∧
  ((fun (s : State) (bad : List (Fin 4096)) (e : MemErr) => (s.netRuns = true) ∧ (s.flag GWE_CTL_EN = true)) (wit
    [(PMU_DOMSTAT_READY, 31), (GWE_CTL_EN, 1)]) [4095] .good) ∧
  ((fun (s : State) (b : Fin 2) (i : Fin 4096) => (s.netRuns = true)) (wit [(PMU_DOMSTAT_READY, 31)]) 1 4095) ∧
  ((fun (s : State) (m : Master) (b : Fin 2) (i : Fin 4096) => (s.opens m GWE_RTCMD = true) ∧ (ownerOk (s.fld
    GWE_CTL_OWNER) m = true) ∧ (s.flag GWE_RTCMD_BUSY = false)) (wit [(PMU_DOMSTAT_READY, 31), (GWE_CTL_OWNER, 1)]) .zc0
    1 4095) ∧
  ((fun (s : State) (m : Master) (b : Fin 2) (i : Fin 4096) => (s.opens m GWE_RTCMD = true) ∧ (ownerOk (s.fld
    GWE_CTL_OWNER) m = true) ∧ (s.flag GWE_RTCMD_BUSY = false)) (wit [(PMU_DOMSTAT_READY, 31), (GWE_CTL_OWNER, 1)]) .zc0
    1 4095) ∧
  ((fun (s : State) (m : Master) (b : Fin 2) (i : Fin 4096) => (s.opens m GWE_RTCMD = true) ∧ (ownerOk (s.fld
    GWE_CTL_OWNER) m = true) ∧ (s.flag GWE_RTCMD_BUSY = false)) (wit [(PMU_DOMSTAT_READY, 31), (GWE_CTL_OWNER, 1)]) .zc0
    1 4095) ∧
  ((fun (s : State) (m : Master) (b : Fin 2) (i : Fin 4096) => (s.opens m GWE_RTCMD = true) ∧ (ownerOk (s.fld
    GWE_CTL_OWNER) m = true) ∧ (s.flag GWE_RTCMD_BUSY = false)) (wit [(PMU_DOMSTAT_READY, 31), (GWE_CTL_OWNER, 1)]) .zc0
    1 4095) ∧
  ((fun (s : State) => (s.netRuns = true) ∧ (s.flag GWE_RTCMD_BUSY = true)) (wit [(PMU_DOMSTAT_READY, 31),
    (GWE_RTCMD_BUSY, 1), (GWE_RTCMD_ACTIVE, 1)])) := by
  refine ⟨?_, ?_, ?_, ?_, ?_, ?_, ?_, ?_, ?_, ?_, ?_, ?_, ?_⟩ <;> decide +kernel

theorem test_witness_VehicleAccessCommandsComplete :
  ((fun (s : State) (n : Fin 8) (cnt : BitVec 16) => (s.sensorOn n = true)) (wit [(ACC_CH_EN 7, 1)] |> fun s =>
    { s with sys := { s.sys with por := false } }) 7 0xFFFF) ∧
  ((fun (s : State) (n : Fin 8) (cnt : BitVec 16) => (s.sensorOn n = true) ∧ (s.flag (ACC_CHST_TOUCH n) = true) ∧ (cnt ≠
    0) ∧ (cnt ≠ 0xFFFF) ∧ ((s.fld (ACC_CH_THR n) : Int) ≤ 2 * ((cnt.toNat : Int) - s.fld (ACC_CHST_BASE n)))) (wit
    [(ACC_CH_EN 7, 1), (ACC_CHST_TOUCH 7, 1), (ACC_CH_THR 7, 200), (ACC_CHST_BASE 7, 1000)] |> fun s =>
    { s with sys := { s.sys with por := false } }) 7 1100) ∧
  ((fun (s : State) (m : Master) (h : Fin 8) => (s.opens m ACC_CMD = true) ∧ (ownerOk (s.fld ACC_CFG_OWNER) m = true) ∧
    (s.flag ACC_CFG_EN = true) ∧ (s.s3 = false) ∧ (s.s4 = false) ∧ (s.acc.poll = none) ∧ (s.acc.lockOut.locked = false)
    ∧ (s.zsAsleep = false)) (wit [(ACC_CFG_OWNER, 1), (ACC_CFG_EN, 1)]) .zc0 7) ∧
  ((fun (s : State) (m : Master) (h : Fin 8) (p : Poll) => (s.opens m ACC_CMD = true) ∧ (ownerOk (s.fld ACC_CFG_OWNER) m
    = true) ∧ (s.acc.poll = some p)) ((wit [(ACC_CFG_OWNER, 1)]).setPoll (some
    { handle := 7, ant := [(0, 12)], radios := 1, dmax := 500, keys := [] })) .zc0 7
    { handle := 7, ant := [(0, 12)], radios := 1, dmax := 500, keys := [] }) ∧
  ((fun (s : State) (p : Poll) (v : List (BitVec 16)) (c : BitVec 6) => (s.acc.poll = some p) ∧ (s.fld ACC_STAT_STATE =
    1)) ((wit [(ACC_STAT_STATE, 1)]).setPoll (some
    { handle := 7, ant := [(0, 12)], radios := 1, dmax := 500, keys := [] }))
    { handle := 7, ant := [(0, 12)], radios := 1, dmax := 500, keys := [] } [] 63) ∧
  ((fun (s : State) (p : Poll) (l : List RadioRun) => (s.acc.poll = some p) ∧ (s.fld ACC_STAT_STATE = 2)) ((wit
    [(ACC_STAT_STATE, 2)]).setPoll (some { handle := 7, ant := [(0, 12)], radios := 1, dmax := 500, keys := [] }))
    { handle := 7, ant := [(0, 12)], radios := 1, dmax := 500, keys := [] } []) ∧
  ((fun (s : State) (p : Poll) (k : Fin 8) (l : List RadioRun) => (s.acc.poll = some p) ∧ (s.fld ACC_STAT_STATE = 3) ∧
    (p.slot ≤ k)) ((wit [(ACC_STAT_STATE, 3)]).setPoll (some
    { handle := 7, ant := [(0, 12)], radios := 1, dmax := 500, keys := [] }))
    { handle := 7, ant := [(0, 12)], radios := 1, dmax := 500, keys := [] } 7 []) ∧
  ((fun (s : State) (p : Poll) (l : List RadioRun) => (s.acc.poll = some p) ∧ (s.fld ACC_STAT_STATE = 3)) ((wit
    [(ACC_STAT_STATE, 3)]).setPoll (some { handle := 7, ant := [(0, 12)], radios := 1, dmax := 500, keys := [] }))
    { handle := 7, ant := [(0, 12)], radios := 1, dmax := 500, keys := [] } []) ∧
  ((fun (s : State) (p : Poll) (k : Fin 8) (b : List Byte) (l : List RadioRun) => (s.acc.poll = some p) ∧ (s.fld
    ACC_STAT_STATE = 4) ∧ (p.slot ≤ k)) ((wit [(ACC_STAT_STATE, 4)]).setPoll (some
    { handle := 7, ant := [(0, 12)], radios := 1, dmax := 500, keys := [] }))
    { handle := 7, ant := [(0, 12)], radios := 1, dmax := 500, keys := [] } 7 [] []) ∧
  ((fun (s : State) (p : Poll) => (s.acc.poll = some p) ∧ (s.fld ACC_STAT_STATE = 4)) ((wit [(ACC_STAT_STATE,
    4)]).setPoll (some { handle := 7, ant := [(0, 12)], radios := 1, dmax := 500, keys := [] }))
    { handle := 7, ant := [(0, 12)], radios := 1, dmax := 500, keys := [] }) ∧
  ((fun (s : State) (p : Poll) => (s.acc.poll = some p) ∧ (s.fld ACC_STAT_STATE = 5)) ((wit [(ACC_STAT_STATE,
    5)]).setPoll (some { handle := 7, ant := [(0, 12)], radios := 1, dmax := 500, keys := [] }))
    { handle := 7, ant := [(0, 12)], radios := 1, dmax := 500, keys := [] }) ∧
  ((fun (s : State) => (s.acc.lockOut.locked = true) ∧ (s.acc.lockOut.ends ≤ s.slowAge)) ((fun s : State =>
    { s with acc := { s.acc with lockOut := { locked := true } } }) State.reset)) := by
  refine ⟨?_, ?_, ?_, ?_, ?_, ?_, ?_, ?_, ?_, ?_, ?_, ?_⟩ <;> decide +kernel

theorem test_witness_DataInstructionsComplete :
  ((fun (s : State) (t : State) (r : CoreRun) (d n m : Fin 32) (k : ShiftKind) (b : Bool) (p : Fin 64) (w : Fin 65) =>
    (s.fetches r 4 t)) (witCore 1) (witCore 1) ⟨0, .good, .good, .good⟩ 31 0 15 .arith true 63 1) := by
  decide +kernel

theorem test_witness_ImmediateAndMultiplyInstructionsComplete :
  ((fun (s : State) (t : State) (r : CoreRun) (d n : Fin 32) (k : ShiftKind) (v : BitVec 16) (a : Fin 64) => (s.fetches
    r 4 t)) (witCore 1) (witCore 1) ⟨0, .good, .good, .good⟩ 31 0 .left 0xFFFF 63) ∧
  ((fun (s : State) (t : State) (r : CoreRun) (d : Fin 32) (a : Fin 16) (v : BitVec 40) => (s.fetches r 8 t)) (witCore
    1) (witCore 1) ⟨0, .good, .good, .good⟩ 31 15 0xFFFFFFFFFF) ∧
  ((fun (s : State) (t : State) (r : CoreRun) (d n m : Fin 32) => (s.fetches r 4 t)) (witCore 1) (witCore 1) ⟨0, .good,
    .good, .good⟩ 31 0 15) := by
  refine ⟨?_, ?_, ?_⟩ <;> decide +kernel

theorem test_witness_AddressInstructionsComplete :
  ((fun (s : State) (t : State) (r : CoreRun) (d n m : Fin 16) (x : AddrSrc) (e : Fin 32) (q : Fin 4) (v : BitVec 16) =>
    (s.fetches r 4 t)) (witCore 1) (witCore 1) ⟨0, .good, .good, .good⟩ 15 0 14 (.imm 0x8000) 31 3 0xFFFF) ∧
  ((fun (s : State) (t : State) (r : CoreRun) (n : Fin 16) (k : Fin 16) (o : BitVec 22) => (s.fetches r 4 t)) (witCore
    1) (witCore 1) ⟨0, .good, .good, .good⟩ 15 9 0x200000) := by
  refine ⟨?_, ?_⟩ <;> decide +kernel

theorem test_witness_AccumulatorInstructionsComplete :
  ((fun (s : State) (t : State) (r : CoreRun) (d : Fin 4) (e n m : Fin 32) (b : Fin 128) => (s.fetches r 4 t) ∧ (r.core
    ≠ 5)) (witCore 1) (witCore 1) ⟨0, .good, .good, .good⟩ 3 31 0 15 127) ∧
  ((fun (s : State) (t : State) (r : CoreRun) (d : Fin 4) (e n m : Fin 32) (b : Fin 128) => (s.fetches r 4 t) ∧ (r.core
    = 5)) (witCore 6) (witCore 6) ⟨5, .good, .good, .good⟩ 3 31 0 15 127) := by
  refine ⟨?_, ?_⟩ <;> decide +kernel

theorem test_witness_LoadStoreInstructionsComplete :
  ((fun (s : State) (t u v : State) (r : CoreRun) (x : GenReg) (w : MemWidth) (b : Bool) (a : MemAddr) (q : MemErr) (p n
    : Nat) => (s.fetches r 4 t) ∧ (((t.ran r).memAddr a) % widthBytes w = 0) ∧ (t.translate (runEp r) ((t.ran r).memAddr
    a) .read r.walk = (u, .phys p)) ∧ (u.load (epMaster (runEp r)) p (widthBytes w) q = (v, .value n))) (witCore 1)
    (witCore 1) (witCore 1) (witCore 1) ⟨0, .good, .good, .good⟩ (.d 31) .b8 true (.disp 0 0) .good 0x20000000 0) ∧
  ((fun (s : State) (t u v : State) (r : CoreRun) (x : GenReg) (w : MemWidth) (a : MemAddr) (q : MemErr) (p : Nat) =>
    (s.fetches r 4 t) ∧ (((t.ran r).memAddr a) % widthBytes w = 0) ∧ (t.translate (runEp r) ((t.ran r).memAddr a) .write
    r.walk = (u, .phys p)) ∧ ((u.ends r 4 (u.ran r)).store (epMaster (runEp r)) p (widthBytes w) (((t.ran r).readGen
    x).toNat % 2 ^ (8 * widthBytes w)) q = (v, .done))) witMem witMem witMem (((witMem.ends ⟨0, .good, .good, .good⟩ 4
    (witMem.ran ⟨0, .good, .good, .good⟩)).store (epMaster 1) 0 8 0 .good).1) ⟨0, .good, .good, .good⟩ (.d 31) .b8
    (.disp 1 0) .good 0) ∧
  ((fun (s : State) (t u v : State) (r : CoreRun) (d : Fin 4) (a : MemAddr) (q : MemErr) (p n : Nat) => (s.fetches r 4
    t) ∧ (r.core ≠ 5) ∧ (((t.ran r).memAddr a) % 16 = 0) ∧ (t.translate (runEp r) ((t.ran r).memAddr a) .read r.walk =
    (u, .phys p)) ∧ (u.load (epMaster (runEp r)) p 16 q = (v, .value n))) (witCore 1) (witCore 1) (witCore 1) (witCore
    1) ⟨0, .good, .good, .good⟩ 3 (.disp 0 0) .good 0x20000000 0) ∧
  ((fun (s : State) (t u v : State) (r : CoreRun) (d : Fin 4) (a : MemAddr) (q : MemErr) (p : Nat) => (s.fetches r 4 t)
    ∧ (r.core ≠ 5) ∧ (((t.ran r).memAddr a) % 16 = 0) ∧ (t.translate (runEp r) ((t.ran r).memAddr a) .write r.walk = (u,
    .phys p)) ∧ ((u.ends r 4 (u.ran r)).store (epMaster (runEp r)) p 16 ((t.ran r).readAc d).toNat q = (v, .done)))
    witMem witMem witMem (((witMem.ends ⟨0, .good, .good, .good⟩ 4 (witMem.ran ⟨0, .good, .good, .good⟩)).store
    (epMaster 1) 0 16 0 .good).1) ⟨0, .good, .good, .good⟩ 3 (.disp 1 0) .good 0) ∧
  ((fun (s : State) (t : State) (r : CoreRun) (d : Fin 4) (a : MemAddr) (q : MemErr) => (s.fetches r 4 t) ∧ (r.core =
    5)) (witCore 6) (witCore 6) ⟨5, .good, .good, .good⟩ 3 (.disp 0 0) .good) := by
  refine ⟨?_, ?_, ?_, ?_, ?_⟩ <;> decide +kernel

theorem test_witness_DecimalInstructionsComplete :
  ((fun (s : State) (t : State) (r : CoreRun) (d n m : Fin 32) => (s.fetches r 4 t) ∧ (digitsOk ((t.ran r).decD n) 16 =
    true) ∧ (digitsOk ((t.ran r).decD m) 16 = true)) (witCore 1) (witCore 1) ⟨0, .good, .good, .good⟩ 31 0 1) ∧
  ((fun (s : State) (t : State) (r : CoreRun) (d n m : Fin 32) => (s.fetches r 4 t) ∧ (digitsOk ((t.ran r).decD n) 16 =
    true) ∧ (digitsOk ((t.ran r).decD m) 16 = true)) (witCore 1) (witCore 1) ⟨0, .good, .good, .good⟩ 31 0 1) ∧
  ((fun (s : State) (t : State) (r : CoreRun) (n m : Fin 32) => (s.fetches r 4 t) ∧ (digitsOk ((t.ran r).decD n) 16 =
    true) ∧ (digitsOk ((t.ran r).decD m) 16 = true)) (witCore 1) (witCore 1) ⟨0, .good, .good, .good⟩ 0 1) ∧
  ((fun (s : State) (t : State) (r : CoreRun) (d n : Fin 32) => (s.fetches r 4 t)) (witCore 1) (witCore 1) ⟨0, .good,
    .good, .good⟩ 31 0) ∧
  ((fun (s : State) (t : State) (r : CoreRun) (d n : Fin 32) (k : Fin 64) => (s.fetches r 4 t) ∧ (digitsOk ((t.ran
    r).decD n) 16 = true)) (witCore 1) (witCore 1) ⟨0, .good, .good, .good⟩ 31 0 63) ∧
  ((fun (s : State) (t : State) (r : CoreRun) (d n : Fin 32) (k : Fin 64) => (s.fetches r 4 t) ∧ (digitsOk ((t.ran
    r).decD n) 16 = true)) (witCore 1) (witCore 1) ⟨0, .good, .good, .good⟩ 31 0 63) ∧
  ((fun (s : State) (t : State) (r : CoreRun) (d n : Fin 32) => (s.fetches r 4 t)) (witCore 1) (witCore 1) ⟨0, .good,
    .good, .good⟩ 31 0) ∧
  ((fun (s : State) (t : State) (r : CoreRun) (d n : Fin 32) => (s.fetches r 4 t) ∧ (digitsOk ((t.ran r).decD n) 16 =
    true)) (witCore 1) (witCore 1) ⟨0, .good, .good, .good⟩ 31 0) ∧
  ((fun (s : State) (t : State) (r : CoreRun) (d n m : Fin 4) => (s.fetches r 4 t) ∧ (r.core ≠ 5) ∧ (digitsOk ((t.ran
    r).decAc n) 32 = true) ∧ (digitsOk ((t.ran r).decAc m) 32 = true)) (witCore 1) (witCore 1) ⟨0, .good, .good, .good⟩
    3 0 1) ∧
  ((fun (s : State) (t : State) (r : CoreRun) (d n m : Fin 4) => (s.fetches r 4 t) ∧ (r.core ≠ 5) ∧ (digitsOk ((t.ran
    r).decAc n) 32 = true) ∧ (digitsOk ((t.ran r).decAc m) 32 = true)) (witCore 1) (witCore 1) ⟨0, .good, .good, .good⟩
    3 0 1) ∧
  ((fun (s : State) (t : State) (r : CoreRun) (n m : Fin 4) => (s.fetches r 4 t) ∧ (r.core ≠ 5) ∧ (digitsOk ((t.ran
    r).decAc n) 32 = true) ∧ (digitsOk ((t.ran r).decAc m) 32 = true)) (witCore 1) (witCore 1) ⟨0, .good, .good, .good⟩
    0 1) ∧
  ((fun (s : State) (t : State) (r : CoreRun) (d n : Fin 4) (k : Fin 64) => (s.fetches r 4 t) ∧ (r.core ≠ 5) ∧ (digitsOk
    ((t.ran r).decAc n) 32 = true)) (witCore 1) (witCore 1) ⟨0, .good, .good, .good⟩ 3 0 63) ∧
  ((fun (s : State) (t : State) (r : CoreRun) (d n : Fin 4) (k : Fin 64) => (s.fetches r 4 t) ∧ (r.core ≠ 5) ∧ (digitsOk
    ((t.ran r).decAc n) 32 = true)) (witCore 1) (witCore 1) ⟨0, .good, .good, .good⟩ 3 0 63) ∧
  ((fun (s : State) (t : State) (r : CoreRun) (d : Fin 4) (n : Fin 32) => (s.fetches r 4 t) ∧ (r.core ≠ 5)) (witCore 1)
    (witCore 1) ⟨0, .good, .good, .good⟩ 3 31) ∧
  ((fun (s : State) (t : State) (r : CoreRun) (d : Fin 32) (n : Fin 4) => (s.fetches r 4 t) ∧ (r.core ≠ 5) ∧ (digitsOk
    ((t.ran r).decAc n) 32 = true)) (witCore 1) (witCore 1) ⟨0, .good, .good, .good⟩ 31 3) ∧
  ((fun (s : State) (t : State) (r : CoreRun) (d n m : Fin 32) => (s.fetches r 4 t) ∧ (digits2 16 ((t.ran r).decD n)
    ((t.ran r).decD m) = false)) witDigit witDigit ⟨0, .good, .good, .good⟩ 31 1 0) ∧
  ((fun (s : State) (t : State) (r : CoreRun) (d n : Fin 32) (k : Fin 64) => (s.fetches r 4 t) ∧ (digitsOk ((t.ran
    r).decD n) 16 = false)) witDigit witDigit ⟨0, .good, .good, .good⟩ 31 1 63) ∧
  ((fun (s : State) (t : State) (r : CoreRun) (d n m : Fin 4) => (s.fetches r 4 t) ∧ (r.core ≠ 5) ∧ (digits2 32 ((t.ran
    r).decAc n) ((t.ran r).decAc m) = false)) witDigit witDigit ⟨0, .good, .good, .good⟩ 3 1 0) ∧
  ((fun (s : State) (t : State) (r : CoreRun) (d n : Fin 4) (k : Fin 64) (i : Fin 32) => (s.fetches r 4 t) ∧ (r.core ≠
    5) ∧ (digitsOk ((t.ran r).decAc n) 32 = false)) witDigit witDigit ⟨0, .good, .good, .good⟩ 3 1 63 31) ∧
  ((fun (s : State) (t : State) (r : CoreRun) (d n m : Fin 4) (i : Fin 32) (k : Fin 64) => (s.fetches r 4 t) ∧ (r.core =
    5)) (witCore 6) (witCore 6) ⟨5, .good, .good, .good⟩ 3 0 1 31 63) ∧
  ((fun (s : State) (t : State) (r : CoreRun) (d n : Fin 32) => (s.fetches r 4 t)) (witCore 1) (witCore 1) ⟨0, .good,
    .good, .good⟩ 31 0) := by
  refine ⟨?_, ?_, ?_, ?_, ?_, ?_, ?_, ?_, ?_, ?_, ?_, ?_, ?_, ?_, ?_, ?_, ?_, ?_, ?_, ?_, ?_⟩ <;> decide +kernel

theorem test_witness_MailboxInstructionsComplete :
  ((fun (s : State) (t : State) (r : CoreRun) (d n : Fin 32) (b : Fin 16) (k : Nat) => (s.fetches r 4 t) ∧ ((t.ran
    r).level ≠ 0) ∧ (t.mbxSide? b (runEp r) = some k)) (witBox 1 5) (witBox 1 5) ⟨0, .good, .good, .good⟩ 31 0 15 0) ∧
  ((fun (s : State) (t : State) (r : CoreRun) (d n : Fin 32) (b : Fin 16) => (s.fetches r 4 t) ∧ ((t.ran r).level ≠ 0) ∧
    (t.mbxSide? b (runEp r) = none)) (witCore 1) (witCore 1) ⟨0, .good, .good, .good⟩ 31 0 3) ∧
  ((fun (s : State) (t : State) (r : CoreRun) (d n : Fin 32) (b : Fin 16) (k : Nat) => (s.fetches r 4 t) ∧ ((t.ran
    r).level ≠ 0) ∧ (t.mbxSide? b (runEp r) = some k) ∧ ((t.side b k).queue = [])) (witBox 1 5) (witBox 1 5) ⟨0, .good,
    .good, .good⟩ 31 0 15 0) ∧
  ((fun (s : State) (t : State) (r : CoreRun) (d n : Fin 32) (b : Fin 16) (k : Nat) (x : MboxWord) (l : List MboxWord)
    => (s.fetches r 4 t) ∧ ((t.ran r).level ≠ 0) ∧ (t.mbxSide? b (runEp r) = some k) ∧ ((t.side b k).queue = x :: l))
    ((witBox 1 5).setSide 15 0 { queue := [⟨5, 3, false⟩] }) ((witBox 1 5).setSide 15 0 { queue := [⟨5, 3, false⟩] })
    ⟨0, .good, .good, .good⟩ 31 0 15 0 ⟨5, 3, false⟩ []) ∧
  ((fun (s : State) (n : Fin 6) (d : Fin 32) (b : Fin 16) (k : Nat) => ((s.core (n.val + 1)).wait = some (.wack d b
    true)) ∧ (s.mbxSide? b (n.val + 1) = some k)) ((witBox 1 5).setCore 1 { wait := some (.wack 31 15 true) }) 0 31 15
    0) := by
  refine ⟨?_, ?_, ?_, ?_, ?_⟩ <;> decide +kernel

theorem test_witness_SystemInstructionsComplete :
  ((fun (s : State) (t : State) (r : CoreRun) (d : Fin 32) (n : BitVec 16) (l : Nat) => (s.fetches r 4 t) ∧ (srReadLevel
    n.toNat = some l) ∧ (l ≤ (t.ran r).level)) (witCore 1) (witCore 1) ⟨0, .good, .good, .good⟩ 31 0x13F 1) ∧
  ((fun (s : State) (t : State) (r : CoreRun) (d : Fin 32) (n : BitVec 16) (l : Nat) => (s.fetches r 4 t) ∧
    (srWriteLevel n.toNat = some l) ∧ (l ≤ (t.ran r).level)) (witCore 1) (witCore 1) ⟨0, .good, .good, .good⟩ 31 0x40 2) ∧
  ((fun (s : State) (t : State) (r : CoreRun) (d : Fin 32) => (s.fetches r 4 t) ∧ ((t.ran r).level ≠ 0)) (witCore 1)
    (witCore 1) ⟨0, .good, .good, .good⟩ 31) ∧
  ((fun (s : State) (t : State) (r : CoreRun) (d : Fin 32) (n : BitVec 16) => (s.fetches r 4 t) ∧ (srReadLevel n.toNat =
    none)) (witCore 1) (witCore 1) ⟨0, .good, .good, .good⟩ 31 0xFFFF) ∧
  ((fun (s : State) (t : State) (r : CoreRun) => (s.fetches r 4 t)) (witCore 1) (witCore 1) ⟨0, .good, .good, .good⟩) ∧
  ((fun (s : State) (t : State) (r : CoreRun) (k : TlbScope) => (s.fetches r 4 t) ∧ ((t.ran r).level ≠ 0)) (witCore 1)
    (witCore 1) ⟨0, .good, .good, .good⟩ (.va 31)) ∧
  ((fun (s : State) (n : Fin 6) => ((s.core (n.val + 1)).wait = some .wfi) ∧ ((s.icNext (n.val + 1)).isSome = true))
    ((witIrq).setCore 1 { (witIrq).core 1 with wait := some .wfi }) 0) ∧
  ((fun (s : State) (n : Fin 6) => (s.irqDue (n.val + 1) = true)) witIrq 0) ∧
  ((fun (s : State) (p : Fin 2) => ((if p.val = 0 then s.cpu.lock01 else s.cpu.lock23) = true) ∧ ((s.core (2 * p.val +
    1)).released = true) ∧ ((s.core (2 * p.val + 1)).stopped = false)) ((fun s : State =>
    { s with cpu := { s.cpu with lock01 := true } }) (witCore 1)) 0) := by
  refine ⟨?_, ?_, ?_, ?_, ?_, ?_, ?_, ?_, ?_⟩ <;> decide +kernel

theorem test_witness_BusAccessCommandsComplete :
  ((fun (s : State) (m : Master) (a : BitVec 40) (v : BitVec 64) => (s.masterOn m = true) ∧ (s.asleepBars (a.toNat) =
    false) ∧ (s.stalls m (a.toNat) = false) ∧ (region (a.toNat) = .periph) ∧ (regBarred m (a.toNat) 8 = false) ∧
    (regAccess a.toNat 8 = some (a.toNat, .w64)) ∧ (((regInfo? a.toNat).isNone) = false)) awake .zc0 0x40100000 5) ∧
  ((fun (s : State) (m : Master) (a : BitVec 40) (v : BitVec 64) => (s.masterOn m = true) ∧ (s.asleepBars (a.toNat) =
    false) ∧ (s.stalls m (a.toNat) = false) ∧ (region (a.toNat) = .periph) ∧ (regBarred m (a.toNat) 4 = false) ∧
    (regAccess a.toNat 4 = some (a.toNat, .lo32)) ∧ (((regInfo? a.toNat).isNone) = false)) awake .zc0 0x40100000
    5) ∧
  ((fun (s : State) (m : Master) (a : BitVec 40) (v : BitVec 64) => (s.masterOn m = true) ∧ (s.asleepBars (a.toNat + 4)
    = false) ∧ (s.stalls m (a.toNat + 4) = false) ∧ (region (a.toNat + 4) = .periph) ∧ (regBarred m (a.toNat + 4) 4 =
    false) ∧ (regAccess (a.toNat + 4) 4 = some (a.toNat, .hi32)) ∧ (((regInfo? a.toNat).isNone) = false)) awake
    .zc0 0x40100000 5) ∧
  ((fun (s : State) (m : Master) (a : BitVec 40) (v : BitVec 32) => (s.masterOn m = true) ∧ (s.asleepBars (a.toNat) =
    false) ∧ (s.stalls m (a.toNat) = false) ∧ (region (a.toNat) = .periph) ∧ (regBarred m (a.toNat) 4 = false) ∧
    (regAccess a.toNat 4 = some (a.toNat, .lo32)) ∧ (((regInfo? a.toNat).isNone) = false)) awake .zc0 0x40100000
    5) ∧
  ((fun (s : State) (m : Master) (a : BitVec 40) (v : BitVec 32) => (s.masterOn m = true) ∧ (s.asleepBars (a.toNat + 4)
    = false) ∧ (s.stalls m (a.toNat + 4) = false) ∧ (region (a.toNat + 4) = .periph) ∧ (regBarred m (a.toNat + 4) 4 =
    false) ∧ (regAccess (a.toNat + 4) 4 = some (a.toNat, .hi32)) ∧ (((regInfo? a.toNat).isNone) = false)) awake
    .zc0 0x40100000 5) ∧
  ((fun (s : State) (m : Master) (a : BitVec 40) (t : State) (x : Nat) => (s.masterOn m = true) ∧ (s.load m a.toNat 4
    .good = (t, .value x))) awake .zc0 0x20000000 awake 0) ∧
  ((fun (s : State) (m : Master) (a : BitVec 40) (t : State) (x : Nat) => (s.masterOn m = true) ∧ (s.load m (a.toNat +
    4) 4 .good = (t, .value x))) awake .zc0 0x20000000 awake 0) ∧
  ((fun (s : State) (m : Master) (a n : Nat) => (s.asleepBars a = false) ∧ (region a = .sram) ∧ (s.memAllowed m a .read
    = true)) witMem .zc0 0x10 8) ∧
  ((fun (s : State) (m : Master) (a : BitVec 40) => (s.masterOn m = true) ∧ (s.asleepBars a.toNat = false) ∧ (region
    a.toNat = .sram) ∧ (s.memAllowed m a.toNat .read = true)) witMem .zc0 0x10) ∧
  ((fun (s : State) (m : Master) (a : BitVec 40) (w : MemWidth) (e : MemErr) => (s.masterOn m = true) ∧ (s.asleepBars
    a.toNat = false) ∧ (s.stalls m a.toNat = true)) witDark .zc0 0x40080000 .b8 .good) ∧
  ((fun (s : State) (m : Master) (a : BitVec 40) (w : MemWidth) (v : BitVec 64) (e : MemErr) => (s.masterOn m = true) ∧
    (s.asleepBars a.toNat = false) ∧ (s.stalls m a.toNat = true)) witDark .zc0 0x40080000 .b8 0 .good) ∧
  ((fun (s : State) (d : Fin 8) => (d = 4 ∨ d = 5) ∧ ((s.fld PMU_DOMSTAT_READY).testBit d = false)) witDark 5) ∧
  ((fun (s : State) (d : Fin 8) => ((s.fld PMU_DOMSTAT_READY).testBit d = false) ∧ ((s.nv.stalled.filter fun x =>
    stallDomain x == d.val) ≠ [])) (witDark.pushStall { m := .zc0, addr := 0x40080000, size := 8, store := none }) 4) ∧
  ((fun (s : State) (m : Master) (l : NvLine) => (s.nvBusy m.num = some l)) (awake.setNvBusy 1 (some
    { line := 0x10000000 })) .zc0 { line := 0x10000000 }) := by
  refine ⟨?_, ?_, ?_, ?_, ?_, ?_, ?_, ?_, ?_, ?_, ?_, ?_, ?_, ?_⟩ <;> decide +kernel

theorem test_witness_HostPortCommandsComplete :
  ((fun (s : State) (f : HostFrame) (e : MemErr) (v : BitVec 64) => (s.hostOpen = true) ∧ (f.cmd = 0x0B) ∧ (48 ≤ f.bits)
    ∧ ((({ s with reply := none } : State).busRead .host f.addr.toNat 8 e).reply = some (v, false))) awake ⟨0x0B,
    0x20000000, 48⟩ .good 0) ∧
  ((fun (s : State) (f : HostFrame) (e : MemErr) (v : BitVec 64) => (s.hostOpen = true) ∧ (f.cmd = 0x0C) ∧ (48 ≤ f.bits)
    ∧ ((({ s with reply := none } : State).busRead .host f.addr.toNat 4 e).reply = some (v, false))) awake ⟨0x0C,
    0x20000000, 48⟩ .good 0) ∧
  ((fun (s : State) (f : HostFrame) (e : MemErr) => (s.hostOpen = true) ∧ (f.cmd = 0x0B) ∧ (48 ≤ f.bits) ∧
    ((({ s with reply := none } : State).busRead .host f.addr.toNat 8 e).reply = none)) witDark ⟨0x0B, 0x40080000, 48⟩
    .good) ∧
  ((fun (s : State) (f : HostFrame) (e : MemErr) => (s.hostOpen = true) ∧ (f.cmd = 0x0C) ∧ (48 ≤ f.bits) ∧
    ((({ s with reply := none } : State).busRead .host f.addr.toNat 4 e).reply = none)) witDark ⟨0x0C, 0x40080000, 48⟩
    .good) ∧
  ((fun (s : State) (f : HostFrame) (e : MemErr) (v : BitVec 64) => (s.hostOpen = true) ∧ (f.cmd = 0x0B) ∧ (48 ≤ f.bits)
    ∧ ((({ s with reply := none } : State).busRead .host f.addr.toNat 8 e).reply = some (v, true))) awake ⟨0x0B,
    0x50000000, 48⟩ .good 0) ∧
  ((fun (s : State) (f : HostFrame) (e : MemErr) (v : BitVec 64) => (s.hostOpen = true) ∧ (f.cmd = 0x0C) ∧ (48 ≤ f.bits)
    ∧ ((({ s with reply := none } : State).busRead .host f.addr.toNat 4 e).reply = some (v, true))) awake ⟨0x0C,
    0x50000000, 48⟩ .good 0) ∧
  ((fun (s : State) (f : HostFrame) (v : BitVec 64) => (s.hostOpen = true) ∧ (f.cmd = 0x02) ∧ (112 ≤ f.bits))
    awake ⟨0x02, 0x40100000, 112⟩ 0) ∧
  ((fun (s : State) (f : HostFrame) (e : MemErr) (w : BitVec 32) => (s.hostOpen = true) ∧ (f.cmd = 0x03) ∧ (80 ≤
    f.bits)) awake ⟨0x03, 0x40100000, 80⟩ .good 0) ∧
  ((fun (s : State) (f : HostFrame) (e : MemErr) (v : BitVec 64) (w : BitVec 32) => (s.hostOpen = true) ∧ (f.cmd ≠ 0x0B
    ∧ f.cmd ≠ 0x0C ∧ f.cmd ≠ 0x02 ∧ f.cmd ≠ 0x03 ∨ f.bits < 48)) awake ⟨0x0B, 0x20000000, 47⟩ .good 0 0) ∧
  ((fun (s : State) (f : HostFrame) (v : BitVec 64) => (s.hostOpen = true) ∧ (f.bits < 112)) awake ⟨0x02,
    0x20000000, 111⟩ 0) ∧
  ((fun (s : State) (f : HostFrame) (e : MemErr) (w : BitVec 32) => (s.hostOpen = true) ∧ (f.bits < 80)) awake
    ⟨0x03, 0x20000000, 79⟩ .good 0) := by
  refine ⟨?_, ?_, ?_, ?_, ?_, ?_, ?_, ?_, ?_, ?_, ?_⟩ <;> decide +kernel

theorem test_witness_MailboxAndLockCommandsComplete :
  ((fun (s : State) (m : Master) (b : Fin 16) (k : Nat) (v : BitVec 64) => (s.opens m (MBX_TXQ b) = true) ∧ (s.mbxSide?
    b (s.epOf m) = some k)) (witBox 1 5) .zc0 15 0 0) ∧
  ((fun (s : State) (m : Master) (b : Fin 16) (k : Nat) => (s.opens m (MBX_RXQ b) = true) ∧ (s.mbxSide? b (s.epOf m) =
    some k)) (witBox 1 5) .zc0 15 0) ∧
  ((fun (s : State) (m : Master) (b : Fin 16) (k : Nat) => (s.opens m (MBX_RXQ b) = true) ∧ (s.mbxSide? b (s.epOf m) =
    some k)) (witBox 1 5) .zc0 15 0) ∧
  ((fun (s : State) (m : Master) (b : Fin 16) (k : Nat) => (s.opens m (MBX_CMD b) = true) ∧ (s.mbxSide? b (s.epOf m) =
    some k) ∧ ((s.mbxAckWord b k).2 = true)) ((witBox 1 5).setSide 15 1 { queue := [⟨5, 3, true⟩] }) .zc0 15 0) ∧
  ((fun (s : State) (m : Master) (b : Fin 16) (k : Nat) => (s.opens m (MBX_CMD b) = true) ∧ (s.mbxSide? b (s.epOf m) =
    some k)) (witBox 1 5) .zc0 15 0) ∧
  ((fun (s : State) (m : Master) (b : Fin 16) (v : BitVec 64) => (s.opens m (MBX_TXQ b) = true) ∧ (s.opens m (MBX_CMD b)
    = true) ∧ (s.mbxSide? b (s.epOf m) = none)) (witBox 1 5) .zc1 15 0) ∧
  ((fun (s : State) (m : Master) (b : Fin 16) (a : Access) => (s.opens m (MBX_RXQ b) = true) ∧ (s.mbxSide? b (s.epOf m)
    = none)) (witBox 1 5) .zc1 15 .lo32) ∧
  ((fun (s : State) (m : Master) (k : Fin 32) (a : Access) => (s.opens m (LK k) = true) ∧ (s.epOf m ≠ 0) ∧ (a ≠ .hi32) ∧
    ((s.lk k).owner = 0)) awake .zc0 31 .w64) ∧
  ((fun (s : State) (m : Master) (k : Fin 32) (a : Access) => (s.opens m (LK k) = true) ∧ (s.epOf m ≠ 0) ∧ (a ≠ .hi32) ∧
    ((s.lk k).owner ≠ 0)) (awake.setLk 31 { owner := 2 }) .zc0 31 .w64) ∧
  ((fun (s : State) (m : Master) (k : Fin 32) => (s.opens m (LK k) = true) ∧ (s.epOf m ≠ 0) ∧ ((s.lk k).owner = s.epOf
    m)) (awake.setLk 31 { owner := 1 }) .zc0 31) ∧
  ((fun (s : State) (m : Master) (k : Fin 32) => (s.opens m (LK k) = true) ∧ ((s.lk k).owner ≠ s.epOf m)) awake
    .zc0 31) := by
  refine ⟨?_, ?_, ?_, ?_, ?_, ?_, ?_, ?_, ?_, ?_, ?_⟩ <;> decide +kernel

theorem test_witness_BootstrapCommandsComplete :
  ((fun (s : State) => (s.sys.por = true)) State.reset) ∧
  ((fun (s : State) => (s.pmuPhase = phWaking) ∧ (s.pmu.supplies = true))
    { awake.setPhase phWaking with pmu := { supplies := true } }) ∧
  ((fun (s : State) => (s.sys.inReset = true) ∧ (s.sys.pinLow = false) ∧ (s.sys.pllWait = false))
    { awake with sys := { awake.sys with inReset := true } }) ∧
  ((fun (s : State) => (s.s3 = true) ∧ (s.flag FCU_STAT_RECOV = false) ∧ (s.s4 = false) ∧ (s.fld BSQ_STAT_STATE ≠
    bsFail) ∧ (s.bsq.running = false) ∧ (s.sys.inReset = false) ∧ (s.pmuPhase ≠ phBoot) ∧ (s.pmuPhase ≠ phEnter) ∧
    (s.pmuPhase ≠ phWaking) ∧ (s.fld PMU_STAT_STATE < 2)) ((awake.put BSQ_STAT_STATE 5).put FCU_STAT_S3 1)) ∧
  ((fun (s : State) => (s.bsq.running = true) ∧ (s.fld BSQ_STAT_STATE = 1) ∧ (s.bsq.place = 0) ∧ (s.bsq.waitRetry =
    false) ∧ (s.bsq.nvWait = false) ∧ (s.nvReady = true) ∧ (s.s4 = false)) (witBoot [(BSQ_STAT_STATE, 1),
    (PMU_DOMSTAT_READY, 0xFF)] { running := true })) ∧
  ((fun (s : State) => (s.bsq.running = true) ∧ (s.fld BSQ_STAT_STATE = 1) ∧ (s.bsq.place = 0) ∧ (s.bsq.waitRetry =
    false) ∧ (s.bsq.nvWait = false) ∧ (s.nvReady = false) ∧ (s.s4 = false)) (witBoot [(BSQ_STAT_STATE, 1),
    (PMU_DOMSTAT_READY, 0)] { running := true })) ∧
  ((fun (s : State) (u : BitVec 32) (e : List (Nat × Byte)) (g : List (List (Nat × Byte))) => (s.bsq.running = true) ∧
    (s.fld BSQ_STAT_STATE = 1) ∧ (s.fld BSQ_STAT_KIND ≠ 3) ∧ (s.bsq.place ≠ 0) ∧ (s.bsq.waitRetry = false)) (witBoot
    [(BSQ_STAT_STATE, 1)] { running := true, place := 1 }) 0 [] []) ∧
  ((fun (s : State) (u : BitVec 32) (e : List (Nat × Byte)) (g : List (List (Nat × Byte))) => (s.bsq.running = true) ∧
    (s.fld BSQ_STAT_STATE = 2) ∧ (s.fld BSQ_STAT_KIND = 3) ∧ (s.bsq.waitRetry = false) ∧ (s.s4 = false)) (witBoot
    [(BSQ_STAT_STATE, 2), (BSQ_STAT_KIND, 3)] { running := true }) 0 [] []) ∧
  ((fun (s : State) (b : Bool) => (s.bsq.running = true) ∧ (s.fld BSQ_STAT_STATE = 2) ∧ (s.fld BSQ_STAT_KIND ≠ 3) ∧ (b =
    s.signatureGood) ∧ (s.s4 = false)) (witBoot [(BSQ_STAT_STATE, 2)] { running := true }) false) ∧
  ((fun (s : State) => (s.zsLate = true) ∧ (s.s4 = false)) (witBoot [(BSQ_STAT_STATE, 1)] { running := true })) ∧
  ((fun (s : State) => (s.bsq.running = true) ∧ (s.fld BSQ_STAT_STATE = 3) ∧ (s.bsq.regsWait = false) ∧ (s.bsq.built =
    false) ∧ (s.bsqAwaits 4 = false) ∧ (s.s4 = false)) (witBoot [(BSQ_STAT_STATE, 3)] { running := true })) ∧
  ((fun (s : State) => (s.bsq.running = true) ∧ (s.fld BSQ_STAT_STATE = 3) ∧ (s.bsq.regsWait = true) ∧ (s.s4 = false))
    (witBoot [(BSQ_STAT_STATE, 3)] { running := true, regsWait := true })) ∧
  ((fun (s : State) => (s.releaseDue = true) ∧ (s.s4 = false)) (witBoot [(BSQ_STAT_STATE, 3)]
    { running := true, built := true })) ∧
  ((fun (s : State) => (s.bsq.running = true) ∧ (s.bsq.waitRetry = true) ∧ (s.s4 = false)) (witBoot [(BSQ_STAT_STATE,
    1)] { running := true, waitRetry := true })) ∧
  ((fun (s : State) => (s.bsq.running = true) ∧ (s.fld BSQ_STAT_STATE = 1) ∧ (s.bsq.place = 0) ∧ (s.bsq.waitRetry =
    false) ∧ (s.bsq.nvWait = false) ∧ (s.nvReady = true) ∧ (s.s4 = true)) (witBoot [(BSQ_STAT_STATE, 1), (FCU_STAT_S4,
    1), (PMU_DOMSTAT_READY, 0xFF)] { running := true })) ∧
  ((fun (s : State) (u : BitVec 32) (e : List (Nat × Byte)) (g : List (List (Nat × Byte))) => (s.bsq.running = true) ∧
    (s.fld BSQ_STAT_STATE = 2) ∧ (s.fld BSQ_STAT_KIND = 3) ∧ (s.bsq.waitRetry = false) ∧ (s.s4 = true)) (witBoot
    [(BSQ_STAT_STATE, 2), (BSQ_STAT_KIND, 3), (FCU_STAT_S4, 1)] { running := true }) 0 [] []) ∧
  ((fun (s : State) => (s.zsLate = true) ∧ (s.s4 = true)) (witBoot [(BSQ_STAT_STATE, 1), (FCU_STAT_S4, 1)]
    { running := true })) ∧
  ((fun (s : State) => (s.bsq.running = true) ∧ (s.fld BSQ_STAT_STATE = 3) ∧ (s.bsq.regsWait = false) ∧ (s.bsq.built =
    false) ∧ (s.bsqAwaits 4 = false) ∧ (s.s4 = true)) (witBoot [(BSQ_STAT_STATE, 3), (FCU_STAT_S4, 1)]
    { running := true })) ∧
  ((fun (s : State) => (s.bsq.running = true) ∧ (s.fld BSQ_STAT_STATE = 3) ∧ (s.bsq.regsWait = true) ∧ (s.s4 = true))
    (witBoot [(BSQ_STAT_STATE, 3), (FCU_STAT_S4, 1)] { running := true, regsWait := true })) ∧
  ((fun (s : State) => (s.releaseDue = true) ∧ (s.s4 = true)) (witBoot [(BSQ_STAT_STATE, 3), (FCU_STAT_S4, 1)]
    { running := true, built := true })) ∧
  ((fun (s : State) => (s.bsq.running = true) ∧ (s.bsq.waitRetry = true) ∧ (s.s4 = true)) (witBoot [(BSQ_STAT_STATE, 1),
    (FCU_STAT_S4, 1)] { running := true, waitRetry := true })) := by
  refine ⟨?_, ?_, ?_, ?_, ?_, ?_, ?_, ?_, ?_, ?_, ?_, ?_, ?_, ?_, ?_, ?_, ?_, ?_, ?_, ?_, ?_⟩ <;> decide +kernel

theorem test_witness_PowerCommandsComplete :
  ((fun (s : State) (m : Master) (t : Fin 4) => (s.opens m PMU_REQ = true)) awake .zc0 3) ∧
  ((fun (s : State) => (s.pmuPhase = 1) ∧ (s.prepareReady = true)) (wit [(PMU_STAT_PHASE, 1)])) ∧
  ((fun (s : State) => (s.pmuPhase = 1) ∧ (s.prepareReady = false)) ((wit [(PMU_STAT_PHASE, 1), (TXN_STAT_STATE 31,
    txArmed)]))) ∧
  ((fun (s : State) => (s.pmuPhase = 2)) (wit [(PMU_STAT_PHASE, 2)])) ∧
  ((fun (s : State) (w : Fin 7) (d : BitVec 9) => (¬ (w = 6 ∧ d = 264))) awake 6 263) ∧
  ((fun (s : State) => (s.pmuPhase = 3) ∧ (s.pmu.supplies = true)) ((wit [(PMU_STAT_PHASE, 3)]) |> fun s =>
    { s with pmu := { s.pmu with supplies := true } })) ∧
  ((fun (s : State) => (s.pmuPhase = 3) ∧ (s.pmu.wakeFrom = psPark)) ((wit [(PMU_STAT_PHASE, 3)]) |> fun s =>
    { s with pmu := { s.pmu with wakeFrom := 3 } })) ∧
  ((fun (s : State) => (s.pmuPhase = 3) ∧ (s.pmu.supplies = true) ∧ (s.fld PMU_STAT_ATTEMPTS < 4)) ((wit
    [(PMU_STAT_PHASE, 3), (PMU_STAT_ATTEMPTS, 3)]) |> fun s => { s with pmu := { s.pmu with supplies := true } })) ∧
  ((fun (s : State) => (s.pmuPhase = 3) ∧ (s.pmu.supplies = true) ∧ (4 ≤ s.fld PMU_STAT_ATTEMPTS)) ((wit
    [(PMU_STAT_PHASE, 3), (PMU_STAT_ATTEMPTS, 4)]) |> fun s => { s with pmu := { s.pmu with supplies := true } })) ∧
  ((fun (s : State) => (s.pmuPhase = 3) ∧ (s.pmu.supplies = false)) (wit [(PMU_STAT_PHASE, 3)])) ∧
  ((fun (s : State) => (s.pstate = psPark)) (wit [(PMU_STAT_STATE, 3)])) ∧
  ((fun (s : State) => (s.flag PMU_DOMCTL_NVAUTO = true) ∧ ((s.fld PMU_DOMSTAT_READY).testBit 5 = true) ∧ ((∀ e < 8,
    s.nvBusy e = none))) (wit [(PMU_DOMCTL_NVAUTO, 1), (PMU_DOMSTAT_READY, 0xFF)])) ∧
  ((fun (s : State) (m : Master) => (s.opens m PMU_DOMCTL = true) ∧ ((ownerOk (s.fld PMU_CFG_OWNER) m || m == .zk) =
    true) ∧ (s.netUnused = true)) (wit [(PMU_CFG_OWNER, 1)]) .zk) ∧
  ((fun (s : State) (m : Master) (v : BitVec 64) => (s.opens m PMU_WTMR = true) ∧ ((ownerOk (s.fld PMU_CFG_OWNER) m || m
    == .zk) = true)) (wit [(PMU_CFG_OWNER, 1)]) .zk 5) ∧
  ((fun (s : State) => (s.flag PMU_WTMR_EN = true) ∧ (s.fld PMU_WTMR_ALARM ≤ s.slowCount)) (wit [(PMU_WTMR_EN, 1)])) := by
  refine ⟨?_, ?_, ?_, ?_, ?_, ?_, ?_, ?_, ?_, ?_, ?_, ?_, ?_, ?_, ?_⟩ <;> decide +kernel

theorem test_witness_SupplyClockResetCommandsComplete :
  ((fun (s : State) => (s.sys.por = true)) State.reset) ∧
  ((fun (s : State) => (s.sys.por = false)) awake) ∧
  ((fun (s : State) => (s.sys.por = false)) awake) ∧
  ((fun (s : State) => (s.pstate < 3) ∧ (s.flag SYS_CLKSTAT_XTAL_OK = true) ∧ ((s.putB SYS_CLKSTAT_XTAL_OK false).flag
    PMU_STAT_CLK_DEGRADED = false)) (wit [(SYS_CLKSTAT_XTAL_OK, 1)])) ∧
  ((fun (s : State) => (s.flag SYS_CLKSTAT_PLL_LOCK = true)) (wit [(SYS_CLKSTAT_PLL_LOCK, 1)])) ∧
  ((fun (s : State) => (s.sys.pllWait = true)) (awake |> fun s =>
    { s with sys := { s.sys with pllWait := true } })) ∧
  ((fun (s : State) => (s.flag SYS_CLKSTAT_PLOC = false)) awake) ∧
  ((fun (s : State) => (s.flag SYS_CLKCFG_SLOWSEL = false) ∧ (s.sys.slowFailed = false)) awake) ∧
  ((fun (s : State) => (s.ldieDown = false) ∧ (s.sys.por = false)) awake) ∧
  ((fun (s : State) (m : Master) (e : Fin 7) => (s.opens m SYS_RSTCMD = true) ∧ ((m == .zs || (s.fld SYS_CLKCFG_OWNER !=
    0 && s.fld SYS_CLKCFG_OWNER == s.epOf m)) = true)) awake .zs 6) ∧
  ((fun (s : State) (m : Master) (k : Fin 4) (v : BitVec 8) => (s.opens m (SYS_WD_KICK k) = true) ∧ (s.wdRuns k = true)
    ∧ (s.epOf m = s.fld (SYS_WD_CFG_OWNER k)) ∧ (s.fld (SYS_WD_CFG_WIN k) ≤ s.wdAge k) ∧ (v.toNat = (if (s.wdog
    k).nextA5 then 0xA5 else 0x5A))) ((awake.put (SYS_WD_CFG_OWNER 3) 1).setWdog 3 { running := true }) .zc0 3
    0x5A) ∧
  ((fun (s : State) (m : Master) (k : Fin 4) (v : BitVec 8) => (s.opens m (SYS_WD_KICK k) = true) ∧ (s.wdRuns k = true)
    ∧ (s.epOf m ≠ s.fld (SYS_WD_CFG_OWNER k) ∨ s.wdAge k < s.fld (SYS_WD_CFG_WIN k) ∨ v.toNat ≠ (if (s.wdog k).nextA5
    then 0xA5 else 0x5A))) ((awake.put (SYS_WD_CFG_OWNER 3) 1).setWdog 3 { running := true }) .zc0 3 0xA5) ∧
  ((fun (s : State) (m : Master) (k : Fin 4) (v : BitVec 8) => (s.opens m (SYS_WD_KICK k) = true) ∧ (s.wdRuns k =
    false)) awake .zc0 3 0xA5) ∧
  ((fun (s : State) (k : Fin 4) => (s.wdRuns k = true)) (awake.setWdog 3 { running := true }) 3) := by
  refine ⟨?_, ?_, ?_, ?_, ?_, ?_, ?_, ?_, ?_, ?_, ?_, ?_, ?_, ?_⟩ <;> decide +kernel

theorem test_witness_MonitorCommandsComplete :
  ((fun (s : State) (p : Fin 32) (f : Carrier) (v : BitVec 16) => (s.carries p f = true)) (wit [(PMU_DOMSTAT_READY, 31),
    (ESW_CTL_EN, 1), (ESW_PORT_CFG_PEN 3, 1), (SEC_CARRIER_ETHEN, 1)]) 19 netVia 0) ∧
  ((fun (s : State) (p : Fin 32) (f : Carrier) (v : BitVec 16) => (s.carries p f = false)) awake 19 netVia 0) ∧
  ((fun (s : State) (p : Fin 32) => ((s.part p).isSome = true))
    ({ awake with sec := { awake.sec with parts := [⟨31, 7, 0, [], .net 31 7 netVia, none⟩] } }) 31) ∧
  ((fun (s : State) (src : CmdSrc) (t : State) (f : CmdFrom) (p : Nat) (l : List Byte) => (s.taken src 0 1 = some (t, f,
    p, l)) ∧ (t.familyBar 0 1 = false)) (witMsg gone (msgOf 0 1 [])) .net gone (.net 31 7 netVia) 31 (msgOf 0 1 []) ) ∧
  ((fun (s : State) (src : CmdSrc) (t : State) (f : CmdFrom) (p : Nat) (l : List Byte) => (s.taken src 0 2 = some (t, f,
    p, l)) ∧ (t.familyBar 0 2 = false)) (witMsg gone (msgOf 0 2 [])) .net gone (.net 31 7 netVia) 31 (msgOf 0 2 []) ) ∧
  ((fun (s : State) (src : CmdSrc) (t : State) (f : CmdFrom) (p : Nat) (l : List Byte) => (s.taken src 1 1 = some (t, f,
    p, l)) ∧ (t.familyBar 1 1 = false)) (witMsg gone (msgOf 1 1 (List.replicate 16 0))) .net gone (.net 31 7 netVia) 31
    (msgOf 1 1 (List.replicate 16 0)) ) ∧
  ((fun (s : State) (src : CmdSrc) (t : State) (f : CmdFrom) (p : Nat) (l : List Byte) (j : Byte) (i : BitVec 32) (k :
    BitVec 128) => (s.taken src 5 1 = some (t, f, p, l)) ∧ (bodyByte (msgBody l) 0 = j.toNat) ∧ (bodyLe (msgBody l) 4 4
    = i.toNat) ∧ (j.toNat ≤ 7) ∧ ((t.sec.keys.slot j.toNat).1 = 0) ∧ ((enrollPoint (msgBody l)).isSome = true) ∧
    (t.enrollKey (msgBody l) = some k) ∧ (i.toNat ≠ 0) ∧ ((∀ x < 8, (t.sec.keys.slot x).1 ≠ 0 → (t.sec.keys.slot x).2.1
    ≠ i.toNat)) ∧ (t.familyBar 5 1 = false)) (witMsg (goneK { device := some 1 }) (msgOf 5 1 ([0, 0, 0, 0, 1, 0, 0, 0,
    4] ++ natBe 64
    0x6B17D1F2E12C4247F8BCE6E563A440F277037D812DEB33A0F4A13945D898C2964FE342E2FE1A7F9B8EE7EB4A7C0F9E162BCE33576B315ECECBB6406837BF51F5
    ++ natBe 24 0x37ab973ded839dd36baf6f050691a1438105fc50b182c1c4))) .net (goneK { device := some 1 }) (.net 31 7
    netVia) 31 (msgOf 5 1 ([0, 0, 0, 0, 1, 0, 0, 0, 4] ++ natBe 64
    0x6B17D1F2E12C4247F8BCE6E563A440F277037D812DEB33A0F4A13945D898C2964FE342E2FE1A7F9B8EE7EB4A7C0F9E162BCE33576B315ECECBB6406837BF51F5
    ++ natBe 24 0x37ab973ded839dd36baf6f050691a1438105fc50b182c1c4)) 0 1 0x000102030405060708090A0B0C0D0E0F) ∧
  ((fun (s : State) (src : CmdSrc) (t : State) (f : CmdFrom) (p : Nat) (l : List Byte) (j : Fin 8) => (s.taken src 5 2 =
    some (t, f, p, l)) ∧ ((t.sec.keys.slot j).1 = 1) ∧ (t.familyBar 5 2 = false)) (witMsg (goneK
    { access := [(7, 1, 5, 9)] }) (msgOf 5 2 [])) .net (goneK { access := [(7, 1, 5, 9)] }) (.net 31 7 netVia) 31 (msgOf
    5 2 []) 7) ∧
  ((fun (s : State) (src : CmdSrc) (t : State) (f : CmdFrom) (p : Nat) (l : List Byte) (j : Fin 8) => (s.taken src 5 3 =
    some (t, f, p, l)) ∧ (t.familyBar 5 3 = false)) (witMsg gone (msgOf 5 3 [])) .net gone (.net 31 7 netVia) 31 (msgOf
    5 3 []) 7) ∧
  ((fun (s : State) (src : CmdSrc) (t : State) (f : CmdFrom) (p : Nat) (l : List Byte) => (s.taken src 5 4 = some (t, f,
    p, l)) ∧ (t.familyBar 5 4 = false)) (witMsg gone (msgOf 5 4 [])) .net gone (.net 31 7 netVia) 31 (msgOf 5 4 []) ) ∧
  ((fun (s : State) (src : CmdSrc) (t : State) (f : CmdFrom) (p : Nat) (l : List Byte) => (s.taken src 6 1 = some (t, f,
    p, l)) ∧ (t.familyBar 6 1 = false)) (witMsg gone (msgOf 6 1 [])) .net gone (.net 31 7 netVia) 31 (msgOf 6 1 []) ) ∧
  ((fun (s : State) (src : CmdSrc) (t : State) (f : CmdFrom) (p : Nat) (l : List Byte) => (s.taken src 6 2 = some (t, f,
    p, l)) ∧ (t.familyBar 6 2 = false)) (witMsg gone (msgOf 6 2 [])) .net gone (.net 31 7 netVia) 31 (msgOf 6 2 []) ) ∧
  ((fun (s : State) (src : CmdSrc) (t : State) (f : CmdFrom) (p : Nat) (l : List Byte) (j : Fin 4) (b : List Byte) =>
    (s.taken src 7 1 = some (t, f, p, l)) ∧ (t.sec.keys.imageState j = 0) ∧ (t.familyBar 7 1 = false)) (witMsg gone
    (msgOf 7 1 [])) .net gone (.net 31 7 netVia) 31 (msgOf 7 1 []) 3 []) ∧
  ((fun (s : State) (src : CmdSrc) (t : State) (f : CmdFrom) (p : Nat) (l : List Byte) (j : Fin 4) => (s.taken src 7 2 =
    some (t, f, p, l)) ∧ (imgKeyIdx (t.halfImg (t.fld BSQ_STAT_IHALF)) ≠ j.val) ∧ (t.familyBar 7 2 = false)) (witMsg
    gone (msgOf 7 2 [])) .net gone (.net 31 7 netVia) 31 (msgOf 7 2 []) 3) ∧
  ((fun (s : State) (src : CmdSrc) (t : State) (f : CmdFrom) (p : Nat) (l : List Byte) (v : BitVec 32) => (s.taken src 7
    3 = some (t, f, p, l)) ∧ (t.sec.keys.rollback ≤ v.toNat) ∧ (v.toNat ≤ t.fld BSQ_IMG_ROLLBACK) ∧ (t.familyBar 7 3 =
    false)) (witMsg gone (msgOf 7 3 [])) .net gone (.net 31 7 netVia) 31 (msgOf 7 3 []) 0) ∧
  ((fun (s : State) (src : CmdSrc) (t : State) (f : CmdFrom) (p : Nat) (l : List Byte) => (s.taken src 8 1 = some (t, f,
    p, l)) ∧ (t.familyBar 8 1 = false)) (witMsg gone (msgOf 8 1 [0, 0, 1])) .net gone (.net 31 7 netVia) 31 (msgOf 8 1
    [0, 0, 1]) ) ∧
  ((fun (s : State) (src : CmdSrc) (t : State) (f : CmdFrom) (p : Nat) (l : List Byte) => (s.taken src 8 2 = some (t, f,
    p, l)) ∧ (t.familyBar 8 2 = false)) (witMsg gone (msgOf 8 2 [])) .net gone (.net 31 7 netVia) 31 (msgOf 8 2 []) ) ∧
  ((fun (s : State) (src : CmdSrc) (t : State) (f : CmdFrom) (p : Nat) (l : List Byte) => (s.taken src 8 2 = some (t, f,
    p, l)) ∧ (t.familyBar 8 2 = true)) (witMsg (gone.put FCU_STAT_S3 1) (msgOf 8 2 [])) .net (gone.put FCU_STAT_S3 1)
    (.net 31 7 netVia) 31 (msgOf 8 2 []) ) ∧
  ((fun (s : State) (src : CmdSrc) (t : State) (f : CmdFrom) (p : Nat) (l : List Byte) => (s.taken src 8 3 = some (t, f,
    p, l)) ∧ (t.familyBar 8 3 = false)) (witMsg gone (msgOf 8 3 [0, 1, 1])) .net gone (.net 31 7 netVia) 31 (msgOf 8 3
    [0, 1, 1]) ) ∧
  ((fun (s : State) (src : CmdSrc) (t : State) (f : CmdFrom) (p : Nat) (l : List Byte) => (s.taken src 8 4 = some (t, f,
    p, l)) ∧ (t.familyBar 8 4 = false)) (witMsg gone (msgOf 8 4 [0, 1, 1])) .net gone (.net 31 7 netVia) 31 (msgOf 8 4
    [0, 1, 1]) ) ∧
  ((fun (s : State) (src : CmdSrc) (t : State) (f : CmdFrom) (p : Nat) (l : List Byte) => (s.taken src 9 1 = some (t, f,
    p, l)) ∧ (t.sec.keys.device = none) ∧ (t.familyBar 9 1 = false)) (witMsg gone (msgOf 9 1 [])) .net gone (.net 31 7
    netVia) 31 (msgOf 9 1 []) ) ∧
  ((fun (s : State) (src : CmdSrc) (t : State) (f : CmdFrom) (p : Nat) (l : List Byte) (c : List Byte) => (s.taken src 9
    2 = some (t, f, p, l)) ∧ (t.familyBar 9 2 = false)) (witMsg gone (msgOf 9 2 [])) .net gone (.net 31 7 netVia) 31
    (msgOf 9 2 []) []) ∧
  ((fun (s : State) (src : CmdSrc) (t : State) (f : CmdFrom) (p : Nat) (l : List Byte) => (s.taken src 9 3 = some (t, f,
    p, l)) ∧ (t.familyBar 9 3 = false)) (witMsg gone (msgOf 9 3 [])) .net gone (.net 31 7 netVia) 31 (msgOf 9 3 []) ) := by
  refine ⟨?_, ?_, ?_, ?_, ?_, ?_, ?_, ?_, ?_, ?_, ?_, ?_, ?_, ?_, ?_, ?_, ?_, ?_, ?_, ?_, ?_, ?_, ?_⟩ <;> decide +kernel

theorem test_witness_UpdateAndHandoverCommandsComplete :
  ((fun (s : State) (src : CmdSrc) (t : State) (f : CmdFrom) (p : Nat) (l : List Byte) => (s.taken src 4 1 = some (t, f,
    p, l)) ∧ (t.sessionBusy p = false) ∧ (bodyLe (msgBody l) 0 4 % 8 = 0) ∧ (336 ≤ bodyLe (msgBody l) 0 4) ∧ (bodyLe
    (msgBody l) 0 4 ≤ 0x1000000) ∧ (t.fld BSQ_IMG_SEQ < bodyLe (msgBody l) 4 4) ∧ (t.familyBar 4 1 = false)) (witMsg
    gone (msgOf 4 1 [0, 2, 0, 0, 5, 0, 0, 0])) .net gone (.net 31 7 netVia) 31 (msgOf 4 1 [0, 2, 0, 0, 5, 0, 0, 0]) ) ∧
  ((fun (s : State) (src : CmdSrc) (t : State) (f : CmdFrom) (p : Nat) (l : List Byte) (x : Session) => (s.taken src 4 2
    = some (t, f, p, l)) ∧ (t.sessionBusy p = false) ∧ (t.sec.session = some x) ∧ (bodyLe (msgBody l) 0 4 % 4096 = 0) ∧
    (bodyLe (msgBody l) 0 4 < x.length) ∧ ((msgBody l).length - 4 = min 4096 (x.length - bodyLe (msgBody l) 0 4)) ∧
    (x.have_.contains (bodyLe (msgBody l) 0 4) = false) ∧ (t.familyBar 4 2 = false)) (witMsg (goneS (sess 400)) (msgOf 4
    2 ([0, 0, 0, 0] ++ List.replicate 400 5))) .net (goneS (sess 400)) (.net 31 7 netVia) 31 (msgOf 4 2 ([0, 0, 0, 0] ++
    List.replicate 400 5)) (sess 400)) ∧
  ((fun (s : State) (src : CmdSrc) (t : State) (f : CmdFrom) (p : Nat) (l : List Byte) (x : Session) (e : List (Nat ×
    Byte)) => (s.taken src 4 3 = some (t, f, p, l)) ∧ (t.sessionBusy p = false) ∧ (t.sec.session = some x) ∧ (x.missing
    = none) ∧ (t.familyBar 4 3 = false)) (witMsg (goneS (sess 0)) (msgOf 4 3 [])) .net (goneS (sess 0)) (.net 31 7
    netVia) 31 (msgOf 4 3 []) (sess 0) []) ∧
  ((fun (s : State) (src : CmdSrc) (t : State) (f : CmdFrom) (p : Nat) (l : List Byte) (x : Session) => (s.taken src 4 4
    = some (t, f, p, l)) ∧ (modeOf l = 1) ∧ (t.bootFailed = false) ∧ (t.sessionBusy p = false) ∧ (t.sec.session = some
    x) ∧ (x.verified = true) ∧ (t.familyBar 4 4 = false)) (witMsg (goneI (sess 0)) (msgOf 4 4 [1, 0, 0])) .net (goneI
    (sess 0)) (.net 31 7 netVia) 31 (msgOf 4 4 [1, 0, 0]) (sess 0)) ∧
  ((fun (s : State) (src : CmdSrc) (t : State) (f : CmdFrom) (p : Nat) (l : List Byte) (x : Session) => (s.taken src 4 4
    = some (t, f, p, l)) ∧ (modeOf l = 2) ∧ (t.sessionBusy p = false) ∧ (t.sec.session = some x) ∧ (x.verified = true) ∧
    (t.familyBar 4 4 = false)) (witMsg (goneS (sess 0)) (msgOf 4 4 [2, 0, 0])) .net (goneS (sess 0)) (.net 31 7 netVia)
    31 (msgOf 4 4 [2, 0, 0]) (sess 0)) ∧
  ((fun (s : State) => (s.sec.restart = true)) ({ awake with sec := { awake.sec with restart := true } })) ∧
  ((fun (s : State) (src : CmdSrc) (t : State) (f : CmdFrom) (p : Nat) (l : List Byte) => (s.taken src 4 5 = some (t, f,
    p, l)) ∧ (t.sessionBusy p = false) ∧ (t.familyBar 4 5 = false)) (witMsg gone (msgOf 4 5 [])) .net gone (.net 31 7
    netVia) 31 (msgOf 4 5 []) ) ∧
  ((fun (s : State) => (s.hoRuns = false)) awake) ∧
  ((fun (s : State) (m : Master) => (s.opens m BSQ_HOCMD = true) ∧ ((s.fld BSQ_HOSTAT_PART).testBit (s.coreHome m.num) =
    true) ∧ (s.hand.restoring = false) ∧ (s.fld BSQ_HOSTAT_PHASE = 1)) (wit [(BSQ_HOSTAT_PART, 2), (BSQ_HOSTAT_PHASE,
    1)]) .zc0) ∧
  ((fun (s : State) (m : Master) => (s.opens m BSQ_HOCMD = true) ∧ ((s.fld BSQ_HOSTAT_PART).testBit (s.coreHome m.num) =
    true) ∧ (s.hand.restoring = false) ∧ (s.fld BSQ_HOSTAT_PHASE = 3)) (wit [(BSQ_HOSTAT_PART, 2), (BSQ_HOSTAT_PHASE,
    3)]) .zc0) ∧
  ((fun (s : State) (m : Master) => (s.opens m BSQ_HOCMD = true) ∧ ((s.fld BSQ_HOSTAT_PART).testBit (s.coreHome m.num) =
    true) ∧ (s.hand.restoring = false) ∧ (s.fld BSQ_HOSTAT_PHASE = 3)) (wit [(BSQ_HOSTAT_PART, 2), (BSQ_HOSTAT_PHASE,
    3)]) .zc0) ∧
  ((fun (s : State) => (s.hoBoundary = true)) (wit [(BSQ_HOSTAT_PART, 2), (BSQ_HOSTAT_READY, 2), (BSQ_HOSTAT_PHASE,
    1)])) ∧
  ((fun (s : State) => (s.fld BSQ_HOSTAT_PHASE = 2) ∧ (s.hand.restoring = false)) (wit [(BSQ_HOSTAT_PHASE, 2)])) ∧
  ((fun (s : State) => (s.fld BSQ_HOSTAT_PHASE = 1)) (wit [(BSQ_HOSTAT_PHASE, 1)])) ∧
  ((fun (s : State) => (s.fld BSQ_HOSTAT_PHASE = 3)) (wit [(BSQ_HOSTAT_PHASE, 3)])) ∧
  ((fun (s : State) => (s.hand.restoring = true))
    ({ awake with hand := { awake.hand with restoring := true } })) := by
  refine ⟨?_, ?_, ?_, ?_, ?_, ?_, ?_, ?_, ?_, ?_, ?_, ?_, ?_, ?_, ?_, ?_⟩ <;> decide +kernel

theorem test_witness_FaultCollectorCommandsComplete :
  ((fun (s : State) (c : Fin 384) => (s.fcuClamped c = false) ∧ (s.fcuCut c = false) ∧ (c.val < 352 ∨ s.pfrcSource =
    some c.val)) awake 351) ∧
  ((fun (s : State) (m : Master) (c : BitVec 9) => (s.opens m (FCU_ACK) = true) ∧ (s.fcuMay m = true)) (wit
    [(FCU_CFG_OWNER, 1)]) .zk 511) ∧
  ((fun (s : State) (c : Fin 384) => (s.timersRun = true) ∧ (s.pendClass c = 1) ∧ (s.fld FCU_TMR_T1 ≠ 0)) ((witPend 383
    1).put FCU_TMR_T1 5) 383) ∧
  ((fun (s : State) (c : Fin 384) => (s.timersRun = true) ∧ (s.pendClass c = 2)) (witPend 383 2) 383) ∧
  ((fun (s : State) (m : Master) (k : Fin 6) (a : Access) (v : BitVec 64) => (s.opens m (FCU_FRC k) = true) ∧ (s.fcuMay
    m = true)) (wit [(FCU_CFG_OWNER, 1)]) .zk 5 .w64 0) ∧
  ((fun (s : State) (m : Master) (a : Access) (v : BitVec 64) => (s.opens m (FCU_PFRC) = true) ∧ (s.fcuMay m = true) ∧
    (FCU_PFRC_EN.of (accMerge a (s.reg FCU_PFRC) v) ≠ 1 ∨ s.pfrcSource = some (FCU_PFRC_SRC.of (accMerge a (s.reg
    FCU_PFRC) v)) ∨ s.fcuClass (FCU_PFRC_SRC.of (accMerge a (s.reg FCU_PFRC) v)) ≠ 4 ∨ m = .zs)) (wit [(FCU_CFG_OWNER,
    1)]) .zk .w64 0) ∧
  ((fun (s : State) (m : Master) (a : Access) (v : BitVec 64) => (s.opens m (FCU_PFRC) = true) ∧ (s.fcuMay m = true) ∧
    (FCU_PFRC_EN.of (accMerge a (s.reg FCU_PFRC) v) = 1) ∧ (s.pfrcSource ≠ some (FCU_PFRC_SRC.of (accMerge a (s.reg
    FCU_PFRC) v))) ∧ (s.fcuClass (FCU_PFRC_SRC.of (accMerge a (s.reg FCU_PFRC) v)) = 4) ∧ (m ≠ .zs)) ((wit
    [(FCU_CFG_OWNER, 1)]).put (FCU_SEV_SEV 22 0) 4) .zk .w64 0x360) ∧
  ((fun (s : State) (m : Master) (k : Fin 24) (a : Access) (v : BitVec 64) => (s.opens m (FCU_SEV k) = true) ∧ (s.fcuMay
    m = true)) (wit [(FCU_CFG_OWNER, 1)]) .zk 23 .hi32 0) ∧
  ((fun (s : State) (m : Master) (a : Access) (v : BitVec 64) => (s.opens m (FCU_TMR) = true) ∧ (s.fcuMay m = true) ∧ (m
    = .bsq) ∧ (s.bsq.running = true)) (witBoot [] { running := true }) .bsq .w64 5) ∧
  ((fun (s : State) (m : Master) (a : Access) (v : BitVec 64) => (s.opens m (FCU_TMR) = true) ∧ (s.fcuMay m = true) ∧
    (s.fcuFree m = false)) (wit [(FCU_CFG_OWNER, 1)]) .zk .w64 0) := by
  refine ⟨?_, ?_, ?_, ?_, ?_, ?_, ?_, ?_, ?_, ?_⟩ <;> decide +kernel

theorem test_witness_IdleStepIsOneTick : State.reset.pending = [] := rfl

theorem test_witness_StepKeepsCanonicalForm : State.reset.Canon ∧ step State.reset = .next State.reset.tick ∧
    (wit [(PMU_STAT_STATE, 3)]).Canon ∧ ∀ a, (wit [(PMU_STAT_STATE, 3)]).reg a = (wit [(PMU_STAT_STATE, 3)]).reg a :=
  ⟨⟨rfl, rfl, rfl⟩, rfl, ⟨by decide +kernel, rfl, rfl⟩, fun _ => rfl⟩

theorem test_witness_StepKeepsLegalPsr : State.reset.Legal ∧ step State.reset = .next State.reset.tick ∧
    (witCore 1).Legal ∧ ∃ t, step { witCore 1 with pending := [.mtsr ⟨0, .good, .good, .good⟩ 0 0] } = .next t :=
  ⟨fun _ => show ({} : Core).Legal from ⟨by decide, by decide⟩, rfl, fun e => by
    by_cases h : e = 1
    · subst h; exact ⟨by decide, by decide⟩
    · simp only [witCore, State.core, State.setCore, tget_tset, if_neg h]
      exact (show ({} : Core).Legal from ⟨by decide, by decide⟩), _, rfl⟩

theorem test_witness_LoadDelaySlots : ({} : Core).old (.d 31) = none ∧ ({} : Core).old (.a 15) = none ∧
    ({} : Core).old (.ac 3) = none := by decide

theorem test_witness_DecimalAdjustCorrectsSum : digitsOk (0x999995 : BitVec 64).toNat 16 = true ∧
    digitsOk (7 : BitVec 64).toNat 16 = true := by decide

theorem test_witness_DecimalArithmeticByValue : digitsOk 0x99999999999999999999999999999999 32 = true ∧ digitsOk 1 16 = true := by
  decide

theorem test_witness_ExceptionEntryAndReturn : ({} : Core).level ≤ 2 ∧ ¬ (({} : Core).level = 2 ∧ ({} : Core).exl = true) ∧
    (({} : Core).enter 2 0 0 0).level = 2 ∧ (({} : Core).enter 2 0 0 0).exl = true ∧
    ((State.reset.setCore 6 { halted := true }).core 6).halted = true ∧ (witCore 1).fetches ⟨0, .good, .good, .good⟩ 4 (witCore 1) ∧
    ((witCore 1).ran ⟨0, .good, .good, .good⟩).level ≠ 0 ∧
    ∃ t, witUser.fetches ⟨0, .good, .good, .good⟩ 4 t ∧
      (t.ran ⟨0, .good, .good, .good⟩).level = 0 := by
  refine ⟨?_, ?_, ?_, ?_, ?_, ?_, ?_, (witUser.fetchAll 1 4 ⟨0, .good, .good, .good⟩).1, ?_, ?_⟩ <;> decide +kernel

theorem test_witness_OwnerOnlyFieldsIgnoreOthers :
    (∀ a ∈ [HSW_CFG 63, VLV_STAT 23, LED_STAT 47, DOUT_CFG 15, LED_MSTAT], awake.opens .zc0 a = true) ∧
    (∀ f ∈ [HSW_CFG_OWNER 63, VLV_CFG_OWNER 23, LED_CFG_OWNER 47, DOUT_CFG_OWNER 15, LED_MCFG_OWNER],
      State.reset.fld f = 0 ∧ (State.reset.put f 7).fld f ≠ 0 ∧ (State.reset.put f 7).fld f ≠ Master.zc0.num ∧
      (State.reset.put f 7).fld f = Master.host.num) ∧ Master.zc0 ≠ .bsq := by
  refine ⟨?_, ?_, ?_⟩ <;> decide +kernel

theorem test_witness_LockReleaseRule : (awake.setLk 31 { owner := 1 }).opens .zc0 (LK 31) = true ∧
    (awake.setLk 31 { owner := 1 }).masterOn .zc0 = true ∧
    ((awake.setLk 31 { owner := 1 }).lk 31).owner = (awake.setLk 31 { owner := 1 }).epOf .zc0 ∧
    (awake.setLk 31 { owner := 1 }).epOf .zc0 ≠ 0 ∧
    ((awake.setLk 31 { owner := 1 }).lk 31).owner ≠ (awake.setLk 31 { owner := 1 }).epOf .zk := by
  refine ⟨?_, ?_, ?_, ?_, ?_⟩ <;> decide +kernel

theorem test_witness_MailboxReadTakesOldestUnread :
    let q := [⟨5, 3, true⟩, ⟨6, 4, false⟩]
    let s := (witBox 1 5).setSide 15 1 { queue := q }
    s.opens .zc0 (MBX_RXQ 15) = true ∧ s.mbxSide? 15 (s.epOf .zc0) = some 0 ∧ (s.side 15 0).holdRx = none ∧
    (s.side 15 (1 - 0)).queue = [⟨5, 3, true⟩] ++ ⟨6, 4, false⟩ :: [] ∧ ((witBox 1 5).side 15 1).queue = [] := by
  refine ⟨?_, ?_, ?_, ?_, ?_⟩ <;> decide +kernel

theorem test_witness_SplitReadShadows : (State.reset.splitRead .zc0 NTU_EXT .lo32 5).readShadow =
    (State.reset.splitRead .zc0 NTU_EXT .lo32 5).readShadow ∧ Master.host ≠ Master.zc0 ∧
    tget none State.reset.readShadow (shadowKey .host NTU_EXT) = none := by
  refine ⟨rfl, ?_, ?_⟩ <;> decide

theorem test_witness_CoreInstructionFrame : (witCore 1).fetches ⟨0, .good, .good, .good⟩ 4 (witCore 1) ∧
    (⟨0, .good, .good, .good⟩ : CoreRun).core ≠ 5 ∧
    (∃ u, exec (.movi ⟨0, .good, .good, .good⟩ 31 5) (witCore 1) = .next u) ∧
    (∃ u, exec (.addi ⟨0, .good, .good, .good⟩ 31 31 5) (witCore 1) = .next u) ∧
    (∃ u, exec (.cmpi ⟨0, .good, .good, .good⟩ 31 0) (witCore 1) = .next u) ∧
    (∃ u, exec (.suba ⟨0, .good, .good, .good⟩ 15 1 (.imm 0)) (witCore 1) = .next u) ∧
    ∃ u, exec (.clrac ⟨0, .good, .good, .good⟩ 3) (witCore 1) = .next u :=
  ⟨by decide +kernel, by decide, ⟨_, rfl⟩, ⟨_, rfl⟩, ⟨_, rfl⟩, ⟨_, rfl⟩, ⟨_, rfl⟩⟩

theorem test_witness_StoreWritesItsBytesOnly : witMem.fetches ⟨0, .good, .good, .good⟩ 4 witMem ∧
    ((witMem.ran ⟨0, .good, .good, .good⟩).memAddr (.disp 1 0)) % widthBytes .b8 = 0 ∧
    witMem.translate 1 ((witMem.ran ⟨0, .good, .good, .good⟩).memAddr (.disp 1 0)) .write .good = (witMem, .phys 0) ∧ witMem.pstate ≤ 1 ∧
    region 0 = .sram ∧ witMem.memAllowed (epMaster 1) 0 .write = true ∧
    ∃ v, exec (.store ⟨0, .good, .good, .good⟩ (.a 0) .b8 (.disp 1 0) .good) witMem = .next v := by
  refine ⟨?_, ?_, ?_, ?_, ?_, ?_, _, rfl⟩ <;> decide +kernel

theorem test_witness_WritesFollowAccessCodes : ((regInfo? HSW_IRQ).any fun r => r.rw &&& r.w1c == 0) = true ∧
    (HSW_CFG_OWNER 0).addr ≠ HSW_IRQ := by
  refine ⟨?_, ?_⟩ <;> decide +kernel

theorem test_witness_SeverityNeverLowered : awake.fcuFree .zs = false ∧
    exec (.fcuSevWrite .zs 23 .w64 0) awake = .next (awake.sevWrite .zs 23 .w64 0) := by
  refine ⟨?_, rfl⟩; decide +kernel

theorem test_witness_InterruptSourceChosen : witIrq.icNext 1 = some 32 ∧ State.reset.icNext 1 = none ∧
    (witIrq.core 1).icStack.length < 15 := by
  refine ⟨?_, ?_, ?_⟩ <;> decide +kernel

theorem test_witness_TranslationGrantsOnlyPermitted :
    (witCore 1).translate 1 5 .read .good = (witCore 1, .phys 5) ∧ ((witCore 1).core 1).level = 2 ∧
    witUser.translate 1 0x20005 .fetch .good =
      (witUser.setCore 1 ((witUser.core 1).cache 2 (BitVec.ofNat 64 0x20000019)), .phys 0x20000005) ∧
    (witUser.core 1).level = 0 ∧ (witUser.core 1).cached 2 = none := by
  refine ⟨?_, ?_, ?_, ?_, ?_⟩ <;> decide +kernel

theorem test_witness_OutputEventFrame : exec .vledOvercurrent State.reset = .next (after (exec .vledOvercurrent State.reset) State.reset) :=
  rfl

end Sys2Proof.Tests
end

section
/-! SUPPORT. What a step keeps: every command by its own lemma, the idle tick, and the step itself. -/

namespace Sys2Proof.Machine

/-- Every command keeps what `State.Keeps` lists: its meaning does, in the order of the dispatch. -/
theorem exec_keeps (c : Instr) (s : State) : KeepsOut s (exec c s) :=
  match c with
  | .txnAllocRead .. => execTxnAllocRead_keeps (.refl s)
  | .txnFreeWrite .. => execTxnFreeWrite_keeps (.refl s)
  | .txnStagingWrite .. => execTxnStagingWrite_keeps (.refl s)
  | .commit .. => execCommit_keeps (.refl s)
  | .txnArmed .. => execTxnArmed_keeps (.refl s)
  | .shadowDiscard .. => execShadowDiscard_keeps (.refl s)
  | .stitchShiftEnd .. => execStitchShiftEnd_keeps (.refl s)
  | .pointOfNoReturn .. => execPointOfNoReturn_keeps (.refl s)
  | .commitEdge .. => execCommitEdge_keeps (.refl s)
  | .itemWindowEnd .. => execItemWindowEnd_keeps (.refl s)
  | .txnCancel .. => execTxnCancel_keeps (.refl s)
  | .txnNtxSend .. => execTxnNtxSend_keeps (.refl s)
  | .commitNoticeRx .. => execCommitNoticeRx_keeps (.refl s)
  | .feedUndervoltage .. => execFeedUndervoltage_keeps (.refl s)
  | .feedRestore .. => execFeedRestore_keeps (.refl s)
  | .wireModelStep .. => execWireModelStep_keeps (.refl s)
  | .scTrip .. => execScTrip_keeps (.refl s)
  | .ocTrip .. => execOcTrip_keeps (.refl s)
  | .ocBlankEnd .. => execOcBlankEnd_keeps (.refl s)
  | .otTrip .. => execOtTrip_keeps (.refl s)
  | .retryAttempt .. => execRetryAttempt_keeps (.refl s)
  | .retryCountClear .. => execRetryCountClear_keeps (.refl s)
  | .rclr .. => execRclr_keeps (.refl s)
  | .tclr .. => execTclr_keeps (.refl s)
  | .ambStale .. => execAmbStale_keeps (.refl s)
  | .governorMeasure .. => execGovernorMeasure_keeps (.refl s)
  | .inrushStep => execInrushStep_keeps (.refl s)
  | .reverseCurrentOff .. => execReverseCurrentOff_keeps (.refl s)
  | .reverseCurrentRecover .. => execReverseCurrentRecover_keeps (.refl s)
  | .overvoltageStart => execOvervoltageStart_keeps (.refl s)
  | .overvoltageEnd => execOvervoltageEnd_keeps (.refl s)
  | .saGo .. => execSaGo_keeps (.refl s)
  | .saCounterTrigger .. => execSaCounterTrigger_keeps (.refl s)
  | .saTimeTrigger .. => execSaTimeTrigger_keeps (.refl s)
  | .saTimeWrite .. => execSaTimeWrite_keeps (.refl s)
  | .saConversionDone .. => execSaConversionDone_keeps (.refl s)
  | .saCalFail .. => execSaCalFail_keeps (.refl s)
  | .ondiagWindowEnd .. => execOndiagWindowEnd_keeps (.refl s)
  | .offdiagStart .. => execOffdiagStart_keeps (.refl s)
  | .offdiagResult .. => execOffdiagResult_keeps (.refl s)
  | .diagStretch .. => execDiagStretch_keeps (.refl s)
  | .hswDclr .. => execHswDclr_keeps (.refl s)
  | .hswTestGo .. => execHswTestGo_keeps (.refl s)
  | .vlvTestGo .. => execVlvTestGo_keeps (.refl s)
  | .ledTestGo .. => execLedTestGo_keeps (.refl s)
  | .doutTestGo .. => execDoutTestGo_keeps (.refl s)
  | .testGapStart .. => execTestGapStart_keeps (.refl s)
  | .testDone .. => execTestDone_keeps (.refl s)
  | .testDeadlineExpire .. => execTestDeadlineExpire_keeps (.refl s)
  | .linkCrcError => execLinkCrcError_keeps (.refl s)
  | .ldieLost => execLdieLost_keeps (.refl s)
  | .linkRestore => execLinkRestore_keeps (.refl s)
  | .linkDownSeen => execLinkDownSeen_keeps (.refl s)
  | .bastingHoldExpire => execBastingHoldExpire_keeps (.refl s)
  | .limpNAssert => execLimpNAssert_keeps (.refl s)
  | .limpRelease => execLimpRelease_keeps (.refl s)
  | .boostStart .. => execBoostStart_keeps (.refl s)
  | .boostEnd .. => execBoostEnd_keeps (.refl s)
  | .peakEnd .. => execPeakEnd_keeps (.refl s)
  | .holdTimeEnd .. => execHoldTimeEnd_keeps (.refl s)
  | .valveReleaseDone .. => execValveReleaseDone_keeps (.refl s)
  | .deferExpire .. => execDeferExpire_keeps (.refl s)
  | .clampEnergyLimit .. => execClampEnergyLimit_keeps (.refl s)
  | .vbstOvervoltage .. => execVbstOvervoltage_keeps (.refl s)
  | .vbstUndervoltage .. => execVbstUndervoltage_keeps (.refl s)
  | .coilModelStep .. => execCoilModelStep_keeps (.refl s)
  | .coilRmeas .. => execCoilRmeas_keeps (.refl s)
  | .vlvOcTrip .. => execVlvOcTrip_keeps (.refl s)
  | .vlvFeedTrip .. => execVlvFeedTrip_keeps (.refl s)
  | .feedTripWaitEnd .. => execFeedTripWaitEnd_keeps (.refl s)
  | .clampOtTrip .. => execClampOtTrip_keeps (.refl s)
  | .vlvOtTrip .. => execVlvOtTrip_keeps (.refl s)
  | .vlvOffdiag .. => execVlvOffdiag_keeps (.refl s)
  | .holdLowDetect .. => execHoldLowDetect_keeps (.refl s)
  | .vlvDclr .. => execVlvDclr_keeps (.refl s)
  | .fadeStep .. => execFadeStep_keeps (.refl s)
  | .vledTrackStep .. => execVledTrackStep_keeps (.refl s)
  | .vledOvervoltage .. => execVledOvervoltage_keeps (.refl s)
  | .vledOvRecover .. => execVledOvRecover_keeps (.refl s)
  | .vledUndervoltage .. => execVledUndervoltage_keeps (.refl s)
  | .vledOvercurrent => execVledOvercurrent_keeps (.refl s)
  | .sinkFoldback .. => execSinkFoldback_keeps (.refl s)
  | .sinkEvidence .. => execSinkEvidence_keeps (.refl s)
  | .ledDclr .. => execLedDclr_keeps (.refl s)
  | .matrixSlot .. => execMatrixSlot_keeps (.refl s)
  | .matrixLineOc => execMatrixLineOc_keeps (.refl s)
  | .mrst .. => execMrst_keeps (.refl s)
  | .frameWrite .. => execFrameWrite_keeps (.refl s)
  | .dinSample .. => execDinSample_keeps (.refl s)
  | .dinConfigWrite .. => execDinConfigWrite_keeps (.refl s)
  | .doutRefresh .. => execDoutRefresh_keeps (.refl s)
  | .refreshWindowExpire .. => execRefreshWindowExpire_keeps (.refl s)
  | .doutOcTrip .. => execDoutOcTrip_keeps (.refl s)
  | .doutOtTrip .. => execDoutOtTrip_keeps (.refl s)
  | .doutOffdiagStart .. => execDoutOffdiagStart_keeps (.refl s)
  | .doutOffdiagResult .. => execDoutOffdiagResult_keeps (.refl s)
  | .doutDclr .. => execDoutDclr_keeps (.refl s)
  | .gtStart .. => execGtStart_keeps (.refl s)
  | .gtStop .. => execGtStop_keeps (.refl s)
  | .gtReset .. => execGtReset_keeps (.refl s)
  | .capnow .. => execCapnow_keeps (.refl s)
  | .gtGstart .. => execGtGstart_keeps (.refl s)
  | .gtGstop .. => execGtGstop_keeps (.refl s)
  | .gtPeriodEvent .. => execGtPeriodEvent_keeps (.refl s)
  | .gtCompareEvent .. => execGtCompareEvent_keeps (.refl s)
  | .gtLinkAction .. => execGtLinkAction_keeps (.refl s)
  | .gtTriggerAction .. => execGtTriggerAction_keeps (.refl s)
  | .gtCapture .. => execGtCapture_keeps (.refl s)
  | .gtCapRead .. => execGtCapRead_keeps (.refl s)
  | .gtPerCmpWrite .. => execGtPerCmpWrite_keeps (.refl s)
  | .splitReadLow .. => execSplitReadLow_keeps (.refl s)
  | .splitReadHigh .. => execSplitReadHigh_keeps (.refl s)
  | .splitWriteLow .. => execSplitWriteLow_keeps (.refl s)
  | .splitWriteHigh .. => execSplitWriteHigh_keeps (.refl s)
  | .ntuWrap => execNtuWrap_keeps (.refl s)
  | .ntuIncWrite .. => execNtuIncWrite_keeps (.refl s)
  | .ntuSlew .. => execNtuSlew_keeps (.refl s)
  | .ntuSlewDone => execNtuSlewDone_keeps (.refl s)
  | .ntuStep .. => execNtuStep_keeps (.refl s)
  | .ntuSyncWrite .. => execNtuSyncWrite_keeps (.refl s)
  | .ntuHoldoverExpire => execNtuHoldoverExpire_keeps (.refl s)
  | .ntuCapture .. => execNtuCapture_keeps (.refl s)
  | .ntuSwcap .. => execNtuSwcap_keeps (.refl s)
  | .ntuCapRead .. => execNtuCapRead_keeps (.refl s)
  | .ntuTriggerArm .. => execNtuTriggerArm_keeps (.refl s)
  | .ntuTriggerDisarm .. => execNtuTriggerDisarm_keeps (.refl s)
  | .ntuTriggerLead .. => execNtuTriggerLead_keeps (.refl s)
  | .ntuTriggerTrail .. => execNtuTriggerTrail_keeps (.refl s)
  | .canModeWrite .. => execCanModeWrite_keeps (.refl s)
  | .canModeChange .. => execCanModeChange_keeps (.refl s)
  | .abdCandidateTimeout .. => execAbdCandidateTimeout_keeps (.refl s)
  | .canFrameRx .. => execCanFrameRx_keeps (.refl s)
  | .canRelease .. => execCanRelease_keeps (.refl s)
  | .canTxreq .. => execCanTxreq_keeps (.refl s)
  | .canTxStart .. => execCanTxStart_keeps (.refl s)
  | .canTxEnd .. => execCanTxEnd_keeps (.refl s)
  | .canArbLost .. => execCanArbLost_keeps (.refl s)
  | .canBusError .. => execCanBusError_keeps (.refl s)
  | .canCancel .. => execCanCancel_keeps (.refl s)
  | .borec .. => execBorec_keeps (.refl s)
  | .busoffRecovered .. => execBusoffRecovered_keeps (.refl s)
  | .tackWindowClose .. => execTackWindowClose_keeps (.refl s)
  | .canBusFault .. => execCanBusFault_keeps (.refl s)
  | .canBusFaultClear .. => execCanBusFaultClear_keeps (.refl s)
  | .canSelectiveWake .. => execCanSelectiveWake_keeps (.refl s)
  | .linEnable .. => execLinEnable_keeps (.refl s)
  | .linTackClose .. => execLinTackClose_keeps (.refl s)
  | .linBusDominant .. => execLinBusDominant_keeps (.refl s)
  | .schgo .. => execSchgo_keeps (.refl s)
  | .schstop .. => execSchstop_keeps (.refl s)
  | .linSlotNext .. => execLinSlotNext_keeps (.refl s)
  | .linHeader .. => execLinHeader_keeps (.refl s)
  | .linResponseDone .. => execLinResponseDone_keeps (.refl s)
  | .linNoresp .. => execLinNoresp_keeps (.refl s)
  | .linTxreq .. => execLinTxreq_keeps (.refl s)
  | .linFdRead .. => execLinFdRead_keeps (.refl s)
  | .gosleep .. => execGosleep_keeps (.refl s)
  | .linWake .. => execLinWake_keeps (.refl s)
  | .linWakeRx .. => execLinWakeRx_keeps (.refl s)
  | .linWakeRetry .. => execLinWakeRetry_keeps (.refl s)
  | .linIdleSleep .. => execLinIdleSleep_keeps (.refl s)
  | .stayAwakeExpire .. => execStayAwakeExpire_keeps (.refl s)
  | .nslLocalWrite .. => execNslLocalWrite_keeps (.refl s)
  | .waybillWrite .. => execWaybillWrite_keeps (.refl s)
  | .ethFrameRx .. => execEthFrameRx_keeps (.refl s)
  | .macAgeExpire .. => execMacAgeExpire_keeps (.refl s)
  | .ethLinkChange .. => execEthLinkChange_keeps (.refl s)
  | .internalTx .. => execInternalTx_keeps (.refl s)
  | .gweLookup .. => execGweLookup_keeps (.refl s)
  | .gweTokenRefill .. => execGweTokenRefill_keeps (.refl s)
  | .gweReadEntry .. => execGweReadEntry_keeps (.refl s)
  | .gweWriteShadow .. => execGweWriteShadow_keeps (.refl s)
  | .gweCopy .. => execGweCopy_keeps (.refl s)
  | .gweCopyDone => execGweCopyDone_keeps (.refl s)
  | .gweSwap .. => execGweSwap_keeps (.refl s)
  | .handleScan .. => execHandleScan_keeps (.refl s)
  | .accPoll .. => execAccPoll_keeps (.refl s)
  | .accAbort .. => execAccAbort_keeps (.refl s)
  | .lfTelegramEnd .. => execLfTelegramEnd_keeps (.refl s)
  | .keyWakeEnd .. => execKeyWakeEnd_keeps (.refl s)
  | .keyResponseRx .. => execKeyResponseRx_keeps (.refl s)
  | .rangingFinal .. => execRangingFinal_keeps (.refl s)
  | .keyAnswerRx .. => execKeyAnswerRx_keeps (.refl s)
  | .answerWindowEnd => execAnswerWindowEnd_keeps (.refl s)
  | .pollEvalDone => execPollEvalDone_keeps (.refl s)
  | .lockoutEnd => execLockoutEnd_keeps (.refl s)
  | .add .. => execAdd_keeps (.refl s)
  | .addc .. => execAddc_keeps (.refl s)
  | .sub .. => execSub_keeps (.refl s)
  | .subc .. => execSubc_keeps (.refl s)
  | .and .. => execAnd_keeps (.refl s)
  | .or .. => execOr_keeps (.refl s)
  | .xor .. => execXor_keeps (.refl s)
  | .andn .. => execAndn_keeps (.refl s)
  | .shift .. => execShift_keeps (.refl s)
  | .rotate .. => execRotate_keeps (.refl s)
  | .bitFieldExtract .. => execBitFieldExtract_keeps (.refl s)
  | .bitFieldInsert .. => execBitFieldInsert_keeps (.refl s)
  | .clz .. => execClz_keeps (.refl s)
  | .popc .. => execPopc_keeps (.refl s)
  | .min .. => execMin_keeps (.refl s)
  | .max .. => execMax_keeps (.refl s)
  | .cmp .. => execCmp_keeps (.refl s)
  | .mov .. => execMov_keeps (.refl s)
  | .addi .. => execAddi_keeps (.refl s)
  | .subi .. => execSubi_keeps (.refl s)
  | .andi .. => execAndi_keeps (.refl s)
  | .ori .. => execOri_keeps (.refl s)
  | .xori .. => execXori_keeps (.refl s)
  | .shiftImmediate .. => execShiftImmediate_keeps (.refl s)
  | .cmpi .. => execCmpi_keeps (.refl s)
  | .movi .. => execMovi_keeps (.refl s)
  | .mul .. => execMul_keeps (.refl s)
  | .mulh .. => execMulh_keeps (.refl s)
  | .mulhu .. => execMulhu_keeps (.refl s)
  | .div .. => execDiv_keeps (.refl s)
  | .divu .. => execDivu_keeps (.refl s)
  | .rem .. => execRem_keeps (.refl s)
  | .remu .. => execRemu_keeps (.refl s)
  | .adda .. => execAdda_keeps (.refl s)
  | .suba .. => execSuba_keeps (.refl s)
  | .lea .. => execLea_keeps (.refl s)
  | .cmpa .. => execCmpa_keeps (.refl s)
  | .mova .. => execMova_keeps (.refl s)
  | .movd .. => execMovd_keeps (.refl s)
  | .mac .. => execMac_keeps (.refl s)
  | .msu .. => execMsu_keeps (.refl s)
  | .mulac .. => execMulac_keeps (.refl s)
  | .sat .. => execSat_keeps (.refl s)
  | .rnd .. => execRnd_keeps (.refl s)
  | .ashr .. => execAshr_keeps (.refl s)
  | .mvacl .. => execMvacl_keeps (.refl s)
  | .mvach .. => execMvach_keeps (.refl s)
  | .mvdac .. => execMvdac_keeps (.refl s)
  | .clrac .. => execClrac_keeps (.refl s)
  | .load .. => execLoad_keeps (.refl s)
  | .ldac .. => execLdac_keeps (.refl s)
  | .store .. => execStore_keeps (.refl s)
  | .stac .. => execStac_keeps (.refl s)
  | .branch .. => execBranch_keeps (.refl s)
  | .jr .. => execJr_keeps (.refl s)
  | .jlr .. => execJlr_keeps (.refl s)
  | .dadd .. => execDadd_keeps (.refl s)
  | .dsub .. => execDsub_keeps (.refl s)
  | .dcmp .. => execDcmp_keeps (.refl s)
  | .dadj .. => execDadj_keeps (.refl s)
  | .dshl .. => execDshl_keeps (.refl s)
  | .dshr .. => execDshr_keeps (.refl s)
  | .dcvt .. => execDcvt_keeps (.refl s)
  | .bcvt .. => execBcvt_keeps (.refl s)
  | .wpost .. => execWpost_keeps (.refl s)
  | .wack .. => execWack_keeps (.refl s)
  | .wackTimeout .. => execWackTimeout_keeps (.refl s)
  | .mfsr .. => execMfsr_keeps (.refl s)
  | .mtsr .. => execMtsr_keeps (.refl s)
  | .icAck .. => execIcAck_keeps (.refl s)
  | .icEoi .. => execIcEoi_keeps (.refl s)
  | .trap .. => execTrap_keeps (.refl s)
  | .mcall .. => execMcall_keeps (.refl s)
  | .eret .. => execEret_keeps (.refl s)
  | .wfi .. => execWfi_keeps (.refl s)
  | .wfiWake .. => execWfiWake_keeps (.refl s)
  | .fence .. => execFence_keeps (.refl s)
  | .iflush .. => execIflush_keeps (.refl s)
  | .tlbinv .. => execTlbinv_keeps (.refl s)
  | .li .. => execLi_keeps (.refl s)
  | .lia .. => execLia_keeps (.refl s)
  | .lih .. => execLih_keeps (.refl s)
  | .interruptDeliver .. => execInterruptDeliver_keeps (.refl s)
  | .lockstepMismatch .. => execLockstepMismatch_keeps (.refl s)
  | .mbxTxqPost .. => execMbxTxqPost_keeps (.refl s)
  | .mbxRxqRead .. => execMbxRxqRead_keeps (.refl s)
  | .mbxAck .. => execMbxAck_keeps (.refl s)
  | .mbxRing .. => execMbxRing_keeps (.refl s)
  | .lockRead .. => execLockRead_keeps (.refl s)
  | .lockRelease .. => execLockRelease_keeps (.refl s)
  | .nvProgramDone .. => execNvProgramDone_keeps (.refl s)
  | .bootstrapStart .. => execBootstrapStart_keeps (.refl s)
  | .bsqHeaderReadDone => execBsqHeaderReadDone_keeps (.refl s)
  | .bsqImageReadDone .. => execBsqImageReadDone_keeps (.refl s)
  | .zsSignatureVerdict .. => execZsSignatureVerdict_keeps (.refl s)
  | .zsTimeout => execZsTimeout_keeps (.refl s)
  | .bsqBuildDone => execBsqBuildDone_keeps (.refl s)
  | .regsWaitEnd => execRegsWaitEnd_keeps (.refl s)
  | .coreRelease => execCoreRelease_keeps (.refl s)
  | .bootRetry => execBootRetry_keeps (.refl s)
  | .pmuRequest .. => execPmuRequest_keeps (.refl s)
  | .prepareDone => execPrepareDone_keeps (.refl s)
  | .prepareTimeout => execPrepareTimeout_keeps (.refl s)
  | .sleepEntryDone => execSleepEntryDone_keeps (.refl s)
  | .wakeSource .. => execWakeSource_keeps (.refl s)
  | .wakeDomainsReady => execWakeDomainsReady_keeps (.refl s)
  | .xtalStartTimeout => execXtalStartTimeout_keeps (.refl s)
  | .wakeSupplyFail => execWakeSupplyFail_keeps (.refl s)
  | .wakeAttemptRetry => execWakeAttemptRetry_keeps (.refl s)
  | .parkLimpTrigger => execParkLimpTrigger_keeps (.refl s)
  | .domainDemandAccess .. => execDomainDemandAccess_keeps (.refl s)
  | .domainReady .. => execDomainReady_keeps (.refl s)
  | .domainReadyTimeout .. => execDomainReadyTimeout_keeps (.refl s)
  | .nvIdleOff => execNvIdleOff_keeps (.refl s)
  | .netoffWrite .. => execNetoffWrite_keeps (.refl s)
  | .wtmrWrite .. => execWtmrWrite_keeps (.refl s)
  | .wakeTimerAlarm => execWakeTimerAlarm_keeps (.refl s)
  | .powerOnReset => execPowerOnReset_keeps (.refl s)
  | .porRelease => execPorRelease_keeps (.refl s)
  | .railBrownout .. => execRailBrownout_keeps (.refl s)
  | .xtalLoss => execXtalLoss_keeps (.refl s)
  | .pllUnlock .. => execPllUnlock_keeps (.refl s)
  | .ckpwrLoss => execCkpwrLoss_keeps (.refl s)
  | .ckpwrReturn => execCkpwrReturn_keeps (.refl s)
  | .slowXtalReady => execSlowXtalReady_keeps (.refl s)
  | .slowXtalFail => execSlowXtalFail_keeps (.refl s)
  | .rcTrim => execRcTrim_keeps (.refl s)
  | .ldieReset => execLdieReset_keeps (.refl s)
  | .resetPin .. => execResetPin_keeps (.refl s)
  | .sysLdieReset .. => execSysLdieReset_keeps (.refl s)
  | .coreReset .. => execCoreReset_keeps (.refl s)
  | .wdKick .. => execWdKick_keeps (.refl s)
  | .wdExpire .. => execWdExpire_keeps (.refl s)
  | .cmdSegmentRx .. => execCmdSegmentRx_keeps (.refl s)
  | .segmentTimeout .. => execSegmentTimeout_keeps (.refl s)
  | .statusRead .. => execStatusRead_keeps (.refl s)
  | .statusCert .. => execStatusCert_keeps (.refl s)
  | .quote .. => execQuote_keeps (.refl s)
  | .updateBegin .. => execUpdateBegin_keeps (.refl s)
  | .updateBlock .. => execUpdateBlock_keeps (.refl s)
  | .updateVerify .. => execUpdateVerify_keeps (.refl s)
  | .activateHandover .. => execActivateHandover_keeps (.refl s)
  | .activateRestart .. => execActivateRestart_keeps (.refl s)
  | .restartReset => execRestartReset_keeps (.refl s)
  | .updateAbort .. => execUpdateAbort_keeps (.refl s)
  | .updateSessionTimeout => execUpdateSessionTimeout_keeps (.refl s)
  | .enroll .. => execEnroll_keeps (.refl s)
  | .accessBlock .. => execAccessBlock_keeps (.refl s)
  | .remove .. => execRemove_keeps (.refl s)
  | .clearLockout .. => execClearLockout_keeps (.refl s)
  | .ownerSet .. => execOwnerSet_keeps (.refl s)
  | .ownerClear .. => execOwnerClear_keeps (.refl s)
  | .install .. => execInstall_keeps (.refl s)
  | .revoke .. => execRevoke_keeps (.refl s)
  | .raiseRollback .. => execRaiseRollback_keeps (.refl s)
  | .faultRead .. => execFaultRead_keeps (.refl s)
  | .faultErase .. => execFaultErase_keeps (.refl s)
  | .severity .. => execSeverity_keeps (.refl s)
  | .inject .. => execInject_keeps (.refl s)
  | .keygen .. => execKeygen_keeps (.refl s)
  | .factoryCert .. => execFactoryCert_keeps (.refl s)
  | .endOfLine .. => execEndOfLine_keeps (.refl s)
  | .hoReady .. => execHoReady_keeps (.refl s)
  | .handoverSwitch => execHandoverSwitch_keeps (.refl s)
  | .handoverTablesDone => execHandoverTablesDone_keeps (.refl s)
  | .hoDone .. => execHoDone_keeps (.refl s)
  | .hoAbandon .. => execHoAbandon_keeps (.refl s)
  | .hoquietExpire => execHoquietExpire_keeps (.refl s)
  | .hotimeExpire => execHotimeExpire_keeps (.refl s)
  | .handoverRestoreDone => execHandoverRestoreDone_keeps (.refl s)
  | .faultActivation .. => execFaultActivation_keeps (.refl s)
  | .pairFault .. => execPairFault_keeps (.refl s)
  | .fcuAck .. => execFcuAck_keeps (.refl s)
  | .s1Late .. => execS1Late_keeps (.refl s)
  | .s2Escalate .. => execS2Escalate_keeps (.refl s)
  | .s3RecoveryStart => execS3RecoveryStart_keeps (.refl s)
  | .s3CountAge => execS3CountAge_keeps (.refl s)
  | .faultRecordWrite => execFaultRecordWrite_keeps (.refl s)
  | .fcuForceWrite .. => execFcuForceWrite_keeps (.refl s)
  | .fcuPfrcWrite .. => execFcuPfrcWrite_keeps (.refl s)
  | .fcuSevWrite .. => execFcuSevWrite_keeps (.refl s)
  | .fcuTmrWrite .. => execFcuTmrWrite_keeps (.refl s)
  | .hostRead64 .. => execHostRead64_keeps (.refl s)
  | .hostRead32 .. => execHostRead32_keeps (.refl s)
  | .hostWrite64 .. => execHostWrite64_keeps (.refl s)
  | .hostWrite32 .. => execHostWrite32_keeps (.refl s)
  | .registerWrite .. => execRegisterWrite_keeps (.refl s)
  | .vbstOvRecover .. => execVbstOvRecover_keeps (.refl s)
  | .limpNHigh => execLimpNHigh_keeps (.refl s)

theorem State.clockEdges_keeps {s r : State} (h : s.Keeps r) : s.Keeps r.clockEdges :=
  ite_keeps (ethTick_keeps (ntuEdge_keeps (ntuEdge_keeps (gtEdgeAll_keeps h)))) h

theorem State.s3Tick_keeps {s r : State} (h : s.Keeps r) : s.Keeps r.s3Tick :=
  when_keeps h fun _ => s3Age_keeps

/-- A tick keeps, from the state with model time advanced, what a command keeps. -/
theorem State.tick_keeps (s : State) : ({ s with now := s.now + 1 } : State).Keeps s.tick := by
  have hs := State.Keeps.refl { s with now := s.now + 1 }
  have edges := s3Tick_keeps (pulsesEnd_keeps (countersArrive_keeps (clockEdges_keeps hs)))
  exact ite_keeps hs (pmuPendTick_keeps (when_keeps edges fun _ => fcuSampleAll_keeps))

/-- A step keeps, but for the queue and model time, what a command keeps. -/
theorem step_keeps {s t : State} (h : step s = .next t) :
    ∃ l n, ({ s with pending := l, now := n } : State).Keeps t := by
  unfold step at h
  split at h
  · injection h with h
    exact ⟨s.pending, s.now + 1, h ▸ s.tick_keeps⟩
  · rename_i c rest _
    exact ⟨rest, s.now, (exec_keeps c _).elim h⟩

/-- The canonical form does not depend on the queue or on model time. -/
theorem State.Canon.of_queue_time {s : State} (c : s.Canon) (l : List Instr) (n : Nat) :
    ({ s with pending := l, now := n } : State).Canon := ⟨c.regs, c.mem, c.flash⟩

end Sys2Proof.Machine
end

section
/-! SUPPORT. A table in canonical form is fixed by what its keys read as. -/

namespace Sys2Proof.Machine

variable {β : Type} {t u : Tab β}

/-- A key's entry comes before those of larger keys only. -/
theorem trising_iff_pairwise : trising none t = true ↔ t.Pairwise fun e f => e.1 < f.1 := by
  induction t with
  | nil => simp [trising]
  | cons e t ih =>
    rw [List.pairwise_cons, ← ih, and_comm]
    exact trising_some

/-- A key that does not read as unlisted has the entry with what it reads as. -/
theorem mem_of_tget_ne {d : β} {a : Nat} (h : tget d t a ≠ d) : (a, tget d t a) ∈ t := by
  induction t with
  | nil => exact absurd rfl h
  | cons e t ih =>
    obtain ⟨k, v⟩ := e
    unfold tget at h ⊢
    split
    · rename_i hk; simp [hk]
    · rename_i hk; exact List.mem_cons_of_mem _ (ih (by simpa [hk] using h))

/-- In a table whose keys rise, a key with an entry reads as its value. -/
theorem tget_of_mem {d v : β} {a : Nat} (hp : t.Pairwise fun e f => e.1 < f.1) (h : (a, v) ∈ t) : tget d t a = v := by
  induction t with
  | nil => cases h
  | cons e t ih =>
    obtain ⟨k, w⟩ := e
    obtain ⟨hlt, hp⟩ := List.pairwise_cons.1 hp
    rcases List.mem_cons.1 h with h | h
    · cases h; simp [tget]
    · have hk : k ≠ a := Nat.ne_of_lt (hlt _ h)
      simp [tget, hk, ih hp h]

variable [DecidableEq β] {d : Nat → β}

/-- The entries of a canonical table: the keys that do not read as unlisted, with what they read as. -/
theorem mem_iff_of_twf (h : twf d t = true) (a : Nat) (v : β) : (a, v) ∈ t ↔ v ≠ d a ∧ tget (d a) t a = v := by
  simp only [twf, Bool.and_eq_true, List.all_eq_true, bne_iff_ne] at h
  obtain ⟨hr, hne⟩ := h
  constructor
  · exact fun hm => ⟨hne _ hm, tget_of_mem (trising_iff_pairwise.1 hr) hm⟩
  · rintro ⟨hv, rfl⟩
    exact mem_of_tget_ne hv

/-- Two canonical tables in which every key reads the same are equal. -/
theorem twf_ext (ht : twf d t = true) (hu : twf d u = true) (h : ∀ a, tget (d a) t a = tget (d a) u a) : t = u := by
  have rising : ∀ {x : Tab β}, twf d x = true → x.Pairwise fun e f => e.1 < f.1 := fun hx =>
    trising_iff_pairwise.1 (Bool.and_eq_true_iff.1 hx).1
  have nodup : ∀ {x : Tab β}, twf d x = true → x.Nodup := fun hx =>
    (rising hx).imp fun hlt e => absurd (congrArg Prod.fst e) (Nat.ne_of_lt hlt)
  have same : t.Perm u := (List.perm_ext_iff_of_nodup (nodup ht) (nodup hu)).2 fun e => by
    rw [mem_iff_of_twf ht e.1 e.2, mem_iff_of_twf hu e.1 e.2, h]
  exact same.eq_of_pairwise (fun _ _ _ _ hlt hgt => absurd hlt (Nat.lt_asymm hgt)) (rising ht) (rising hu)

end Sys2Proof.Machine
end

section
/-! SUPPORT. Access codes: which bits of a register a write under a rule changes (spec/00, R4, R8, R11). -/

namespace Sys2Proof.Machine

/-- Bit `i` of `n` ones. -/
theorem ofNat_ones_getLsbD (n i : Nat) :
    (BitVec.ofNat 64 (2 ^ n - 1)).getLsbD i = (decide (i < 64) && decide (i < n)) := by
  rw [BitVec.getLsbD_ofNat, Nat.testBit_two_pow_sub_one]

/-- The bits that an access reaches. -/
theorem accPart_getLsbD (acc : Access) (i : Nat) : (accPart acc).getLsbD i = match acc with
    | .w64 => decide (i < 64)
    | .lo32 => decide (i < 32)
    | .hi32 => decide (32 ≤ i ∧ i < 64) := by
  cases acc with
  | w64 => exact (ofNat_ones_getLsbD 64 i).trans (by simp)
  | lo32 => exact (ofNat_ones_getLsbD 32 i).trans (by grind)
  | hi32 =>
    have shifted : accPart .hi32 = BitVec.ofNat 64 (2 ^ 32 - 1) <<< 32 := rfl
    rw [shifted, BitVec.getLsbD_shiftLeft, ofNat_ones_getLsbD]
    grind

/-- The bits that an access carries to their places. -/
theorem accPlace_getLsbD (acc : Access) (v : BitVec 64) {i : Nat} (hi : i < 64) :
    (accPlace acc v).getLsbD i = ((accPart acc).getLsbD i && match acc with
      | .hi32 => v.getLsbD (i - 32)
      | _ => v.getLsbD i) := by
  rw [accPart_getLsbD]
  cases acc with
  | w64 => simp [accPlace, accMerge, hi]
  | lo32 =>
    have placed : accPlace .lo32 v = v &&& accPart .lo32 := by simp [accPlace, accMerge, accPart]
    rw [placed, BitVec.getLsbD_and, accPart_getLsbD, Bool.and_comm]
  | hi32 =>
    have placed : accPlace .hi32 v = v <<< 32 := by simp [accPlace, accMerge]
    rw [placed, BitVec.getLsbD_shiftLeft]
    grind

/-- Bit `i` of a register after a write under a rule. -/
theorem RegInfo.after_getLsbD (r : RegInfo) (acc : Access) (old v : BitVec 64) (ok : Bool) {i : Nat} (hi : i < 64) :
    (r.after acc old v ok).getLsbD i =
      ((if ok && r.rw.testBit i && (accPart acc).getLsbD i then (accPlace acc v).getLsbD i else old.getLsbD i) &&
        !((accPlace acc v).getLsbD i && r.w1c.testBit i)) := by
  simp only [RegInfo.after, BitVec.getLsbD_and, BitVec.getLsbD_or, BitVec.getLsbD_not, BitVec.getLsbD_ofNat, hi,
    decide_true, Bool.true_and]
  cases ok
  · simp
  · simp only [if_true, BitVec.getLsbD_and, BitVec.getLsbD_ofNat, hi, decide_true, Bool.true_and]
    cases r.rw.testBit i <;> cases (accPart acc).getLsbD i <;> simp

theorem State.reg_put_ne (s : State) {f : Fld} {b : Nat} (x : Nat) (h : b ≠ f.addr) : (s.put f x).reg b = s.reg b :=
  reg_setReg_ne s _ h

theorem State.ruledWrite_eq {s : State} {a : Nat} {r : RegInfo} (hr : regInfo? a = some r) (acc : Access) (v : BitVec 64)
    (ok : Bool) (f : Fld) : s.ruledWrite a acc v ok (some f) =
      let t := s.setReg a (r.after acc (s.reg a) v ok)
      if ok then t else t.raiseBit f := by
  simp only [State.ruledWrite, hr]

/-- The register written under a rule, whose ignored writes another register flags. -/
theorem State.reg_ruledWrite {s : State} {a : Nat} {r : RegInfo} (hr : regInfo? a = some r) (acc : Access) (v : BitVec 64)
    (ok : Bool) {f : Fld} (hf : f.addr ≠ a) :
    (s.ruledWrite a acc v ok (some f)).reg a = r.after acc (s.reg a) v ok := by
  rw [ruledWrite_eq hr]
  cases ok
  · exact (reg_put_ne _ 1 hf.symm).trans (reg_setReg ..)
  · exact reg_setReg ..

/-- A register other than the one written under a rule and the one that flags an ignored write. -/
theorem State.reg_ruledWrite_ne {s : State} {a b : Nat} {r : RegInfo} (hr : regInfo? a = some r) (acc : Access) (v : BitVec 64)
    (ok : Bool) {f : Fld} (ha : b ≠ a) (hf : b ≠ f.addr) :
    (s.ruledWrite a acc v ok (some f)).reg b = s.reg b := by
  rw [ruledWrite_eq hr]
  cases ok
  · exact (reg_put_ne _ 1 hf).trans (reg_setReg_ne _ _ ha)
  · exact reg_setReg_ne _ _ ha

end Sys2Proof.Machine
end

section
/-! SUPPORT. The shadows of split registers (spec/00, R6). -/

namespace Sys2Proof.Machine

theorem master_num_lt (m : Master) : m.num < 8 := by cases m <;> decide

theorem master_num_inj {m n : Master} (h : m.num = n.num) : m = n := by
  cases m <;> cases n <;> simp [Master.num] at h ⊢

/-- No two masters, and no two registers, share a shadow. -/
theorem shadowKey_inj {m n : Master} {a b : Nat} (h : shadowKey m a = shadowKey n b) : m = n ∧ a = b := by
  have hm := master_num_lt m
  have hn := master_num_lt n
  unfold shadowKey at h
  exact ⟨master_num_inj (by omega), by omega⟩

theorem hiHalf_toNat (v : BitVec 64) : (hiHalf v).toNat = v.toNat / 2 ^ 32 := by
  have := v.isLt
  simp only [hiHalf, BitVec.toNat_ofNat]
  omega

theorem State.splitRead_lo32_readShadow (s : State) (m : Master) (a : Nat) (v : BitVec 64) :
    (s.splitRead m a .lo32 v).readShadow = tset none s.readShadow (shadowKey m a) (some (hiHalf v)) := rfl

theorem State.splitRead_hi32_reply (s : State) (m : Master) (a : Nat) (v : BitVec 64) :
    (s.splitRead m a .hi32 v).reply =
      some (BitVec.ofNat 64 ((tget none s.readShadow (shadowKey m a)).getD (hiHalf v)).toNat, false) := rfl

end Sys2Proof.Machine
end

section
/-!
SUPPORT. Accesses over the address map, those that wait for a domain, and the digits of a value (spec/00, R4–R10; spec/13,
R329, R336; spec/14, R368).
-/

namespace Sys2Proof.Machine

theorem State.busRead_value {s t : State} {m : Master} {a size x : Nat} {e : MemErr} (on : s.masterOn m = true)
    (h : s.load m a size e = (t, .value x)) : s.busRead m a size e = t.answer x := by
  simp [State.busRead, on, h]

theorem State.busRead_stalled {s : State} {m : Master} {a size : Nat} {e : MemErr} (on : s.masterOn m = true)
    (awake : s.asleepBars a = false) (h : s.stalls m a = true) :
    s.busRead m a size e = s.pushStall { m := m, addr := a, size := size, store := none, ecc := e } := by
  simp [State.busRead, State.load, on, awake, h]

theorem State.busWrite_stalled {s : State} {m : Master} {a size v : Nat} {e : MemErr} (on : s.masterOn m = true)
    (awake : s.asleepBars a = false) (h : s.stalls m a = true) :
    s.busWrite m a size v e = s.pushStall { m := m, addr := a, size := size, store := some (BitVec.ofNat 128 v) } := by
  simp [State.busWrite, State.store, on, awake, h]

/-- A write that reaches a register has the effect of its block's register write. -/
theorem State.busWrite_reg {s : State} {m : Master} {a size r v : Nat} {acc : Access} {e : MemErr} (on : s.masterOn m = true)
    (awake : s.asleepBars a = false) (ready : s.stalls m a = false) (periph : region a = .periph)
    (may : regBarred m a size = false) (part : regAccess a size = some (r, acc)) (isReg : (regInfo? r).isNone = false) :
    s.busWrite m a size v e = s.regWrite m r acc (BitVec.ofNat 64 v) := by
  simp [State.busWrite, State.store, State.storeReg, on, awake, ready, periph, may, part, isReg]

/-- SRAM needs no domain to power up. -/
theorem State.stalls_sram {s : State} {m : Master} {a : Nat} (h : region a = .sram) : s.stalls m a = false := by
  simp [State.stalls, h]

/-- SRAM lies below the lock-out area. -/
theorem lt_of_region_sram {a : Nat} (h : region a = .sram) : a < 0x1000000 := by
  by_contra hlt
  unfold region at h
  rw [if_neg hlt] at h
  split_ifs at h

theorem State.load_sram {s : State} {m : Master} {a : Nat} (n : Nat) (awake : s.asleepBars a = false)
    (sram : region a = .sram) (may : s.memAllowed m a .read = true) :
    s.load m a n .good = (s, .value (leNat (s.bytes a n))) := by
  have low := lt_of_region_sram sram
  have value : s.memValue a n = (s, leNat (s.bytes a n)) := if_neg (by simp; omega)
  simp [State.load, State.loadMem, awake, stalls_sram sram, sram, may, value]

/-- The bytes of a list are the digits of its value, the first least significant. -/
theorem leNat_digit (l : List Byte) (i : Nat) (h : i < l.length) : leNat l / 256 ^ i % 256 = l[i].toNat := by
  induction l generalizing i with
  | nil => exact absurd h (Nat.not_lt_zero i)
  | cons b l ih =>
    have hb := b.isLt
    cases i with
    | zero => simp only [leNat, pow_zero, Nat.div_one, List.getElem_cons_zero]; omega
    | succ i =>
      have rest : (b.toNat + 256 * leNat l) / 256 = leNat l := by omega
      rw [pow_succ', ← Nat.div_div_eq_div_mul, leNat, rest]
      exact ih i (Nat.lt_of_succ_lt_succ h)

theorem leNat_bytes_digit (s : State) (a : Nat) {n i : Nat} (h : i < n) :
    leNat (s.bytes a n) / 256 ^ i % 256 = (s.byte (a + i)).toNat := by
  simpa [State.bytes] using leNat_digit (s.bytes a n) i (by simpa [State.bytes] using h)

/-- A domain that is READY: what hardware waits to write goes first, then the sequencer's access, then the others. -/
theorem State.domainReady_of_mem (s : State) (d : Fin 8) (h : d = 4 ∨ d = 5) :
    s.domainReady d =
      let t := s.put PMU_DOMSTAT_READY (s.fld PMU_DOMSTAT_READY ||| 2 ^ d.val)
      ((if d = 5 then t.heldWrites else t).bsqResume d).resumeStalls fun x => stallDomain x == d.val := by
  rcases h with rfl | rfl <;> rfl

/-- The accesses that wait for a domain fail when it is not READY in time, and what hardware waits to write is lost. -/
theorem State.domainTimeout_of_due (s : State) (d : Fin 8) (off : (s.fld PMU_DOMSTAT_READY).testBit d = false)
    (due : (s.nv.stalled.filter fun x => stallDomain x == d.val) ≠ []) :
    s.domainTimeout d =
      let t := ((s.put PMU_DOMSTAT_TMO (s.fld PMU_DOMSTAT_TMO ||| 2 ^ d.val)).raiseBit PMU_IRQ_DOMTMO).raiseL 265
      let u : State := { t with nv := { t.nv with
        stalled := s.nv.stalled.filter fun x => stallDomain x != d.val
        held := if d = 5 then [] else s.nv.held } }
      (u.each (s.nv.stalled.filter fun x => stallDomain x == d.val) fun x w => w.stallFails x).bsqStallFails d := by
  have isNv : (d.val == 5) = decide (d = 5) := by rw [Bool.eq_iff_iff]; simp [Fin.ext_iff]
  have waits : (s.nv.stalled.filter fun x => stallDomain x == d.val).isEmpty = false := by simpa using due
  simp [State.domainTimeout, off, waits, isNv]

theorem State.nvProgrammed_of_busy {s : State} {m : Master} {l : NvLine} (h : s.nvBusy m.num = some l) :
    s.nvProgrammed m = ((s.nvCommit l).setNvBusy m.num none).resumeStalls fun x => x.m == m && region x.addr == .nv := by
  simp [State.nvProgrammed, h]

end Sys2Proof.Machine
end

section
/-! SUPPORT. Owner-only fields (spec/00, R482) and a core in reset (spec/11, R284). -/

namespace Sys2Proof.Machine

/-- A write of 1 to an owner-only field of a block that is reached: refused for a master other than the nonzero owner. -/
theorem ownerOnly_access {s acted refused : State} {m : Master} {owner a : Nat} {f : State → State} (hm : m ≠ .bsq)
    (reached : s.opens m a = true) (hf : f s = if ownerOk owner m then acted else refused) :
    (owner ≠ 0 ∧ owner ≠ m.num → (.next (s.access m a none f) : Out) = .next refused) ∧
    (owner = 0 ∨ owner = m.num → (.next (s.access m a none f) : Out) = .next acted) := by
  have passes : ownerOk owner m = true ↔ owner = 0 ∨ owner = m.num := by simp [ownerOk, hm]
  rw [access_open reached, hf]
  exact ⟨fun h => by rw [if_neg (by rw [passes]; tauto)], fun h => by rw [if_pos (passes.2 h)]⟩

theorem core_level_reset : ({} : Core).level = 2 := by decide

end Sys2Proof.Machine
end

section
/-! THEOREMS. The obligations of the family of spec/00: the step, resets, accesses and access codes. -/

namespace Sys2Proof.Machine

/-- Settles O42, by what a step keeps and by the tables that canonical form leaves for given contents. -/
theorem stepKeepsCanonicalForm : Obligations.StepKeepsCanonicalForm := by
  constructor
  · intro s t canon h
    obtain ⟨l, n, keeps⟩ := step_keeps h
    exact keeps.canon (canon.of_queue_time l n)
  · intro s t ⟨sregs, smem, sflash⟩ ⟨tregs, tmem, tflash⟩ regs mem flash
    exact ⟨twf_ext sregs tregs regs, twf_ext smem tmem mem, twf_ext sflash tflash flash⟩

/-- Settles O53: the shadow of a low-half read is that master's and that register's only. -/
theorem splitReadShadows : Obligations.SplitReadShadows := by
  intro s u m n a b v w
  refine ⟨rfl, fun hu => ⟨?_, rfl⟩, fun hne => ?_, fun hs => ?_⟩
  · rw [State.splitRead_hi32_reply, hu, State.splitRead_lo32_readShadow, tget_tset_self, Option.getD_some, hiHalf_toNat]
  · rw [State.splitRead_lo32_readShadow]
    refine tget_tset_ne _ _ _ _ fun hk => ?_
    obtain ⟨hn, hb⟩ := shadowKey_inj hk
    exact hne.elim (· hn) (· hb)
  · rw [State.splitRead_hi32_reply, hs, Option.getD_none, hiHalf_toNat]

/-- Settles O56, by the bits of a register after a write under a rule. -/
theorem writesFollowAccessCodes : Obligations.WritesFollowAccessCodes := by
  intro s a acc v ok f r hr hf hdisj t reached bit
  have after : ∀ i < 64, (t.reg a).getLsbD i = _ := fun i hi =>
    (congrArg (·.getLsbD i) (State.reg_ruledWrite hr acc v ok hf)).trans (r.after_getLsbD acc (s.reg a) v ok hi)
  have part : ∀ i < 64, (accPart acc).getLsbD i = true ↔ reached i := fun i hi => by
    rw [accPart_getLsbD]
    cases acc <;> simp [reached, hi]
  have place : ∀ i < 64, reached i → (accPlace acc v).getLsbD i = bit i := fun i hi h => by
    have carried := accPlace_getLsbD acc v hi
    rw [(part i hi).2 h, Bool.true_and] at carried
    exact carried
  have apart : ∀ i, r.rw.testBit i = true → r.w1c.testBit i = false := fun i h => by
    simpa [h] using congrArg (·.testBit i) hdisj
  refine ⟨fun i hi h => ?_, fun i hi hrw hw1c => ?_, fun i hi h hrw => ?_, fun i hi h hw1c => ?_, fun b =>
    State.reg_ruledWrite_ne hr acc v ok⟩
  · have unreached : (accPart acc).getLsbD i = false := Bool.eq_false_iff.2 (mt (part i hi).1 h)
    have unplaced : (accPlace acc v).getLsbD i = false := by rw [accPlace_getLsbD acc v hi, unreached, Bool.false_and]
    simp [after i hi, unreached, unplaced]
  · simp [after i hi, hrw, hw1c]
  · simp [after i hi, hrw, apart i hrw, (part i hi).2 h, place i hi h]
  · have unwritten : r.rw.testBit i = false := Bool.eq_false_iff.2 fun hrw => by simp [apart i hrw] at hw1c
    simp [after i hi, unwritten, hw1c, place i hi h]

/-- Settles O30: each command is the access it names. -/
theorem busAccessCommandsComplete : Obligations.BusAccessCommandsComplete := by
  refine ⟨?write64, ?writeLow, ?writeHigh, ?splitLow, ?splitHigh, ?readLow, ?readHigh, ?sram, ?sramRead,
    ?readStalls, ?writeStalls, ?ready, ?timeout, ?lineDone⟩
  case write64 =>
    intro s m a v on awake ready periph may part isReg
    have write := State.busWrite_reg (v := v.toNat) (e := .good) on awake ready periph may part isReg
    exact congrArg Host.Outcome.next (write.trans (by rw [BitVec.ofNat_toNat, BitVec.setWidth_eq]))
  case writeLow | writeHigh | splitLow | splitHigh =>
    intro s m a v on awake ready periph may part isReg
    exact congrArg Host.Outcome.next (State.busWrite_reg on awake ready periph may part isReg)
  case readLow | readHigh => exact fun s m a t x on read => congrArg Host.Outcome.next (State.busRead_value on read)
  case sram =>
    exact fun s m a n awake sram may => ⟨State.load_sram n awake sram may, fun i hi => leNat_bytes_digit s a hi⟩
  case sramRead =>
    exact fun s m a on awake sram may =>
      congrArg Host.Outcome.next (State.busRead_value on (State.load_sram 4 awake sram may))
  case readStalls => exact fun s m a w e on awake off => congrArg Host.Outcome.next (State.busRead_stalled on awake off)
  case writeStalls => exact fun s m a w v e on awake off => congrArg Host.Outcome.next (State.busWrite_stalled on awake off)
  case ready => exact fun s d hd _ => congrArg Host.Outcome.next (s.domainReady_of_mem d hd)
  case timeout => exact fun s d off due => congrArg Host.Outcome.next (s.domainTimeout_of_due d off due)
  case lineDone => exact fun s m l busy => congrArg Host.Outcome.next (State.nvProgrammed_of_busy busy)

/-- Settles O50: the six fields follow one rule. -/
theorem ownerOnlyFieldsIgnoreOthers : Obligations.OwnerOnlyFieldsIgnoreOthers :=
  ⟨fun _ _ _ hm reached => ownerOnly_access hm reached rfl, fun _ _ _ hm reached => ownerOnly_access hm reached rfl,
    fun _ _ _ hm reached => ownerOnly_access hm reached rfl, fun _ _ _ hm reached => ownerOnly_access hm reached rfl,
    fun _ _ _ hm reached => ownerOnly_access hm reached rfl,
    fun _ _ hm reached => ownerOnly_access (a := LED_GCFG) hm reached rfl⟩

/-- Settles O39: the step takes the front command off the queue. -/
theorem stepRunsFrontCommand : Obligations.StepRunsFrontCommand := fun _ _ => rfl

/-- Settles O41: after reset the tables are empty and every core's record is the default one. -/
theorem resetHoldsGivenValues : Obligations.ResetHoldsGivenValues :=
  ⟨⟨twf_nil, twf_nil, twf_nil⟩, fun _ => core_legal_reset, rfl, rfl, fun _ => rfl, fun _ => rfl, fun _ => rfl,
    fun _ => ⟨rfl, core_level_reset, rfl⟩⟩

end Sys2Proof.Machine
end

section
/-! SUPPORT. The handles of the TXN block: who may write one, and what its owner's writes do (spec/01, R21–R28, R50). -/

namespace Sys2Proof.Machine

@[simp] theorem State.each_singleton {α : Type} (s : State) (x : α) (f : α → State → State) : s.each [x] f = f x s := rfl

theorem State.ownsHandle_of_owner {s : State} {m : Master} {h : Nat} (own : s.fld (TXN_CTL_OWNER h) = m.num) :
    s.ownsHandle m h = true := by
  simp [State.ownsHandle, own]

/-- A handle outside a closed claim set has no mates but itself. -/
theorem State.claimMates_of_none {s : State} {h : Nat} (alone : (s.hnd h).claim = none) : s.claimMates h = [h] := by
  simp [State.claimMates, alone]

theorem State.refuseHandles_nil (s : State) (code : Nat) : s.refuseHandles [] code = s := by
  simp [State.refuseHandles, State.each]

/-- A handle in STAGING, DONE or REFUSED takes staging writes and can be freed (spec/01, R24, R25). -/
def Stageable (st : Nat) : Prop := st = txStaging ∨ st = txDone ∨ st = txRefused

theorem stageable_iff {st : Nat} : Stageable st ↔ (st == txStaging || st == txDone || st == txRefused) = true := by
  simp [Stageable, or_assoc]

theorem State.allocRead_of_free {s : State} {m : Master} {h : Nat} (running : s.fld BSQ_STAT_STATE = 5)
    (free : allHandles.find? (fun h => s.txState h == txFree) = some h) :
    s.allocRead m .w64 = ((s.put (TXN_STAT_STATE h) txStaging).put (TXN_CTL_OWNER h) m.num).answer h := by
  simp [State.allocRead, running, free]

theorem State.commitWrite_of_staging {s : State} {m : Master} {h : Nat} (own : s.fld (TXN_CTL_OWNER h) = m.num)
    (staging : s.txState h = txStaging) : s.commitWrite m h = s.commitHandle h false := by
  simp [State.commitWrite, ownsHandle_of_owner own, staging]

section Staged

variable {s : State} {m : Master} {h : Nat}

theorem State.freeWrite_of_owner (own : s.fld (TXN_CTL_OWNER h) = m.num) (staged : Stageable (s.txState h)) :
    s.freeWrite m h = s.freeHandle h := by
  simp [State.freeWrite, ownsHandle_of_owner own, stageable_iff.1 staged]

theorem State.stagingWrite_slot (own : s.fld (TXN_CTL_OWNER h) = m.num) (staged : Stageable (s.txState h)) (i : Fin 64)
    (v : BitVec 64) :
    s.stagingWrite m h (.slot i) v = (s.put (TXN_STAT_STATE h) txStaging).put (TXN_ITEM_ITEM h i) v.toNat := by
  simp [State.stagingWrite, ownsHandle_of_owner own, stageable_iff.1 staged]

theorem State.stagingWrite_time (own : s.fld (TXN_CTL_OWNER h) = m.num) (staged : Stageable (s.txState h))
    (v : BitVec 64) :
    s.stagingWrite m h .time v = (s.put (TXN_STAT_STATE h) txStaging).put (TXN_TIME_TIME h) v.toNat := by
  simp [State.stagingWrite, ownsHandle_of_owner own, stageable_iff.1 staged]

/-- TXN_CTLh takes all its fields but the owner, where COUNT is one that a handle can have. -/
theorem State.stagingWrite_ctl (own : s.fld (TXN_CTL_OWNER h) = m.num) (staged : Stageable (s.txState h))
    {v : BitVec 64} (count : (TXN_CTL_COUNT h).of v ≤ 64) :
    s.stagingWrite m h .ctl v =
      [TXN_CTL_GROUP h, TXN_CTL_ALIGN h, TXN_CTL_CLAIM h, TXN_CTL_CLAST h, TXN_CTL_MODE h, TXN_CTL_EVGT h,
        TXN_CTL_EVSEL h, TXN_CTL_COUNT h].foldl (fun t f => t.put f (f.of v)) (s.put (TXN_STAT_STATE h) txStaging) := by
  simp [State.stagingWrite, ownsHandle_of_owner own, stageable_iff.1 staged, count]

/-- A write of all of TXN_TIMEh drops the half that its master holds, and is judged as a whole. -/
theorem State.timeWrite_w64 (own : s.fld (TXN_CTL_OWNER h) = m.num) (staged : Stageable (s.txState h))
    (v : BitVec 64) :
    s.timeWrite m h .w64 v =
      ((s.splitWrite m (TXN_TIME h) .w64 (s.reg (TXN_TIME h)) v).1.put (TXN_STAT_STATE h) txStaging).put
        (TXN_TIME_TIME h) v.toNat :=
  stagingWrite_time (s := (s.splitWrite m (TXN_TIME h) .w64 (s.reg (TXN_TIME h)) v).1) own staged v

end Staged

/-- A cancel before the point of no return refuses the handle, which leaves the open claim set. -/
theorem State.cancelHandle_of_waiting {s : State} {h : Nat} (waits : s.txState h = txWaitNotice ∨ s.txState h = txArmed)
    (early : (s.hnd h).noRet = false) (alone : (s.hnd h).claim = none) :
    s.cancelHandle h =
      let t := s.refuseAll h istatSuperseded false
      { t with txn := { t.txn with claimSet := t.txn.claimSet.filter (· != h) } } := by
  have cancels : (s.txState h == txWaitNotice || s.txState h == txValidating ||
      (s.txState h == txArmed && !(s.hnd h).noRet)) = true := by
    rcases waits with w | w <;> simp [w, early]
  have mates : (s.claimMates h).filter (· != h) = [] := by simp [claimMates_of_none alone]
  simp only [State.cancelHandle, cancels, if_true, mates, refuseHandles_nil]

/-- A cancel of an applied handle comes late. -/
theorem State.cancelHandle_of_applied {s : State} {h : Nat} (applied : s.txState h = txApplied) :
    s.cancelHandle h = s.setHnd h { s.hnd h with lateCancel := true } := by
  simp [State.cancelHandle, applied, txApplied, txWaitNotice, txValidating, txArmed]

theorem State.cancelWrite_of_owner {s : State} {m : Master} {h : Nat} (own : s.fld (TXN_CTL_OWNER h) = m.num) :
    s.cancelWrite m h = s.cancelHandle h := by
  simp [State.cancelWrite, ownsHandle_of_owner own]

end Sys2Proof.Machine
end

section
/-! SUPPORT. The events of a handle between its validation and its end (spec/01, R34–R47; spec/05, R159, R163). -/

namespace Sys2Proof.Machine

theorem execTxnArmed_alone {s : State} {h : Fin 32} (validating : s.txState h = txValidating)
    (shadow : (s.hnd h).shadow = true) (up : s.flag PDI_STAT_LINK_UP = true) (clock : s.flag SYS_CLKSTAT_PLOC = false)
    (alone : (s.hnd h).claim = none) : execTxnArmed h s = .next (s.armHandle h) := by
  simp [execTxnArmed, validating, shadow, up, clock, State.claimMates_of_none alone]

theorem execShadowDiscard_alone {s t : State} {h : Fin 32} {crc : Bool} (validating : s.txState h = txValidating)
    (shadow : (s.hnd h).shadow = true) (ht : (s.when crc fun u => u.incSat PDI_STAT_LINK_ERR) = t)
    (alone : (t.hnd h).claim = none) : execShadowDiscard h crc s = .next (t.refuseAll h istatAbortedFault true) := by
  simp [execShadowDiscard, validating, shadow, ht, State.claimMates_of_none alone]

/-! Stitch chains. -/

/-- The bits that a chain returned, of a frame of `n`, are compared and differ from the frame last latched (spec/05, R163). -/
def State.shiftMismatches (s : State) (k n returned : Nat) : Bool :=
  s.flag (LED_SC_CFG_VERIFY k) && (s.chain k).shifted &&
    (s.chain k).last.any fun w => !returnedMatches returned n w.1 w.2

/-- A mismatch is counted, flagged and raised (spec/05, R163). -/
def State.recordMismatch (s : State) (k : Nat) : State :=
  ((s.incSat (LED_SC_STAT_MISMATCH k)).raiseBit LED_IRQ_CHAIN_ERR).raiseL (162 + k)

/-- A chain of a handle is ready, with SCk_DO at bit 0 of its frame's bits (spec/05, R159). -/
def State.shiftReady (s : State) (k h bits : Nat) : State :=
  ((s.put (LED_SC_STAT_STATE k) 3).setChain k
    { s.chain k with shifted := true, ck := false, dout := bits.testBit 0 }).setHnd h
    { s.hnd h with shifting := (s.hnd h).shifting.filter (· != k) }

theorem State.shiftMismatches_of_last {s : State} {k w c : Nat} (n returned : Nat)
    (verify : s.flag (LED_SC_CFG_VERIFY k) = true) (shifted : (s.chain k).shifted = true)
    (last : (s.chain k).last = some (w, c)) :
    s.shiftMismatches k n returned = !returnedMatches returned n w c := by
  simp [State.shiftMismatches, verify, shifted, last]

theorem State.shiftMismatches_uncompared {s : State} {k : Nat} (n returned : Nat)
    (h : s.flag (LED_SC_CFG_VERIFY k) = false ∨ (s.chain k).shifted = false) :
    s.shiftMismatches k n returned = false := by
  rcases h with h | h <;> simp [State.shiftMismatches, h]

/-- The registers of a handle lie below those of the LED block. -/
theorem State.put_led_ctlMode (s : State) {f : Fld} (x : Nat) (h : Fin 32) (led : 0x40030000 ≤ f.addr) :
    (s.put f x).fld (TXN_CTL_MODE h) = s.fld (TXN_CTL_MODE h) :=
  fld_put_addr s f _ x (by have := h.isLt; simp only [TXN_CTL_MODE, TXN_CTL]; omega)

theorem ledChainStat_le (k : Nat) : 0x40030000 ≤ LED_SC_STAT k := by unfold LED_SC_STAT; omega

theorem State.recordMismatch_ctlMode (s : State) (k : Nat) (h : Fin 32) :
    (s.recordMismatch k).fld (TXN_CTL_MODE h) = s.fld (TXN_CTL_MODE h) := by
  rw [State.recordMismatch, raiseL_fld, State.raiseBit, put_led_ctlMode _ _ _ (by decide), State.incSat,
    put_led_ctlMode _ _ _ (ledChainStat_le k)]

/-- Of a handle of another mode than 0x0, the last shift is no point of no return. -/
theorem State.shiftReady_of_mode {t : State} {k : Nat} {h : Fin 32} (bits : Nat) (mode : t.fld (TXN_CTL_MODE h) ≠ 0) :
    (let u := (t.put (LED_SC_STAT_STATE k) 3).setChain k
      { t.chain k with shifted := true, ck := false, dout := bits.testBit 0 }
    let left := (u.hnd h).shifting.filter (· != k)
    u.setHnd h { u.hnd h with
      shifting := left, noRet := (u.hnd h).noRet || (left.isEmpty && u.fld (TXN_CTL_MODE h) == 0) }) =
      t.shiftReady k h bits := by
  have untimed : ((t.put (LED_SC_STAT_STATE k) 3).fld (TXN_CTL_MODE h) == 0) = false := by
    rw [State.put_led_ctlMode t 3 h (ledChainStat_le k)]
    exact beq_eq_false_iff_ne.2 mode
  simp only [setChain_fld, untimed, Bool.and_false, Bool.or_false]
  rfl

/-- A chain ends its shift for a handle of another mode than 0x0, whose point of no return is elsewhere. -/
theorem execStitchShiftEnd_of_shifting {s : State} {k : Fin 2} {h : Fin 32} {b n v : Nat} (x : Nat)
    (armed : (s.chain k).armed = some (h.val, b, n, v)) (shifts : s.fld (LED_SC_STAT_STATE k) = 2)
    (mode : s.fld (TXN_CTL_MODE h) ≠ 0) :
    execStitchShiftEnd k x false s =
      .next ((if s.shiftMismatches k n x then s.recordMismatch k else s).shiftReady k h v) := by
  have kept : ∀ bad : Bool,
      ((if bad then s.recordMismatch k else s).chain k).armed = some (h.val, b, n, v) ∧
        (if bad then s.recordMismatch k else s).fld (TXN_CTL_MODE h) ≠ 0
    | false => ⟨armed, mode⟩
    | true => ⟨armed, (s.recordMismatch_ctlMode k h).trans_ne mode⟩
  unfold State.recordMismatch at kept ⊢
  rw [execStitchShiftEnd, armed]
  simp only [shifts, bne_self_eq_false, Bool.false_eq_true, if_false, State.when]
  generalize guard : (s.flag (LED_SC_CFG_VERIFY k) && (s.chain k).shifted && _) = bad
  have compared : s.shiftMismatches k n x = bad := by
    rw [← guard, State.shiftMismatches]
    cases (s.chain k).last <;> rfl
  obtain ⟨stillArmed, otherMode⟩ := kept bad
  rw [compared, ← State.shiftReady_of_mode v otherMode]
  simp only [stillArmed]

/-! The point of no return and the window. -/

theorem execPointOfNoReturn_passes {s : State} {h : Fin 32} (armed : s.txState h = txArmed)
    (timed : 2 ≤ s.fld (TXN_CTL_MODE h)) (early : (s.hnd h).noRet = false) (good : s.timeErrorBad = false) :
    execPointOfNoReturn h s = .next (s.setHnd h { s.hnd h with noRet := true }) := by
  simp [execPointOfNoReturn, armed, timed, early, good]

theorem execPointOfNoReturn_expires {s : State} {h : Fin 32} (armed : s.txState h = txArmed)
    (mode : s.fld (TXN_CTL_MODE h) = 3) (early : (s.hnd h).noRet = false) (bad : s.timeErrorBad = true) :
    execPointOfNoReturn h s = .next (s.refuseAll h istatExpired true) := by
  simp [execPointOfNoReturn, armed, mode, early, bad]

theorem execItemWindowEnd_of_mem {s : State} {h : Fin 32} {i : Fin 64} (window : i.val ∈ (s.hnd h).window) :
    execItemWindowEnd h i s = .next (s.endItem h i (if (s.hnd h).lateCancel then istatLate else istatOk)) := by
  simp [execItemWindowEnd, window]

/-! Commit notices. -/

/-- COUNT and GROUP of TXN_NTX are written. -/
def State.ntxWritten (s : State) (v : BitVec 64) : State :=
  (s.put TXN_NTX_COUNT (TXN_NTX_COUNT.of v)).put TXN_NTX_GROUP (TXN_NTX_GROUP.of v)

/-- The notice that the notice registers describe (spec/01, R45). -/
def State.ntxNotice (s : State) : Notice :=
  ⟨BitVec.ofNat 16 (s.fld TXN_NTX_GROUP), BitVec.ofNat 32 (s.fld TXN_NTXTIME_TIME), BitVec.ofNat 14 (s.fld TXN_CFG_NODE),
    s.noticeNodes (s.fld TXN_NTX_COUNT)⟩

theorem State.ntxWritten_recov (s : State) (v : BitVec 64) :
    (s.ntxWritten v).flag FCU_STAT_RECOV = s.flag FCU_STAT_RECOV := by
  rw [State.flag, State.ntxWritten, fld_put_addr _ _ _ _ (by decide), fld_put_addr _ _ _ _ (by decide)]
  rfl

/-- A notice of a count that a notice can have leaves the device, and comes back by loopback where it names this node. -/
theorem State.noticeSend_of_count {s : State} {m : Master} {v : BitVec 64} (recov : s.flag FCU_STAT_RECOV = false)
    (send : TXN_NTX_SEND.of v = 1) (least : 1 ≤ (s.ntxWritten v).fld TXN_NTX_COUNT)
    (most : (s.ntxWritten v).fld TXN_NTX_COUNT ≤ 48) :
    s.noticeSend m v =
      let n := (s.ntxWritten v).ntxNotice
      let u := (s.ntxWritten v).send (.notice n)
      let w := if u.netReadyDom then u.gweSendNotice n else u
      if nodesName (w.fld TXN_CFG_NODE) (n.nodes.map BitVec.toNat) then w.noticeRx (if m = .host then 0x1F else 0x14) n
      else w := by
  have sends : (TXN_NTX_SEND.of v == 1 && 1 ≤ (s.ntxWritten v).fld TXN_NTX_COUNT &&
      (s.ntxWritten v).fld TXN_NTX_COUNT ≤ 48 && !(s.ntxWritten v).flag FCU_STAT_RECOV) = true := by
    simp [send, least, most, ntxWritten_recov, recov]
  have port : (if m == .host then 0x1F else 0x14) = if m = .host then 0x1F else 0x14 := by simp only [beq_iff_eq]
  rw [← port]
  exact if_pos sends

/-- The handles that wait for a notice of a group (spec/01, R43). -/
def State.groupWaiting (s : State) (g : Nat) : List Nat :=
  allHandles.filter fun h => s.txState h == txWaitNotice && s.fld (TXN_CTL_MODE h) == 3 && s.fld (TXN_CTL_GROUP h) == g

theorem State.groupWaiting_isEmpty {s : State} {g : Nat} (waiting : ∃ h ∈ allHandles, s.txState h = txWaitNotice ∧
    s.fld (TXN_CTL_MODE h) = 3 ∧ s.fld (TXN_CTL_GROUP h) = g) : (s.groupWaiting g).isEmpty = false := by
  obtain ⟨h, hh, state, mode, group⟩ := waiting
  have mem : h ∈ s.groupWaiting g := List.mem_filter.2 ⟨hh, by simp [state, mode, group]⟩
  exact List.isEmpty_eq_false_iff.2 (List.ne_nil_of_mem mem)

/-- A notice that names this node gives its time to the handles of its group that wait. -/
theorem State.noticeRx_of_waiting {s : State} {p : Nat} {n : Notice} (recov : s.flag FCU_STAT_RECOV = false)
    (enabled : s.flag TXN_CFG_NOTICE_EN = true) (listed : n.nodes ≠ []) (fits : n.nodes.length ≤ 48)
    (ok : nodesOk (n.nodes.map BitVec.toNat) = true) (allowed : s.familyAllows famNotice (s.portClass p) = true)
    (named : nodesName (s.fld TXN_CFG_NODE) (n.nodes.map BitVec.toNat) = true)
    (waiting : ∃ h ∈ allHandles, s.txState h = txWaitNotice ∧ s.fld (TXN_CTL_MODE h) = 3 ∧
      s.fld (TXN_CTL_GROUP h) = n.group.toNat) :
    s.noticeRx p n = s.each (s.groupWaiting n.group.toNat) fun h t =>
      ((t.put (TXN_TIME_TIME h) n.time.toNat).put (TXN_STAT_STATE h) txValidating).finishChecks h fun _ => 0 := by
  have notEmpty := groupWaiting_isEmpty waiting
  unfold State.groupWaiting at notEmpty ⊢
  simp [State.noticeRx, recov, enabled, listed, fits, ok, allowed, named, notEmpty]

end Sys2Proof.Machine
end

section
/-! THEOREMS. The obligations of the family of spec/01: the owner's accesses to a handle, and the events of handles. -/

namespace Sys2Proof.Machine

/-- Settles O1: each access reaches the TXN block and is its owner's. -/
theorem txnOwnerCommandsComplete : Obligations.TxnOwnerCommandsComplete := by
  refine ⟨?alloc, ?free, ?slot, ?ctl, ?time, ?commit, ?cancel, ?late⟩
  case alloc =>
    exact fun s m h reached running free =>
      congrArg Host.Outcome.next ((access_open reached).trans (State.allocRead_of_free running free))
  case free =>
    exact fun s m h reached own staged =>
      congrArg Host.Outcome.next ((access_open reached).trans (State.freeWrite_of_owner own staged))
  case slot =>
    exact fun s m h i v reached own staged =>
      congrArg Host.Outcome.next ((access_open reached).trans (State.stagingWrite_slot own staged i v))
  case ctl =>
    exact fun s m h v reached own staged count =>
      congrArg Host.Outcome.next ((access_open reached).trans (State.stagingWrite_ctl own staged count))
  case time =>
    exact fun s m h v reached own staged =>
      congrArg Host.Outcome.next ((access_open reached).trans (State.timeWrite_w64 own staged v))
  case commit =>
    exact fun s m h reached own staging =>
      congrArg Host.Outcome.next ((access_open reached).trans (State.commitWrite_of_staging own staging))
  case cancel =>
    intro s m h reached own waits early alone
    exact congrArg Host.Outcome.next ((access_open reached).trans
      ((State.cancelWrite_of_owner own).trans (State.cancelHandle_of_waiting waits early alone)))
  case late =>
    intro s m h reached own applied
    exact congrArg Host.Outcome.next ((access_open reached).trans
      ((State.cancelWrite_of_owner own).trans (State.cancelHandle_of_applied applied)))

/-- Settles O2: each event has its effect where the handle waits for it. -/
theorem txnEventsComplete : Obligations.TxnEventsComplete := by
  refine ⟨?armed, ?discard, ?uncompared, ?same, ?mismatch, ?passes, ?expires, ?edge, ?window, ?send, ?notice⟩
  case armed => exact fun s h validating shadow up clock alone => execTxnArmed_alone validating shadow up clock alone
  case discard => exact fun s h crc validating shadow alone => execShadowDiscard_alone validating shadow rfl alone
  case uncompared =>
    intro s k h b n v x armed shifts uncompared mode
    refine (execStitchShiftEnd_of_shifting x armed shifts mode).trans ?_
    rw [State.shiftMismatches_uncompared n x uncompared]
    rfl
  case same =>
    intro s k h b n v x w c armed shifts verify shifted last same mode
    have returned : returnedMatches x n w c = true := beq_iff_eq.2 same
    refine (execStitchShiftEnd_of_shifting x armed shifts mode).trans ?_
    rw [State.shiftMismatches_of_last n x verify shifted last, returned]
    rfl
  case mismatch =>
    intro s k h b n v x w c armed shifts verify shifted last differ mode
    have returned : returnedMatches x n w c = false := beq_eq_false_iff_ne.2 differ
    refine (execStitchShiftEnd_of_shifting x armed shifts mode).trans ?_
    rw [State.shiftMismatches_of_last n x verify shifted last, returned]
    rfl
  case passes => exact fun s h armed timed early good => execPointOfNoReturn_passes armed timed early good
  case expires => exact fun s h armed mode early bad => execPointOfNoReturn_expires armed mode early bad
  case edge => exact fun s hs => rfl
  case window => exact fun s h i window => execItemWindowEnd_of_mem window
  case send =>
    exact fun s m v reached recov send least most =>
      congrArg Host.Outcome.next ((access_open reached).trans (State.noticeSend_of_count recov send least most))
  case notice =>
    intro s p n net recov enabled listed fits ok allowed named waiting
    exact congrArg Host.Outcome.next
      ((if_pos net).trans (State.noticeRx_of_waiting recov enabled listed fits ok allowed named waiting))

end Sys2Proof.Machine
end

section
/-!
SUPPORT. What an event of an output block leaves alone: memory, flash, the cores, the mailboxes and the registers of every
other block.
-/

namespace Sys2Proof.Machine

/-- From `s` to `t` nothing changed in memory, flash, the cores, the mailboxes and the registers outside block `b`, whose
registers are those of one 64 KiB page of the address map. -/
structure State.SparesOutside (s : State) (b : Nat) (t : State) : Prop where
  mem : t.mem = s.mem
  flash : t.flash = s.flash
  cpu : t.cpu = s.cpu
  mbx : t.mbx = s.mbx
  reg : ∀ a, a / 0x10000 ≠ b → t.reg a = s.reg a

/-- The same of an outcome, which a command that stops meets. -/
def SparesOut (s : State) (b : Nat) : Out → Prop
  | .next t => s.SparesOutside b t
  | _ => True

theorem SparesOut.elim {s t : State} {b : Nat} {o : Out} (h : SparesOut s b o) (e : o = .next t) :
    s.SparesOutside b t := by
  subst e; exact h

namespace State.SparesOutside

theorem refl (s : State) (b : Nat) : s.SparesOutside b s := ⟨rfl, rfl, rfl, rfl, fun _ _ => rfl⟩

variable {s r t : State} {b : Nat}

/-- A change of other parts of the state than these. -/
theorem congr (h : s.SparesOutside b r) (regs : t.regs = r.regs) (mem : t.mem = r.mem) (flash : t.flash = r.flash)
    (cpu : t.cpu = r.cpu) (mbx : t.mbx = r.mbx) : s.SparesOutside b t :=
  ⟨mem.trans h.mem, flash.trans h.flash, cpu.trans h.cpu, mbx.trans h.mbx, fun a ha =>
    (congrArg (tget (regReset a) · a) regs).trans (h.reg a ha)⟩

/-- A field of a register of the block is set. -/
theorem put {f : Fld} (h : s.SparesOutside b r) (x : Nat) (hf : f.addr / 0x10000 = b := by rfl) :
    s.SparesOutside b (r.put f x) :=
  ⟨h.mem, h.flash, h.cpu, h.mbx, fun a ha =>
    (r.reg_put_ne x fun e => ha ((congrArg (· / 0x10000) e).trans hf)).trans (h.reg a ha)⟩

theorem when {c : Bool} {f : State → State} (h : s.SparesOutside b r) (hf : s.SparesOutside b (f r)) :
    s.SparesOutside b (r.when c f) := by
  unfold State.when; split
  · exact hf
  · exact h

theorem raiseP (h : s.SparesOutside b r) (src : Nat) : s.SparesOutside b (r.raiseP src) := by
  unfold State.raiseP; split
  · exact h.congr rfl rfl rfl rfl rfl
  · exact h.congr rfl rfl rfl rfl rfl

end State.SparesOutside

theorem ite_sparesOut {s : State} {b : Nat} {p q : Out} {c : Prop} [Decidable c] (hp : SparesOut s b p)
    (hq : SparesOut s b q) : SparesOut s b (if c then p else q) := by
  split
  · exact hp
  · exact hq

/-! The pages of the registers that the events set. -/

theorem hswStat_page (n : Fin 64) : HSW_STAT n / 0x10000 = 0x4001 := by have := n.isLt; unfold HSW_STAT; omega

theorem hswAmb_page (k : Fin 4) : HSW_AMB k / 0x10000 = 0x4001 := by have := k.isLt; unfold HSW_AMB; omega

theorem ledStat_page (n : Fin 48) : LED_STAT n / 0x10000 = 0x4003 := by have := n.isLt; unfold LED_STAT; omega

theorem State.vlvLead_le (s : State) (c : Nat) : s.vlvLead c ≤ c := by unfold State.vlvLead; split <;> omega

theorem vlvStat_lead_page (s : State) (c : Fin 24) : VLV_STAT (s.vlvLead c) / 0x10000 = 0x4002 := by
  have := c.isLt
  have := s.vlvLead_le c
  unfold VLV_STAT; omega

/-! The events. -/

open State.SparesOutside (refl)

theorem execOcBlankEnd_spares (n : Fin 64) (s : State) : SparesOut s 0x4001 (execOcBlankEnd n s) :=
  (refl s _).congr rfl rfl rfl rfl rfl

theorem execTclr_spares (n : Fin 64) (s : State) : SparesOut s 0x4001 (execTclr n s) :=
  (refl s _).put _ (hswStat_page n)

theorem execAmbStale_spares (k : Fin 4) (s : State) : SparesOut s 0x4001 (execAmbStale k s) :=
  ite_sparesOut (((refl s _).put _ (hswAmb_page k)).put _) (refl s _)

theorem execOffdiagStart_spares (n : Fin 64) (s : State) : SparesOut s 0x4001 (execOffdiagStart n s) :=
  ite_sparesOut ((refl s _).congr rfl rfl rfl rfl rfl) (refl s _)

theorem execDiagStretch_spares (n : Fin 64) (s : State) : SparesOut s 0x4001 (execDiagStretch n s) :=
  ite_sparesOut ((refl s _).congr rfl rfl rfl rfl rfl) (refl s _)

theorem State.setVbst_spares (s : State) (v : Nat) : s.SparesOutside 0x4002 (s.setVbst v) :=
  ((refl s _).put _).put _

/-- A fault of the boost supply is flagged and raised (spec/04, R120). -/
theorem boostFault_spares {s r : State} {f : Fld} (h : s.SparesOutside 0x4002 r) (hf : f.addr = VLV_BSTAT) :
    s.SparesOutside 0x4002 (((r.raiseBit f).raiseBit VLV_IRQ_BST_FAULT).raiseP 108) :=
  ((h.put 1 (congrArg (· / 0x10000) hf)).put 1).raiseP 108

theorem execVbstOvRecover_spares (v : BitVec 16) (s : State) : SparesOut s 0x4002 (execVbstOvRecover v s) :=
  ite_sparesOut ((s.setVbst_spares _).congr rfl rfl rfl rfl rfl) (s.setVbst_spares _)

theorem execVbstOvervoltage_spares (v : BitVec 16) (s : State) : SparesOut s 0x4002 (execVbstOvervoltage v s) :=
  ite_sparesOut (boostFault_spares ((s.setVbst_spares _).congr rfl rfl rfl rfl rfl) rfl) (s.setVbst_spares _)

theorem execVbstUndervoltage_spares (v : BitVec 16) (s : State) : SparesOut s 0x4002 (execVbstUndervoltage v s) :=
  ite_sparesOut (boostFault_spares (s.setVbst_spares _) rfl) (s.setVbst_spares _)

theorem execPeakEnd_spares (c : Fin 24) (s : State) : SparesOut s 0x4002 (execPeakEnd c s) :=
  ite_sparesOut ((refl s _).put _ (vlvStat_lead_page s c)) (refl s _)

theorem execClampEnergyLimit_spares (c : Fin 24) (s : State) : SparesOut s 0x4002 (execClampEnergyLimit c s) :=
  ite_sparesOut ((refl s _).congr rfl rfl rfl rfl rfl) (refl s _)

theorem State.markOff_spares {s r : State} {p : Nat} (h : s.SparesOutside p r) (b : OutBlock) (c : Nat) :
    s.SparesOutside p (r.markOff b c) := h.congr rfl rfl rfl rfl rfl

theorem execValveReleaseDone_spares (c : Fin 24) (s : State) : SparesOut s 0x4002 (execValveReleaseDone c s) :=
  ite_sparesOut (((State.markOff_spares (refl s _) .vlv (s.vlvLead c)).put _ (vlvStat_lead_page s c)).congr
    rfl rfl rfl rfl rfl) (refl s _)

theorem State.vledFault_spares {s r : State} {f : Fld} (h : s.SparesOutside 0x4003 r) (hf : f.addr = LED_VSTAT) :
    s.SparesOutside 0x4003 (r.vledFault f) :=
  ((h.put 1 (congrArg (· / 0x10000) hf)).put 1).raiseP 160

theorem State.putVled_spares (s : State) (v : Nat) : s.SparesOutside 0x4003 (s.put LED_VSTAT_VLED v) :=
  (refl s _).put v

theorem execVledOvervoltage_spares (v : BitVec 16) (s : State) : SparesOut s 0x4003 (execVledOvervoltage v s) :=
  ite_sparesOut (State.vledFault_spares ((s.putVled_spares _).congr rfl rfl rfl rfl rfl) rfl) (s.putVled_spares _)

theorem execVledOvRecover_spares (v : BitVec 16) (s : State) : SparesOut s 0x4003 (execVledOvRecover v s) :=
  ite_sparesOut ((s.putVled_spares _).congr rfl rfl rfl rfl rfl) (s.putVled_spares _)

theorem execVledUndervoltage_spares (v : BitVec 16) (s : State) : SparesOut s 0x4003 (execVledUndervoltage v s) :=
  ite_sparesOut (State.vledFault_spares (s.putVled_spares _) rfl) (s.putVled_spares _)

theorem execVledOvercurrent_spares (s : State) : SparesOut s 0x4003 (execVledOvercurrent s) :=
  State.vledFault_spares (refl s _) rfl

theorem State.stopFade_spares {s r : State} (h : s.SparesOutside 0x4003 r) (n : Fin 48) :
    s.SparesOutside 0x4003 (r.stopFade n) :=
  have unset : s.SparesOutside 0x4003 (r.setFade n none) := h.congr rfl rfl rfl rfl rfl
  unset.put _ (ledStat_page n)

/-- A step of a fade is noted with its level (spec/05, R145). -/
theorem State.fadeStepped_spares (s : State) (n : Fin 48) (k level : Nat) :
    s.SparesOutside 0x4003 ((s.put (LED_STAT_FSTEP n) k).put (LED_STAT_LEVEL n) level) :=
  ((refl s _).put k (ledStat_page n)).put level (ledStat_page n)

/-- A fade steps, or with its last step ends and flags its end. -/
theorem execFadeStep_spares (n : Fin 48) (s : State) : SparesOut s 0x4003 (execFadeStep n s) := by
  unfold execFadeStep
  split
  · exact refl s _
  · have stepped := s.fadeStepped_spares n
    dsimp only
    split
    · have done : (LED_FDONE_FDONE.bit n).addr = LED_FDONE := rfl
      exact (State.stopFade_spares ((stepped _ _).when (State.markOff_spares (stepped _ _) .led n)) n).put 1
        (congrArg (· / 0x10000) done)
    · exact stepped _ _

end Sys2Proof.Machine
end

section
/-! SUPPORT. Trips, retries and the steps of the high-side channels (spec/02, R63, R68, R71–R83; spec/15, R386, R402). -/

namespace Sys2Proof.Machine

/-- The three classes of channels (spec/02, R54). -/
theorem hswClass_cases (n : Nat) : hswClass n = 0 ∨ hswClass n = 1 ∨ hswClass n = 2 := by
  unfold hswClass; split_ifs <;> simp

theorem iLim_eq (n : Nat) :
    iLim n = if hswClass n = 0 then 140000 else if hswClass n = 1 then 60000 else 18000 := by
  rcases hswClass_cases n with h | h | h <;> simp [iLim, h]

theorem scTime_eq (n : Nat) :
    scTime n = if hswClass n = 0 then 30000 else if hswClass n = 1 then 20000 else 15000 := by
  rcases hswClass_cases n with h | h | h <;> simp [scTime, h]

/-- The OC thresholds of a class, by OC_SEL (spec/02, R71). -/
theorem ocThreshold_map (n : Nat) :
    [0, 1, 2, 3].map (ocThreshold n) =
      if hswClass n = 0 then [40000, 60000, 80000, 100000]
      else if hswClass n = 1 then [16000, 24000, 32000, 48000] else [5000, 7000, 10000, 14000] := by
  rcases hswClass_cases n with h | h | h <;> simp [ocThreshold, h]

/-- A channel whose rule is not met does not trip. -/
theorem State.tripIf_false (s : State) (n cause : Nat) : s.tripIf n cause false = s := by simp [State.tripIf]

section Channel

variable {s : State} {n : Fin 64}

/-- A conducting channel whose rule is met trips. -/
theorem State.tripIf_of_conducting {cause : Nat} {met : Bool} (out : s.flag (HSW_STAT_OUT (s.hswLead n)) = true)
    (hm : met = true) : s.tripIf n cause met = s.hswTrip n cause := by
  simp [State.tripIf, out, hm]

theorem execScTrip_of_limited {load time : BitVec 32} (out : s.flag (HSW_STAT_OUT (s.hswLead n)) = true)
    (above : s.pairTimes n * iLim n < load.toNat) (long : scTime n < time.toNat) :
    execScTrip ⟨n, load, time⟩ s = .next (s.hswTrip n 1) :=
  congrArg Host.Outcome.next (State.tripIf_of_conducting out (by simp [above, long]))

theorem execScTrip_of_within {load time : BitVec 32}
    (within : load.toNat ≤ s.pairTimes n * iLim n ∨ time.toNat ≤ scTime n) :
    execScTrip ⟨n, load, time⟩ s = .next s := by
  have unmet : (decide (s.pairTimes n * iLim n < load.toNat) && decide (scTime n < time.toNat)) = false := by
    rcases within with h | h <;> simp [h]
  exact congrArg Host.Outcome.next ((congrArg _ unmet).trans (s.tripIf_false n 1))

theorem execOcTrip_of_above {load time : BitVec 32} (out : s.flag (HSW_STAT_OUT (s.hswLead n)) = true)
    (unblanked : (s.hsc (s.hswLead n)).blank = false)
    (above : s.pairTimes n * ocThreshold n (s.cfld (HSW_PROT_OC_SEL (s.hswLead n))) < load.toNat) :
    execOcTrip ⟨n, load, time⟩ s = .next (s.hswTrip n 2) :=
  congrArg Host.Outcome.next (State.tripIf_of_conducting out (by simp [above, unblanked]))

theorem execOcTrip_of_within {load time : BitVec 32} (within : (s.hsc (s.hswLead n)).blank = true ∨
      load.toNat ≤ s.pairTimes n * ocThreshold n (s.cfld (HSW_PROT_OC_SEL (s.hswLead n)))) :
    execOcTrip ⟨n, load, time⟩ s = .next s := by
  have unmet : (decide (s.pairTimes n * ocThreshold n (s.cfld (HSW_PROT_OC_SEL (s.hswLead n))) < load.toNat) &&
      !(s.hsc (s.hswLead n)).blank) = false := by
    rcases within with h | h <;> simp [h]
  exact congrArg Host.Outcome.next ((congrArg _ unmet).trans (s.tripIf_false n 2))

/-- The retry of a channel still committed on counts, and lets it conduct again (spec/02, R75). -/
theorem execRetryAttempt_of_committed (waits : s.flag (HSW_STAT_RWAIT n) = true)
    (unlatched : s.flag (HSW_STAT_LATCH n) = false) (calm : s.s4 = false)
    (committed : ((s.putB (HSW_STAT_RWAIT n) false).endPulse .hsw n).flag (HSW_STAT_STATIC n) = true) :
    execRetryAttempt n s =
      let t := (s.putB (HSW_STAT_RWAIT n) false).endPulse .hsw n
      .next (((t.incSat (HSW_STAT_RETRY_CNT n)).setHsc n { t.hsc n with tripped := false }).hswEval n) := by
  have due : (s.flag (HSW_STAT_RWAIT n) && !s.flag (HSW_STAT_LATCH n) && !s.s4) = true := by
    simp [waits, unlatched, calm]
  exact (if_pos due).trans (if_pos committed)

theorem execRetryCountClear_of_clean (service : s.hswInService (s.hswLead n) = true)
    (cool : s.hswCool (s.hswLead n) = true) (clean : s.cleanSecond (s.hswLead n) = true) :
    execRetryCountClear n s = .next (s.put (HSW_STAT_RETRY_CNT (s.hswLead n)) 0) :=
  if_pos (by simp [service, cool, clean])

theorem execAmbStale_of_fresh {k : Fin 4} (awake : s.pstate ≤ 1) (fresh : s.flag (HSW_AMB_STALE k) = false) :
    execAmbStale k s = .next ((s.raiseBit (HSW_AMB_STALE k)).raiseBit HSW_IRQ_AMB_STALE) :=
  if_pos (by simp [awake, fresh])

end Channel

end Sys2Proof.Machine
end

section
/-! THEOREMS. The obligations of the family of spec/02: feeds, trips, the wire model and the frame of output events. -/

namespace Sys2Proof.Machine

/-- Settles O3: each command has its effect where its rule's condition holds. -/
theorem hswTripCommandsComplete : Obligations.HswTripCommandsComplete := by
  refine ⟨?lostA, ?lostB, ?restored, ?limits, ?limited, ?unlimited, ?above, ?within, ?blank, ?hot, ?retry, ?clean, ?start,
    ?rclr, ?tclr⟩
  case lostA | lostB => exact fun s => rfl
  case restored => exact fun s f => rfl
  case limits => exact fun s n => ⟨iLim_eq n, scTime_eq n, ocThreshold_map n⟩
  case limited => exact fun _ _ _ _ => execScTrip_of_limited
  case unlimited => exact fun _ _ _ _ => execScTrip_of_within
  case above => exact fun _ _ _ _ => execOcTrip_of_above
  case within => exact fun _ _ _ _ => execOcTrip_of_within
  case blank => exact fun s n => rfl
  case hot => exact fun s n out => congrArg Host.Outcome.next (State.tripIf_of_conducting out rfl)
  case retry => exact fun _ _ => execRetryAttempt_of_committed
  case clean => exact fun _ _ => execRetryCountClear_of_clean
  case start => exact fun s n => rfl
  case rclr => exact fun s m n reached own => congrArg Host.Outcome.next ((access_open reached).trans (if_pos own))
  case tclr => exact fun s n => rfl

/-- Settles O4: each step is what its command does, and each event has its effect where its condition holds. -/
theorem hswStepsComplete : Obligations.HswStepsComplete := by
  refine ⟨?wire, ?stale, ?govern, ?inrush, ?off, ?recover, ?ended, ?started⟩
  case wire => exact fun s td sense => rfl
  case stale => exact fun _ _ => execAmbStale_of_fresh
  case govern => exact fun s p ia ib => (apply_ite Host.Outcome.next _ _ _).symm
  case inrush => exact fun s => rfl
  case off => exact fun s n out => if_pos out
  case recover => exact fun s n off => if_pos off
  case ended => exact fun s high => if_pos high
  case started => exact fun s => rfl

/-- Settles O60: each event sets registers of its own block's page and records of the block. -/
theorem outputEventFrame : Obligations.OutputEventFrame := by
  intro s t n c l b v
  have frame : ∀ {o p}, SparesOut s p o → o = .next t → t.mem = s.mem ∧
      t.flash = s.flash ∧ t.cpu = s.cpu ∧ t.mbx = s.mbx ∧ ∀ a, a / 0x10000 ≠ p → t.reg a = s.reg a := fun h e =>
    have spared := h.elim e
    ⟨spared.mem, spared.flash, spared.cpu, spared.mbx, spared.reg⟩
  simp only [List.forall_mem_cons, List.not_mem_nil, false_imp_iff, implies_true, and_true]
  exact ⟨frame (execOcBlankEnd_spares n s), frame (execTclr_spares n s), frame (execAmbStale_spares b s),
    frame (execOffdiagStart_spares n s), frame (execDiagStretch_spares n s), frame (execVbstOvRecover_spares v s),
    frame (execVbstOvervoltage_spares v s), frame (execVbstUndervoltage_spares v s), frame (execPeakEnd_spares c s),
    frame (execClampEnergyLimit_spares c s), frame (execValveReleaseDone_spares c s),
    frame (execVledOvervoltage_spares v s), frame (execVledOvRecover_spares v s),
    frame (execVledUndervoltage_spares v s), frame (execVledOvercurrent_spares s), frame (execFadeStep_spares l s)⟩

end Sys2Proof.Machine
end

section
/-! SUPPORT. The sense ADCs: what starts a sequence, and how its conversions end (spec/03, R88–R91). -/

namespace Sys2Proof.Machine

section SenseAdc

variable {s : State} {a : Fin 4}

/-- A trigger starts an idle sequence at entry 0, with the present time. -/
theorem State.saStart_of_idle (free : s.saBarred = false) (idle : (s.adc a).running = none) :
    s.saStart a = s.setAdc a { s.adc a with running := some 0, stamp := s.ntuNs } := by
  simp [State.saStart, free, idle]

/-- The same where the trigger changes its own mark first. -/
theorem State.setAdc_saStart {x : SenseAdc} (free : s.saBarred = false) (idle : x.running = none) :
    (s.setAdc a x).saStart a = (s.setAdc a x).setAdc a { x with running := some 0, stamp := s.ntuNs } := by
  have started := saStart_of_idle (s := s.setAdc a x) (a := a) free ((congrArg _ (adc_setAdc s a x)).trans idle)
  rwa [adc_setAdc] at started

theorem State.saGo_of_idle (trig : s.fld (PDI_SACFG_TRIG a) = 1) (free : s.saBarred = false)
    (idle : (s.adc a).running = none) :
    s.saGo a = s.setAdc a { s.adc a with running := some 0, stamp := s.ntuNs } :=
  (if_pos (beq_iff_eq.2 trig)).trans (saStart_of_idle free idle)

theorem execSaCounterTrigger_of_idle (trig : s.fld (PDI_SACFG_TRIG a) = 2) (event : (s.adc a).event = true)
    (free : s.saBarred = false) (idle : (s.adc a).running = none) :
    execSaCounterTrigger a s =
      .next ((s.setAdc a { s.adc a with event := false }).setAdc a
        { s.adc a with event := false, running := some 0, stamp := s.ntuNs }) :=
  (if_pos (by simp [trig, event])).trans (congrArg Host.Outcome.next (State.setAdc_saStart free idle))

/-- An armed time trigger acts at its time. -/
theorem execSaTimeTrigger_of_idle (trig : s.fld (PDI_SACFG_TRIG a) = 3) (armed : (s.adc a).armed = true)
    (due : s.timeDelta (s.fld (PDI_SATIME_TIME a)) = 0) (free : s.saBarred = false)
    (idle : (s.adc a).running = none) :
    execSaTimeTrigger a s =
      .next ((s.setAdc a { s.adc a with armed := false }).setAdc a
        { s.adc a with armed := false, running := some 0, stamp := s.ntuNs }) :=
  (if_pos (by simp [trig, armed, due])).trans (congrArg Host.Outcome.next (State.setAdc_saStart free idle))

/-- A conversion of a defined input, whose entry holds no unread result, writes its result; then the next entry starts,
or under TRIG 0x4 the next sequence. -/
theorem execSaConversionDone_of_running {v : BitVec 12} {j : Nat} (runs : (s.adc a).running = some j)
    (unread : s.flag (PDI_SARES_VALID a j) = false) (defined : saCodeOk (s.saInput a j) = true) :
    execSaConversionDone a v s =
      let t := (s.raiseBit (PDI_SARES_VALID a j)).put (PDI_SARES_STAMP a j) (s.adc a).stamp
      let t := (t.put (PDI_SARES_INPUT a j) (s.saInput a j)).put (PDI_SARES_VALUE a j) v.toNat
      .next (t.setAdc a { s.adc a with
        running := if j + 1 < t.saLen a then some (j + 1)
          else if t.fld (PDI_SACFG_TRIG a) == 4 && !t.saBarred then some 0 else none
        stamp := t.ntuNs }) := by
  simp only [execSaConversionDone, runs, unread, defined, Bool.not_true, Bool.or_false, State.when, Bool.false_eq_true,
    if_false, if_true]

/-- A converter that fails leaves the rotation, which four or fewer degrade. -/
theorem execSaCalFail_of_rotating {p : Fin 5} (rotates : s.flag (PDI_SACAL_INROT.bit p) = true)
    (whole : s.flag PDI_SACAL_DEGRADED = false) :
    execSaCalFail p s =
      let t := (s.put (PDI_SACAL_INROT.bit p) 0).raiseBit PDI_IRQ_SACAL
      .next (if popcount (t.fld PDI_SACAL_INROT) ≤ 4 then (t.raiseBit PDI_SACAL_DEGRADED).raiseP 73 else t) :=
  (if_pos (by simp [rotates, whole])).trans (apply_ite Host.Outcome.next _ _ _).symm

end SenseAdc

end Sys2Proof.Machine
end

section
/-! SUPPORT. On-state and off-state diagnosis of a high-side channel (spec/03, R92–R97). -/

namespace Sys2Proof.Machine

/-- What a check found is evidence; 0 says that it found nothing. -/
def State.hswFinding (s : State) (n kind : Nat) : State := if kind == 0 then s else s.hswEvidence n kind

theorem State.hswFinding_nothing {s : State} {n k : Nat} (found : k = 0) : s.hswFinding n k = s :=
  if_pos (beq_iff_eq.2 found)

theorem State.hswFinding_something {s : State} {n k kind : Nat} (found : k = kind) (evident : kind ≠ 0) :
    s.hswFinding n k = s.hswEvidence n kind := by
  subst found
  exact if_neg (by simpa using evident)

theorem State.hswFinding_ite {s : State} {n k kind : Nat} {c : Prop} [Decidable c] (found : k = if c then kind else 0)
    (evident : kind ≠ 0) : s.hswFinding n k = if c then s.hswEvidence n kind else s := by
  split_ifs at found ⊢
  · exact hswFinding_something found evident
  · exact hswFinding_nothing found

/-- The table of R92: the evidence of an on-state window, by the threshold IOLON in 1/8 A and what the window saw. -/
def ondiagKind (iolon iwin vout feed : Nat) : Nat :=
  if iolon * 128 ≤ iwin * 125 then 1 else if feed ≤ vout + 100 then 2 else if vout < 100 then 5 else 0

/-- The table of R93: the evidence of an off-state diagnosis, by the checks that are on and what it saw. -/
def offdiagKind (openOn stbOn own : Bool) (vOff vOn : Nat) : Nat :=
  if 275 ≤ vOff && own then 6
  else if 275 ≤ vOff && stbOn then 4
  else if openOn && vOn < 100 then 1
  else if openOn && vOn ≤ 275 then 2
  else 0

theorem ondiagKind_of_current {iolon iwin vout feed : Nat} (load : iolon * 128 ≤ iwin * 125) :
    ondiagKind iolon iwin vout feed = 1 := if_pos load

theorem ondiagKind_of_output {iolon iwin vout feed : Nat} (idle : iwin * 125 < iolon * 128)
    (high : feed ≤ vout + 100) : ondiagKind iolon iwin vout feed = 2 :=
  (if_neg (Nat.not_le_of_lt idle)).trans (if_pos high)

theorem ondiagKind_of_drop {iolon iwin vout feed : Nat} (idle : iwin * 125 < iolon * 128) (drop : vout + 100 < feed) :
    ondiagKind iolon iwin vout feed = if vout < 100 then 5 else 0 :=
  (if_neg (Nat.not_le_of_lt idle)).trans (if_neg (Nat.not_le_of_lt drop))

theorem offdiagKind_of_own {vOff : Nat} (openOn stbOn : Bool) (vOn : Nat) (high : 275 ≤ vOff) :
    offdiagKind openOn stbOn true vOff vOn = 6 := by
  simp [offdiagKind, high]

theorem offdiagKind_of_battery {vOff : Nat} (openOn : Bool) (vOn : Nat) (high : 275 ≤ vOff) :
    offdiagKind openOn true false vOff vOn = 4 := by
  simp [offdiagKind, high]

/-- With no voltage at the output, the open-load check alone can find anything. -/
theorem offdiagKind_of_low {vOff : Nat} (openOn stbOn own : Bool) (vOn : Nat) (low : vOff < 275) :
    offdiagKind openOn stbOn own vOff vOn =
      if openOn && vOn < 100 then 1 else if openOn && vOn ≤ 275 then 2 else 0 := by
  simp [offdiagKind, Nat.not_le_of_lt low]

theorem offdiagKind_of_unchecked {vOff : Nat} (stbOn own : Bool) (vOn : Nat) (low : vOff < 275) :
    offdiagKind false stbOn own vOff vOn = 0 := by
  simp [offdiagKind_of_low _ _ _ _ low]

theorem offdiagKind_of_open {vOff vOn : Nat} (stbOn own : Bool) (low : vOff < 275) (least : 100 ≤ vOn)
    (most : vOn ≤ 275) : offdiagKind true stbOn own vOff vOn = 2 := by
  simp [offdiagKind_of_low _ _ _ _ low, Nat.not_lt_of_le least, most]

theorem offdiagKind_of_load {vOff vOn : Nat} (stbOn own : Bool) (low : vOff < 275) (small : vOn < 100) :
    offdiagKind true stbOn own vOff vOn = 1 := by
  simp [offdiagKind_of_low _ _ _ _ low, small]

/-- The configuration of a channel's diagnosis is another register than its state. -/
theorem State.put_dstat_dcfg (s : State) (n : Nat) (f g : Fld) (x : Nat) (hf : f.addr = HSW_DSTAT n)
    (hg : g.addr = HSW_DCFG n) : (s.put f x).flag g = s.flag g := by
  have apart : g.addr ≠ f.addr := by rw [hf, hg]; unfold HSW_DSTAT HSW_DCFG; omega
  rw [State.flag, fld_put_addr s f g x apart, State.flag]

section HswDiagnosis

variable {s : State} {n : Fin 64}

/-- The window of a conducting channel with ONDIAG 1: what it saw, and the evidence of the table. -/
theorem execOndiagWindowEnd_of_on {iw vo fe : BitVec 16} {t : State} (out : s.flag (HSW_STAT_OUT (s.hswLead n)) = true)
    (on : s.flag (HSW_DCFG_ONDIAG (s.hswLead n)) = true)
    (found : ((s.put (HSW_DSTAT_IWIN (s.hswLead n)) iw.toNat).put (HSW_DSTAT_VOUT (s.hswLead n)) vo.toNat).hswFinding
      (s.hswLead n) (ondiagKind (s.fld (HSW_DCFG_IOLON (s.hswLead n))) iw.toNat vo.toNat fe.toNat) = t) :
    execOndiagWindowEnd n iw vo fe s =
      let l := s.hswLead n
      .next ((t.setHsc l { t.hsc l with stretch := false }).hswEval l) := by
  subst found
  simp only [execOndiagWindowEnd, out, on, if_true, decide_eq_true_eq]
  rfl

theorem execOndiagWindowEnd_of_off {iw vo fe : BitVec 16} (out : s.flag (HSW_STAT_OUT (s.hswLead n)) = true)
    (off : s.flag (HSW_DCFG_ONDIAG (s.hswLead n)) = false) :
    execOndiagWindowEnd n iw vo fe s =
      let l := s.hswLead n
      .next ((s.setHsc l { s.hsc l with stretch := false }).hswEval l) := by
  simp [execOndiagWindowEnd, out, off]

theorem execOffdiagStart_of_gap (gap : s.flag (HSW_STAT_OUT (s.hswLead n)) = false)
    (periodic : s.fld (HSW_DCFG_DPER (s.hswLead n)) ≠ 0)
    (may : s.pstate ≤ 1 ∨ s.flag (HSW_STAT_LIMP (s.hswLead n)) = true) :
    execOffdiagStart n s = .next (s.setHsc (s.hswLead n) { s.hsc (s.hswLead n) with offDiag := true }) :=
  if_pos (by simp [gap, periodic, may])

/-- An off-state diagnosis that runs ends: the voltage at its last check, and the evidence of the table. -/
theorem execOffdiagResult_of_running {a b : BitVec 16} {own openOn : Bool} {volt : Nat} {t : State}
    (runs : (s.hsc (s.hswLead n)).offDiag = true) (checked : s.flag (HSW_DCFG_OFFDIAG (s.hswLead n)) = openOn)
    (last : (if openOn then b.toNat else a.toNat) = volt)
    (found : ((s.setHsc (s.hswLead n) { s.hsc (s.hswLead n) with offDiag := false }).put
      (HSW_DSTAT_VOUT (s.hswLead n)) volt).hswFinding (s.hswLead n)
        (offdiagKind openOn (s.flag (HSW_DCFG_STBEN (s.hswLead n))) own a.toNat b.toNat) = t) :
    execOffdiagResult n a b own s = .next t := by
  subst found last
  have kept := State.put_dstat_dcfg (s.setHsc (s.hswLead n) { s.hsc (s.hswLead n) with offDiag := false })
    (s.hswLead n) (HSW_DSTAT_VOUT (s.hswLead n)) (HSW_DCFG_STBEN (s.hswLead n))
  simp only [execOffdiagResult, runs, if_true, kept _ rfl rfl, State.setHsc_flag, checked]
  rfl

theorem execDiagStretch_of_short (may : s.flag (HSW_DCFG_STRETCH n) = true) (driven : s.counterDriven n = true)
    (out : s.flag (HSW_STAT_OUT n) = true) (short : s.pulseCycles n < 5000) :
    execDiagStretch n s = .next (s.setHsc n { s.hsc n with stretch := true }) :=
  if_pos (by simp [may, driven, out, short])

end HswDiagnosis

end Sys2Proof.Machine
end

section
/-! SUPPORT. The self-test slots of the four output blocks (spec/03, R99, R100). -/

namespace Sys2Proof.Machine

/-- A slot takes the channel, the test and the deadline written. -/
def State.slotTaken (s : State) (b : OutBlock) (k : Nat) (w : BitVec 64) : State :=
  let t := s.put (tslotChan b k) ((tslotChan b k).of w)
  (t.put (tslotTest b k) ((tslotTest b k).of w)).put ⟨tslot b k, 32, 16⟩ ((⟨tslot b k, 32, 16⟩ : Fld).of w)

/-- The code of the checks of a request whose channel has the owner `own`. -/
def State.requestCode (t : State) (b : OutBlock) (m : Master) (c test own : Nat) : Nat :=
  if t.s3 || t.s4 then istatAbortedFault
  else if !ownerOk own m || t.testHeld b c then istatPolicy
  else if t.testConflict b c test then istatConflict
  else if t.gapNow b c test then istatPending else istatDeferred

/-- GO in a slot with no open request submits one: its writer owns it, and it gets the code of its checks. -/
theorem State.testGo_of_closed {s : State} {b : OutBlock} {k : Nat} (m : Master) (v : BitVec 64)
    (closed : istatOpen (s.fld (tslotIstat b k)) = false) :
    s.testGo b m k v =
      let t := s.slotTaken b k (v ||| 0x8000000000000000#64)
      let c := t.fld (tslotChan b k)
      let test := t.fld (tslotTest b k)
      let own := t.testOwner b c
      let t := t.put (tslotOwner b k) m.num
      t.put (tslotIstat b k) (t.requestCode b m c test own) := by
  simp only [State.testGo, State.slotWrite, closed, go_bit, Bool.false_eq_true, if_false]
  rfl

section SelfTest

variable {s : State} {b : OutBlock} {k : Fin 8}

theorem execTestGapStart_of_waiting (waits : s.testWaits b k = true)
    (gap : s.gapOk b (s.fld (tslotChan b k)) (s.fld (tslotTest b k)) = true) (awake : s.pstate ≤ 1) :
    execTestGapStart b k s =
      let t := s.put (tslotIstat b k) istatPending
      .next { t with pdi := { t.pdi with tests := t.pdi.tests ++ [⟨b, k.val⟩] } } :=
  if_pos (by simp [waits, gap, awake])

/-- A running test ends OK, with what it found. -/
theorem execTestDone_of_running {r : BitVec 4} (runs : (⟨b, k.val⟩ : TestRun) ∈ s.pdi.tests) :
    execTestDone b k r s =
      let finds := s.testFinds b (s.fld (tslotChan b k)) (s.fld (tslotTest b k))
      let found := if finds.contains r.toNat then r.toNat else 0
      let t := (s.put (tslotIstat b k) istatOk).put (tslotResult b k) found
      let t : State := { t with pdi := { t.pdi with tests := t.pdi.tests.filter (· != ⟨b, k.val⟩) } }
      .next (if found == 0 then t else t.evidence b (s.fld (tslotChan b k)) found) :=
  if_pos (List.contains_iff_mem.2 runs)

theorem execTestDone_of_found {r : BitVec 4} (runs : (⟨b, k.val⟩ : TestRun) ∈ s.pdi.tests)
    (finds : (s.testFinds b (s.fld (tslotChan b k)) (s.fld (tslotTest b k))).contains r.toNat = true)
    (evident : r.toNat ≠ 0) :
    execTestDone b k r s =
      let t := (s.put (tslotIstat b k) istatOk).put (tslotResult b k) r.toNat
      let t : State := { t with pdi := { t.pdi with tests := t.pdi.tests.filter (· != ⟨b, k.val⟩) } }
      .next (t.evidence b (s.fld (tslotChan b k)) r.toNat) := by
  simp only [execTestDone_of_running runs, finds, if_true, beq_iff_eq, evident, if_false]

theorem execTestDone_of_unknown {r : BitVec 4} (runs : (⟨b, k.val⟩ : TestRun) ∈ s.pdi.tests)
    (unknown : (s.testFinds b (s.fld (tslotChan b k)) (s.fld (tslotTest b k))).contains r.toNat = false) :
    execTestDone b k r s =
      let t := (s.put (tslotIstat b k) istatOk).put (tslotResult b k) 0
      .next { t with pdi := { t.pdi with tests := t.pdi.tests.filter (· != ⟨b, k.val⟩) } } := by
  simp only [execTestDone_of_running runs, unknown, Bool.false_eq_true, if_false, beq_self_eq_true, if_true]

end SelfTest

end Sys2Proof.Machine
end

section
/-! SUPPORT. The die interface, the basting hold and the limp map (spec/03, R103, R107, R111). -/

namespace Sys2Proof.Machine

variable {s : State}

theorem State.linkUp_of_down (down : s.flag PDI_STAT_LINK_UP = false) :
    s.linkUp =
      let t := (s.raiseBit PDI_STAT_LINK_UP).raiseBit PDI_IRQ_LINK
      let t := t.when t.pdi.holdEvent fun u => u.raiseBit PDI_IRQ_HOLD
      let t := t.when t.pdi.limpEvent fun u => u.raiseBit PDI_IRQ_LIMP
      { t with pdi := { t.pdi with holdEvent := false, limpEvent := false } } :=
  if_neg (Bool.eq_false_iff.1 down)

/-- A hold in which no claim is armed ends in the limp map when it expires. -/
theorem execBastingHoldExpire_of_unclaimed (hold : s.flag PDI_STAT_HOLD = true)
    (unclaimed : ∀ h ∈ allHandles, (s.hnd h).claim.isSome = true → s.txState h ≠ txArmed) :
    execBastingHoldExpire s = .next ((s.limpApply 5 istatExpired).raiseP 71) := by
  have none_armed : (allHandles.any fun h => (s.hnd h).claim.isSome && s.txState h == txArmed) = false :=
    List.any_eq_false.2 fun h mem armed => by
      obtain ⟨claims, state⟩ := Bool.and_eq_true_iff.1 armed
      exact unclaimed h mem claims (beq_iff_eq.1 state)
  exact if_pos (by simp [hold, none_armed])

theorem State.releaseWrite_of_clear (limp : s.flag PDI_STAT_LIMP = true) (high : s.pdi.limpNHigh = true)
    (up : s.flag PDI_STAT_LINK_UP = true) (s3 : s.s3 = false) (s4 : s.s4 = false) :
    s.releaseWrite = s.limpRelease :=
  if_pos (by simp [limp, high, up, s3, s4])

end Sys2Proof.Machine
end

section
/-! THEOREMS. The obligations of the family of spec/03: sense ADCs, channel diagnosis, self-tests, the die interface. -/

namespace Sys2Proof.Machine

/-- Settles O5: each trigger finds the sequence idle, and each conversion its entry free. -/
theorem senseAdcCommandsComplete : Obligations.SenseAdcCommandsComplete := by
  refine ⟨?go, ?counter, ?time, ?timeWrite, ?conversion, ?calibration⟩
  case go => exact fun s a trig free idle => congrArg Host.Outcome.next (State.saGo_of_idle trig free idle)
  case counter => exact fun _ _ => execSaCounterTrigger_of_idle
  case time => exact fun _ _ => execSaTimeTrigger_of_idle
  case timeWrite => exact fun s a v => rfl
  case conversion => exact fun _ _ _ _ => execSaConversionDone_of_running
  case calibration => exact fun _ _ => execSaCalFail_of_rotating

/-- Settles O6: each check gives the evidence of its table, on the row that the case names. -/
theorem hswDiagnosisCommandsComplete : Obligations.HswDiagnosisCommandsComplete := by
  refine ⟨?good, ?openLoad, ?drop, ?unrecorded, ?start, ?short, ?battery, ?offOpen, ?unchecked, ?offGood, ?stretch,
    ?dclr⟩
  case good =>
    exact fun s n iw vo fe out on load =>
      execOndiagWindowEnd_of_on out on (State.hswFinding_something (ondiagKind_of_current load) (by decide))
  case openLoad =>
    exact fun s n iw vo fe out on idle high =>
      execOndiagWindowEnd_of_on out on (State.hswFinding_something (ondiagKind_of_output idle high) (by decide))
  case drop =>
    exact fun s n iw vo fe out on idle drop =>
      execOndiagWindowEnd_of_on out on (State.hswFinding_ite (ondiagKind_of_drop idle drop) (by decide))
  case unrecorded => exact fun _ _ _ _ _ => execOndiagWindowEnd_of_off
  case start => exact fun _ _ => execOffdiagStart_of_gap
  case short =>
    exact fun s n a b runs high =>
      execOffdiagResult_of_running runs rfl rfl (State.hswFinding_something (offdiagKind_of_own _ _ _ high) (by decide))
  case battery =>
    intro s n a b runs high stb
    refine execOffdiagResult_of_running runs rfl rfl (State.hswFinding_something ?_ (by decide))
    rw [stb, offdiagKind_of_battery _ _ high]
  case offOpen =>
    exact fun s n a b c runs low on least most => execOffdiagResult_of_running runs on (if_pos rfl)
      (State.hswFinding_something (offdiagKind_of_open _ _ low least most) (by decide))
  case unchecked =>
    exact fun s n a b runs low off => execOffdiagResult_of_running runs off (if_neg Bool.false_ne_true)
      (State.hswFinding_nothing (offdiagKind_of_unchecked _ _ _ low))
  case offGood =>
    exact fun s n a b runs low on small => execOffdiagResult_of_running runs on (if_pos rfl)
      (State.hswFinding_something (offdiagKind_of_load _ _ low small) (by decide))
  case stretch => exact fun _ _ => execDiagStretch_of_short
  case dclr => exact fun s m n reached own => congrArg Host.Outcome.next ((access_open reached).trans (if_pos own))

/-- Settles O7: a request is one operation in all four blocks. -/
theorem selfTestCommandsComplete : Obligations.SelfTestCommandsComplete := by
  refine ⟨?hsw, ?vlv, ?led, ?dout, ?gap, ?found, ?unknown, ?deadline⟩
  case hsw | vlv | led | dout =>
    exact fun s m k v reached closed =>
      congrArg Host.Outcome.next ((access_open reached).trans (State.testGo_of_closed m v closed))
  case gap => exact fun _ _ _ => execTestGapStart_of_waiting
  case found => exact fun _ _ _ _ => execTestDone_of_found
  case unknown => exact fun _ _ _ _ => execTestDone_of_unknown
  case deadline => exact fun s b k waits => if_pos waits

/-- Settles O8: each event has its effect where its condition holds. -/
theorem dieLinkCommandsComplete : Obligations.DieLinkCommandsComplete := by
  refine ⟨?crc, ?lost, ?restored, ?seen, ?expired, ?high, ?low, ?release⟩
  case crc | seen | high | low => exact fun s => rfl
  case lost => exact fun s up => if_pos up
  case restored => exact fun s down => congrArg Host.Outcome.next (State.linkUp_of_down down)
  case expired => exact fun _ => execBastingHoldExpire_of_unclaimed
  case release =>
    exact fun s limp up high s3 s4 => congrArg Host.Outcome.next (State.releaseWrite_of_clear limp up high s3 s4)

end Sys2Proof.Machine
end

section
/-! SUPPORT. The phases of a valve channel, and the boost regulator (spec/04, R120–R126). -/

namespace Sys2Proof.Machine

variable {s : State} {c : Fin 24}

/-- However a boost ends, the channel goes on to PEAK, or without a PEAK_T to HOLD, and the domain takes its turn. -/
theorem execBoostEnd_of_boost {reached : Bool} {im : BitVec 12} {tb : BitVec 16}
    (boost : s.phase (s.vlvLead c) = phBoost) :
    execBoostEnd c reached im tb s =
      let l := s.vlvLead c
      let t := (s.put (VLV_DIAG_TBOOST l) tb.toNat).put (VLV_STAT_IMEAS l) im.toNat
      let t := t.put (VLV_STAT_PHASE l) (if Fld.of (VLV_PROF_A_PEAK_T 0) (s.val l).profA == 0 then phHold else phPeak)
      let t := if reached then t.vlvEvidence l (if tb.toNat < 20 then 3 else 1)
        else if im.toNat < t.boostI l then t.vlvEvidence l 2 else t
      .next (t.boostService (t.domain (l / 6))) :=
  if_pos (beq_iff_eq.2 boost)

theorem execHoldTimeEnd_of_timed (hold : s.phase (s.vlvLead c) = phHold)
    (timed : Fld.of (VLV_PROF_A_HOLD_T 0) (s.val (s.vlvLead c)).profA ≠ 0) :
    execHoldTimeEnd c s = .next (s.enterRelease (s.vlvLead c) (s.slowRelease (s.vlvLead c))) :=
  if_pos (by simp [hold, timed])

theorem State.expireBoost_of_queued {l h i : Nat} {r : BoostReq}
    (queued : ((s.bq (s.domain (l / 6))).filter fun q => q.chan == l).head? = some r) (item : r.item = some (h, i)) :
    s.expireBoost l = (s.unqueue l).endItem h i istatExpired := by
  simp only [State.expireBoost, queued, Option.bind_some, item]

theorem execVbstUndervoltage_of_unready {v : BitVec 16} (enabled : (s.setVbst v.toNat).flag VLV_BOOST_BEN = true)
    (unready : (s.setVbst v.toNat).vbstReady = false) :
    execVbstUndervoltage v s =
      .next ((((s.setVbst v.toNat).raiseBit VLV_BSTAT_UV).raiseBit VLV_IRQ_BST_FAULT).raiseP 108) :=
  if_pos (by simp [enabled, unready])

end Sys2Proof.Machine
end

section
/-! SUPPORT. The trips and checks of a valve channel (spec/04, R131–R134). -/

namespace Sys2Proof.Machine

variable {s : State} {c : Fin 24}

theorem execVlvOcTrip_of_driven (driven : s.phase (s.vlvLead c) ≠ phOff) :
    execVlvOcTrip c s = .next ((s.vlvTrip (s.vlvLead c) 1 false).vlvEvidence (s.vlvLead c) 3) :=
  if_pos (bne_iff_ne.2 driven)

theorem execClampOtTrip_of_clamping (release : s.phase (s.vlvLead c) = phRelease)
    (clamping : (s.val (s.vlvLead c)).freewheel = false) :
    execClampOtTrip c s = .next (s.vlvTrip (s.vlvLead c) 3 true) :=
  if_pos (by simp [release, clamping])

/-- An off-state check of a channel that is off gives one piece of evidence. -/
theorem execVlvOffdiag_of_off {lowOff lowOn : Bool} (enabled : s.flag (VLV_CFG_OFFDIAG (s.vlvLead c)) = true)
    (off : s.phase (s.vlvLead c) = phOff) :
    execVlvOffdiag c lowOff lowOn s =
      .next (s.vlvEvidence (s.vlvLead c)
        (if lowOff && s.feedPos (s.vlvLead c / 6) == .vbat then 5 else if lowOn then 2 else 1)) :=
  if_pos (by simp [enabled, off])

/-- Where a land found low implies a feed on VBAT, a low land is evidence of a switch (R134). -/
theorem execVlvOffdiag_of_fed {lowOff lowOn : Bool} (enabled : s.flag (VLV_CFG_OFFDIAG (s.vlvLead c)) = true)
    (off : s.phase (s.vlvLead c) = phOff) (fed : lowOff = true → s.feedPos (s.vlvLead c / 6) = .vbat) :
    execVlvOffdiag c lowOff lowOn s =
      .next (s.vlvEvidence (s.vlvLead c) (if lowOff then 5 else if lowOn then 2 else 1)) := by
  have low : (lowOff && s.feedPos (s.vlvLead c / 6) == .vbat) = lowOff :=
    Bool.and_eq_left_iff_imp.2 fun h => beq_iff_eq.2 (fed h)
  rw [execVlvOffdiag_of_off enabled off, low]

/-- While the feed is off VBAT, a low land is no evidence of a switch (R134). -/
theorem execVlvOffdiag_of_unfed {lowOn : Bool} (enabled : s.flag (VLV_CFG_OFFDIAG (s.vlvLead c)) = true)
    (off : s.phase (s.vlvLead c) = phOff) (unfed : s.feedPos (s.vlvLead c / 6) ≠ .vbat) :
    execVlvOffdiag c true lowOn s = .next (s.vlvEvidence (s.vlvLead c) (if lowOn then 2 else 1)) := by
  have notSwitch : ¬(true && s.feedPos (s.vlvLead c / 6) == .vbat) = true := by simp [unfed]
  rw [execVlvOffdiag_of_off enabled off, if_neg notSwitch]

theorem execHoldLowDetect_of_regulated (regulated : s.phase (s.vlvLead c) = phPeak ∨ s.phase (s.vlvLead c) = phHold) :
    execHoldLowDetect c s = .next (s.vlvEvidence (s.vlvLead c) 4) :=
  if_pos (by simpa using regulated)

end Sys2Proof.Machine
end

section
/-! THEOREMS. The obligations of the family of spec/04: the phases and the trips of valve channels. -/

namespace Sys2Proof.Machine

/-- Settles O9: each event finds the channel in the phase that it ends, or VBST past its limit. -/
theorem valvePhaseCommandsComplete : Obligations.ValvePhaseCommandsComplete := by
  refine ⟨?turn, ?reached, ?timedOut, ?peak, ?hold, ?released, ?deferred, ?energy, ?recovered, ?above, ?below⟩
  case turn => exact fun s b v => rfl
  case reached => exact fun _ _ _ _ => execBoostEnd_of_boost
  case timedOut => exact fun _ _ _ _ => execBoostEnd_of_boost
  case peak | released | energy => exact fun s c phase => if_pos (beq_iff_eq.2 phase)
  case hold => exact fun _ _ => execHoldTimeEnd_of_timed
  case deferred =>
    exact fun s c r h i queued item => congrArg Host.Outcome.next (State.expireBoost_of_queued queued item)
  case recovered | above => exact fun s v limit => if_pos limit
  case below => exact fun _ _ => execVbstUndervoltage_of_unready

/-- Settles O10: each trip, check and measurement finds the channel where its rule applies. -/
theorem valveTripCommandsComplete : Obligations.ValveTripCommandsComplete := by
  refine ⟨?model, ?measured, ?current, ?feed, ?wait, ?clamp, ?switch, ?fed, ?unfed, ?low, ?dclr⟩
  case model => exact fun s td sense => rfl
  case measured => exact fun s c r hold => if_pos (beq_iff_eq.2 hold)
  case current => exact fun _ _ => execVlvOcTrip_of_driven
  case feed | wait => exact fun s b => rfl
  case clamp => exact fun _ _ => execClampOtTrip_of_clamping
  case switch => exact fun s c conducts => if_pos conducts
  case fed => exact fun _ _ _ _ => execVlvOffdiag_of_fed
  case unfed => exact fun _ _ _ => execVlvOffdiag_of_unfed
  case low => exact fun _ _ => execHoldLowDetect_of_regulated
  case dclr => exact fun s m c reached own => congrArg Host.Outcome.next ((access_open reached).trans (if_pos own))

end Sys2Proof.Machine
end

section
/-! SUPPORT. Fades, the VLED rail, and the junction and evidence of a sink (spec/05, R141–R149). -/

namespace Sys2Proof.Machine

variable {s : State} {n : Fin 48} {f : Fade}

theorem Fade.level_last (f : Fade) : f.level 256 = f.target := by simp [Fade.level]

/-- A step before the last one moves the level along its curve (R145). -/
theorem execFadeStep_of_running (fading : s.fade n = some f) (before : s.fld (LED_STAT_FSTEP n) < 255) :
    execFadeStep n s =
      .next ((s.put (LED_STAT_FSTEP n) (s.fld (LED_STAT_FSTEP n) + 1)).put (LED_STAT_LEVEL n)
        (f.level (s.fld (LED_STAT_FSTEP n) + 1))) := by
  have more : ¬256 ≤ s.fld (LED_STAT_FSTEP n) + 1 := by omega
  simp only [execFadeStep, fading, if_neg more]

/-- Step 256 reaches the target, and the fade ends with its FDONE bit (R146). -/
theorem execFadeStep_of_last (fading : s.fade n = some f) (last : s.fld (LED_STAT_FSTEP n) = 255) :
    execFadeStep n s =
      .next (((((s.put (LED_STAT_FSTEP n) 256).put (LED_STAT_LEVEL n) f.target).when (f.target == 0) fun t =>
        t.markOff .led n).stopFade n).raiseBit (LED_FDONE_FDONE.bit n)) := by
  simp only [execFadeStep, fading, last, Fade.level_last, Nat.reduceAdd, Nat.le_refl, if_true]

theorem execVledUndervoltage_of_conducting {v : BitVec 16} (low : v.toNat < 200)
    (conducts : ((List.range 48).any fun n => (s.put LED_VSTAT_VLED v.toNat).sinkCurrent n != 0) = true) :
    execVledUndervoltage v s = .next ((s.put LED_VSTAT_VLED v.toNat).vledFault LED_VSTAT_UV) :=
  if_pos (Bool.and_eq_true_iff.2 ⟨decide_eq_true low, conducts⟩)

/-- The junction is kept, and FOLD shows whether it is above 150 °C (R148). -/
theorem execSinkFoldback_eq (tj : BitVec 16) :
    execSinkFoldback n tj s =
      .next (({ s with led := { s.led with tj := tset 1600 s.led.tj n (sgn 16 tj.toNat) } } : State).put
        (LED_STAT_FOLD n) (if 9600 < sgn 16 tj.toNat then 1 else 0)) := by
  simp only [execSinkFoldback, State.putB, decide_eq_true_eq]
  rfl

/-- The code that EVKIND and DSTATE show for a kind of evidence (LED_DIAG). -/
def sinkKindCode : SinkKind → Nat
  | .good => 1
  | .stringOpen => 2
  | .stringShort => 3
  | .dropout => 4

/-- With DIAGEN = 1 a sink with a target of 1 mA takes its evidence, DROPOUT while the rail is at a limit (R149). -/
theorem execSinkEvidence_of_lit {k : SinkKind} (enabled : s.flag (LED_CFG_DIAGEN n) = true)
    (lit : 1044225000 ≤ 150000 * s.fld (LED_STAT_TARGET n) * s.fld LED_GCFG_GLEVEL)
    (held : k = .dropout → s.flag LED_VSTAT_CEIL = true) :
    execSinkEvidence n k s = .next (s.sinkEvidence n (sinkKindCode k)) := by
  have gathers : (s.flag (LED_CFG_DIAGEN n) &&
      decide (1000 * 4095 * 255 ≤ 150000 * s.fld (LED_STAT_TARGET n) * s.fld LED_GCFG_GLEVEL)) = true := by
    simpa [enabled] using lit
  refine (if_pos gathers).trans ?_
  cases k with
  | good | stringOpen | stringShort => rfl
  | dropout => exact congrArg Host.Outcome.next (if_pos (held rfl))

end Sys2Proof.Machine
end

section
/-! SUPPORT. The matrix scan and the frame buffers of the stitch chains (spec/05, R153–R161). -/

namespace Sys2Proof.Machine

variable {s : State} {low : List (Fin 24)}

/-- The slot of a line starts: its pre-charge, and the stored levels of its points (R153–R155). -/
def State.startSlot (s : State) (line : Nat) : State :=
  let t := s.put LED_MSTAT_LINE line
  { t with led := { t.led with
    slotAt := t.now, preVolt := t.preCharge
    columns := (List.range 24).map fun c => t.fld (LED_MPT_LEVEL (24 * line + c)) } }

/-- The slot of line 0 sinks the levels of the first points. -/
theorem State.startSlot_zero (s : State) :
    s.startSlot 0 =
      let t := s.put LED_MSTAT_LINE 0
      { t with led := { t.led with
        slotAt := t.now, preVolt := t.preCharge
        columns := (List.range 24).map fun c => t.fld (LED_MPT_LEVEL c) } } := by
  simp only [State.startSlot, Nat.mul_zero, Nat.zero_add]

/-- The matrix scans: it is enabled, no line over-current has stopped it, and the outputs are not in PARK. -/
def State.Scans (s : State) : Prop :=
  s.matrixOn = true ∧ s.flag LED_MSTAT_MSTOP = false ∧ s.ledParked = false

/-- A scan starts with line 0 and no evidence. -/
theorem execMatrixSlot_first (scans : s.Scans) (first : s.led.columns = []) :
    execMatrixSlot low s = .next (s.startSlot 0) := by
  obtain ⟨on, runs, awake⟩ := scans
  simp [execMatrixSlot, on, runs, awake, first, State.startSlot]

/-- Between two lines the evidence of the slot that ends is taken (R157). -/
theorem execMatrixSlot_next (scans : s.Scans) (later : s.led.columns ≠ []) (inner : s.fld LED_MSTAT_LINE < 7) :
    execMatrixSlot low s =
      .next ((s.pointEvidence (s.fld LED_MSTAT_LINE) low).startSlot (s.fld LED_MSTAT_LINE + 1)) := by
  obtain ⟨on, runs, awake⟩ := scans
  have line : (s.fld LED_MSTAT_LINE + 1) % 8 = s.fld LED_MSTAT_LINE + 1 := by omega
  simp [execMatrixSlot, on, runs, awake, later, line, State.startSlot]

/-- Line 7 ends a frame, and the scan goes on at line 0 (R153). -/
theorem execMatrixSlot_wrap (scans : s.Scans) (later : s.led.columns ≠ []) (last : s.fld LED_MSTAT_LINE = 7) :
    execMatrixSlot low s = .next (((s.pointEvidence 7 low).incWrap LED_MSTAT_FRAMES).startSlot 0) := by
  obtain ⟨on, runs, awake⟩ := scans
  simp [execMatrixSlot, on, runs, awake, later, last, State.startSlot]

/-- The stop of the scan leaves LINE at the line that was on (R156). -/
theorem State.raiseMstop_line (s : State) : (s.raiseBit LED_MSTAT_MSTOP).fld LED_MSTAT_LINE = s.fld LED_MSTAT_LINE :=
  fld_put_bits s LED_MSTAT_MSTOP LED_MSTAT_LINE 1 (by decide) (by decide)

theorem State.frameWrite_of_owner {m : Master} {k f w : Nat} (a : Access) (v : BitVec 64)
    (spare : s.frameArmed k f = false) (own : ownerOk (s.fld (LED_SC_CFG_OWNER k)) m = true) :
    s.frameWrite m k f w a v = s.setReg (LED_SC_FRM k f w) (accMerge a (s.reg (LED_SC_FRM k f w)) v) :=
  if_neg (by simp [spare, own])

theorem State.frameWrite_of_barred {m : Master} {k f : Nat} (w : Nat) (a : Access) (v : BitVec 64)
    (barred : s.frameArmed k f = true ∨ ownerOk (s.fld (LED_SC_CFG_OWNER k)) m = false) :
    s.frameWrite m k f w a v = s.raiseBit LED_IRQ_FRAME_VIOL :=
  if_pos (by simpa using barred)

end Sys2Proof.Machine
end

section
/-! THEOREMS. The obligations of the family of spec/05: fades, the VLED rail, the sinks, the matrix and frames. -/

namespace Sys2Proof.Machine

/-- Settles O11: each event has its effect where its rule's condition holds. -/
theorem lightingRailCommandsComplete : Obligations.LightingRailCommandsComplete := by
  refine ⟨?step, ?last, ?rail, ?above, ?recovered, ?under, ?current, ?folds, ?unfolds, ?evidence, ?dclr⟩
  case step => exact fun _ _ _ => execFadeStep_of_running
  case last => exact fun _ _ _ => execFadeStep_of_last
  case rail => exact fun _ _ _ _ _ _ _ _ _ => rfl
  case above | recovered => exact fun _ _ limit => if_pos limit
  case under => exact fun _ _ => execVledUndervoltage_of_conducting
  case current => exact fun _ => rfl
  case folds => exact fun s n tj hot => (execSinkFoldback_eq tj).trans (by rw [if_pos hot])
  case unfolds => exact fun s n tj cool => (execSinkFoldback_eq tj).trans (by rw [if_neg (not_lt.2 cool)])
  case evidence =>
    intro s n k enabled lit held
    exact (execSinkEvidence_of_lit enabled lit held).trans (by cases k <;> rfl)
  case dclr => exact fun s m n reached own => congrArg Host.Outcome.next ((access_open reached).trans (if_pos own))

/-- Settles O12: each slot follows the one before, and each access is allowed or barred by its owner rule. -/
theorem matrixAndFrameCommandsComplete : Obligations.MatrixAndFrameCommandsComplete := by
  refine ⟨?first, ?next, ?wrap, ?stopped, ?restart, ?written, ?barred⟩
  case first =>
    exact fun s low on runs awake first =>
      (execMatrixSlot_first ⟨on, runs, awake⟩ first).trans (congrArg Host.Outcome.next s.startSlot_zero)
  case next => exact fun s low on runs awake => execMatrixSlot_next ⟨on, runs, awake⟩
  case wrap =>
    exact fun s low on runs awake later last =>
      (execMatrixSlot_wrap ⟨on, runs, awake⟩ later last).trans (congrArg Host.Outcome.next (State.startSlot_zero _))
  case stopped =>
    intro s on runs
    rw [s.raiseMstop_line]
    exact if_pos (by simp [on, runs])
  case restart => exact fun s m reached own => congrArg Host.Outcome.next ((access_open reached).trans (if_pos own))
  case written =>
    exact fun s m k f w a v reached spare own =>
      congrArg Host.Outcome.next ((access_open reached).trans (State.frameWrite_of_owner a v spare own))
  case barred =>
    exact fun s m k f w a v reached bar =>
      congrArg Host.Outcome.next ((access_open reached).trans (State.frameWrite_of_barred w a v bar))

end Sys2Proof.Machine
end

section
/-! SUPPORT. The switch inputs and the field outputs: samples, configuration, refreshes and checks (spec/06, R168–R186). -/

namespace Sys2Proof.Machine

variable {s : State}

section Din

variable {n : Fin 96}

/-- Outside PARK every input is scanned, and in PARK those of R179: the sample compares its STATE with the one before. -/
theorem execDinSample_of_scanned {p v : BitVec 16} {ok : Bool} (scanned : s.pstate ≠ 3 ∨ s.dinParkScan n = true) :
    execDinSample n p v ok s =
      let t := s.dinSettle n
      let k := t.dinClass n p.toNat v.toNat ok
      let t := (t.put (DIN_STAT_VPIN n) p.toNat).put (DIN_STAT_RAW n) k
      let t := t.when (!ok) fun u => (u.raiseBit DIN_IRQ_WET_FAULT).raiseP 166
      let t := t.when (t.flag (DIN_CFG_WBEN n) && decide (v.toNat < 500)) fun u => u.raiseBit DIN_IRQ_WBLOWV
      let r := t.dinDecide n k
      .next ((r.1.put (DIN_STAT_STATE n) (s.fld (DIN_STAT_STATE n))).dinChange n r.2) := by
  have sampled : ¬(s.pstate == 3 && !s.dinParkScan n) = true := by
    rcases scanned with awake | wakes
    · simp [awake]
    · simp [wakes]
  exact if_neg sampled

theorem State.dinConfigWrite_of_owner {m : Master} (r : Fin 3) (a : Access) (v : BitVec 64)
    (own : ownerOk (s.fld (DIN_CFG_OWNER n)) m = true) (spare : s.dinLimpNamed n = false) :
    s.dinConfigWrite m n r a v =
      (s.dinConfig n (dinReg n r) ((s.reg (dinReg n r) &&& ~~~ dinMask r) |||
        (accMerge a (s.reg (dinReg n r)) v &&& dinMask r))).1 :=
  if_neg (by simp [own, spare])

end Din

section Dout

variable {n : Fin 16}

/-- The owner's refresh with the next SEQ restarts the window, unless that is suspended (R182). -/
theorem State.doutRefresh_of_next {m : Master} {q : BitVec 4} (inTime : (s.dou n).expired = false)
    (own : s.fld (DOUT_CFG_OWNER n) = m.num) (next : q.toNat = (s.fld (DOUT_STAT_SEQ n) + 1) % 16)
    (runs : (s.dou n).running = true) (counts : (s.dou n).suspended = false) :
    s.doutRefresh m n q.toNat = (s.put (DOUT_STAT_SEQ n) q.toNat).startWindow n := by
  have accepted : ((m == .bsq || s.fld (DOUT_CFG_OWNER n) == m.num) &&
      q.toNat % 16 == (s.fld (DOUT_STAT_SEQ n) + 1) % 16) = true := by
    simp [own, next]
  have restarts : (((s.put (DOUT_STAT_SEQ n) q.toNat).dou n).running &&
      !((s.put (DOUT_STAT_SEQ n) q.toNat).dou n).suspended) = true := by
    change ((s.dou n).running && !(s.dou n).suspended) = true
    simp [runs, counts]
  simp only [State.doutRefresh, inTime, accepted, restarts, Bool.false_eq_true, if_false, if_true]

theorem execRefreshWindowExpire_of_running (runs : (s.dou n).running = true) (counts : (s.dou n).suspended = false) :
    execRefreshWindowExpire n s =
      let t := (s.endPulse .dout n).doutOff n
      let t := (t.put (DOUT_STAT_TRIP_CAUSE n) 3).raiseBit (DOUT_IRQ_SILENT.bit n)
      let t := (t.raiseP (168 + n)).setDou n { t.dou n with expired := true }
      .next (t.hitItems fun it => it.block == 4 && it.chan == n) :=
  if_pos (by simp [runs, counts])

theorem execDoutOffdiagStart_of_off (enabled : s.flag (DOUT_CFG_OFFDIAG n) = true)
    (off : s.flag (DOUT_STAT_OUT n) = false) :
    execDoutOffdiagStart n s = .next (s.setDou n { s.dou n with offDiag := true }) :=
  if_pos (by simp [enabled, off])

/-- The table of R186: the land below 2.0 V with the pull-up, below it with the pull-down, or near VBAT with both. -/
theorem execDoutOffdiagResult_of_running {a b v : BitVec 16} (runs : (s.dou n).offDiag = true) :
    execDoutOffdiagResult n a b v s =
      let t := s.setDou n { s.dou n with offDiag := false }
      .next (
        if a.toNat < 100 then t.doutEvidence n 3
        else if b.toNat < 100 then t.doutEvidence n 2
        else if v.toNat - 100 ≤ a.toNat ∧ v.toNat - 100 ≤ b.toNat then t.doutEvidence n 1
        else t) := by
  simp only [execDoutOffdiagResult, runs, if_true, Bool.and_eq_true, decide_eq_true_eq, Nat.sub_le_iff_le_add]

end Dout

end Sys2Proof.Machine
end

section
/-! THEOREMS. The obligation of the family of spec/06: the switch inputs and the field outputs. -/

namespace Sys2Proof.Machine

/-- Settles O13: each event has its effect where its rule's condition holds, and each access is its owner's. -/
theorem inputsAndFieldOutputsComplete : Obligations.InputsAndFieldOutputsComplete := by
  refine ⟨?sample, ?config, ?refresh, ?expired, ?overcurrent, ?overheated, ?start, ?ground, ?opened, ?good, ?dclr⟩
  case sample => exact fun _ _ _ _ _ => execDinSample_of_scanned
  case config =>
    exact fun s m n r a v reached own spare =>
      congrArg Host.Outcome.next ((access_open reached).trans (State.dinConfigWrite_of_owner r a v own spare))
  case refresh =>
    exact fun s m n q reached inTime own next runs counts =>
      congrArg Host.Outcome.next ((access_open reached).trans (State.doutRefresh_of_next inTime own next runs counts))
  case expired => exact fun _ _ => execRefreshWindowExpire_of_running
  case overcurrent | overheated => exact fun _ _ conducts => if_pos conducts
  case start => exact fun _ _ => execDoutOffdiagStart_of_off
  case ground =>
    exact fun s n a b v runs low =>
      (execDoutOffdiagResult_of_running runs).trans (congrArg Host.Outcome.next (if_pos low))
  case opened =>
    exact fun s n a b v runs high low =>
      (execDoutOffdiagResult_of_running runs).trans
        (congrArg Host.Outcome.next ((if_neg (not_lt.2 high)).trans (if_pos low)))
  case good =>
    exact fun s n a b v runs high₁ high₂ =>
      (execDoutOffdiagResult_of_running runs).trans
        (congrArg Host.Outcome.next ((if_neg (not_lt.2 high₁)).trans (if_neg (not_lt.2 high₂))))
  case dclr => exact fun s m n reached own => congrArg Host.Outcome.next ((access_open reached).trans (if_pos own))

end Sys2Proof.Machine
end

section
/-! SUPPORT. The idle tick (log entry 2). -/

namespace Sys2Proof.Machine

theorem step_of_idle {s : State} (idle : s.pending = []) : step s = .next s.tick := by
  unfold step
  rw [idle]

end Sys2Proof.Machine
end

section
/-! SUPPORT. The counters: the edge of a standing counter, its requests, captures and shadowed registers (spec/07,
R190–R198). -/

namespace Sys2Proof.Machine

variable {s : State} {g : Nat}

/-- The edge of a standing counter is no tick: it takes the requests that wait, and captures when that is due. -/
theorem State.gtEdge_of_standing (stands : s.gtRuns g = false) :
    s.gtEdge g =
      let t := (s.gtTake g).gtApply g ((s.ctr g).sw ++ (s.ctr g).lnk ++ (s.ctr g).tact)
      if (s.ctr g).capDue then t.gtCapture g else t := by
  have taken : (s.gtTake g).gtRuns g = false := stands
  have untimed : (s.gtTake g).gtTickDue g = false := by rw [State.gtTickDue, taken, Bool.false_and]
  simp only [State.gtEdge, State.gtEdgeWith, untimed, taken, Bool.false_eq_true, if_false, List.nil_append]
  rfl

section Requests

variable {acts : List Nat}

theorem State.gtApply_of_stop (noReset : 2 ∉ acts) (stop : 3 ∈ acts) : s.gtApply g acts = s.put (GT_STAT_RUN g) 0 := by
  simp [State.gtApply, State.putB, noReset, stop]

theorem State.gtApply_of_start (noReset : 2 ∉ acts) (noStop : 3 ∉ acts) (start : 1 ∈ acts)
    (stands : s.gtRuns g = false) :
    s.gtApply g acts = (s.raiseBit (GT_STAT_RUN g)).setCtr g { s.ctr g with psc := 0 } := by
  simp [State.gtApply, noReset, noStop, start, stands]

theorem State.gtApply_of_reset (reset : 2 ∈ acts) (noStop : 3 ∉ acts) (noStart : 1 ∉ acts) :
    s.gtApply g acts =
      let t := (s.setReg (GT_CNT g) 0).setCtr g { s.ctr g with psc := 0, wrapNext := false }
      if t.fld (GT_CFG_OUTMODE g) == 2 then t.gtOut g false else t.gtRecompute g := by
  simp [State.gtApply, reset, noStop, noStart]

end Requests

/-- A selected edge of the pin captures at once (R196). -/
theorem execGtCapture_of_selected {g : Fin 32} {up : Bool} (least : 0x08 ≤ s.fld (GT_CFG_CAPSRC g))
    (most : s.fld (GT_CFG_CAPSRC g) ≤ 0x0F) (taken : edgeTaken (s.fld (GT_CFG_CAPEDGE g)) up = true)
    (awake : s.pstate ≤ 1) : execGtCapture g up s = .next (s.gtCapture g) :=
  (if_neg (by omega)).trans (if_pos (by simp [least, most, taken]))

/-- A full slot is handed over to the reader (R197). -/
theorem State.gtCapRead_of_full (m : Master) (full : s.flag (GT_STAT_CAPF g) = true) :
    s.gtCapRead m g .w64 =
      let t := (s.setReg (GT_CAP g) (s.ctr g).slot).put (GT_STAT_CAPF g) 0
      t.answer (t.reg (GT_CAP g)).toNat := by
  simp only [State.gtCapRead, full, if_true]
  rfl

/-- A write of the whole register drops the half that its master holds. -/
theorem State.gtRegWrite_w64 {m : Master} (r : GtReg) (v : BitVec 64)
    (own : ownerOk (s.fld (GT_CFG_OWNER g)) m = true) :
    s.gtRegWrite m g r .w64 v =
      (s.splitWrite m (gtRegAddr g r) .w64 (s.reg (gtRegAddr g r)) v).1.gtSetReg g r v :=
  if_pos own

end Sys2Proof.Machine
end

section
/-! SUPPORT. The network time unit: its adjustments, captures and triggers (spec/07, R202–R206). -/

namespace Sys2Proof.Machine

variable {s : State}

theorem State.ntuSlewGo_of_keeper {m : Master} (x : BitVec 32) (keeper : ownerOk (s.fld NTU_SYNC_KEEPER) m = true) :
    s.ntuSlewGo m x.toNat =
      ((s.put NTU_ADJ_STEP 0).put NTU_ADJ_OFFSET x.toNat).setSlew (sgn 32 x.toNat * 16) := by
  simp only [State.ntuSlewGo, State.keeperOnly, keeper, if_true, BitVec.toNat_mod_cancel]

theorem State.ntuStepGo_of_keeper {m : Master} (x : BitVec 32) (keeper : ownerOk (s.fld NTU_SYNC_KEEPER) m = true) :
    s.ntuStepGo m x.toNat =
      let t := (s.put NTU_ADJ_STEP 1).put NTU_ADJ_OFFSET x.toNat
      { t with ntu := { t.ntu with step := some (sgn 32 x.toNat) } } := by
  simp only [State.ntuStepGo, State.keeperOnly, keeper, if_true, BitVec.toNat_mod_cancel]

theorem execNtuHoldoverExpire_of_running (holds : s.fld NTU_SYNC_HOLDMS ≠ 0) (awake : s.pstate ≤ 1)
    (out : s.sys.inReset = false) (powered : s.sys.por = false) :
    execNtuHoldoverExpire s = .next ((s.put NTU_SYNC_SYNC 0).raiseBit NTU_STAT_SYNCLOST) :=
  if_pos (by simp [holds, awake, out, powered])

/-- The EDGE code of a pin selects an edge of one direction: 0x1 the rising one, 0x2 the falling one. -/
theorem execNtuCapture_of_selected {k : Fin 8} {up : Bool} (awake : s.pstate ≤ 1)
    (selected : s.fld NTU_CAPCFG_EDGE / 4 ^ k.val % 4 = if up then 1 else 2) :
    execNtuCapture k up s = .next (s.ntuCapture k) :=
  if_pos (by simp [awake, selected])

theorem State.ntuCapRead_of_full {k : Nat} (m : Master) (full : s.flag (NTU_CAPSTAT_CAPF.bit k) = true) :
    s.ntuCapRead m k .w64 =
      let t := (s.setReg (NTU_CAP k) (tget 0 s.ntu.slot k)).put (NTU_CAPSTAT_CAPF.bit k) 0
      t.answer (t.reg (NTU_CAP k)).toNat := by
  simp only [State.ntuCapRead, full, if_true]
  rfl

section Trigger

variable {k : Fin 4}

/-- A write without ARM sets OE, POL and MODE, and the trigger stops. -/
theorem State.trgWrite_disarms {m : Master} (v : BitVec 64) (own : ownerOk (s.fld (NTU_TRG_CFG_OWNER k)) m = true) :
    s.trgWrite m k .w64 (v &&& ~~~ armBit) =
      let x := v &&& ~~~ armBit
      ([NTU_TRG_CFG_OE k, NTU_TRG_CFG_POL k, NTU_TRG_CFG_MODE k].foldl (fun t f => t.put f (f.of x)) s).trgStop k := by
  have disarmed : ((NTU_TRG_CFG_ARM k).of (v &&& ~~~ armBit) == 0) = true := disarm_bit _ v
  have whole : (Access.w64 == Access.lo32) = false := rfl
  simp only [State.trgWrite, accMerge, own, disarmed, whole, Bool.not_true, Bool.false_eq_true, if_false, if_true,
    List.foldl_cons, List.foldl_nil]

/-- Each counter that names a trigger takes its TACT action at the trigger's leading edge (R194). -/
def State.triggerActions (s : State) (k : Nat) : State :=
  s.each (List.range 32) fun g u =>
    if u.fld (GT_ACT_TACT g) != 0 && u.fld (GT_ACT_TSEL g) == k then
      u.setCtr g { u.ctr g with tact := (u.ctr g).tact ++ [u.fld (GT_ACT_TACT g)] }
    else u

/-- The pulse of a trigger runs until a time, or has ended. -/
def State.setPulse (s : State) (k : Nat) (e : Option Nat) : State :=
  { s with ntu := { s.ntu with pulse := tset none s.ntu.pulse k e } }

/-- The leading edge of an armed trigger at its time: the pulse starts, and in MODE 2 TIME goes on by a period. -/
theorem execNtuTriggerLead_of_armed (armed : s.flag (NTU_TRG_CFG_ARM k) = true) (mode : s.fld (NTU_TRG_CFG_MODE k) ≠ 0)
    (idle : tget none s.ntu.pulse k = none) (due : s.reached (s.fld (NTU_TRG_TIME_TIME k)) = true)
    (awake : s.pstate ≤ 1) :
    execNtuTriggerLead k s =
      let t := s.setPulse k (some ((s.fld (NTU_TRG_TIME_TIME k) + s.trgWidth k) % 2 ^ 32))
      .next ((t.when (s.fld (NTU_TRG_CFG_MODE k) == 2) fun u =>
        u.put (NTU_TRG_TIME_TIME k) ((s.fld (NTU_TRG_TIME_TIME k) + s.trgPeriod k) % 2 ^ 32)).triggerActions k) :=
  if_pos (by simp [armed, mode, idle, due, awake])

/-- The pulse ends at its time; the trigger stays armed in MODE 2 only. -/
theorem execNtuTriggerTrail_of_reached {e : Nat} (pulse : tget none s.ntu.pulse k = some e)
    (due : s.reached e = true) :
    execNtuTriggerTrail k s =
      let t := s.setPulse k none
      .next (if s.fld (NTU_TRG_CFG_MODE k) = 2 then t else t.put (NTU_TRG_CFG_ARM k) 0) := by
  simp only [execNtuTriggerTrail, pulse, due, if_true, beq_iff_eq]
  rfl

end Trigger

end Sys2Proof.Machine
end

section
/-! THEOREMS. The obligations of the family of spec/07: the idle tick, the counters and network time. -/

namespace Sys2Proof.Machine

/-- Settles O40: a tick keeps, from the state with model time advanced, what a command keeps. -/
theorem idleStepIsOneTick : Obligations.IdleStepIsOneTick := fun s idle =>
  ⟨s.tick, step_of_idle idle, s.tick_keeps.pending.trans idle, s.tick_keeps.now, s.tick_keeps.sent⟩

/-- Settles O14: each command waits for its counter's edge, and each event has its effect where its rule's condition
holds. -/
theorem counterCommandsComplete : Obligations.CounterCommandsComplete := by
  refine ⟨?start, ?stop, ?reset, ?capnow, ?edge, ?stops, ?starts, ?resets, ?groupStart, ?groupStop, ?period, ?compareA,
    ?compareB, ?link, ?trigger, ?capture, ?capRead, ?written⟩
  case start | stop | reset | capnow =>
    exact fun s m g reached own => congrArg Host.Outcome.next ((access_open reached).trans (if_pos own))
  case edge => exact fun _ _ => State.gtEdge_of_standing
  case stops => exact fun _ _ _ => State.gtApply_of_stop
  case starts => exact fun _ _ _ => State.gtApply_of_start
  case resets => exact fun _ _ _ => State.gtApply_of_reset
  case groupStart | groupStop => exact fun s m k reached => congrArg Host.Outcome.next (access_open reached)
  case period => exact fun s g due wraps => if_pos (by rw [due, wraps, Bool.and_self])
  case compareA | compareB => exact fun s g due event => if_pos (by simpa [due] using event)
  case link | trigger =>
    exact fun s g waits awake => congrArg Host.Outcome.next (if_neg (by simpa [waits] using awake))
  case capture => exact fun _ _ _ => execGtCapture_of_selected
  case capRead =>
    exact fun s m g reached full =>
      congrArg Host.Outcome.next ((access_open reached).trans (State.gtCapRead_of_full m full))
  case written =>
    exact fun s m g r v reached own =>
      congrArg Host.Outcome.next ((access_open reached).trans (State.gtRegWrite_w64 r v own))

/-- Settles O15: the keeper's and the owner's accesses are taken, and each event has its effect where its rule's
condition holds. -/
theorem networkTimeCommandsComplete : Obligations.NetworkTimeCommandsComplete := by
  refine ⟨?wrap, ?inc, ?slew, ?step, ?slewDone, ?sync, ?holdover, ?rising, ?falling, ?swcap, ?capRead, ?arm, ?disarm,
    ?pulse, ?periodic, ?goesOn, ?ends⟩
  case wrap => exact fun s awake wraps => if_pos (by simp [awake, wraps])
  case inc | sync =>
    exact fun s m a v reached keeper => congrArg Host.Outcome.next ((access_open reached).trans (if_pos keeper))
  case slew =>
    exact fun s m x reached keeper =>
      congrArg Host.Outcome.next ((access_open reached).trans (State.ntuSlewGo_of_keeper x keeper))
  case step =>
    exact fun s m x reached keeper =>
      congrArg Host.Outcome.next ((access_open reached).trans (State.ntuStepGo_of_keeper x keeper))
  case slewDone => exact fun s awake last => if_pos (by simpa [awake] using last)
  case holdover => exact fun _ => execNtuHoldoverExpire_of_running
  case rising => exact fun _ _ => execNtuCapture_of_selected (up := true)
  case falling => exact fun _ _ => execNtuCapture_of_selected (up := false)
  case swcap => exact fun s m x reached => congrArg Host.Outcome.next (access_open reached)
  case arm => exact fun s m k v reached _ => congrArg Host.Outcome.next (access_open reached)
  case capRead =>
    exact fun s m k reached full =>
      congrArg Host.Outcome.next ((access_open reached).trans (State.ntuCapRead_of_full m full))
  case disarm =>
    exact fun s m k v reached own =>
      congrArg Host.Outcome.next ((access_open reached).trans (State.trgWrite_disarms v own))
  case pulse | periodic =>
    exact fun s k armed mode idle due awake =>
      (execNtuTriggerLead_of_armed armed (by rw [mode]; decide) idle due awake).trans (by rw [mode]; rfl)
  case goesOn =>
    exact fun s k e pulse due mode =>
      (execNtuTriggerTrail_of_reached pulse due).trans (congrArg Host.Outcome.next (if_pos mode))
  case ends =>
    exact fun s k e pulse due mode =>
      (execNtuTriggerTrail_of_reached pulse due).trans (congrArg Host.Outcome.next (if_neg mode))

end Sys2Proof.Machine
end

section
/-! SUPPORT. The CAN channels: what their owner's writes do, their modes, and the frames they receive and send (spec/08,
R212–R222, R228, R236). -/

namespace Sys2Proof.Machine

variable {s t : State} {f : State → State}

/-- An event has its effect where the NET controllers run. -/
theorem netEvent_next (runs : s.netRuns = true) (effect : f s = t) : (.next (s.netEvent f) : Out) = .next t :=
  congrArg Host.Outcome.next ((if_pos runs).trans effect)

/-- A write of a CAN channel's owner that reaches the block has its effect. -/
theorem canOwned_next {m : Master} {n a : Nat} {st : Option (BitVec 64)} (reached : s.opens m a = true)
    (own : ownerOk (s.fld (CAN_CTL_OWNER n)) m = true) (effect : f s = t) :
    (.next (s.access m a st fun u => u.canOwned m n f) : Out) = .next t :=
  congrArg Host.Outcome.next ((access_open reached).trans ((if_pos own).trans effect))

section Modes

variable {n : Nat}

theorem State.canModeWrite_of_ram (mode : Nat) (ram : s.fld (CAN_MRAM_SIZE n) ≠ 0) :
    s.canModeWrite n mode = s.put (CAN_CTL_MODE n) mode :=
  if_neg (by simp [ram])

theorem State.canModeApply_between (between : (s.cn n).tx = none)
    (other : canModeOf (s.fld (CAN_CTL_MODE n)) ≠ (s.cn n).mode) :
    s.canModeApply n = (s.canSetMode n (canModeOf (s.fld (CAN_CTL_MODE n)))).nslCheck :=
  if_neg (by simp [between, other])

theorem State.busoffEnd_of_recovering (off : (s.cn n).busOff = true) (recovering : (s.cn n).recovering = true) :
    s.busoffEnd n =
      ((((s.put (CAN_STAT_TEC n) 0).put (CAN_STAT_REC n) 0).put (CAN_STAT_EPASS n) 0).setCn n
        { s.cn n with busOff := false, recovering := false }).canShow n :=
  if_pos (by simp [off, recovering])

theorem State.swEvent_pattern (listens : s.swListens n = true) (mode : s.fld (CAN_TRX_SWMODE n) = 1) :
    s.swEvent n .pattern = s.swWake n 1 := by
  simp [State.swEvent, listens, mode]

theorem State.swEvent_errored (listens : s.swListens n = true) (mode : s.fld (CAN_TRX_SWMODE n) = 2) :
    s.swEvent n .errored = s.swErrored n := by
  simp [State.swEvent, listens, mode]

end Modes

section Reception

variable {n : Nat} {g : CanFrame} {stamp vbat : Nat}

theorem State.canReceive_of_receiving (receives : (s.cn n).receives = true) (mode : (s.cn n).mode ≠ canAbd) :
    s.canReceive n g stamp vbat = ((s.canStore n g stamp).canRxGood n).canHandOn n g stamp vbat := by
  simp [State.canReceive, receives, mode]

/-- A channel that detects the bit rate locks its candidate with the first frame (R215). -/
theorem State.canReceive_of_detecting (mode : (s.cn n).mode = canAbd) :
    s.canReceive n g stamp vbat = (((s.abdLock n).canStore n g stamp).canRxGood n).canHandOn n g stamp vbat := by
  have receives : (s.cn n).receives = true := by simp [CanChan.receives, mode]
  simp [State.canReceive, receives, mode]

theorem State.canRelease_buffer {k : Nat} (buffer : k ≠ 128) (idle : s.canPending n k = false) :
    s.canRelease n k =
      ((s.put (CAN_MB_CTL_FULL n k) 0).put (CAN_MB_CTL_OVR n k) 0).put (CAN_MB_CTL_TRUNC n k) 0 := by
  simp [State.canRelease, State.putB, buffer, idle]

end Reception

section Transmission

variable {n k : Nat}

/-- A request becomes PENDING, with no attempt counted. -/
def State.canAccept (s : State) (n k : Nat) : State :=
  (s.put (CAN_MB_CTL_ISTAT n k) istatPending).setCn n
    { s.cn n with fails := tset 0 (s.cn n).fails k 0, late := (s.cn n).late.filter (· != k) }

/-- The judgement of a request whose buffer holds `len` bytes: they exceed the payload area, or its type
cannot carry them. -/
def State.canJudge (s : State) (n k len : Nat) : State :=
  if psizeBytes (s.canPsize n k) < len || (padLen (s.canTxFmt n k) len).isNone then s.canEnd n k istatConflict
  else s.canAccept n k

theorem State.canJudge_of_length {len : Nat} (fits : len ≤ psizeBytes (s.canPsize n k))
    (carried : (padLen (s.canTxFmt n k) len).isSome = true) : s.canJudge n k len = s.canAccept n k :=
  if_neg (by simp [fits, Option.isSome_iff_ne_none.1 carried])

/-- An ECC outcome is a fault source at most: the buffer reads as before. -/
theorem State.dmaEcc_buffer (s : State) (n k : Nat) (e : MemErr) :
    (s.dmaEcc e).canPsize n k = s.canPsize n k ∧ (s.dmaEcc e).canTxFmt n k = s.canTxFmt n k ∧
      (s.dmaEcc e).canLen n k = s.canLen n k := by
  cases e <;> exact ⟨rfl, rfl, rfl⟩

section Request

variable (send : s.fld (CAN_MB_CTL_DIR n k) = 2) (idle : s.canPending n k = false)
  (active : (s.cn n).mode = canActive) (on : (s.cn n).busOff = false)

include send idle active on

theorem State.canTxreq_of_active (e : MemErr) :
    s.canTxreq n k e =
      let t := s.dmaEcc e
      if e = .double then t.draw.2.canJudge n k (t.draw.1.toNat % 4096) else t.canJudge n k (t.canLen n k) := by
  refine (if_neg (by simp [send])).trans ((if_neg (by simp [idle])).trans ((if_neg (by simp [active, on])).trans ?_))
  cases e <;> rfl

theorem State.canTxreq_of_length {e : MemErr} (read : e ≠ .double)
    (fits : s.canLen n k ≤ psizeBytes (s.canPsize n k))
    (carried : (padLen (s.canTxFmt n k) (s.canLen n k)).isSome = true) :
    s.canTxreq n k e = (s.dmaEcc e).canAccept n k := by
  obtain ⟨psize, fmt, len⟩ := s.dmaEcc_buffer n k e
  calc s.canTxreq n k e
    _ = (s.dmaEcc e).canJudge n k ((s.dmaEcc e).canLen n k) :=
      (canTxreq_of_active send idle active on e).trans (if_neg read)
    _ = (s.dmaEcc e).canAccept n k := canJudge_of_length (by rwa [len, psize]) (by rwa [fmt, len])

end Request

theorem State.canCancel_of_waiting (pending : s.canPending n k = true) (still : (s.cn n).tx = none) :
    s.canCancel n k = s.canEnd n k istatSuperseded := by
  simp [State.canCancel, pending, still]

theorem State.canStart_of_pick {b : Option Nat} {g : CanFrame} (tdc : Nat) (e : MemErr)
    (sends : (s.cn n).canSend = true) (pick : s.canPick n = some (b, g)) :
    s.canStart n tdc e =
      let e : MemErr := if b.isSome then e else .good
      let r := (s.dmaEcc e).canDamage g e
      (r.1.setCn n { r.1.cn n with
        tx := some
          { buf := b, stamp := r.1.ntuNs, frame := r.2, notice := b.isNone && !(r.1.cn n).gwNotes.isEmpty, tdc := tdc }
        }).send (.canFrame n r.2) := by
  simp only [State.canStart, sends, pick, Bool.not_true, Bool.false_eq_true, if_false]

/-- A frame of a buffer whose request no cancel came late for ends OK with its stamp (R220, R221). -/
theorem State.canSent_of_buffer {x : CanTx} (attempt : (s.cn n).tx = some x) (buffer : x.buf = some k)
    (kept : x.cancel = false) (early : k ∉ (s.cn n).late) :
    s.canSent n =
      let t := ((s.tdcShow n).setCn n { s.cn n with tx := none }).canTxGood n
      let t := (t.put (CAN_MB_CTL_STAMP n k) x.stamp).canEnd n k istatOk
      (t.nslFrame n x.frame.id.toNat x.frame.ide x.frame.data true).nslCheck := by
  simp [State.canSent, attempt, buffer, kept, early]

theorem State.canAttemptEnds_of_kept {x : CanTx} (attempt : (s.cn n).tx = some x) (kept : x.cancel = false) :
    s.canAttemptEnds n true = s.canFailed n x := by
  cases b : x.buf <;> simp [State.canAttemptEnds, State.when, attempt, kept, b]

theorem State.canError_of_counted {tec rec_ : Nat} {inArb resBit : Bool}
    (error : (resBit && s.flag (CAN_CTL_PEX n)) = false) (counts : (s.cn n).counts = true) :
    s.canError n tec rec_ inArb resBit = ((s.canAttemptEnds n inArb).canCount n tec rec_).nslCheck := by
  have active : (s.cn n).mode = canActive := by
    simp only [CanChan.counts, Bool.and_eq_true, beq_iff_eq] at counts
    exact counts.1.1
  have detects : ((s.cn n).mode == canAbd) = false := by rw [active]; rfl
  simp only [State.canError, error, detects, counts, Bool.not_true, Bool.false_eq_true, if_false]

end Transmission

end Sys2Proof.Machine
end

section
/-! SUPPORT. The LIN channels: what their owner's writes do, the schedule, frames, sleep and wake (spec/08, R224–R227,
R237). -/

namespace Sys2Proof.Machine

variable {s t : State} {f : State → State} {n : Nat}

/-- A write of a LIN channel's owner that reaches the block has its effect. -/
theorem linOwned_next {m : Master} {a : Nat} {st : Option (BitVec 64)} (reached : s.opens m a = true)
    (own : ownerOk (s.fld (LIN_CFG_OWNER n)) m = true) (effect : f s = t) :
    (.next (s.access m a st fun u => u.linOwned m n f) : Out) = .next t :=
  congrArg Host.Outcome.next ((access_open reached).trans ((if_pos own).trans effect))

section Schedule

theorem State.linEnable_of_disabled (disabled : s.flag (LIN_CFG_EN n) = false) :
    s.linEnable n = (s.raiseBit (LIN_CFG_EN n)).linTackOpen n :=
  if_neg (by simp [disabled])

/-- A go-to-sleep frame waits for the next slot, and for the end of the tack window (R227). -/
theorem State.gosleep_waits (commander : s.linCommander n = true)
    (busy : (s.ln n).running = true ∨ s.linState n = linTack) :
    s.gosleep n = s.setLn n { s.ln n with sleepWait := true } := by
  simp [State.gosleep, commander, busy]

theorem State.gosleep_sends (commander : s.linCommander n = true) (stands : (s.ln n).running = false)
    (active : s.linState n = linActive) : s.gosleep n = (s.linSendSleep n).nslCheck := by
  simp [State.gosleep, commander, stands, active, linActive, linTack]

theorem State.linSlotEnd_next (runs : (s.ln n).running = true) (untacked : s.linState n ≠ linTack)
    (awake : (s.ln n).sleepWait = false) (quiet : (s.ln n).announce = []) (goes : (s.ln n).stopWait = false)
    (same : (s.ln n).goWait = none) : s.linSlotEnd n = s.linSlot n (s.linNextSlot n) := by
  simp [State.linSlotEnd, runs, untacked, awake, quiet, goes, same]

end Schedule

section Sleep

theorem State.linPulse_of_responder (responder : s.linCommander n = false) :
    s.linPulse n =
      ((s.send (.linWake n)).setLn n { s.ln n with pulses := (s.ln n).pulses + 1 }).put (LIN_STAT_STATE n) linWaking :=
  if_neg (by simp [show (s.send (.linWake n)).linCommander n = false from responder])

theorem State.linRetry_of_waking (responder : s.linCommander n = false) (waking : s.linState n = linWaking)
    (more : (s.ln n).pulses < 3) : s.linRetry n = s.linPulse n := by
  simp [State.linRetry, responder, waking, more]

/-- A wake on a LIN channel's bus: networks 8 to 15 have wake source 2 (R230; spec/14, R376). -/
theorem State.busWake_lin (s : State) (n kind : Nat) :
    s.busWake (8 + n) kind = (s.nslWakeRecord (8 + n) kind).pmuWake 2 (8 + n) := by
  simp [State.busWake]

theorem State.linWakeRx_awake (awake : s.pstate ≤ 1) (asleep : s.linState n = linSleep) :
    s.linWakeRx n = ((s.raiseBit (LIN_STAT_WAKE_RX n)).linBecomesActive n).busWake (8 + n) 4 :=
  (if_neg (by omega)).trans (if_pos (by simp [asleep]))

end Sleep

section Frames

theorem State.linHeaderRx_of_active {id stamp : Nat} (active : s.linState n = linActive) :
    s.linHeaderRx n id stamp true false = s.linAct n id stamp := by
  simp [State.linHeaderRx, active, linActive, linWaking]

theorem State.linHeaderRx_of_error {id stamp : Nat} {sync : Bool} (active : s.linState n = linActive) :
    s.linHeaderRx n id stamp sync true = s.linHeaderError n id := by
  simp [State.linHeaderRx, active]

variable {h : LinHeader}

theorem State.linDone_subscribed {l : List Byte} (header : (s.ln n).header = some h) (acting : h.acting = true)
    (subscribes : s.fld (LIN_FR_DIR n h.id) = 2) :
    s.linDone n l .good =
      let t := (s.setLn n { s.ln n with header := none }).linReceived n h l .good
      let t := if t.linSumOk n h.id l then t.linSleepRx n h.id (linBody l) else t
      (t.linBusFree n).nslCheck := by
  simp [State.linDone, header, acting, subscribes]

theorem State.linNoresp_subscribed (header : (s.ln n).header = some h) (acting : h.acting = true)
    (subscribes : s.fld (LIN_FR_DIR n h.id) = 2) :
    s.linNoresp n = ((s.setLn n { s.ln n with header := none }).linErr n h.id 1).linBusFree n := by
  simp [State.linNoresp, State.when, header, acting, subscribes]

theorem State.linBusFree_announces (active : s.linState n = linActive) (stands : (s.ln n).running = false)
    (waits : (s.ln n).announce ≠ []) : s.linBusFree n = s.linBecomesActive n :=
  if_pos (by simp [active, stands, waits])

theorem State.linTxreq_of_publisher {i : Nat} (publishes : s.fld (LIN_FR_DIR n i) = 1)
    (idle : s.fld (LIN_FR_ISTAT n i) ≠ istatPending) : s.linTxreq n i = s.put (LIN_FR_ISTAT n i) istatPending :=
  (if_neg (by simp [publishes])).trans (if_pos (by simp [idle]))

end Frames

end Sys2Proof.Machine
end

section
/-! SUPPORT. The network-sleep unit (spec/08, R231–R234). -/

namespace Sys2Proof.Machine

variable {s t : State} {f : State → State}

/-- A write of the unit's owner that reaches it has its effect. -/
theorem nslOwned_next {m : Master} {st : Option (BitVec 64)} (reached : s.opens m NSL_CFG = true)
    (own : ownerOk (s.fld NSL_CFG_OWNER) m = true) (effect : f s = t) :
    (.next (s.access m NSL_CFG st fun u => u.nslOwned m f) : Out) = .next t :=
  congrArg Host.Outcome.next ((access_open reached).trans ((if_pos own).trans effect))

/-- The networks of the group that are awake, which the waybill records (R233). -/
def State.waybillNets (s : State) : List Nat :=
  (List.range 16).filter fun k => s.inGroup k && s.flag (NSL_STAT_AWAKE.bit k)

theorem State.waybill_of_awake (counts : s.flag NSL_CFG_LOCAL = false) (awake : s.waybillNets ≠ []) :
    s.waybill false = s.each s.waybillNets fun k t => t.waybillOne k :=
  (if_neg (by simpa [counts, State.waybillNets] using awake)).trans (if_neg Bool.false_ne_true)

end Sys2Proof.Machine
end

section
/-! THEOREMS. The obligations of the family of spec/08: the CAN channels, LIN channels and the network-sleep unit. -/

namespace Sys2Proof.Machine

/-- Settles O16: the owner's writes are taken, and each event finds the channel where its rule applies. -/
theorem canModeCommandsComplete : Obligations.CanModeCommandsComplete := by
  refine ⟨?modeWrite, ?modeChange, ?candidate, ?round, ?borec, ?recovered, ?tack, ?fault, ?faultClear, ?pattern,
    ?errored⟩
  case modeWrite =>
    exact fun s m n k reached own ram => canOwned_next reached own (State.canModeWrite_of_ram k.toNat ram)
  case modeChange =>
    exact fun s n runs between other => netEvent_next runs (State.canModeApply_between between other)
  case candidate =>
    exact fun s n runs mode more => netEvent_next runs ((if_pos (beq_iff_eq.2 mode)).trans (if_pos more))
  case round =>
    exact fun s n runs mode last => netEvent_next runs ((if_pos (beq_iff_eq.2 mode)).trans (if_neg (not_lt.2 last)))
  case borec => exact fun s m n reached own off => canOwned_next reached own (if_pos off)
  case recovered =>
    exact fun s n runs off recovering => netEvent_next runs (State.busoffEnd_of_recovering off recovering)
  case tack | fault => exact fun s n runs => netEvent_next runs rfl
  case faultClear => exact fun s n runs stands => netEvent_next runs (if_pos stands)
  case pattern =>
    exact fun s n listens mode => congrArg Host.Outcome.next (State.swEvent_pattern listens mode)
  case errored =>
    exact fun s n listens mode => congrArg Host.Outcome.next (State.swEvent_errored listens mode)

/-- Settles O17: each event finds its attempt or an idle channel, and each request is judged by its buffer. -/
theorem canTrafficCommandsComplete : Obligations.CanTrafficCommandsComplete := by
  refine ⟨?receives, ?detects, ?release, ?releaseExpress, ?request, ?unread, ?cancel, ?start, ?sent, ?lost, ?error,
    ?exception⟩
  case receives =>
    exact fun s n f st v runs receives mode => netEvent_next runs (State.canReceive_of_receiving receives mode)
  case detects => exact fun s n f st v runs mode => netEvent_next runs (State.canReceive_of_detecting mode)
  case release =>
    intro s m n k reached own idle
    have buffer : k.val ≠ 128 := Nat.ne_of_lt k.isLt
    exact canOwned_next (by simpa [buffer] using reached) own (State.canRelease_buffer buffer idle)
  case releaseExpress => exact fun s m n reached own => canOwned_next reached own rfl
  case request =>
    exact fun s m n k e reached own send idle active on read fits carried =>
      (canOwned_next reached own (State.canTxreq_of_length send idle active on read fits carried)).trans
        (by cases e <;> rfl)
  case unread =>
    exact fun s m n k reached own send idle active on =>
      canOwned_next reached own (State.canTxreq_of_active send idle active on .double)
  case cancel =>
    exact fun s m n k reached own pending still =>
      canOwned_next reached own (congrArg State.nslCheck (State.canCancel_of_waiting pending still))
  case start =>
    exact fun s n b f d e runs sends pick => netEvent_next runs (State.canStart_of_pick d.toNat e sends pick)
  case sent =>
    exact fun s n x k runs attempt buffer kept early =>
      netEvent_next runs (State.canSent_of_buffer attempt buffer kept early)
  case lost =>
    exact fun s n x runs attempt kept =>
      netEvent_next runs (congrArg State.nslCheck (State.canAttemptEnds_of_kept attempt kept))
  case error =>
    exact fun s n t r b x runs error counts => netEvent_next runs (State.canError_of_counted error counts)
  case exception => exact fun s n t r b runs pex => netEvent_next runs (if_pos (by simp [pex]))

/-- Settles O18: the owner's writes are taken, and each event finds the channel in the state that it acts on. -/
theorem linScheduleCommandsComplete : Obligations.LinScheduleCommandsComplete := by
  refine ⟨?enable, ?tackClose, ?sleepInTack, ?dominant, ?go, ?stop, ?sleepInSchedule, ?sleepNow, ?slot, ?wake, ?wakeRx,
    ?wakeRxOff, ?retry, ?idle⟩
  case enable =>
    exact fun s m n reached own disabled => linOwned_next reached own (State.linEnable_of_disabled disabled)
  case tackClose => exact fun s n runs tack => netEvent_next runs (if_pos (beq_iff_eq.2 tack))
  case sleepInTack =>
    exact fun s m n reached own commander tack =>
      linOwned_next reached own (State.gosleep_waits commander (.inr tack))
  case dominant => exact fun s n runs enabled => netEvent_next runs (if_pos enabled)
  case go => exact fun s m n k reached own commander => linOwned_next reached own (if_pos commander)
  case stop => exact fun s m n reached own running => linOwned_next reached own (if_pos running)
  case sleepInSchedule =>
    exact fun s m n reached own commander running =>
      linOwned_next reached own (State.gosleep_waits commander (.inl running))
  case sleepNow =>
    exact fun s m n reached own commander stands active =>
      linOwned_next reached own (State.gosleep_sends commander stands active)
  case slot =>
    exact fun s n runs running untacked awake quiet goes same =>
      netEvent_next runs (State.linSlotEnd_next running untacked awake quiet goes same)
  case wake => exact fun s m n reached own asleep => linOwned_next reached own (if_pos (beq_iff_eq.2 asleep))
  case wakeRx =>
    exact fun s n awake _ asleep =>
      congrArg Host.Outcome.next ((State.linWakeRx_awake awake asleep).trans (State.busWake_lin _ n 4))
  case wakeRxOff =>
    exact fun s n asleep => congrArg Host.Outcome.next ((if_pos asleep).trans (State.busWake_lin s n 4))
  case retry =>
    exact fun s n runs responder waking more =>
      netEvent_next runs
        ((State.linRetry_of_waking responder waking more).trans (State.linPulse_of_responder responder))
  case idle => exact fun s n runs responder active => netEvent_next runs (if_pos (by simp [responder, active]))

/-- Settles O19: each event finds its header, its request or its timer, and each access is taken. -/
theorem linFramesAndSleepUnitComplete : Obligations.LinFramesAndSleepUnitComplete := by
  refine ⟨?header, ?headerError, ?received, ?missing, ?announces, ?publish, ?read, ?expires, ?localOn, ?localOff,
    ?waybill⟩
  case header => exact fun s n k st runs active => netEvent_next runs (State.linHeaderRx_of_active active)
  case headerError => exact fun s n k st b runs active => netEvent_next runs (State.linHeaderRx_of_error active)
  case received =>
    exact fun s n h l runs header acting subscribes _ =>
      netEvent_next runs (State.linDone_subscribed header acting subscribes)
  case missing =>
    exact fun s n h runs header acting subscribes =>
      netEvent_next runs (State.linNoresp_subscribed header acting subscribes)
  case announces => exact fun _ _ => State.linBusFree_announces
  case publish =>
    exact fun s m n k reached own publishes idle =>
      linOwned_next reached own (State.linTxreq_of_publisher publishes idle)
  case read => exact fun s m n k a reached => congrArg Host.Outcome.next (access_open reached)
  case expires => exact fun s k runs awake => netEvent_next runs (if_pos awake)
  case localOn => exact fun s m reached own => nslOwned_next reached own rfl
  case localOff => exact fun s m reached own holds => nslOwned_next reached own (if_pos holds)
  case waybill => exact fun s runs counts awake => netEvent_next runs (State.waybill_of_awake counts awake)

end Sys2Proof.Machine
end

section
/-! SUPPORT. The Ethernet switch: frames that its ports receive and the descriptors that its internal port takes
(spec/09, R242, R243, R247). -/

namespace Sys2Proof.Machine

variable {s : State}

section Reception

variable {p stamp vbat : Nat} {f : EthFrame} (runs : s.eswRuns = true) (enabled : s.flag (ESW_PORT_CFG_PEN p) = true)

include runs enabled

theorem State.ethReceive_of_bad_fcs : s.ethReceive p f false stamp vbat = s.incSat (ESW_PORT_STAT_RXERR p) :=
  (if_neg (by simp [runs, enabled])).trans (if_pos rfl)

theorem State.ethReceive_of_admitted {v : Nat} (least : 64 ≤ ethLen f) (most : ethLen f ≤ 1522)
    (admitted : s.ethAdmit p f = some v) :
    s.ethReceive p f true stamp vbat =
      let t := s.ethSwitch p v f stamp none
      let t := if f.etype.toNat == t.fld GWE_NCFG_NETYPE then t.gweNotice (16 + p) f.payload else t
      if t.ethCmdCarrier f then t.segRx (16 + p) (.eth f) vbat else t := by
  have valid : ¬ (!true || decide (ethLen f < 64) || decide (1522 < ethLen f)) = true := by
    simp [least, most]
  exact (if_neg (by simp [runs, enabled])).trans ((if_neg valid).trans (by rw [admitted]))

end Reception

section InternalPort

variable (runs : s.eswRuns = true) (untaken : s.txWaiting.contains s.txDesc = false)

include runs untaken

/-- A descriptor whose read ends with a bus error stays as it is (log entry 96). -/
theorem State.internalTx_of_unreadable : s.internalTx .double = s.raiseL 261 :=
  (if_neg (by rw [runs, untaken]; exact Bool.false_ne_true)).trans (if_pos rfl)

theorem State.internalTx_of_owned {e : MemErr} (read : e ≠ .double) (owned : (s.word s.txDesc).testBit 63 = true) :
    s.internalTx e =
      let d := s.txDesc
      let w := s.word d
      let len := bitsOf w 40 12
      let t := s.dmaEcc e
      let f := ethOfBytes (t.bytes (bitsOf w 0 40) len)
      let u := t.txFrame w f (if w.testBit 61 then some d else none)
      if len < 60 || 1518 < len || t.txLinkDown w (t.txPorts w f) then (t.txReturn d istatAbortedFault none).txAdvance
      else (if u.txWaiting.contains d then u else u.txReturn d istatOk none).txAdvance :=
  (if_neg (by rw [runs, untaken]; exact Bool.false_ne_true)).trans (if_neg (by simp [read, owned]))

end InternalPort

end Sys2Proof.Machine
end

section
/-! SUPPORT. The route table of the gateway engine, reached through RTCMD (spec/09, R256). -/

namespace Sys2Proof.Machine

variable {s t : State}

/-- An operation of the gateway's owner that reaches RTCMD has its effect. -/
theorem gweCommandBy_next {m : Master} {op bank i : Nat} (reached : s.opens m GWE_RTCMD = true)
    (own : ownerOk (s.fld GWE_CTL_OWNER) m = true) (effect : s.gweCommand op bank i = t) :
    (.next (s.gweCommandBy m op bank i) : Out) = .next t :=
  congrArg Host.Outcome.next ((access_open reached).trans ((if_pos own).trans effect))

section Operations

variable {bank i : Nat} (idle : s.flag GWE_RTCMD_BUSY = false)

include idle

theorem State.gweCommand_read :
    s.gweCommand 1 bank i = ((s.put GWE_RTCMD_BANK bank).put GWE_RTCMD_INDEX i).gweRead bank i :=
  if_neg (by simp [idle])

theorem State.gweCommand_writeShadow :
    s.gweCommand 2 bank i =
      let u := (s.put GWE_RTCMD_BANK bank).put GWE_RTCMD_INDEX i
      u.setRoute (1 - u.gweBank) i u.gweData :=
  if_neg (by simp [idle])

theorem State.gweCommand_copy :
    s.gweCommand 3 bank i = ((s.put GWE_RTCMD_BANK bank).put GWE_RTCMD_INDEX i).put GWE_RTCMD_BUSY 1 :=
  if_neg (by simp [idle])

theorem State.gweCommand_swap :
    s.gweCommand 4 bank i =
      let u := (s.put GWE_RTCMD_BANK bank).put GWE_RTCMD_INDEX i
      u.put GWE_RTCMD_ACTIVE (1 - u.gweBank) :=
  if_neg (by simp [idle])

end Operations

/-- A copy that is under way fills the shadow bank from the bank in force, and keeps the buckets of the latter only. -/
theorem State.gweCopied_of_busy (busy : s.flag GWE_RTCMD_BUSY = true) :
    s.gweCopied =
      let live := s.gwe.route.filter fun e => e.1 / 4096 == s.gweBank
      let other := live.map fun e => ((1 - s.gweBank) * 4096 + e.1 % 4096, e.2)
      { s.put GWE_RTCMD_BUSY 0 with gwe := { s.gwe with
        route := if s.gweBank == 0 then live ++ other else other ++ live
        used := s.gwe.used.filter fun e => e.1 / 4096 == s.gweBank } } :=
  if_neg (by simp [busy])

end Sys2Proof.Machine
end

section
/-! THEOREMS. The obligation of the family of spec/09: the Ethernet switch and the gateway engine. -/

namespace Sys2Proof.Machine

/-- Settles O20: each event finds the switch or the gateway at work, and each operation is its owner's and finds no copy
  under way. -/
theorem ethernetAndGatewayCommandsComplete : Obligations.EthernetAndGatewayCommandsComplete := by
  refine ⟨?badFrame, ?validFrame, ?ages, ?linkChange, ?takes, ?unreadable, ?lookup, ?refill, ?read, ?writeShadow, ?copy,
    ?swap, ?copied⟩
  case badFrame =>
    exact fun s p f st v runs enabled => congrArg Host.Outcome.next (State.ethReceive_of_bad_fcs runs enabled)
  case validFrame =>
    exact fun s p f st v k runs enabled least most admitted =>
      congrArg Host.Outcome.next (State.ethReceive_of_admitted runs enabled least most admitted)
  case ages =>
    exact fun s k v runs aging => netEvent_next (f := fun u => u.macExpire k v.toNat) runs (if_neg (by simp [aging]))
  case linkChange =>
    exact fun s p up runs full => congrArg Host.Outcome.next (if_pos (by simp [runs, full]))
  case takes =>
    exact fun s e runs untaken read owned =>
      congrArg Host.Outcome.next (State.internalTx_of_owned runs untaken read owned)
  case unreadable =>
    exact fun s runs untaken => congrArg Host.Outcome.next (State.internalTx_of_unreadable runs untaken)
  case lookup =>
    exact fun s bad e runs enabled => congrArg Host.Outcome.next (if_pos (by simp [runs, enabled]))
  case refill => exact fun s b i runs => congrArg Host.Outcome.next (if_pos runs)
  case read =>
    exact fun s m b i reached own idle => gweCommandBy_next reached own (State.gweCommand_read idle)
  case writeShadow =>
    exact fun s m b i reached own idle => gweCommandBy_next reached own (State.gweCommand_writeShadow idle)
  case copy =>
    exact fun s m b i reached own idle => gweCommandBy_next reached own (State.gweCommand_copy idle)
  case swap =>
    exact fun s m b i reached own idle => gweCommandBy_next reached own (State.gweCommand_swap idle)
  case copied =>
    exact fun s runs busy => congrArg Host.Outcome.next ((if_pos runs).trans (State.gweCopied_of_busy busy))

end Sys2Proof.Machine
end

section
/-! SUPPORT. Vehicle access: the scan of a handle sensor, requests for polls and the running poll's states (spec/10,
R261–R276). -/

namespace Sys2Proof.Machine

variable {s t : State}

section Scan

variable {n cnt : Nat}

/-- A broken electrode ends a touch and raises the fault of the sensor, whatever it counts (R262). -/
theorem State.scan_broken :
    s.scan n cnt true =
      let t := s.put (ACC_CHST_CNT n) cnt
      let t := if s.flag (ACC_CHST_TOUCH n) then t
        else t.put (ACC_CHST_BASE n) (baseStep (s.fld (ACC_CHST_BASE n)) cnt)
      let stuck := if cnt != 0 && cnt != 0xFFFF then 0
        else if cnt == s.fld (ACC_CHST_CNT n) then (s.sensor n).stuck + 1 else 1
      ((t.setSensor n { above := 0, stuck := stuck }).putB (ACC_CHST_TOUCH n) false).raiseP 230 := by
  simp only [State.scan, Bool.true_or, if_true]

/-- A touch lasts while the difference stays at half the threshold or above; BASE stands still meanwhile (R261, R263). -/
theorem State.scan_touched (touched : s.flag (ACC_CHST_TOUCH n) = true) (low : cnt ≠ 0) (high : cnt ≠ 0xFFFF)
    (lasts : (s.fld (ACC_CH_THR n) : Int) ≤ 2 * ((cnt : Int) - s.fld (ACC_CHST_BASE n))) :
    s.scan n cnt false =
      let above := if (s.fld (ACC_CH_THR n) : Int) ≤ (cnt : Int) - s.fld (ACC_CHST_BASE n) then (s.sensor n).above + 1
        else 0
      (s.put (ACC_CHST_CNT n) cnt).setSensor n { above := above, stuck := 0 } := by
  have moving : (cnt != 0 && cnt != 0xFFFF) = true := by simp [low, high]
  simp [State.scan, touched, moving, lasts]

end Scan

section Requests

/-- A write of vehicle access's owner that reaches ACC_CMD has its effect. -/
theorem accCommandBy_next {m : Master} {poll abort : Bool} {h : Nat} (reached : s.opens m ACC_CMD = true)
    (own : ownerOk (s.fld ACC_CFG_OWNER) m = true) (effect : s.accCommand poll abort h = t) :
    (.next (s.accCommandBy m poll abort h) : Out) = .next t :=
  congrArg Host.Outcome.next ((access_open reached).trans ((if_pos own).trans effect))

/-- A request that nothing bars and that need not wait starts its poll (R264). -/
theorem State.pollRequest_of_idle {h : Nat} {software : Bool} (enabled : s.flag ACC_CFG_EN = true) (noS3 : s.s3 = false)
    (noS4 : s.s4 = false) (idle : s.acc.poll = none) (unlocked : s.acc.lockOut.locked = false)
    (awake : s.zsAsleep = false) : s.pollRequest h software = s.pollStart h := by
  simp [State.pollRequest, enabled, noS3, noS4, idle, unlocked, awake]

/-- An abort ends the running poll ABORTED and clears the pending slot (R267). -/
theorem State.accAbort_of_running {p : Poll} (running : s.acc.poll = some p) :
    s.accAbort =
      (((s.setPend none).accResult codeAborted p.handle 0 0 0 s.acc.pollNo 0xFFFF).setPoll none).put ACC_STAT_STATE
        accIdle := by
  simp only [State.accAbort, running]

section HandleSelect

variable {h : Nat}

/-- HSEL stands in a register of its own, which no other register's field shares. -/
theorem State.fld_put_hsel {f : Fld} (apart : f.addr ≠ ACC_CMD) : (s.put ACC_CMD_HSEL h).fld f = s.fld f :=
  fld_put_addr s ACC_CMD_HSEL f h apart

theorem State.zsAsleep_put_hsel : (s.put ACC_CMD_HSEL h).zsAsleep = s.zsAsleep := by
  unfold State.zsAsleep
  rw [fld_put_hsel (by decide), fld_put_hsel (by decide)]
  rfl

/-- POLL requests a poll of the handle in HSEL, which starts where nothing bars it (R264). -/
theorem State.accCommand_poll (enabled : s.flag ACC_CFG_EN = true) (noS3 : s.s3 = false) (noS4 : s.s4 = false)
    (idle : s.acc.poll = none) (unlocked : s.acc.lockOut.locked = false) (awake : s.zsAsleep = false) :
    s.accCommand true false h = (s.put ACC_CMD_HSEL h).pollStart h := by
  have kept {f : Fld} (apart : f.addr ≠ ACC_CMD) : (s.put ACC_CMD_HSEL h).flag f = s.flag f :=
    congrArg (· != 0) (fld_put_hsel apart)
  exact pollRequest_of_idle ((kept (by decide)).trans enabled) ((kept (by decide)).trans noS3)
    ((kept (by decide)).trans noS4) idle unlocked (zsAsleep_put_hsel.trans awake)

end HandleSelect

end Requests

section Steps

variable {p : Poll}

/-- A step of the running poll, in the state that it belongs to, has its effect (R265). -/
theorem pollStep_next {st : Nat} {f : State → Poll → State} (running : s.acc.poll = some p)
    (state : s.fld ACC_STAT_STATE = st) (effect : f s p = t) : (.next (s.pollStep st f) : Out) = .next t := by
  simp [State.pollStep, running, state, effect]

/-- A response in a slot that is not over yet: the script of each slot runs, empty ones first (R269; log entry 93). -/
theorem State.keyResponse_of_open {k : Nat} {runs : List RadioRun} (isOpen : p.slot ≤ k) :
    s.keyResponse k runs p =
      let e := s.emptySlots p (s.fld ACC_RGPCFG_SRESP) k
      let r := e.1.runScripts e.2 (s.fld ACC_RGPCFG_SRESP) k [] runs
      r.1.setPoll (some { r.2.1 with slot := k + 1 }) :=
  if_neg (Nat.not_lt.2 isOpen)

theorem State.keyAnswer_of_open {k : Nat} {air : List Byte} {runs : List RadioRun} (isOpen : p.slot ≤ k) :
    s.keyAnswer k air runs p =
      let e := s.emptySlots p (s.fld ACC_RGPCFG_SANS) k
      let r := e.1.runScripts e.2 (s.fld ACC_RGPCFG_SANS) k air runs
      r.1.setPoll (some { r.2.1 with answers := r.2.1.answers ++ r.2.2.toList, slot := k + 1 }) :=
  if_neg (Nat.not_lt.2 isOpen)

end Steps

end Sys2Proof.Machine
end

section
/-! THEOREMS. The obligation of the family of spec/10: vehicle access. -/

namespace Sys2Proof.Machine

/-- Settles O21: each scan finds its sensor on, each command is the owner's, and each event finds the poll in the state
  that it ends or the lock-out past its time. -/
theorem vehicleAccessCommandsComplete : Obligations.VehicleAccessCommandsComplete := by
  refine ⟨?broken, ?touched, ?poll, ?abort, ?telegram, ?wake, ?response, ?final, ?answer, ?windowEnd, ?eval, ?lockout⟩
  case broken => exact fun s n cnt on => congrArg Host.Outcome.next ((if_pos on).trans State.scan_broken)
  case touched =>
    intro s n cnt on touched low high lasts
    have notLow : cnt.toNat ≠ 0 := fun h => low (BitVec.eq_of_toNat_eq h)
    have notHigh : cnt.toNat ≠ 0xFFFF := fun h => high (BitVec.eq_of_toNat_eq h)
    exact congrArg Host.Outcome.next ((if_pos on).trans (State.scan_touched touched notLow notHigh lasts))
  case poll =>
    exact fun s m h reached own enabled noS3 noS4 idle unlocked awake =>
      accCommandBy_next reached own (State.accCommand_poll enabled noS3 noS4 idle unlocked awake)
  case abort =>
    exact fun s m h p reached own running =>
      accCommandBy_next reached own (State.accAbort_of_running (s := s.put ACC_CMD_HSEL h) running)
  case telegram => exact fun s p peaks limited running state => pollStep_next running state rfl
  case wake => exact fun s p runs running state => pollStep_next running state rfl
  case response =>
    exact fun s p k runs running state isOpen => pollStep_next running state (State.keyResponse_of_open isOpen)
  case final => exact fun s p runs running state => pollStep_next running state rfl
  case answer =>
    exact fun s p k air runs running state isOpen => pollStep_next running state (State.keyAnswer_of_open isOpen)
  case windowEnd => exact fun s p running state => pollStep_next running state rfl
  case eval => exact fun s p running state => pollStep_next running state rfl
  case lockout => exact fun s locked passed => congrArg Host.Outcome.next ((if_pos passed).trans (if_pos locked))

end Sys2Proof.Machine
end

section
/-! THEOREMS. What every step and every command keeps (spec/11, R284, R298). -/

namespace Sys2Proof.Machine

/-- The outcome is a next state. -/
def IsNext (o : Out) : Prop := ∃ t, o = .next t

theorem isNext_next (t : State) : IsNext (.next t) := ⟨t, rfl⟩

theorem isNext_ite {c : Prop} [Decidable c] {a b : Out} (ha : IsNext a) (hb : IsNext b) : IsNext (if c then a else b) := by
  split <;> assumption

/-- The dispatch has an arm for every command, and each ends in a next state on every path. -/
theorem exec_isNext (c : Instr) (s : State) : IsNext (exec c s) := by
  cases c
  case txnArmed | shadowDiscard | pointOfNoReturn | itemWindowEnd | retryAttempt | retryCountClear | ambStale |
      governorMeasure | reverseCurrentOff | reverseCurrentRecover | overvoltageEnd | saCounterTrigger |
      saTimeTrigger | saCalFail | ondiagWindowEnd | offdiagStart | offdiagResult | diagStretch | testGapStart |
      testDone | testDeadlineExpire | ldieLost | bastingHoldExpire | boostEnd | peakEnd | holdTimeEnd |
      valveReleaseDone | clampEnergyLimit | vbstOvervoltage | vbstUndervoltage | coilRmeas | vlvOcTrip |
      clampOtTrip | vlvOtTrip | vlvOffdiag | holdLowDetect | vledTrackStep | vledOvervoltage | vledOvRecover |
      vledUndervoltage | matrixSlot | matrixLineOc | dinSample | refreshWindowExpire | doutOcTrip | doutOtTrip |
      doutOffdiagStart | doutOffdiagResult | gtPeriodEvent | gtCompareEvent | gtCapture | ntuWrap | ntuSlewDone |
      ntuHoldoverExpire | ntuCapture | ntuTriggerLead | vbstOvRecover =>
    repeat' apply isNext_ite
    all_goals exact isNext_next _
  case sinkEvidence n k => cases k <;> exact isNext_ite (isNext_next _) (isNext_next _)
  case stitchShiftEnd k returned ecc =>
    change IsNext (execStitchShiftEnd k returned ecc s)
    unfold execStitchShiftEnd
    split
    · exact isNext_next _
    · exact isNext_ite (isNext_next _) (isNext_next _)
  case saConversionDone a value =>
    change IsNext (execSaConversionDone a value s)
    dsimp only [execSaConversionDone]
    split <;> exact isNext_next _
  case fadeStep n =>
    change IsNext (execFadeStep n s)
    unfold execFadeStep
    split
    · exact isNext_next _
    · exact isNext_ite (isNext_next _) (isNext_next _)
  case ntuTriggerTrail k =>
    change IsNext (execNtuTriggerTrail k s)
    unfold execNtuTriggerTrail
    split
    · exact isNext_next _
    · exact isNext_ite (isNext_next _) (isNext_next _)
  all_goals exact isNext_next _

/-- Settles O43: a step keeps, but for the queue and model time, what a command keeps. -/
theorem stepKeepsLegalPsr : Obligations.StepKeepsLegalPsr := by
  intro s t legal h
  obtain ⟨l, n, keeps⟩ := step_keeps h
  exact keeps.legal legal

/-- Settles O44: every command ends in a next state, which keeps what a command keeps. -/
theorem everyCommandCompletes : Obligations.EveryCommandCompletes := by
  intro c s
  obtain ⟨t, ht⟩ := exec_isNext c s
  have keeps := (exec_keeps c s).elim ht
  exact ⟨t, ht, keeps.pending, keeps.now, keeps.sent, keeps.freeCtr⟩

end Sys2Proof.Machine
end

section
/-! SUPPORT. The frame in which an instruction runs, once its core executes and its fetch succeeds (spec/11, R279, R288,
R293). -/

namespace Sys2Proof.Machine

section Fetched

variable {s t : State} {r : CoreRun} {n : Nat}

theorem State.instr_of_fetches (h : s.fetches r n t) (f : State → Nat → State) : s.instr r n f = f t (runEp r) := by
  obtain ⟨executes, fetched⟩ := h
  simp [State.instr, executes, fetched]

theorem State.regInstr_of_fetches (h : s.fetches r n t) (f : Core → Core) : s.regInstr r n f = t.ends r n (f (t.ran r)) :=
  instr_of_fetches h _

theorem runEp_eq_zk : runEp r = 6 ↔ r.core = 5 := by
  simp [runEp, Fin.ext_iff]

theorem State.acInstr_of_fetches (h : s.fetches r 4 t) (core : r.core ≠ 5) (f : Core → Core) :
    s.acInstr r f = t.ends r 4 (f (t.ran r)) :=
  (instr_of_fetches h _).trans (if_neg fun e => core (runEp_eq_zk.1 (beq_iff_eq.1 e)))

theorem State.acInstr_zk (h : s.fetches r 4 t) (core : r.core = 5) (f : Core → Core) :
    s.acInstr r f = t.takeExc 6 (t.core 6) vIllegal 0 none := by
  simp [State.acInstr, instr_of_fetches h, runEp_eq_zk.2 core]

theorem State.acAccess_of_fetches (h : s.fetches r 4 t) (core : r.core ≠ 5) (f : State → Nat → State) :
    s.acAccess r f = f t (runEp r) :=
  (instr_of_fetches h _).trans (if_neg fun e => core (runEp_eq_zk.1 (beq_iff_eq.1 e)))

theorem State.acAccess_zk (h : s.fetches r 4 t) (core : r.core = 5) (f : State → Nat → State) :
    s.acAccess r f = t.takeExc 6 (t.core 6) vIllegal 0 none := by
  simp [State.acAccess, instr_of_fetches h, runEp_eq_zk.2 core]

theorem State.privInstr_of_fetches (h : s.fetches r 4 t) (above : (t.ran r).level ≠ 0) (f : State → Nat → State) :
    s.privInstr r f = f t (runEp r) :=
  (instr_of_fetches h _).trans (if_neg fun e => above (beq_iff_eq.1 e))

theorem State.privInstr_user (h : s.fetches r 4 t) (user : (t.ran r).level = 0) (f : State → Nat → State) :
    s.privInstr r f = t.takeExc (runEp r) (t.ran r) vPrivilege 0 none :=
  (instr_of_fetches h _).trans (if_pos (beq_iff_eq.2 user))

end Fetched

end Sys2Proof.Machine
end

section
/-! THEOREMS. The obligations of spec/11 on the data, address and accumulator instructions. -/

namespace Sys2Proof.Machine

/-- Settles O22: each instruction changes its core's registers only, in the state that its fetch leaves. -/
theorem dataInstructionsComplete : Obligations.DataInstructionsComplete := by
  intro s t r d n m k b p w h
  have ends (f : Core → Core) : (.next (s.regInstr r 4 f) : Out) = .next (t.ends r 4 (f (t.ran r))) :=
    congrArg Host.Outcome.next (State.regInstr_of_fetches h f)
  exact ⟨ends _, ends _, ends _, ends _, ends _, ends _, ends _, ends _, ends _, ends _, ends _, ends _, ends _, ends _,
    ends _, ends _, ends _, ends _, ends _⟩

/-- Settles O23: each instruction changes its core's registers only, and a division looks at its divisor. -/
theorem immediateAndMultiplyInstructionsComplete : Obligations.ImmediateAndMultiplyInstructionsComplete := by
  have ends {s t : State} {r : CoreRun} {n : Nat} (h : s.fetches r n t) (f : Core → Core) :
      (.next (s.regInstr r n f) : Out) = .next (t.ends r n (f (t.ran r))) :=
    congrArg Host.Outcome.next (State.regInstr_of_fetches h f)
  refine ⟨?immediates, ?longs, ?products⟩
  case immediates =>
    exact fun s t r d n k v a h =>
      ⟨ends h _, ends h _, ends h _, ends h _, ends h _, ends h _, ends h _, ends h _⟩
  case longs => exact fun s t r d a v h => ⟨ends h _, ends h _, ends h _⟩
  case products =>
    exact fun s t r d n m h => ⟨ends h _, ends h _, ends h _, ends h _, ends h _, ends h _, ends h _⟩

/-- A branch other than BL (spec/11, R288). -/
theorem State.branch_of_fetches {s t : State} {r : CoreRun} {k : Fin 16} (h : s.fetches r 4 t) (o : BitVec 22)
    (plain : k ≠ 15) : exec (.branch r k o) s =
      .next (if (t.ran r).holds k then t.setCore (runEp r) ((t.ran r).goto ((t.ran r).target o)) else t.ends r 4 (t.ran r)) := by
  have notLink : (k == 15) = false := beq_false_of_ne plain
  refine congrArg Host.Outcome.next ((instr_of_fetches h _).trans ?_)
  simp only [notLink, Bool.false_eq_true, if_false]
  exact apply_ite (t.setCore (runEp r)) _ _ _

/-- Settles O24: each instruction changes its core's registers only, a jump the program counter too. -/
theorem addressInstructionsComplete : Obligations.AddressInstructionsComplete := by
  refine ⟨?registers, ?jumps⟩
  case registers =>
    intro s t r d n m x e q v h
    have ends (f : Core → Core) : (.next (s.regInstr r 4 f) : Out) = .next (t.ends r 4 (f (t.ran r))) :=
      congrArg Host.Outcome.next (State.regInstr_of_fetches h f)
    exact ⟨ends _, ends _, ends _, ends _, ends _, ends _⟩
  case jumps =>
    intro s t r n k o h
    have runs (f : State → Nat → State) : (.next (s.instr r 4 f) : Out) = .next (f t (runEp r)) :=
      congrArg Host.Outcome.next (State.instr_of_fetches h f)
    exact ⟨runs _, runs _, State.branch_of_fetches h o, runs _⟩

/-- Settles O25: on a core with accumulators each instruction changes its core's registers only; ZK takes ILLEGAL. -/
theorem accumulatorInstructionsComplete : Obligations.AccumulatorInstructionsComplete := by
  refine ⟨?withAccumulators, ?onZk⟩
  case withAccumulators =>
    intro s t r d e n m b h core
    have ends (f : Core → Core) : (.next (s.acInstr r f) : Out) = .next (t.ends r 4 (f (t.ran r))) :=
      congrArg Host.Outcome.next (State.acInstr_of_fetches h core f)
    exact ⟨ends _, ends _, ends _, ends _, ends _, ends _, ends _, ends _, ends _, ends _⟩
  case onZk =>
    intro s t r d e n m b h core
    have illegal (f : Core → Core) : (.next (s.acInstr r f) : Out) = .next (t.takeExc 6 (t.core 6) vIllegal 0 none) :=
      congrArg Host.Outcome.next (State.acInstr_zk h core f)
    exact ⟨illegal _, illegal _, illegal _, illegal _, illegal _, illegal _, illegal _, illegal _, illegal _, illegal _⟩

end Sys2Proof.Machine
end

section
/-! SUPPORT. Packed-decimal instructions by the validity of their sources (spec/11, R290, R291). -/

namespace Sys2Proof.Machine

section Decimal

variable {s t : State} {r : CoreRun} {ac : Bool} {ok : Core → Bool} {res : Core → DecRes} {put : Core → Nat → Core}

/-- The form of a decimal instruction is one that its core has: AC forms need a core other than ZK. -/
def HasForm (r : CoreRun) (ac : Bool) : Prop := ac = false ∨ r.core ≠ 5

theorem HasForm.not_zk (form : HasForm r ac) : (ac && runEp r == 6) = false := by
  rcases form with rfl | core
  · rfl
  · simp [mt runEp_eq_zk.1 core]

theorem State.decInstr_valid (h : s.fetches r 4 t) (form : HasForm r ac) (valid : ok (t.ran r) = true) :
    s.decInstr r ac ok res put = t.ends r 4 (put ((t.ran r).decFlags (res (t.ran r))) (res (t.ran r)).val) := by
  refine (instr_of_fetches h _).trans ((if_neg ?_).trans (if_pos valid))
  simp [form.not_zk]

theorem State.decInstr_invalid (h : s.fetches r 4 t) (form : HasForm r ac) (invalid : ok (t.ran r) = false) :
    s.decInstr r ac ok res put =
      if (t.ran r).dtrap then t.takeExc (runEp r) (t.ran r) vDigit 0 none
      else t.ends r 4 (put (t.ran r).badDigit 0) := by
  refine (instr_of_fetches h _).trans ((if_neg ?_).trans (if_neg (Bool.eq_false_iff.1 invalid)))
  simp [form.not_zk]

theorem State.decInstr_zk (h : s.fetches r 4 t) (core : r.core = 5) :
    s.decInstr r true ok res put = t.takeExc 6 (t.core 6) vIllegal 0 none := by
  simp [State.decInstr, instr_of_fetches h, runEp_eq_zk.2 core]

theorem digits2_of_ok {k x y : Nat} (hx : digitsOk x k = true) (hy : digitsOk y k = true) : digits2 k x y = true := by
  simp [digits2, hx, hy]

/-! The forms of two sources and of one, over D registers and over accumulators. -/

variable {f : Nat → Nat → Nat → DecRes} {g : Nat → Nat → DecRes} {d n m : Fin 32} {i j k : Fin 4}

theorem State.dec3_d_valid (h : s.fetches r 4 t) (digits : digits2 16 ((t.ran r).decD n) ((t.ran r).decD m) = true) :
    s.dec3 r (.d d n m) f =
      t.ends r 4 (putDecD d ((t.ran r).decFlags (f 16 ((t.ran r).decD n) ((t.ran r).decD m)))
        (f 16 ((t.ran r).decD n) ((t.ran r).decD m)).val) := by
  unfold State.dec3; exact decInstr_valid h (.inl rfl) digits

theorem State.dec3_d_invalid (h : s.fetches r 4 t) (bad : digits2 16 ((t.ran r).decD n) ((t.ran r).decD m) = false) :
    s.dec3 r (.d d n m) f =
      if (t.ran r).dtrap then t.takeExc (runEp r) (t.ran r) vDigit 0 none
      else t.ends r 4 (putDecD d (t.ran r).badDigit 0) := by
  unfold State.dec3; exact decInstr_invalid h (.inl rfl) bad

theorem State.dec3_ac_valid (h : s.fetches r 4 t) (core : r.core ≠ 5)
    (digits : digits2 32 ((t.ran r).decAc j) ((t.ran r).decAc k) = true) :
    s.dec3 r (.ac i j k) f =
      t.ends r 4 (putDecAc i ((t.ran r).decFlags (f 32 ((t.ran r).decAc j) ((t.ran r).decAc k)))
        (f 32 ((t.ran r).decAc j) ((t.ran r).decAc k)).val) := by
  unfold State.dec3; exact decInstr_valid h (.inr core) digits

theorem State.dec3_ac_invalid (h : s.fetches r 4 t) (core : r.core ≠ 5)
    (bad : digits2 32 ((t.ran r).decAc j) ((t.ran r).decAc k) = false) :
    s.dec3 r (.ac i j k) f =
      if (t.ran r).dtrap then t.takeExc (runEp r) (t.ran r) vDigit 0 none
      else t.ends r 4 (putDecAc i (t.ran r).badDigit 0) := by
  unfold State.dec3; exact decInstr_invalid h (.inr core) bad

theorem State.dec3_ac_zk (h : s.fetches r 4 t) (core : r.core = 5) :
    s.dec3 r (.ac i j k) f = t.takeExc 6 (t.core 6) vIllegal 0 none := by
  unfold State.dec3; exact decInstr_zk h core

theorem State.dec2_d_valid (h : s.fetches r 4 t) (digits : digitsOk ((t.ran r).decD n) 16 = true) :
    s.dec2 r (.d d n) g =
      t.ends r 4 (putDecD d ((t.ran r).decFlags (g 16 ((t.ran r).decD n))) (g 16 ((t.ran r).decD n)).val) := by
  unfold State.dec2; exact decInstr_valid h (.inl rfl) digits

theorem State.dec2_d_invalid (h : s.fetches r 4 t) (bad : digitsOk ((t.ran r).decD n) 16 = false) :
    s.dec2 r (.d d n) g =
      if (t.ran r).dtrap then t.takeExc (runEp r) (t.ran r) vDigit 0 none
      else t.ends r 4 (putDecD d (t.ran r).badDigit 0) := by
  unfold State.dec2; exact decInstr_invalid h (.inl rfl) bad

theorem State.dec2_ac_valid (h : s.fetches r 4 t) (core : r.core ≠ 5)
    (digits : digitsOk ((t.ran r).decAc j) 32 = true) :
    s.dec2 r (.ac i j) g =
      t.ends r 4 (putDecAc i ((t.ran r).decFlags (g 32 ((t.ran r).decAc j))) (g 32 ((t.ran r).decAc j)).val) := by
  unfold State.dec2; exact decInstr_valid h (.inr core) digits

theorem State.dec2_ac_invalid (h : s.fetches r 4 t) (core : r.core ≠ 5)
    (bad : digitsOk ((t.ran r).decAc j) 32 = false) :
    s.dec2 r (.ac i j) g =
      if (t.ran r).dtrap then t.takeExc (runEp r) (t.ran r) vDigit 0 none
      else t.ends r 4 (putDecAc i (t.ran r).badDigit 0) := by
  unfold State.dec2; exact decInstr_invalid h (.inr core) bad

theorem State.dec2_ac_zk (h : s.fetches r 4 t) (core : r.core = 5) :
    s.dec2 r (.ac i j) g = t.takeExc 6 (t.core 6) vIllegal 0 none := by
  unfold State.dec2; exact decInstr_zk h core

end Decimal

end Sys2Proof.Machine
end

section
/-! THEOREMS. The obligation of spec/11 on the packed-decimal instructions. -/

namespace Sys2Proof.Machine

/-- Settles O27: the sources are valid, or have another digit, or the form is one that the core lacks. -/
theorem decimalInstructionsComplete : Obligations.DecimalInstructionsComplete := by
  have next {a b : State} (e : a = b) : (.next a : Out) = .next b := congrArg Host.Outcome.next e
  refine ⟨?sum, ?diff, ?compare, ?adjust, ?left, ?right, ?toPacked, ?toBinary, ?sumAc, ?diffAc, ?compareAc, ?leftAc,
    ?rightAc, ?toPackedAc, ?toBinaryAc, ?bad2, ?bad1, ?badAc2, ?badAc1, ?onZk, ?adjustAc⟩
  case sum | diff => exact fun s t r d n m h hn hm => next (State.dec3_d_valid h (digits2_of_ok hn hm))
  case compare => exact fun s t r n m h hn hm => next (State.decInstr_valid h (.inl rfl) (digits2_of_ok hn hm))
  case adjust =>
    exact fun s t r d n h => next ((if_neg Bool.false_ne_true).trans (State.decInstr_valid h (.inl rfl) rfl))
  case left | right => exact fun s t r d n k h hn => next (State.dec2_d_valid h hn)
  case toPacked => exact fun s t r d n h => next (State.decInstr_valid h (.inl rfl) rfl)
  case toBinary => exact fun s t r d n h hn => next (State.decInstr_valid h (.inl rfl) hn)
  case sumAc | diffAc => exact fun s t r d n m h core hn hm => next (State.dec3_ac_valid h core (digits2_of_ok hn hm))
  case compareAc => exact fun s t r n m h core hn hm => next (State.decInstr_valid h (.inr core) (digits2_of_ok hn hm))
  case leftAc | rightAc => exact fun s t r d n k h core hn => next (State.dec2_ac_valid h core hn)
  case toPackedAc => exact fun s t r d n h core => next (State.decInstr_valid h (.inr core) rfl)
  case toBinaryAc => exact fun s t r d n h core hn => next (State.decInstr_valid h (.inr core) hn)
  case bad2 =>
    exact fun s t r d n m h bad => ⟨next (State.dec3_d_invalid h bad), next (State.dec3_d_invalid h bad),
      next (State.decInstr_invalid h (.inl rfl) bad)⟩
  case bad1 =>
    exact fun s t r d n k h bad => ⟨next (State.dec2_d_invalid h bad), next (State.dec2_d_invalid h bad),
      next (State.decInstr_invalid h (.inl rfl) bad)⟩
  case badAc2 =>
    exact fun s t r d n m h core bad => ⟨next (State.dec3_ac_invalid h core bad), next (State.dec3_ac_invalid h core bad),
      next (State.decInstr_invalid h (.inr core) bad)⟩
  case badAc1 =>
    exact fun s t r d n k i h core bad => ⟨next (State.dec2_ac_invalid h core bad),
      next (State.dec2_ac_invalid h core bad), next (State.decInstr_invalid h (.inr core) bad)⟩
  case onZk =>
    exact fun s t r d n m i k h core => ⟨next (State.dec3_ac_zk h core), next (State.dec3_ac_zk h core),
      next (State.decInstr_zk h core), next (State.dec2_ac_zk h core), next (State.dec2_ac_zk h core),
      next (State.decInstr_zk h core), next (State.decInstr_zk h core)⟩
  case adjustAc => exact fun s t r d n h => next ((if_pos rfl).trans (State.instr_of_fetches h _))

end Sys2Proof.Machine
end

section
/-! SUPPORT. Loads and stores that nothing stops, and the waits of WACK and WFI (spec/11, R286–R289, R293–R301). -/

namespace Sys2Proof.Machine

theorem State.dataAccess_phys {s u : State} {e va size p : Nat} {k : AccKind} {w : MemErr} (aligned : va % size = 0)
    (translates : s.translate e va k w = (u, .phys p)) : s.dataAccess e va size k w = (u, .ok p) := by
  simp [State.dataAccess, aligned, translates]

theorem State.coreLoad_value {s u v : State} {e va size p n : Nat} {x : LoadDest} {sx : Bool} {q w : MemErr}
    (aligned : va % size = 0) (translates : s.translate e va .read w = (u, .phys p))
    (loads : u.load (epMaster e) p size q = (v, .value n)) :
    s.coreLoad e va size x sx q w = v.loadLands e x n size sx := by
  simp [State.coreLoad, dataAccess_phys aligned translates, loads]

theorem State.coreStore_done {s u v : State} {e va size p x : Nat} {q w : MemErr} (aligned : va % size = 0)
    (translates : s.translate e va .write w = (u, .phys p))
    (stores : (u.setCore e ((u.core e).advance 4)).store (epMaster e) p size x q = (v, .done)) :
    s.coreStore e va size x q w = v := by
  simp [State.coreStore, dataAccess_phys aligned translates, stores]

section SpecialRegisters

variable {s t : State} {r : CoreRun} {f : State → Nat → State}

theorem State.srAccess_of_level {l : Nat} (h : s.fetches r 4 t) (may : l ≤ (t.ran r).level) :
    s.srAccess r (some l) f = f t (runEp r) :=
  (instr_of_fetches h _).trans (if_neg (Nat.not_lt.2 may))

theorem State.srAccess_unknown (h : s.fetches r 4 t) :
    s.srAccess r none f = t.takeExc (runEp r) (t.ran r) vIllegal 0 none :=
  instr_of_fetches h _

/-- No special register is written that is not read. -/
theorem srWriteLevel_of_unknown {sr : Nat} (h : srReadLevel sr = none) : srWriteLevel sr = none := by
  have notPtbr : sr ≠ 0x40 := by rintro rfl; cases h
  simp [srWriteLevel, notPtbr, h]

theorem State.mfsr_of_level {d : Fin 32} {sr l : Nat} (h : s.fetches r 4 t) (known : srReadLevel sr = some l)
    (may : l ≤ (t.ran r).level) :
    s.mfsr r d sr =
      (t.srRead (runEp r) sr).1.ends r 4 (((t.srRead (runEp r) sr).1.ran r).writeD d (t.srRead (runEp r) sr).2) := by
  unfold State.mfsr
  rw [known]
  exact srAccess_of_level h may

theorem State.mtsr_of_level {n : Fin 32} {sr l : Nat} (h : s.fetches r 4 t) (known : srWriteLevel sr = some l)
    (may : l ≤ (t.ran r).level) :
    s.mtsr r sr n =
      (t.srWrite (runEp r) sr ((t.ran r).readD n)).ends r 4 ((t.srWrite (runEp r) sr ((t.ran r).readD n)).ran r) := by
  unfold State.mtsr
  rw [known]
  exact srAccess_of_level h may

theorem State.mfsr_unknown {d : Fin 32} {sr : Nat} (h : s.fetches r 4 t) (unknown : srReadLevel sr = none) :
    s.mfsr r d sr = t.takeExc (runEp r) (t.ran r) vIllegal 0 none := by
  unfold State.mfsr
  rw [unknown]
  exact srAccess_unknown h

theorem State.mtsr_unknown {n : Fin 32} {sr : Nat} (h : s.fetches r 4 t) (unknown : srReadLevel sr = none) :
    s.mtsr r sr n = t.takeExc (runEp r) (t.ran r) vIllegal 0 none := by
  unfold State.mtsr
  rw [srWriteLevel_of_unknown unknown]
  exact srAccess_unknown h

end SpecialRegisters

section Mailbox

variable {s : State} {e : Nat} {d : Fin 32} {b k : Nat}

theorem State.wpost_of_side {v : BitVec 64} (side : s.mbxSide? b e = some k) :
    s.wpost e d b v =
      let p := s.mbxPost b k v
      (p.1.setCore e (((p.1.core e).writeD d (BitVec.ofNat 64 ((p.1.side b k).queue.length * 16 + p.2))).advance
        4)).gateWords := by
  simp [State.wpost, side]

theorem State.wpost_foreign {v : BitVec 64} (foreign : s.mbxSide? b e = none) :
    s.wpost e d b v =
      s.draw.2.setCore e
        (((s.core e).writeD d (BitVec.ofNat 64 (s.draw.1.toNat % 16 * 16 + istatPolicy))).advance 4) := by
  simp [State.wpost, foreign]

theorem State.wack_foreign {timed : Bool} (foreign : s.mbxSide? b e = none) :
    s.wack e d b timed = s.setCore e (((s.core e).writeD d 0x40).advance 4) := by
  simp [State.wack, foreign]

theorem State.wack_empty {timed : Bool} (side : s.mbxSide? b e = some k) (empty : (s.side b k).queue = []) :
    s.wack e d b timed = s.setCore e (((s.core e).writeD d 0x40).advance 4) := by
  simp [State.wack, side, empty]

theorem State.wack_waits {m : Fin 16} {timed : Bool} {x : MboxWord} {l : List MboxWord} (side : s.mbxSide? m e = some k)
    (waiting : (s.side m k).queue = x :: l) :
    s.wack e d m timed =
      let u := s.setCore e { s.core e with wait := some (.wack d m timed) }
      (u.setSide m k { u.side m k with wait := some x.tag }).crossed m k := by
  simp [State.wack, side, waiting]

theorem State.wackTimeout_of_waiting {m : Fin 16} (waits : (s.core e).wait = some (.wack d m true))
    (side : s.mbxSide? m e = some k) : s.wackTimeout e = s.wackEnd e m k 0x21 := by
  simp [State.wackTimeout, waits, side]

end Mailbox

theorem State.lockstepStop_of_pair {s : State} (p : Fin 2)
    (on : (if p.val = 0 then s.cpu.lock01 else s.cpu.lock23) = true) (released : (s.core (2 * p + 1)).released = true)
    (runs : (s.core (2 * p + 1)).stopped = false) :
    s.lockstepStop p =
      (s.setCore (2 * p + 1) { s.core (2 * p + 1) with stopped := true }).raiseL (240 + p) := by
  refine if_pos ?_
  simp only [beq_iff_eq, on, released, runs, Bool.not_false, Bool.and_self]

end Sys2Proof.Machine
end

section
/-! THEOREMS. The obligations of spec/11 on loads and stores, the mailbox instructions and the system instructions. -/

namespace Sys2Proof.Machine

/-- Settles O26: an access that nothing stops ends with its value landed or stored; ZK lacks the accumulator forms. -/
theorem loadStoreInstructionsComplete : Obligations.LoadStoreInstructionsComplete := by
  have next {a b : State} (e : a = b) : (.next a : Out) = .next b := congrArg Host.Outcome.next e
  refine ⟨?load, ?store, ?loadAc, ?storeAc, ?onZk⟩
  case load =>
    exact fun s t u v r x w b a q p n h aligned translates loads =>
      next ((State.instr_of_fetches h _).trans (State.coreLoad_value aligned translates loads))
  case store =>
    exact fun s t u v r x w a q p h aligned translates stores =>
      next ((State.instr_of_fetches h _).trans (State.coreStore_done aligned translates stores))
  case loadAc =>
    exact fun s t u v r d a q p n h core aligned translates loads =>
      next ((State.acAccess_of_fetches h core _).trans (State.coreLoad_value aligned translates loads))
  case storeAc =>
    exact fun s t u v r d a q p h core aligned translates stores =>
      next ((State.acAccess_of_fetches h core _).trans (State.coreStore_done aligned translates stores))
  case onZk =>
    exact fun s t r d a q h core => ⟨next (State.acAccess_zk h core _), next (State.acAccess_zk h core _)⟩

/-- Settles O28: the mailbox is the core's or not, and its queue has an unfinished word or none. -/
theorem mailboxInstructionsComplete : Obligations.MailboxInstructionsComplete := by
  have next {a b : State} (e : a = b) : (.next a : Out) = .next b := congrArg Host.Outcome.next e
  refine ⟨?post, ?foreign, ?none, ?waits, ?timeout⟩
  case post =>
    exact fun s t r d n b k h above side => next ((State.privInstr_of_fetches h above _).trans (State.wpost_of_side side))
  case foreign =>
    exact fun s t r d n b h above foreign =>
      ⟨next ((State.privInstr_of_fetches h above _).trans (State.wpost_foreign foreign)),
        next ((State.privInstr_of_fetches h above _).trans (State.wack_foreign foreign))⟩
  case none =>
    exact fun s t r d n b k h above side empty =>
      next ((State.privInstr_of_fetches h above _).trans (State.wack_empty side empty))
  case waits =>
    exact fun s t r d n b k x l h above side waiting =>
      next ((State.privInstr_of_fetches h above _).trans (State.wack_waits side waiting))
  case timeout => exact fun s n d b k waits side => next (State.wackTimeout_of_waiting waits side)

/-- Settles O29: each instruction finds the level that it needs, and each event its wait, its source or its pair. -/
theorem systemInstructionsComplete : Obligations.SystemInstructionsComplete := by
  have next {a b : State} (e : a = b) : (.next a : Out) = .next b := congrArg Host.Outcome.next e
  refine ⟨?read, ?write, ?controller, ?unknown, ?trap, ?privileged, ?wake, ?deliver, ?lockstep⟩
  case read => exact fun s t r d n l h known may => next (State.mfsr_of_level h known may)
  case write => exact fun s t r d n l h known may => next (State.mtsr_of_level h known may)
  case controller =>
    intro s t r d h above
    have may : 1 ≤ (t.ran r).level := Nat.pos_of_ne_zero above
    exact ⟨next (State.mfsr_of_level h (sr := 0x101) rfl may), next (State.mtsr_of_level h (sr := 0x102) rfl may)⟩
  case unknown => exact fun s t r d n h no => ⟨next (State.mfsr_unknown h no), next (State.mtsr_unknown h no)⟩
  case trap => exact fun s t r h => next (State.instr_of_fetches h _)
  case privileged =>
    intro s t r k h above
    have runs (f : State → Nat → State) : (.next (s.privInstr r f) : Out) = .next (f t (runEp r)) :=
      next (State.privInstr_of_fetches h above f)
    exact ⟨runs _, runs _, runs _, runs _, runs _, runs _⟩
  case wake => exact fun s n waits qualifies => next (if_pos (by simp [waits, qualifies]))
  case deliver => exact fun s n due => next (if_pos due)
  case lockstep => exact fun s p on released runs => next (State.lockstepStop_of_pair p on released runs)

end Sys2Proof.Machine
end

section
/-! SUPPORT. The open load windows of a register: what opens one, what ends one, and what a slot instruction writes
(spec/11, R286, R287). -/

namespace Sys2Proof.Machine

/-- The open windows of a register, oldest first. -/
def openOn (x : LoadDest) (l : List Window) : List Window := l.filter (·.dest == x)

/-- The windows that are still open when each has one slot fewer. -/
def slotsFewer (l : List Window) : List Window :=
  (l.map fun w => { w with left := w.left - 1 }).filter fun w => w.left != 0

/-- The oldest of a register's windows with another old value. -/
def oldestWith (v : BitVec 128) : List Window → List Window
  | [] => []
  | w :: r => { w with old := v } :: r

theorem Core.old_eq_head (c : Core) (x : LoadDest) : c.old x = (openOn x c.windows).head?.map (·.old) := by
  rw [openOn, List.head?_filter, Core.old]

theorem openOn_eq_nil_of_old {c : Core} {x : LoadDest} (h : c.old x = none) : openOn x c.windows = [] := by
  simpa [Core.old_eq_head] using h

/-- The window that a load opens on a register with none open is its only one. -/
theorem openOn_opened {c : Core} {x : LoadDest} (h : c.old x = none) (n : Nat) (v : BitVec 128) :
    openOn x (c.windows ++ [⟨x, n, v⟩]) = [⟨x, n, v⟩] := by
  have none : c.windows.filter (·.dest == x) = [] := openOn_eq_nil_of_old h
  rw [openOn, List.filter_append, none]
  simp

theorem openOn_slotsFewer (x : LoadDest) (l : List Window) : openOn x (slotsFewer l) = slotsFewer (openOn x l) := by
  simp only [openOn, slotsFewer, List.filter_filter, List.filter_map]
  congr 1
  exact List.filter_congr fun w _ => Bool.and_comm _ _

theorem openOn_setOld (x : LoadDest) (v : BitVec 128) (l : List Window) :
    openOn x (setOld x v l) = oldestWith v (openOn x l) := by
  induction l with
  | nil => rfl
  | cons w l ih =>
    by_cases h : w.dest == x
    · simp [setOld, openOn, oldestWith, h]
    · simpa [setOld, openOn, h] using ih

theorem Core.openOn_goto (c : Core) (x : LoadDest) (a : BitVec 64) :
    openOn x (c.goto a).windows = slotsFewer (openOn x c.windows) := openOn_slotsFewer x c.windows

theorem Core.openOn_advance (c : Core) (x : LoadDest) (n : Nat) :
    openOn x (c.advance n).windows = slotsFewer (openOn x c.windows) := openOn_goto ..

section Read

variable {c : Core}

theorem Core.readD_of_nil {i : Fin 32} (h : openOn (.d i) c.windows = []) : c.readD i = c.rawD i := by
  simp [Core.readD, Core.old_eq_head, h]

theorem Core.readA_of_nil {i : Fin 16} (h : openOn (.a i) c.windows = []) : c.readA i = c.rawA i := by
  simp [Core.readA, Core.old_eq_head, h]

theorem Core.readAc_of_nil {i : Fin 4} (h : openOn (.ac i) c.windows = []) : c.readAc i = c.rawAc i := by
  simp [Core.readAc, Core.old_eq_head, h]

theorem Core.readD_of_cons {i : Fin 32} {w : Window} {l : List Window} (h : openOn (.d i) c.windows = w :: l) :
    c.readD i = w.old.setWidth 64 := by
  simp [Core.readD, Core.old_eq_head, h]

theorem Core.readA_of_cons {i : Fin 16} {w : Window} {l : List Window} (h : openOn (.a i) c.windows = w :: l) :
    c.readA i = w.old.setWidth 64 := by
  simp [Core.readA, Core.old_eq_head, h]

theorem Core.readAc_of_cons {i : Fin 4} {w : Window} {l : List Window} (h : openOn (.ac i) c.windows = w :: l) :
    c.readAc i = w.old := by
  simp [Core.readAc, Core.old_eq_head, h]

end Read

section Write

variable {c : Core} {w : Window} {l : List Window}

/-- A register with a window open takes no write itself: its oldest window does. -/
theorem Core.writeD_of_open {i : Fin 32} (h : openOn (.d i) c.windows = w :: l) (v : BitVec 64) :
    c.writeD i v = { c with windows := setOld (.d i) (v.setWidth 128) c.windows } := by
  simp [Core.writeD, Core.old_eq_head, h]

theorem Core.writeA_of_open {i : Fin 16} (h : openOn (.a i) c.windows = w :: l) (v : BitVec 64) :
    c.writeA i v = { c with windows := setOld (.a i) (v.setWidth 128) c.windows } := by
  simp [Core.writeA, Core.old_eq_head, h]

theorem Core.writeAc_of_open {i : Fin 4} (h : openOn (.ac i) c.windows = w :: l) (v : BitVec 128) :
    c.writeAc i v = { c with windows := setOld (.ac i) v c.windows } := by
  simp [Core.writeAc, Core.old_eq_head, h]

end Write

section Land

variable {c : Core} {v : BitVec 128}

theorem Core.openOn_landLoad_d {i : Fin 32} (h : c.old (.d i) = none) :
    openOn (.d i) (c.landLoad (.d i) v).windows = [⟨.d i, 1, (c.rawD i).setWidth 128⟩] := openOn_opened h ..

theorem Core.openOn_landLoad_a {i : Fin 16} (h : c.old (.a i) = none) :
    openOn (.a i) (c.landLoad (.a i) v).windows = [⟨.a i, 1, (c.rawA i).setWidth 128⟩] := openOn_opened h ..

theorem Core.openOn_landLoad_ac {k : Fin 4} (h : c.old (.ac k) = none) :
    openOn (.ac k) (c.landLoad (.ac k) v).windows = [⟨.ac k, 2, c.rawAc k⟩] := openOn_opened h ..

theorem Core.rawD_landLoad (i : Fin 32) : (c.landLoad (.d i) v).rawD i = v.setWidth 64 := tget_tset_self ..

theorem Core.rawA_landLoad (i : Fin 16) : (c.landLoad (.a i) v).rawA i = v.setWidth 64 := by
  by_cases h : i = 15
  · simp [Core.landLoad, Core.rawA, Core.setRawA, Core.level, h]
  · simp [Core.landLoad, Core.rawA, Core.setRawA, h]

theorem Core.rawAc_landLoad (k : Fin 4) : (c.landLoad (.ac k) v).rawAc k = v := tget_tset_self ..

end Land

end Sys2Proof.Machine
end

section
/-! THEOREMS. The obligation of spec/11 on load delay slots. -/

namespace Sys2Proof.Machine

/-- Settles O45: the window that a load opens is the register's only one, and a slot instruction's write goes into it. -/
theorem loadDelaySlots : Obligations.LoadDelaySlots := by
  refine ⟨?data, ?address, ?accumulator⟩
  case data =>
    intro c i v w a n closed l
    have window : openOn (.d i) l.windows = [⟨.d i, 1, (c.rawD i).setWidth 128⟩] := Core.openOn_landLoad_d closed
    have landed : l.rawD i = v.setWidth 64 := Core.rawD_landLoad i
    have after (x : Core) (a : BitVec 64) (left : slotsFewer (openOn (.d i) x.windows) = []) (raw : x.rawD i = l.rawD i) :
        (x.goto a).readD i = v.setWidth 64 :=
      (Core.readD_of_nil ((x.openOn_goto _ a).trans left)).trans (raw.trans landed)
    refine ⟨?_, after _ _ (by rw [window]; rfl) rfl, after _ _ (by rw [window]; rfl) rfl, ?_⟩
    · rw [Core.readD_of_cons window, BitVec.setWidth_setWidth_of_le _ (by decide), BitVec.setWidth_eq]
    · rw [Core.writeD_of_open window]
      exact after _ _ (by rw [openOn_setOld, window]; rfl) rfl
  case address =>
    intro c i v w n closed l
    have window : openOn (.a i) l.windows = [⟨.a i, 1, (c.rawA i).setWidth 128⟩] := Core.openOn_landLoad_a closed
    have landed : l.rawA i = v.setWidth 64 := Core.rawA_landLoad i
    have after (x : Core) (left : slotsFewer (openOn (.a i) x.windows) = []) (raw : x.rawA i = l.rawA i) :
        (x.advance n).readA i = v.setWidth 64 :=
      (Core.readA_of_nil ((x.openOn_advance _ n).trans left)).trans (raw.trans landed)
    refine ⟨?_, after _ (by rw [window]; rfl) rfl, ?_⟩
    · rw [Core.readA_of_cons window, BitVec.setWidth_setWidth_of_le _ (by decide), BitVec.setWidth_eq]
    · rw [Core.writeA_of_open window]
      exact after _ (by rw [openOn_setOld, window]; rfl) rfl
  case accumulator =>
    intro c k v w n m closed l
    have window : openOn (.ac k) l.windows = [⟨.ac k, 2, c.rawAc k⟩] := Core.openOn_landLoad_ac closed
    have landed : l.rawAc k = v := Core.rawAc_landLoad k
    have after (x : Core) (left : slotsFewer (slotsFewer (openOn (.ac k) x.windows)) = []) (raw : x.rawAc k = l.rawAc k) :
        ((x.advance n).advance m).readAc k = v := by
      refine (Core.readAc_of_nil ?_).trans (raw.trans landed)
      rw [Core.openOn_advance, Core.openOn_advance, left]
    refine ⟨Core.readAc_of_cons window, ?_, after _ (by rw [window]; rfl) rfl, ?_⟩
    · exact Core.readAc_of_cons (w := ⟨.ac k, 1, c.rawAc k⟩) (l := []) (by rw [Core.openOn_advance, window]; rfl)
    · rw [Core.writeAc_of_open window]
      exact after _ (by rw [openOn_setOld, window]; rfl) rfl

end Sys2Proof.Machine
end

section
/-! SUPPORT. The fields of PSR after a write of one, and the flags of sums and differences by value (spec/11, R284). -/

namespace Sys2Proof.Machine

/-- A bit of a word with a field replaced. -/
theorem bvInto_getLsbD (v : BitVec 64) (lo w x : Nat) {i : Nat} (hi : i < 64) :
    (bvInto v lo w x).getLsbD i = if lo ≤ i ∧ i < lo + w then x.testBit (i - lo) else v.getLsbD i := by
  unfold bvInto
  simp only [BitVec.getLsbD_or, BitVec.getLsbD_and, BitVec.getLsbD_not, BitVec.getLsbD_ofNat, hi, decide_true,
    Bool.true_and, Nat.testBit_mul_two_pow, Nat.testBit_two_pow_sub_one, Nat.testBit_mod_two_pow]
  by_cases low : lo ≤ i
  · by_cases high : i < lo + w
    · simp [low, high, show i - lo < w by omega]
    · simp [low, high, show ¬ i - lo < w by omega]
  · simp [low]

/-- A field shows the bits of its word. -/
theorem bvField_testBit (v : BitVec 64) (lo w : Nat) (i : Nat) :
    (bvField v lo w).testBit i = (decide (i < w) && v.getLsbD (lo + i)) := by
  rw [bvField, Nat.testBit_mod_two_pow, Nat.testBit_div_two_pow, BitVec.testBit_toNat, Nat.add_comm]

/-- Two words with the same bits in a field have the same field. -/
theorem bvField_congr {v u : BitVec 64} {lo w : Nat} (h : ∀ i, lo ≤ i → i < lo + w → v.getLsbD i = u.getLsbD i) :
    bvField v lo w = bvField u lo w := by
  refine Nat.eq_of_testBit_eq fun i => ?_
  rw [bvField_testBit, bvField_testBit]
  by_cases hi : i < w
  · rw [h (lo + i) (by omega) (by omega)]
  · simp [hi]

/-- The field written reads what was written. -/
theorem bvField_bvInto (v : BitVec 64) {lo w : Nat} (x : Nat) (h : lo + w ≤ 64) :
    bvField (bvInto v lo w x) lo w = x % 2 ^ w := by
  refine Nat.eq_of_testBit_eq fun i => ?_
  rw [bvField_testBit, Nat.testBit_mod_two_pow]
  by_cases hi : i < w
  · rw [bvInto_getLsbD v lo w x (by omega), if_pos ⟨by omega, by omega⟩, Nat.add_sub_cancel_left]
  · simp [hi]

/-- A field apart from the one written stays. -/
theorem bvField_bvInto_ne (v : BitVec 64) {lo w a n : Nat} (x : Nat) (inside : a + n ≤ 64)
    (apart : a + n ≤ lo ∨ lo + w ≤ a) : bvField (bvInto v lo w x) a n = bvField v a n :=
  bvField_congr fun i low high => by
    rw [bvInto_getLsbD v lo w x (by omega), if_neg (by omega)]

/-- PSR after the four flags and the nibble carries are written. -/
theorem Core.setNzcv_psr (c : Core) (n z k v : Bool) :
    (c.setNzcv n z k v).psr =
      bvInto (bvInto (bvInto (bvInto c.psr 3 1 n.toNat) 2 1 z.toNat) 1 1 k.toNat) 0 1 v.toNat := rfl

section Flags

variable (c : Core) (n z k v : Bool)

@[simp] theorem Core.flagN_setNzcv : (c.setNzcv n z k v).flagN = n := by
  cases n <;> simp [-BitVec.getLsbD_eq_getElem, Core.flagN, Core.setNzcv_psr, bvInto_getLsbD]
@[simp] theorem Core.flagZ_setNzcv : (c.setNzcv n z k v).flagZ = z := by
  cases z <;> simp [-BitVec.getLsbD_eq_getElem, Core.flagZ, Core.setNzcv_psr, bvInto_getLsbD]
@[simp] theorem Core.flagC_setNzcv : (c.setNzcv n z k v).flagC = k := by
  cases k <;> simp [-BitVec.getLsbD_eq_getElem, Core.flagC, Core.setNzcv_psr, bvInto_getLsbD]
@[simp] theorem Core.flagV_setNzcv : (c.setNzcv n z k v).flagV = v := by
  cases v <;> simp [-BitVec.getLsbD_eq_getElem, Core.flagV, Core.setNzcv_psr, bvInto_getLsbD]

/-- The flags lie below every other field of PSR. -/
theorem Core.setNzcv_psr_getLsbD {i : Nat} (low : 4 ≤ i) (high : i < 64) :
    (c.setNzcv n z k v).psr.getLsbD i = c.psr.getLsbD i := by
  rw [Core.setNzcv_psr, bvInto_getLsbD _ _ _ _ high, if_neg (by omega), bvInto_getLsbD _ _ _ _ high, if_neg (by omega),
    bvInto_getLsbD _ _ _ _ high, if_neg (by omega), bvInto_getLsbD _ _ _ _ high, if_neg (by omega)]

@[simp] theorem Core.nc_setNzcv : (c.setNzcv n z k v).nc = c.nc :=
  congrArg (BitVec.ofNat 16) (bvField_congr fun _ low high => setNzcv_psr_getLsbD c n z k v (by omega) (by omega))
@[simp] theorem Core.level_setNzcv : (c.setNzcv n z k v).level = c.level :=
  bvField_congr fun _ low high => setNzcv_psr_getLsbD c n z k v (by omega) (by omega)
@[simp] theorem Core.exl_setNzcv : (c.setNzcv n z k v).exl = c.exl :=
  setNzcv_psr_getLsbD c n z k v (by decide) (by decide)
@[simp] theorem Core.ie_setNzcv : (c.setNzcv n z k v).ie = c.ie :=
  setNzcv_psr_getLsbD c n z k v (by decide) (by decide)
@[simp] theorem Core.dtrap_setNzcv : (c.setNzcv n z k v).dtrap = c.dtrap :=
  setNzcv_psr_getLsbD c n z k v (by decide) (by decide)
@[simp] theorem Core.satm_setNzcv : (c.setNzcv n z k v).satm = c.satm :=
  setNzcv_psr_getLsbD c n z k v (by decide) (by decide)

end Flags

section NibbleCarries

variable (c : Core) (x : BitVec 16)

/-- The nibble carries lie above every other field of PSR but the reserved bits. -/
theorem Core.setNc_psr_getLsbD {i : Nat} (low : i < 32) : (c.setNc x).psr.getLsbD i = c.psr.getLsbD i :=
  (bvInto_getLsbD c.psr 32 16 x.toNat (by omega)).trans (if_neg (by omega))

@[simp] theorem Core.nc_setNc : (c.setNc x).nc = x := by
  have written : bvField (c.setNc x).psr 32 16 = x.toNat % 2 ^ 16 := bvField_bvInto _ _ (by decide)
  rw [Core.nc, written, Nat.mod_eq_of_lt x.isLt, BitVec.ofNat_toNat, BitVec.setWidth_eq]
@[simp] theorem Core.flagN_setNc : (c.setNc x).flagN = c.flagN := setNc_psr_getLsbD c x (by decide)
@[simp] theorem Core.flagZ_setNc : (c.setNc x).flagZ = c.flagZ := setNc_psr_getLsbD c x (by decide)
@[simp] theorem Core.flagC_setNc : (c.setNc x).flagC = c.flagC := setNc_psr_getLsbD c x (by decide)
@[simp] theorem Core.flagV_setNc : (c.setNc x).flagV = c.flagV := setNc_psr_getLsbD c x (by decide)
@[simp] theorem Core.level_setNc : (c.setNc x).level = c.level :=
  bvField_congr fun _ low high => setNc_psr_getLsbD c x (by omega)
@[simp] theorem Core.exl_setNc : (c.setNc x).exl = c.exl := setNc_psr_getLsbD c x (by decide)
@[simp] theorem Core.ie_setNc : (c.setNc x).ie = c.ie := setNc_psr_getLsbD c x (by decide)
@[simp] theorem Core.dtrap_setNc : (c.setNc x).dtrap = c.dtrap := setNc_psr_getLsbD c x (by decide)
@[simp] theorem Core.satm_setNc : (c.setNc x).satm = c.satm := setNc_psr_getLsbD c x (by decide)

end NibbleCarries

theorem neg_eq_msb (x : BitVec 64) : neg x = x.msb := rfl

/-- A sum overflows where its terms have one sign and it has the other. -/
theorem add_overflow_iff (x y r : BitVec 64) (k : Nat) (hk : k ≤ 1) (hr : r = BitVec.ofNat 64 (x.toNat + y.toNat + k)) :
    (neg x == neg y && neg r != neg x) = decide (r.toInt ≠ x.toInt + y.toInt + k) := by
  have hx := x.isLt
  have hy := y.isLt
  have value : r.toNat = (x.toNat + y.toNat + k) % 2 ^ 64 := by rw [hr, BitVec.toNat_ofNat]
  rw [neg_eq_msb, neg_eq_msb, neg_eq_msb, BitVec.msb_eq_decide, BitVec.msb_eq_decide, BitVec.msb_eq_decide,
    BitVec.toInt_eq_toNat_cond, BitVec.toInt_eq_toNat_cond, BitVec.toInt_eq_toNat_cond, value]
  rw [Bool.eq_iff_iff]
  simp only [Bool.and_eq_true, beq_iff_eq, bne_iff_ne, decide_eq_decide, decide_eq_true_eq, ne_eq]
  split_ifs <;> omega

/-- A difference overflows where its terms differ in sign and it has not the first one's. -/
theorem sub_overflow_iff (x y r : BitVec 64) (k : Nat) (hk : k ≤ 1) (hr : r = x - y - BitVec.ofNat 64 k) :
    (neg x != neg y && neg r != neg x) = decide (r.toInt ≠ x.toInt - y.toInt - k) := by
  have hx := x.isLt
  have hy := y.isLt
  have value : r.toNat = (2 ^ 64 + 2 ^ 64 + x.toNat - y.toNat - k) % 2 ^ 64 := by
    rw [hr, BitVec.toNat_sub, BitVec.toNat_sub, BitVec.toNat_ofNat]
    omega
  rw [neg_eq_msb, neg_eq_msb, neg_eq_msb, BitVec.msb_eq_decide, BitVec.msb_eq_decide, BitVec.msb_eq_decide,
    BitVec.toInt_eq_toNat_cond, BitVec.toInt_eq_toNat_cond, BitVec.toInt_eq_toNat_cond, value]
  rw [Bool.eq_iff_iff]
  simp only [Bool.and_eq_true, bne_iff_ne, decide_eq_decide, decide_eq_true_eq, ne_eq]
  split_ifs <;> omega

/-- Bits gathered one after another: bit `i` of the number is the condition of `i`. -/
theorem foldl_bits_testBit (p : Nat → Prop) [DecidablePred p] (k : Nat) :
    (List.range k).foldl (fun n i => if p i then n + 2 ^ i else n) 0 < 2 ^ k ∧
    ∀ i, ((List.range k).foldl (fun n i => if p i then n + 2 ^ i else n) 0).testBit i = decide (i < k ∧ p i) := by
  induction k with
  | zero => simp
  | succ k ih =>
    obtain ⟨bound, bits⟩ := ih
    rw [List.range_succ, List.foldl_append, List.foldl_cons, List.foldl_nil]
    generalize (List.range k).foldl (fun n i => if p i then n + 2 ^ i else n) 0 = m at bound bits ⊢
    have double : 2 ^ (k + 1) = 2 ^ k + 2 ^ k := by rw [pow_succ]; omega
    by_cases hk : p k
    · rw [if_pos hk]
      refine ⟨by omega, fun i => ?_⟩
      rw [Nat.add_comm m]
      rcases Nat.lt_trichotomy i k with h | rfl | h
      · rw [Nat.testBit_two_pow_add_gt h, bits]
        exact decide_eq_decide.2 ⟨fun ⟨_, q⟩ => ⟨by omega, q⟩, fun ⟨_, q⟩ => ⟨h, q⟩⟩
      · rw [Nat.testBit_two_pow_add_eq, Nat.testBit_lt_two_pow bound]
        simp [hk]
      · rw [Nat.testBit_lt_two_pow (Nat.lt_of_lt_of_le (by omega : 2 ^ k + m < 2 ^ (k + 1)) (Nat.pow_le_pow_right (by decide) h))]
        simp [show ¬ i < k + 1 by omega]
    · rw [if_neg hk]
      refine ⟨by omega, fun i => ?_⟩
      rw [bits]
      refine decide_eq_decide.2 ⟨fun ⟨h, q⟩ => ⟨by omega, q⟩, fun ⟨h, q⟩ => ⟨?_, q⟩⟩
      exact Nat.lt_of_le_of_ne (Nat.le_of_lt_succ h) fun e => hk (e ▸ q)

/-- NC bit `i` of an addition says that a carry leaves nibble `i`. -/
theorem nibbleCarries_getLsbD (x y : BitVec 64) (k : Nat) {i : Nat} (hi : i < 16) :
    (nibbleCarries x y k).getLsbD i =
      decide (16 ^ (i + 1) ≤ x.toNat % 16 ^ (i + 1) + y.toNat % 16 ^ (i + 1) + k) := by
  have width : 2 ^ (4 * i + 4) = 16 ^ (i + 1) := by rw [show 4 * i + 4 = 4 * (i + 1) by omega, pow_mul]; norm_num
  have bits := (foldl_bits_testBit
    (fun i => 2 ^ (4 * i + 4) ≤ x.toNat % 2 ^ (4 * i + 4) + y.toNat % 2 ^ (4 * i + 4) + k) 16).2 i
  rw [nibbleCarries, BitVec.getLsbD_ofNat, decide_eq_true hi, Bool.true_and]
  refine bits.trans (decide_eq_decide.2 ?_)
  rw [width]
  exact and_iff_right hi

end Sys2Proof.Machine
end

section
/-! THEOREMS. The obligation of spec/11 on the flags of additions and subtractions. -/

namespace Sys2Proof.Machine

/-- Settles O48: each flag is the one that was written, and says of the operands what its rule says. -/
theorem arithmeticFlagsByValue : Obligations.ArithmeticFlagsByValue := by
  intro c x y b
  have carry : b.toNat ≤ 1 := Bool.toNat_le b
  refine ⟨⟨?sum, ?_, ?_, ?_, ?overflow, ?nibbles, ?_, ?_, ?_, ?_, ?_⟩,
    ?_, ?_, ?_, ?_, ?borrowed, ?_, ?_, ?_, ?_, ?_, ?_⟩
  case sum => simp [Core.addFlags, BitVec.ofNat_add]
  case overflow =>
    exact (Core.flagV_setNc _ _).trans ((Core.flagV_setNzcv ..).trans (add_overflow_iff x y _ _ carry rfl))
  case nibbles => simpa [Core.addFlags] using fun i hi => nibbleCarries_getLsbD x y b.toNat hi
  case borrowed => exact (Core.flagV_setNzcv ..).trans (sub_overflow_iff x y _ _ carry rfl)
  all_goals simp [Core.addFlags, Core.subFlags, neg_eq_msb, Bool.beq_eq_decide_eq]

end Sys2Proof.Machine
end

section
/-! SUPPORT. Entry to a level, its return, and which exception is taken where (spec/11, R297–R299). -/

namespace Sys2Proof.Machine

section Enter

variable (c : Core) (l vec detail : Nat) (eva : BitVec 64)

/-- What entry to a level writes into the level's exception registers. -/
def Core.entered : ExcRegs :=
  { c.exc l with
    epc := c.pc, esr := c.psr, ecause := BitVec.ofNat 64 (detail * 256 + vec), eva := eva, edly := c.windows,
    edlyRaw := [] }

theorem Core.exc_setExc (x : ExcRegs) : (c.setExc l x).exc l = x := by
  unfold Core.setExc
  by_cases h : (l == 2) = true <;> simp [Core.exc, h]

theorem Core.exc_enter : (c.enter l vec detail eva).exc l = c.entered l vec detail eva :=
  Core.exc_setExc c l (c.entered l vec detail eva)

theorem Core.psr_enter : (c.enter l vec detail eva).psr = bvInto c.psr 12 4 (l * 4 + 2) := rfl

theorem Core.level_enter (h : l ≤ 2) : (c.enter l vec detail eva).level = l := by
  refine Nat.eq_of_testBit_eq fun i => ?_
  rw [Core.level, bvField_testBit, Core.psr_enter]
  by_cases hi : i < 2
  · rw [bvInto_getLsbD _ _ _ _ (by omega), if_pos (by omega), show 14 + i - 12 = i + 2 by omega, Nat.testBit_add]
    simp [hi, show (l * 4 + 2) / 4 = l by omega]
  · have small : l < 2 ^ i := Nat.lt_of_lt_of_le (by omega : l < 2 ^ 2) (Nat.pow_le_pow_right (by decide) (by omega))
    simp [hi, Nat.testBit_lt_two_pow small]

theorem Core.exl_enter : (c.enter l vec detail eva).exl = true := by
  rw [Core.exl, Core.psr_enter, bvInto_getLsbD _ _ _ _ (by decide), if_pos (by decide), Nat.testBit_eq_decide_div_mod_eq]
  exact decide_eq_true (by omega)

theorem Core.ie_enter : (c.enter l vec detail eva).ie = false := by
  rw [Core.ie, Core.psr_enter, bvInto_getLsbD _ _ _ _ (by decide), if_pos (by decide), Nat.testBit_eq_decide_div_mod_eq]
  exact decide_eq_false (by omega)

/-- A write of the whole PSR above user level, of a value that differs in the written fields only, takes that value. -/
theorem psrWrite_restores {old v : BitVec 64} (same : ∀ i < 64, (i < 10 ∨ 16 ≤ i) → old.getLsbD i = v.getLsbD i)
    (level : bvField v 14 2 ≠ 3) : psrWrite old v false = v := by
  have written : (old &&& ~~~ (0x0000FFFF0000FC3F : BitVec 64)) ||| (v &&& 0x0000FFFF0000FC3F) = v := by
    refine BitVec.eq_of_getLsbD_eq fun i hi => ?_
    simp only [BitVec.getLsbD_or, BitVec.getLsbD_and, BitVec.getLsbD_not, hi, decide_true, Bool.true_and]
    cases masked : (0x0000FFFF0000FC3F : BitVec 64).getLsbD i
    · rw [same i hi]
      · simp
      · by_contra inside
        have : i = 10 ∨ i = 11 ∨ i = 12 ∨ i = 13 ∨ i = 14 ∨ i = 15 := by omega
        rcases this with rfl | rfl | rfl | rfl | rfl | rfl <;> exact absurd masked (by decide)
    · simp
  simp only [psrWrite, Bool.false_eq_true, if_false]
  rw [written, if_neg (by simpa using level)]

/-- ERET after entry to a level that exists restores PSR, the windows and the program counter. -/
theorem Core.eret_enter (h : l ≤ 2) (level : c.level ≤ 2) :
    (c.enter l vec detail eva).eret =
      { c.enter l vec detail eva with psr := c.psr, pc := c.pc, windows := c.windows } := by
  have restored : psrWrite (c.enter l vec detail eva).psr c.psr false = c.psr := by
    refine psrWrite_restores (fun i hi outside => ?_) (fun three => ?_)
    · rw [Core.psr_enter, bvInto_getLsbD _ _ _ _ hi, if_neg (by omega)]
    · rw [Core.level, three] at level
      exact absurd level (by decide)
  have saved : (c.enter l vec detail eva).exc (c.enter l vec detail eva).level = c.entered l vec detail eva := by
    rw [Core.level_enter c l vec detail eva h, Core.exc_enter]
  unfold Core.eret
  simp only [saved]
  exact congrArg (fun p => { c.enter l vec detail eva with psr := p, pc := c.pc, windows := c.windows }) restored

end Enter

section Taken

variable (s : State) (e vec detail : Nat) (c : Core)

theorem State.takeExc_halts (a : Option Nat) (level : c.level = 2) (exl : c.exl = true) :
    s.takeExc e c vec detail a = (s.setCore e { c with halted := true, windows := [], wait := none }).raiseL (241 + e) :=
  if_pos (by simp [level, exl])

/-- An exception that does not halt is an entry to the level that it is bound for. -/
theorem State.core_takeExc (a : Nat) (running : ¬ (c.level = 2 ∧ c.exl = true)) :
    (s.takeExc e c vec detail (some a)).core e =
      c.enter (c.excTarget vec detail).1 (c.excTarget vec detail).2.1 (c.excTarget vec detail).2.2 (BitVec.ofNat 64 a) := by
  have notHalt : ¬ (c.level == 2 && c.exl) = true := by simpa using running
  unfold State.takeExc
  rw [if_neg notHalt]
  exact core_setCore ..

/-- One bound for supervisor level while EXL is 1 there is a double fault. -/
theorem Core.excTarget_double (level : c.level = 1) (exl : c.exl = true) (call : vec ≠ 10) (check : vec ≠ 11) :
    c.excTarget vec detail = (2, 11, 0x10) := by
  simp [Core.excTarget, level, exl, call, check, vMcall, vMachineCheck]

theorem Core.excTarget_single (single : ¬ (c.level = 1 ∧ c.exl = true ∧ vec ≠ 10 ∧ vec ≠ 11)) :
    c.excTarget vec detail = (max (if vec = 10 ∨ vec = 11 then 2 else 1) c.level, vec, detail) := by
  unfold Core.excTarget
  by_cases bound : vec = 10 ∨ vec = 11
  · have monitor : max 2 c.level ≠ 1 := by omega
    rcases bound with rfl | rfl <;> simp [vMcall, vMachineCheck, monitor]
  · have notBoth : ¬ (c.level = 1 ∧ c.exl = true) := fun ⟨level, exl⟩ => single ⟨level, exl, by omega, by omega⟩
    have vectors : (vec == vMcall || vec == vMachineCheck) = false := by simpa [vMcall, vMachineCheck] using bound
    simp only [vectors, bound, if_false, Bool.false_eq_true]
    refine if_neg fun both => notBoth ?_
    simp only [Bool.and_eq_true, beq_iff_eq] at both
    exact ⟨both.1.2, both.2⟩

end Taken

theorem State.not_executes_of_halted {s : State} {e : Nat} (h : (s.core e).halted = true) : s.executes e = false := by
  simp [State.executes, h]

end Sys2Proof.Machine
end

section
/-! THEOREMS. The obligation of spec/11 on exceptions. -/

namespace Sys2Proof.Machine

/-- Settles O49: entry saves what ERET restores; where an exception is bound for, and what halts. -/
theorem exceptionEntryAndReturn : Obligations.ExceptionEntryAndReturn := by
  refine ⟨?entry, ?taken, ?halts, ?halted, ?ret⟩
  case entry =>
    intro c lvl vec d eva hl level x r
    have isLevel : lvl ≤ 2 := by omega
    have saved : r = c.entered lvl vec d eva := Core.exc_enter c lvl vec d eva
    have back : x.eret = { x with psr := c.psr, pc := c.pc, windows := c.windows } :=
      Core.eret_enter c lvl vec d eva isLevel level
    rw [saved, back]
    exact ⟨rfl, rfl, rfl, rfl, rfl, rfl, Core.level_enter c lvl vec d eva isLevel, Core.exl_enter c lvl vec d eva,
      Core.ie_enter c lvl vec d eva, rfl, rfl, rfl, rfl⟩
  case taken =>
    intro s e vec d a c running
    rw [State.core_takeExc s e vec d c a running]
    split
    · rename_i double
      obtain ⟨level, exl, call, check⟩ := double
      rw [Core.excTarget_double vec d c level exl call check]
    · rename_i single
      rw [Core.excTarget_single vec d c single]
  case halts =>
    intro s e vec d a c level exl
    rw [State.takeExc_halts s (e + 1) vec d c a level exl, show 241 + (e + 1) = 242 + e by omega]
  case halted =>
    intro s e h
    have off := State.not_executes_of_halted h
    refine ⟨off, fun r t n hr fetched => ?_⟩
    rw [← hr] at off
    exact absurd (off.symm.trans fetched.1) Bool.false_ne_true
  case ret =>
    exact fun s t r h => ⟨fun user => congrArg Host.Outcome.next (State.privInstr_user h user _),
      fun above => congrArg Host.Outcome.next (State.privInstr_of_fetches h above _)⟩

end Sys2Proof.Machine
end

section
/-! SUPPORT. What writes of a core's registers leave of the core and of the device (spec/11, R281–R285, R305). -/

namespace Sys2Proof.Machine

/-- Everything outside a core stays: the other cores, the registers of blocks, memory, flash and the mailboxes. -/
def State.SameOutside (e : Nat) (t u : State) : Prop :=
  (∀ j, j ≠ e → u.core j = t.core j) ∧ u.regs = t.regs ∧ (∀ y, u.byte y = t.byte y) ∧
    (∀ y, u.flashByte y = t.flashByte y) ∧ u.mbx = t.mbx

/-- What of a core no register instruction changes: its special registers, its interrupt controller, its cached
translations and whether it runs. -/
def Core.SameControl (c c' : Core) : Prop :=
  c'.excS = c.excS ∧ c'.excM = c.excM ∧ c'.ptbr = c.ptbr ∧ c'.asid = c.asid ∧ c'.icCur = c.icCur ∧
    c'.icStack = c.icStack ∧ c'.icEn = c.icEn ∧ c'.icPri = c.icPri ∧ c'.tlb = c.tlb ∧ c'.released = c.released ∧
    c'.halted = c.halted ∧ c'.stopped = c.stopped ∧ c'.wait = c.wait

/-- PSR stays but for the bits of a mask. -/
def Core.KeepsPsr (mask : BitVec 64) (c c' : Core) : Prop := c'.psr &&& ~~~ mask = c.psr &&& ~~~ mask

theorem State.setCore_sameOutside (t : State) (e : Nat) (x : Core) : State.SameOutside e t (t.setCore e x) :=
  ⟨fun _ h => core_setCore_ne t x h, rfl, fun _ => rfl, fun _ => rfl, rfl⟩

theorem Core.SameControl.refl (c : Core) : c.SameControl c :=
  ⟨rfl, rfl, rfl, rfl, rfl, rfl, rfl, rfl, rfl, rfl, rfl, rfl, rfl⟩

/-- The data registers but one, and every other register class, stay; flags may change under the mask. -/
def Core.WritesD (d : Fin 32) (c c' : Core) : Prop :=
  (∀ j, j ≠ d → c'.rawD j = c.rawD j) ∧ c'.a = c.a ∧ c'.sp = c.sp ∧ c'.ac = c.ac

/-- The address registers but one, and every other register class, stay; for A15 it is the present level's stack
pointer that changes. -/
def Core.WritesA (a : Fin 16) (c c' : Core) : Prop :=
  (∀ j, j ≠ a → j ≠ 15 → c'.rawA j = c.rawA j) ∧ (a ≠ 15 → c'.sp = c.sp) ∧
    (∀ l, l ≠ c.level → tget 0 c'.sp l = tget 0 c.sp l) ∧ c'.d = c.d ∧ c'.ac = c.ac

/-- The accumulators but one, and every other register class, stay. -/
def Core.WritesAc (q : Fin 4) (c c' : Core) : Prop :=
  (∀ j, j ≠ q → c'.rawAc j = c.rawAc j) ∧ c'.d = c.d ∧ c'.a = c.a ∧ c'.sp = c.sp

section

variable (c : Core)

theorem Core.writeD_sameControl (d : Fin 32) (v : BitVec 64) : c.SameControl (c.writeD d v) := by
  unfold Core.writeD; split <;> exact Core.SameControl.refl c

theorem Core.writeA_sameControl (a : Fin 16) (v : BitVec 64) : c.SameControl (c.writeA a v) := by
  unfold Core.writeA Core.setRawA; split_ifs <;> exact Core.SameControl.refl c

theorem Core.writeAc_sameControl (q : Fin 4) (v : BitVec 128) : c.SameControl (c.writeAc q v) := by
  unfold Core.writeAc; split <;> exact Core.SameControl.refl c

theorem Core.writeD_psr (d : Fin 32) (v : BitVec 64) : (c.writeD d v).psr = c.psr := by
  unfold Core.writeD; split <;> rfl

theorem Core.writeA_psr (a : Fin 16) (v : BitVec 64) : (c.writeA a v).psr = c.psr := by
  unfold Core.writeA Core.setRawA; split_ifs <;> rfl

theorem Core.writeAc_psr (q : Fin 4) (v : BitVec 128) : (c.writeAc q v).psr = c.psr := by
  unfold Core.writeAc; split <;> rfl

theorem Core.writeD_writesD (d : Fin 32) (v : BitVec 64) : Core.WritesD d c (c.writeD d v) := by
  unfold Core.writeD
  split
  · exact ⟨fun _ _ => rfl, rfl, rfl, rfl⟩
  · exact ⟨fun j hj => tget_tset_ne _ _ _ _ (mt Fin.ext hj), rfl, rfl, rfl⟩

theorem Core.writeA_writesA (a : Fin 16) (v : BitVec 64) : Core.WritesA a c (c.writeA a v) := by
  unfold Core.writeA Core.setRawA
  split_ifs with window stack
  · exact ⟨fun _ _ _ => rfl, fun _ => rfl, fun _ _ => rfl, rfl, rfl⟩
  · refine ⟨fun j _ h15 => ?_, fun h => absurd (beq_iff_eq.1 stack) h, fun l hl => tget_tset_ne _ _ _ _ hl, rfl, rfl⟩
    simp [Core.rawA, h15]
  · refine ⟨fun j hj h15 => ?_, fun _ => rfl, fun _ _ => rfl, rfl, rfl⟩
    simpa [Core.rawA, h15] using tget_tset_ne _ _ _ _ (mt Fin.ext hj)

theorem Core.writeAc_writesAc (q : Fin 4) (v : BitVec 128) : Core.WritesAc q c (c.writeAc q v) := by
  unfold Core.writeAc
  split
  · exact ⟨fun _ _ => rfl, rfl, rfl, rfl⟩
  · exact ⟨fun j hj => tget_tset_ne _ _ _ _ (mt Fin.ext hj), rfl, rfl, rfl⟩

theorem Core.SameControl.trans {c c' c'' : Core} (h : c.SameControl c') (k : c'.SameControl c'') : c.SameControl c'' := by
  obtain ⟨h1, h2, h3, h4, h5, h6, h7, h8, h9, h10, h11, h12, h13⟩ := h
  obtain ⟨k1, k2, k3, k4, k5, k6, k7, k8, k9, k10, k11, k12, k13⟩ := k
  exact ⟨k1.trans h1, k2.trans h2, k3.trans h3, k4.trans h4, k5.trans h5, k6.trans h6, k7.trans h7, k8.trans h8,
    k9.trans h9, k10.trans h10, k11.trans h11, k12.trans h12, k13.trans h13⟩

theorem Core.WritesD.trans {d : Fin 32} {c c' c'' : Core} (h : Core.WritesD d c c') (k : Core.WritesD d c' c'') :
    Core.WritesD d c c'' := by
  obtain ⟨hd, ha, hsp, hac⟩ := h
  obtain ⟨kd, ka, ksp, kac⟩ := k
  exact ⟨fun j hj => (kd j hj).trans (hd j hj), ka.trans ha, ksp.trans hsp, kac.trans hac⟩

theorem Core.setPsr_sameControl (lo w x : Nat) : c.SameControl (c.setPsr lo w x) :=
  ⟨rfl, rfl, rfl, rfl, rfl, rfl, rfl, rfl, rfl, rfl, rfl, rfl, rfl⟩

theorem Core.setPsr_writesD (d : Fin 32) (lo w x : Nat) : Core.WritesD d c (c.setPsr lo w x) :=
  ⟨fun _ _ => rfl, rfl, rfl, rfl⟩

theorem Core.setNzcv_sameControl (n z k v : Bool) : c.SameControl (c.setNzcv n z k v) :=
  (((c.setPsr_sameControl ..).trans (Core.setPsr_sameControl ..)).trans (Core.setPsr_sameControl ..)).trans
    (Core.setPsr_sameControl ..)

theorem Core.setNzcv_writesD (d : Fin 32) (n z k v : Bool) : Core.WritesD d c (c.setNzcv n z k v) :=
  (((c.setPsr_writesD d ..).trans (Core.setPsr_writesD _ d ..)).trans (Core.setPsr_writesD _ d ..)).trans
    (Core.setPsr_writesD _ d ..)

theorem Core.subFlags_sameControl (x y : BitVec 64) (k : Nat) : c.SameControl (c.subFlags x y k).1 :=
  Core.setNzcv_sameControl ..

theorem Core.subFlags_writesD (d : Fin 32) (x y : BitVec 64) (k : Nat) : Core.WritesD d c (c.subFlags x y k).1 :=
  Core.setNzcv_writesD ..

theorem Core.setNzcv_registers (n z k v : Bool) :
    (c.setNzcv n z k v).d = c.d ∧ (c.setNzcv n z k v).a = c.a ∧ (c.setNzcv n z k v).sp = c.sp ∧
      (c.setNzcv n z k v).ac = c.ac := ⟨rfl, rfl, rfl, rfl⟩

theorem Core.subFlags_registers (x y : BitVec 64) (k : Nat) :
    (c.subFlags x y k).1.d = c.d ∧ (c.subFlags x y k).1.a = c.a ∧ (c.subFlags x y k).1.sp = c.sp ∧
      (c.subFlags x y k).1.ac = c.ac := Core.setNzcv_registers ..

theorem Core.addFlags_sameControl (x y : BitVec 64) (k : Nat) : c.SameControl (c.addFlags x y k).1 :=
  (c.setNzcv_sameControl ..).trans (Core.setPsr_sameControl ..)

theorem Core.addFlags_writesD (d : Fin 32) (x y : BitVec 64) (k : Nat) : Core.WritesD d c (c.addFlags x y k).1 :=
  (c.setNzcv_writesD d ..).trans (Core.setPsr_writesD _ d ..)

theorem Core.setNzcv_keepsPsr {mask : BitVec 64} (inside : mask &&& 0xF = 0xF) (n z k v : Bool) :
    Core.KeepsPsr mask c (c.setNzcv n z k v) := by
  refine BitVec.eq_of_getLsbD_eq fun i hi => ?_
  rw [BitVec.getLsbD_and, BitVec.getLsbD_and]
  by_cases low : 4 ≤ i
  · rw [Core.setNzcv_psr_getLsbD c n z k v low hi]
  · have bit := congrArg (fun x => x.getLsbD i) inside
    have inF : (0xF : BitVec 64).getLsbD i = true := by
      have : i = 0 ∨ i = 1 ∨ i = 2 ∨ i = 3 := by omega
      rcases this with rfl | rfl | rfl | rfl <;> rfl
    simp only [BitVec.getLsbD_and, inF, Bool.and_true] at bit
    rw [BitVec.getLsbD_not, bit]
    simp

theorem Core.subFlags_keepsPsr (x y : BitVec 64) (k : Nat) : Core.KeepsPsr 0xF c (c.subFlags x y k).1 :=
  Core.setNzcv_keepsPsr c (by decide) ..

theorem Core.addFlags_keepsPsr (x y : BitVec 64) (k : Nat) : Core.KeepsPsr 0x0000FFFF0000000F c (c.addFlags x y k).1 :=
  (bvInto_mask (by decide)).trans (Core.setNzcv_keepsPsr c (by decide) ..)

theorem Core.setQ_keepsPsr (b : Bool) : Core.KeepsPsr 0x10 c (c.setQ b) := by
  unfold Core.setQ
  split
  · exact bvInto_mask (by decide)
  · rfl

theorem Core.setQ_sameControl (b : Bool) : c.SameControl (c.setQ b) := by
  unfold Core.setQ; split <;> exact Core.SameControl.refl c

theorem Core.setQ_registers (b : Bool) :
    (c.setQ b).d = c.d ∧ (c.setQ b).a = c.a ∧ (c.setQ b).sp = c.sp ∧ (c.setQ b).ac = c.ac := by
  unfold Core.setQ; split <;> exact ⟨rfl, rfl, rfl, rfl⟩

/-- A result with flags into a data register changes what its flags and that register change. -/
theorem Core.putD_frame {mask : BitVec 64} (d : Fin 32) {p : Core × BitVec 64} {c : Core} (control : c.SameControl p.1)
    (psr : c.KeepsPsr mask p.1) (registers : Core.WritesD d c p.1) :
    c.SameControl (putD d p) ∧ c.KeepsPsr mask (putD d p) ∧ Core.WritesD d c (putD d p) :=
  ⟨control.trans (p.1.writeD_sameControl d p.2), (congrArg (· &&& ~~~ mask) (p.1.writeD_psr d p.2)).trans psr,
    registers.trans (p.1.writeD_writesD d p.2)⟩

/-- An accumulator written, and Q set or left. -/
theorem Core.setQ_writeAc_frame (q : Fin 4) (b : Bool) (v : BitVec 128) :
    c.SameControl ((c.setQ b).writeAc q v) ∧ c.KeepsPsr 0x10 ((c.setQ b).writeAc q v) ∧
      Core.WritesAc q c ((c.setQ b).writeAc q v) := by
  obtain ⟨data, address, stack, accumulators⟩ := c.setQ_registers b
  obtain ⟨kept, d, a, sp⟩ := (c.setQ b).writeAc_writesAc q v
  refine ⟨(c.setQ_sameControl b).trans ((c.setQ b).writeAc_sameControl q v),
    (congrArg (· &&& ~~~ (0x10 : BitVec 64)) ((c.setQ b).writeAc_psr q v)).trans (c.setQ_keepsPsr b),
    fun j hj => (kept j hj).trans ?_, d.trans data, a.trans address, sp.trans stack⟩
  exact congrArg (fun x => tget 0 x j.val) accumulators

/-- A multiply-accumulate writes its accumulator, and Q where it saturates. -/
theorem Core.macResult_eq (q : Fin 4) (x : Int) : ∃ b v, c.macResult q x = (c.setQ b).writeAc q v := by
  unfold Core.macResult
  split_ifs
  · exact ⟨false, _, rfl⟩
  · exact ⟨true, _, rfl⟩
  · exact ⟨true, _, rfl⟩
  · exact ⟨false, _, rfl⟩

end

end Sys2Proof.Machine
end

section
/-! THEOREMS. The obligation of spec/11 on what register instructions leave unchanged. -/

namespace Sys2Proof.Machine

/-- Settles O54: each instruction ends with one register written, or flags, or both. -/
theorem coreInstructionFrame : Obligations.CoreInstructionFrame := by
  intro s t u r d n m v a b x k q z g w h fetched e c c' outside special keeps
  have ends (f : Core → Core) : (.next (s.regInstr r 4 f) : Out) = .next (t.ends r 4 (f (t.ran r))) :=
    congrArg Host.Outcome.next (State.regInstr_of_fetches fetched f)
  have after {i : Instr} {y : Core} (eff : exec i s = .next (t.ends r 4 y)) (hu : exec i s = .next u) {F : Core → Prop}
      (advances : ∀ x, F x → F (x.advance 4)) (frame : F y) : State.SameOutside e t u ∧ F c' := by
    obtain rfl : t.ends r 4 y = u := Host.Outcome.next.inj (eff.symm.trans hu)
    have core : c' = y.advance 4 := core_setCore t e (y.advance 4)
    exact ⟨State.setCore_sameOutside .., core ▸ advances y frame⟩
  refine ⟨?data, ?add, ?sub, ?compare, ?address, ?accumulator⟩
  case data =>
    have writes : ∀ i ∈ [Instr.and r d n m, .or r d n m, .xor r d n m, .andn r d n m, .shift r k d n m,
        .rotate r z d n m, .bitFieldExtract r d n g w z, .bitFieldInsert r d n g w, .clz r d n, .popc r d n,
        .min r d n m, .max r d n m, .mov r d n, .andi r d n v, .ori r d n v, .xori r d n v, .shiftImmediate r k d n g,
        .movi r d v, .mul r d n m, .mulh r d n m, .mulhu r d n m, .movd r d a],
        ∃ y, exec i s = .next (t.ends r 4 (c.writeD d y)) := by
      simp only [List.forall_mem_cons]
      exact ⟨⟨_, ends _⟩, ⟨_, ends _⟩, ⟨_, ends _⟩, ⟨_, ends _⟩, ⟨_, ends _⟩, ⟨_, ends _⟩, ⟨_, ends _⟩, ⟨_, ends _⟩,
        ⟨_, ends _⟩, ⟨_, ends _⟩, ⟨_, ends _⟩, ⟨_, ends _⟩, ⟨_, ends _⟩, ⟨_, ends _⟩, ⟨_, ends _⟩, ⟨_, ends _⟩,
        ⟨_, ends _⟩, ⟨_, ends _⟩, ⟨_, ends _⟩, ⟨_, ends _⟩, ⟨_, ends _⟩, ⟨_, ends _⟩, List.forall_mem_nil _⟩
    intro i hi hu
    obtain ⟨y, eff⟩ := writes i hi
    exact after eff hu (F := fun x => c.SameControl x ∧ x.psr = c.psr ∧ Core.WritesD d c x) (fun _ h => h)
      ⟨c.writeD_sameControl d y, c.writeD_psr d y, c.writeD_writesD d y⟩
  case add =>
    have writes : ∀ i ∈ [Instr.add r d n m, .addc r d n m, .addi r d n v],
        ∃ y y' l, exec i s = .next (t.ends r 4 (putD d (c.addFlags y y' l))) := by
      simp only [List.forall_mem_cons]
      exact ⟨⟨_, _, _, ends _⟩, ⟨_, _, _, ends _⟩, ⟨_, _, _, ends _⟩, List.forall_mem_nil _⟩
    intro i hi hu
    obtain ⟨y, y', l, eff⟩ := writes i hi
    exact after eff hu (F := fun x => c.SameControl x ∧ c.KeepsPsr 0x0000FFFF0000000F x ∧ Core.WritesD d c x) (fun _ h => h)
      (Core.putD_frame d (c.addFlags_sameControl y y' l) (c.addFlags_keepsPsr y y' l) (c.addFlags_writesD d y y' l))
  case sub =>
    have writes : ∀ i ∈ [Instr.sub r d n m, .subc r d n m, .subi r d n v],
        ∃ y y' l, exec i s = .next (t.ends r 4 (putD d (c.subFlags y y' l))) := by
      simp only [List.forall_mem_cons]
      exact ⟨⟨_, _, _, ends _⟩, ⟨_, _, _, ends _⟩, ⟨_, _, _, ends _⟩, List.forall_mem_nil _⟩
    intro i hi hu
    obtain ⟨y, y', l, eff⟩ := writes i hi
    exact after eff hu (F := fun x => c.SameControl x ∧ c.KeepsPsr 0xF x ∧ Core.WritesD d c x) (fun _ h => h)
      (Core.putD_frame d (c.subFlags_sameControl y y' l) (c.subFlags_keepsPsr y y' l) (c.subFlags_writesD d y y' l))
  case compare =>
    have writes : ∀ i ∈ [Instr.cmp r n m, .cmpi r n v, .cmpa r a b],
        ∃ y y', exec i s = .next (t.ends r 4 (c.subFlags y y' 0).1) := by
      simp only [List.forall_mem_cons]
      exact ⟨⟨_, _, ends _⟩, ⟨_, _, ends _⟩, ⟨_, _, ends _⟩, List.forall_mem_nil _⟩
    intro i hi hu
    obtain ⟨y, y', eff⟩ := writes i hi
    exact after eff hu
      (F := fun x => c.SameControl x ∧ c.KeepsPsr 0xF x ∧ x.d = c.d ∧ x.a = c.a ∧ x.sp = c.sp ∧ x.ac = c.ac) (fun _ h => h)
      ⟨c.subFlags_sameControl y y' 0, c.subFlags_keepsPsr y y' 0, c.subFlags_registers y y' 0⟩
  case address =>
    have writes : ∀ i ∈ [Instr.adda r a b x, .suba r a b x, .lea r a b n q v, .mova r a n],
        ∃ y, exec i s = .next (t.ends r 4 (c.writeA a y)) := by
      simp only [List.forall_mem_cons]
      exact ⟨⟨_, ends _⟩, ⟨_, ends _⟩, ⟨_, ends _⟩, ⟨_, ends _⟩, List.forall_mem_nil _⟩
    intro i hi hu
    obtain ⟨y, eff⟩ := writes i hi
    exact after eff hu (F := fun x => c.SameControl x ∧ x.psr = c.psr ∧ Core.WritesA a c x) (fun _ h => h)
      ⟨c.writeA_sameControl a y, c.writeA_psr a y, c.writeA_writesA a y⟩
  case accumulator =>
    intro core
    have acEnds (f : Core → Core) : (.next (s.acInstr r f) : Out) = .next (t.ends r 4 (f (t.ran r))) :=
      congrArg Host.Outcome.next (State.acInstr_of_fetches fetched core f)
    have plain (f : Core → BitVec 128) :
        ∃ y l, (.next (s.acInstr r fun c => c.writeAc q (f c)) : Out) = .next (t.ends r 4 ((c.setQ y).writeAc q l)) :=
      ⟨false, _, acEnds _⟩
    have saturating (f : Core → Int) :
        ∃ y l, (.next (s.acInstr r fun c => c.macResult q (f c)) : Out) = .next (t.ends r 4 ((c.setQ y).writeAc q l)) := by
      obtain ⟨y, l, result⟩ := c.macResult_eq q (f c)
      exact ⟨y, l, (acEnds _).trans (congrArg (fun x => Host.Outcome.next (t.ends r 4 x)) result)⟩
    have writes : ∀ i ∈ [Instr.mac r q n m, .msu r q n m, .mulac r q n m, .sat r q, .rnd r q h, .ashr r q h,
        .mvdac r q n m, .clrac r q], ∃ y l, exec i s = .next (t.ends r 4 ((c.setQ y).writeAc q l)) := by
      simp only [List.forall_mem_cons]
      exact ⟨saturating _, saturating _, plain _, ⟨_, _, acEnds _⟩, plain _, plain _, plain _, plain _,
        List.forall_mem_nil _⟩
    intro i hi hu
    obtain ⟨y, l, eff⟩ := writes i hi
    exact after eff hu (F := fun x => c.SameControl x ∧ c.KeepsPsr 0x10 x ∧ Core.WritesAc q c x) (fun _ h => h)
      (Core.setQ_writeAc_frame c q y l)

end Sys2Proof.Machine
end

section
/-! SUPPORT. The bytes that a store leaves in SRAM (spec/11, R289; spec/13, R329, R336). -/

namespace Sys2Proof.Machine

theorem State.byte_setByte (s : State) (a : Nat) (v : Byte) (y : Nat) :
    (s.setByte a v).byte y = if y = a then v else s.byte y := by
  by_cases h : y = a
  · subst h; simp [State.byte, State.setByte]
  · exact (tget_tset_ne (memRest y) (memRest a) s.mem v h).trans (if_neg h).symm

theorem natLe_length (n v : Nat) : (natLe n v).length = n := by
  induction n generalizing v with
  | zero => rfl
  | succ n ih => simp [natLe, ih]

/-- The bytes of a value are its digits. -/
theorem natLe_getElem (n v : Nat) {i : Nat} (h : i < (natLe n v).length) :
    (natLe n v)[i] = BitVec.ofNat 8 (v / 2 ^ (8 * i)) := by
  induction n generalizing v i with
  | zero => exact absurd h (Nat.not_lt_zero i)
  | succ n ih =>
    cases i with
    | zero => simp [natLe]
    | succ i =>
      simp only [natLe, List.getElem_cons_succ, ih]
      rw [Nat.div_div_eq_div_mul, show (256 : Nat) = 2 ^ 8 by rfl, ← pow_add, show 8 * (i + 1) = 8 + 8 * i by omega]

theorem State.byte_setBytes_outside (s : State) (a : Nat) (l : List Byte) {y : Nat} (h : y < a ∨ a + l.length ≤ y) :
    (s.setBytes a l).byte y = s.byte y := by
  induction l generalizing s a with
  | nil => rfl
  | cons b l ih =>
    rw [List.length_cons] at h
    rw [State.setBytes, ih _ _ (by omega), State.byte_setByte, if_neg (by omega)]

theorem State.byte_setBytes_inside (s : State) (a : Nat) (l : List Byte) {i : Nat} (h : i < l.length) :
    (s.setBytes a l).byte (a + i) = l[i] := by
  induction l generalizing s a i with
  | nil => exact absurd h (Nat.not_lt_zero i)
  | cons b l ih =>
    cases i with
    | zero =>
      rw [State.setBytes, State.byte_setBytes_outside _ _ _ (by omega), State.byte_setByte,
        if_pos (Nat.add_zero a)]
      rfl
    | succ i =>
      rw [State.setBytes, show a + (i + 1) = a + 1 + i by omega, ih _ _ (Nat.lt_of_succ_lt_succ h)]
      rfl

/-- Bytes stored leave everything but memory. -/
theorem State.setBytes_frame (s : State) (a : Nat) (l : List Byte) :
    (s.setBytes a l).flash = s.flash ∧ (s.setBytes a l).regs = s.regs ∧ (s.setBytes a l).mbx = s.mbx ∧
      (s.setBytes a l).cpu = s.cpu := by
  induction l generalizing s a with
  | nil => exact ⟨rfl, rfl, rfl, rfl⟩
  | cons b l ih => exact ih (s.setByte a b) (a + 1)

theorem State.asleepBars_awake {s : State} (h : s.pstate ≤ 1) (a : Nat) : s.asleepBars a = false := by
  simp [State.asleepBars, show ¬ 2 ≤ s.pstate by omega]

/-- A store to SRAM that is allowed, with good ECC, puts the bytes. -/
theorem State.store_sram {s : State} {m : Master} {a size v : Nat} (awake : s.pstate ≤ 1) (sram : region a = .sram)
    (may : s.memAllowed m a .write = true) : s.store m a size v .good = (s.setBytes a (natLe size v), .done) := by
  simp [State.store, State.storeMem, asleepBars_awake awake a, State.stalls_sram sram, sram, may]

/-- The low bytes of a value are those of the whole value. -/
theorem ofNat_mod_digit (v n : Nat) {i : Nat} (h : i < n) :
    BitVec.ofNat 8 (v % 2 ^ (8 * n) / 2 ^ (8 * i)) = BitVec.ofNat 8 (v / 2 ^ (8 * i)) := by
  refine BitVec.eq_of_getLsbD_eq fun j hj => ?_
  simp only [BitVec.getLsbD_ofNat, Nat.testBit_div_two_pow, Nat.testBit_mod_two_pow]
  simp [show j + 8 * i < 8 * n by omega]

end Sys2Proof.Machine
end

section
/-! SUPPORT. The best of several interrupt sources (spec/11, R301). -/

namespace Sys2Proof.Machine

/-- A source is at least as good as another: of higher priority, or of equal priority and no higher number. -/
def Core.AtLeast (c : Core) (j i : Nat) : Prop := c.priority i < c.priority j ∨ (c.priority i = c.priority j ∧ j ≤ i)

theorem Core.AtLeast.refl (c : Core) (j : Nat) : c.AtLeast j j := .inr ⟨rfl, Nat.le_refl j⟩

theorem Core.AtLeast.trans {c : Core} {k j i : Nat} (h : c.AtLeast k j) (g : c.AtLeast j i) : c.AtLeast k i := by
  unfold Core.AtLeast at *; omega

/-- Over sources in rising order, the fold answers one that is at least as good as all. -/
theorem Core.foldl_better (c : Core) (l : List Nat) (b : Nat) (rising : (b :: l).Pairwise (· < ·)) :
    ∃ j, l.foldl c.better (some b) = some j ∧ j ∈ b :: l ∧ ∀ i ∈ b :: l, c.AtLeast j i := by
  induction l generalizing b with
  | nil => exact ⟨b, rfl, List.mem_singleton_self b, by simpa using Core.AtLeast.refl c b⟩
  | cons x l ih =>
    obtain ⟨below, risingX⟩ := List.pairwise_cons.1 rising
    obtain ⟨belowX, risingL⟩ := List.pairwise_cons.1 risingX
    have bx : b < x := below x (List.mem_cons_self ..)
    by_cases higher : c.priority b < c.priority x
    · obtain ⟨j, best, mem, all⟩ := ih x risingX
      refine ⟨j, by simp [Core.better, higher, best], List.mem_cons_of_mem _ mem, fun i hi => ?_⟩
      rcases List.mem_cons.1 hi with rfl | hi
      · exact (all x (List.mem_cons_self ..)).trans (.inl higher)
      · exact all i hi
    · have risingB : (b :: l).Pairwise (· < ·) :=
        List.pairwise_cons.2 ⟨fun y hy => below y (List.mem_cons_of_mem _ hy), risingL⟩
      obtain ⟨j, best, mem, all⟩ := ih b risingB
      refine ⟨j, by simp [Core.better, higher, best], ?_, fun i hi => ?_⟩
      · rcases List.mem_cons.1 mem with rfl | mem
        · exact List.mem_cons_self ..
        · exact List.mem_cons_of_mem _ (List.mem_cons_of_mem _ mem)
      · rcases List.mem_cons.1 hi with rfl | hi
        · exact all i (List.mem_cons_self ..)
        rcases List.mem_cons.1 hi with rfl | hi
        · exact (all b (List.mem_cons_self ..)).trans (by unfold Core.AtLeast; omega)
        · exact all i (List.mem_cons_of_mem _ hi)

/-- The sources that qualify at an endpoint. -/
def State.qualifying (s : State) (e : Nat) : List Nat :=
  (List.range 135).filter fun j =>
    (s.core e).enabled j && decide ((s.core e).icCur < (s.core e).priority j) && s.irqAsserted e j

theorem State.mem_qualifying {s : State} {e j : Nat} : j ∈ s.qualifying e ↔
    j < 135 ∧ (s.core e).enabled j = true ∧ (s.core e).icCur < (s.core e).priority j ∧ s.irqAsserted e j = true := by
  simp [State.qualifying, and_assoc]

theorem State.qualifying_rising (s : State) (e : Nat) : (s.qualifying e).Pairwise (· < ·) :=
  List.pairwise_lt_range.filter _

/-- The source served is the best of those that qualify; none is served where none qualifies. -/
theorem State.icNext_spec (s : State) (e : Nat) :
    (s.icNext e = none ∧ s.qualifying e = []) ∨
      ∃ j, s.icNext e = some j ∧ j ∈ s.qualifying e ∧ ∀ i ∈ s.qualifying e, (s.core e).AtLeast j i := by
  have fold : s.icNext e = (s.qualifying e).foldl (s.core e).better none := rfl
  have rising := s.qualifying_rising e
  rw [fold]
  cases h : s.qualifying e with
  | nil => exact .inl ⟨rfl, rfl⟩
  | cons b l => exact .inr ((s.core e).foldl_better l b (h ▸ rising))

end Sys2Proof.Machine
end

section
/-! SUPPORT. What a page entry grants (spec/11, R302, R303). -/

namespace Sys2Proof.Machine

/-- An entry with no fault for an access is valid, permits it, and has no reserved bit set. -/
theorem pteFaults_nil {pte : BitVec 64} {user : Bool} {k : AccKind} (h : pteFaults pte user k = []) :
    pte.getLsbD 0 = true ∧ (k = .read → pte.getLsbD 1 = true) ∧ (k = .write → pte.getLsbD 2 = true) ∧
      (k = .fetch → pte.getLsbD 3 = true ∧ bvField pte 6 2 ≠ 2) ∧ (user = true → pte.getLsbD 4 = true) ∧
      bvField pte 6 2 ≠ 3 ∧ bvField pte 40 24 = 0 ∧ bvField pte 8 8 = 0 := by
  unfold pteFaults at h
  split at h
  · exact absurd h (List.cons_ne_nil _ _)
  · rename_i valid
    cases k <;> simp_all

/-- A translation that uses an entry goes to its page, where the entry grants the access. -/
theorem State.usePte_phys {s t : State} {c : Core} {va p : Nat} {pte : BitVec 64} {k : AccKind}
    (h : s.usePte c va pte k = (t, .phys p)) :
    pteFaults pte (c.level == 0) k = [] ∧ p = bvField pte 16 24 * 2 ^ 16 + va % 2 ^ 16 := by
  unfold State.usePte at h
  split at h
  · rename_i granted
    cases h
    exact ⟨granted, rfl⟩
  · cases h
  · cases h

/-- A translation without a cached entry goes by the entry that a walk finds in SRAM. -/
theorem State.translate_phys_uncached {s t : State} {e va p : Nat} {k : AccKind} {q : MemErr}
    (h : s.translate e va k q = (t, .phys p)) (level : (s.core e).level ≠ 2)
    (uncached : (s.core e).cached (va / 2 ^ 16) = none) :
    va < 2 ^ 40 ∧ ∃ pte u, s.walk (s.core e) va = some pte ∧ State.usePte u (s.core e) va pte k = (t, .phys p) := by
  unfold State.translate at h
  simp only [beq_iff_eq, level, if_false, uncached] at h
  split at h
  · cases h
  · rename_i inside
    refine ⟨Nat.lt_of_not_le inside, ?_⟩
    split at h
    · cases h
    · rename_i pte found
      split at h
      · cases h
      · exact ⟨pte, _, found, h⟩

end Sys2Proof.Machine
end

section
/-! THEOREMS. The obligations of spec/11 on stores to SRAM, the interrupt controller and translation. -/

namespace Sys2Proof.Machine

/-- Settles O55: the store puts its bytes, in a state whose core has gone on. -/
theorem storeWritesItsBytesOnly : Obligations.StoreWritesItsBytesOnly := by
  intro s t u v r x w a p fetched e aligned translates awake sram may done
  have bytes (y : Core) : (u.setCore e y).store (epMaster e) p (widthBytes w)
      (((t.ran r).readGen x).toNat % 2 ^ (8 * widthBytes w)) .good = (_, .done) := State.store_sram awake sram may
  have effect : exec (.store r x w a .good) s = .next _ := congrArg Host.Outcome.next
    ((State.instr_of_fetches fetched _).trans (State.coreStore_done aligned translates (bytes _)))
  obtain rfl := Host.Outcome.next.inj (done.symm.trans effect)
  generalize hl : natLe (widthBytes w) (((t.ran r).readGen x).toNat % 2 ^ (8 * widthBytes w)) = l
  have length : l.length = widthBytes w := by rw [← hl, natLe_length]
  obtain ⟨flash, regs, mbx, cpu⟩ := (u.setCore e ((u.core e).advance 4)).setBytes_frame p l
  have cores (j : Nat) : ((u.setCore e ((u.core e).advance 4)).setBytes p l).core j =
      (u.setCore e ((u.core e).advance 4)).core j := congrArg (fun c : CpuState => tget ({} : Core) c.core j) cpu
  refine ⟨fun i hi => ?_, fun y hy => ?_, fun y => congrArg (fun f => tget 0xFF f y) flash, regs, mbx, fun j hj => ?_, ?_⟩
  · rw [State.byte_setBytes_inside _ _ _ (length.symm ▸ hi)]
    subst hl
    rw [natLe_getElem, ofNat_mod_digit _ _ hi]
  · exact State.byte_setBytes_outside _ _ _ (length.symm ▸ hy)
  · exact (cores j).trans (core_setCore_ne _ _ hj)
  · exact (cores e).trans (core_setCore ..)

/-- Settles O58: the controller serves the best of the sources that qualify. -/
theorem interruptSourceChosen : Obligations.InterruptSourceChosen := by
  intro s e c ok
  refine ⟨fun j served => ?_, fun none => ⟨fun i qualifies => ?_, ?_⟩, fun j served room => ?_⟩
  · rcases s.icNext_spec e with ⟨none, _⟩ | ⟨k, best, mem, all⟩
    · exact absurd (none.symm.trans served) (Option.some_ne_none j).symm
    · obtain rfl : k = j := Option.some.inj (best.symm.trans served)
      exact ⟨State.mem_qualifying.1 mem, fun i hi => all i (State.mem_qualifying.2 hi)⟩
  · rcases s.icNext_spec e with ⟨_, empty⟩ | ⟨k, best, _, _⟩
    · have mem : i ∈ s.qualifying e := State.mem_qualifying.2 qualifies
      rw [empty] at mem
      exact absurd mem List.not_mem_nil
    · exact absurd (best.symm.trans none) (Option.some_ne_none k)
  · simp [State.icAck, none]
  · simp [State.icAck, served, room, c]

/-- Settles O59: at monitor level nothing is translated, and below it the entry that a walk finds grants the access. -/
theorem translationGrantsOnlyPermitted : Obligations.TranslationGrantsOnlyPermitted := by
  intro s t e va p k q h
  refine ⟨fun monitor => ?_, fun level uncached => ?_⟩
  · have physical : s.translate e va k q = (s, .phys va) := if_pos (beq_iff_eq.2 monitor)
    cases physical.symm.trans h
    exact ⟨rfl, rfl⟩
  · obtain ⟨inside, pte, u, found, used⟩ := State.translate_phys_uncached h level uncached
    obtain ⟨granted, page⟩ := State.usePte_phys used
    obtain ⟨valid, read, write, fetch, user, cacheable, high, low⟩ := pteFaults_nil granted
    exact ⟨inside, pte, found, valid, read, write, fetch, fun l => user (beq_iff_eq.2 l), cacheable, high, low, page⟩

end Sys2Proof.Machine
end

section
/-! SUPPORT. Packed numbers: their digits, their value, and their arithmetic (spec/11, R290, R291). -/

namespace Sys2Proof.Machine

/-- In any base, digits below the place where one is added stay. -/
theorem place_add_below {b a d k i : Nat} (hb : 0 < b) (h : i < k) : (a + d * b ^ k) / b ^ i % b = a / b ^ i % b := by
  have place : b ^ k = b ^ i * (b * b ^ (k - i - 1)) := by
    rw [← pow_succ', ← pow_add]; congr 1; omega
  have shifted : a + d * b ^ k = a + b ^ i * (b * (d * b ^ (k - i - 1))) := by rw [place]; ring
  rw [shifted, Nat.add_mul_div_left _ _ (Nat.pow_pos hb), Nat.add_mul_mod_self_left]

theorem digit_add_below {a d k i : Nat} (h : i < k) : digit (a + d * 16 ^ k) i = digit a i :=
  place_add_below (by decide) h

/-- The low places of a number have its low digits. -/
theorem digit_mod {x k i : Nat} (h : i < k) : digit (x % 16 ^ k) i = digit x i := by
  conv_rhs => rw [← Nat.mod_add_div' x (16 ^ k)]
  exact (digit_add_below h).symm

/-- The digit at the place where one is added above all others is that one. -/
theorem digit_add_at {a d k : Nat} (ha : a < 16 ^ k) (hd : d < 16) : digit (a + d * 16 ^ k) k = d := by
  rw [digit, Nat.add_mul_div_right _ _ (Nat.pow_pos (by decide)), Nat.div_eq_of_lt ha, Nat.zero_add, Nat.mod_eq_of_lt hd]

theorem add_digit_lt {a d k : Nat} (ha : a < 16 ^ k) (hd : d < 16) : a + d * 16 ^ k < 16 ^ (k + 1) := by
  have top : d * 16 ^ k ≤ 15 * 16 ^ k := Nat.mul_le_mul_right _ (by omega)
  rw [pow_succ]
  omega

theorem digitsOk_iff {x k : Nat} : digitsOk x k = true ↔ ∀ i < k, digit x i ≤ 9 := by
  simp [digitsOk]

theorem packed_lt (v k : Nat) : packed v k < 16 ^ k := by
  induction k with
  | zero => exact Nat.one_pos
  | succ k ih => exact add_digit_lt ih (by omega)

theorem digit_packed (v : Nat) {k i : Nat} (h : i < k) : digit (packed v k) i = v / 10 ^ i % 10 := by
  induction k with
  | zero => exact absurd h (Nat.not_lt_zero i)
  | succ k ih =>
    rcases Nat.lt_succ_iff_lt_or_eq.1 h with below | rfl
    · exact (digit_add_below below).trans (ih below)
    · exact digit_add_at (packed_lt v i) (by omega)

theorem packed_congr {v w k : Nat} (h : ∀ i < k, v / 10 ^ i % 10 = w / 10 ^ i % 10) : packed v k = packed w k := by
  induction k with
  | zero => rfl
  | succ k ih => rw [packed, packed, ih fun i hi => h i (Nat.lt_succ_of_lt hi), h k (Nat.lt_succ_self k)]

theorem packed_mod (v k : Nat) : packed (v % 10 ^ k) k = packed v k :=
  packed_congr fun i hi => by
    conv_rhs => rw [← Nat.mod_add_div' v (10 ^ k)]
    exact (place_add_below (by decide) hi).symm

theorem digitsOk_packed (v k : Nat) : digitsOk (packed v k) k = true :=
  digitsOk_iff.2 fun i hi => by rw [digit_packed v hi]; omega

/-- A packed number whose digits are those of a value has the value's low digits as its own. -/
theorem packedVal_of_digits {x v k : Nat} (h : ∀ i < k, digit x i = v / 10 ^ i % 10) : packedVal x k = v % 10 ^ k := by
  induction k with
  | zero => simp [packedVal, Nat.mod_one]
  | succ k ih =>
    rw [packedVal, ih fun i hi => h i (Nat.lt_succ_of_lt hi), h k (Nat.lt_succ_self k), Nat.mod_pow_succ,
      Nat.mul_comm (10 ^ k)]

theorem packedVal_packed (v k : Nat) : packedVal (packed v k) k = v % 10 ^ k :=
  packedVal_of_digits fun _ hi => digit_packed v hi

theorem packedVal_lt {x k : Nat} (h : digitsOk x k = true) : packedVal x k < 10 ^ k := by
  rw [digitsOk_iff] at h
  induction k with
  | zero => exact Nat.one_pos
  | succ k ih =>
    have low := ih fun i hi => h i (Nat.lt_succ_of_lt hi)
    have top : digit x k * 10 ^ k ≤ 9 * 10 ^ k := Nat.mul_le_mul_right _ (h k (Nat.lt_succ_self k))
    rw [packedVal, pow_succ]
    omega

/-- A difference modulo a bound, of two numbers below it. -/
theorem sub_mod_of_lt {n m b : Nat} (hn : n < b) (hm : m < b) : (b + n - m) % b = if n < m then b + n - m else n - m := by
  split
  · exact Nat.mod_eq_of_lt (by omega)
  · rw [show b + n - m = b + (n - m) by omega, Nat.add_mod_left, Nat.mod_eq_of_lt (by omega)]

section Results

variable {k x y : Nat}

theorem packedVal_decSum : packedVal (decSum k x y).val k = (packedVal x k + packedVal y k) % 10 ^ k :=
  (packedVal_packed _ k).trans (Nat.mod_mod _ _)

theorem packedVal_decDiff (hx : digitsOk x k = true) (hy : digitsOk y k = true) :
    packedVal (decDiff k x y).val k =
      if packedVal x k < packedVal y k then 10 ^ k + packedVal x k - packedVal y k else packedVal x k - packedVal y k :=
  (packedVal_packed _ k).trans ((Nat.mod_mod _ _).trans (sub_mod_of_lt (packedVal_lt hx) (packedVal_lt hy)))

theorem packedVal_decLeft (s : Nat) : packedVal (decLeft s k x).val k = packedVal x k * 10 ^ s % 10 ^ k :=
  (packedVal_packed _ k).trans (Nat.mod_mod _ _)

theorem packedVal_decRight (s : Nat) (hx : digitsOk x k = true) :
    packedVal (decRight s k x).val k = packedVal x k / 10 ^ s :=
  (packedVal_packed _ k).trans (Nat.mod_eq_of_lt (Nat.lt_of_le_of_lt (Nat.div_le_self ..) (packedVal_lt hx)))

end Results

/-- A binary number of 16 digits comes back from packed. -/
theorem toBinary_toPacked {n : Nat} (h : n < 10 ^ 16) : (toBinary 16 (toPacked 16 n).val).val = n := by
  have value : packedVal (toPacked 16 n).val 16 = n := by
    rw [toPacked, packedVal_packed, Nat.mod_mod, Nat.mod_eq_of_lt h]
  rw [toBinary, value]
  exact Nat.min_eq_left (by omega)

end Sys2Proof.Machine
end

section
/-! SUPPORT. DADJ: its loop, and the binary sum that it corrects (spec/11, R292). -/

namespace Sys2Proof.Machine

/-- The first `i` turns of DADJ's loop: the carry and the nibbles so far. -/
def adjusted (x : Nat) (nc : BitVec 16) (i : Nat) : Nat × Nat := (List.range i).foldl (adjustDigit x nc) (0, 0)

/-- What DADJ makes of nibble `i` with a carry. -/
def adjustNibble (x : Nat) (nc : BitVec 16) (i carry : Nat) : Nat :=
  if nc.getLsbD i || 9 < digit x i + carry then digit x i + carry + 6 else digit x i + carry

section Loop

variable (x : Nat) (nc : BitVec 16)

theorem adjusted_succ (i : Nat) :
    adjusted x nc (i + 1) =
      (adjustNibble x nc i (adjusted x nc i).1 / 16,
        (adjusted x nc i).2 + adjustNibble x nc i (adjusted x nc i).1 % 16 * 16 ^ i) := by
  rw [adjusted, List.range_succ, List.foldl_append]
  rfl

theorem adjusted_lt (i : Nat) : (adjusted x nc i).2 < 16 ^ i := by
  induction i with
  | zero => exact Nat.one_pos
  | succ i ih => rw [adjusted_succ]; exact add_digit_lt ih (by omega)

/-- A nibble that the loop has made stays. -/
theorem digit_adjusted {i j : Nat} (h : i < j) :
    digit (adjusted x nc j).2 i = adjustNibble x nc i (adjusted x nc i).1 % 16 := by
  induction j with
  | zero => exact absurd h (Nat.not_lt_zero i)
  | succ j ih =>
    rw [adjusted_succ]
    rcases Nat.lt_succ_iff_lt_or_eq.1 h with below | rfl
    · exact (digit_add_below below).trans (ih below)
    · exact digit_add_at (adjusted_lt x nc i) (by omega)

end Loop

/-- The binary carry into place `i` of a sum, and the decimal one of two packed numbers. -/
def hexCarry (x y i : Nat) : Nat := (x % 16 ^ i + y % 16 ^ i) / 16 ^ i
def decCarry (x y i : Nat) : Nat := (packedVal x i + packedVal y i) / 10 ^ i

section Carries

variable (x y i : Nat)

theorem hexCarry_succ : hexCarry x y (i + 1) = (hexCarry x y i + digit x i + digit y i) / 16 := by
  have terms : x % 16 ^ (i + 1) + y % 16 ^ (i + 1) = x % 16 ^ i + y % 16 ^ i + (digit x i + digit y i) * 16 ^ i := by
    rw [Nat.mod_pow_succ, Nat.mod_pow_succ, digit, digit]; ring
  rw [hexCarry, terms, pow_succ, ← Nat.div_div_eq_div_mul, Nat.add_mul_div_right _ _ (Nat.pow_pos (by decide)),
    hexCarry, Nat.add_assoc]

theorem packedVal_add_succ : packedVal x (i + 1) + packedVal y (i + 1) =
    packedVal x i + packedVal y i + (digit x i + digit y i) * 10 ^ i := by
  rw [packedVal, packedVal]; ring

theorem decCarry_succ : decCarry x y (i + 1) = (decCarry x y i + digit x i + digit y i) / 10 := by
  rw [decCarry, packedVal_add_succ, pow_succ, ← Nat.div_div_eq_div_mul, Nat.add_mul_div_right _ _ (Nat.pow_pos (by decide)),
    decCarry, Nat.add_assoc]

/-- The next digit of a packed sum is the sum of the digits and the decimal carry. -/
theorem packed_sum_succ : packed (packedVal x (i + 1) + packedVal y (i + 1)) (i + 1) =
    packed (packedVal x i + packedVal y i) i + (decCarry x y i + digit x i + digit y i) % 10 * 16 ^ i := by
  have low : packed (packedVal x i + packedVal y i + (digit x i + digit y i) * 10 ^ i) i =
      packed (packedVal x i + packedVal y i) i := packed_congr fun _ => place_add_below (by decide)
  rw [packed, packedVal_add_succ, low, Nat.add_mul_div_right _ _ (Nat.pow_pos (by decide)), decCarry, Nat.add_assoc]

/-- A nibble of the sum is the sum of the nibbles and the carry. -/
theorem digit_add : digit (x + y) i = (hexCarry x y i + digit x i + digit y i) % 16 := by
  have split : (x + y) / 16 ^ i = x / 16 ^ i + y / 16 ^ i + hexCarry x y i := by
    have px := Nat.mod_add_div' x (16 ^ i)
    have py := Nat.mod_add_div' y (16 ^ i)
    have sum : x + y = x % 16 ^ i + y % 16 ^ i + (x / 16 ^ i + y / 16 ^ i) * 16 ^ i := by
      rw [Nat.add_mul]; omega
    rw [sum, Nat.add_mul_div_right _ _ (Nat.pow_pos (by decide)), hexCarry, Nat.add_comm]
  rw [digit, split, digit, digit]
  omega

end Carries

/-- One nibble of a binary sum of two digits, corrected: it is the decimal digit, and one carry or the other is the decimal
carry. -/
theorem adjust_digit_sum {h k d a b : Nat} (carry : k + h = d) (small : d ≤ 1) (ha : a ≤ 9) (hb : b ≤ 9) :
    let v := (h + a + b) % 16 + k
    let w := if 1 ≤ (h + a + b) / 16 ∨ 9 < v then v + 6 else v
    w / 16 + (h + a + b) / 16 = (d + a + b) / 10 ∧ w % 16 = (d + a + b) % 10 := by
  intro v w
  have hv : v = (h + a + b) % 16 + k := rfl
  have hw : w = if 1 ≤ (h + a + b) / 16 ∨ 9 < v then v + 6 else v := rfl
  clear_value v w
  by_cases big : 16 ≤ h + a + b
  · have quot : (h + a + b) / 16 = 1 := by omega
    have rest : (h + a + b) % 16 = h + a + b - 16 := by omega
    rw [rest] at hv
    rw [quot, if_pos (Or.inl (Nat.le_refl 1))] at hw
    rw [quot]
    omega
  · have quot : (h + a + b) / 16 = 0 := by omega
    have rest : (h + a + b) % 16 = h + a + b := by omega
    rw [rest] at hv
    rw [quot] at hw ⊢
    split at hw <;> omega

section Sum

variable {x y : BitVec 64}

theorem digit_sum {i : Nat} (hi : i < 16) : digit (x + y).toNat i =
    (hexCarry x.toNat y.toNat i + digit x.toNat i + digit y.toNat i) % 16 := by
  rw [BitVec.toNat_add, show 2 ^ 64 = 16 ^ 16 by norm_num, digit_mod hi, digit_add]

/-- The nibble carries of an ADD are the binary carries. -/
theorem nibbleCarries_eq_hexCarry {i : Nat} (hi : i < 16) :
    (nibbleCarries x y 0).getLsbD i = decide (1 ≤ hexCarry x.toNat y.toNat (i + 1)) := by
  rw [nibbleCarries_getLsbD x y 0 hi, hexCarry]
  exact decide_eq_decide.2 (Nat.one_le_div_iff (Nat.pow_pos (by decide))).symm

/-- What the loop has made of the binary sum: its carry and the binary one are the decimal carry, and its nibbles are the
packed sum's. -/
theorem adjusted_sum (hx : ∀ i < 16, digit x.toNat i ≤ 9) (hy : ∀ i < 16, digit y.toNat i ≤ 9) {i : Nat} (hi : i ≤ 16) :
    (adjusted (x + y).toNat (nibbleCarries x y 0) i).1 + hexCarry x.toNat y.toNat i = decCarry x.toNat y.toNat i ∧
      decCarry x.toNat y.toNat i ≤ 1 ∧
      (adjusted (x + y).toNat (nibbleCarries x y 0) i).2 = packed (packedVal x.toNat i + packedVal y.toNat i) i := by
  induction i with
  | zero => simp [adjusted, hexCarry, decCarry, packedVal, packed, Nat.mod_one]
  | succ i ih =>
    obtain ⟨carry, small, nibbles⟩ := ih (Nat.le_of_succ_le hi)
    have dx := hx i hi
    have dy := hy i hi
    have nibble : adjustNibble (x + y).toNat (nibbleCarries x y 0) i (adjusted (x + y).toNat (nibbleCarries x y 0) i).1 =
        if 1 ≤ hexCarry x.toNat y.toNat (i + 1) ∨
            9 < digit (x + y).toNat i + (adjusted (x + y).toNat (nibbleCarries x y 0) i).1 then
          digit (x + y).toNat i + (adjusted (x + y).toNat (nibbleCarries x y 0) i).1 + 6
        else digit (x + y).toNat i + (adjusted (x + y).toNat (nibbleCarries x y 0) i).1 := by
      simp [adjustNibble, nibbleCarries_eq_hexCarry (Nat.lt_of_succ_le hi)]
    rw [adjusted_succ, nibble, digit_sum (Nat.lt_of_succ_le hi), hexCarry_succ, decCarry_succ, packed_sum_succ, ← nibbles]
    obtain ⟨carries, decimal⟩ := adjust_digit_sum carry small dx dy
    exact ⟨carries, by omega, congrArg (fun w => _ + w * 16 ^ i) decimal⟩

/-- DADJ of the binary sum of two packed values is their packed sum. -/
theorem adjust_sum (hx : digitsOk x.toNat 16 = true) (hy : digitsOk y.toNat 16 = true) :
    adjust (x + y).toNat (nibbleCarries x y 0) = decSum 16 x.toNat y.toNat := by
  obtain ⟨carry, small, nibbles⟩ :=
    adjusted_sum (digitsOk_iff.1 hx) (digitsOk_iff.1 hy) (Nat.le_refl 16)
  have val : (adjust (x + y).toNat (nibbleCarries x y 0)).val = (decSum 16 x.toNat y.toNat).val :=
    nibbles.trans (packed_mod _ 16).symm
  have overflow : decCarry x.toNat y.toNat 16 ≠ 0 ↔ 10 ^ 16 ≤ packedVal x.toNat 16 + packedVal y.toNat 16 := by
    rw [decCarry]; omega
  have c : (adjust (x + y).toNat (nibbleCarries x y 0)).c = (decSum 16 x.toNat y.toNat).c := by
    change ((adjusted (x + y).toNat (nibbleCarries x y 0) 16).1 != 0 || (nibbleCarries x y 0).getLsbD 15) =
      decide (10 ^ 16 ≤ packedVal x.toNat 16 + packedVal y.toNat 16)
    rw [nibbleCarries_eq_hexCarry (by decide), Bool.eq_iff_iff, Bool.or_eq_true, bne_iff_ne, decide_eq_true_iff,
      decide_eq_true_iff, ← overflow]
    simp only [Nat.reduceAdd]
    omega
  exact DecRes.mk.injEq .. ▸ ⟨val, c, rfl⟩

end Sum

end Sys2Proof.Machine
end

section
/-! THEOREMS. The obligations of spec/11 on packed-decimal results. -/

namespace Sys2Proof.Machine

/-- Settles O46: by turns of the loop, whose carry and the binary one make up the decimal carry. -/
theorem decimalAdjustCorrectsSum : Obligations.DecimalAdjustCorrectsSum := by
  refine ⟨fun x y hx hy => adjust_sum hx hy, fun n nc => ⟨fun i => (adjusted n nc i).1, rfl, rfl, fun i hi => ?_⟩⟩
  exact ⟨digit_adjusted n nc hi, congrArg Prod.fst (adjusted_succ n nc i)⟩

/-- Settles O47: packing a value and reading it back gives its low digits. -/
theorem decimalArithmeticByValue : Obligations.DecimalArithmeticByValue := by
  refine ⟨fun k _ x y hx hy => ?_, fun n hn => toBinary_toPacked hn⟩
  exact ⟨⟨digitsOk_packed .., packedVal_decSum, rfl⟩, ⟨digitsOk_packed .., packedVal_decDiff hx hy, rfl⟩,
    fun s => ⟨packedVal_decLeft s, packedVal_decRight s hx⟩⟩

end Sys2Proof.Machine
end


section
/-! SUPPORT. The frames of the host port (spec/18, R458, R459). -/

namespace Sys2Proof.Machine

section Frames

variable {s : State} {f : HostFrame} {e : MemErr} {cmd : Byte} {need a size n : Nat} {g : State → State} {v : BitVec 64}

theorem State.hostFrame_whole (c : f.cmd = cmd) (bits : need ≤ f.bits) : s.hostFrame f cmd need g = g s :=
  if_pos (by rw [c, beq_self_eq_true, Bool.true_and, decide_eq_true bits])

theorem State.hostFrame_ignored (opened : s.hostOpen = true) (h : f.cmd ≠ cmd ∨ f.bits < need) :
    s.hostFrame f cmd need g = s.send (.hostFrame s.hostStatus 0) := by
  have refused : ¬ ((f.cmd == cmd && decide (need ≤ f.bits)) = true) := by
    simp only [Bool.and_eq_true, beq_iff_eq, decide_eq_true_eq, not_and, Nat.not_le]
    exact h.resolve_left ∘ not_not_intro
  rw [hostFrame, if_neg refused, if_pos opened]

/-- What a read frame shifts out for a reply, and what it leaves for the status of the next frame. -/
def State.hostReplied (t : State) (status size : Nat) : Option (BitVec 64 × Bool) → State
  | some (v, false) => ({ t with host := {} } : State).send (.hostFrame status v)
  | some (_, true) => ({ t.draw.2 with host := { busErr := true } } : State).send (.hostFrame status t.draw.1)
  | none => ({ t with host := { notReady := true } } : State).send (.hostFrame status (BitVec.ofNat 64 (2 ^ (8 * size) - 1)))

theorem State.hostRead_reply (opened : s.hostOpen = true) {x : Option (BitVec 64 × Bool)}
    (h : (({ s with reply := none } : State).busRead .host a size e).reply = x) : s.hostRead a size e =
      (({ s with reply := none } : State).busRead .host a size e).hostReplied s.hostStatus size x := by
  subst h
  exact (if_neg (by rw [opened]; exact Bool.false_ne_true)).trans (hostReplied.eq_def ..).symm

theorem State.hostWrite_open (opened : s.hostOpen = true) : s.hostWrite a size n e =
    let t := ({ s with reply := none } : State).busWrite .host a size n e
    ({ t with host := { busErr := t.replyErr } } : State).send (.hostFrame s.hostStatus 0) :=
  if_neg (by rw [opened]; exact Bool.false_ne_true)

end Frames

end Sys2Proof.Machine
end

section
/-! THEOREMS. The obligation of spec/18 on the frames of the host port. -/

namespace Sys2Proof.Machine

/-- Settles O31: by the command byte, the bits that arrived and the reply of the access. -/
theorem hostPortCommandsComplete : Obligations.HostPortCommandsComplete := by
  have next {a b : State} (e : a = b) : (.next a : Out) = .next b := congrArg Host.Outcome.next e
  refine ⟨?data64, ?data32, ?late64, ?late32, ?error64, ?error32, ?write64, ?write32, ?other, ?short64, ?short32⟩
  case data64 => exact fun _ _ _ _ opened c bits h => next ((State.hostFrame_whole c bits).trans (State.hostRead_reply opened h))
  case data32 => exact fun _ _ _ _ opened c bits h => next ((State.hostFrame_whole c bits).trans (State.hostRead_reply opened h))
  case late64 => exact fun _ _ _ opened c bits h => next ((State.hostFrame_whole c bits).trans (State.hostRead_reply opened h))
  case late32 => exact fun _ _ _ opened c bits h => next ((State.hostFrame_whole c bits).trans (State.hostRead_reply opened h))
  case error64 => exact fun _ _ _ _ opened c bits h => next ((State.hostFrame_whole c bits).trans (State.hostRead_reply opened h))
  case error32 => exact fun _ _ _ _ opened c bits h => next ((State.hostFrame_whole c bits).trans (State.hostRead_reply opened h))
  case write64 => exact fun _ _ _ opened c bits => next ((State.hostFrame_whole c bits).trans (State.hostWrite_open opened))
  case write32 => exact fun _ _ _ _ opened c bits => next ((State.hostFrame_whole c bits).trans (State.hostWrite_open opened))
  case other =>
    intro s f e v w opened h
    have ignored {cmd : Byte} {need : Nat} (g : State → State) (big : 48 ≤ need) (foreign : f.cmd = cmd → f.bits < 48) :
        s.hostFrame f cmd need g = s.send (.hostFrame s.hostStatus 0) :=
      State.hostFrame_ignored opened ((Decidable.em (f.cmd = cmd)).elim (fun c => .inr (Nat.lt_of_lt_of_le (foreign c) big)) .inl)
    refine ⟨next (ignored _ (by decide) ?_), next (ignored _ (by decide) ?_), next (ignored _ (by decide) ?_),
      next (ignored _ (by decide) ?_)⟩ <;> tauto
  case short64 => exact fun _ _ _ opened short => next (State.hostFrame_ignored opened (.inr short))
  case short32 => exact fun _ _ _ _ opened short => next (State.hostFrame_ignored opened (.inr short))

end Sys2Proof.Machine
end


section
/-! SUPPORT. Mailboxes and locks: their queues, an accessor's side, and writes of a lock register (spec/12). -/

namespace Sys2Proof.Machine

/-! Sides and locks. -/

@[simp] theorem side_setSide (s : State) (m k : Nat) (x : MboxSide) : (s.setSide m k x).side m k = x := tget_tset_self ..
theorem side_setSide_ne (s : State) {m k a j : Nat} (x : MboxSide) (h : a * 2 + j ≠ m * 2 + k) :
    (s.setSide m k x).side a j = s.side a j := tget_tset_ne _ _ _ _ (by omega)

@[simp] theorem lk_setLk (s : State) (k : Nat) (x : Lock) : (s.setLk k x).lk k = x := tget_tset_self ..
theorem lk_setLk_ne (s : State) {k j : Nat} (x : Lock) (h : j ≠ k) : (s.setLk k x).lk j = s.lk j := tget_tset_ne _ _ _ _ h

/-- Endpoints are told of a released lock in their flags; no lock and no register changes. -/
def State.lockTold (s : State) (k : Nat) (l : List Nat) : State :=
  s.each l fun e t => { t with mbx := { t.mbx with rel := tset 0 t.mbx.rel e (tget 0 t.mbx.rel e ||| 2 ^ k) } }

theorem State.lockRelease_eq (s : State) (k : Nat) :
    s.lockRelease k = (s.lockTold k (s.lk k).seen).setLk k { s.lk k with owner := 0 } := rfl

theorem State.lk_lockTold (s : State) (k : Nat) (l : List Nat) (j : Nat) : (s.lockTold k l).lk j = s.lk j := by
  induction l generalizing s with
  | nil => rfl
  | cons e l ih => exact ih _

theorem State.reg_lockTold (s : State) (k : Nat) (l : List Nat) (a : Nat) : (s.lockTold k l).reg a = s.reg a := by
  induction l generalizing s with
  | nil => rfl
  | cons e l ih => exact ih _

/-! Writes of a lock register. -/

theorem State.lockWrite_owner {s : State} {m : Master} {k : Nat} (master : s.epOf m ≠ 0) (own : (s.lk k).owner = s.epOf m) :
    s.lockWrite m k true = s.lockRelease k := by simp [State.lockWrite, master, own]

theorem State.lockWrite_foreign {s : State} {m : Master} {k : Nat} (low : Bool) (foreign : (s.lk k).owner ≠ s.epOf m) :
    s.lockWrite m k low = s.mbxViol (s.epOf m) := by simp [State.lockWrite, foreign]

theorem LK_block (k : Fin 32) : LK k / 0x10000 = 0x400E ∧ LK k % 0x10000 = 0x1000 + 8 * k := by
  have := k.isLt
  unfold LK
  omega

theorem regInfo?_LK (k : Fin 32) : (regInfo? (LK k)).isNone = false := by revert k; decide

theorem State.regWrite_LK (s : State) (m : Master) (k : Fin 32) (acc : Access) (v : BitVec 64) :
    s.regWrite m (LK k) acc v = s.lockWrite m k (accLow acc) := by
  obtain ⟨block, place⟩ := LK_block k
  have := k.isLt
  have index : (0x1000 + 8 * k.val - 0x1000) / 8 = k := by omega
  have inLocks : 0x1000 + 8 * k.val < 0x1100 := by omega
  simp only [State.regWrite, block, State.mbxRegWrite, place, index]
  simp [inLocks, show ¬ 0x1000 + 8 * k.val < 0x400 by omega]

/-- A write of a lock register, of either part or of both, reaches the lock. -/
theorem State.registerWrite_LK {s : State} {m : Master} {k : Fin 32} (reached : s.opens m (LK k) = true)
    (on : s.masterOn m = true) (acc : Access) (v : BitVec 64) :
    s.registerWrite m (BitVec.ofNat 40 (LK k)).toNat acc v = s.lockWrite m k (accLow acc) := by
  obtain ⟨block, place⟩ := LK_block k
  have bound := k.isLt
  have addr : (BitVec.ofNat 40 (LK k)).toNat = LK k := (BitVec.toNat_ofNat ..).trans (Nat.mod_eq_of_lt (by omega))
  have run : s.pstate ≤ 1 := by
    simp only [State.opens, Bool.and_eq_true, decide_eq_true_eq] at reached
    exact reached.1.1
  have periph {a : Nat} (h : LK k ≤ a ∧ a ≤ LK k + 4) : region a = .periph := by
    simp only [region]
    rw [if_neg (by omega), if_neg (by simp; omega), if_neg (by simp; omega), if_neg (by simp; omega), if_pos (by simp; omega)]
  have ready {a : Nat} (h : LK k ≤ a ∧ a ≤ LK k + 4) : s.stalls m a = false := by
    have : inNet a = false := by
      simp only [inNet, show a / 65536 = 0x400E by omega]; decide
    simp [State.stalls, periph h, this]
  have awake (a : Nat) : s.asleepBars a = false := by simp [State.asleepBars, show ¬ 2 ≤ s.pstate by omega]
  have may {a size : Nat} (h : LK k ≤ a ∧ a ≤ LK k + 4) (whole : size = 4 ∨ size = 8) : regBarred m a size = false := by
    rcases whole with rfl | rfl <;> simp [regBarred, show a / 0x10000 = 0x400E by omega]
  have part64 : regAccess (LK k) 8 = some (LK k, .w64) := by simp [regAccess, show LK k % 8 = 0 by omega]
  have partLow : regAccess (LK k) 4 = some (LK k, .lo32) := by simp [regAccess, show LK k % 8 = 0 by omega]
  have partHigh : regAccess (LK k + 4) 4 = some (LK k, .hi32) := by simp [regAccess, show (LK k + 4) % 8 = 4 by omega]
  have write {a size x : Nat} {acc : Access} (h : LK k ≤ a ∧ a ≤ LK k + 4) (whole : size = 4 ∨ size = 8)
      (part : regAccess a size = some (LK k, acc)) : s.busWrite m a size x .good = s.lockWrite m k (accLow acc) :=
    (State.busWrite_reg on (awake a) (ready h) (periph h) (may h whole) part (regInfo?_LK k)).trans (s.regWrite_LK m k acc _)
  rw [addr]
  cases acc with
  | w64 => exact write (by omega) (.inr rfl) part64
  | lo32 => exact write (by omega) (.inl rfl) partLow
  | hi32 => exact write (by omega) (.inl rfl) partHigh

/-! Reads of RXQ. -/

theorem markRead_append {l r : List MboxWord} {w : MboxWord} (seen : ∀ y ∈ l, y.read = true) (new : w.read = false) :
    markRead (l ++ w :: r) = l ++ { w with read := true } :: r := by
  induction l with
  | nil => simp [markRead, new]
  | cons y l ih =>
    have hy : y.read = true := seen y (List.mem_cons_self ..)
    simp only [List.cons_append, markRead, hy, if_true, ih fun z hz => seen z (List.mem_cons_of_mem _ hz)]

theorem State.mbxPop_oldest {s : State} {m k : Nat} {l r : List MboxWord} {w : MboxWord} (free : (s.side m k).holdRx = none)
    (queue : (s.side m (1 - k)).queue = l ++ w :: r) (seen : ∀ y ∈ l, y.read = true) (new : w.read = false) :
    s.mbxPop m k =
      (s.setSide m (1 - k) { s.side m (1 - k) with queue := l ++ { w with read := true } :: r }, w.word) := by
  have rx : s.mbxRx m k = true := by simp [State.mbxRx, free, queue, new]
  have found : (s.side m (1 - k)).queue.find? (fun w => !w.read) = some w := by
    rw [queue, List.find?_append, List.find?_eq_none.2 (by simpa using seen), Option.none_or,
      List.find?_cons_of_pos (by simp [new])]
  rw [queue] at found
  simp only [State.mbxPop, rx, found, queue, markRead_append seen new, Bool.not_true, Bool.false_eq_true, if_false]

theorem State.mbxPop_none {s : State} {m k : Nat} (seen : ∀ y ∈ (s.side m (1 - k)).queue, y.read = true) :
    s.mbxPop m k = (s, 0) := by
  have rx : s.mbxRx m k = false := by simpa [State.mbxRx] using fun _ => seen
  simp [State.mbxPop, rx]

theorem State.rxqRead_w64 {s : State} {m : Master} {b k : Nat} (side : s.mbxSide? b (s.epOf m) = some k) :
    s.rxqRead m b .w64 = (s.mbxPop b k).1.answer (s.mbxPop b k).2.toNat := by rw [State.rxqRead, side]; rfl

theorem State.rxqRead_lo32 {s : State} {m : Master} {b k : Nat} (side : s.mbxSide? b (s.epOf m) = some k) :
    s.rxqRead m b .lo32 = (s.mbxPop b k).1.splitRead m (MBX_RXQ b) .lo32 (s.mbxPop b k).2 := by rw [State.rxqRead, side]

theorem State.rxqRead_hi32 {s : State} {m : Master} {b k : Nat} (side : s.mbxSide? b (s.epOf m) = some k) :
    s.rxqRead m b .hi32 = s.splitRead m (MBX_RXQ b) .hi32 (s.mbxPop b k).2 := by rw [State.rxqRead, side]

theorem State.rxqRead_none {s : State} {m : Master} {b : Nat} (a : Access) (side : s.mbxSide? b (s.epOf m) = none) :
    s.rxqRead m b a = s.answer 0 := by rw [State.rxqRead, side]

/-- A read that takes a word answers it, as a split register; only the reader's shadow changes beside the queues. -/
theorem State.rxqRead_takes {s : State} {m : Master} {b k : Nat} {a : Access} (side : s.mbxSide? b (s.epOf m) = some k)
    (part : a ≠ .hi32) : s.rxqRead m b a = (s.mbxPop b k).1.splitRead m (MBX_RXQ b) a (s.mbxPop b k).2 := by
  cases a with
  | w64 => exact State.rxqRead_w64 side
  | lo32 => exact State.rxqRead_lo32 side
  | hi32 => exact absurd rfl part

theorem and_lowWord (v : BitVec 64) : v &&& 0xFFFFFFFF#64 = BitVec.ofNat 64 (v.toNat % 2 ^ 32) := by
  apply BitVec.eq_of_toNat_eq
  rw [BitVec.toNat_and, BitVec.toNat_ofNat (v.toNat % 2 ^ 32), Nat.mod_eq_of_lt (a := v.toNat % 2 ^ 32) (by omega)]
  exact Nat.and_two_pow_sub_one_eq_mod v.toNat 32

theorem accTake_zero (a : Access) : accTake a 0 = 0 := by cases a <;> decide

theorem State.splitRead_reply (s : State) (m : Master) (r : Nat) {a : Access} (v : BitVec 64) (part : a ≠ .hi32) :
    (s.splitRead m r a v).reply = some (accTake a v, false) := by
  cases a with
  | w64 => exact congrArg (fun x => some (x, false)) ((BitVec.ofNat_toNat 64 v).trans (BitVec.setWidth_eq v))
  | lo32 => exact congrArg (fun x => some (x, false)) (and_lowWord v).symm
  | hi32 => exact absurd rfl part

theorem State.splitRead_mbx (s : State) (m : Master) (r : Nat) (a : Access) (v : BitVec 64) :
    (s.splitRead m r a v).mbx = s.mbx := by cases a <;> rfl
theorem State.splitRead_regs (s : State) (m : Master) (r : Nat) (a : Access) (v : BitVec 64) :
    (s.splitRead m r a v).regs = s.regs := by cases a <;> rfl
theorem State.splitRead_side (s : State) (m : Master) (r : Nat) (a : Access) (v : BitVec 64) (n j : Nat) :
    (s.splitRead m r a v).side n j = s.side n j := by rw [State.side, State.splitRead_mbx]; rfl

/-! Writes of TXQ and CMD. -/

theorem State.mbxBy_side {s : State} {m : Master} {b k : Nat} {f : State → Nat → State}
    (side : s.mbxSide? b (s.epOf m) = some k) : s.mbxBy m b f = f s k := by rw [State.mbxBy, side]

theorem State.mbxBy_none {s : State} {m : Master} {b : Nat} {f : State → Nat → State}
    (side : s.mbxSide? b (s.epOf m) = none) : s.mbxBy m b f = s.mbxViol (s.epOf m) := by rw [State.mbxBy, side]

theorem State.txqWrite_side {s : State} {m : Master} {b k : Nat} (v : BitVec 64) (side : s.mbxSide? b (s.epOf m) = some k) :
    s.txqWrite m b .w64 v =
      (({ s with writeShadow := tset none s.writeShadow (shadowKey m (MBX_TXQ b)) none } : State).mbxPost b k v).1.gateWords := by
  rw [State.txqWrite, side]; rfl

theorem State.txqWrite_none {s : State} {m : Master} {b : Nat} (a : Access) (v : BitVec 64)
    (side : s.mbxSide? b (s.epOf m) = none) :
    s.txqWrite m b a v = s.splitRefuse m (MBX_TXQ b) a v fun t => t.mbxViol (t.epOf m) := by rw [State.txqWrite, side]

theorem State.mbxCommand_ack {s : State} {m : Master} {b k : Nat} (side : s.mbxSide? b (s.epOf m) = some k)
    (read : (s.mbxAckWord b k).2 = true) : s.mbxCommand m b false true = (s.mbxAckWord b k).1 :=
  (State.mbxBy_side side).trans (if_pos read)

end Sys2Proof.Machine
end

section
/-! THEOREMS. The obligations of spec/12. -/

namespace Sys2Proof.Machine

/-- Settles O51: by the owner of the lock; either half of a foreign write, or both, is the violation. -/
theorem lockReleaseRule : Obligations.LockReleaseRule := by
  intro s m k v reached on
  have next {a b : State} (e : a = b) : (.next a : Out) = .next b := congrArg Host.Outcome.next e
  refine ⟨fun master own => ⟨s.lockRelease k, ?_, ?_, ?_, fun j other => ?_, fun a => ?_⟩,
    fun foreign => ⟨s.mbxViol (s.epOf m), ?_, fun x => ?_, ?_, fun j => rfl⟩⟩
  · exact next ((access_open reached).trans (State.lockWrite_owner master own))
  · exact next ((State.registerWrite_LK reached on .w64 v).trans (State.lockWrite_owner master own))
  · rw [State.lockRelease_eq, lk_setLk]
  · rw [State.lockRelease_eq, lk_setLk_ne _ _ other, State.lk_lockTold]
  · rw [State.lockRelease_eq, State.setLk_reg, State.reg_lockTold]
  · exact next ((access_open reached).trans (State.lockWrite_foreign true foreign))
  · exact next ((State.registerWrite_LK reached on x v).trans (State.lockWrite_foreign _ foreign))
  · rw [State.flag, State.mbxViol, fld_put_bits _ _ _ _ (by decide) (by decide), State.raiseBit, fld_put _ _ _ (by decide)]
    decide

/-- Settles O52: by the queue toward the side. -/
theorem mailboxReadTakesOldestUnread : Obligations.MailboxReadTakesOldestUnread := by
  intro s m b k x reached side free part
  have taken : exec (.mbxRxqRead m b x) s = .next ((s.mbxPop b k).1.splitRead m (MBX_RXQ b) x (s.mbxPop b k).2) :=
    congrArg Host.Outcome.next ((access_open reached).trans (State.rxqRead_takes side part))
  refine ⟨fun l r w queue seen new => ?_, fun seen => ?_⟩
  · rw [State.mbxPop_oldest free queue seen new] at taken
    refine ⟨_, taken, State.splitRead_reply _ _ _ _ part, ?_, fun a j other => ?_, State.splitRead_regs ..⟩
    · rw [State.splitRead_side, side_setSide]
    · rw [State.splitRead_side, side_setSide_ne _ _ other]
  · rw [State.mbxPop_none seen] at taken
    refine ⟨_, taken, (State.splitRead_reply _ _ _ _ part).trans ?_, State.splitRead_mbx .., State.splitRead_regs ..⟩
    rw [accTake_zero]

/-- Settles O32: by the side of the mailbox the master is on, and the owner of the lock. -/
theorem mailboxAndLockCommandsComplete : Obligations.MailboxAndLockCommandsComplete := by
  have next {a b : State} (e : a = b) : (.next a : Out) = .next b := congrArg Host.Outcome.next e
  refine ⟨?post, ?read, ?halves, ?ack, ?ring, ?foreignWrite, ?foreignRead, ?free, ?held, ?release, ?foreignRelease⟩
  case post => exact fun s m b k v reached side => next ((access_open reached).trans (State.txqWrite_side v side))
  case read => exact fun s m b k reached side => next ((access_open reached).trans (State.rxqRead_w64 side))
  case halves =>
    exact fun s m b k reached side => ⟨next ((access_open reached).trans (State.rxqRead_lo32 side)),
      next ((access_open reached).trans (State.rxqRead_hi32 side))⟩
  case ack => exact fun s m b k reached side read => next ((access_open reached).trans (State.mbxCommand_ack side read))
  case ring => exact fun s m b k reached side => next ((access_open reached).trans (State.mbxBy_side side))
  case foreignWrite =>
    intro s m b v txq cmd side
    exact ⟨next ((access_open txq).trans (State.txqWrite_none .w64 v side)),
      next ((access_open txq).trans (State.txqWrite_none .hi32 v side)),
      next ((access_open txq).trans (State.txqWrite_none .lo32 v side)),
      next ((access_open cmd).trans (State.mbxBy_none side)), next ((access_open cmd).trans (State.mbxBy_none side))⟩
  case foreignRead => exact fun s m b a reached side => next ((access_open reached).trans (State.rxqRead_none a side))
  case free =>
    intro s m k a reached master low free
    exact next ((access_open reached).trans (by simp [State.lockRead, master, low, free]))
  case held =>
    intro s m k a reached master low taken
    exact next ((access_open reached).trans (by simp [State.lockRead, master, low, taken]))
  case release => exact fun s m k reached master own => next ((access_open reached).trans (State.lockWrite_owner master own))
  case foreignRelease => exact fun s m k reached foreign => next ((access_open reached).trans (State.lockWrite_foreign true foreign))

end Sys2Proof.Machine
end


section
/-! SUPPORT. The phases of a bootstrap: when each ends, and that S4 stops it (spec/13, R354, R358). -/

namespace Sys2Proof.Machine

section Phases

variable {s : State}

theorem State.phaseEnd_goes {f : State → State} (h : s.s4 = false) : s.phaseEnd f = f s :=
  if_neg (by rw [h]; exact Bool.false_ne_true)

theorem State.phaseEnd_stops {f : State → State} (h : s.s4 = true) :
    s.phaseEnd f = { s with bsq := { s.bsq with running := false } } := if_pos h

theorem State.bootIn_of {n : Nat} (running : s.bsq.running = true) (state : s.fld BSQ_STAT_STATE = n) : s.bootIn n = true := by
  simp [State.bootIn, running, state]

theorem State.wakeReady_of_supplies (waking : s.pmuPhase = phWaking) (up : s.pmu.supplies = true) : s.wakeReady =
    let t := s.cellsOpen.setPhase phBoot
    let u := ((t.put BSQ_STAT_KIND bkWake).put BSQ_STAT_STATE bsReset).raiseBit SYS_RSTCAUSE_PIN
    if t.sys.pinLow then { u with sys := { u.sys with inReset := true } } else t.bootStart bkWake := by
  rw [State.wakeReady, if_pos (by simp [waking, up])]

theorem State.bootAfterReset_of (held : s.sys.inReset = true) (high : s.sys.pinLow = false) (locked : s.sys.pllWait = false) :
    s.bootAfterReset = s.bootStart (s.fld BSQ_STAT_KIND) := if_pos (by simp [held, high, locked])

/-- An S3 reaction that nothing holds back starts a RECOVERY bootstrap. -/
theorem State.recoveryStart_now (s3 : s.s3 = true) (first : s.flag FCU_STAT_RECOV = false) (s4 : s.s4 = false)
    (alive : s.fld BSQ_STAT_STATE ≠ bsFail) (idle : s.bsq.running = false) (out : s.sys.inReset = false)
    (boot : s.pmuPhase ≠ phBoot) (enter : s.pmuPhase ≠ phEnter) (waking : s.pmuPhase ≠ phWaking)
    (awake : s.fld PMU_STAT_STATE < 2) :
    s.recoveryStart = ((s.raiseBit FCU_STAT_RECOV).prepareFault).bootStart bkRecovery := by
  have failed : s.bootFailed = false := by simp [State.bootFailed, alive]
  have holds : s.s3Holds = false := by simp [State.s3Holds, idle, out, boot]
  rw [State.recoveryStart, if_neg (by simp [s3, first, s4, failed]), if_neg (by simp [holds]), if_neg (by simp [enter, waking]),
    if_neg (Nat.not_le.2 awake)]

theorem State.headersRead_phase (running : s.bsq.running = true) (state : s.fld BSQ_STAT_STATE = bsFlash)
    (place : s.bsq.place = 0) (retry : s.bsq.waitRetry = false) (nv : s.bsq.nvWait = false) : s.headersRead =
      s.phaseEnd fun t => if t.nvReady then tryCandidates t.slotOrder 1 t else { t with bsq := { t.bsq with nvWait := true } } :=
  if_pos (by simp [State.bootIn_of running state, place, retry, nv])

theorem imageReadDone_candidate {u : BitVec 32} {e : List (Nat × Byte)} {g : List (List (Nat × Byte))}
    (running : s.bsq.running = true) (state : s.fld BSQ_STAT_STATE = bsFlash) (kind : s.fld BSQ_STAT_KIND ≠ bkRecovery)
    (place : s.bsq.place ≠ 0) (retry : s.bsq.waitRetry = false) :
    execBsqImageReadDone u e g s = .next (s.imageRead u.toNat e g) := by
  rw [execBsqImageReadDone, if_neg (by simp [kind]), if_pos (by simp [State.bootIn_of running state, place, retry])]

theorem imageReadDone_recovery {u : BitVec 32} {e : List (Nat × Byte)} {g : List (List (Nat × Byte))}
    (running : s.bsq.running = true) (state : s.fld BSQ_STAT_STATE = bsVerify) (kind : s.fld BSQ_STAT_KIND = bkRecovery)
    (retry : s.bsq.waitRetry = false) :
    execBsqImageReadDone u e g s = .next (s.phaseEnd fun t => t.rehash) := by
  rw [execBsqImageReadDone, if_pos (by simp [kind]), if_pos (by simp [State.bootIn_of running state, retry])]

theorem State.zsVerdict_goes (clear : s.s4 = false) :
    s.zsVerdict = if s.verdictExit = 0 then s.put BSQ_STAT_STATE bsBuild else s.candidateExit s.verdictExit := by
  simp only [State.zsVerdict, State.phaseEnd_goes clear, beq_iff_eq]

theorem zsVerdict_awaited {b : Bool} (running : s.bsq.running = true) (state : s.fld BSQ_STAT_STATE = bsVerify)
    (kind : s.fld BSQ_STAT_KIND ≠ bkRecovery) (verdict : b = s.signatureGood) :
    execZsSignatureVerdict b s = .next s.zsVerdict := by
  have awaited : s.zsAwaited = true := by simp [State.zsAwaited, State.bootIn_of running state, kind]
  rw [execZsSignatureVerdict, if_pos (by simp [awaited, verdict])]

theorem buildDone_phase (running : s.bsq.running = true) (state : s.fld BSQ_STAT_STATE = bsBuild)
    (regs : s.bsq.regsWait = false) (built : s.bsq.built = false) (net : s.bsqAwaits 4 = false) :
    execBsqBuildDone s = .next (s.phaseEnd fun t => t.build) := by
  rw [execBsqBuildDone, if_pos (by simp [State.bootIn_of running state, regs, built, net])]

theorem regsWaitEnd_phase (running : s.bsq.running = true) (state : s.fld BSQ_STAT_STATE = bsBuild)
    (regs : s.bsq.regsWait = true) : execRegsWaitEnd s =
      .next (s.phaseEnd fun t => ({ t with bsq := { t.bsq with regsWait := false } } : State).regsFrom s.bsq.regs) := by
  rw [execRegsWaitEnd, if_pos (by simp [State.bootIn_of running state, regs])]

theorem coreRelease_phase (due : s.releaseDue = true) : execCoreRelease s = .next (s.phaseEnd fun t => t.release_) :=
  congrArg Host.Outcome.next (if_pos due)

theorem zsTimeout_phase (late : s.zsLate = true) :
    execZsTimeout s = .next (s.phaseEnd fun t => (t.exitRecord exZsFail).bootFail) := congrArg Host.Outcome.next (if_pos late)

/-- The second run of a bootstrap whose candidates all failed. -/
def State.secondRun (s : State) : State :=
  let t := s.bootClear.put BSQ_STAT_STATE (if s.fld BSQ_STAT_KIND == bkRecovery then bsVerify else bsFlash)
  let t := t.when (t.fld BSQ_STAT_KIND != bkRecovery) fun u => u.xspiShow 0 0 8
  { t with bsq := { t.bsq with second := true, waitRetry := false, place := 0, slots := [] } }

theorem State.bootRetry_phase (running : s.bsq.running = true) (retry : s.bsq.waitRetry = true) :
    s.bootRetry = s.phaseEnd State.secondRun := if_pos (by simp [running, retry])

end Phases

end Sys2Proof.Machine
end

section
/-! THEOREMS. The obligation of spec/13 on the phases of a bootstrap. -/

namespace Sys2Proof.Machine

/-- Settles O33: by the phase that runs, and S4. -/
theorem bootstrapCommandsComplete : Obligations.BootstrapCommandsComplete := by
  have next {a b : State} (e : a = b) : (.next a : Out) = .next b := congrArg Host.Outcome.next e
  refine ⟨?por, ?wake, ?warm, ?recovery, ?headers, ?record, ?image, ?rehash, ?verdict, ?late, ?build, ?regs, ?release, ?retry,
    ?headersStop, ?rehashStop, ?lateStop, ?buildStop, ?regsStop, ?releaseStop, ?retryStop⟩
  case por => exact fun s held => next (if_pos held)
  case wake => exact fun s waking up => next (State.wakeReady_of_supplies waking up)
  case warm => exact fun s held high locked => next (State.bootAfterReset_of held high locked)
  case recovery =>
    exact fun s s3 first s4 alive idle out boot enter waking awake =>
      next (State.recoveryStart_now s3 first s4 alive idle out boot enter waking awake)
  case headers =>
    exact fun s running state place retry nv ready clear =>
      next (((State.headersRead_phase running state place retry nv).trans (State.phaseEnd_goes clear)).trans (if_pos ready))
  case record =>
    exact fun s running state place retry nv off clear =>
      next (((State.headersRead_phase running state place retry nv).trans (State.phaseEnd_goes clear)).trans
        (if_neg (ne_true_of_eq_false off)))
  case image =>
    exact fun s u e g running state kind place retry => imageReadDone_candidate running state kind place retry
  case rehash =>
    exact fun s u e g running state kind retry clear =>
      (imageReadDone_recovery running state kind retry).trans (next (State.phaseEnd_goes clear))
  case verdict =>
    exact fun s b running state kind verdict clear =>
      (zsVerdict_awaited running state kind verdict).trans (next (State.zsVerdict_goes clear))
  case late => exact fun s late clear => (zsTimeout_phase late).trans (next (State.phaseEnd_goes clear))
  case build =>
    exact fun s running state regs built net clear =>
      (buildDone_phase running state regs built net).trans (next (State.phaseEnd_goes clear))
  case regs =>
    exact fun s running state regs clear => (regsWaitEnd_phase running state regs).trans (next (State.phaseEnd_goes clear))
  case release => exact fun s due clear => (coreRelease_phase due).trans (next (State.phaseEnd_goes clear))
  case retry =>
    exact fun s running retry clear => next ((State.bootRetry_phase running retry).trans (State.phaseEnd_goes clear))
  case headersStop =>
    exact fun s running state place retry nv _ stop =>
      next ((State.headersRead_phase running state place retry nv).trans (State.phaseEnd_stops stop))
  case rehashStop =>
    exact fun s u e g running state kind retry stop =>
      (imageReadDone_recovery running state kind retry).trans (next (State.phaseEnd_stops stop))
  case lateStop => exact fun s late stop => (zsTimeout_phase late).trans (next (State.phaseEnd_stops stop))
  case buildStop =>
    exact fun s running state regs built net stop =>
      (buildDone_phase running state regs built net).trans (next (State.phaseEnd_stops stop))
  case regsStop =>
    exact fun s running state regs stop => (regsWaitEnd_phase running state regs).trans (next (State.phaseEnd_stops stop))
  case releaseStop => exact fun s due stop => (coreRelease_phase due).trans (next (State.phaseEnd_stops stop))
  case retryStop =>
    exact fun s running retry stop => next ((State.bootRetry_phase running retry).trans (State.phaseEnd_stops stop))

end Sys2Proof.Machine
end


section
/-! SUPPORT. The power manager's commands by the phase of a transition and the right of a writer (spec/14). -/

namespace Sys2Proof.Machine

section Power

variable {s : State} {m : Master}

/-- A phase tested beside a condition. -/
theorem pmuPhase_and {n : Nat} {b : Bool} (phase : s.pmuPhase = n) (h : b = true) : (s.pmuPhase == n && b) = true := by
  rw [phase, h, beq_self_eq_true, Bool.and_self]

theorem State.supplyFail_retried (waking : s.pmuPhase = phWaking) (up : s.pmu.supplies = true)
    (few : s.fld PMU_STAT_ATTEMPTS < 4) : s.supplyFail = { s with pmu := { s.pmu with supplies := false } } :=
  (if_pos (pmuPhase_and waking up)).trans (if_neg (Nat.not_le.2 few))

theorem State.supplyFail_last (waking : s.pmuPhase = phWaking) (up : s.pmu.supplies = true)
    (last : 4 ≤ s.fld PMU_STAT_ATTEMPTS) :
    s.supplyFail = State.wakeFail { s with pmu := { s.pmu with supplies := false } } :=
  (if_pos (pmuPhase_and waking up)).trans (if_pos last)

/-- A wake whose domains are READY starts its bootstrap, which RESET_N held low keeps back. -/
theorem State.wakeReady_boots (waking : s.pmuPhase = phWaking) (up : s.pmu.supplies = true) : s.wakeReady =
    let t := s.cellsOpen.setPhase phBoot
    if t.sys.pinLow = false then t.bootStart bkWake
    else
      let u := ((t.put BSQ_STAT_KIND bkWake).put BSQ_STAT_STATE bsReset).raiseBit SYS_RSTCAUSE_PIN
      { u with sys := { u.sys with inReset := true } } := by
  rw [State.wakeReady_of_supplies waking up]
  dsimp only
  cases (s.cellsOpen.setPhase phBoot).sys.pinLow with
  | false => rw [if_neg Bool.false_ne_true, if_pos rfl]
  | true => rw [if_pos rfl, if_neg (Bool.noConfusion)]

theorem State.nvIdle_off (auto : s.flag PMU_DOMCTL_NVAUTO = true) (on : (s.fld PMU_DOMSTAT_READY).testBit 5 = true)
    (idle : ∀ e < 8, s.nvBusy e = none) :
    s.nvIdle = (s.put PMU_DOMSTAT_READY (s.fld PMU_DOMSTAT_READY - 0x20)).fcuClamp := by
  have all : (List.range 8).all (fun e => (s.nvBusy e).isNone) = true :=
    List.all_eq_true.2 fun e he => by rw [idle e (List.mem_range.1 he)]; rfl
  exact if_pos (by rw [auto, on, all]; rfl)

theorem State.netoffWrite_unused (unused : s.netUnused = true) :
    s.netoffWrite true = (s.putB PMU_DOMCTL_NETOFF true).netOff := if_pos unused

theorem State.pmuOwned_of {f : State → State} (own : (ownerOk (s.fld PMU_CFG_OWNER) m || m == .zk) = true) :
    s.pmuOwned m f = f s := if_pos own

theorem State.wtmrWrite_w64 (reached : s.opens m PMU_WTMR = true)
    (own : (ownerOk (s.fld PMU_CFG_OWNER) m || m == .zk) = true) (v : BitVec 64) : s.wtmrWrite m .w64 v =
      ({ s with writeShadow := tset none s.writeShadow (shadowKey m PMU_WTMR) none } : State).wtmrSet v :=
  (access_open reached).trans (if_pos own)

end Power

end Sys2Proof.Machine
end

section
/-! THEOREMS. The obligation of spec/14 on power requests, entries and wakes. -/

namespace Sys2Proof.Machine

/-- Settles O34: by the phase of the transition. -/
theorem powerCommandsComplete : Obligations.PowerCommandsComplete := by
  have next {a b : State} (e : a = b) : (.next a : Out) = .next b := congrArg Host.Outcome.next e
  refine ⟨?request, ?prepared, ?expired, ?entered, ?wake, ?domains, ?crystal, ?supply, ?lastSupply, ?retry, ?limp, ?nvOff,
    ?netOff, ?timer, ?alarm⟩
  case request => exact fun s m t reached => next (access_open reached)
  case prepared => exact fun s phase ready => next (if_pos (pmuPhase_and phase ready))
  case expired => exact fun s phase busy => next (if_pos (pmuPhase_and phase (by rw [busy]; rfl)))
  case entered => exact fun s phase => next (if_pos (beq_iff_eq.2 phase))
  case wake =>
    intro s w d other
    refine next (if_neg fun both => other ?_)
    simpa only [Bool.and_eq_true, beq_iff_eq] using both
  case domains => exact fun s phase up => next (State.wakeReady_boots phase up)
  case crystal => exact fun s phase park => next (if_pos (pmuPhase_and phase (beq_iff_eq.2 park)))
  case supply => exact fun s phase up few => next (State.supplyFail_retried phase up few)
  case lastSupply => exact fun s phase up last => next (State.supplyFail_last phase up last)
  case retry => exact fun s phase down => next (if_pos (pmuPhase_and phase (by rw [down]; rfl)))
  case limp => exact fun s park => next (if_pos (beq_iff_eq.2 park))
  case nvOff => exact fun s auto on idle => next (State.nvIdle_off auto on idle)
  case netOff =>
    exact fun s m reached own unused =>
      next ((access_open reached).trans ((State.pmuOwned_of own).trans (State.netoffWrite_unused unused)))
  case timer => exact fun s m v reached own => next (State.wtmrWrite_w64 reached own v)
  case alarm => exact fun s on past => next (if_pos (by rw [on, decide_eq_true past]; rfl))

end Sys2Proof.Machine
end


section
/-! SUPPORT. Brown-outs, the clocks, resets by command and the watchdogs (spec/15). -/

namespace Sys2Proof.Machine

section Resets

variable {s : State} {m : Master}

theorem railBrownout_on {fast : Bool} (on : s.sys.por = false) : execRailBrownout fast s = .next (s.brownout fast) :=
  congrArg Host.Outcome.next (if_neg (ne_true_of_eq_false on))

theorem State.xtalLoss_first (awake : s.pstate < psPark) (run : s.flag SYS_CLKSTAT_XTAL_OK = true)
    (sound : (s.putB SYS_CLKSTAT_XTAL_OK false).flag PMU_STAT_CLK_DEGRADED = false) : s.xtalLoss =
      ((((s.putB SYS_CLKSTAT_XTAL_OK false).setDegraded true).incSat SYS_CLKSTAT_XLOSS).raiseBit SYS_IRQ_XLOSS).raiseL 266 := by
  rw [State.xtalLoss, if_neg (by simp [awake, run])]
  exact if_neg (ne_true_of_eq_false sound)

/-- Nothing has failed the crystal of CK_SLOW, nor is its RC selected. -/
theorem slowXtal_used (sel : s.flag SYS_CLKCFG_SLOWSEL = false) (good : s.sys.slowFailed = false) :
    ¬ (s.flag SYS_CLKCFG_SLOWSEL || s.sys.slowFailed) = true := by simp [sel, good]

theorem State.resetPin_low (up : s.ldieDown = false) : s.resetPin true =
    (({ s with sys := { s.sys with pinLow := true } } : State).raiseBit SYS_RSTCAUSE_PIN).ldieReset true :=
  (if_pos rfl).trans (if_neg (ne_true_of_eq_false up))

/-- The endpoints that a mask with one of the bits 1 to 7 names. -/
theorem maskEndpoints_single (e : Fin 7) :
    ((List.range 8).filter fun i => 1 ≤ i && (2 ^ (e.val + 1)).testBit i) = [e.val + 1] := by revert e; decide

theorem maskEndpoints_none : ((List.range 8).filter fun i => 1 ≤ i && (0 : Nat).testBit i) = [] := by decide

section Command

variable (may : (m == .zs || (s.fld SYS_CLKCFG_OWNER != 0 && s.fld SYS_CLKCFG_OWNER == s.epOf m)) = true)
include may

theorem State.rstCommand_taken (mask : Nat) (ldie : Bool) : s.rstCommand m 0xD5 mask ldie =
    let es := (List.range 8).filter fun e => 1 ≤ e && mask.testBit e
    if ldie then
      let s := s.raiseBit SYS_RSTCAUSE_SWRST
      let s := s.each es fun e t =>
        if e == 7 then t.raiseBit SYS_RSTCAUSE_HOST
        else t.put SYS_RSTCAUSE_CORE (t.fld SYS_RSTCAUSE_CORE ||| 2 ^ (t.coreHome e - 1))
      s.ldieRestart
    else s.each es fun e t => t.coreReset e := if_neg (by rw [may]; decide)

theorem State.rstCommand_ldie : s.rstCommand m 0xD5 0 true = (s.raiseBit SYS_RSTCAUSE_SWRST).ldieRestart := by
  rw [State.rstCommand_taken may, maskEndpoints_none]; rfl

theorem State.rstCommand_core (e : Fin 7) : s.rstCommand m 0xD5 (2 ^ (e.val + 1)) false = s.coreReset (e.val + 1) := by
  rw [State.rstCommand_taken may, maskEndpoints_single]; rfl

end Command

/-! Watchdogs. -/

variable {k v : Nat}

theorem State.wdKick_idle (idle : s.wdRuns k = false) : s.wdKick m k v = s := if_pos (by rw [idle]; rfl)

theorem State.wdKick_turn (runs : s.wdRuns k = true) (own : s.epOf m = s.fld (SYS_WD_CFG_OWNER k))
    (window : s.fld (SYS_WD_CFG_WIN k) ≤ s.wdAge k) (turn : v = if (s.wdog k).nextA5 then 0xA5 else 0x5A) :
    s.wdKick m k v = s.setWdog k { s.wdog k with since := s.now, nextA5 := !(s.wdog k).nextA5 } := by
  rw [State.wdKick, if_neg (by simp [runs]), if_pos (by simp [own, window, turn])]

theorem State.wdKick_bad (runs : s.wdRuns k = true)
    (bad : s.epOf m ≠ s.fld (SYS_WD_CFG_OWNER k) ∨ s.wdAge k < s.fld (SYS_WD_CFG_WIN k) ∨
      v ≠ if (s.wdog k).nextA5 then 0xA5 else 0x5A) : s.wdKick m k v = s.wdExpire k := by
  have refused : ¬ (s.epOf m == s.fld (SYS_WD_CFG_OWNER k) && decide (s.fld (SYS_WD_CFG_WIN k) ≤ s.wdAge k) &&
      v == (if (s.wdog k).nextA5 then 0xA5 else 0x5A)) = true := by
    simp only [Bool.and_eq_true, beq_iff_eq, decide_eq_true_eq, not_and_or, Nat.not_le, or_assoc]
    exact bad
  rw [State.wdKick, if_neg (by simp [runs]), if_neg refused]

end Resets

end Sys2Proof.Machine
end

section
/-! THEOREMS. The obligation of spec/15 on supplies, clocks, resets and watchdogs. -/

namespace Sys2Proof.Machine

/-- Settles O35: by the condition that each event finds. -/
theorem supplyClockResetCommandsComplete : Obligations.SupplyClockResetCommandsComplete := by
  have next {a b : State} (e : a = b) : (.next a : Out) = .next b := congrArg Host.Outcome.next e
  refine ⟨?reset, ?release, ?slow, ?fast, ?xtal, ?unlock, ?relock, ?loss, ?backAgain, ?slowXtal, ?trim, ?pinLow, ?pinHigh, ?command,
    ?kick, ?badKick, ?noKick, ?silence⟩
  case reset => exact fun s => rfl
  case release => exact fun s held => next (if_pos held)
  case slow => exact fun s on => railBrownout_on on
  case fast => exact fun s on => railBrownout_on on
  case xtal => exact fun s awake run sound => next (State.xtalLoss_first awake run sound)
  case unlock => exact fun s locked => next (if_pos locked)
  case relock => exact fun s waits => next (if_pos waits)
  case loss => exact fun s run => next (if_neg (ne_true_of_eq_false run))
  case backAgain => exact fun s => rfl
  case slowXtal => exact fun s sel good => ⟨next (if_neg (slowXtal_used sel good)), next (if_neg (slowXtal_used sel good))⟩
  case trim => exact fun s => ⟨rfl, rfl⟩
  case pinLow => exact fun s up _ => next (State.resetPin_low up)
  case pinHigh => exact fun s => rfl
  case command =>
    exact fun s m e reached may => ⟨next ((access_open reached).trans (State.rstCommand_ldie may)),
      next ((access_open reached).trans (State.rstCommand_core may e))⟩
  case kick =>
    exact fun s m k v reached runs own window turn =>
      next ((access_open reached).trans (State.wdKick_turn runs own window turn))
  case badKick => exact fun s m k v reached runs bad => next ((access_open reached).trans (State.wdKick_bad runs bad))
  case noKick => exact fun s m k v reached idle => next ((access_open reached).trans (State.wdKick_idle idle))
  case silence => exact fun s k runs => next (if_pos runs)

end Sys2Proof.Machine
end


section
/-! SUPPORT. The monitor's operations on a message it takes (spec/16, R414–R423; spec/17, R446). -/

namespace Sys2Proof.Machine

section Monitor

variable {s t : State} {src : CmdSrc} {a b p j : Nat} {f : CmdFrom} {l : List Byte}

/-- A command whose message the monitor takes ends with the operation's state, and the refused messages behind it are
answered. -/
theorem monitor_runs {run : State → CmdFrom → Nat → List Byte → State} {x : State}
    (taken : s.taken src a b = some (t, f, p, l)) (free : t.familyBar a b = false) (e : run t f p l = x) :
    (.next (s.monitor src a b run) : Out) = .next x.answerTurned := by rw [monitor_taken run taken free, e]

theorem State.enroll_good {i : Nat} {k : BitVec 128} (slot : bodyByte (msgBody l) 0 = j) (key : bodyLe (msgBody l) 4 4 = i)
    (inRange : j ≤ 7) (empty : (t.sec.keys.slot j).1 = 0) (point : (enrollPoint (msgBody l)).isSome = true)
    (unwrapped : t.enrollKey (msgBody l) = some k) (valid : i ≠ 0)
    (fresh : ∀ x < 8, (t.sec.keys.slot x).1 ≠ 0 → (t.sec.keys.slot x).2.1 ≠ i) :
    t.enroll f l = (t.setKeys (t.sec.keys.setSlot j (1, i, k))).respondOk f l := by
  have held : ¬ (i == 0 || (List.range 8).any fun x => (t.sec.keys.slot x).1 != 0 && (t.sec.keys.slot x).2.1 == i) = true := by
    simpa [valid] using fresh
  have given : ¬ (enrollPoint (msgBody l)).isNone = true := by
    cases h : enrollPoint (msgBody l) with
    | none => rw [h] at point; exact absurd point (by decide)
    | some q => exact Bool.false_ne_true
  simp only [State.enroll, slot, key, unwrapped]
  rw [if_neg (Nat.not_lt.2 inRange), if_neg (by simp [empty]), if_neg given, if_neg held]

theorem State.accessBlock_enrolled (enrolled : (t.sec.keys.slot j).1 = 1) :
    t.accessBlock j f l = (t.setKeys (t.sec.keys.setSlot j (2, (t.sec.keys.slot j).2))).respondOk f l :=
  if_pos (beq_iff_eq.2 enrolled)

theorem State.install_empty {pub : List Byte} (empty : t.sec.keys.imageState j = 0) : t.install j pub f l =
    (t.setKeys { t.sec.keys with image := tset (0, []) t.sec.keys.image j (1, pub) }).respondOk f l :=
  if_pos (beq_iff_eq.2 empty)

theorem State.revoke_unused (other : imgKeyIdx (t.halfImg (t.fld BSQ_STAT_IHALF)) ≠ j) : t.revoke j f l =
    (t.setKeys
      { t.sec.keys with image := tset (0, []) t.sec.keys.image j (2, (tget (0, []) t.sec.keys.image j).2) }).respondOk f l :=
  if_neg (mt beq_iff_eq.1 other)

theorem State.raiseRollback_good {v : Nat} (least : t.sec.keys.rollback ≤ v) (most : v ≤ t.fld BSQ_IMG_ROLLBACK) :
    t.raiseRollback v f l = (t.setKeys { t.sec.keys with rollback := v }).respondOk f l :=
  if_pos (by rw [decide_eq_true least, decide_eq_true most]; rfl)

theorem State.keygen_first (first : t.sec.keys.device = none) : t.keygen f l =
    let d := t.drawBytes 4
    (d.1.setKeys { d.1.sec.keys with device := some (BitVec.ofNat 256 (1 + leNat d.2 % (ecN - 1))) }).respondOk f l := by
  simp only [State.keygen, first]

end Monitor

end Sys2Proof.Machine
end

section
/-! THEOREMS. The obligation of spec/16 on the monitor's operations. -/

namespace Sys2Proof.Machine

/-- Settles O36: by the message that the monitor takes and the state in which the operation runs. -/
theorem monitorCommandsComplete : Obligations.MonitorCommandsComplete := by
  have next {a b : State} (e : a = b) : (.next a : Out) = .next b := congrArg Host.Outcome.next e
  refine ⟨?segment, ?foreign, ?late, ?status, ?cert, ?quote, ?enroll, ?block, ?remove, ?clear, ?ownerSet, ?ownerClear, ?install,
    ?revoke, ?rollback, ?faults, ?erase, ?eraseBarred, ?severity, ?inject, ?keygen, ?factoryCert, ?endOfLine⟩
  case segment => exact fun s p f v carried => next (if_pos carried)
  case foreign => exact fun s p f v other => next (if_neg (ne_true_of_eq_false other))
  case late => exact fun s p part => next (if_pos part)
  case status => exact fun s src t f p l taken free => monitor_runs taken free rfl
  case cert => exact fun s src t f p l taken free => monitor_runs taken free rfl
  case quote => exact fun s src t f p l taken free => monitor_runs taken free rfl
  case enroll =>
    intro s src t f p l j i k taken slot key inRange empty point unwrapped valid fresh free
    exact monitor_runs taken free ((if_pos (by rw [slot, key, beq_self_eq_true, beq_self_eq_true]; rfl)).trans
      (State.enroll_good slot key inRange empty point unwrapped valid fresh))
  case block => exact fun s src t f p l j taken enrolled free => monitor_runs taken free (State.accessBlock_enrolled enrolled)
  case remove => exact fun s src t f p l j taken free => monitor_runs taken free rfl
  case clear => exact fun s src t f p l taken free => monitor_runs taken free rfl
  case ownerSet => exact fun s src t f p l taken free => monitor_runs taken free rfl
  case ownerClear => exact fun s src t f p l taken free => monitor_runs taken free rfl
  case install => exact fun s src t f p l j b taken empty free => monitor_runs taken free (State.install_empty empty)
  case revoke => exact fun s src t f p l j taken other free => monitor_runs taken free (State.revoke_unused other)
  case rollback =>
    exact fun s src t f p l v taken least most free => monitor_runs taken free (State.raiseRollback_good least most)
  case faults => exact fun s src t f p l taken free => monitor_runs taken free rfl
  case erase => exact fun s src t f p l taken free => monitor_runs taken free rfl
  case eraseBarred => exact fun s src t f p l taken bar => next (monitor_barred _ taken bar)
  case severity => exact fun s src t f p l taken free => monitor_runs taken free rfl
  case inject => exact fun s src t f p l taken free => monitor_runs taken free rfl
  case keygen => exact fun s src t f p l taken first free => monitor_runs taken free (State.keygen_first first)
  case factoryCert => exact fun s src t f p l c taken free => monitor_runs taken free rfl
  case endOfLine => exact fun s src t f p l taken free => monitor_runs taken free rfl

end Sys2Proof.Machine
end


section
/-! SUPPORT. Update sessions, ACTIVATE and the phases of a hand-over (spec/16, R424–R432). -/

namespace Sys2Proof.Machine

section Update

variable {t : State} {p : Nat} {f : CmdFrom} {l : List Byte} {x : Session}

theorem State.updateBegin_good (idle : t.sessionBusy p = false) (whole : bodyLe (msgBody l) 0 4 % 8 = 0)
    (least : 336 ≤ bodyLe (msgBody l) 0 4) (most : bodyLe (msgBody l) 0 4 ≤ 0x1000000)
    (newer : t.fld BSQ_IMG_SEQ < bodyLe (msgBody l) 4 4) : t.updateBegin f p l =
      let len := bodyLe (msgBody l) 0 4
      let slot := 1 - t.fld BSQ_STAT_SLOT
      let staging := decide (len ≤ t.fld BSQ_IMGBASE_HALFSZ * 65536)
      ((t.eraseSector slot 0).setSession (some
          { port := p, length := len, seq := bodyLe (msgBody l) 4 4, slot := slot, staging := staging, erased := [0] })).respond
        f l istatOk 0 [BitVec.ofNat 8 slot, if staging then 1 else 0] := by
  have length : ¬ (bodyLe (msgBody l) 0 4 % 8 != 0 || decide (bodyLe (msgBody l) 0 4 < 336) ||
      decide (0x1000000 < bodyLe (msgBody l) 0 4)) = true := by simp [whole, least, most]
  rw [State.updateBegin, if_neg (ne_true_of_eq_false idle), if_neg length, if_neg (Nat.not_le.2 newer)]

/-- A block that the session does not hold yet is stored. -/
theorem State.updateBlock_new (idle : t.sessionBusy p = false) (session : t.sec.session = some x)
    (aligned : bodyLe (msgBody l) 0 4 % 4096 = 0) (within : bodyLe (msgBody l) 0 4 < x.length)
    (size : (msgBody l).length - 4 = min 4096 (x.length - bodyLe (msgBody l) 0 4))
    (new : x.have_.contains (bodyLe (msgBody l) 0 4) = false) : t.updateBlock false f p l =
      (t.blockStore x (bodyLe (msgBody l) 0 4) ((msgBody l).drop 4)).respondOk f l := by
  have format : ¬ (bodyLe (msgBody l) 0 4 % 4096 != 0 || decide (x.length ≤ bodyLe (msgBody l) 0 4) ||
      ((msgBody l).drop 4).length != min 4096 (x.length - bodyLe (msgBody l) 0 4)) = true := by
    simp [aligned, within, size]
  simp only [State.updateBlock, session]
  rw [if_neg (ne_true_of_eq_false idle), if_neg format, if_neg (ne_true_of_eq_false new), if_neg (by rw [Bool.false_and]; exact Bool.false_ne_true)]

theorem State.updateVerify_whole {errors : List (Nat × Byte)} (idle : t.sessionBusy p = false)
    (session : t.sec.session = some x) (whole : x.missing = none) :
    t.updateVerify errors f p l = t.verifyEnd errors x f l := by
  simp only [State.updateVerify, session, whole]
  rw [if_neg (ne_true_of_eq_false idle)]

theorem State.activate_verified {run : State → Session → State} (idle : t.sessionBusy p = false)
    (session : t.sec.session = some x) (verified : x.verified = true) : t.activate f p l run = run t x := by
  simp only [State.activate, session]
  rw [if_neg (ne_true_of_eq_false idle), if_pos verified]

/-- ACTIVATE RESTART names the slot in the boot record, and the restart waits. -/
theorem State.activateRestart_verified (mode : modeOf l = 2) (idle : t.sessionBusy p = false)
    (session : t.sec.session = some x) (verified : x.verified = true) : t.activateRestart f p l =
      let u := (t.setActSlot x.slot).respondOk f l
      { u with sec := { u.sec with restart := true } } :=
  (if_neg (by rw [mode]; decide)).trans (State.activate_verified idle session verified)

/-- The hand-over to a verified image by what ZS reads and what of the image is incompatible. -/
theorem State.activateHandover_cases (alive : t.bootFailed = false) (idle : t.sessionBusy p = false)
    (session : t.sec.session = some x) (verified : x.verified = true) :
    ((t.stagedRead x).2 = false →
      t.activateHandover f p l = (t.stagedRead x).1.respond f l istatAbortedFault 0 []) ∧
    ((t.stagedRead x).2 = true → ∀ c, (t.stagedRead x).1.incompatible x = some c →
      t.activateHandover f p l = (t.stagedRead x).1.conflict f l c) ∧
    ((t.stagedRead x).2 = true → (t.stagedRead x).1.incompatible x = none →
      t.activateHandover f p l =
        if (t.stagedRead x).1.s3 then ((t.stagedRead x).1.hoStart f l).hoAbandon 5 else (t.stagedRead x).1.hoStart f l) := by
  unfold State.activateHandover
  rw [if_neg (ne_true_of_eq_false alive), State.activate_verified idle session verified]
  refine ⟨fun unread => ?_, fun read c bar => ?_, fun read fit => ?_⟩
  · rw [if_pos (by rw [unread]; rfl)]
  · rw [if_neg (by rw [read]; decide), bar]
  · rw [if_neg (by rw [read]; decide), fit]; rfl

theorem State.updateAbort_idle (idle : t.sessionBusy p = false) :
    t.updateAbort f p l = (t.setSession none).respondOk f l := if_neg (ne_true_of_eq_false idle)

end Update

section Handover

variable {s : State} {e : Nat}

section Participant

variable (part : (s.fld BSQ_HOSTAT_PART).testBit e = true) (forward : s.hand.restoring = false)
include part forward

/-- The write of a participant of a hand-over that goes forward is not ignored. -/
theorem participant_heard : ¬ (!(s.fld BSQ_HOSTAT_PART).testBit e || s.hand.restoring) = true := by simp [part, forward]

theorem State.hoCommand_ready (quiet : s.fld BSQ_HOSTAT_PHASE = hoQuiet) : s.hoCommand e true false false =
    s.put BSQ_HOSTAT_READY (s.fld BSQ_HOSTAT_READY ||| 2 ^ e) :=
  (if_neg (participant_heard part forward)).trans (if_pos (by rw [quiet]; rfl))

theorem State.hoCommand_done (new : s.fld BSQ_HOSTAT_PHASE = hoNew) : s.hoCommand e false true false =
    let t := s.put BSQ_HOSTAT_DONE (s.fld BSQ_HOSTAT_DONE ||| 2 ^ e)
    if t.fld BSQ_HOSTAT_DONE = t.fld BSQ_HOSTAT_PART then t.hoComplete_ else t := by
  rw [State.hoCommand, if_neg (participant_heard part forward), if_neg (by rw [new]; decide), if_pos (by rw [new]; rfl)]
  simp only [Bool.false_eq_true, if_false, if_true, beq_iff_eq]

theorem State.hoCommand_abandon (new : s.fld BSQ_HOSTAT_PHASE = hoNew) :
    s.hoCommand e false false true = s.hoAbandon 1 := by
  rw [State.hoCommand, if_neg (participant_heard part forward), if_neg (by rw [new]; decide), if_pos (by rw [new]; rfl),
    if_pos rfl]

end Participant

theorem State.hoTables_of_switch (phase : s.fld BSQ_HOSTAT_PHASE = hoSwitch) (forward : s.hand.restoring = false) :
    s.hoTables =
      let r := s.sramRead
      let h := s.otherHalf
      let t := (r.1.each s.hoPart fun e u => u.writeTables (s.halfImg h) (s.halfBase h) e).put BSQ_HOSTAT_PHASE hoNew
      if r.2 = false then r.1.hoAbandon 5 else if t.hoPart = [] then t.hoComplete_ else t := by
  rw [State.hoTables, if_pos (by rw [phase, forward]; rfl)]
  simp only [Bool.not_eq_true', List.isEmpty_iff]

theorem State.hoRestore_of_restoring (back : s.hand.restoring = true) : s.hoRestore =
    let r := s.sramRead
    let h := s.fld BSQ_STAT_IHALF
    if r.2 = false then r.1
    else (r.1.each s.hoPart fun e t => t.writeTables (s.halfImg h) (s.halfBase h) e).hoEnd hoAbandoned
      (hoIstat (s.fld BSQ_HOSTAT_CAUSE)) := by
  rw [State.hoRestore, if_pos back]
  simp only [Bool.not_eq_true']

end Handover

end Sys2Proof.Machine
end

section
/-! THEOREMS. The obligation of spec/16 on updates and the hand-over. -/

namespace Sys2Proof.Machine

/-- Settles O37: by the message that the monitor takes, the session, and the phase of the hand-over. -/
theorem updateAndHandoverCommandsComplete : Obligations.UpdateAndHandoverCommandsComplete := by
  have next {a b : State} (e : a = b) : (.next a : Out) = .next b := congrArg Host.Outcome.next e
  refine ⟨?begin, ?block, ?verify, ?handover, ?restart, ?restarts, ?abort, ?timeout, ?ready, ?done, ?abandon, ?switch, ?tables,
    ?quietEnd, ?newEnd, ?restore⟩
  case begin =>
    exact fun s src t f p l taken idle whole least most newer free =>
      monitor_runs taken free (State.updateBegin_good idle whole least most newer)
  case block =>
    exact fun s src t f p l x taken idle session aligned within size new free =>
      monitor_runs taken free (State.updateBlock_new idle session aligned within size new)
  case verify =>
    exact fun s src t f p l x e taken idle session whole free =>
      monitor_runs taken free (State.updateVerify_whole idle session whole)
  case handover =>
    intro s src t f p l x taken mode alive idle session verified free
    obtain ⟨unreadable, incompatible, fits⟩ :=
      State.activateHandover_cases (f := f) (l := l) alive idle session verified
    refine monitor_runs taken free ((if_pos (beq_iff_eq.2 mode)).trans ?_)
    cases read : (t.stagedRead x).2 with
    | false => exact unreadable read
    | true =>
      cases fit : (t.stagedRead x).1.incompatible x with
      | some c => exact incompatible read c fit
      | none => exact fits read fit
  case restart =>
    exact fun s src t f p l x taken mode idle session verified free =>
      monitor_runs taken free ((if_neg (by rw [mode]; decide)).trans
        (State.activateRestart_verified mode idle session verified))
  case restarts => exact fun s waits => next (if_pos waits)
  case abort => exact fun s src t f p l taken idle free => monitor_runs taken free (State.updateAbort_idle idle)
  case timeout => exact fun s idle => next (if_neg (ne_true_of_eq_false idle))
  case ready =>
    exact fun s m reached part forward quiet => next ((access_open reached).trans (State.hoCommand_ready part forward quiet))
  case done =>
    exact fun s m reached part forward new => next ((access_open reached).trans (State.hoCommand_done part forward new))
  case abandon =>
    exact fun s m reached part forward new => next ((access_open reached).trans (State.hoCommand_abandon part forward new))
  case switch => exact fun s boundary => next (if_pos boundary)
  case tables => exact fun s phase forward => next (State.hoTables_of_switch phase forward)
  case quietEnd => exact fun s phase => next (if_pos (beq_iff_eq.2 phase))
  case newEnd => exact fun s phase => next (if_pos (beq_iff_eq.2 phase))
  case restore => exact fun s back => next (State.hoRestore_of_restoring back)

end Sys2Proof.Machine
end


section
/-! SUPPORT. Writes of the fault collector, and the classes of its sources (spec/17, R437–R440). -/

namespace Sys2Proof.Machine

/-! Severity writes. -/

/-- No source's class is lower than it was, and none has risen above S4. -/
def State.ClassesKept (s t : State) : Prop := ∀ j, s.fcuClass j ≤ t.fcuClass j ∧ t.fcuClass j ≤ max 4 (s.fcuClass j)

theorem State.ClassesKept.of_eq {s t : State} (h : ∀ j, t.fcuClass j = s.fcuClass j) : s.ClassesKept t :=
  fun j => ⟨(h j).ge, (h j).le.trans (le_max_right ..)⟩

theorem State.ClassesKept.trans {s t u : State} (h : s.ClassesKept t) (g : t.ClassesKept u) : s.ClassesKept u :=
  fun j => ⟨(h j).1.trans (g j).1, (g j).2.trans (max_le (le_max_left ..) (h j).2)⟩

/-- The class of a source is that of its nibble and of the list of nibbles that cannot be corrected. -/
theorem State.fcuClass_congr {s t : State} {j : Nat} (bad : t.fcu.badSev.contains j = s.fcu.badSev.contains j)
    (nibble : t.fld (sevFld j) = s.fld (sevFld j)) : t.fcuClass j = s.fcuClass j := by
  rw [State.fcuClass, State.fcuClass, bad, nibble]

theorem fld_sevFld_put_ne (s : State) {src j : Nat} (x : Nat) (other : j ≠ src) :
    (s.put (sevFld src) x).fld (sevFld j) = s.fld (sevFld j) := by
  by_cases word : j / 16 = src / 16
  · refine fld_put_bits _ _ _ _ ?_ ?_ <;> simp only [sevFld, FCU_SEV_SEV] <;> omega
  · exact fld_put_addr _ _ _ _ (by simp only [sevFld, FCU_SEV_SEV, FCU_SEV]; omega)

theorem fld_sevFld_put (s : State) {src x : Nat} (small : x ≤ 4) : (s.put (sevFld src) x).fld (sevFld src) = x := by
  rw [fld_put _ _ _ (by simp only [sevFld, FCU_SEV_SEV]; omega)]
  exact Nat.mod_eq_of_lt (Nat.lt_of_le_of_lt small (show 4 < 2 ^ 4 by decide))

/-- A nibble takes a class of S4 or below, which FS257 takes as S1 at most; no other source's class changes. -/
theorem State.fcuClass_sevStored (s : State) {src x : Nat} (small : x ≤ 4) (limited : src = 257 → x ≤ 1) (j : Nat) :
    ({ s.put (sevFld src) x with fcu := { s.fcu with badSev := s.fcu.badSev.filter (· != src) } } : State).fcuClass j =
      if j = src then x else s.fcuClass j := by
  by_cases same : j = src
  · subst same
    have corrected : (s.fcu.badSev.filter (· != j)).contains j = false := by simp
    rw [if_pos rfl]
    change (let cls := if (s.fcu.badSev.filter (· != j)).contains j then 3 else (s.put (sevFld j) x).fld (sevFld j)
      if j == 257 then min cls 1 else cls) = x
    rw [corrected, fld_sevFld_put s small]
    by_cases low : j = 257
    · exact (if_pos (beq_iff_eq.2 low)).trans (min_eq_left (limited low))
    · exact if_neg (mt beq_iff_eq.1 low)
  · rw [if_neg same]
    refine State.fcuClass_congr ?_ (fld_sevFld_put_ne s x same)
    simp [same]

theorem State.fcuClass_cfgViol (s : State) (j : Nat) : (s.raiseBit FCU_IRQ_CFG_VIOL).fcuClass j = s.fcuClass j :=
  State.fcuClass_congr rfl (fld_put_addr _ _ _ _ (by simp only [sevFld, FCU_SEV_SEV, FCU_SEV, FCU_IRQ_CFG_VIOL, FCU_IRQ]; omega))

section Severity

variable {s : State} {m : Master}

@[simp] theorem State.sevNibble_fcuFree (src x : Nat) : (s.sevNibble m src x).fcuFree m = s.fcuFree m := by
  have running : (s.sevNibble m src x).bsq = s.bsq := by
    simp only [State.sevNibble]
    split_ifs <;> rfl
  rw [State.fcuFree, running]; rfl

theorem State.sevNibble_classesKept (bound : s.fcuFree m = false) (src x : Nat) : s.ClassesKept (s.sevNibble m src x) := by
  have viol : s.ClassesKept (s.raiseBit FCU_IRQ_CFG_VIOL) := .of_eq s.fcuClass_cfgViol
  simp only [State.sevNibble]
  split
  · exact .of_eq fun _ => rfl
  · split
    · exact viol
    · next small =>
      generalize hx : (if src == 257 then min x 1 else x) = y
      have y4 : y ≤ 4 := by split at hx <;> omega
      have y257 : src = 257 → y ≤ 1 := fun e => by rw [if_pos (beq_iff_eq.2 e)] at hx; omega
      split
      · exact viol
      · next higher =>
        have least : s.fcuClass src ≤ y := by simpa [bound] using higher
        intro j
        rw [State.fcuClass_sevStored s y4 y257 j]
        split
        · next same => subst same; exact ⟨least, y4.trans (le_max_left ..)⟩
        · exact ⟨le_rfl, le_max_right ..⟩

theorem State.sevNibbles_classesKept (bound : s.fcuFree m = false) (l : List Nat) (src x : Nat → Nat) :
    s.ClassesKept (s.each l fun j u => u.sevNibble m (src j) (x j)) := by
  induction l generalizing s with
  | nil => exact .of_eq fun _ => rfl
  | cons j l ih =>
    exact (State.sevNibble_classesKept bound (src j) (x j)).trans (ih ((State.sevNibble_fcuFree (src j) (x j)).trans bound))

theorem State.sevWrite_classesKept (bound : s.fcuFree m = false) (k : Nat) (a : Access) (v : BitVec 64) :
    s.ClassesKept (s.sevWrite m k a v) := by
  rw [State.sevWrite, State.fcuOwned]
  split
  · exact State.sevNibbles_classesKept bound _ _ _
  · exact .of_eq s.fcuClass_cfgViol

theorem State.access_classesKept {r : Nat} {st : Option (BitVec 64)} {f : State → State} (h : s.ClassesKept (f s)) :
    s.ClassesKept (s.access m r st f) := by
  have same : s.ClassesKept s := .of_eq fun _ => rfl
  rw [State.access]
  split
  · exact same
  · split
    · exact .of_eq fun _ => rfl
    · split
      · exact .of_eq fun _ => rfl
      · exact h

theorem State.sevWrite_of_may (may : s.fcuMay m = true) (k : Nat) (a : Access) (v : BitVec 64) : s.sevWrite m k a v =
    let js := if a = .w64 then List.range 16 else if a = .lo32 then List.range 8 else (List.range 8).map (· + 8)
    s.each js fun j u => u.sevNibble m (16 * k + j) ((FCU_SEV_SEV k j).of (accMerge a (s.reg (FCU_SEV k)) v)) := by
  rw [State.sevWrite, State.fcuOwned, if_pos may]
  cases a <;> rfl

/-! Pair forces. -/

theorem State.pfrcWrite_taken (may : s.fcuMay m = true) {a : Access} {v : BitVec 64}
    (free : FCU_PFRC_EN.of (accMerge a (s.reg FCU_PFRC) v) ≠ 1 ∨
      s.pfrcSource = some (FCU_PFRC_SRC.of (accMerge a (s.reg FCU_PFRC) v)) ∨
      s.fcuClass (FCU_PFRC_SRC.of (accMerge a (s.reg FCU_PFRC) v)) ≠ 4 ∨ m = .zs) : s.pfrcWrite m a v =
      let w := accMerge a (s.reg FCU_PFRC) v
      s.pfrcSet (FCU_PFRC_EN.of w) (FCU_PFRC_SRC.of w) := by
  refine (if_pos may).trans (if_neg ?_)
  simp only [Bool.and_eq_true, beq_iff_eq, bne_iff_ne]
  tauto

theorem State.pfrcWrite_barred (may : s.fcuMay m = true) {a : Access} {v : BitVec 64}
    (en : FCU_PFRC_EN.of (accMerge a (s.reg FCU_PFRC) v) = 1)
    (new : s.pfrcSource ≠ some (FCU_PFRC_SRC.of (accMerge a (s.reg FCU_PFRC) v)))
    (final : s.fcuClass (FCU_PFRC_SRC.of (accMerge a (s.reg FCU_PFRC) v)) = 4) (foreign : m ≠ .zs) :
    s.pfrcWrite m a v = s.raiseBit FCU_IRQ_CFG_VIOL :=
  (if_pos may).trans (if_pos (by simp [en, new, final, foreign]))

/-! Timers. -/

theorem State.tmrField_free (free : s.fcuFree m = true) (f : Fld) (x : Nat) (longer : Bool) :
    s.tmrField m f x longer = s.put f x := if_neg (by rw [free, Bool.not_true, Bool.and_false]; exact Bool.false_ne_true)

theorem State.tmrField_over (bound : s.fcuFree m = false) (f : Fld) (x : Nat) (longer : Bool) :
    s.tmrField m f x longer = if longer then s.raiseBit FCU_IRQ_CFG_VIOL else s.put f x := by
  rw [State.tmrField, bound, Bool.not_false, Bool.and_true]

theorem State.tmrField_fcuFree (f : Fld) (x : Nat) (longer : Bool) :
    (s.tmrField m f x longer).fcuFree m = s.fcuFree m := by
  rw [State.tmrField]
  split <;> rfl

/-- A timer field keeps the other fields of FCU_TMR. -/
theorem State.fld_tmrField {f g : Fld} (x : Nat) (longer : Bool) (timer : g.addr = FCU_TMR)
    (apart : f.lo + f.width ≤ g.lo ∨ g.lo + g.width ≤ f.lo) (within : g.lo + g.width ≤ 64) :
    (s.tmrField m f x longer).fld g = s.fld g := by
  rw [State.tmrField]
  split
  · exact fld_put_addr _ _ _ _ (by rw [timer]; decide)
  · exact fld_put_bits _ _ _ _ apart within

/-- T1 = 0 is the longest T1. -/
theorem longer_T1 {x y : Nat} (hx : x < 65536) (hy : y < 65536) :
    (if x == 0 then 65536 else x) < (if y == 0 then 65536 else y) ↔ x ≠ 0 ∧ (y = 0 ∨ x < y) := by
  by_cases x0 : x = 0 <;> by_cases y0 : y = 0 <;> simp [x0, y0] <;> omega

theorem State.tmrWrite_free (may : s.fcuMay m = true) (free : s.fcuFree m = true) (a : Access) (v : BitVec 64) :
    s.tmrWrite m a v =
      let w := accMerge a (s.reg FCU_TMR) v
      ((s.put FCU_TMR_T1 (FCU_TMR_T1.of w)).put FCU_TMR_T2 (FCU_TMR_T2.of w)).put FCU_TMR_T3 (FCU_TMR_T3.of w) := by
  refine (if_pos may).trans ?_
  simp only [State.tmrField_free free]
  rw [State.tmrField_free (s := s.put FCU_TMR_T1 _) free, State.tmrField_free (s := (s.put FCU_TMR_T1 _).put FCU_TMR_T2 _) free]

theorem State.tmrWrite_over (may : s.fcuMay m = true) (bound : s.fcuFree m = false) (a : Access) (v : BitVec 64) :
    s.tmrWrite m a v =
      let w := accMerge a (s.reg FCU_TMR) v
      let viol := fun (t : State) => t.raiseBit FCU_IRQ_CFG_VIOL
      let t1 := if s.fld FCU_TMR_T1 ≠ 0 ∧ (FCU_TMR_T1.of w = 0 ∨ s.fld FCU_TMR_T1 < FCU_TMR_T1.of w) then viol s
        else s.put FCU_TMR_T1 (FCU_TMR_T1.of w)
      let t2 := if s.fld FCU_TMR_T2 < FCU_TMR_T2.of w then viol t1 else t1.put FCU_TMR_T2 (FCU_TMR_T2.of w)
      if s.fld FCU_TMR_T3 < FCU_TMR_T3.of w then viol t2 else t2.put FCU_TMR_T3 (FCU_TMR_T3.of w) := by
  have small (w : BitVec 64) : FCU_TMR_T1.of w < 65536 := Nat.mod_lt _ (by decide)
  have longer := longer_T1 (x := s.fld FCU_TMR_T1) (small (s.reg FCU_TMR)) (small (accMerge a (s.reg FCU_TMR) v))
  refine (if_pos may).trans ?_
  dsimp only
  rw [State.tmrField_over (by rw [State.tmrField_fcuFree, State.tmrField_fcuFree, bound]),
    State.fld_tmrField _ _ rfl (by decide) (by decide), State.fld_tmrField _ _ rfl (by decide) (by decide),
    State.tmrField_over (by rw [State.tmrField_fcuFree, bound]), State.fld_tmrField _ _ rfl (by decide) (by decide),
    State.tmrField_over bound]
  simp only [decide_eq_true_eq, longer]

end Severity

/-! Pair faults. -/

theorem pairFault_read {s : State} {c : Fin 384} (on : s.fcuClamped c = false) (linked : s.fcuCut c = false)
    (may : c.val < 352 ∨ s.pfrcSource = some c.val) : execPairFault c s = .next (s.pairFault c) := by
  refine congrArg Host.Outcome.next (if_neg ?_)
  simpa [on, linked, or_iff_not_imp_left] using may

end Sys2Proof.Machine
end

section
/-! THEOREMS. The obligations of spec/17 on the fault collector. -/

namespace Sys2Proof.Machine

/-- Settles O57: by nibbles, each of which rises, or is not taken. -/
theorem severityNeverLowered : Obligations.SeverityNeverLowered := by
  intro s t m k a v bound taken j _
  injection taken with eq
  subst eq
  exact State.access_classesKept (State.sevWrite_classesKept bound k a v) j

/-- Settles O38: by the writer's right and the state of the source. -/
theorem faultCollectorCommandsComplete : Obligations.FaultCollectorCommandsComplete := by
  have next {a b : State} (e : a = b) : (.next a : Out) = .next b := congrArg Host.Outcome.next e
  refine ⟨?wires, ?pair, ?ack, ?late, ?escalate, ?recovery, ?force, ?pairForce, ?pairBarred, ?severity, ?timersFree, ?timers⟩
  case wires => exact fun s c b => ⟨rfl, rfl⟩
  case pair => exact fun s c on linked may => pairFault_read on linked may
  case ack => exact fun s m c reached may => next ((access_open reached).trans (if_pos may))
  case late => exact fun s c run pend t1 => next (if_pos (by simp [run, pend, t1]))
  case escalate => exact fun s c run pend => next (if_pos (by simp [run, pend]))
  case recovery => exact fun s => ⟨rfl, rfl, rfl⟩
  case force => exact fun s m k a v reached may => next ((access_open reached).trans (if_pos may))
  case pairForce => exact fun s m a v reached may free => next ((access_open reached).trans (State.pfrcWrite_taken may free))
  case pairBarred =>
    exact fun s m a v reached may en new final foreign =>
      next ((access_open reached).trans (State.pfrcWrite_barred may en new final foreign))
  case severity => exact fun s m k a v reached may => next ((access_open reached).trans (State.sevWrite_of_may may k a v))
  case timersFree =>
    exact fun s m a v reached may seq running =>
      next ((access_open reached).trans (State.tmrWrite_free may (by rw [State.fcuFree, seq, running]; rfl) a v))
  case timers =>
    exact fun s m a v reached may bound => next ((access_open reached).trans (State.tmrWrite_over may bound a v))

end Sys2Proof.Machine
end
